-- ==== Sys2Proof/Word.lean ====
section
/-! DEFINITION. The word types of the OV9 and the type of its sparse stores. -/

namespace Sys2Proof

/-- A byte of memory. -/
abbrev Byte := BitVec 8
/-- A 32-bit word: a scalar register, a lane of a vector register, a unit of code (R2, R136). -/
abbrev Word := BitVec 32
/-- A 64-bit value: an even and odd pair of registers, a virtual address, a unit address. -/
abbrev DWord := BitVec 64
/-- A 128-bit value: an FX128 integer, an accumulator element, a latch lane. -/
abbrev Quad := BitVec 128

/-- A store of `w`-bit cells by number, as plain data: cells in rising order of their number, and
no cell that equals zero, which is what an unlisted number reads as. -/
abbrev Sparse (w : Nat) := List (Nat × BitVec w)

end Sys2Proof
end

