-- ==== Sys2Proof/Config.lean ====
section
/-! DEFINITION. What an implementation fixes, and the values the manual leaves open. A free value is
an opaque constant: nothing in Lean can say which value it is. -/

namespace Sys2Proof.Config

/-- The group width W (R9). -/
def width : Nat := 32
/-- The instruction-set level of this device (R1, R26). -/
def level : Nat := 2

/-- Free value (R211): which of the results within the stated error bound `frcp` gives for an input. -/
opaque approxRcp : BitVec 32 → Nat
/-- Free value (R211): the choice of `frsq` among the results within its bound. -/
opaque approxRsq : BitVec 32 → Nat
/-- Free value (R211): the choice of `fexp2` among the results within its bound. -/
opaque approxExp2 : BitVec 32 → Nat
/-- Free value (R211): the choice of `flog2` among the results within its bound. -/
opaque approxLog2 : BitVec 32 → Nat
/-- Free value (R211): the choice of `fsin` among the results within its bound. -/
opaque approxSin : BitVec 32 → Nat
/-- Free value (R211): the choice of `fcos` among the results within its bound. -/
opaque approxCos : BitVec 32 → Nat
/-- Free value (R211): the choice of `ftanh` among the results within its bound. -/
opaque approxTanh : BitVec 32 → Nat
/-- Free value: what a scalar source reads from a latch that a vector instruction wrote; R166 lets a
scalar field select a latch and no rule says which lane it reads. The argument is `State.fresh`. -/
opaque scalarOfVectorLatch : Nat → BitVec 64
/-- Free value: an immediate, a literal or a special source as an operand of an 8-bit floating-point type or
L6, by TYPE code and value; the table of R147 has no row for these types. -/
opaque narrowConstant : BitVec 4 → BitVec 32 → BitVec 8
/-- Free value: an element above the lowest of an immediate, a literal or a special source that `cvt` reads
as a type of 8 or 16 bits, by TYPE code, value and position; R147 gives the lowest element alone. -/
opaque constantElement : BitVec 4 → BitVec 32 → Nat → BitVec 16
/-- Free value (R105): where in placement 7 the block-store controller begins to look for a free VA for a new name. -/
opaque kvPlace : Nat → Nat
/-- Free value (R105): the pool of a context, in blocks, that the supervisor sets. -/
opaque kvPool : BitVec 16 → Nat
/-- Free value (R388): the snapshot reserve of a context, in granules of 64 KiB, that the MP sizes. -/
opaque snapReserve : BitVec 16 → Nat
/-- Free value (R313): where in placement 4 the MP begins to look for a free VA for a context's page of counters. -/
opaque counterPlace : BitVec 16 → Nat
/-- Free value (R381): where in placement 4 the MP begins to look for free VAs for a context's error queue. -/
opaque errqPlace : BitVec 16 → Nat
/-- Free value (R381): LOGN of a context's error queue; the model takes it modulo its range. -/
opaque errqLog : BitVec 16 → Nat
/-- Free value (R358): the control node's monitoring context. -/
opaque monitorAsid : BitVec 16
/-- Free value (R358): where in placement 4 the MP begins to look for free VAs for the thermal ring. -/
opaque thermalPlace : Nat
/-- Free value (R358): LOGN of the thermal ring; the model takes it modulo its range. -/
opaque thermalLog : Nat
/-- Free value (R28, R413): the block-store capacity the MP sets for so many usable frames, layers having been
retired. -/
opaque kvSize : Nat → Nat
/-- Free value (R355, R356): the Falcon-1024 signature of these bytes under the identity key. -/
opaque falconSign : List (BitVec 8) → List (BitVec 8)
/-- Free value (R355): the Mufedun verification key that the boot ROM holds. -/
opaque mufedunKey : List (BitVec 8)
/-- Free value (R355, R420): whether a Falcon-1024 signature over a message verifies against a key; the arguments are the key, the
message, the signature. -/
opaque falconOk : List (BitVec 8) → List (BitVec 8) → List (BitVec 8) → Bool
/-- Free value (R229, R393): the address that TADDR names for a register lane whose poison came from no address. -/
opaque poisonFrom : Nat → Nat
/-- Free value (R388, R414): the stack and layer, as 8 × stack + layer, that hold a snapshot's copy of a granule. -/
opaque snapPlace : Nat → Nat
/-- Free value (R328, R402): the size code of the save area the MP maps for a gang; the model takes it modulo its range. -/
opaque saveSize : Nat → Nat
/-- Free value (R328, R402): where the MP begins to look for a free VA for a gang's save area. -/
opaque savePlace : Nat → Nat

end Sys2Proof.Config
end

