-- ==== Sys2Proof/Syntax.lean ====
section
/-! DEFINITION. The instructions of the OV9: one constructor of `Instr` for each row of the opcode
table, and the operand types they share. The rows that are events of the device (they have no
encoding) are constructors too, with the data of the event. -/

namespace Sys2Proof

/-- The TYPE codes of m12 (R149). -/
inductive Ty where
  | i32 | n32 | f32 | i16 | n16 | f16 | bf16 | i8 | n8 | e4m3 | e5m2 | l6 | i64 | n64 | f64 | fx128
  deriving DecidableEq, Repr

/-- The special sources (R146). -/
inductive Special where
  | lane | group | member | width | gang
  deriving DecidableEq, Repr

/-- A cache that a line leaves: a core's L1, a cluster's cache, a core's instruction cache (R16, R86). -/
inductive CacheLevel where
  | l1 | cluster | code
  deriving DecidableEq, Repr

/-- A source field a9, b9 or c9 (R145). A field that names a mask, a pair, a handle, a slot, a tile, a
family or a block of registers is `reg` with the number; a field that must be zero is `reg 0`. -/
inductive Src where
  | reg (n : BitVec 8)
  | latch (k : BitVec 2)
  | imm (n : BitVec 6)
  | bcast (n : BitVec 6)
  | lit
  | special (x : Special)
  deriving DecidableEq, Repr

/-- The operands of a Form A instruction (R143). -/
structure AArgs where
  d : BitVec 6
  a : BitVec 6
  b : BitVec 6
  deriving DecidableEq, Repr

/-- The operands of a Form B or Form C instruction (R143, R145, R148, R149). `lit` is the literal of
Form C and `none` in Form B; `r61` is bit 61, which every instruction ignores. -/
structure Args where
  sup : Bool
  d : BitVec 8
  a : Src
  b : Src
  c : Src
  fn : BitVec 6
  ty : Ty
  rnd : BitVec 3
  hint : BitVec 2
  r61 : Bool
  lit : Option Word
  deriving DecidableEq, Repr

/-- The operands of `brv` (R151, R172): b9 and c9 hold the join offset. -/
structure BrvArgs where
  m : BitVec 4
  join : BitVec 18
  off : Word
  rnd : BitVec 3
  hint : BitVec 2
  r61 : Bool
  deriving DecidableEq, Repr

/-- One sensor reading of the power loop (R357): core, die, index, temperature in 1/16 degrees. -/
structure Sensor where
  core : Nat
  die : Bool
  idx : Bool
  temp : BitVec 16
  deriving DecidableEq, Repr

/-- Where a checkpoint goes on the safe tier, and the limit of its wait in ticks (R345, R346). -/
structure SafePlace where
  dest : Nat
  limit : Nat
  deriving DecidableEq, Repr

/-- What the MP reads in one pass of the power loop (R357): the die sensors, the package's draw in watts, the coolant's inlet
temperature in 1/16 degrees and its flow in millilitres a minute. -/
structure PowerReading where
  sensors : List Sensor
  draw : Nat
  inlet : BitVec 16
  flow : Nat
  deriving DecidableEq, Repr

/-- Two executions of an instruction under RED have differed (R322, R412): the group and split that issue it, and what the executions of
the rerun give at each lane: three of a vector instruction, at rotations 0, 1 and 2; of a scalar one two, at place 0. -/
structure Mismatch where
  gid : Nat
  sp : Nat
  x0 : List Nat
  x1 : List Nat
  x2 : List Nat
  deriving DecidableEq, Repr

/-- What a window grant yields (R334): the destination's ASID and VA, and the size of the page in the codes of R88. -/
structure WindowTarget where
  asid : BitVec 16
  va : DWord
  size : Nat
  deriving DecidableEq, Repr

/-- Where a start stands (R349, R351): the supply raises power domain 1 to 4, or step 2 to 8 is performed. -/
inductive StartAt where
  | domain (d : Nat)
  | step (k : Nat)
  deriving DecidableEq, Repr

/-- What a start meets (R94, R349 to R355): the split of the banks that the request names, the firmware image and the signature over
it, the handler that the firmware installs (R22), the units that fail the scan of a cold start and those that fail training (R407
names them), the fabric ports that come up and the device id that their training assigns (R21, R29). `overtaken` says that another
request comes while the start stands there (R354). -/
structure StartInput where
  banks : Option (Nat × Nat)
  image : List Byte
  signature : List Byte
  tvec : DWord
  scan : List (Nat × Nat)
  train : List (Nat × Nat)
  ports : BitVec 16
  devid : Option (BitVec 12)
  overtaken : Option StartAt
  deriving DecidableEq, Repr

/-- What the MP changes in the page tables (R87, R90). -/
inductive MapChange where
  | remove (asid : BitVec 16) (va : DWord)
  | insert (pte : Quad)
  | beginResize (c w : Nat) (bits : Nat)
  | advance (c w : Nat)
  deriving DecidableEq, Repr

/-- The steps of the part, one constructor per row of the opcode table. -/
inductive Instr where
  /-- Form A scalar add: d receives (a + b) mod 2^32 (R167). -/
  | sadd (x : AArgs)
  /-- Form C scalar add, with a literal, immediate or special source (R167). -/
  | saddC (x : Args)
  /-- Form A scalar subtract modulo 2^32 (R167). -/
  | ssub (x : AArgs)
  /-- Form C scalar subtract modulo 2^32 (R167). -/
  | ssubC (x : Args)
  /-- Form A scalar multiply, low 32 bits (R167). -/
  | smul (x : AArgs)
  /-- Form C scalar multiply, low 32 bits (R167). -/
  | smulC (x : Args)
  /-- Form A signed multiply, high 32 bits (R167). -/
  | smulh (x : AArgs)
  /-- Form C signed multiply, high 32 bits (R167). -/
  | smulhC (x : Args)
  /-- Form A unsigned multiply, high 32 bits (R167). -/
  | smulhn (x : AArgs)
  /-- Form C unsigned multiply, high 32 bits (R167). -/
  | smulhnC (x : Args)
  /-- Form A signed division, with a defined result on division by zero and overflow (R168). -/
  | sdiv (x : AArgs)
  /-- Form C signed division (R168). -/
  | sdivC (x : Args)
  /-- Form A unsigned division (R168). -/
  | sdivn (x : AArgs)
  /-- Form C unsigned division (R168). -/
  | sdivnC (x : Args)
  /-- Form A signed remainder, taking the sign of the dividend (R168). -/
  | srem (x : AArgs)
  /-- Form C signed remainder (R168). -/
  | sremC (x : Args)
  /-- Form A unsigned remainder (R168). -/
  | sremn (x : AArgs)
  /-- Form C unsigned remainder (R168). -/
  | sremnC (x : Args)
  /-- Form A bitwise AND (R167). -/
  | sand (x : AArgs)
  /-- Form C bitwise AND (R167). -/
  | sandC (x : Args)
  /-- Form A bitwise OR (R167). -/
  | sor (x : AArgs)
  /-- Form C bitwise OR (R167). -/
  | sorC (x : Args)
  /-- Form A bitwise XOR (R167). -/
  | sxor (x : AArgs)
  /-- Form C bitwise XOR (R167). -/
  | sxorC (x : Args)
  /-- Form A a AND NOT b (R167). -/
  | sandn (x : AArgs)
  /-- Form C a AND NOT b (R167). -/
  | sandnC (x : Args)
  /-- Form A shift left, giving 0 for shifts of 32 or more (R167). -/
  | sshl (x : AArgs)
  /-- Form C shift left (R167). -/
  | sshlC (x : Args)
  /-- Form A logical shift right (R167). -/
  | sshr (x : AArgs)
  /-- Form C logical shift right (R167). -/
  | sshrC (x : Args)
  /-- Form A arithmetic shift right (R167). -/
  | ssra (x : AArgs)
  /-- Form C arithmetic shift right (R167). -/
  | ssraC (x : Args)
  /-- Form A rotate left by b mod 32 (R167). -/
  | srot (x : AArgs)
  /-- Form C rotate left (R167). -/
  | srotC (x : Args)
  /-- Form A signed minimum (R167). -/
  | smin (x : AArgs)
  /-- Form C signed minimum (R167). -/
  | sminC (x : Args)
  /-- Form A signed maximum (R167). -/
  | smax (x : AArgs)
  /-- Form C signed maximum (R167). -/
  | smaxC (x : Args)
  /-- Form A unsigned minimum (R167). -/
  | sminn (x : AArgs)
  /-- Form C unsigned minimum (R167). -/
  | sminnC (x : Args)
  /-- Form A unsigned maximum (R167). -/
  | smaxn (x : AArgs)
  /-- Form C unsigned maximum (R167). -/
  | smaxnC (x : Args)
  /-- Form A compare under condition cc, writing 1 or 0 (R169). -/
  | scmp (cc : BitVec 4) (x : AArgs)
  /-- Form C compare, with cc in fn6[3:0] (R169). -/
  | scmpC (x : Args)
  /-- Form A select: a if the prior d is nonzero, else b (R167). -/
  | ssel (x : AArgs)
  /-- Form C select (R167). -/
  | sselC (x : Args)
  /-- Form A scalar move (R167). -/
  | smov (x : AArgs)
  /-- Form C scalar move of a literal, immediate or special source (R167). -/
  | smovC (x : Args)
  /-- Form A count of leading zeros (R167). -/
  | sclz (x : AArgs)
  /-- Form C count of leading zeros (R167). -/
  | sclzC (x : Args)
  /-- Form A population count (R167). -/
  | spopc (x : AArgs)
  /-- Form C population count (R167). -/
  | spopcC (x : Args)
  /-- Form A bit reversal (R167). -/
  | sbrev (x : AArgs)
  /-- Form C bit reversal (R167). -/
  | sbrevC (x : Args)
  /-- Form A zero-extending bit-field extract (R170). -/
  | sbfx (x : AArgs)
  /-- Form C zero-extending bit-field extract (R170). -/
  | sbfxC (x : Args)
  /-- Form A sign-extending bit-field extract (R170). -/
  | sbfxSx (x : AArgs)
  /-- Form C sign-extending bit-field extract (R170). -/
  | sbfxSxC (x : Args)
  /-- Form A bit-field insert into the prior d (R170). -/
  | sbfi (x : AArgs)
  /-- Form C bit-field insert (R170). -/
  | sbfiC (x : Args)
  /-- Form A 64-bit add of even-odd pairs (R171). -/
  | sadd64 (x : AArgs)
  /-- Form C 64-bit add, with a sign-extended literal (R171). -/
  | sadd64C (x : Args)
  /-- Form A 64-bit subtract of pairs (R171). -/
  | ssub64 (x : AArgs)
  /-- Form C 64-bit subtract (R171). -/
  | ssub64C (x : Args)
  /-- Form A 64-bit multiply of pairs, modulo 2^64 (R171). -/
  | smul64 (x : AArgs)
  /-- Form C 64-bit multiply (R171). -/
  | smul64C (x : Args)
  /-- Unconditional branch to PC plus the literal, checked (R173). -/
  | br (x : Args)
  /-- Uniform conditional branch under condition cc (R173). -/
  | brc (x : Args)
  /-- Divergent branch that may reuse a record, create a split or run mask-serial (R43). -/
  | brv (x : BrvArgs)
  /-- Divergent branch taken where the mask bit is clear (R174). -/
  | brvNot (x : BrvArgs)
  /-- Indirect jump to the unit address held in a pair (R173). -/
  | jmp (x : Args)
  /-- Pushes a reconvergence record and transfers to the literal target (R175). -/
  | call (x : Args)
  /-- Pushes a record and transfers to the unit address in a pair (R175). -/
  | callIndirect (x : Args)
  /-- Transfers to the top record's JPC, where R44 merges (R175). -/
  | ret (x : Args)
  /-- Unchecked transfer to the top record's JPC (R176). -/
  | join (x : Args)
  /-- Decrements a counter and branches backward while it is nonzero (R173). -/
  | loop (x : Args)
  /-- Pushes the predicate top AND a mask (R48). -/
  | pushp (x : Args)
  /-- Replaces the predicate top with the entry below AND NOT top (R48). -/
  | invp (x : Args)
  /-- Pops the predicate stack (R48). -/
  | popp (x : Args)
  /-- Retires the lanes of the execution mask for good (R55). -/
  | exit (x : Args)
  /-- A split that reaches its top record's JPC switches to pending lanes, or parks and merges (R44). -/
  | reconverge
  /-- Writes the split state word (R179). -/
  | spinfoState (x : Args)
  /-- Writes the split's active mask (R179). -/
  | spinfoActive (x : Args)
  /-- Writes the execution mask (R179). -/
  | spinfoExec (x : Args)
  /-- Moves the split to the end of the group's round-robin order (R180). -/
  | yield (x : Args)
  /-- Has no effect (R180). -/
  | nop (x : Args)
  /-- Raises breakpoint 0x0B with TADDR 0 (R180). -/
  | brk (x : Args)
  /-- Raises breakpoint 0x0B with TADDR holding the literal code (R180). -/
  | brkCode (x : Args)
  /-- Raises software trap 0x0A carrying a code (R194). -/
  | trap (x : Args)
  /-- Restores the trapped split from its shadow and resumes at TPC, or removes the group after a save (R193). -/
  | rte (x : Args)
  /-- Writes FMT after the encoding and profile checks (R68). -/
  | setfmt (x : Args)
  /-- Writes the split's rounding mode (R183). -/
  | setrnd (x : Args)
  /-- Reads a special register into a scalar register or pair, waiting where R182 requires (R181). -/
  | sget (x : Args)
  /-- Writes a special register that has no instruction of its own (R181). -/
  | sput (x : Args)
  /-- Sets the team's live-tile mask for pre-emption saves (R184). -/
  | ltm (x : Args)
  /-- Marks the group point-aware and halts it if a pre-emption is pending (R185). -/
  | ppoint (x : Args)
  /-- Releases at .dev, reads a launch record and queues a grid, writing a status (R186). -/
  | lnch (x : Args)
  /-- Releases at .dev and adds n to a completion counter (R187). -/
  | sigDev (x : Args)
  /-- Releases at .sys and adds n to a completion counter (R187). -/
  | sigSys (x : Args)
  /-- Returns the team's next persistent-split work item, or DONE (R324). -/
  | wget (x : Args)
  /-- Changes a cluster SRAM bank's role, once earlier commands on it are ordered (R95). -/
  | bmode (x : Args)
  /-- Invalidates instruction-cache lines over a range (R189). -/
  | xinv (x : Args)
  /-- Discards leases of clean, unpinned L1 lines over a range (R189). -/
  | cmaintInv (x : Args)
  /-- Merges the core's update-only lines over a range (R189). -/
  | cmaintMerge (x : Args)
  /-- Merges, writes back and invalidates lines of an ASID over a range, in every cache (R189). -/
  | cmaintPurge (x : Args)
  /-- Purges every line of an ASID, device-wide (R189). -/
  | cmaintPurgeasid (x : Args)
  /-- Privileged; terminates the issuing group's context with a halt record (R190). -/
  | halt (x : Args)
  /-- Releases at .dev and sends a service request to the MP, holding the group for the reply (R190). -/
  | sysc (x : Args)
  /-- The MP's service reply is written to the waiting group's register (R190). -/
  | syscReply (gid sp : Nat) (value : Word)
  /-- Lane-wise integer add with wrap (R202). -/
  | vadd (x : Args)
  /-- Lane-wise integer subtract (R202). -/
  | vsub (x : Args)
  /-- Lane-wise integer multiply, low bits (R202). -/
  | vmul (x : Args)
  /-- Lane-wise integer multiply, high bits (R202). -/
  | vmulh (x : Args)
  /-- Lane-wise multiply-add with wrap (R202). -/
  | vmad (x : Args)
  /-- Lane-wise integer minimum (R202). -/
  | vmin (x : Args)
  /-- Lane-wise integer maximum (R202). -/
  | vmax (x : Args)
  /-- Lane-wise absolute value (R202). -/
  | vabs (x : Args)
  /-- Lane-wise AND (R202). -/
  | vand (x : Args)
  /-- Lane-wise OR (R202). -/
  | vor (x : Args)
  /-- Lane-wise XOR (R202). -/
  | vxor (x : Args)
  /-- Lane-wise a AND NOT b (R202). -/
  | vandn (x : Args)
  /-- Lane-wise shift left (R202). -/
  | vshl (x : Args)
  /-- Lane-wise logical shift right (R202). -/
  | vshr (x : Args)
  /-- Lane-wise arithmetic shift right (R202). -/
  | vsra (x : Args)
  /-- Lane-wise count of leading zeros (R202). -/
  | vclz (x : Args)
  /-- Lane-wise population count (R202). -/
  | vpopc (x : Args)
  /-- Lane-wise bit-field extract (R202). -/
  | vbfx (x : Args)
  /-- Lane-wise bit-field insert (R202). -/
  | vbfi (x : Args)
  /-- Lane-wise integer compare into a mask register (R202). -/
  | vcmp (x : Args)
  /-- Lane-wise select by a mask (R202). -/
  | vsel (x : Args)
  /-- Lane-wise move (R202). -/
  | vmov (x : Args)
  /-- Four-way 8-bit dot product with saturating accumulation (R203). -/
  | vdot4 (x : Args)
  /-- Four-way 8-bit dot product with b of opposite signedness (R203). -/
  | vdot4Mix (x : Args)
  /-- Two-way 16-bit dot product with saturating accumulation (R203). -/
  | vdot2 (x : Args)
  /-- Two-way 16-bit dot product with b of opposite signedness (R203). -/
  | vdot2Mix (x : Args)
  /-- Adds an extended 32-bit value to a 64-bit pair per lane (R204). -/
  | vadd64 (x : Args)
  /-- Floating-point add, rounded once (R206). -/
  | fadd (x : Args)
  /-- Floating-point subtract (R206). -/
  | fsub (x : Args)
  /-- Floating-point multiply (R206). -/
  | fmul (x : Args)
  /-- Fused multiply-add, rounded once (R206). -/
  | ffma (x : Args)
  /-- Floating-point minimum that prefers non-NaN (R207). -/
  | fmin (x : Args)
  /-- Floating-point maximum that prefers non-NaN (R207). -/
  | fmax (x : Args)
  /-- Floating-point compare under a condition into a mask (R208). -/
  | fcmp (x : Args)
  /-- Floating-point divide on the special-function unit (R206). -/
  | fdiv (x : Args)
  /-- Floating-point square root (R206). -/
  | fsqrt (x : Args)
  /-- Approximate reciprocal (R211). -/
  | frcp (x : Args)
  /-- Approximate reciprocal square root (R211). -/
  | frsq (x : Args)
  /-- Approximate 2^x (R211). -/
  | fexp2 (x : Args)
  /-- Approximate log2 x (R211). -/
  | flog2 (x : Args)
  /-- Approximate sine (R211). -/
  | fsin (x : Args)
  /-- Approximate cosine (R211). -/
  | fcos (x : Args)
  /-- Approximate hyperbolic tangent (R211). -/
  | ftanh (x : Args)
  /-- Classifies a floating-point value into one bit (R209). -/
  | fclass (x : Args)
  /-- Computes a × 2^b, rounded (R206). -/
  | fscale (x : Args)
  /-- Magnitude of a with b's sign (R210). -/
  | fsgnCopy (x : Args)
  /-- Magnitude of a with the opposite of b's sign (R210). -/
  | fsgnNcopy (x : Args)
  /-- Magnitude of a with the XOR of both signs (R210). -/
  | fsgnXor (x : Args)
  /-- Accumulates a rounded product into an FX128 quad (R213). -/
  | fxacc (x : Args)
  /-- Converts FX128 to a floating-point or integer type (R213). -/
  | fxcvt (x : Args)
  /-- Converts a value into FX128 at an anchor (R213). -/
  | fxset (x : Args)
  /-- Saturating FX128 add (R213). -/
  | fxadd (x : Args)
  /-- Repacks FX128 to FX64 at a new anchor (R214). -/
  | fxpkFx64 (x : Args)
  /-- Repacks FX64 to FX128 at a new anchor (R214). -/
  | fxpkFx128 (x : Args)
  /-- Converts one element per lane between types (R215). -/
  | cvt (x : Args)
  /-- Converts and inserts an element into the destination lane (R215). -/
  | cvtIns (x : Args)
  /-- Quantises 32-lane blocks with a chosen E8 scale (R216). -/
  | quant (x : Args)
  /-- Dequantises a code and scale to a floating-point type (R217). -/
  | dequant (x : Args)
  /-- Converts to an L6 code (R218). -/
  | lcvtTo (x : Args)
  /-- Converts an L6 code to its value (R218). -/
  | lcvtFrom (x : Args)
  /-- Forms the L6 product of two codes (R218). -/
  | lcvtProd (x : Args)
  /-- Permutes lanes by index, with fill for exited or unlaunched sources (R220). -/
  | perm (x : Args)
  /-- Shuffles up, down, xor or rot within segments (R220). -/
  | shfl (x : Args)
  /-- Broadcasts a named lane (R220). -/
  | bcast (x : Args)
  /-- Broadcasts the lowest lane of the execution mask (R220). -/
  | bcastFirst (x : Args)
  /-- Butterfly reduction across a segment (R221). -/
  | redx (x : Args)
  /-- Inclusive or exclusive prefix scan across lanes (R221). -/
  | scanx (x : Args)
  /-- Writes a mask of lanes whose operand is nonzero (R222). -/
  | ballot (x : Args)
  /-- Writes 1 if every active lane is nonzero (R222). -/
  | voteAll (x : Args)
  /-- Writes 1 if any active lane is nonzero (R222). -/
  | voteAny (x : Args)
  /-- Writes 1 if all active lanes are equal (R222). -/
  | voteUni (x : Args)
  /-- Writes Philox words for element, draw and stream (R223). -/
  | rng (x : Args)
  /-- Maps a random word to an FP32 value in [0, 1) (R80). -/
  | rngf (x : Args)
  /-- Reads a per-lane indexed vector register (R224). -/
  | vrd (x : Args)
  /-- Writes a per-lane indexed vector register (R224). -/
  | vwr (x : Args)
  /-- Scalar load from a global VA (R231). -/
  | ld (x : Args)
  /-- Scalar store to a global VA (R231). -/
  | st (x : Args)
  /-- Vector gather load (R231). -/
  | vld (x : Args)
  /-- Vector scatter store (R232). -/
  | vst (x : Args)
  /-- Contiguous vector load (R231). -/
  | vldc (x : Args)
  /-- Contiguous vector store (R233). -/
  | vstc (x : Args)
  /-- Tensor-walk load by coordinates through a handle (R236). -/
  | tld (x : Args)
  /-- Tensor-walk store by coordinates through a handle (R236). -/
  | tst (x : Args)
  /-- Scratchpad load (R234). -/
  | lld (x : Args)
  /-- Scratchpad store (R234). -/
  | lst (x : Args)
  /-- Atomic compare-and-swap at the home (R239). -/
  | atxCas (x : Args)
  /-- Atomic exchange at the home (R239). -/
  | atxXchg (x : Args)
  /-- Reduction into an update-only line of L1 (R122). -/
  | red (x : Args)
  /-- Atomic fetch-and-op at the home (R239). -/
  | atf (x : Args)
  /-- Plain multicast store to a table of destinations (R240). -/
  | mcst (x : Args)
  /-- Reducing multicast store, all or nothing (R241). -/
  | mcstReduce (x : Args)
  /-- Release fence at a scope (R115). -/
  | fenceRel (x : Args)
  /-- Acquire fence at a scope (R115). -/
  | fenceAcq (x : Args)
  /-- Release followed by acquire at a scope (R115). -/
  | fenceAr (x : Args)
  /-- Load followed by an acquire (R116). -/
  | ldacq (x : Args)
  /-- Release followed by a store (R116). -/
  | strel (x : Args)
  /-- Prefetches a line under a lease and never faults (R235). -/
  | pfch (x : Args)
  /-- Loads and validates a tensor record into a handle (R103). -/
  | hld (x : Args)
  /-- Loads a handle from a pool record by index (R243). -/
  | hldPool (x : Args)
  /-- Stores a handle as a tensor record (R243). -/
  | hst (x : Args)
  /-- Sets one field of a handle (R244). -/
  | hset (x : Args)
  /-- Blocking push of a 128-byte entry to a FIFO bank, with a .gang release (R246). -/
  | fpush (x : Args)
  /-- Non-blocking push that reports success or failure (R246). -/
  | fpushTry (x : Args)
  /-- Blocking pop of a FIFO entry, with a .gang acquire (R246). -/
  | fpop (x : Args)
  /-- Non-blocking pop that reports success or failure (R246). -/
  | fpopTry (x : Args)
  /-- Copy-engine command from a memory tile to scratchpad (R250). -/
  | bcopyIn (x : Args)
  /-- Copy-engine fill of an operand slot from a tensor tile (R250). -/
  | bcopyInSlot (x : Args)
  /-- Copy-engine command from scratchpad to a memory tile (R250). -/
  | bcopyOut (x : Args)
  /-- Fills a scratchpad range with a pattern (R253). -/
  | bfillLcl (x : Args)
  /-- Fills a tensor tile with a pattern (R253). -/
  | bfillT (x : Args)
  /-- An engine command finishes and writes its status word, then any barrier arrival (R248). -/
  | engineComplete (cmd : Nat)
  /-- Initialises a team barrier (R255). -/
  | barInit (x : Args)
  /-- Releases at .team and counts an arrival at a barrier (R256). -/
  | barArrive (x : Args)
  /-- Arrives and waits for the phase to complete, then acquires (R256). -/
  | barSync (x : Args)
  /-- Barrier sync that reports invalidation in a status register (R257). -/
  | barSyncSt (x : Args)
  /-- Invalidates a barrier and releases every waiter (R257). -/
  | barInval (x : Args)
  /-- Gang barrier with .gang release and acquire (R258). -/
  | gbar (x : Args)
  /-- Gang barrier with a status register (R258). -/
  | gbarSt (x : Args)
  /-- A waiting bar.sync returns once its phase completes, then acquires (R256). -/
  | barWaitRelease (gid sp : Nat)
  /-- Issues a collective command from a 64-byte record (R260). -/
  | coll (x : Args)
  /-- Creates a block-store name over a zeroed block (R263). -/
  | kvalloc (x : Args)
  /-- Returns a block's placement-7 VA (R263). -/
  | kvget (x : Args)
  /-- Gives a block a second name (R263). -/
  | kvshare (x : Args)
  /-- Removes a block name (R263). -/
  | kvfree (x : Args)
  /-- The block-store controller's reply is written to the waiting group (R262). -/
  | kvReply (gid sp : Nat)
  /-- A write to a shared block page copies the block and remaps the storing name (R106). -/
  | blockCopyOnWrite (asid : BitVec 16) (va : DWord)
  /-- Claims operand slots and accumulator tiles, all or nothing (R268). -/
  | oclaim (x : Args)
  /-- Releases slots and tiles once idle (R269). -/
  | orel (x : Args)
  /-- Fills a slot from scratchpad (R271). -/
  | ofill (x : Args)
  /-- Queues matrix-product quarters into a tile (R272). -/
  | mma (x : Args)
  /-- Gang-wide matrix product with a rendezvous and multicast operands (R275). -/
  | mmag (x : Args)
  /-- Matrix product over listed weight rows (R278). -/
  | mmarow (x : Args)
  /-- The array starts a pass when bands and tokens are free, or the fusion window ends (R274). -/
  | passStart (core : Nat)
  /-- A pass ends, updates its tile and returns its tokens (R274). -/
  | passEnd (pass : Nat)
  /-- Sets a tile's mode and fills its elements (R279). -/
  | aclr (x : Args)
  /-- Converts tile elements and writes them to scratchpad (R280). -/
  | adrain (x : Args)
  /-- Writes a whole tile and its flags unconverted (R282). -/
  | adrainRaw (x : Args)
  /-- Writes a slot's lines and side area unconverted (R282). -/
  | adrainRawSlot (x : Args)
  /-- Sets a tile from scratchpad in its native layout (R281). -/
  | aload (x : Args)
  /-- Adds scratchpad values into a tile (R281). -/
  | aloadAdd (x : Args)
  /-- Restores a tile, with flags, mode and anchor (R282). -/
  | aloadRaw (x : Args)
  /-- Reads a slot's tile-table byte (R284). -/
  | tstateSlot (x : Args)
  /-- Reads a tile's tile-table byte (R284). -/
  | tstateTile (x : Args)
  /-- Reads a tile's flag word (R284). -/
  | tstateFlags (x : Args)
  /-- Checks a tile against its check row and raises 0x31 on mismatch (R286). -/
  | mchk (x : Args)
  /-- Checks a tile and writes the status without raising (R286). -/
  | mchkSt (x : Args)
  /-- Intersects bitmap words and writes match offsets (R290). -/
  | isect (x : Args)
  /-- Sparse INT8 dot product over matched elements (R291). -/
  | isdot (x : Args)
  /-- Outer-product sparse multiply into a triple buffer (R292). -/
  | spmulo (x : Args)
  /-- Sorts and sums triples into a compressed tensor (R293). -/
  | spmerge (x : Args)
  /-- Converts a tile and stores it compressed or dense (R294). -/
  | sptile (x : Args)
  /-- Loads a family record into a family register (R296). -/
  | lshfam (x : Args)
  /-- Projects a vector to hash keys on the matrix array (R298). -/
  | lshproj (x : Args)
  /-- Retrieval command collecting candidate row ids (R300). -/
  | lshprobe (x : Args)
  /-- Retrieval command inserting a row id under the overflow policy (R301). -/
  | lshins (x : Args)
  /-- Retrieval command removing a row id (R301). -/
  | lshdel (x : Args)
  /-- Retrieval command migrating old keys during a rehash (R303). -/
  | lshstep (x : Args)
  /-- Retrieval command scanning a table's statistics (R304). -/
  | lshstat (x : Args)
  /-- A retrieval command finishes and writes its result word (R299). -/
  | retrievalComplete (cmd : Nat)
  /-- A wait on a frozen bucket expires and the command ends with code 8 (R302). -/
  | frozenBucketTimeout (cmd : Nat)
  /-- Computes the scribe of a range (R307). -/
  | scrb (x : Args)
  /-- Compares a range's scribe with a stored entry (R307). -/
  | scrchk (x : Args)
  /-- Adds two scribes (R308). -/
  | scrfold (x : Args)
  /-- Subtracts two scribes (R308). -/
  | scrfoldSub (x : Args)
  /-- Reads and clears the team's scribe-fault register (R309). -/
  | scrrd (x : Args)
  /-- A fetched line is checked for parity and version, and refetched once on a mismatch (R140). -/
  | fetchLine (core : Nat) (asid : BitVec 16) (va : DWord)
  /-- The home slice serves a read and grants a lease (R110). -/
  | homeRead (core : Nat) (asid : BitVec 16) (va : DWord)
  /-- A store arrives at its home and receives its completion time W (R111). -/
  | storeAtHome (n : Nat)
  /-- A pinned sector is released once GT reaches its W (R112). -/
  | sectorUnpin (core : Nat) (asid : BitVec 16) (va : DWord)
  /-- The MP maps or declines a page, and held accesses replay or fault (R91). -/
  | pageMapReply (asid : BitVec 16) (va : DWord) (pte : Option Quad)
  /-- The page-attribute cache is filled from the home TLB (R228). -/
  | pacFill (core : Nat) (asid : BitVec 16) (va : DWord)
  /-- A launch message from the control node is checked and queued, with a reply (R311). -/
  | launchMessage (queue : Nat) (words : List Word)
  /-- The dispatcher places a gang on a fitting block of cores (R315). -/
  | gangPlacement
  /-- An eligible, unplaced head gains one priority level every 2^16 cycles (R314). -/
  | priorityAging
  /-- A head at priority 7 for 2^18 cycles reserves a block (R316). -/
  | reservation
  /-- After 2^22 cycles, the reserved block's residents are pre-empted (R316). -/
  | reservationPreempt (queue : Nat)
  /-- A group retires once its side log has drained and its loads have returned (R56). -/
  | groupRetire (gid : Nat)
  /-- A team frees its resources once its engine commands have written status (R56). -/
  | teamRetire (tid : Nat)
  /-- The grid's writes are released at .dev and its counter is signalled (R56). -/
  | gridComplete (lid : Nat)
  /-- The MP assigns or releases a completion counter at the control node's request (R313). -/
  | counterAssign (ctr : Nat) (asid : Option (BitVec 16))
  /-- The MP opens a launch queue to one ASID (R312). -/
  | queueOpen (queue : Nat) (asid : Option (BitVec 16))
  /-- A pre-emption request for a gang is delivered (R326). -/
  | preemptRequest (gang : Nat)
  /-- Every group reaches a boundary and enters the save entry 0x38 (R326). -/
  | gangHalt (gang : Nat)
  /-- A saved context completes once GT ≥ CH, the side log has drained and merges are done (R133). -/
  | saveComplete (gang : Nat)
  /-- A saved gang is placed again and its tiles are restored (R328). -/
  | gangResume (gang : Nat)
  /-- Pre-empts every gang of a context and closes its queues (R329). -/
  | contextSwitch (asid : BitVec 16)
  /-- A saved gang that fits no block for 2^22 cycles terminates its context (R403). -/
  | unplaceableTerminate (gang : Nat)
  /-- A barrier watchdog fires: TIMEOUT records are written and the waiters raise 0x21 (R259). -/
  | barrierTimeout (tid bar : Nat)
  /-- A blocking FIFO wait's watchdog fires, raising 0x21 (R246). -/
  | fifoTimeout (gid sp : Nat)
  /-- An mmag rendezvous watchdog fires in the waiting teams (R276). -/
  | rendezvousTimeout (gang : Nat)
  /-- Participants not all joined within the period report 0x0A (R261). -/
  | collJoinTimeout (cid : BitVec 16)
  /-- A collective chunk arrives at a hop and is checked, reduced and forwarded (R341). -/
  | chunkArrival (n : Nat) (flips adder : List (Nat × DWord))
  /-- The previous hop resends a kept chunk on request (R341). -/
  | chunkResend (n : Nat)
  /-- A participant's source-read failure notice stops the others, with code 0x0A (R261). -/
  | collFailureNotice (cid : BitVec 16)
  /-- The reply to a remote atomic returns, releasing the held group (R129). -/
  | remoteAtomicReply (gid sp : Nat) (ok : Bool) (values : List DWord)
  /-- A release token reaches a hop and is forwarded once its counted writes have passed (R130). -/
  | fenceToken (n : Nat)
  /-- The last hop acknowledges a token, and the fence retires when all paths have (R130). -/
  | fenceAck (n : Nat) (failed : List DWord)
  /-- A port TLB miss obtains a window grant from the destination's MP (R334). -/
  | windowGrant (asid : BitVec 16) (va : DWord) (grant : Option WindowTarget)
  /-- A remote translation is revoked and removed from the ports (R335). -/
  | windowRevoke (dev : BitVec 12) (asid : BitVec 16) (va : DWord)
  /-- The link reports a destination unreachable and all its entries are removed (R335). -/
  | destUnreachable (dev : BitVec 12)
  /-- The host agent accesses device memory through a unified range (R337). -/
  | hostAccess (asid : BitVec 16) (va : DWord) (len : Nat) (store : Option (List Byte))
  /-- The MP removes or changes a unified range (R338). -/
  | unifiedRangeChange (asid : BitVec 16) (base : DWord) (size : Nat) (writable : Option Bool)
  /-- Quiesces the named contexts and streams a logical image (R345). -/
  | checkpointRequest (asids : List (BitVec 16)) (to_ : SafePlace)
  /-- The quiesce limit passes and the checkpoint is abandoned (R346). -/
  | checkpointAbandon
  /-- Restores a context image onto a target device (R348). -/
  | restoreRequest (place : Nat) (places : List (Nat × Nat))
  /-- Runs the full start sequence with scan test and full training (R351). -/
  | coldStart (q : StartInput)
  /-- Runs the start with stored parameters and preserved contexts (R351). -/
  | warmStart (asids : List (BitVec 16)) (q : StartInput)
  /-- Powers the device down after writing the black box (R354). -/
  | stop
  /-- A power domain not ready within 2^24 cycles stops the start (R349). -/
  | powerDomainTimeout (domain die : Nat)
  /-- The MP returns a signed attestation report (R356). -/
  | attestationRequest (nonce : List Byte)
  /-- Every 2^16 cycles the MP reads the sensors and resizes the token pool (R357). -/
  | powerLoop (r : PowerReading)
  /-- A sensor at 120 °C makes hardware clamp every interface of its bay (R357). -/
  | thermalClamp (bay : Nat)
  /-- Every 2^24 cycles the black boxes are copied to non-volatile storage (R384). -/
  | blackBoxCopy
  /-- HBM is scrubbed every 2^32 cycles (R405). -/
  | hbmScrub (stack : Nat) (errs : List (Nat × Bool))
  /-- A flit failing CRC is retransmitted from the retry buffer (R405). -/
  | linkRetransmit (cls idx : Nat) (ok : Bool)
  /-- A unit that meets its threshold is retired or fenced (R408). -/
  | unitRetire (cls idx : Nat) (code : BitVec 8) (mismatch : Option Mismatch)
  /-- The MP pre-empts a core's gangs and switches it to half width (R410). -/
  | halfWidthSwitch (core half : Nat)
  /-- An HBM layer is retired and its frames are removed (R413). -/
  | layerRetire (stack layer : Nat)
  /-- A page or block moves off a retired layer, keeping its VA (R414). -/
  | blockMove (asid : BitVec 16) (va : DWord) (pfn : BitVec 24)
  /-- A retired bridge or port changes the routes and paths (R416). -/
  | bridgeRetire (cls idx : Nat)
  /-- The MP fences a bay, pre-empting, unmapping and terminating (R419). -/
  | bayFence (bay : Nat) (whole : Bool) (code : BitVec 8)
  /-- A signed in-field test package is verified and applied to test-fenced targets (R421). -/
  | testPackage (bytes : List Byte) (failed : List Nat)
  /-- A REPLAY launch's first write to a granule waits while the granule is copied (R388). -/
  | snapshotCopy (lid : Nat) (va : DWord)
  /-- A REPLAY launch is killed, restored from its snapshot and requeued or abandoned (R390). -/
  | rollback (lid : Nat)
  /-- Terminates a context: queues closed, groups stopped, resources freed (R394). -/
  | contextTerminate (asid : BitVec 16) (code : BitVec 8)
  /-- Kills the gangs of one launch only (R395). -/
  | launchKill (lid : Nat)
  /-- The control node resumes a group held for a debugger (R396). -/
  | debugResume (gid : Nat) (terminate : Bool)
  /-- The MP changes an access-table entry, effective at one tick (R385). -/
  | accessTableWrite (target idx : Nat) (entry : Quad)
  /-- The MP drains a target's violation log into ACCESS records (R387). -/
  | violationDrain (target : Nat)
  /-- The loader checks and places a code object and reports a code (R164). -/
  | loadObject (asid : BitVec 16) (text pool data : DWord) (bytes : Option (List Byte))
  /-- Issuing a reserved opcode, 0xFF outside a pad, or a unit with bits [1:0] = 11 that is not a pad raises 0x01 or 0x02 (R152). -/
  | illegalInstruction (cause : BitVec 8) (first : DWord)
  /-- An ofill, aclr, adrain, aload or sptile finishes, and its slot or tile leaves the filling or draining state and becomes ready (R99). -/
  | fillDrainComplete (tid idx : Nat)
  /-- A line that is not pinned leaves L1 or the cluster cache at any time, and an update-only line that leaves merges its contribution at
  the home (R86). -/
  | lineEviction (level : CacheLevel) (unit : Nat) (asid : BitVec 16) (va : DWord)
  /-- The 48 V supply is lost without a stop, so all volatile state is gone, interfaces clamp, and black box events since the last copy are
  lost (R384). -/
  | supplyLoss
  /-- The memory processor fails, and the device accepts no launches until the control node starts it again (R23). -/
  | mpFailure
  /-- The control node attaches or detaches a debugger to a context through the host agent, which decides whether a debug hold keeps the
  group or terminates the context (R396). -/
  | debuggerAttach (asid : BitVec 16) (attached : Bool)
  /-- The MP removes or changes a page mapping or advances a page-table resize, first invalidating the page's lines and clearing its
  page-attribute cache entries (R87). -/
  | mappingChange (c : MapChange)
  /-- A group held in a .dev or wider release, or a load held on an L2-only store, resumes when GT reaches CH or W (R115). -/
  | releaseWaitEnd (gid sp : Nat)
  deriving DecidableEq, Repr

end Sys2Proof
end

