-- ==== Sys2Proof/Machine/Bits.lean ====
section
/-! DEFINITION. Bit fields, byte order, sign extension, and sparse stores: the helpers that the decoder
and the meanings share. -/

namespace Sys2Proof

/-- The cell at a number; an unlisted cell reads zero. -/
def peek {w : Nat} (m : Sparse w) (k : Nat) : BitVec w :=
  match m with
  | [] => 0
  | (a, v) :: t => if a = k then v else if k < a then 0 else peek t k

/-- Writes a cell and keeps the cells in rising order; writing zero removes the cell. -/
def poke {w : Nat} (m : Sparse w) (k : Nat) (x : BitVec w) : Sparse w :=
  match m with
  | [] => if x = 0 then [] else [(k, x)]
  | (a, v) :: t =>
    if k < a then (if x = 0 then (a, v) :: t else (k, x) :: (a, v) :: t)
    else if k = a then (if x = 0 then t else (k, x) :: t)
    else (a, v) :: poke t k x

/-- The canonical form of a sparse store: numbers strictly rising from `lo`, no zero cell. -/
def cellsFrom {w : Nat} (lo : Nat) : Sparse w → Bool
  | [] => true
  | (a, v) :: t => decide (lo ≤ a) && v != 0 && cellsFrom (a + 1) t

/-- The canonical form of a sparse store. -/
def cellsWf {w : Nat} (m : Sparse w) : Bool := cellsFrom 0 m

/-- Writes a run of cells from a number on. -/
def pokeAll {w : Nat} (m : Sparse w) (k : Nat) : List (BitVec w) → Sparse w
  | [] => m
  | x :: xs => pokeAll (poke m k x) (k + 1) xs

/-- Reads a run of cells. -/
def peekAll {w : Nat} (m : Sparse w) (k : Nat) : Nat → List (BitVec w)
  | 0 => []
  | n + 1 => peek m k :: peekAll m (k + 1) n

/-- The cells from number `lo` up to but not including `hi`. -/
def cellsIn {w : Nat} (m : Sparse w) (lo hi : Nat) : Sparse w :=
  m.filter fun c => decide (lo ≤ c.1 ∧ c.1 < hi)

/-- The cells outside `[lo, hi)`: the range made zero. -/
def cellsOut {w : Nat} (m : Sparse w) (lo hi : Nat) : Sparse w :=
  m.filter fun c => decide (¬ (lo ≤ c.1 ∧ c.1 < hi))

/-- The little-endian bytes of a number (R2). -/
def toBytes (n : Nat) (v : Nat) : List Byte :=
  match n with
  | 0 => []
  | n + 1 => BitVec.ofNat 8 v :: toBytes n (v / 256)

/-- The number whose little-endian bytes these are (R2). -/
def ofBytes : List Byte → Nat
  | [] => 0
  | b :: t => b.toNat + 256 * ofBytes t

/-- The little-endian words of a number. -/
def toWords (n : Nat) (v : Nat) : List Word :=
  match n with
  | 0 => []
  | n + 1 => BitVec.ofNat 32 v :: toWords n (v / 2 ^ 32)

/-- The number whose little-endian words these are. -/
def ofWords : List Word → Nat
  | [] => 0
  | b :: t => b.toNat + 2 ^ 32 * ofWords t

/-- The lanes a mask names, in rising order. -/
def lanesOf (m : Word) : List Nat := (List.range 32).filter fun l => m.getLsbD l

/-- The mask of the lanes that meet a test. -/
def maskOf (p : Nat → Bool) : Word :=
  (List.range 32).foldl (fun m l => if p l then m ||| BitVec.ofNat 32 (2 ^ l) else m) 0

/-- The number of ones. -/
def popCount {w : Nat} (x : BitVec w) : Nat := ((List.range w).filter fun i => x.getLsbD i).length

/-- Leading zeros, at most the width. -/
def leadZeros {w : Nat} (x : BitVec w) : Nat := if x.toNat = 0 then w else w - 1 - Nat.log2 x.toNat

/-- Bit i moved to bit w - 1 - i. -/
def bitReverse {w : Nat} (x : BitVec w) : BitVec w :=
  BitVec.ofNat w ((List.range w).foldl (fun a i => if x.getLsbD i then a + 2 ^ (w - 1 - i) else a) 0)

/-- Bits [hi:lo] of a number. -/
def bitsOf (x hi lo : Nat) : Nat := x / 2 ^ lo % 2 ^ (hi + 1 - lo)

/-- The first element of a list that a function answers for. -/
def firstSome {α β : Type} (f : α → Option β) : List α → Option β
  | [] => none
  | x :: t => match f x with
    | some y => some y
    | none => firstSome f t

/-- The ceiling of a quotient. -/
def ceilDiv (a b : Nat) : Nat := (a + b - 1) / b

/-- Replaces the elements that meet a test. -/
def updateWhere {α : Type} (p : α → Bool) (f : α → α) (l : List α) : List α :=
  l.map fun x => if p x then f x else x

/-- Replaces the element at an index. -/
def updateAt {α : Type} (l : List α) (n : Nat) (f : α → α) : List α :=
  match l, n with
  | [], _ => []
  | x :: t, 0 => f x :: t
  | x :: t, n + 1 => x :: updateAt t n f

/-- Takes a number of elements at a time. -/
def chunksOf {α : Type} (fuel n : Nat) (l : List α) : List (List α) :=
  match fuel with
  | 0 => []
  | f + 1 => if l.isEmpty then [] else l.take n :: chunksOf f n (l.drop n)

/-- Inserts a key into an association list or replaces its value. -/
def assocSet {α β : Type} [DecidableEq α] (l : List (α × β)) (k : α) (v : β) : List (α × β) :=
  match l with
  | [] => [(k, v)]
  | (a, b) :: t => if a = k then (k, v) :: t else (a, b) :: assocSet t k v

/-- A list without repeats, with one more element. -/
def addOnce {α : Type} [DecidableEq α] (x : α) (l : List α) : List α := if x ∈ l then l else l ++ [x]

/-- Inserts into a list in rising order of a key, after the elements of the same key. -/
def insertBy {α : Type} (k : α → Nat) (x : α) : List α → List α
  | [] => [x]
  | y :: t => if k x < k y then x :: y :: t else y :: insertBy k x t

/-- Sorts in rising order of a key, keeping the order of equals. -/
def sortBy {α : Type} (k : α → Nat) (l : List α) : List α := l.foldl (fun a x => insertBy k x a) []

end Sys2Proof
end

