-- ==== Sys2Proof/Machine/Encoding.lean ====
section
/-! DEFINITION. The encoding tables of the OV9: what each field of each instruction may hold, which
opcode, fn value and types it takes, and the checks of the literal. The decoder, the encoder and
`Instr.wf` are all read from these rows. -/

namespace Sys2Proof

/-- The number of a type (R149). -/
def Ty.code : Ty → Nat
  | .i32 => 0 | .n32 => 1 | .f32 => 2 | .i16 => 3 | .n16 => 4 | .f16 => 5 | .bf16 => 6 | .i8 => 7
  | .n8 => 8 | .e4m3 => 9 | .e5m2 => 10 | .l6 => 11 | .i64 => 12 | .n64 => 13 | .f64 => 14 | .fx128 => 15

/-- The type a TYPE code names (R149). -/
def Ty.ofCode (n : BitVec 4) : Ty :=
  match n.toNat with
  | 0 => .i32 | 1 => .n32 | 2 => .f32 | 3 => .i16 | 4 => .n16 | 5 => .f16 | 6 => .bf16 | 7 => .i8
  | 8 => .n8 | 9 => .e4m3 | 10 => .e5m2 | 11 => .l6 | 12 => .i64 | 13 => .n64 | 14 => .f64 | _ => .fx128

/-- The bits of an element of a type; L6 counts as 8 (R11, R230). -/
def Ty.bits : Ty → Nat
  | .i32 | .n32 | .f32 => 32
  | .i16 | .n16 | .f16 | .bf16 => 16
  | .i8 | .n8 | .e4m3 | .e5m2 | .l6 => 8
  | .i64 | .n64 | .f64 => 64
  | .fx128 => 128

/-- A register number that a value of `bits` bits may start at (R196). -/
def regAligned (bits n : Nat) : Bool := if bits ≤ 32 then true else n % (bits / 32) == 0

/-- What a field of an instruction may hold (R145, R148, R172, R196, R230, R243, R266, R288). -/
inductive Role where
  /-- The field must be zero. -/
  | z
  /-- A scalar result that may stand in a latch; `ds64` is a pair. -/
  | ds | ds64
  /-- A scalar destination; a pair for a 64-bit type; four registers. -/
  | sd | sdTy | sd4
  /-- A scalar destination that is also read, so that it may not be suppressed (R167, R172). -/
  | sdNoSup
  /-- An even and odd pair of scalar registers. -/
  | pair
  /-- A scalar source; a pair source; by TYPE; the source of `sput`; a plain scalar register. -/
  | s | s64 | sTy | sAny | sreg
  /-- A vector value of TYPE, of 32 bits, of 64 bits, of 128 bits. -/
  | v | v32 | v64 | q
  /-- The same as a destination that is also read, so that it may not be suppressed (R199). -/
  | vNoSup | qNoSup
  /-- A vector source whose type is fn6[3:0]. -/
  | vSrc
  /-- A vector register named, not read; `veven` an even one. -/
  | vreg | veven
  /-- A mask register, a handle, a slot, a slot at a multiple of 4, a tile, tile 0 or 4, a family. -/
  | mask | handle | slot | slot4 | tile | tile4 | fam
  /-- Three scalar registers, and a block of `k`, at an even number if `e`. -/
  | triple
  | block (k : Nat) (e : Bool)
  /-- A scalar source if fn6[5], fn6[2] is set (else zero); a scalar source if fn6[0] is set, else a pair. -/
  | anc | ofillC | pairOrS
  /-- An immediate. -/
  | imm
  /-- The source of `hset`: a pair for a 64-bit field, else a scalar source. -/
  | hsetA
  deriving DecidableEq, Repr

/-- Whether a scalar source field is legal (R145, R146); a latch is judged by the latch rules. -/
def scalarOk (bits : Nat) (lit : Bool) : Src → Bool
  | .reg n => n.toNat < 64 && regAligned bits n.toNat
  | .bcast n => regAligned bits n.toNat
  | .latch _ => true
  | .imm _ => true
  | .lit => lit
  | .special x => x != .lane

/-- Whether a vector source field of a given width is legal (R145, R196). -/
def vectorOk (bits : Nat) (lit : Bool) : Src → Bool
  | .reg n => regAligned bits n.toNat
  | .bcast n => bits ≤ 64 && regAligned bits n.toNat
  | .latch _ => true
  | .imm _ => true
  | .lit => lit
  | .special _ => true

/-- Whether a field is a register whose number meets a test. -/
def regOk (p : Nat → Bool) : Src → Bool
  | .reg n => p n.toNat
  | _ => false

/-- The fields of a tensor handle that `hset` writes as 64 bits (R244). -/
def hsetWide (fn : Nat) : Bool := fn == 0 || (7 ≤ fn && fn ≤ 12)

/-- Whether a source field may hold this (R145 to R148 and the tables). -/
def Role.okSrc (x : Args) (f : Src) : Role → Bool
  | .z => f == .reg 0
  | .ds | .s | .sd | .sdNoSup => scalarOk 32 x.lit.isSome f
  | .ds64 | .s64 => scalarOk 64 x.lit.isSome f
  | .sTy | .sdTy => scalarOk x.ty.bits x.lit.isSome f
  | .sAny => scalarOk 32 x.lit.isSome f
  | .sreg => regOk (· < 64) f
  | .sd4 => regOk (fun n => n < 64 && n % 4 == 0) f
  | .pair => regOk (fun n => n < 64 && n % 2 == 0) f
  | .v | .vNoSup => vectorOk x.ty.bits x.lit.isSome f
  | .v32 => vectorOk 32 x.lit.isSome f
  | .v64 => vectorOk 64 x.lit.isSome f
  | .q | .qNoSup => vectorOk 128 x.lit.isSome f
  | .vSrc => vectorOk (Ty.ofCode (x.fn.setWidth 4)).bits x.lit.isSome f
  | .vreg => regOk (fun _ => true) f
  | .veven => regOk (· % 2 == 0) f
  | .mask | .handle => regOk (· < 16) f
  | .slot => regOk (· < 32) f
  | .slot4 => regOk (fun n => n < 32 && n % 4 == 0) f
  | .tile => regOk (· < 8) f
  | .tile4 => regOk (fun n => n == 0 || n == 4) f
  | .fam => regOk (· < 4) f
  | .triple => regOk (· ≤ 61) f
  | .block k e => regOk (fun n => n + k ≤ 64 && (!e || n % 2 == 0)) f
  | .anc => if x.fn.getLsbD 5 then scalarOk 32 x.lit.isSome f else f == .reg 0
  | .ofillC => if x.fn.getLsbD 2 then scalarOk 32 x.lit.isSome f else f == .reg 0
  | .pairOrS =>
    if x.fn.getLsbD 0 then scalarOk 32 x.lit.isSome f else regOk (fun n => n < 64 && n % 2 == 0) f
  | .imm => match f with | .imm _ => true | _ => false
  | .hsetA =>
    if hsetWide x.fn.toNat then regOk (fun n => n < 64 && n % 2 == 0) f else scalarOk 32 x.lit.isSome f

/-- Whether d9 may hold this (R148, R196, R199): d9[7:0] of a vector or scalar result is not looked at under suppress, which opens a latch
chain, whether the instruction may stand in one (R50, R51; log 137); a destination that is read too, of role Sd, or that is no such result,
must not be suppressed. -/
def Role.okDest (x : Args) : Role → Bool
  | .z => !x.sup && x.d == 0
  | .ds => x.sup || x.d.toNat < 64
  | .ds64 => x.sup || (x.d.toNat < 64 && x.d.toNat % 2 == 0)
  | .v => x.sup || regAligned x.ty.bits x.d.toNat
  | .v32 => true
  | .v64 => x.sup || regAligned 64 x.d.toNat
  | .q => x.sup || regAligned 128 x.d.toNat
  | .veven => x.sup || x.d.toNat % 2 == 0
  | .vNoSup => !x.sup && regAligned x.ty.bits x.d.toNat
  | .qNoSup => !x.sup && regAligned 128 x.d.toNat
  | .sd => !x.sup && x.d.toNat < 64
  | .sdTy => !x.sup && x.d.toNat < 64 && regAligned x.ty.bits x.d.toNat
  | .sd4 => x.sup || (x.d.toNat < 64 && x.d.toNat % 4 == 0)
  | .sdNoSup => !x.sup && x.d.toNat < 64
  | r => !x.sup && Role.okSrc x (.reg x.d) r

/-- An encoding row: opcode, the fn6 values it takes, the role of each field, the types, whether the
literal is required, and the instruction's own checks on its fields. -/
structure Row where
  op : BitVec 8
  fn : Nat → Bool
  d : Role
  a : Role
  b : Role
  c : Role
  ty : Ty → Bool
  needLit : Bool
  extra : Args → Bool

/-- The type sets of the tables (R201, R205, R212, R219, R230, R288). -/
def tyIn (l : List Ty) (t : Ty) : Bool := l.contains t
/-- TYPE 0 alone. -/
def t0 : Ty → Bool := tyIn [.i32]
/-- The integer types. -/
def tInt : Ty → Bool := tyIn [.i32, .n32, .i16, .n16, .i8, .n8, .i64, .n64]
/-- The signed integer types. -/
def tSigned : Ty → Bool := tyIn [.i32, .i16, .i8, .i64]
/-- The 32-bit integer types. -/
def t32 : Ty → Bool := tyIn [.i32, .n32]
/-- Every type. -/
def tAll (_ : Ty) : Bool := true
/-- The 8-bit integer types. -/
def tB8 : Ty → Bool := tyIn [.i8, .n8]
/-- The 16-bit integer types. -/
def tB16 : Ty → Bool := tyIn [.i16, .n16]
/-- The floating-point types F (R205). -/
def tF : Ty → Bool := tyIn [.f32, .f16, .bf16, .f64]
/-- `.f32` and `.f64`. -/
def tF3264 : Ty → Bool := tyIn [.f32, .f64]
/-- `.f32`. -/
def tF32 : Ty → Bool := tyIn [.f32]
/-- The types of `fxacc` (R212). -/
def tAcc : Ty → Bool := tyIn [.f32, .f64, .i32, .n32]
/-- The types of `fxcvt` and `fxset` (R212). -/
def tFx : Ty → Bool := tyIn [.f32, .f16, .bf16, .f64, .i32, .n32, .i64, .n64]
/-- `.fx128`. -/
def tFx128 : Ty → Bool := tyIn [.fx128]
/-- Every type `cvt` takes (R215). -/
def tCvt (t : Ty) : Bool := t != .l6 && t != .fx128
/-- The types `quant` makes (R216). -/
def tQuant : Ty → Bool := tyIn [.i8, .e4m3, .e5m2, .l6]
/-- `.n32` and `.n64`. -/
def tN : Ty → Bool := tyIn [.n32, .n64]
/-- `.n32`. -/
def tN32 : Ty → Bool := tyIn [.n32]
/-- `.i64`. -/
def tI64 : Ty → Bool := tyIn [.i64]
/-- Every type but `.fx128`: the elements of loads and stores (R230). -/
def tElem (t : Ty) : Bool := t != .fx128
/-- The 32- and 64-bit integer types. -/
def t3264 : Ty → Bool := tyIn [.i32, .n32, .i64, .n64]
/-- The types of `lshproj` (R288). -/
def tProj : Ty → Bool := tyIn [.f32, .f16, .bf16, .i8]

/-- No further check. -/
def noExtra (_ : Args) : Bool := true
/-- Form B: no literal. -/
def noLit (x : Args) : Bool := x.lit.isNone
/-- The literal, 0 in Form B. -/
def Args.literal (x : Args) : Word := x.lit.getD 0
/-- A `loop`'s offset is not positive (R172). -/
def loopOk (x : Args) : Bool := x.literal.toInt ≤ 0

/-- The bits of a special register (R181), 0 for a number that names none. -/
def specialBits (n : Nat) : Nat :=
  match n with
  | 0x00 | 0x01 | 0x02 | 0x03 | 0x04 | 0x05 | 0x08 | 0x09 | 0x0B | 0x10 | 0x13 | 0x21 | 0x24 | 0x25 => 32
  | 0x06 | 0x07 | 0x0A | 0x11 | 0x12 | 0x20 | 0x22 | 0x23 => 64
  | _ => 0

/-- `sget`: the literal names a register, and a 64-bit one needs an even d9 (R181). -/
def sgetOk (x : Args) : Bool :=
  let b := specialBits x.literal.toNat
  b != 0 && (x.sup || regAligned b x.d.toNat)

/-- The registers `sput` may not name at all (R181). -/
def sputForbidden (n : Nat) : Bool := n == 0x07 || n == 0x0A || n == 0x0B || (0x10 ≤ n && n ≤ 0x13)

/-- `sput`: the literal names a writable register; a 64-bit one needs a pair, an immediate or a literal (R181). DESIGN CHOICE: an even
register that is selected for broadcast is such a pair (log 188). -/
def sputOk (x : Args) : Bool :=
  let b := specialBits x.literal.toNat
  b != 0 && !sputForbidden x.literal.toNat &&
    (b == 32 || (match x.a with
      | .reg n => n.toNat % 2 == 0
      | .bcast n => n.toNat % 2 == 0
      | .imm _ | .lit => true
      | _ => false))

/-- The command flags of the literal (R247). -/
def flagsOk (pitch : Bool) (x : Args) : Bool :=
  let l := x.literal
  let asc := (l.extractLsb' 0 3).toNat
  let rsc := (l.extractLsb' 4 3).toNat
  let bar := (l.extractLsb' 8 4).toNat
  l.extractLsb' 13 3 == 0 && (pitch || l.extractLsb' 16 16 == 0) &&
    asc ≤ 4 && rsc ≤ 4 && (l.getLsbD 3 || asc == 0) && (l.getLsbD 7 || rsc == 0) &&
    (if l.getLsbD 12 then bar != 0 else bar == 0)

/-- Elements of a type that a 32-bit lane holds (R215). -/
def Ty.perLane (t : Ty) : Nat := if t.bits == 8 then 4 else if t.bits == 16 then 2 else 1

/-- The fn values of `cvt`: fn6[4] insertion, fn6[3:0] a source type other than L6 and FX128 (R215). -/
def cvtFn (ins : Bool) (fn : Nat) : Bool :=
  fn < 32 && (decide (16 ≤ fn) == ins) && fn % 16 != 11 && fn % 16 != 15

/-- The positions of `cvt` (R215). -/
def cvtOk (x : Args) : Bool :=
  match x.b with
  | .imm n =>
    n.toInt ≥ 0 && n.toInt ≤ 15 && n.toNat % 4 < (Ty.ofCode (x.fn.setWidth 4)).perLane &&
      (!x.fn.getLsbD 4 || n.toNat / 4 < x.ty.perLane)
  | _ => false

/-- The types `redx` and `scanx` take by operation (R223). -/
def redxTy (x : Args) : Bool :=
  match x.fn.toNat % 8 with
  | 6 => x.ty == .f32 || x.ty == .f64
  | 7 => x.ty == .fx128
  | _ => t3264 x.ty

/-- The types of a reduction by operation (R238). -/
def redOpTy (op : Nat) (t : Ty) : Bool :=
  match op with
  | 6 => t == .fx128
  | 7 => t == .f32
  | _ => t3264 t

/-- The types of `red` (R238). -/
def redTy (x : Args) : Bool := redOpTy (x.fn.toNat % 8) x.ty

/-- The count of `mcst` is 1 to 16 (R240). -/
def mcstOk (x : Args) : Bool :=
  match x.c with
  | .imm n => 1 ≤ n.toInt && n.toInt ≤ 16
  | _ => false

/-- The count and the type of a reducing `mcst` (R240). -/
def mcstRedOk (x : Args) : Bool := mcstOk x && redOpTy (x.fn.toNat - 1) x.ty

/-- The words an instruction is made of. -/
inductive Shape where
  /-- Form A: opcode, fn4, registers; `one` for one source, `pairs` for pairs (R143, R144). -/
  | formA (op : BitVec 8) (fn : BitVec 4) (fnOk one pairs : Bool) (x : AArgs)
  /-- Form B or C. -/
  | bc (r : Row) (x : Args)
  /-- `brv`. -/
  | brv (neg : Bool) (x : BrvArgs)
  /-- An event of the device: it has no words. -/
  | event

/-! The encoding of every instruction (R143, R167, R172, R181 to R189, R201, R205, R212, R215 to R219,
R230 to R245, R247 to R262, R266, R288). -/

def Shape.sadd (x : AArgs) : Shape := .formA 0x00 0 true false false x
def Shape.saddC (x : Args) : Shape := .bc ⟨0x00, (· == 0), .ds, .s, .s, .z, t0, true, noExtra⟩ x
def Shape.ssub (x : AArgs) : Shape := .formA 0x01 0 true false false x
def Shape.ssubC (x : Args) : Shape := .bc ⟨0x01, (· == 0), .ds, .s, .s, .z, t0, true, noExtra⟩ x
def Shape.smul (x : AArgs) : Shape := .formA 0x02 0 true false false x
def Shape.smulC (x : Args) : Shape := .bc ⟨0x02, (· == 0), .ds, .s, .s, .z, t0, true, noExtra⟩ x
def Shape.smulh (x : AArgs) : Shape := .formA 0x03 0 true false false x
def Shape.smulhC (x : Args) : Shape := .bc ⟨0x03, (· == 0), .ds, .s, .s, .z, t0, true, noExtra⟩ x
def Shape.smulhn (x : AArgs) : Shape := .formA 0x04 0 true false false x
def Shape.smulhnC (x : Args) : Shape := .bc ⟨0x04, (· == 0), .ds, .s, .s, .z, t0, true, noExtra⟩ x
def Shape.sdiv (x : AArgs) : Shape := .formA 0x05 0 true false false x
def Shape.sdivC (x : Args) : Shape := .bc ⟨0x05, (· == 0), .ds, .s, .s, .z, t0, true, noExtra⟩ x
def Shape.sdivn (x : AArgs) : Shape := .formA 0x06 0 true false false x
def Shape.sdivnC (x : Args) : Shape := .bc ⟨0x06, (· == 0), .ds, .s, .s, .z, t0, true, noExtra⟩ x
def Shape.srem (x : AArgs) : Shape := .formA 0x07 0 true false false x
def Shape.sremC (x : Args) : Shape := .bc ⟨0x07, (· == 0), .ds, .s, .s, .z, t0, true, noExtra⟩ x
def Shape.sremn (x : AArgs) : Shape := .formA 0x08 0 true false false x
def Shape.sremnC (x : Args) : Shape := .bc ⟨0x08, (· == 0), .ds, .s, .s, .z, t0, true, noExtra⟩ x
def Shape.sand (x : AArgs) : Shape := .formA 0x09 0 true false false x
def Shape.sandC (x : Args) : Shape := .bc ⟨0x09, (· == 0), .ds, .s, .s, .z, t0, true, noExtra⟩ x
def Shape.sor (x : AArgs) : Shape := .formA 0x0A 0 true false false x
def Shape.sorC (x : Args) : Shape := .bc ⟨0x0A, (· == 0), .ds, .s, .s, .z, t0, true, noExtra⟩ x
def Shape.sxor (x : AArgs) : Shape := .formA 0x0B 0 true false false x
def Shape.sxorC (x : Args) : Shape := .bc ⟨0x0B, (· == 0), .ds, .s, .s, .z, t0, true, noExtra⟩ x
def Shape.sandn (x : AArgs) : Shape := .formA 0x0C 0 true false false x
def Shape.sandnC (x : Args) : Shape := .bc ⟨0x0C, (· == 0), .ds, .s, .s, .z, t0, true, noExtra⟩ x
def Shape.sshl (x : AArgs) : Shape := .formA 0x0D 0 true false false x
def Shape.sshlC (x : Args) : Shape := .bc ⟨0x0D, (· == 0), .ds, .s, .s, .z, t0, true, noExtra⟩ x
def Shape.sshr (x : AArgs) : Shape := .formA 0x0E 0 true false false x
def Shape.sshrC (x : Args) : Shape := .bc ⟨0x0E, (· == 0), .ds, .s, .s, .z, t0, true, noExtra⟩ x
def Shape.ssra (x : AArgs) : Shape := .formA 0x0F 0 true false false x
def Shape.ssraC (x : Args) : Shape := .bc ⟨0x0F, (· == 0), .ds, .s, .s, .z, t0, true, noExtra⟩ x
def Shape.srot (x : AArgs) : Shape := .formA 0x10 0 true false false x
def Shape.srotC (x : Args) : Shape := .bc ⟨0x10, (· == 0), .ds, .s, .s, .z, t0, true, noExtra⟩ x
def Shape.smin (x : AArgs) : Shape := .formA 0x11 0 true false false x
def Shape.sminC (x : Args) : Shape := .bc ⟨0x11, (· == 0), .ds, .s, .s, .z, t0, true, noExtra⟩ x
def Shape.smax (x : AArgs) : Shape := .formA 0x12 0 true false false x
def Shape.smaxC (x : Args) : Shape := .bc ⟨0x12, (· == 0), .ds, .s, .s, .z, t0, true, noExtra⟩ x
def Shape.sminn (x : AArgs) : Shape := .formA 0x13 0 true false false x
def Shape.sminnC (x : Args) : Shape := .bc ⟨0x13, (· == 0), .ds, .s, .s, .z, t0, true, noExtra⟩ x
def Shape.smaxn (x : AArgs) : Shape := .formA 0x14 0 true false false x
def Shape.smaxnC (x : Args) : Shape := .bc ⟨0x14, (· == 0), .ds, .s, .s, .z, t0, true, noExtra⟩ x
def Shape.scmp (cc : BitVec 4) (x : AArgs) : Shape := .formA 0x15 cc (cc.toNat < 10) false false x
def Shape.scmpC (x : Args) : Shape := .bc ⟨0x15, (· < 10), .ds, .s, .s, .z, t0, true, noExtra⟩ x
def Shape.ssel (x : AArgs) : Shape := .formA 0x16 0 true false false x
def Shape.sselC (x : Args) : Shape := .bc ⟨0x16, (· == 0), .sdNoSup, .s, .s, .z, t0, true, noExtra⟩ x
def Shape.smov (x : AArgs) : Shape := .formA 0x17 0 true true false x
def Shape.smovC (x : Args) : Shape := .bc ⟨0x17, (· == 0), .ds, .s, .z, .z, t0, true, noExtra⟩ x
def Shape.sclz (x : AArgs) : Shape := .formA 0x18 0 true true false x
def Shape.sclzC (x : Args) : Shape := .bc ⟨0x18, (· == 0), .ds, .s, .z, .z, t0, true, noExtra⟩ x
def Shape.spopc (x : AArgs) : Shape := .formA 0x19 0 true true false x
def Shape.spopcC (x : Args) : Shape := .bc ⟨0x19, (· == 0), .ds, .s, .z, .z, t0, true, noExtra⟩ x
def Shape.sbrev (x : AArgs) : Shape := .formA 0x1A 0 true true false x
def Shape.sbrevC (x : Args) : Shape := .bc ⟨0x1A, (· == 0), .ds, .s, .z, .z, t0, true, noExtra⟩ x
def Shape.sbfx (x : AArgs) : Shape := .formA 0x1B 0 true false false x
def Shape.sbfxC (x : Args) : Shape := .bc ⟨0x1B, (· == 0), .ds, .s, .s, .z, t0, true, noExtra⟩ x
def Shape.sbfxSx (x : AArgs) : Shape := .formA 0x1B 1 true false false x
def Shape.sbfxSxC (x : Args) : Shape := .bc ⟨0x1B, (· == 1), .ds, .s, .s, .z, t0, true, noExtra⟩ x
def Shape.sbfi (x : AArgs) : Shape := .formA 0x1C 0 true false false x
def Shape.sbfiC (x : Args) : Shape := .bc ⟨0x1C, (· == 0), .sdNoSup, .s, .s, .z, t0, true, noExtra⟩ x
def Shape.sadd64 (x : AArgs) : Shape := .formA 0x1D 0 true false true x
def Shape.sadd64C (x : Args) : Shape := .bc ⟨0x1D, (· == 0), .ds64, .s64, .s64, .z, t0, true, noExtra⟩ x
def Shape.ssub64 (x : AArgs) : Shape := .formA 0x1E 0 true false true x
def Shape.ssub64C (x : Args) : Shape := .bc ⟨0x1E, (· == 0), .ds64, .s64, .s64, .z, t0, true, noExtra⟩ x
def Shape.smul64 (x : AArgs) : Shape := .formA 0x1F 0 true false true x
def Shape.smul64C (x : Args) : Shape := .bc ⟨0x1F, (· == 0), .ds64, .s64, .s64, .z, t0, true, noExtra⟩ x
def Shape.br (x : Args) : Shape := .bc ⟨0x20, (· == 0), .z, .z, .z, .z, t0, true, noExtra⟩ x
def Shape.brc (x : Args) : Shape := .bc ⟨0x21, (· < 10), .z, .s, .s, .z, t0, true, noExtra⟩ x
def Shape.brvIf (x : BrvArgs) : Shape := .brv false x
def Shape.brvNot (x : BrvArgs) : Shape := .brv true x
def Shape.jmp (x : Args) : Shape := .bc ⟨0x23, (· == 0), .z, .pair, .z, .z, t0, false, noExtra⟩ x
def Shape.call (x : Args) : Shape := .bc ⟨0x24, (· == 0), .z, .z, .z, .z, t0, true, noExtra⟩ x
def Shape.callIndirect (x : Args) : Shape := .bc ⟨0x24, (· == 1), .z, .pair, .z, .z, t0, false, noExtra⟩ x
def Shape.ret (x : Args) : Shape := .bc ⟨0x25, (· == 0), .z, .z, .z, .z, t0, false, noExtra⟩ x
def Shape.join (x : Args) : Shape := .bc ⟨0x26, (· == 0), .z, .z, .z, .z, t0, false, noExtra⟩ x
def Shape.loop (x : Args) : Shape := .bc ⟨0x27, (· == 0), .sdNoSup, .z, .z, .z, t0, true, loopOk⟩ x
def Shape.pushp (x : Args) : Shape := .bc ⟨0x28, (· == 0), .z, .mask, .z, .z, t0, false, noExtra⟩ x
def Shape.invp (x : Args) : Shape := .bc ⟨0x29, (· == 0), .z, .z, .z, .z, t0, false, noExtra⟩ x
def Shape.popp (x : Args) : Shape := .bc ⟨0x2A, (· == 0), .z, .z, .z, .z, t0, false, noExtra⟩ x
def Shape.exit (x : Args) : Shape := .bc ⟨0x2B, (· == 0), .z, .z, .z, .z, t0, false, noExtra⟩ x
def Shape.spinfoState (x : Args) : Shape := .bc ⟨0x2C, (· == 0), .ds, .z, .z, .z, t0, false, noExtra⟩ x
def Shape.spinfoActive (x : Args) : Shape := .bc ⟨0x2C, (· == 1), .ds, .z, .z, .z, t0, false, noExtra⟩ x
def Shape.spinfoExec (x : Args) : Shape := .bc ⟨0x2C, (· == 2), .ds, .z, .z, .z, t0, false, noExtra⟩ x
def Shape.yield (x : Args) : Shape := .bc ⟨0x2D, (· == 0), .z, .z, .z, .z, t0, false, noExtra⟩ x
def Shape.nop (x : Args) : Shape := .bc ⟨0x2E, (· == 0), .z, .z, .z, .z, t0, false, noExtra⟩ x
def Shape.brk (x : Args) : Shape := .bc ⟨0x2F, (· == 0), .z, .z, .z, .z, t0, false, noLit⟩ x
def Shape.brkCode (x : Args) : Shape := .bc ⟨0x2F, (· == 0), .z, .z, .z, .z, t0, true, noExtra⟩ x
def Shape.trap (x : Args) : Shape := .bc ⟨0x30, (· == 0), .z, .s, .z, .z, t0, false, noExtra⟩ x
def Shape.rte (x : Args) : Shape := .bc ⟨0x31, (· == 0), .z, .z, .z, .z, t0, false, noExtra⟩ x
def Shape.setfmt (x : Args) : Shape := .bc ⟨0x32, (· == 0), .z, .s, .z, .z, t0, false, noExtra⟩ x
def Shape.setrnd (x : Args) : Shape := .bc ⟨0x33, (· == 0), .z, .s, .z, .z, t0, false, noExtra⟩ x
def Shape.sget (x : Args) : Shape := .bc ⟨0x34, (· == 0), .ds, .z, .z, .z, t0, true, sgetOk⟩ x
def Shape.sput (x : Args) : Shape := .bc ⟨0x35, (· == 0), .z, .sAny, .z, .z, t0, true, sputOk⟩ x
def Shape.ltm (x : Args) : Shape := .bc ⟨0x36, (· == 0), .z, .s, .s, .z, t0, false, noExtra⟩ x
def Shape.ppoint (x : Args) : Shape := .bc ⟨0x37, (· == 0), .z, .z, .z, .z, t0, false, noExtra⟩ x
def Shape.lnch (x : Args) : Shape := .bc ⟨0x38, (· == 0), .ds, .pair, .s, .z, t0, false, noExtra⟩ x
def Shape.sigDev (x : Args) : Shape := .bc ⟨0x39, (· == 0), .z, .s, .s, .z, t0, false, noExtra⟩ x
def Shape.sigSys (x : Args) : Shape := .bc ⟨0x39, (· == 1), .z, .s, .s, .z, t0, false, noExtra⟩ x
def Shape.wget (x : Args) : Shape := .bc ⟨0x3A, (· == 0), .sd4, .z, .z, .z, t0, false, noExtra⟩ x
def Shape.bmode (x : Args) : Shape := .bc ⟨0x3B, (· == 0), .z, .s, .s, .z, t0, false, noExtra⟩ x
def Shape.xinv (x : Args) : Shape := .bc ⟨0x3C, (· == 0), .z, .pair, .s, .z, t0, false, noExtra⟩ x
def Shape.cmaintInv (x : Args) : Shape := .bc ⟨0x3D, (· == 0), .z, .pair, .s, .z, t0, false, noExtra⟩ x
def Shape.cmaintMerge (x : Args) : Shape := .bc ⟨0x3D, (· == 1), .z, .pair, .s, .z, t0, false, noExtra⟩ x
def Shape.cmaintPurge (x : Args) : Shape := .bc ⟨0x3D, (· == 2), .z, .pair, .s, .s, t0, false, noExtra⟩ x
def Shape.cmaintPurgeasid (x : Args) : Shape := .bc ⟨0x3D, (· == 3), .z, .z, .z, .s, t0, false, noExtra⟩ x
def Shape.halt (x : Args) : Shape := .bc ⟨0x3E, (· == 0), .z, .s, .z, .z, t0, false, noExtra⟩ x
def Shape.sysc (x : Args) : Shape := .bc ⟨0x3F, (· == 0), .ds, .s, .s, .z, t0, false, noExtra⟩ x
def Shape.vadd (x : Args) : Shape := .bc ⟨0x40, (· == 0), .v, .v, .v, .z, tInt, false, noExtra⟩ x
def Shape.vsub (x : Args) : Shape := .bc ⟨0x41, (· == 0), .v, .v, .v, .z, tInt, false, noExtra⟩ x
def Shape.vmul (x : Args) : Shape := .bc ⟨0x42, (· == 0), .v, .v, .v, .z, tInt, false, noExtra⟩ x
def Shape.vmulh (x : Args) : Shape := .bc ⟨0x43, (· == 0), .v, .v, .v, .z, tInt, false, noExtra⟩ x
def Shape.vmad (x : Args) : Shape := .bc ⟨0x44, (· == 0), .v, .v, .v, .v, tInt, false, noExtra⟩ x
def Shape.vmin (x : Args) : Shape := .bc ⟨0x45, (· == 0), .v, .v, .v, .z, tInt, false, noExtra⟩ x
def Shape.vmax (x : Args) : Shape := .bc ⟨0x46, (· == 0), .v, .v, .v, .z, tInt, false, noExtra⟩ x
def Shape.vabs (x : Args) : Shape := .bc ⟨0x47, (· == 0), .v, .v, .z, .z, tSigned, false, noExtra⟩ x
def Shape.vand (x : Args) : Shape := .bc ⟨0x48, (· == 0), .v, .v, .v, .z, tInt, false, noExtra⟩ x
def Shape.vor (x : Args) : Shape := .bc ⟨0x49, (· == 0), .v, .v, .v, .z, tInt, false, noExtra⟩ x
def Shape.vxor (x : Args) : Shape := .bc ⟨0x4A, (· == 0), .v, .v, .v, .z, tInt, false, noExtra⟩ x
def Shape.vandn (x : Args) : Shape := .bc ⟨0x4B, (· == 0), .v, .v, .v, .z, tInt, false, noExtra⟩ x
def Shape.vshl (x : Args) : Shape := .bc ⟨0x4C, (· == 0), .v, .v, .v32, .z, tInt, false, noExtra⟩ x
def Shape.vshr (x : Args) : Shape := .bc ⟨0x4D, (· == 0), .v, .v, .v32, .z, tInt, false, noExtra⟩ x
def Shape.vsra (x : Args) : Shape := .bc ⟨0x4E, (· == 0), .v, .v, .v32, .z, tInt, false, noExtra⟩ x
def Shape.vclz (x : Args) : Shape := .bc ⟨0x4F, (· == 0), .v, .v, .z, .z, tInt, false, noExtra⟩ x
def Shape.vpopc (x : Args) : Shape := .bc ⟨0x50, (· == 0), .v, .v, .z, .z, tInt, false, noExtra⟩ x
def Shape.vbfx (x : Args) : Shape := .bc ⟨0x51, (· == 0), .v, .v, .v32, .z, t32, false, noExtra⟩ x
def Shape.vbfi (x : Args) : Shape := .bc ⟨0x52, (· == 0), .vNoSup, .v, .v32, .z, t32, false, noExtra⟩ x
def Shape.vcmp (x : Args) : Shape := .bc ⟨0x53, (· < 10), .mask, .v, .v, .z, tInt, false, noExtra⟩ x
def Shape.vsel (x : Args) : Shape := .bc ⟨0x54, (· == 0), .v, .v, .v, .mask, tAll, false, noExtra⟩ x
def Shape.vmov (x : Args) : Shape := .bc ⟨0x55, (· == 0), .v, .v, .z, .z, tAll, false, noExtra⟩ x
def Shape.vdot4 (x : Args) : Shape := .bc ⟨0x56, (· == 0), .v32, .v32, .v32, .v32, tB8, false, noExtra⟩ x
def Shape.vdot4Mix (x : Args) : Shape := .bc ⟨0x56, (· == 1), .v32, .v32, .v32, .v32, tB8, false, noExtra⟩ x
def Shape.vdot2 (x : Args) : Shape := .bc ⟨0x57, (· == 0), .v32, .v32, .v32, .v32, tB16, false, noExtra⟩ x
def Shape.vdot2Mix (x : Args) : Shape := .bc ⟨0x57, (· == 1), .v32, .v32, .v32, .v32, tB16, false, noExtra⟩ x
def Shape.vadd64 (x : Args) : Shape := .bc ⟨0x58, (· == 0), .v64, .v64, .v32, .z, t32, false, noExtra⟩ x
def Shape.fadd (x : Args) : Shape := .bc ⟨0x59, (· == 0), .v, .v, .v, .z, tF, false, noExtra⟩ x
def Shape.fsub (x : Args) : Shape := .bc ⟨0x5A, (· == 0), .v, .v, .v, .z, tF, false, noExtra⟩ x
def Shape.fmul (x : Args) : Shape := .bc ⟨0x5B, (· == 0), .v, .v, .v, .z, tF, false, noExtra⟩ x
def Shape.ffma (x : Args) : Shape := .bc ⟨0x5C, (· == 0), .v, .v, .v, .v, tF, false, noExtra⟩ x
def Shape.fmin (x : Args) : Shape := .bc ⟨0x5D, (· == 0), .v, .v, .v, .z, tF, false, noExtra⟩ x
def Shape.fmax (x : Args) : Shape := .bc ⟨0x5E, (· == 0), .v, .v, .v, .z, tF, false, noExtra⟩ x
def Shape.fcmp (x : Args) : Shape := .bc ⟨0x5F, (· < 8), .mask, .v, .v, .z, tF, false, noExtra⟩ x
def Shape.fdiv (x : Args) : Shape := .bc ⟨0x60, (· == 0), .v, .v, .v, .z, tF3264, false, noExtra⟩ x
def Shape.fsqrt (x : Args) : Shape := .bc ⟨0x61, (· == 0), .v, .v, .z, .z, tF3264, false, noExtra⟩ x
def Shape.frcp (x : Args) : Shape := .bc ⟨0x62, (· == 0), .v, .v, .z, .z, tF32, false, noExtra⟩ x
def Shape.frsq (x : Args) : Shape := .bc ⟨0x63, (· == 0), .v, .v, .z, .z, tF32, false, noExtra⟩ x
def Shape.fexp2 (x : Args) : Shape := .bc ⟨0x64, (· == 0), .v, .v, .z, .z, tF32, false, noExtra⟩ x
def Shape.flog2 (x : Args) : Shape := .bc ⟨0x65, (· == 0), .v, .v, .z, .z, tF32, false, noExtra⟩ x
def Shape.fsin (x : Args) : Shape := .bc ⟨0x66, (· == 0), .v, .v, .z, .z, tF32, false, noExtra⟩ x
def Shape.fcos (x : Args) : Shape := .bc ⟨0x67, (· == 0), .v, .v, .z, .z, tF32, false, noExtra⟩ x
def Shape.ftanh (x : Args) : Shape := .bc ⟨0x68, (· == 0), .v, .v, .z, .z, tF32, false, noExtra⟩ x
def Shape.fclass (x : Args) : Shape := .bc ⟨0x69, (· == 0), .v32, .v, .z, .z, tF, false, noExtra⟩ x
def Shape.fscale (x : Args) : Shape := .bc ⟨0x6A, (· == 0), .v, .v, .v32, .z, tF, false, noExtra⟩ x
def Shape.fsgnCopy (x : Args) : Shape := .bc ⟨0x6B, (· == 0), .v, .v, .v, .z, tF, false, noExtra⟩ x
def Shape.fsgnNcopy (x : Args) : Shape := .bc ⟨0x6B, (· == 1), .v, .v, .v, .z, tF, false, noExtra⟩ x
def Shape.fsgnXor (x : Args) : Shape := .bc ⟨0x6B, (· == 2), .v, .v, .v, .z, tF, false, noExtra⟩ x
def Shape.fxacc (x : Args) : Shape := .bc ⟨0x6C, (fun n => n == 0 || n == 32), .qNoSup, .v, .v, .anc, tAcc, false, noExtra⟩ x
def Shape.fxcvt (x : Args) : Shape := .bc ⟨0x6D, (fun n => n == 0 || n == 32), .v, .q, .z, .anc, tFx, false, noExtra⟩ x
def Shape.fxset (x : Args) : Shape := .bc ⟨0x6E, (fun n => n == 0 || n == 32), .q, .v, .z, .anc, tFx, false, noExtra⟩ x
def Shape.fxadd (x : Args) : Shape := .bc ⟨0x6F, (· == 0), .q, .q, .q, .z, tFx128, false, noExtra⟩ x
def Shape.fxpkFx64 (x : Args) : Shape := .bc ⟨0x7D, (· == 1), .v64, .q, .s, .z, tI64, false, noExtra⟩ x
def Shape.fxpkFx128 (x : Args) : Shape := .bc ⟨0x7D, (· == 0), .q, .v64, .s, .z, tFx128, false, noExtra⟩ x
def Shape.cvt (x : Args) : Shape := .bc ⟨0x70, cvtFn false, .v, .vSrc, .imm, .z, tCvt, false, cvtOk⟩ x
def Shape.cvtIns (x : Args) : Shape := .bc ⟨0x70, cvtFn true, .vNoSup, .vSrc, .imm, .z, tCvt, false, cvtOk⟩ x
def Shape.quant (x : Args) : Shape := .bc ⟨0x71, (fun n => n == 2 || n == 5 || n == 6), .v, .vSrc, .z, .z, tQuant, false, noExtra⟩ x
def Shape.dequant (x : Args) : Shape := .bc ⟨0x72, (fun n => n == 7 || n == 9 || n == 10 || n == 11), .v, .v32, .z, .z, tF, false, noExtra⟩ x
def Shape.lcvtTo (x : Args) : Shape := .bc ⟨0x73, (· == 0), .v32, .v, .z, .z, tF, false, noExtra⟩ x
def Shape.lcvtFrom (x : Args) : Shape := .bc ⟨0x73, (· == 1), .v, .v32, .z, .z, tF, false, noExtra⟩ x
def Shape.lcvtProd (x : Args) : Shape := .bc ⟨0x73, (· == 2), .v, .v32, .v32, .z, tF, false, noExtra⟩ x
def Shape.perm (x : Args) : Shape := .bc ⟨0x74, (· == 0), .v, .v, .v32, .v, tN, false, noExtra⟩ x
def Shape.shfl (x : Args) : Shape := .bc ⟨0x75, (· < 32), .v, .v, .v32, .v, tN, false, noExtra⟩ x
def Shape.bcast (x : Args) : Shape := .bc ⟨0x76, (· == 0), .v, .v, .s, .v, tN, false, noExtra⟩ x
def Shape.bcastFirst (x : Args) : Shape := .bc ⟨0x76, (· == 1), .v, .v, .z, .v, tN, false, noExtra⟩ x
def Shape.redx (x : Args) : Shape := .bc ⟨0x77, (· < 64), .v, .v, .z, .z, tAll, false, redxTy⟩ x
def Shape.scanx (x : Args) : Shape := .bc ⟨0x78, (· < 16), .v, .v, .z, .z, tAll, false, redxTy⟩ x
def Shape.ballot (x : Args) : Shape := .bc ⟨0x79, (· == 0), .sd, .v, .z, .z, tN, false, noExtra⟩ x
def Shape.voteAll (x : Args) : Shape := .bc ⟨0x7A, (· == 0), .sd, .v, .z, .z, tN, false, noExtra⟩ x
def Shape.voteAny (x : Args) : Shape := .bc ⟨0x7A, (· == 1), .sd, .v, .z, .z, tN, false, noExtra⟩ x
def Shape.voteUni (x : Args) : Shape := .bc ⟨0x7A, (· == 2), .sd, .v, .z, .z, tN, false, noExtra⟩ x
def Shape.rng (x : Args) : Shape := .bc ⟨0x7B, (· < 4), .q, .v64, .v64, .v64, tN32, false, noExtra⟩ x
def Shape.rngf (x : Args) : Shape := .bc ⟨0x7C, (· == 0), .v, .v32, .z, .z, tF32, false, noExtra⟩ x
def Shape.vrd (x : Args) : Shape := .bc ⟨0x7E, (· == 0), .v, .v32, .vreg, .z, tN32, false, noExtra⟩ x
def Shape.vwr (x : Args) : Shape := .bc ⟨0x7F, (· == 0), .vNoSup, .v, .v32, .z, tN32, false, noExtra⟩ x
def Shape.ld (x : Args) : Shape := .bc ⟨0x80, (· == 0), .sdTy, .pair, .s, .z, tInt, false, noExtra⟩ x
def Shape.st (x : Args) : Shape := .bc ⟨0x81, (· == 0), .z, .pair, .s, .sTy, tInt, false, noExtra⟩ x
def Shape.vld (x : Args) : Shape := .bc ⟨0x82, (fun n => n == 0 || n == 32), .v, .pair, .v32, .z, tElem, false, noExtra⟩ x
def Shape.vst (x : Args) : Shape := .bc ⟨0x83, (fun n => n == 0 || n == 32), .z, .pair, .v32, .v, tElem, false, noExtra⟩ x
def Shape.vldc (x : Args) : Shape := .bc ⟨0x84, (· == 0), .v, .pair, .s, .z, tElem, false, noExtra⟩ x
def Shape.vstc (x : Args) : Shape := .bc ⟨0x85, (· == 0), .z, .pair, .s, .v, tElem, false, noExtra⟩ x
def Shape.tld (x : Args) : Shape := .bc ⟨0x86, (· == 0), .v, .handle, (.block 1 false), .z, tElem, false, noExtra⟩ x
def Shape.tst (x : Args) : Shape := .bc ⟨0x87, (· == 0), .z, .handle, (.block 1 false), .v, tElem, false, noExtra⟩ x
def Shape.lld (x : Args) : Shape := .bc ⟨0x88, (· == 0), .v, .v32, .s, .z, tElem, false, noExtra⟩ x
def Shape.lst (x : Args) : Shape := .bc ⟨0x89, (· == 0), .z, .v32, .s, .v, tElem, false, noExtra⟩ x
def Shape.atxCas (x : Args) : Shape := .bc ⟨0x8A, (fun n => n == 0 || n == 32), .v, .pair, .v32, .v, tN, false, noExtra⟩ x
def Shape.atxXchg (x : Args) : Shape := .bc ⟨0x8A, (fun n => n == 1 || n == 33), .v, .pair, .v32, .v, tN, false, noExtra⟩ x
def Shape.red (x : Args) : Shape := .bc ⟨0x8B, (fun n => n < 8 || (32 ≤ n && n < 40)), .z, .pair, .v32, .v, tAll, false, redTy⟩ x
def Shape.atf (x : Args) : Shape := .bc ⟨0x8C, (fun n => n < 6 || (32 ≤ n && n < 38)), .v, .pair, .v32, .v, t3264, false, noExtra⟩ x
def Shape.mcst (x : Args) : Shape := .bc ⟨0x8D, (· == 0), .z, .pair, .v, .imm, tElem, false, mcstOk⟩ x
def Shape.mcstReduce (x : Args) : Shape := .bc ⟨0x8D, (fun n => 1 ≤ n && n < 9), .z, .pair, .v, .imm, tAll, false, mcstRedOk⟩ x
def Shape.fenceRel (x : Args) : Shape := .bc ⟨0x8E, (fun n => n % 4 == 0 && n < 20), .z, .z, .z, .z, t0, false, noExtra⟩ x
def Shape.fenceAcq (x : Args) : Shape := .bc ⟨0x8E, (fun n => n % 4 == 1 && n < 20), .z, .z, .z, .z, t0, false, noExtra⟩ x
def Shape.fenceAr (x : Args) : Shape := .bc ⟨0x8E, (fun n => n % 4 == 2 && n < 20), .z, .z, .z, .z, t0, false, noExtra⟩ x
def Shape.ldacq (x : Args) : Shape := .bc ⟨0x8F, (fun n => n % 4 == 0 && n < 20), .sdTy, .pair, .s, .z, t3264, false, noExtra⟩ x
def Shape.strel (x : Args) : Shape := .bc ⟨0x90, (fun n => n % 4 == 0 && n < 20), .z, .pair, .s, .sTy, t3264, false, noExtra⟩ x
def Shape.pfch (x : Args) : Shape := .bc ⟨0x91, (· == 0), .z, .pair, .s, .z, t0, false, noExtra⟩ x
def Shape.hld (x : Args) : Shape := .bc ⟨0x92, (· == 0), .handle, .pair, .s, .z, t0, false, noExtra⟩ x
def Shape.hldPool (x : Args) : Shape := .bc ⟨0x92, (· == 1), .handle, .z, .s, .z, t0, false, noExtra⟩ x
def Shape.hst (x : Args) : Shape := .bc ⟨0x93, (· == 0), .z, .pair, .s, .handle, t0, false, noExtra⟩ x
def Shape.hset (x : Args) : Shape := .bc ⟨0x94, (· < 14), .handle, .hsetA, .z, .z, t0, false, noExtra⟩ x
def Shape.fpush (x : Args) : Shape := .bc ⟨0x95, (· == 0), .z, .s, .v32, .z, t0, false, noExtra⟩ x
def Shape.fpushTry (x : Args) : Shape := .bc ⟨0x95, (· == 1), .sd, .s, .v32, .z, t0, false, noExtra⟩ x
def Shape.fpop (x : Args) : Shape := .bc ⟨0x96, (· == 0), .v32, .s, .z, .z, t0, false, noExtra⟩ x
def Shape.fpopTry (x : Args) : Shape := .bc ⟨0x96, (· == 1), .v32, .s, .z, .sreg, t0, false, noExtra⟩ x
def Shape.bcopyIn (x : Args) : Shape := .bc ⟨0xA0, (· == 0), .sd, .handle, (.block 6 false), .s, t0, true, (flagsOk true)⟩ x
def Shape.bcopyInSlot (x : Args) : Shape := .bc ⟨0xA0, (fun n => n == 2 || n == 6), .sd, .handle, (.block 6 false), .slot, t0, true, (flagsOk false)⟩ x
def Shape.bcopyOut (x : Args) : Shape := .bc ⟨0xA0, (· == 1), .sd, .handle, (.block 6 false), .s, t0, true, (flagsOk true)⟩ x
def Shape.bfillLcl (x : Args) : Shape := .bc ⟨0xA1, (· == 0), .sd, .s, .s, .s, t0, true, (flagsOk false)⟩ x
def Shape.bfillT (x : Args) : Shape := .bc ⟨0xA1, (· == 1), .sd, .handle, (.block 6 false), .s, t0, true, (flagsOk false)⟩ x
def Shape.barInit (x : Args) : Shape := .bc ⟨0xA2, (· < 4), .z, .s, .s, .z, t0, false, noExtra⟩ x
def Shape.barArrive (x : Args) : Shape := .bc ⟨0xA3, (· == 0), .z, .s, .z, .z, t0, false, noExtra⟩ x
def Shape.barSync (x : Args) : Shape := .bc ⟨0xA4, (· == 0), .z, .s, .z, .z, t0, false, noExtra⟩ x
def Shape.barSyncSt (x : Args) : Shape := .bc ⟨0xA4, (· == 1), .sd, .s, .z, .z, t0, false, noExtra⟩ x
def Shape.barInval (x : Args) : Shape := .bc ⟨0xA5, (· == 0), .z, .s, .z, .z, t0, false, noExtra⟩ x
def Shape.gbar (x : Args) : Shape := .bc ⟨0xA6, (· == 0), .z, .z, .z, .z, t0, false, noExtra⟩ x
def Shape.gbarSt (x : Args) : Shape := .bc ⟨0xA6, (· == 1), .sd, .z, .z, .z, t0, false, noExtra⟩ x
def Shape.coll (x : Args) : Shape := .bc ⟨0xA7, (· == 0), .sd, .pair, .z, .z, t0, true, (flagsOk false)⟩ x
def Shape.kvalloc (x : Args) : Shape := .bc ⟨0xA8, (· == 0), .sd, .triple, .z, .z, t0, false, noExtra⟩ x
def Shape.kvget (x : Args) : Shape := .bc ⟨0xA9, (· == 0), .pair, .triple, .z, .z, t0, false, noExtra⟩ x
def Shape.kvshare (x : Args) : Shape := .bc ⟨0xAA, (· == 0), .sd, .triple, .triple, .z, t0, false, noExtra⟩ x
def Shape.kvfree (x : Args) : Shape := .bc ⟨0xAB, (· == 0), .sd, .triple, .z, .z, t0, false, noExtra⟩ x
def Shape.oclaim (x : Args) : Shape := .bc ⟨0xB0, (· == 0), .z, .s, .s, .z, t0, false, noExtra⟩ x
def Shape.orel (x : Args) : Shape := .bc ⟨0xB1, (· == 0), .z, .s, .s, .z, t0, false, noExtra⟩ x
def Shape.ofill (x : Args) : Shape := .bc ⟨0xB2, (· < 8), .slot, .s, .s, .ofillC, t0, false, noExtra⟩ x
def Shape.mma (x : Args) : Shape := .bc ⟨0xB3, (· == 0), .tile, .slot, .slot, .s, t0, false, noExtra⟩ x
def Shape.mmag (x : Args) : Shape := .bc ⟨0xB4, (· == 0), .tile4, .s, .s, .slot4, t0, true, noExtra⟩ x
def Shape.mmarow (x : Args) : Shape := .bc ⟨0xB5, (· == 0), .tile, .handle, (.block 2 false), .slot, t0, true, noExtra⟩ x
def Shape.aclr (x : Args) : Shape := .bc ⟨0xB6, (fun n => n == 0 || n == 32), .tile, .s, .anc, .z, t0, false, noExtra⟩ x
def Shape.adrain (x : Args) : Shape := .bc ⟨0xB7, (· == 0), .z, .s, .tile, .s, t0, false, noExtra⟩ x
def Shape.adrainRaw (x : Args) : Shape := .bc ⟨0xB7, (· == 1), .z, .s, .tile, .z, t0, false, noExtra⟩ x
def Shape.adrainRawSlot (x : Args) : Shape := .bc ⟨0xB7, (· == 3), .z, .s, .slot, .z, t0, false, noExtra⟩ x
def Shape.aload (x : Args) : Shape := .bc ⟨0xB8, (· == 0), .tile, .s, .z, .s, t0, false, noExtra⟩ x
def Shape.aloadAdd (x : Args) : Shape := .bc ⟨0xB8, (· == 1), .tile, .s, .z, .s, t0, false, noExtra⟩ x
def Shape.aloadRaw (x : Args) : Shape := .bc ⟨0xB8, (· == 2), .tile, .s, .z, .z, t0, false, noExtra⟩ x
def Shape.tstateSlot (x : Args) : Shape := .bc ⟨0xB9, (· == 0), .sd, .slot, .z, .z, t0, false, noExtra⟩ x
def Shape.tstateTile (x : Args) : Shape := .bc ⟨0xB9, (· == 1), .sd, .tile, .z, .z, t0, false, noExtra⟩ x
def Shape.tstateFlags (x : Args) : Shape := .bc ⟨0xB9, (· == 3), .sd, .tile, .z, .z, t0, false, noExtra⟩ x
def Shape.mchk (x : Args) : Shape := .bc ⟨0xBA, (· == 0), .z, .tile, .z, .z, t0, false, noExtra⟩ x
def Shape.mchkSt (x : Args) : Shape := .bc ⟨0xBA, (· == 1), .sd, .tile, .z, .z, t0, false, noExtra⟩ x
def Shape.isect (x : Args) : Shape := .bc ⟨0xC0, (· == 0), .q, .v32, .v32, (.block 4 false), t0, false, noExtra⟩ x
def Shape.isdot (x : Args) : Shape := .bc ⟨0xC1, (· == 0), .pair, .v32, .v32, (.block 7 true), tB8, false, noExtra⟩ x
def Shape.spmulo (x : Args) : Shape := .bc ⟨0xC2, (· == 0), .sd, .handle, .handle, (.block 5 true), t0, true, (flagsOk false)⟩ x
def Shape.spmerge (x : Args) : Shape := .bc ⟨0xC3, (· == 0), .sd, (.block 3 true), .handle, .z, t0, true, (flagsOk false)⟩ x
def Shape.sptile (x : Args) : Shape := .bc ⟨0xC4, (· == 0), .sd, .pair, .tile, .handle, t0, false, noExtra⟩ x
def Shape.lshfam (x : Args) : Shape := .bc ⟨0xC5, (· == 0), .fam, .pair, .s, .z, t0, false, noExtra⟩ x
def Shape.lshproj (x : Args) : Shape := .bc ⟨0xC6, (· == 0), .veven, .fam, .s, .z, tProj, false, noExtra⟩ x
def Shape.lshprobe (x : Args) : Shape := .bc ⟨0xC7, (· == 0), .sd, .fam, .veven, (.block 3 false), t0, false, noExtra⟩ x
def Shape.lshins (x : Args) : Shape := .bc ⟨0xC8, (· == 0), .sd, .fam, .veven, .s, t0, false, noExtra⟩ x
def Shape.lshdel (x : Args) : Shape := .bc ⟨0xC9, (· == 0), .sd, .fam, .veven, .s, t0, false, noExtra⟩ x
def Shape.lshstep (x : Args) : Shape := .bc ⟨0xCA, (· == 0), .sd, .fam, .s, .z, t0, false, noExtra⟩ x
def Shape.lshstat (x : Args) : Shape := .bc ⟨0xCB, (· == 0), (.block 4 false), .fam, .s, .z, t0, false, noExtra⟩ x
def Shape.scrb (x : Args) : Shape := .bc ⟨0xD0, (· < 2), (.block 4 true), .pairOrS, .s, .z, t0, false, noExtra⟩ x
def Shape.scrchk (x : Args) : Shape := .bc ⟨0xD1, (· < 2), .sd, .pairOrS, .s, .pair, t0, false, noExtra⟩ x
def Shape.scrfold (x : Args) : Shape := .bc ⟨0xD2, (· == 0), (.block 4 true), (.block 4 true), (.block 4 true), .z, t0, false, noExtra⟩ x
def Shape.scrfoldSub (x : Args) : Shape := .bc ⟨0xD2, (· == 1), (.block 4 true), (.block 4 true), (.block 4 true), .z, t0, false, noExtra⟩ x
def Shape.scrrd (x : Args) : Shape := .bc ⟨0xD3, (· == 0), (.block 4 false), .z, .z, .z, t0, false, noExtra⟩ x

/-- The words each instruction is made of. -/
def Instr.shape : Instr → Shape
  | .sadd x => .sadd x
  | .saddC x => .saddC x
  | .ssub x => .ssub x
  | .ssubC x => .ssubC x
  | .smul x => .smul x
  | .smulC x => .smulC x
  | .smulh x => .smulh x
  | .smulhC x => .smulhC x
  | .smulhn x => .smulhn x
  | .smulhnC x => .smulhnC x
  | .sdiv x => .sdiv x
  | .sdivC x => .sdivC x
  | .sdivn x => .sdivn x
  | .sdivnC x => .sdivnC x
  | .srem x => .srem x
  | .sremC x => .sremC x
  | .sremn x => .sremn x
  | .sremnC x => .sremnC x
  | .sand x => .sand x
  | .sandC x => .sandC x
  | .sor x => .sor x
  | .sorC x => .sorC x
  | .sxor x => .sxor x
  | .sxorC x => .sxorC x
  | .sandn x => .sandn x
  | .sandnC x => .sandnC x
  | .sshl x => .sshl x
  | .sshlC x => .sshlC x
  | .sshr x => .sshr x
  | .sshrC x => .sshrC x
  | .ssra x => .ssra x
  | .ssraC x => .ssraC x
  | .srot x => .srot x
  | .srotC x => .srotC x
  | .smin x => .smin x
  | .sminC x => .sminC x
  | .smax x => .smax x
  | .smaxC x => .smaxC x
  | .sminn x => .sminn x
  | .sminnC x => .sminnC x
  | .smaxn x => .smaxn x
  | .smaxnC x => .smaxnC x
  | .scmp cc x => .scmp cc x
  | .scmpC x => .scmpC x
  | .ssel x => .ssel x
  | .sselC x => .sselC x
  | .smov x => .smov x
  | .smovC x => .smovC x
  | .sclz x => .sclz x
  | .sclzC x => .sclzC x
  | .spopc x => .spopc x
  | .spopcC x => .spopcC x
  | .sbrev x => .sbrev x
  | .sbrevC x => .sbrevC x
  | .sbfx x => .sbfx x
  | .sbfxC x => .sbfxC x
  | .sbfxSx x => .sbfxSx x
  | .sbfxSxC x => .sbfxSxC x
  | .sbfi x => .sbfi x
  | .sbfiC x => .sbfiC x
  | .sadd64 x => .sadd64 x
  | .sadd64C x => .sadd64C x
  | .ssub64 x => .ssub64 x
  | .ssub64C x => .ssub64C x
  | .smul64 x => .smul64 x
  | .smul64C x => .smul64C x
  | .br x => .br x
  | .brc x => .brc x
  | .brv x => .brvIf x
  | .brvNot x => .brvNot x
  | .jmp x => .jmp x
  | .call x => .call x
  | .callIndirect x => .callIndirect x
  | .ret x => .ret x
  | .join x => .join x
  | .loop x => .loop x
  | .pushp x => .pushp x
  | .invp x => .invp x
  | .popp x => .popp x
  | .exit x => .exit x
  | .reconverge => .event
  | .spinfoState x => .spinfoState x
  | .spinfoActive x => .spinfoActive x
  | .spinfoExec x => .spinfoExec x
  | .yield x => .yield x
  | .nop x => .nop x
  | .brk x => .brk x
  | .brkCode x => .brkCode x
  | .trap x => .trap x
  | .rte x => .rte x
  | .setfmt x => .setfmt x
  | .setrnd x => .setrnd x
  | .sget x => .sget x
  | .sput x => .sput x
  | .ltm x => .ltm x
  | .ppoint x => .ppoint x
  | .lnch x => .lnch x
  | .sigDev x => .sigDev x
  | .sigSys x => .sigSys x
  | .wget x => .wget x
  | .bmode x => .bmode x
  | .xinv x => .xinv x
  | .cmaintInv x => .cmaintInv x
  | .cmaintMerge x => .cmaintMerge x
  | .cmaintPurge x => .cmaintPurge x
  | .cmaintPurgeasid x => .cmaintPurgeasid x
  | .halt x => .halt x
  | .sysc x => .sysc x
  | .syscReply _ _ _ => .event
  | .vadd x => .vadd x
  | .vsub x => .vsub x
  | .vmul x => .vmul x
  | .vmulh x => .vmulh x
  | .vmad x => .vmad x
  | .vmin x => .vmin x
  | .vmax x => .vmax x
  | .vabs x => .vabs x
  | .vand x => .vand x
  | .vor x => .vor x
  | .vxor x => .vxor x
  | .vandn x => .vandn x
  | .vshl x => .vshl x
  | .vshr x => .vshr x
  | .vsra x => .vsra x
  | .vclz x => .vclz x
  | .vpopc x => .vpopc x
  | .vbfx x => .vbfx x
  | .vbfi x => .vbfi x
  | .vcmp x => .vcmp x
  | .vsel x => .vsel x
  | .vmov x => .vmov x
  | .vdot4 x => .vdot4 x
  | .vdot4Mix x => .vdot4Mix x
  | .vdot2 x => .vdot2 x
  | .vdot2Mix x => .vdot2Mix x
  | .vadd64 x => .vadd64 x
  | .fadd x => .fadd x
  | .fsub x => .fsub x
  | .fmul x => .fmul x
  | .ffma x => .ffma x
  | .fmin x => .fmin x
  | .fmax x => .fmax x
  | .fcmp x => .fcmp x
  | .fdiv x => .fdiv x
  | .fsqrt x => .fsqrt x
  | .frcp x => .frcp x
  | .frsq x => .frsq x
  | .fexp2 x => .fexp2 x
  | .flog2 x => .flog2 x
  | .fsin x => .fsin x
  | .fcos x => .fcos x
  | .ftanh x => .ftanh x
  | .fclass x => .fclass x
  | .fscale x => .fscale x
  | .fsgnCopy x => .fsgnCopy x
  | .fsgnNcopy x => .fsgnNcopy x
  | .fsgnXor x => .fsgnXor x
  | .fxacc x => .fxacc x
  | .fxcvt x => .fxcvt x
  | .fxset x => .fxset x
  | .fxadd x => .fxadd x
  | .fxpkFx64 x => .fxpkFx64 x
  | .fxpkFx128 x => .fxpkFx128 x
  | .cvt x => .cvt x
  | .cvtIns x => .cvtIns x
  | .quant x => .quant x
  | .dequant x => .dequant x
  | .lcvtTo x => .lcvtTo x
  | .lcvtFrom x => .lcvtFrom x
  | .lcvtProd x => .lcvtProd x
  | .perm x => .perm x
  | .shfl x => .shfl x
  | .bcast x => .bcast x
  | .bcastFirst x => .bcastFirst x
  | .redx x => .redx x
  | .scanx x => .scanx x
  | .ballot x => .ballot x
  | .voteAll x => .voteAll x
  | .voteAny x => .voteAny x
  | .voteUni x => .voteUni x
  | .rng x => .rng x
  | .rngf x => .rngf x
  | .vrd x => .vrd x
  | .vwr x => .vwr x
  | .ld x => .ld x
  | .st x => .st x
  | .vld x => .vld x
  | .vst x => .vst x
  | .vldc x => .vldc x
  | .vstc x => .vstc x
  | .tld x => .tld x
  | .tst x => .tst x
  | .lld x => .lld x
  | .lst x => .lst x
  | .atxCas x => .atxCas x
  | .atxXchg x => .atxXchg x
  | .red x => .red x
  | .atf x => .atf x
  | .mcst x => .mcst x
  | .mcstReduce x => .mcstReduce x
  | .fenceRel x => .fenceRel x
  | .fenceAcq x => .fenceAcq x
  | .fenceAr x => .fenceAr x
  | .ldacq x => .ldacq x
  | .strel x => .strel x
  | .pfch x => .pfch x
  | .hld x => .hld x
  | .hldPool x => .hldPool x
  | .hst x => .hst x
  | .hset x => .hset x
  | .fpush x => .fpush x
  | .fpushTry x => .fpushTry x
  | .fpop x => .fpop x
  | .fpopTry x => .fpopTry x
  | .bcopyIn x => .bcopyIn x
  | .bcopyInSlot x => .bcopyInSlot x
  | .bcopyOut x => .bcopyOut x
  | .bfillLcl x => .bfillLcl x
  | .bfillT x => .bfillT x
  | .engineComplete _ => .event
  | .barInit x => .barInit x
  | .barArrive x => .barArrive x
  | .barSync x => .barSync x
  | .barSyncSt x => .barSyncSt x
  | .barInval x => .barInval x
  | .gbar x => .gbar x
  | .gbarSt x => .gbarSt x
  | .barWaitRelease _ _ => .event
  | .coll x => .coll x
  | .kvalloc x => .kvalloc x
  | .kvget x => .kvget x
  | .kvshare x => .kvshare x
  | .kvfree x => .kvfree x
  | .kvReply _ _ => .event
  | .blockCopyOnWrite _ _ => .event
  | .oclaim x => .oclaim x
  | .orel x => .orel x
  | .ofill x => .ofill x
  | .mma x => .mma x
  | .mmag x => .mmag x
  | .mmarow x => .mmarow x
  | .passStart _ => .event
  | .passEnd _ => .event
  | .aclr x => .aclr x
  | .adrain x => .adrain x
  | .adrainRaw x => .adrainRaw x
  | .adrainRawSlot x => .adrainRawSlot x
  | .aload x => .aload x
  | .aloadAdd x => .aloadAdd x
  | .aloadRaw x => .aloadRaw x
  | .tstateSlot x => .tstateSlot x
  | .tstateTile x => .tstateTile x
  | .tstateFlags x => .tstateFlags x
  | .mchk x => .mchk x
  | .mchkSt x => .mchkSt x
  | .isect x => .isect x
  | .isdot x => .isdot x
  | .spmulo x => .spmulo x
  | .spmerge x => .spmerge x
  | .sptile x => .sptile x
  | .lshfam x => .lshfam x
  | .lshproj x => .lshproj x
  | .lshprobe x => .lshprobe x
  | .lshins x => .lshins x
  | .lshdel x => .lshdel x
  | .lshstep x => .lshstep x
  | .lshstat x => .lshstat x
  | .retrievalComplete _ => .event
  | .frozenBucketTimeout _ => .event
  | .scrb x => .scrb x
  | .scrchk x => .scrchk x
  | .scrfold x => .scrfold x
  | .scrfoldSub x => .scrfoldSub x
  | .scrrd x => .scrrd x
  | .fetchLine _ _ _ => .event
  | .homeRead _ _ _ => .event
  | .storeAtHome _ => .event
  | .sectorUnpin _ _ _ => .event
  | .pageMapReply _ _ _ => .event
  | .pacFill _ _ _ => .event
  | .launchMessage _ _ => .event
  | .gangPlacement => .event
  | .priorityAging => .event
  | .reservation => .event
  | .reservationPreempt _ => .event
  | .groupRetire _ => .event
  | .teamRetire _ => .event
  | .gridComplete _ => .event
  | .counterAssign _ _ => .event
  | .queueOpen _ _ => .event
  | .preemptRequest _ => .event
  | .gangHalt _ => .event
  | .saveComplete _ => .event
  | .gangResume _ => .event
  | .contextSwitch _ => .event
  | .unplaceableTerminate _ => .event
  | .barrierTimeout _ _ => .event
  | .fifoTimeout _ _ => .event
  | .rendezvousTimeout _ => .event
  | .collJoinTimeout _ => .event
  | .chunkArrival _ _ _ => .event
  | .chunkResend _ => .event
  | .collFailureNotice _ => .event
  | .remoteAtomicReply _ _ _ _ => .event
  | .fenceToken _ => .event
  | .fenceAck _ _ => .event
  | .windowGrant _ _ _ => .event
  | .windowRevoke _ _ _ => .event
  | .destUnreachable _ => .event
  | .hostAccess _ _ _ _ => .event
  | .unifiedRangeChange _ _ _ _ => .event
  | .checkpointRequest _ _ => .event
  | .checkpointAbandon => .event
  | .restoreRequest _ _ => .event
  | .coldStart _ => .event
  | .warmStart _ _ => .event
  | .stop => .event
  | .powerDomainTimeout _ _ => .event
  | .attestationRequest _ => .event
  | .powerLoop _ => .event
  | .thermalClamp _ => .event
  | .blackBoxCopy => .event
  | .hbmScrub _ _ => .event
  | .linkRetransmit _ _ _ => .event
  | .unitRetire _ _ _ _ => .event
  | .halfWidthSwitch _ _ => .event
  | .layerRetire _ _ => .event
  | .blockMove _ _ _ => .event
  | .bridgeRetire _ _ => .event
  | .bayFence _ _ _ => .event
  | .testPackage _ _ => .event
  | .snapshotCopy _ _ => .event
  | .rollback _ => .event
  | .contextTerminate _ _ => .event
  | .launchKill _ => .event
  | .debugResume _ _ => .event
  | .accessTableWrite _ _ _ => .event
  | .violationDrain _ => .event
  | .loadObject _ _ _ _ _ => .event
  | .illegalInstruction _ _ => .event
  | .fillDrainComplete _ _ => .event
  | .lineEviction _ _ _ _ => .event
  | .supplyLoss => .event
  | .mpFailure => .event
  | .debuggerAttach _ _ => .event
  | .mappingChange _ => .event
  | .releaseWaitEnd _ _ => .event

end Sys2Proof
end

