-- ==== Sys2Proof/WellFormed.lean ====
section
/-! DEFINITION. When an instruction is one that the encoding tables admit. -/

namespace Sys2Proof

/-- The checks of Form A (R144): a defined fn4, a zero second source where there is one source, and even
registers where the fields name pairs. -/
def formAOk (fnOk one pairs : Bool) (x : AArgs) : Bool :=
  fnOk && (!one || x.b == 0) &&
    (!pairs || (x.d.toNat % 2 == 0 && x.a.toNat % 2 == 0 && x.b.toNat % 2 == 0))

/-- The checks of Form B and Form C (R145, R148, R149, R152): fn6, type, literal, round field, each field
in its role, and the instruction's own checks. -/
def formBCOk (r : Row) (x : Args) : Bool :=
  r.fn x.fn.toNat && r.ty x.ty && (!r.needLit || x.lit.isSome) && x.rnd != 6 &&
    r.d.okDest x && r.a.okSrc x x.a && r.b.okSrc x x.b && r.c.okSrc x x.c && r.extra x

/-- Whether the instruction is well formed; an event of the device has no encoding to be wrong. -/
def Instr.wf (i : Instr) : Bool :=
  match i.shape with
  | .formA _ _ ok one pairs x => formAOk ok one pairs x
  | .bc r x => formBCOk r x
  | .brv _ x => x.rnd != 6
  | .event => true

/-- Whether the instruction has an encoding. -/
def Instr.encodable (i : Instr) : Bool :=
  match i.shape with
  | .event => false
  | _ => true

end Sys2Proof
end

