-- ==== Sys2Proof/Decode.lean ====
section
/-! DEFINITION. The decoder, total on any words, and the encoder. -/

namespace Sys2Proof

/-- Why words are no instruction (R138, R152, R153): a pad unit; a line that ends inside the instruction;
a reserved opcode (cause 0x01); a form, fn, field, m12 or type that is not legal (cause 0x02). -/
inductive DecodeError where
  | pad | short | opcode | field
  deriving DecidableEq, Repr

/-- The fields of a Form B or C instruction before they are read (R143). -/
structure Raw where
  op : BitVec 8
  fn : BitVec 6
  d : BitVec 9
  a : BitVec 9
  b : BitVec 9
  c : BitVec 9
  ty : BitVec 4
  rnd : BitVec 3
  hint : BitVec 2
  r61 : BitVec 1
  r62 : BitVec 2
  lit : Option Word
  deriving DecidableEq, Repr

/-- A source field (R145), if it is not a reserved value. -/
def Src.decode (f : BitVec 9) : Option Src :=
  if f.getLsbD 8 then
    match (f.extractLsb' 6 2).toNat with
    | 0 => if f.extractLsb' 2 4 = 0 then some (.latch (f.extractLsb' 0 2)) else none
    | 1 => some (.imm (f.extractLsb' 0 6))
    | 2 => some (.bcast (f.extractLsb' 0 6))
    | _ =>
      match (f.extractLsb' 0 6).toNat with
      | 0 => some .lit
      | 1 => some (.special .lane)
      | 2 => some (.special .group)
      | 3 => some (.special .member)
      | 4 => some (.special .width)
      | 5 => some (.special .gang)
      | _ => none
  else some (.reg (f.extractLsb' 0 8))

/-- The fields of two units and a literal (R143). -/
def Raw.ofUnits (u0 u1 : Word) (lit : Option Word) : Raw :=
  { op := u0.extractLsb' 2 8, fn := u0.extractLsb' 10 6, d := u0.extractLsb' 16 9,
    a := u1.extractLsb' 0 2 ++ u0.extractLsb' 25 7, b := u1.extractLsb' 2 9, c := u1.extractLsb' 11 9,
    ty := u1.extractLsb' 20 4, rnd := u1.extractLsb' 24 3, hint := u1.extractLsb' 27 2,
    r61 := u1.extractLsb' 29 1, r62 := u1.extractLsb' 30 2, lit := lit }

/-- Whether an opcode is defined (R152). -/
def opcodeDefined (op : BitVec 8) : Bool :=
  let n := op.toNat
  n < 0x97 || (0xA0 ≤ n && n < 0xAC) || (0xB0 ≤ n && n < 0xBB) || (0xC0 ≤ n && n < 0xCC) ||
    (0xD0 ≤ n && n < 0xD4)

/-- The Form A instruction of opcodes 0x00 to 0x0F and fn4 (R144, R167). -/
def buildA0 (lo : Nat) (fn : BitVec 4) (x : AArgs) : Option Instr :=
  match lo with
  | 0 => if fn = 0 then some (.sadd x) else none
  | 1 => if fn = 0 then some (.ssub x) else none
  | 2 => if fn = 0 then some (.smul x) else none
  | 3 => if fn = 0 then some (.smulh x) else none
  | 4 => if fn = 0 then some (.smulhn x) else none
  | 5 => if fn = 0 then some (.sdiv x) else none
  | 6 => if fn = 0 then some (.sdivn x) else none
  | 7 => if fn = 0 then some (.srem x) else none
  | 8 => if fn = 0 then some (.sremn x) else none
  | 9 => if fn = 0 then some (.sand x) else none
  | 10 => if fn = 0 then some (.sor x) else none
  | 11 => if fn = 0 then some (.sxor x) else none
  | 12 => if fn = 0 then some (.sandn x) else none
  | 13 => if fn = 0 then some (.sshl x) else none
  | 14 => if fn = 0 then some (.sshr x) else none
  | 15 => if fn = 0 then some (.ssra x) else none
  | _ => none

/-- The Form A instruction of opcodes 0x10 to 0x1F and fn4 (R144, R167). -/
def buildA1 (lo : Nat) (fn : BitVec 4) (x : AArgs) : Option Instr :=
  match lo with
  | 0 => if fn = 0 then some (.srot x) else none
  | 1 => if fn = 0 then some (.smin x) else none
  | 2 => if fn = 0 then some (.smax x) else none
  | 3 => if fn = 0 then some (.sminn x) else none
  | 4 => if fn = 0 then some (.smaxn x) else none
  | 5 => some (.scmp fn x)
  | 6 => if fn = 0 then some (.ssel x) else none
  | 7 => if fn = 0 then some (.smov x) else none
  | 8 => if fn = 0 then some (.sclz x) else none
  | 9 => if fn = 0 then some (.spopc x) else none
  | 10 => if fn = 0 then some (.sbrev x) else none
  | 11 => if fn = 0 then some (.sbfx x) else if fn = 1 then some (.sbfxSx x) else none
  | 12 => if fn = 0 then some (.sbfi x) else none
  | 13 => if fn = 0 then some (.sadd64 x) else none
  | 14 => if fn = 0 then some (.ssub64 x) else none
  | 15 => if fn = 0 then some (.smul64 x) else none
  | _ => none

/-- The Form A instruction of an opcode and fn4. -/
def buildA (op : BitVec 8) (fn : BitVec 4) (x : AArgs) : Option Instr :=
  match op.toNat / 16 with
  | 0 => buildA0 (op.toNat % 16) fn x
  | 1 => buildA1 (op.toNat % 16) fn x
  | _ => none

/-- The instructions of opcodes 0x00 to 0x0F, by opcode[3:0] and fn6. -/
def buildOp0 (lo _fn : Nat) (x : Args) : Option Instr :=
  match lo with
  | 0 => some (.saddC x)
  | 1 => some (.ssubC x)
  | 2 => some (.smulC x)
  | 3 => some (.smulhC x)
  | 4 => some (.smulhnC x)
  | 5 => some (.sdivC x)
  | 6 => some (.sdivnC x)
  | 7 => some (.sremC x)
  | 8 => some (.sremnC x)
  | 9 => some (.sandC x)
  | 10 => some (.sorC x)
  | 11 => some (.sxorC x)
  | 12 => some (.sandnC x)
  | 13 => some (.sshlC x)
  | 14 => some (.sshrC x)
  | 15 => some (.ssraC x)
  | _ => none

/-- The instructions of opcodes 0x10 to 0x1F, by opcode[3:0] and fn6. -/
def buildOp1 (lo fn : Nat) (x : Args) : Option Instr :=
  match lo with
  | 0 => some (.srotC x)
  | 1 => some (.sminC x)
  | 2 => some (.smaxC x)
  | 3 => some (.sminnC x)
  | 4 => some (.smaxnC x)
  | 5 => some (.scmpC x)
  | 6 => some (.sselC x)
  | 7 => some (.smovC x)
  | 8 => some (.sclzC x)
  | 9 => some (.spopcC x)
  | 10 => some (.sbrevC x)
  | 11 => if (· == 0) fn then some (.sbfxC x) else if (· == 1) fn then some (.sbfxSxC x) else none
  | 12 => some (.sbfiC x)
  | 13 => some (.sadd64C x)
  | 14 => some (.ssub64C x)
  | 15 => some (.smul64C x)
  | _ => none

/-- The instructions of opcodes 0x20 to 0x2F, by opcode[3:0] and fn6. -/
def buildOp2 (lo fn : Nat) (x : Args) : Option Instr :=
  match lo with
  | 0 => some (.br x)
  | 1 => some (.brc x)
  | 3 => some (.jmp x)
  | 4 => if (· == 0) fn then some (.call x) else if (· == 1) fn then some (.callIndirect x) else none
  | 5 => some (.ret x)
  | 6 => some (.join x)
  | 7 => some (.loop x)
  | 8 => some (.pushp x)
  | 9 => some (.invp x)
  | 10 => some (.popp x)
  | 11 => some (.exit x)
  | 12 => if (· == 0) fn then some (.spinfoState x) else if (· == 1) fn then some (.spinfoActive x) else if (· == 2) fn then some (.spinfoExec x) else none
  | 13 => some (.yield x)
  | 14 => some (.nop x)
  | 15 => if x.lit.isNone then some (.brk x) else some (.brkCode x)
  | _ => none

/-- The instructions of opcodes 0x30 to 0x3F, by opcode[3:0] and fn6. -/
def buildOp3 (lo fn : Nat) (x : Args) : Option Instr :=
  match lo with
  | 0 => some (.trap x)
  | 1 => some (.rte x)
  | 2 => some (.setfmt x)
  | 3 => some (.setrnd x)
  | 4 => some (.sget x)
  | 5 => some (.sput x)
  | 6 => some (.ltm x)
  | 7 => some (.ppoint x)
  | 8 => some (.lnch x)
  | 9 => if (· == 0) fn then some (.sigDev x) else if (· == 1) fn then some (.sigSys x) else none
  | 10 => some (.wget x)
  | 11 => some (.bmode x)
  | 12 => some (.xinv x)
  | 13 => if (· == 0) fn then some (.cmaintInv x) else if (· == 1) fn then some (.cmaintMerge x) else if (· == 2) fn then some (.cmaintPurge x) else if (· == 3) fn then some (.cmaintPurgeasid x) else none
  | 14 => some (.halt x)
  | 15 => some (.sysc x)
  | _ => none

/-- The instructions of opcodes 0x40 to 0x4F, by opcode[3:0] and fn6. -/
def buildOp4 (lo _fn : Nat) (x : Args) : Option Instr :=
  match lo with
  | 0 => some (.vadd x)
  | 1 => some (.vsub x)
  | 2 => some (.vmul x)
  | 3 => some (.vmulh x)
  | 4 => some (.vmad x)
  | 5 => some (.vmin x)
  | 6 => some (.vmax x)
  | 7 => some (.vabs x)
  | 8 => some (.vand x)
  | 9 => some (.vor x)
  | 10 => some (.vxor x)
  | 11 => some (.vandn x)
  | 12 => some (.vshl x)
  | 13 => some (.vshr x)
  | 14 => some (.vsra x)
  | 15 => some (.vclz x)
  | _ => none

/-- The instructions of opcodes 0x50 to 0x5F, by opcode[3:0] and fn6. -/
def buildOp5 (lo fn : Nat) (x : Args) : Option Instr :=
  match lo with
  | 0 => some (.vpopc x)
  | 1 => some (.vbfx x)
  | 2 => some (.vbfi x)
  | 3 => some (.vcmp x)
  | 4 => some (.vsel x)
  | 5 => some (.vmov x)
  | 6 => if (· == 0) fn then some (.vdot4 x) else if (· == 1) fn then some (.vdot4Mix x) else none
  | 7 => if (· == 0) fn then some (.vdot2 x) else if (· == 1) fn then some (.vdot2Mix x) else none
  | 8 => some (.vadd64 x)
  | 9 => some (.fadd x)
  | 10 => some (.fsub x)
  | 11 => some (.fmul x)
  | 12 => some (.ffma x)
  | 13 => some (.fmin x)
  | 14 => some (.fmax x)
  | 15 => some (.fcmp x)
  | _ => none

/-- The instructions of opcodes 0x60 to 0x6F, by opcode[3:0] and fn6. -/
def buildOp6 (lo fn : Nat) (x : Args) : Option Instr :=
  match lo with
  | 0 => some (.fdiv x)
  | 1 => some (.fsqrt x)
  | 2 => some (.frcp x)
  | 3 => some (.frsq x)
  | 4 => some (.fexp2 x)
  | 5 => some (.flog2 x)
  | 6 => some (.fsin x)
  | 7 => some (.fcos x)
  | 8 => some (.ftanh x)
  | 9 => some (.fclass x)
  | 10 => some (.fscale x)
  | 11 => if (· == 0) fn then some (.fsgnCopy x) else if (· == 1) fn then some (.fsgnNcopy x) else if (· == 2) fn then some (.fsgnXor x) else none
  | 12 => some (.fxacc x)
  | 13 => some (.fxcvt x)
  | 14 => some (.fxset x)
  | 15 => some (.fxadd x)
  | _ => none

/-- The instructions of opcodes 0x70 to 0x7F, by opcode[3:0] and fn6. -/
def buildOp7 (lo fn : Nat) (x : Args) : Option Instr :=
  match lo with
  | 0 => if (cvtFn false) fn then some (.cvt x) else if (cvtFn true) fn then some (.cvtIns x) else none
  | 1 => some (.quant x)
  | 2 => some (.dequant x)
  | 3 => if (· == 0) fn then some (.lcvtTo x) else if (· == 1) fn then some (.lcvtFrom x) else if (· == 2) fn then some (.lcvtProd x) else none
  | 4 => some (.perm x)
  | 5 => some (.shfl x)
  | 6 => if (· == 0) fn then some (.bcast x) else if (· == 1) fn then some (.bcastFirst x) else none
  | 7 => some (.redx x)
  | 8 => some (.scanx x)
  | 9 => some (.ballot x)
  | 10 => if (· == 0) fn then some (.voteAll x) else if (· == 1) fn then some (.voteAny x) else if (· == 2) fn then some (.voteUni x) else none
  | 11 => some (.rng x)
  | 12 => some (.rngf x)
  | 13 => if (· == 1) fn then some (.fxpkFx64 x) else if (· == 0) fn then some (.fxpkFx128 x) else none
  | 14 => some (.vrd x)
  | 15 => some (.vwr x)
  | _ => none

/-- The instructions of opcodes 0x80 to 0x8F, by opcode[3:0] and fn6. -/
def buildOp8 (lo fn : Nat) (x : Args) : Option Instr :=
  match lo with
  | 0 => some (.ld x)
  | 1 => some (.st x)
  | 2 => some (.vld x)
  | 3 => some (.vst x)
  | 4 => some (.vldc x)
  | 5 => some (.vstc x)
  | 6 => some (.tld x)
  | 7 => some (.tst x)
  | 8 => some (.lld x)
  | 9 => some (.lst x)
  | 10 => if (fun n => n == 0 || n == 32) fn then some (.atxCas x) else if (fun n => n == 1 || n == 33) fn then some (.atxXchg x) else none
  | 11 => some (.red x)
  | 12 => some (.atf x)
  | 13 => if (· == 0) fn then some (.mcst x) else if (fun n => 1 ≤ n && n < 9) fn then some (.mcstReduce x) else none
  | 14 => if (fun n => n % 4 == 0 && n < 20) fn then some (.fenceRel x) else if (fun n => n % 4 == 1 && n < 20) fn then some (.fenceAcq x) else if (fun n => n % 4 == 2 && n < 20) fn then some (.fenceAr x) else none
  | 15 => some (.ldacq x)
  | _ => none

/-- The instructions of opcodes 0x90 to 0x9F, by opcode[3:0] and fn6. -/
def buildOp9 (lo fn : Nat) (x : Args) : Option Instr :=
  match lo with
  | 0 => some (.strel x)
  | 1 => some (.pfch x)
  | 2 => if (· == 0) fn then some (.hld x) else if (· == 1) fn then some (.hldPool x) else none
  | 3 => some (.hst x)
  | 4 => some (.hset x)
  | 5 => if (· == 0) fn then some (.fpush x) else if (· == 1) fn then some (.fpushTry x) else none
  | 6 => if (· == 0) fn then some (.fpop x) else if (· == 1) fn then some (.fpopTry x) else none
  | _ => none

/-- The instructions of opcodes 0xA0 to 0xAF, by opcode[3:0] and fn6. -/
def buildOpA (lo fn : Nat) (x : Args) : Option Instr :=
  match lo with
  | 0 => if (· == 0) fn then some (.bcopyIn x) else if (fun n => n == 2 || n == 6) fn then some (.bcopyInSlot x) else if (· == 1) fn then some (.bcopyOut x) else none
  | 1 => if (· == 0) fn then some (.bfillLcl x) else if (· == 1) fn then some (.bfillT x) else none
  | 2 => some (.barInit x)
  | 3 => some (.barArrive x)
  | 4 => if (· == 0) fn then some (.barSync x) else if (· == 1) fn then some (.barSyncSt x) else none
  | 5 => some (.barInval x)
  | 6 => if (· == 0) fn then some (.gbar x) else if (· == 1) fn then some (.gbarSt x) else none
  | 7 => some (.coll x)
  | 8 => some (.kvalloc x)
  | 9 => some (.kvget x)
  | 10 => some (.kvshare x)
  | 11 => some (.kvfree x)
  | _ => none

/-- The instructions of opcodes 0xB0 to 0xBF, by opcode[3:0] and fn6. -/
noncomputable def buildOpB (lo fn : Nat) (x : Args) : Option Instr :=
  match lo with
  | 0 => some (.oclaim x)
  | 1 => some (.orel x)
  | 2 => some (.ofill x)
  | 3 => some (.mma x)
  | 4 => some (.mmag x)
  | 5 => some (.mmarow x)
  | 6 => some (.aclr x)
  | 7 => if (· == 0) fn then some (.adrain x) else if (· == 1) fn then some (.adrainRaw x) else if (· == 3) fn then some (.adrainRawSlot x) else none
  | 8 => if (· == 0) fn then some (.aload x) else if (· == 1) fn then some (.aloadAdd x) else if (· == 2) fn then some (.aloadRaw x) else none
  | 9 => if (· == 0) fn then some (.tstateSlot x) else if (· == 1) fn then some (.tstateTile x) else if (· == 3) fn then some (.tstateFlags x) else none
  | 10 => if (· == 0) fn then some (.mchk x) else if (· == 1) fn then some (.mchkSt x) else none
  | _ => none

/-- The instructions of opcodes 0xC0 to 0xCF, by opcode[3:0] and fn6. -/
noncomputable def buildOpC (lo _fn : Nat) (x : Args) : Option Instr :=
  match lo with
  | 0 => some (.isect x)
  | 1 => some (.isdot x)
  | 2 => some (.spmulo x)
  | 3 => some (.spmerge x)
  | 4 => some (.sptile x)
  | 5 => some (.lshfam x)
  | 6 => some (.lshproj x)
  | 7 => some (.lshprobe x)
  | 8 => some (.lshins x)
  | 9 => some (.lshdel x)
  | 10 => some (.lshstep x)
  | 11 => some (.lshstat x)
  | _ => none

/-- The instructions of opcodes 0xD0 to 0xDF, by opcode[3:0] and fn6. -/
noncomputable def buildOpD (lo fn : Nat) (x : Args) : Option Instr :=
  match lo with
  | 0 => some (.scrb x)
  | 1 => some (.scrchk x)
  | 2 => if (· == 0) fn then some (.scrfold x) else if (· == 1) fn then some (.scrfoldSub x) else none
  | 3 => some (.scrrd x)
  | _ => none

/-- The Form B or C instruction of an opcode and fn6, before its fields are checked. -/
noncomputable def buildBC (op : BitVec 8) (x : Args) : Option Instr :=
  let lo := op.toNat % 16
  let fn := x.fn.toNat
  match op.toNat / 16 with
  | 0 => buildOp0 lo fn x
  | 1 => buildOp1 lo fn x
  | 2 => buildOp2 lo fn x
  | 3 => buildOp3 lo fn x
  | 4 => buildOp4 lo fn x
  | 5 => buildOp5 lo fn x
  | 6 => buildOp6 lo fn x
  | 7 => buildOp7 lo fn x
  | 8 => buildOp8 lo fn x
  | 9 => buildOp9 lo fn x
  | 10 => buildOpA lo fn x
  | 11 => buildOpB lo fn x
  | 12 => buildOpC lo fn x
  | 13 => buildOpD lo fn x
  | _ => none

/-- The operands of a Form B or C instruction, if m12[63:62] is zero and every source field is read. -/
def Raw.args (r : Raw) : Option Args :=
  match Src.decode r.a, Src.decode r.b, Src.decode r.c with
  | some a, some b, some c =>
    if r.r62 = 0 then
      some { sup := r.d.getLsbD 8, d := r.d.extractLsb' 0 8, a := a, b := b, c := c, fn := r.fn,
             ty := Ty.ofCode r.ty, rnd := r.rnd, hint := r.hint, r61 := r.r61 == 1, lit := r.lit }
    else none
  | _, _, _ => none

/-- The `brv` of these fields (R151, R172): b9 and c9 are the join offset. -/
def Raw.brv (r : Raw) : Option Instr :=
  match r.lit with
  | none => none
  | some off =>
    if r.d = 0 ∧ r.a.extractLsb' 4 5 = 0 ∧ r.r62 = 0 ∧ r.ty = 0 ∧ r.fn.toNat < 2 then
      let x : BrvArgs :=
        { m := r.a.extractLsb' 0 4, join := r.c ++ r.b, off := off, rnd := r.rnd, hint := r.hint,
          r61 := r.r61 == 1 }
      some (if r.fn = 0 then .brv x else .brvNot x)
    else none

/-- The Form B or C instruction of these fields, before its fields are checked. -/
noncomputable def Raw.build (r : Raw) : Option Instr :=
  if r.op = 0x22 then r.brv
  else
    match r.args with
    | some x => buildBC r.op x
    | none => none

/-- A candidate that meets the checks of its row. -/
def checked (o : Option Instr) : Except DecodeError Instr :=
  match o with
  | some i => if i.wf then .ok i else .error .field
  | none => .error .field

/-- Decodes a Form B or Form C instruction (R152, R153). -/
noncomputable def decodeBC (u0 u1 : Word) (lit : Option Word) : Except DecodeError Instr :=
  let r := Raw.ofUnits u0 u1 lit
  if !opcodeDefined r.op then .error .opcode
  else if lit.isNone && r.op.toNat < 0x20 then .error .field
  else checked r.build

/-- Decodes a Form A instruction (R143, R144). -/
def decodeA (u0 : Word) : Except DecodeError Instr :=
  let op : BitVec 8 := u0.extractLsb' 2 8
  if !opcodeDefined op then .error .opcode
  else checked (buildA op (u0.extractLsb' 28 4)
    { d := u0.extractLsb' 10 6, a := u0.extractLsb' 16 6, b := u0.extractLsb' 22 6 })

/-- The units of an instruction by bits [1:0] of its first unit (R138); 1 for a pattern of pads. -/
def lengthOf (u0 : Word) : Nat :=
  match (u0.extractLsb' 0 2).toNat with
  | 1 => 2
  | 2 => 3
  | _ => 1

/-- The instruction that begins with the first of these units (R138, R143, R152). -/
noncomputable def decode (us : List Word) : Except DecodeError Instr :=
  match us with
  | [] => .error .short
  | u0 :: t =>
    match (u0.extractLsb' 0 2).toNat with
    | 0 => decodeA u0
    | 1 => match t with
      | u1 :: _ => decodeBC u0 u1 none
      | [] => .error .short
    | 2 => match t with
      | u1 :: u2 :: _ => decodeBC u0 u1 (some u2)
      | _ => .error .short
    | _ => if u0 = 0xFFFFFFFF then .error .pad else .error .field

/-- The instruction whose bits are `w`, first unit lowest; the units above `nbits` are zero. -/
noncomputable def decodeTableWord (nbits w : Nat) : Option Instr :=
  match decode (toWords 3 (w % 2 ^ nbits)) with
  | .ok i => some i
  | .error _ => none

/-! ## The encoder -/

/-- The source field of an operand (R145). -/
def Src.encode : Src → BitVec 9
  | .reg n => 0#1 ++ n
  | .latch k => 0b1000000#7 ++ k
  | .imm n => 0b101#3 ++ n
  | .bcast n => 0b110#3 ++ n
  | .lit => 0x1C0
  | .special .lane => 0x1C1
  | .special .group => 0x1C2
  | .special .member => 0x1C3
  | .special .width => 0x1C4
  | .special .gang => 0x1C5

/-- Bits [1:0] of the first unit of Form B and Form C. -/
def formBits (lit : Option Word) : BitVec 2 := if lit.isSome then 2 else 1

/-- The units of the fields (R143). -/
def Raw.units (r : Raw) : List Word :=
  let u0 : Word := r.a.extractLsb' 0 7 ++ r.d ++ r.fn ++ r.op ++ formBits r.lit
  let u1 : Word := r.r62 ++ r.r61 ++ r.hint ++ r.rnd ++ r.ty ++ r.c ++ r.b ++ r.a.extractLsb' 7 2
  match r.lit with
  | some l => [u0, u1, l]
  | none => [u0, u1]

/-- The fields of an instruction's operands. -/
def Args.raw (op : BitVec 8) (x : Args) : Raw :=
  { op := op, fn := x.fn, d := BitVec.ofBool x.sup ++ x.d, a := x.a.encode, b := x.b.encode,
    c := x.c.encode, ty := BitVec.ofNat 4 x.ty.code, rnd := x.rnd, hint := x.hint,
    r61 := BitVec.ofBool x.r61, r62 := 0, lit := x.lit }

/-- The units of these words, first unit first; an event of the device has none. -/
def Shape.units (i : Shape) : List Word :=
  match i with
  | .formA op fn _ _ _ x => [fn ++ x.b ++ x.a ++ x.d ++ op ++ 0#2]
  | .bc r x => (x.raw r.op).units
  | .brv neg x =>
    Raw.units { op := 0x22, fn := if neg then 1 else 0, d := 0, a := 0#5 ++ x.m,
                b := x.join.extractLsb' 0 9, c := x.join.extractLsb' 9 9, ty := 0, rnd := x.rnd,
                hint := x.hint, r61 := BitVec.ofBool x.r61, r62 := 0, lit := some x.off }
  | .event => []

/-- The units of an instruction. -/
def encode (i : Instr) : List Word := i.shape.units

/-- The units an instruction takes (R138). -/
def Shape.length (i : Shape) : Nat :=
  match i with
  | .formA .. => 1
  | .bc _ x => if x.lit.isSome then 3 else 2
  | .brv .. => 3
  | .event => 0

/-- The units an instruction takes. -/
def Instr.length (i : Instr) : Nat := i.shape.length

end Sys2Proof
end

