-- ==== Sys2Proof/Machine/Number.lean ====
section
/-! DEFINITION. Number formats, exact values and rounding (R59 to R80): every arithmetic result is an exact
value that is rounded once here. -/

namespace Sys2Proof.Machine

/-! ## Flags (R77) -/

/-- The exception flags NV, DZ, OF, UF, NX, FXO at bits 0 to 5 (R77). -/
abbrev Flags := BitVec 6
/-- Invalid operation. -/
def fNV : Flags := 1
/-- Division by zero. -/
def fDZ : Flags := 2
/-- Overflow. -/
def fOF : Flags := 4
/-- Underflow. -/
def fUF : Flags := 8
/-- Inexact. -/
def fNX : Flags := 16
/-- FX saturation. -/
def fFXO : Flags := 32
/-- A flag if a condition holds. -/
def flagIf (b : Bool) (f : Flags) : Flags := if b then f else 0

/-! ## Rounding (R70 to R72) -/

/-- A rounding mode; keyed stochastic rounding carries its word w0 (R70, R72). -/
inductive Mode where
  | rne | rtz | rup | rdn | rna
  | srk (w0 : Word)
  deriving DecidableEq, Repr

/-- Philox4x32-10 (R79): one round. -/
def philoxRound (k0 k1 : Nat) (c : Nat × Nat × Nat × Nat) : Nat × Nat × Nat × Nat :=
  let (c0, c1, c2, c3) := c
  let p0 := 0xD2511F53 * c0
  let p1 := 0xCD9E8D57 * c2
  (p1 / 2 ^ 32 ^^^ c1 ^^^ k0, p1 % 2 ^ 32, p0 / 2 ^ 32 ^^^ c3 ^^^ k1, p0 % 2 ^ 32)

/-- Philox4x32 (R79): rounds with the key bumped after each. -/
def philoxRounds (n k0 k1 : Nat) (c : Nat × Nat × Nat × Nat) : Nat × Nat × Nat × Nat :=
  match n with
  | 0 => c
  | n + 1 => philoxRounds n ((k0 + 0x9E3779B9) % 2 ^ 32) ((k1 + 0xBB67AE85) % 2 ^ 32) (philoxRound k0 k1 c)

/-- The four words of philox(key, ctr) (R79). -/
def philox (key : DWord) (ctr : Quad) : List Word :=
  let k := key.toNat
  let c := ctr.toNat
  let (a, b, d, e) := philoxRounds 10 (k % 2 ^ 32) (k / 2 ^ 32)
    (c % 2 ^ 32, c / 2 ^ 32 % 2 ^ 32, c / 2 ^ 64 % 2 ^ 32, c / 2 ^ 96)
  [BitVec.ofNat 32 a, BitVec.ofNat 32 b, BitVec.ofNat 32 d, BitVec.ofNat 32 e]

/-- RKEY.KEY (R73). -/
def keyOf (rkey : Quad) : DWord := rkey.extractLsb' 0 64
/-- RKEY.EBASE (R73). -/
def ebaseOf (rkey : Quad) : Nat := (rkey.extractLsb' 64 32).toNat
/-- RKEY.DRAW (R73). -/
def drawOf (rkey : Quad) : Nat := (rkey.extractLsb' 96 32).toNat

/-- The word w0 of R72 for logical index RKEY.EBASE + e and draw RKEY.DRAW + d. -/
def srkWord (rkey : Quad) (e d : Nat) : Word :=
  let ctr := (ebaseOf rkey + e) % 2 ^ 64 + 2 ^ 64 * ((drawOf rkey + d) % 2 ^ 64)
  (philox (keyOf rkey) (BitVec.ofNat 128 ctr)).headD 0

/-- The mode a code names (R70); codes 6 and 7 never reach here. -/
def modeOf (code : BitVec 3) (rkey : Quad) (e d : Nat) : Mode :=
  match code.toNat with
  | 0 => .rne
  | 1 => .rtz
  | 2 => .rup
  | 3 => .rdn
  | 4 => .rna
  | _ => .srk (srkWord rkey e d)

/-- Whether the magnitude n + rem / den, 0 < rem < den, rounds up to n + 1 (R70, R72). -/
def roundsUp (m : Mode) (neg : Bool) (even : Bool) (rem den : Nat) : Bool :=
  match m with
  | .rne => 2 * rem > den || (2 * rem == den && !even)
  | .rtz => false
  | .rup => !neg
  | .rdn => neg
  | .rna => 2 * rem ≥ den
  | .srk w =>
    if neg then !(w.toNat < (den - rem) * 2 ^ 32 / den) else w.toNat < rem * 2 ^ 32 / den

/-- The integer nearest to num / den by the mode, and whether it is inexact. -/
def roundQuot (m : Mode) (neg : Bool) (num den : Nat) : Nat × Bool :=
  let n := num / den
  let rem := num % den
  if rem = 0 then (n, false)
  else if roundsUp m neg (n % 2 == 0) rem den then (n + 1, true) else (n, true)

/-- The magnitude mag * 2^exp in units of 2^q, rounded, and whether it is inexact. -/
def roundAt (m : Mode) (neg : Bool) (mag : Nat) (exp q : Int) : Nat × Bool :=
  if q ≤ exp then (mag * 2 ^ (exp - q).toNat, false) else roundQuot m neg mag (2 ^ (q - exp).toNat)

/-! ## Exact values -/

/-- An exact value: a NaN (signalling or not), an infinity, or sign, mag * 2^exp. -/
inductive Val where
  | nan (signalling : Bool)
  | inf (neg : Bool)
  | fin (neg : Bool) (mag : Nat) (exp : Int)
  deriving DecidableEq, Repr

/-- The value of an integer times a power of two. -/
def Val.ofInt (i : Int) (exp : Int) : Val := .fin (decide (i < 0)) i.natAbs exp
/-- Whether it is a NaN. -/
def Val.isNan : Val → Bool
  | .nan _ => true
  | _ => false
/-- Whether it is a signalling NaN. -/
def Val.isSig : Val → Bool
  | .nan b => b
  | _ => false
/-- Whether it is an infinity. -/
def Val.isInf : Val → Bool
  | .inf _ => true
  | _ => false
/-- Whether it is a zero. -/
def Val.isZero : Val → Bool
  | .fin _ m _ => m == 0
  | _ => false
/-- The sign; a NaN has none. -/
def Val.neg : Val → Bool
  | .nan _ => false
  | .inf n => n
  | .fin n _ _ => n
/-- The value with its sign turned. -/
def Val.negate : Val → Val
  | .nan b => .nan b
  | .inf n => .inf !n
  | .fin n m e => .fin (!n) m e
/-- The magnitude. -/
def Val.abs : Val → Val
  | .nan b => .nan b
  | .inf _ => .inf false
  | .fin _ m e => .fin false m e
/-- The value times a power of two. -/
def Val.scale (x : Val) (k : Int) : Val :=
  match x with
  | .fin n m e => .fin n m (e + k)
  | y => y

/-- The signed integer mag in units of 2^q, for q at most its exponent. -/
def signedAt (neg : Bool) (mag : Nat) (exp q : Int) : Int :=
  let m : Int := (mag * 2 ^ (exp - q).toNat : Nat)
  if neg then -m else m

/-- The exact sum of two finite values; an exact zero takes the common sign of two zeros, and else the
sign of the mode (R206). -/
def addFin (m : Mode) (na : Bool) (ma : Nat) (ea : Int) (nb : Bool) (mb : Nat) (eb : Int) : Val :=
  let q := min ea eb
  let t := signedAt na ma ea q + signedAt nb mb eb q
  if t = 0 then .fin (if ma = 0 ∧ mb = 0 ∧ na = nb then na else m == .rdn) 0 q else Val.ofInt t q

/-- The exact sum; NaN if an operand is one or the infinities are opposite. -/
def Val.add (m : Mode) : Val → Val → Val
  | .nan a, y => .nan (a || y.isSig)
  | x, .nan b => .nan (x.isSig || b)
  | .inf a, .inf b => if a = b then .inf a else .nan true
  | .inf a, _ => .inf a
  | _, .inf b => .inf b
  | .fin na ma ea, .fin nb mb eb => addFin m na ma ea nb mb eb

/-- The exact product; NaN if an operand is one or a zero meets an infinity. -/
def Val.mul : Val → Val → Val
  | .nan a, y => .nan (a || y.isSig)
  | x, .nan b => .nan (x.isSig || b)
  | .inf a, .inf b => .inf (a != b)
  | .inf a, .fin n m _ => if m = 0 then .nan true else .inf (a != n)
  | .fin n m _, .inf b => if m = 0 then .nan true else .inf (b != n)
  | .fin na ma ea, .fin nb mb eb => .fin (na != nb) (ma * mb) (ea + eb)

/-- Compares two finite magnitudes-with-sign: negative, zero or positive difference. -/
def cmpFin (na : Bool) (ma : Nat) (ea : Int) (nb : Bool) (mb : Nat) (eb : Int) : Int :=
  let q := min ea eb
  signedAt na ma ea q - signedAt nb mb eb q

/-- Whether x < y; false on a NaN. -/
def Val.lt : Val → Val → Bool
  | .nan _, _ => false
  | _, .nan _ => false
  | .inf a, .inf b => a && !b
  | .inf a, _ => a
  | _, .inf b => !b
  | .fin na ma ea, .fin nb mb eb => cmpFin na ma ea nb mb eb < 0

/-- Whether x = y as numbers; false on a NaN. -/
def Val.eq : Val → Val → Bool
  | .nan _, _ => false
  | _, .nan _ => false
  | .inf a, .inf b => a == b
  | .inf _, _ => false
  | _, .inf _ => false
  | .fin na ma ea, .fin nb mb eb => cmpFin na ma ea nb mb eb == 0

/-! ## Floating-point formats (R59, R60) -/

/-- A floating-point format: exponent bits, fraction bits, bias, and whether it has infinities. -/
structure Fmt where
  ebits : Nat
  mbits : Nat
  bias : Int
  ieee : Bool
  deriving DecidableEq, Repr

/-- FP64. -/
def fmtF64 : Fmt := ⟨11, 52, 1023, true⟩
/-- FP32. -/
def fmtF32 : Fmt := ⟨8, 23, 127, true⟩
/-- FP16. -/
def fmtF16 : Fmt := ⟨5, 10, 15, true⟩
/-- BF16. -/
def fmtBF16 : Fmt := ⟨8, 7, 127, true⟩
/-- E5M2. -/
def fmtE5M2 : Fmt := ⟨5, 2, 15, true⟩
/-- E4M3, which has no infinities and one NaN pattern per sign. -/
def fmtE4M3 : Fmt := ⟨4, 3, 7, false⟩

/-- Bits of a format. -/
def Fmt.width (f : Fmt) : Nat := 1 + f.ebits + f.mbits
/-- The default NaN (R60). -/
def Fmt.defNan (f : Fmt) : Nat :=
  if f.ieee then (2 ^ f.ebits - 1) * 2 ^ f.mbits + 2 ^ (f.mbits - 1) else 2 ^ (f.ebits + f.mbits) - 1
/-- The pattern of an infinity, without sign. -/
def Fmt.infBits (f : Fmt) : Nat := (2 ^ f.ebits - 1) * 2 ^ f.mbits
/-- The pattern of the largest finite magnitude. -/
def Fmt.maxBits (f : Fmt) : Nat := if f.ieee then f.infBits - 1 else 2 ^ (f.ebits + f.mbits) - 2
/-- The sign bit as a number. -/
def Fmt.sign (f : Fmt) (neg : Bool) : Nat := if neg then 2 ^ (f.ebits + f.mbits) else 0

/-- The value of a pattern (R59); a NaN is signalling when its top fraction bit is clear (R60). -/
def Fmt.value (f : Fmt) (x : Nat) : Val :=
  let neg := x / 2 ^ (f.ebits + f.mbits) % 2 == 1
  let e := x / 2 ^ f.mbits % 2 ^ f.ebits
  let m := x % 2 ^ f.mbits
  if f.ieee && e == 2 ^ f.ebits - 1 then
    if m = 0 then .inf neg else .nan (m / 2 ^ (f.mbits - 1) == 0)
  else if !f.ieee && x % 2 ^ (f.ebits + f.mbits) == 2 ^ (f.ebits + f.mbits) - 1 then .nan false
  else if e = 0 then .fin neg m (1 - f.bias - f.mbits)
  else .fin neg (m + 2 ^ f.mbits) ((e : Int) - f.bias - f.mbits)

/-- The largest finite magnitude as mag and exponent. -/
def Fmt.maxMag (f : Fmt) : Nat × Int :=
  match f.value f.maxBits with
  | .fin _ m e => (m, e)
  | _ => (0, 0)

/-- Whether a finite magnitude is beyond the largest of the format. -/
def Fmt.beyond (f : Fmt) (mag : Nat) (exp : Int) : Bool :=
  let (m, e) := f.maxMag
  cmpFin false m e false mag exp < 0

/-- What an overflow gives under a mode (R61). -/
def Fmt.overflow (f : Fmt) (m : Mode) (neg : Bool) : Nat × Flags :=
  let toMax := match m with
    | .rtz => true
    | .rup => neg
    | .rdn => !neg
    | _ => false
  (f.sign neg + (if f.ieee && !toMax then f.infBits else f.maxBits), fOF ||| fNX)

/-- Rounds a nonzero finite magnitude into a format (R59, R61, R70): underflow is found after rounding. -/
def Fmt.roundFin (f : Fmt) (m : Mode) (neg : Bool) (mag : Nat) (exp : Int) : Nat × Flags :=
  let past := f.beyond mag exp
  if past && !f.ieee then f.overflow m neg
  else
    let m := if past then (match m with | .srk _ => .rne | m => m) else m
    let e : Int := (Nat.log2 mag : Int) + exp
    let emin := 1 - f.bias
    let q := max e emin - f.mbits
    let (n, nx) := roundAt m neg mag exp q
    let (u, _) := roundAt m neg mag exp (e - f.mbits)
    let tiny := e < emin && !(e == emin - 1 && u == 2 ^ (f.mbits + 1))
    let (n, q) := if n = 2 ^ (f.mbits + 1) then (2 ^ f.mbits, q + 1) else (n, q)
    let be := q + f.mbits + f.bias
    if be ≥ 2 ^ f.ebits - (if f.ieee then 1 else 0) then f.overflow m neg
    else
      let bits := if n < 2 ^ f.mbits then n else be.toNat * 2 ^ f.mbits + (n - 2 ^ f.mbits)
      (f.sign neg + bits, flagIf nx fNX ||| flagIf (tiny && nx) fUF)

/-- Rounds a value into a format. A NaN gives the default NaN and, if it is signalling, NV (R60, R61). -/
def Fmt.round (f : Fmt) (m : Mode) (x : Val) : Nat × Flags :=
  match x with
  | .nan b => (f.defNan, flagIf b fNV)
  | .inf n => if f.ieee then (f.sign n + f.infBits, 0) else (f.sign n + f.maxBits, fOF)
  | .fin n mag e => if mag = 0 then (f.sign n, 0) else f.roundFin m n mag e

/-! ## L6 (R62 to R64) -/

/-- The table T of R62. -/
def l6Table (j : Nat) : Nat :=
  match j with
  | 0 => 32768
  | 1 => 38968
  | 2 => 46341
  | _ => 55109

/-- The magnitude of a log field in units of 2^-19 (R62). -/
def l6Mag (f : Nat) : Nat := l6Table (f % 4) * 2 ^ (f / 4)

/-- The value of an L6 code; bits [7:6] are ignored (R62). -/
def l6Value (x : Nat) : Val :=
  if x % 64 = 32 then .fin false 0 (-19) else .fin (x / 32 % 2 == 1) (l6Mag (x % 32)) (-19)

/-- The product of two L6 codes by the sum of their fields (R63). -/
def l6Product (x y : Nat) : Val :=
  if x % 64 = 32 || y % 64 = 32 then .fin false 0 (-23)
  else
    let t := x % 32 + y % 32
    .fin (x / 32 % 2 != y / 32 % 2) (l6Table (t % 4) * 2 ^ (t / 4)) (-23)

/-- The code of a sign and field. -/
def l6Code (neg : Bool) (f : Nat) : Nat := if neg then 32 + f else f

/-- Rounds a nonzero finite magnitude into L6 (R61, R64): its neighbours among zero and the fields, where
field 0 has no negative. -/
def l6RoundFin (m : Mode) (neg : Bool) (mag : Nat) (exp : Int) : Nat × Flags :=
  let q := min exp (-19)
  let x := mag * 2 ^ (exp - q).toNat
  let u := 2 ^ (-19 - q).toNat
  let fields := (List.range 32).filter fun f => !(neg && f == 0)
  let below := fields.filter fun f => l6Mag f * u ≤ x
  let above := fields.filter fun f => x ≤ l6Mag f * u
  match below.getLast?, above.head? with
  | some lo, some hi =>
    if lo = hi then (l6Code neg lo, 0)
    else
      let a := l6Mag lo * u
      let b := l6Mag hi * u
      if roundsUp m neg (lo % 2 == 0) (x - a) (b - a) then (l6Code neg hi, fNX) else (l6Code neg lo, fNX)
  | none, some hi =>
    if roundsUp m neg true x (l6Mag hi * u) then (l6Code neg hi, fNX) else (32, fNX)
  | _, none => (l6Code neg 31, fOF ||| fNX)

/-- Rounds a value into L6 (R61, R64). -/
def l6Round (m : Mode) (x : Val) : Nat × Flags :=
  match x with
  | .nan _ => (32, fNV)
  | .inf n => (l6Code n 31, fOF)
  | .fin n mag e => if mag = 0 then (32, 0) else l6RoundFin m n mag e

/-! ## Integers and fixed point (R61, R66, R67) -/

/-- Rounds a value to an integer of the range [lo, hi] (R61). DESIGN CHOICE (log 140): R61 does not say whether a value is beyond
the range before or after it is rounded; here it is rounded first, as R67 has it for FX. One that saturates sets NV and no NX (log 191). -/
def intRound (m : Mode) (lo hi : Int) (x : Val) : Int × Flags :=
  match x with
  | .nan _ => (0, fNV)
  | .inf n => (if n then lo else hi, fNV)
  | .fin n mag e =>
    let (k, nx) := roundAt m n mag e 0
    let i : Int := if n then -(k : Int) else k
    if i < lo then (lo, fNV) else if hi < i then (hi, fNV) else (i, flagIf nx fNX)

/-- FX NaN of a width: only the sign bit set (R66). -/
def fxNan (w : Nat) : Int := -(2 ^ (w - 1) : Int)
/-- The largest magnitude of an FX format (R66). -/
def fxMax (w : Nat) : Int := 2 ^ (w - 1) - 1

/-- Saturates an integer to ±(2^(w-1) - 1), and tells whether it did (R66). -/
def fxSat (w : Nat) (i : Int) : Int × Bool :=
  if fxMax w < i then (fxMax w, true) else if i < -fxMax w then (-fxMax w, true) else (i, false)

/-- Rounds a value into an FX format at an anchor (R61, R67): the integer and the flags FXO, NV and NX. -/
def fxRound (m : Mode) (w : Nat) (anchor : Int) (x : Val) : Int × Flags :=
  match x with
  | .nan _ => (fxNan w, fNV)
  | .inf n => (if n then -fxMax w else fxMax w, fFXO)
  | .fin n mag e =>
    let (k, nx) := roundAt m n mag e anchor
    let (i, o) := fxSat w (if n then -(k : Int) else k)
    (i, flagIf o fFXO ||| flagIf nx fNX)

/-- The value of an FX integer at an anchor; FX NaN is a NaN (R66). -/
def fxValue (w : Nat) (anchor : Int) (q : Int) : Val :=
  if q = fxNan w then .nan false else Val.ofInt q anchor

/-- The sum of two FX integers (R66): FX NaN wins, else saturation. -/
def fxAdd (w : Nat) (a b : Int) : Int × Bool :=
  if a = fxNan w ∨ b = fxNan w then (fxNan w, false) else fxSat w (a + b)

/-! ## Types (R149) -/

/-- The floating-point format of a type, if it is one. -/
def fmtOf : Ty → Option Fmt
  | .f32 => some fmtF32
  | .f16 => some fmtF16
  | .bf16 => some fmtBF16
  | .f64 => some fmtF64
  | .e4m3 => some fmtE4M3
  | .e5m2 => some fmtE5M2
  | _ => none

/-- Whether a type is a signed integer. -/
def isSigned : Ty → Bool
  | .i8 | .i16 | .i32 | .i64 => true
  | _ => false

/-- Whether a type is an integer. -/
def isInt : Ty → Bool
  | .i8 | .i16 | .i32 | .i64 | .n8 | .n16 | .n32 | .n64 => true
  | _ => false

/-- The integer a pattern of a type holds. -/
def intOf (t : Ty) (x : Nat) : Int :=
  let w := t.bits
  let u := x % 2 ^ w
  if isSigned t && decide (2 ^ (w - 1) ≤ u) then (u : Int) - 2 ^ w else u

/-- The least and the greatest integer of a type. -/
def intRange (t : Ty) : Int × Int :=
  if isSigned t then (-(2 ^ (t.bits - 1) : Int), 2 ^ (t.bits - 1) - 1) else (0, 2 ^ t.bits - 1)

/-- The pattern of an integer modulo 2^w. -/
def wrapInt (w : Nat) (i : Int) : Nat := (i % (2 ^ w : Int)).toNat

/-- The exact value of a pattern of a type other than `.fx128` (R59). -/
def tyValue (t : Ty) (x : Nat) : Val :=
  match fmtOf t with
  | some f => f.value (x % 2 ^ t.bits)
  | none => if t = .l6 then l6Value x else Val.ofInt (intOf t x) 0

/-- Rounds a value into a type other than `.fx128` (R61, R64). -/
def tyRound (m : Mode) (t : Ty) (x : Val) : Nat × Flags :=
  match fmtOf t with
  | some f => f.round m x
  | none =>
    if t = .l6 then l6Round m x
    else
      let (i, f) := intRound m (intRange t).1 (intRange t).2 x
      (wrapInt t.bits i, f)

end Sys2Proof.Machine
end

