-- ==== Sys2Proof/Machine/State.lean ====
section
/-! DEFINITION. The state of the OV9 as plain data, the reasons a step can stop, and the state after a
cold start. Each field's docstring names the rule that gives it. Objects of one kind (groups, teams,
commands, lines) stand in lists and name each other by number. The split that issues, its group and its
team stand in fields of their own (`sp`, `g`, `tm`); the other splits, groups and teams in lists. -/

namespace Sys2Proof.Machine

/-! ## Splits and groups -/

/-- A reconvergence record instance (R42). JPC and PPC are kept as 64-bit unit addresses (R137). `held`
lists the lanes each split has carried to JPC, whose predicate bits the merge takes from it (R44); `pby` is
the split that deferred PEND (R43). -/
structure Rec where
  id : Nat
  jpc : DWord
  fmt : Word
  rnd : BitVec 3
  pdep : Nat
  exp : Word
  arr : Word
  pend : Word
  ppc : DWord
  held : List (Nat × Word)
  pby : Nat
  deriving DecidableEq, Repr

/-- An open latch chain (R50): its first instruction, and how many instructions have written a latch. -/
structure Chain where
  start : DWord
  pos : Nat
  deriving DecidableEq, Repr

/-- Why a split that tried to issue did not (R318, R326): the instruction issues again later. -/
inductive Wait where
  | fence | register | mapping | overlap | tile | barrier | reply | rendezvous | sideLog | queue | debug | l2Store | hold | token
  | fifo (bank : Nat)
  deriving DecidableEq, Repr

/-- A wait that holds the whole group, not the split alone (R91, R92, R115, R129, R189, R190, R262, R269, R389): the group's other
splits issue nothing until it is over. -/
def Wait.holdsGroup : Wait → Bool
  | .fence | .mapping | .reply | .sideLog | .l2Store | .hold => true
  | .register | .overlap | .tile | .barrier | .rendezvous | .queue | .debug | .token | .fifo _ => false

/-- An arrival that has been counted, whole or in part, for an instruction that has not completed
(R256, R401). `bar` is 16 for `gbar`; `pc` and `next` are the addresses of the instruction and of the one
after it; `sync` says that it waits for its phase, and `dest` is its status register. `todo` holds the lanes
still to count (32 for the group); `phase` is the phase the last unit was counted in; `inval` says that
`bar.inval` released the waiter (R257); `since` is the tick the wait began. -/
structure Arrival where
  bar : Nat
  pc : DWord
  next : DWord
  sync : Bool
  dest : Option Nat
  todo : List Nat
  phase : Nat
  inval : Bool
  since : Nat
  deriving DecidableEq, Repr

/-- A request a split has sent and whose answer it awaits (R190, R262, R129): the addresses of the instruction
and of the one after it, its opcode, its destination register, its operands. -/
structure Request where
  pc : DWord
  next : DWord
  op : Nat
  dest : Nat
  words : List DWord
  deriving DecidableEq, Repr

/-- A split (R40). `pred` and `recon` have the top first; `recon` names records of the group; `defer` says that the load it issues now
is performed later (R114); `event` is a cause, with what TADDR will hold, that an asynchronous event has raised and that the split takes once
what its group has begun is over (R52). -/
structure Split where
  num : Nat
  live : Bool
  pc : DWord
  mask : Word
  pred : List Word
  recon : List Nat
  fmt : Word
  rnd : BitVec 3
  super : Bool
  parked : Option Nat
  chain : Option Chain
  wait : Option Wait
  since : Nat
  arrival : Option Arrival
  request : Option Request
  defer : Bool
  event : Option (BitVec 8 × Nat)
  deriving DecidableEq, Repr

/-- The shadow of a trapped split (R192). -/
structure Shadow where
  mask : Word
  pred : List Word
  recon : List Nat
  fmt : Word
  rnd : BitVec 3
  arrival : Option Arrival
  request : Option Request
  deriving DecidableEq, Repr

/-- A path of posted writes (R128, R130, R132): destination device (`none` is the host), the fabric port
it leaves by, the writes posted since the last .sys release, how many of them the token that is out counts, the fence counter of the
port for this source (the writes that have passed), the addresses that failed, whether a token is out and whether it has been
acknowledged. -/
structure Path where
  dest : Option Nat
  port : Nat
  posted : Nat
  sent : Nat
  passed : Nat
  failed : List Nat
  token : Bool
  acked : Bool
  deriving DecidableEq, Repr

/-- Faults that wait for a later instruction (R397), each with the addresses it covers. -/
structure Deferred where
  c11 : List Nat
  c18 : List Nat
  c12 : List Nat
  c13 : List Nat
  deriving DecidableEq, Repr

/-- What a save handler finds of a group's registers, and what the group resumes with (R328). -/
structure Image where
  sregs : Sparse 32
  vregs : Sparse 32
  poison : List (Nat × DWord)
  masks : Sparse 32
  latches : Sparse 128
  latchVec : List Nat
  rkey : Quad
  flags : BitVec 6
  ftrap : BitVec 6
  deriving DecidableEq, Repr

/-- A load that has issued and is performed later (R114): its number, whether it reads scratchpad, whether its result is a scalar, its
destination and type, its context's mode, whether it may take lines into L1, and lane and address of each element. A store into scratchpad
that is performed later (R118) carries in `data` the bytes of each element and whether they are poisoned; a load has none. `ports` holds the
port by which it reads at each peer (R333). -/
structure Late where
  id : Nat
  lcl : Bool
  scalar : Bool
  dest : Nat
  ty : Ty
  super : Bool
  keep : Bool
  elems : List (Nat × Nat)
  data : List (List Byte × Bool)
  ports : List (Nat × Nat)
  deriving DecidableEq, Repr

/-- A group (R39, R40, R73, R77, R108, R191). `turn` is the split that issued last, for the round-robin order (R46); `late` holds its loads
that are performed later (R114); `entry` is the cause its handler was entered with, which `sput` does not reach (R192, R193); `recTill` is
the largest W of the records written of it, until which it issues nothing (R377). Vector register r lane l is cell 32*r + l of `vregs`;
latch Lk lane l is cell 32*k + l of `latches`. `poison` lists marked lanes (same numbering) with the address the poison came from (R229). -/
structure Group where
  id : Nat
  team : Nat
  idx : Nat
  nv : Nat
  launched : Word
  exited : Word
  sregs : Sparse 32
  pending : List Nat
  vregs : Sparse 32
  poison : List (Nat × DWord)
  masks : Sparse 32
  latches : Sparse 128
  latchVec : List Nat
  recs : List Rec
  nextRec : Nat
  others : List Split
  rkey : Quad
  flags : BitVec 6
  ftrap : BitVec 6
  ch : Nat
  tcause : BitVec 9
  tpc : DWord
  taddr : DWord
  tlanes : Word
  tpmode : Bool
  tsplit : BitVec 2
  tpcw : Bool
  inHandler : Bool
  entry : BitVec 8
  turn : Nat
  late : List Late
  shadow : Option Shadow
  pointAware : Bool
  halted : Bool
  deferred : Deferred
  paths : List Path
  wgets : Nat
  lastExit : DWord
  recTill : Nat
  retired : Bool
  image : Option Image
  deriving DecidableEq, Repr

/-! ## Teams -/

/-- A barrier (R255). A unit is (group, lane), with lane 32 in group mode. A waiter is (group, split,
phase). `last` is the tick of the last arrival of any kind (R259). -/
structure Barrier where
  init : Bool
  lanes : Bool
  exitc : Bool
  expect : Nat
  cur : List (Nat × Nat)
  nxt : List (Nat × Nat)
  engine : Nat
  waiters : List (Nat × Nat × Nat)
  phase : Nat
  last : Nat
  deriving DecidableEq, Repr

/-- A tensor record held in a handle (R102). -/
structure TRec where
  efmt : BitVec 4
  bs : Bool
  rank : Nat
  kind : List (BitVec 2)
  scr : Bool
  fill : Word
  base : DWord
  dim : List Word
  border : List (BitVec 2)
  stride : List DWord
  sidecar : DWord
  budget : Word
  lvl : List DWord
  deriving DecidableEq, Repr

/-- A family record (R295); `old` is the old family loaded with it (R296). -/
structure FRec where
  explicit : Bool
  k : Nat
  l : Nat
  policy : BitVec 2
  d : Nat
  seed : DWord
  tbase : DWord
  spillv : DWord
  spillcap : Nat
  rehash : Bool
  oldfam : DWord
  weight : DWord
  va : DWord
  deriving DecidableEq, Repr

/-- A family register: the family and, under REHASH, the old one (R296). -/
structure Fam where
  new : FRec
  old : Option FRec
  deriving DecidableEq, Repr

/-- The STATE field of the tile table (R99). -/
inductive TState where
  | empty | filling | ready | draining
  deriving DecidableEq, Repr

/-- An operand slot (R98, R99): 8 KiB of lines and, from byte 8192, the 256-byte side area. -/
structure Slot where
  owned : Bool
  st : TState
  poison : Bool
  bytes : Sparse 8
  deriving DecidableEq, Repr

/-- An accumulator tile (R99, R100, R285): element (i, j) is cell 64*i + j. `cs` is the check row, each
entry in units of 2^-32768; `rounds` is G, `mag` is P in the same units, `kTotal` is KT; `inf` says that a product
or sum without a finite value has been added. -/
structure Tile where
  owned : Bool
  st : TState
  poison : Bool
  mode : BitVec 2
  elems : Sparse 128
  anchor : BitVec 16
  flags : BitVec 6
  cs : List Int
  rounds : Nat
  mag : Nat
  kTotal : Nat
  inf : Bool
  deriving DecidableEq, Repr

/-- The scribe-fault register (R309). -/
structure ScrFault where
  chunk : DWord
  hop : BitVec 16
  count : BitVec 16
  va : DWord
  deriving DecidableEq, Repr

/-- What a team's pre-emption saves once (R184, R328): LTM, slots, tiles and scratchpad. -/
structure TeamImage where
  ltm : BitVec 40
  slots : List Slot
  tiles : List Tile
  lcl : Sparse 8
  lclPoison : List Nat
  deriving DecidableEq, Repr

/-- A team (R39, R97, R184, R255, R265). `lds` is the byte size of its scratchpad allocation and
`granules` the (bank, granule) places that hold it. -/
structure Team where
  id : Nat
  gang : Nat
  member : Nat
  core : Nat
  resid : Nat
  ngroups : Nat
  nbars : Nat
  barriers : List Barrier
  handles : List (Option TRec)
  fams : List (Option Fam)
  ltm : BitVec 40
  slots : List Slot
  tiles : List Tile
  lds : Nat
  lcl : Sparse 8
  lclPoison : List Nat
  granules : List (Nat × Nat)
  scrFault : ScrFault
  mmags : Nat
  freed : Bool
  image : Option TeamImage
  deriving DecidableEq, Repr

/-! ## Gangs, launches, queues, contexts -/

/-- A launch record (R310). -/
structure LaunchRec where
  entry : DWord
  pool : DWord
  args : DWord
  gangs : Nat
  groups : Nat
  teams : Nat
  bars : Nat
  lanes : Nat
  vregs : Nat
  slots : Nat
  tiles : Nat
  lds : Nat
  w0val : Word
  w1val : Word
  w0ctr : Nat
  w0en : Bool
  w1ctr : Nat
  w1en : Bool
  sigctr : Nat
  sigen : Bool
  prio : Nat
  red : Bool
  scr : Bool
  report : Bool
  split : Bool
  wdog : Nat
  asid : BitVec 16
  kpt : Nat
  ntile : Nat
  deriving DecidableEq, Repr

/-- Where a gang stands in pre-emption (R326, R328). -/
inductive GangSt where
  | running
  | halting (since : Nat)
  | halted (since : Nat)
  | saved (since : Nat)
  | killed
  deriving DecidableEq, Repr

/-- A team that has joined an `mmag` (R276): its member index, what it named, the cause and TADDR of a check
of its own that failed, and what it sampled at issue (R71). -/
structure Joined where
  member : Nat
  words : List Word
  bad : Option (BitVec 8 × DWord)
  fmt : Word
  rnd : BitVec 3
  rkey : Quad
  deriving DecidableEq, Repr

/-- One gang operation of `mmag` (R276, R277): its number in each team's order, the teams that have joined since it
was formed, the tick of the last join, whether its operands have been delivered, the cause that every team
raises, how many of the four passes each member has completed, and the members that have gone on. -/
structure Rendezvous where
  op : Nat
  joined : List Joined
  last : Nat
  began : Bool
  fail : Option (BitVec 8 × DWord)
  passes : List (Nat × Nat)
  left : List Nat
  deriving DecidableEq, Repr

/-- A gang (R37, R38, R258). `seen` is the number of the device's next store as it halted (R113); `unfit` is the tick from which, saved, it
has had no healthy block of its shape (R403); `save` is the VA of its save area (R328, R402). -/
structure Gang where
  id : Nat
  launch : Nat
  index : Nat
  cluster : Nat
  origin : Nat
  nteams : Nat
  gbar : Barrier
  st : GangSt
  rdvs : List Rendezvous
  seen : Nat
  unfit : Option Nat
  save : Option DWord
  retired : Bool
  deriving DecidableEq, Repr

/-- A granule's copy in a snapshot (R388): its number, the order of the copy, the bytes that were not zero by their place in the
granule, its poisoned sectors in the same numbering. -/
structure Snap where
  gran : Nat
  seq : Nat
  cells : List (Nat × Byte)
  sick : List Nat
  deriving DecidableEq, Repr

/-- A running launch, that is, a grid (R312, R388, R389). `lastW` is the largest W of its writes; `due` says that a handler has been
entered whose disposition is to kill it (R393). -/
structure Launch where
  id : Nat
  queue : Nat
  pos : Nat
  rcd : LaunchRec
  poolSize : Nat
  placed : Nat
  retired : Nat
  replay : Nat
  snap : List Snap
  lastW : Nat
  unroll : Bool
  tangled : List Nat
  rollback : Bool
  killed : Bool
  due : Bool
  deriving DecidableEq, Repr

/-- A queued launch record (R312): its position, the pool size taken with it (R243), replays so far, the tick it
became eligible, the tick from which its time at priority 7 counts (R316), and the launch it runs as. -/
structure QEntry where
  pos : Nat
  rcd : LaunchRec
  poolSize : Nat
  replay : Nat
  since : Option Nat
  prio7 : Option Nat
  placed : Nat
  running : Option Nat
  deriving DecidableEq, Repr

/-- A launch queue (R312). -/
structure LQueue where
  asid : Option (BitVec 16)
  opened : Bool
  entries : List QEntry
  nextPos : Nat
  deriving DecidableEq, Repr

/-- A reservation of a block (R316), for the head of a queue, by its position, or for a saved gang of the queue. -/
structure Reserve where
  queue : Nat
  pos : Nat
  gang : Option Nat
  cluster : Nat
  origin : Nat
  teams : Nat
  since : Nat
  deriving DecidableEq, Repr

/-- A ring of records in memory (R358, R381): VA of its header, log2 of its records, bytes per record,
and the context it is mapped in. -/
structure Ring where
  va : DWord
  logn : Nat
  asid : BitVec 16
  deriving DecidableEq, Repr

/-- A context: its error queue (R381), block-store pool (R105), snapshot reserve (R388), loaded pools
(R165), the VA of its page of counters (R313), debugger (R396), and whether it is being terminated and with which CODE (R394); `due` says
that a handler has been entered whose disposition is to terminate it (R393). -/
structure Ctx where
  asid : BitVec 16
  errq : Option Ring
  kvPool : Nat
  snapReserve : Nat
  pools : List (DWord × Nat)
  ctrPage : Option DWord
  debugger : Bool
  closing : Option (BitVec 8)
  due : Bool
  killedGangs : Nat
  gone : Bool
  deriving DecidableEq, Repr

/-- Scheduling state of the device (R312 to R316). `messages` are the launch messages that wait for ENTRY's page (R311). -/
structure Sched where
  queues : List LQueue
  counters : Sparse 32
  owners : List (Nat × BitVec 16)
  ctxs : List Ctx
  reserves : List Reserve
  messages : List (Nat × List Word)
  cursor : Nat
  lastServed : List (Nat × Nat)
  nextId : Nat
  deriving DecidableEq, Repr

/-! ## Memory -/

/-- A pin of one sector until the store's W (R112), `none` while W is not known: `offs` are the bytes of the line it wrote. -/
structure Pin where
  sector : Nat
  offs : List Nat
  flight : Nat
  till : Option Nat
  deriving DecidableEq, Repr

/-- A line held in an L1 or in a cluster cache (R86, R109, R112): the core or cluster, the page's ASID,
VA >> 7, the lease end, the bytes it holds by offset, the pinned sectors, the sectors that an error has poisoned (R405). -/
structure CLine where
  unit : Nat
  asid : BitVec 16
  line : Nat
  le : Nat
  bytes : List (Nat × Byte)
  pins : List Pin
  sick : List Nat
  deriving DecidableEq, Repr

/-- Lease state of a home line (R110, R111): the largest lease end granted and the completion time of
the last write, none before the first. -/
structure HLine where
  asid : BitVec 16
  line : Nat
  mle : Option Nat
  wlast : Option Nat
  deriving DecidableEq, Repr

/-- A write whose W has not passed (R111): its line, its W, its bytes by memory address. -/
structure PendW where
  asid : BitVec 16
  line : Nat
  w : Nat
  bytes : List (Nat × Byte)
  deriving DecidableEq, Repr

/-- A store on its way to its home (R111): who issued it, the page's ASID, its VA and bytes. A reduction on its way to a peer or the host
carries its operation and type (R128), and what leaves the device its fabric port (R333); the save handler's stores of poisoned lanes carry
their mark (R402). -/
structure Flight where
  id : Nat
  gid : Nat
  core : Nat
  asid : BitVec 16
  va : Nat
  bytes : List Byte
  red : Option (BitVec 3 × Ty)
  poison : Bool
  port : Nat
  deriving DecidableEq, Repr

/-- An update-only line (R122): its core, tag, operation (R238) and type, its elements by offset, and the
groups whose contributions it carries; `flags` are those its combinations have set so far. -/
structure ULine where
  core : Nat
  asid : BitVec 16
  line : Nat
  op : BitVec 3
  ty : Ty
  elems : List (Nat × Quad)
  gids : List Nat
  flags : BitVec 6
  deriving DecidableEq, Repr

/-- A side-log entry (R92): one per instruction and 4 KiB page; element writes (VA, bytes), or
reductions with an operation and type; `keep` is false for an evict-first store (R150); `sick` names the elements whose data are
poisoned (R402). -/
structure SideEntry where
  core : Nat
  gid : Nat
  asid : BitVec 16
  super : Bool
  page : Nat
  red : Option (BitVec 3 × Ty)
  keep : Bool
  sick : List Nat
  elems : List (Nat × List Byte)
  deriving DecidableEq, Repr

/-- A page-attribute cache entry (R228): core, page, ASID of the requester, the page-table entry's
attributes, and the access table's verdict on reads and writes. -/
structure PacEntry where
  core : Nat
  asid : BitVec 16
  page : Nat
  pte : Quad
  r : Bool
  w : Bool
  deriving DecidableEq, Repr

/-- One way of the page table of one size (R89, R90): SALT, m, the new m while it is being resized, the
migration cursor. -/
structure PWay where
  c : Nat
  w : Nat
  salt : DWord
  m : Nat
  mNew : Option Nat
  cursor : Nat
  deriving DecidableEq, Repr

/-- A page-table entry in its bucket (R88, R89). -/
structure PSlot where
  c : Nat
  w : Nat
  new : Bool
  bucket : Nat
  pte : Quad
  deriving DecidableEq, Repr

/-- A held instruction-cache line (R136, R140): core, ASID, VA >> 6, its sixteen words, whether its
parity failed twice. -/
structure ILine where
  core : Nat
  asid : BitVec 16
  line : Nat
  words : List Word
  bad : Bool
  deriving DecidableEq, Repr

/-- An access the MP has been asked to map (R91), and its answer when it declined; the group that is
held takes the answer. -/
structure MapAsk where
  asid : BitVec 16
  page : Nat
  gids : List Nat
  declined : List Nat
  deriving DecidableEq, Repr

/-- The memory system. `phys` is the memory of the eight stacks: byte CA of stack k is cell
k * 2^40 + CA (R85). `poison` lists the poisoned 32-byte sectors of it (R229, R405). -/
structure MemSys where
  phys : Sparse 8
  poison : List Nat
  hlines : List HLine
  pend : List PendW
  flight : List Flight
  nextFlight : Nat
  l1 : List CLine
  cc : List CLine
  ulines : List ULine
  side : List SideEntry
  pac : List PacEntry
  ways : List PWay
  ptes : List PSlot
  dir : List (Nat × BitVec 10)
  asks : List MapAsk
  icache : List ILine
  deriving DecidableEq, Repr

/-! ## Engines -/

/-- The role of a cluster SRAM bank (R94). -/
inductive BankRole where
  | cache | scratch | fifo
  deriving DecidableEq, Repr

/-- A cluster SRAM bank (R94, R245): its role and, in FIFO role, its entries of 32 words, oldest first;
`last` is the tick of its last push or pop; `sick` lists its poisoned 32-byte sectors, four an entry, from the oldest on (R405). -/
structure Bank where
  cluster : Nat
  bank : Nat
  role : BankRole
  fifo : List (List Word)
  sick : List Nat
  last : Nat
  deriving DecidableEq, Repr

/-- The flags of an engine command (R247). -/
structure EFlags where
  acq : Option Nat
  rel : Option Nat
  bar : Option Nat
  pitch : Nat
  deriving DecidableEq, Repr

/-- A tile of a tensor (R250): origin coordinates and extents. -/
structure Box where
  org : List Int
  ext0 : Nat
  ext1 : Nat
  deriving DecidableEq, Repr

/-- What a command does (R250, R253, R260, R292, R293, R300 to R304), with the operands read at issue. -/
inductive CmdKind where
  | copyIn (h : TRec) (box : Box) (addr : Word)
  | copySlot (h : TRec) (box : Box) (tr : Bool) (slot : Nat)
  | copyOut (h : TRec) (box : Box) (addr : Word)
  | fillLcl (addr : Word) (bytes : Nat) (p : Word)
  | fillT (h : TRec) (box : Box) (p : Word)
  | coll (rcd : List Word) (bay : Nat) (va : DWord)
  | spmulo (a b : TRec) (buf : DWord) (cap k0 k1 : Nat)
  | spmerge (buf : DWord) (cap : Nat) (c : TRec)
  | probe (f : Fam) (keys olds : List Word) (list visited : Word) (c : Nat)
  | insert (f : Fam) (keys olds : List Word) (row : Word)
  | delete (f : Fam) (keys olds : List Word) (row : Word)
  | migrate (f : Fam) (n : Nat)
  | stat (f : Fam) (t : Nat)
  deriving DecidableEq, Repr

/-- How an engine command has ended, before its status word is written (R248, R378): its code, the 4 KiB chunks
it completed, what its record names, the chunk id and VA of a scribe mismatch (R309). -/
structure CmdRes where
  code : BitVec 8
  chunks : Nat
  addr : DWord
  chunk : DWord
  hop : BitVec 16
  va : DWord
  deriving DecidableEq, Repr

/-- An accepted engine or retrieval command (R248, R249, R299). `dest` is its status register; `frozen`
is the tick from which its wait on a frozen bucket counts, and the CURSOR then (R302); `started` says that its engine has begun with it
(R249); `done` holds the chunks it has moved, or how far a retrieval command has come; `w` is
the largest W of its writes; `res` is its result once its transfer has ended. -/
structure Cmd where
  id : Nat
  kind : CmdKind
  gid : Nat
  tid : Nat
  core : Nat
  asid : BitVec 16
  super : Bool
  pc : DWord
  lanes : Word
  split : Nat
  dest : Nat
  flags : EFlags
  hint1 : Bool
  fmt : Word
  rnd : BitVec 3
  rkey : Quad
  frozen : Option (Nat × Nat)
  started : Bool
  done : List Nat
  w : Nat
  res : Option CmdRes
  deriving DecidableEq, Repr

/-- A range of the range-overlap scoreboard (R101): a span of a team's scratchpad, or a set of slots. -/
inductive Range where
  | lcl (tid lo hi : Nat) (write : Bool)
  | slots (tid : Nat) (mask : Word) (write : Bool)
  deriving DecidableEq, Repr

/-- An entry of a core's range-overlap scoreboard (R101). It frees with its command, or, for a fill or a drain of a slot or tile
(R280), with that: `mover` then names the group, the team and the slot or tile (32 more). -/
structure Overlap where
  core : Nat
  cmd : Nat
  ranges : List Range
  mover : Option (Nat × Nat × Nat)
  deriving DecidableEq, Repr

/-- A chunk of a contribution as a participant holds it (R339): FX64 sums, or slots of the source. `org` is the
contribution (0 but for all-gather), `step` the next up step it takes part in; `final` says that it is the result. -/
structure PVal where
  org : Nat
  chunk : Nat
  slots : List DWord
  ovf : Bool
  step : Nat
  final : Bool
  deriving DecidableEq, Repr

/-- One participant of a collective (R260, R261, R339): its command, its context and the LAUNCH field of its records (R378), which
outlast the command, RANK and rank r', its bay, how many chunks of its source it has read, what it holds, the chunks it has written, and
whether a conversion of a sum or an overflow flag makes it report 0x0B (R342). -/
structure Part where
  cmd : Nat
  asid : BitVec 16
  launch : Word
  rank : Nat
  rel : Nat
  bay : Nat
  next : Nat
  vals : List PVal
  wrote : List (Nat × Nat)
  ovf : Bool
  deriving DecidableEq, Repr

/-- An unrecoverable chunk (R341, R417): lost on the way up, and so to every participant, or on the way down to rank
r' and its subtree; its chunk id and the last hop that verified it. -/
structure Lost where
  up : Bool
  rel : Nat
  org : Nat
  chunk : Nat
  chunkId : DWord
  hop : BitVec 16
  deriving DecidableEq, Repr

/-- A participant of a collective on another device, which has joined: its RANK, and whether it names the same parameters (R261). -/
structure Away where
  rank : Nat
  agrees : Bool
  deriving DecidableEq, Repr

/-- A collective in progress (R261, R339): what its participants agree on, the device and bay of every rank (R260), the participants of
this device and those of others that have joined, the tick of the last join, whether all have joined, and whether a participant's source
failed. -/
structure Coll where
  id : Nat
  cid : BitVec 16
  kind : Nat
  efmt : Nat
  npart : Nat
  root : Nat
  anchor : BitVec 16
  count : Nat
  plist : List Nat
  parts : List Part
  away : List Away
  last : Nat
  began : Bool
  stopped : Bool
  lost : List Lost
  deriving DecidableEq, Repr

/-- A collective chunk on its way (R340, R341): its number, its collective and what it carries, the rank r' that
takes it; its header (LEN is the length of the payload); the payload, with the partial to be reduced with it at a
substitute engine; the hop it comes from and the hops still to pass, of which the last is a collective engine;
failed tries, whether it goes by the other route, whether it waits to be resent; whether it leaves the device at its last hop, a fabric
port. -/
structure Chunk where
  num : Nat
  coll : Nat
  dest : Nat
  org : Nat
  chunk : Nat
  step : Nat
  chunkId : DWord
  s0 : Nat
  s1 : Nat
  fmt : BitVec 4
  ovf : Bool
  rsnd : Bool
  anchor : BitVec 16
  hop : BitVec 16
  payload : List DWord
  side : Option (List DWord × Bool)
  prev : BitVec 16
  hops : List (BitVec 16)
  tries : Nat
  rerouted : Bool
  waiting : Bool
  out : Bool
  deriving DecidableEq, Repr

/-- Engines and cluster SRAM (R94, R101, R249, R299, R339). -/
structure Engines where
  banks : List Bank
  cmds : List Cmd
  overlaps : List Overlap
  colls : List Coll
  chunks : List Chunk
  deriving DecidableEq, Repr

/-! ## The matrix array -/

/-- Where a quarter's A operand comes from: a slot, or rows gathered at issue (R272, R278): for each row the code
and the scale byte of each element, or nothing for a row that is not supplied. -/
inductive AOp where
  | slot (n : Nat)
  | rows (r : List (Option (List (Nat × Nat))))
  deriving DecidableEq, Repr

/-- A queued quarter (R274): quarter `q` of a product into a tile, with its extents and what it sampled at issue.
`mmag` names the gang operation it belongs to and the pass of it. -/
structure Quarter where
  id : Nat
  core : Nat
  tid : Nat
  q : Nat
  tile : Nat
  a : AOp
  b : Nat
  m : Nat
  n : Nat
  k : Nat
  fmt : Word
  rnd : BitVec 3
  rkey : Quad
  since : Nat
  mmag : Option (Nat × Nat)
  deriving DecidableEq, Repr

/-- A pass in flight (R274): its core and stream, its quarters, the power tokens it holds (R323), and the tick at
which it ends. `band` is the band that `lshproj` uses (R298), which has no quarters. -/
structure Pass where
  id : Nat
  core : Nat
  stream : Nat
  quarters : List Quarter
  tokens : Nat
  till : Nat
  band : Option Nat
  deriving DecidableEq, Repr

/-- The matrix queues and passes of all cores, and the token requests by age (R274, R323). -/
structure Matrix where
  quarters : List Quarter
  passes : List Pass
  deriving DecidableEq, Repr

/-! ## The block store -/

/-- A name of the block store (R105, R106). -/
structure KvName where
  asid : BitVec 16
  seq : Word
  layer : Word
  blk : Word
  block : Nat
  va : DWord
  deriving DecidableEq, Repr

/-- A block: its owner context, its within-controller frame base, whether it has been evicted (R415). -/
structure KvBlock where
  id : Nat
  asid : BitVec 16
  pfn : BitVec 24
  evicted : Bool
  deriving DecidableEq, Repr

/-- The block store (R105). -/
structure BlockStore where
  names : List KvName
  blocks : List KvBlock
  freed : List (BitVec 16 × Nat)
  deriving DecidableEq, Repr

/-! ## Reliability -/

/-- A black-box event (R383): the bay that keeps it and its eight words. -/
structure BBEvent where
  bay : Nat
  words : List Word
  deriving DecidableEq, Repr

/-- An entry of a target's access table (R385). -/
structure AccEntry where
  target : Nat
  idx : Nat
  word : Quad
  deriving DecidableEq, Repr

/-- A logged violation (R387). -/
structure Violation where
  target : Nat
  mkind : Nat
  mid : BitVec 16
  addr : DWord
  write : Bool
  gt : Nat
  deriving DecidableEq, Repr

/-- Records, black boxes, access tables (R378 to R387). `ctl` holds the unsent control-port messages, `held` the answers that are given at a
tick to come (R337), `mapLog` the malformed page-table entries that the MP has logged (R88). -/
structure Rel where
  ctl : List (List Word)
  ctlLost : Nat
  bb : List BBEvent
  bbNv : List BBEvent
  acc : List AccEntry
  viol : List Violation
  violLost : List (Nat × Nat)
  replies : List (List DWord)
  held : List (Nat × List DWord)
  mapLog : List Quad
  deriving DecidableEq, Repr

/-! ## The fabric and the host -/

/-- A window grant held in the TLB of the fabric port `port` (R334): a context, a device and a page of WOFF, whose size is in the codes of R88; the
destination's ASID and the VA of the page there. -/
structure Grant where
  port : Nat
  asid : BitVec 16
  dev : BitVec 12
  size : Nat
  page : Nat
  tasid : BitVec 16
  target : DWord
  deriving DecidableEq, Repr

/-- A window page that the port `port` asks the MP for (R334): the context, the page of VA[53:0], the groups that wait. -/
structure Asked where
  port : Nat
  asid : BitVec 16
  page : Nat
  gids : List Nat
  deriving DecidableEq, Repr

/-- A unified range (R336): the 57 significant bits of its base, its size in bytes. -/
structure URange where
  asid : BitVec 16
  base : Nat
  size : Nat
  writable : Bool
  deriving DecidableEq, Repr

/-- A release token on its way (R130): its group, destination and port, the writes it counts, which are those sent before flight
`upto`, whether it stands at the last hop, whether its port inserted it. -/
structure Token where
  gid : Nat
  dest : Option Nat
  port : Nat
  count : Nat
  upto : Nat
  atEnd : Bool
  auto : Bool
  deriving DecidableEq, Repr

/-- A source of another device, that is, a group slot there, at a fabric port of this one (R130): its fence counter, which counts the
writes that have passed, and the largest W that they got here. -/
structure PeerSrc where
  port : Nat
  dev : BitVec 12
  src : Nat
  passed : Nat
  w : Nat
  deriving DecidableEq, Repr

/-- One context's part of a checkpoint image (R347); that of ASID 0 holds what every context shares. The error queue and the page of
counters are among the pages: the image says where they lie. -/
structure ImageCtx where
  asid : BitVec 16
  errq : Option Ring
  ctrPage : Option DWord
  queues : List (Nat × List QEntry)
  counters : List (Nat × BitVec 32)
  pages : List (Quad × List (Nat × Byte))
  names : List KvName
  blocks : List KvBlock
  uranges : List URange
  deriving DecidableEq, Repr

/-- Fabric and host state. `peer` holds the bytes of peers: VA v of context a of device d is cell (d * 2^16 + a) * 2^64 + v (R334). `host`
holds host memory: VA[53:0] = v in a range of context a is cell a * 2^54 + v (R336). `refused` and `lost` name who was waiting for a window
page when its grant was refused or its path lost (R334, R335). `sent` holds the collective chunks that have left through a fabric port, kept
until the next hop has verified them (R341), `answers` what this device has answered to peers (R334, R386), `gives` the answers to them that
are given at a tick to come (R124, R130), `sources` the fence counters of their groups (R130). `denied` names the window pages, by context
and page, whose reads, or, marked true, whose writes the destination's access table denies (R334). `images` is the safe tier: checkpoint
images by place, of this device and of others (R345, R347). -/
structure Fabric where
  host : Sparse 8
  peer : Sparse 8
  grants : List Grant
  asked : List Asked
  denied : List (BitVec 16 × Nat × Bool)
  refused : List (Nat × Nat)
  lost : List (Nat × Nat)
  sent : List Chunk
  images : List (Nat × List ImageCtx)
  answers : List (BitVec 12 × List DWord)
  gives : List (Nat × BitVec 12 × List DWord)
  sources : List PeerSrc
  uranges : List URange
  tokens : List Token
  unreachable : List Nat
  deriving DecidableEq, Repr

/-! ## The device -/

/-- The power state of the device (R349, R351, R354, R23); `lowering` names the domain that is lowered next. -/
inductive Power where
  | off | stuck (domain die : Nat) | starting (at_ : StartAt) | on | mpFailed | lowering (domain : Nat)
  deriving DecidableEq, Repr

/-- The power domains that are up (R349): they are raised in the order 1 to 4, each when the one before it is ready. -/
def Power.raised : Power → Nat
  | .off => 0
  | .stuck d _ => d - 1
  | .starting (.domain d) => d - 1
  | .starting (.step _) => 4
  | .on => 4
  | .mpFailed => 4
  | .lowering d => d

/-- A retired or fenced unit (R407, R408): class and index. -/
abbrev UnitId := Nat × Nat

/-- The kinds of error that R408 counts in a window. -/
inductive ErrKind where
  | corrected | uncorrectable
  deriving DecidableEq, Repr

/-- A checkpoint in progress (R345, R346): its destination on the safe tier, the tick of its limit, the queues it has closed, and
whether the last named grid has completed before the limit. -/
structure Checkpoint where
  asids : List (BitVec 16)
  dest : Nat
  limit : Nat
  closed : List Nat
  quiet : Bool
  deriving DecidableEq, Repr

/-- A unit that the MP is about to retire or fence (R410, R419): the CODE of its record, the tick the MP asked the
gangs there to halt, and whether a bay is fenced wholly. -/
structure Due where
  unit : UnitId
  code : BitVec 8
  since : Nat
  whole : Bool
  deriving DecidableEq, Repr

/-- An in-field test that runs (R421): whether its targets are bays, the targets, the package's digest. -/
structure FieldTest where
  bays : Bool
  targets : List Nat
  digest : List Byte
  deriving DecidableEq, Repr

/-- Device-wide state: capability registers (R26 to R29), PWRPOOL (R181), TVEC (R191), start number
(R352), the retired and fenced units (R408), half-width cores (R409), the corrected-error counts
(R382) and the ticks of the last errors of each kind (R408), the stacks with stored training parameters (R351), the clamped
bays (R357), the thermal ring (R358), the last reading of each sensor (R359), checkpoints (R345), the identity (R356), the units
about to be retired (R410, R419), the in-field test that runs (R421), whether the MP has failed since the last cold start (R419). -/
structure Device where
  power : Power
  cap0 : Word
  cap1 : DWord
  cap2 : DWord
  cap3 : Word
  pool : Nat
  tvec : DWord
  startNo : Word
  retired : List UnitId
  half : List (Nat × Nat)
  errors : List (UnitId × Nat × Option Nat)
  recent : List ((UnitId × ErrKind) × List Nat)
  trained : List Nat
  clamped : List Nat
  thermal : Option Ring
  temps : List ((Nat × Nat) × BitVec 16)
  checkpoint : Option Checkpoint
  serial : List Byte
  romDigest : List Byte
  fwDigest : List Byte
  testDigest : List Byte
  due : List Due
  test : Option FieldTest
  mpLost : Bool
  deriving DecidableEq, Repr

/-! ## The whole state -/

/-- Who issues: a group and one of its splits. -/
structure Who where
  gid : Nat
  sp : Nat
  deriving DecidableEq, Repr

/-- What a peer asks of this device's memory (R128, R129, R334): a read of some bytes, a write, a reduction, an atomic. -/
inductive PeerOp where
  | read (n : Nat)
  | write (bytes : List Byte)
  | red (op : BitVec 3) (ty : Ty) (v : Nat)
  | atomic (cas xchg : Bool) (op : BitVec 3) (ty : Ty) (d c : Nat)
  deriving DecidableEq, Repr

/-- What comes from other devices over the fabric and from the control node (R334, R339, R341): a participant of a collective joins, or
fails; a collective chunk comes to a port; the next hop asks for a chunk again or has verified it (R341); a chunk has been lost on another
device (R343); a destination's access table comes to deny reads or writes of a window page, or no longer does (R334); another device leaves
an image on the safe tier (R348); a peer asks for a window grant, which the MP grants at an index of its access tables or refuses; this
device's MP revokes such a grant (R335); a peer's access, of one of its group slots; a release token comes to a port, which is its last hop
(R130); the control node takes the oldest message of the control port (R382). -/
inductive Remote where
  | join (cid : BitVec 16) (kind efmt npart root : Nat) (anchor : BitVec 16) (count rank : Nat)
  | stop (cid : BitVec 16)
  | chunk (port : Nat) (cid : BitVec 16) (dest org chunk step src : Nat) (s0 s1 : Nat) (ovf rsnd : Bool) (hop : BitVec 16)
      (payload : List DWord)
  | resend (num : Nat)
  | verified (num : Nat)
  | lostChunk (cid : BitVec 16) (up : Bool) (rel org chunk : Nat) (chunkId : DWord) (hop : BitVec 16)
  | image (place : Nat) (x : List ImageCtx)
  | deny (asid : BitVec 16) (va : DWord) (write on : Bool)
  | window (dev : BitVec 12) (asid : BitVec 16) (va : DWord) (write : Bool) (grant : Option Nat)
  | revoke (dev : BitVec 12) (idx : Nat)
  | access (port : Nat) (dev : BitVec 12) (src : Nat) (asid : BitVec 16) (va : DWord) (op : PeerOp)
  | token (port : Nat) (dev : BitVec 12) (src count : Nat)
  | control
  deriving DecidableEq, Repr

/-- Where an error strikes a memory of the device (R405): a lane word of a group's vector registers, or a scalar register (cell 8192 on); a
sector of a line in an L1 or in cluster SRAM as cache; a sector of a team's scratchpad or of a FIFO bank; a sector of the L2 by physical
address; an operand slot, or a tile (32 on); an entry of a core's page-attribute cache; an entry of a fabric port's TLB; the tags or lease state of
an L2 slice of a bay or, with none, a tile table or barrier state of the bay. -/
inductive Struck where
  | register (gid cell : Nat)
  | l1 (core : Nat) (asid : BitVec 16) (line sector : Nat)
  | cache (cluster bank : Nat) (asid : BitVec 16) (line sector : Nat)
  | scratch (tid sector : Nat)
  | fifo (cluster bank sector : Nat)
  | l2 (sector : Nat)
  | store (tid n : Nat)
  | attr (core : Nat) (asid : BitVec 16) (page : Nat)
  | tlb (port n : Nat)
  | tags (bay : Nat) (slice : Option Nat)
  deriving DecidableEq, Repr

/-- What happens in a turn: a split issues; a split issues a load that is performed later, or the element in place `k` of such a load of a
group is performed (R114); something comes from another device; an error strikes, which is corrected or not (R405); or an event of the table
takes place. -/
inductive Act where
  | issue (who : Who)
  | late (who : Who)
  | load (gid id k : Nat)
  | remote (m : Remote)
  | upset (x : Struck) (corrected : Bool)
  | event (i : Instr)
  deriving DecidableEq, Repr

/-- One turn of the agenda: how many ticks of GT pass first, and what then happens (the model's own). -/
structure Turn where
  ticks : Nat
  act : Act
  deriving DecidableEq, Repr

/-- The state of the whole device. -/
structure State where
  sp : Split
  g : Group
  tm : Team
  groups : List Group
  teams : List Team
  gangs : List Gang
  launches : List Launch
  gt : Nat
  mem : MemSys
  sched : Sched
  eng : Engines
  mx : Matrix
  kv : BlockStore
  rel : Rel
  fab : Fabric
  dev : Device
  agenda : List Turn
  fresh : Nat
  deriving DecidableEq, Repr

/-- The reasons a step faults. No meaning of this model raises one: every failure the manual gives ends
in a trap, a status or a record, all of which are next states. -/
inductive Fault where
  /-- Raised by nothing; it stands for a machine that has stopped for good. Safe. -/
  | stopped
  deriving DecidableEq, Repr

/-- The reasons a step is refused. -/
inductive Refusal where
  /-- An instruction the model gives no meaning; raised by an arm of `exec` alone. Safe: nothing is
  claimed of what follows. -/
  | notModelled (mnemonic : String)
  deriving DecidableEq, Repr

/-! ## Reset -/

/-- A split that is not there: number 0, free (R45). -/
def Split.none : Split :=
  { num := 0, live := false, pc := 0, mask := 0, pred := [0xFFFFFFFF], recon := [], fmt := 0, rnd := 0,
    super := false, parked := .none, chain := .none, wait := .none, since := 0, arrival := .none,
    request := .none, defer := false, event := .none }

/-- A group's registers at team start (R317), before the dispatcher fills in its place. -/
def Group.blank : Group :=
  { id := 0, team := 0, idx := 0, nv := 0, launched := 0, exited := 0, sregs := [], pending := [],
    vregs := [], poison := [], masks := [], latches := [], latchVec := [], recs := [], nextRec := 0,
    others := [], rkey := 0, flags := 0, ftrap := 0, ch := 0, tcause := 0, tpc := 0, taddr := 0,
    tlanes := 0, tpmode := false, tsplit := 0, tpcw := false, inHandler := false, entry := 0, turn := 0, late := [], shadow := .none,
    pointAware := false, halted := false,
    deferred := { c11 := [], c18 := [], c12 := [], c13 := [] }, paths := [], wgets := 0,
    lastExit := 0, recTill := 0, retired := true, image := .none }

/-- An uninitialised barrier (R255). -/
def Barrier.none : Barrier :=
  { init := false, lanes := false, exitc := false, expect := 0, cur := [], nxt := [], engine := 0,
    waiters := [], phase := 0, last := 0 }

/-- A cleared scribe-fault register (R309). -/
def ScrFault.none : ScrFault := { chunk := 0, hop := 0, count := 0, va := 0 }

/-- A team with nothing allocated. -/
def Team.blank : Team :=
  { id := 0, gang := 0, member := 0, core := 0, resid := 0, ngroups := 0, nbars := 0, barriers := [],
    handles := List.replicate 16 .none, fams := List.replicate 4 .none, ltm := 0xFFFFFFFFFF,
    slots := [], tiles := [], lds := 0, lcl := [], lclPoison := [], granules := [],
    scrFault := ScrFault.none, mmags := 0, freed := true, image := .none }

/-- The page table's twenty ways as the MP sets them at start (log 5). -/
def resetWays : List PWay :=
  (List.range 20).map fun i =>
    { c := i / 2, w := i % 2, salt := BitVec.ofNat 64 (0x9E3779B97F4A7C15 + 2 * i), m := 4,
      mNew := .none, cursor := 0 }

/-- The banks of every cluster under the default split (R94). -/
def resetBanks (scratch fifo : Nat) : List Bank :=
  (List.range 1024).map fun i =>
    { cluster := i / 64, bank := i % 64,
      role := if i % 64 < scratch then .scratch else if i % 64 < scratch + fifo then .fifo else .cache,
      fifo := [], sick := [], last := 0 }

/-- The memory system after a cold start: every frame zero, nothing mapped or held (R351). -/
def MemSys.reset : MemSys :=
  { phys := [], poison := [], hlines := [], pend := [], flight := [], nextFlight := 1, l1 := [],
    cc := [], ulines := [], side := [], pac := [], ways := resetWays, ptes := [], dir := [], asks := [],
    icache := [] }

/-- Scheduling state after a start: 64 queues, open (R351) and of no context yet; no counter owned (R312, R313). -/
def Sched.reset : Sched :=
  { queues := List.replicate 64 { asid := .none, opened := true, entries := [], nextPos := 0 },
    counters := [], owners := [], ctxs := [], reserves := [], messages := [], cursor := 15, lastServed := [],
    nextId := 1 }

/-- The device after a cold start with every unit healthy (R26 to R29, R351; log 4). -/
def Device.reset : Device :=
  { power := .on, cap0 := 0x00F20102, cap1 := 0x40404040,
    cap2 := 0x00040000_07735940, cap3 := 0, pool := 1024, tvec := 0, startNo := 1, retired := [],
    half := [], errors := [], recent := [], trained := [0, 1, 2, 3, 4, 5, 6, 7], clamped := [], thermal := .none,
    temps := [], checkpoint := .none, serial := List.replicate 16 0,
    romDigest := List.replicate 64 0, fwDigest := List.replicate 64 0,
    testDigest := List.replicate 64 0, due := [], test := .none, mpLost := false }

/-- The event of a completed start in the black box of bay 0 (R383). -/
def startEvent : BBEvent :=
  { bay := 0, words := [0, 0, 0x00FF0023, 0xFFFF0000, 0, 0, 0xFFFFFFFF, 0xFFFFFFFF] }

/-- The machine right after a cold start (R351): no launch has come, so nothing is resident. -/
def State.reset : State :=
  { sp := Split.none, g := Group.blank, tm := Team.blank, groups := [], teams := [], gangs := [],
    launches := [], gt := 0, mem := MemSys.reset, sched := Sched.reset,
    eng := { banks := resetBanks 32 0, cmds := [], overlaps := [], colls := [], chunks := [] },
    mx := { quarters := [], passes := [] },
    kv := { names := [], blocks := [], freed := [] },
    rel := { ctl := [], ctlLost := 0, bb := [startEvent], bbNv := [], acc := [], viol := [], violLost := [],
             replies := [], held := [], mapLog := [] },
    fab := { host := [], peer := [], grants := [], asked := [], denied := [], refused := [], lost := [], sent := [], images := [], answers := [], gives := [], sources := [], uranges := [],
             tokens := [], unreachable := [] },
    dev := Device.reset, agenda := [], fresh := 0 }

end Sys2Proof.Machine
end

