-- ==== Sys2Proof/Machine/Space.lean ====
section
/-! DEFINITION. Addresses, homes, page tables and access tables: where a virtual address leads and who may
go there. A virtual address is a natural number below 2^64. -/

namespace Sys2Proof.Machine

/-! ## Addresses -/

/-- Bits [63:57] equal bit 56 (R82). -/
def canonical (va : Nat) : Bool := va / 2 ^ 56 == 0 || va / 2 ^ 56 == 255
/-- The placement field (R82). -/
def placement (va : Nat) : Nat := va / 2 ^ 54 % 8
/-- VA bits [56:12]: the number of the 4 KiB page. -/
def pageOf (va : Nat) : Nat := va % 2 ^ 57 / 4096
/-- VA bits [56:7]: the number of the line (R86). -/
def lineOf (va : Nat) : Nat := va % 2 ^ 57 / 128
/-- The sign-extended address of a page number, as a VA. -/
def vaOfPage (p : Nat) : Nat := if p < 2 ^ 44 then p * 4096 else p * 4096 + (2 ^ 64 - 2 ^ 57)
/-- The sign-extended address of a line number, as a VA. -/
def vaOfLine (l : Nat) : Nat := if l < 2 ^ 49 then l * 128 else l * 128 + (2 ^ 64 - 2 ^ 57)

/-- The XOR of the 3-bit fields of a number (R84). -/
def fold3 (fuel x : Nat) : Nat :=
  match fuel with
  | 0 => 0
  | f + 1 => (x % 8) ^^^ fold3 f (x / 8)

/-- The XOR of the bits of a number (R84). -/
def parityOf (fuel x : Nat) : Nat :=
  match fuel with
  | 0 => 0
  | f + 1 => (x % 2) ^^^ parityOf f (x / 2)

/-- The stack of a VA (R84). -/
def homeStack (va : Nat) : Nat :=
  let n := va % 2 ^ 54 / 4096
  let p := placement va
  if p < 4 then 2 * p + (n % 2 ^^^ parityOf 42 (n / 2)) else n % 8 ^^^ fold3 14 (n / 8)
/-- The home bay of a VA (R84). -/
def homeBay (va : Nat) : Nat := homeStack va / 2
/-- The home L2 slice within the bay (R84). -/
def homeSlice (va : Nat) : Nat := va / 2 ^ 7 % 16 ^^^ va / 2 ^ 12 % 16

/-- The stacks a placement stripes over (R82). -/
def stripes (va : Nat) : Nat := if placement va < 4 then 2 else 8

/-! ## Page-table entries (R88) -/

/-- SIZE: the size code. -/
def pteSize (p : Quad) : Nat := (p.extractLsb' 0 4).toNat
/-- V: valid. -/
def pteV (p : Quad) : Bool := p.getLsbD 4
/-- W: writable. -/
def pteW (p : Quad) : Bool := p.getLsbD 5
/-- X: fetch permitted. -/
def pteX (p : Quad) : Bool := p.getLsbD 6
/-- U: user access permitted. -/
def pteU (p : Quad) : Bool := p.getLsbD 7
/-- LEASE as a number of ticks. -/
def pteLease (p : Quad) : Nat := 64 * 4 ^ (p.extractLsb' 8 2).toNat
/-- CACHE is 1: L2-only. -/
def pteL2Only (p : Quad) : Bool := p.extractLsb' 10 2 == 1
/-- KV: a block-store frame. -/
def pteKv (p : Quad) : Bool := p.getLsbD 12
/-- The owning ASID. -/
def pteAsid (p : Quad) : BitVec 16 := p.extractLsb' 16 16
/-- VTAG: VA[56:12] of the page base. -/
def pteTag (p : Quad) : Nat := (p.extractLsb' 32 45).toNat
/-- PFN: the within-controller frame base. -/
def ptePfn (p : Quad) : Nat := (p.extractLsb' 77 24).toNat
/-- Bytes of a page. -/
def pteBytes (p : Quad) : Nat := 4096 * 4 ^ pteSize p
/-- A shared block page: KV set and W clear (R106). -/
def pteShared (p : Quad) : Bool := pteKv p && !pteW p

/-- Whether an entry is one at all (R88): valid, no reserved SIZE or CACHE value, no reserved bit set. -/
def pteOk (p : Quad) : Bool :=
  pteV p && pteSize p ≤ 9 && (p.extractLsb' 10 2).toNat ≤ 1 && p.extractLsb' 13 3 == 0 &&
    p.extractLsb' 101 27 == 0

/-- The fields of an entry put together (R88). -/
def mkPte (size : Nat) (w x u : Bool) (lease cache : BitVec 2) (kv : Bool) (asid : BitVec 16) (page : Nat)
    (pfn : BitVec 24) : Quad :=
  0#27 ++ pfn ++ BitVec.ofNat 45 page ++ asid ++ 0#3 ++ BitVec.ofBool kv ++ cache ++ lease ++
    BitVec.ofBool u ++ BitVec.ofBool x ++ BitVec.ofBool w ++ 1#1 ++ BitVec.ofNat 4 size

/-! ## The page table (R89, R90) -/

/-- The bucket of a page in a way of 2^m buckets (R89). -/
def wayHash (salt : DWord) (m x : Nat) : Nat := x * salt.toNat % 2 ^ 64 / 2 ^ (64 - m)

/-- Where a way looks for a page: the table (new or not) and the bucket, under the cursor rule (R90). -/
def wayPlace (y : PWay) (asid : BitVec 16) (vpn : Nat) : Bool × Nat :=
  let x := vpn * 65536 + asid.toNat
  let old := wayHash y.salt y.m x
  match y.mNew with
  | some m' => if old < y.cursor then (true, wayHash y.salt m' x) else (false, old)
  | none => (false, old)

/-- The way of a size and number. -/
def findWay (m : MemSys) (c w : Nat) : Option PWay := m.ways.find? fun y => y.c == c && y.w == w

/-- Probes one way for a page of an ASID (R89). -/
def probeWay (m : MemSys) (c w : Nat) (asid : BitVec 16) (vpn : Nat) : Option Quad :=
  match findWay m c w with
  | none => none
  | some y =>
    let pl := wayPlace y asid vpn
    match m.ptes.find? (fun e => e.c == c && e.w == w && e.new == pl.1 && e.bucket == pl.2 &&
        pteOk e.pte && pteSize e.pte == c && pteAsid e.pte == asid && pteTag e.pte / 4 ^ c == vpn) with
    | some e => some e.pte
    | none => none

/-- The size-presence mask of the 1 GiB region of a VA (R89). -/
def dirMask (m : MemSys) (va : Nat) : BitVec 10 :=
  match m.dir.find? fun e => e.1 == va % 2 ^ 57 / 2 ^ 30 with
  | some e => e.2
  | none => 0

/-- The entry that translates a VA for a requester (R89): the smallest size that matches, the requester's
ASID or 0. -/
def translate (m : MemSys) (asid : BitVec 16) (va : Nat) : Option Quad :=
  firstSome (fun c =>
    if (dirMask m va).getLsbD c then
      let vpn := pageOf va / 4 ^ c
      firstSome (fun a => firstSome (fun w => probeWay m c w a vpn) [0, 1]) [asid, 0]
    else none) (List.range 10)

/-- The byte of physical memory a VA names under an entry: stack * 2^40 + CA (R85). -/
def physOf (p : Quad) (va : Nat) : Nat :=
  let o := va % pteBytes p
  homeStack va * 2 ^ 40 + ptePfn p * 4096 + o / (4096 * stripes va) * 4096 + o % 4096

/-- The places the two ways have for an entry, each with whether its bucket, which holds 8, has room (R89). -/
def wayRooms (m : MemSys) (p : Quad) : List (Nat × (Bool × Nat) × Bool) :=
  let c := pteSize p
  [0, 1].filterMap fun w => (findWay m c w).map fun y =>
    let e := wayPlace y (pteAsid p) (pteTag p / 4 ^ c)
    (w, e, decide ((m.ptes.filter fun t => t.c == c && t.w == w && t.new == e.1 && t.bucket == e.2).length < 8))

/-- One of an entry's buckets has room (R89). -/
def tableRoom (m : MemSys) (p : Quad) : Bool := (wayRooms m p).any fun e => e.2.2

/-- A way in one table of 2^m buckets, with every entry of it in its bucket there: the end of a resize (R90). -/
def rebuildWay (ms : MemSys) (c w m : Nat) : MemSys :=
  let salt := match findWay ms c w with | some y => y.salt | none => 0
  { ms with
    ways := updateWhere (fun y => y.c == c && y.w == w) (fun y => { y with m := m, mNew := none, cursor := 0 }) ms.ways
    ptes := updateWhere (fun t => t.c == c && t.w == w)
      (fun t => { t with new := false, bucket := wayHash salt m (pteTag t.pte / 4 ^ c * 65536 + (pteAsid t.pte).toNat) }) ms.ptes }

/-- The page table with room for an entry: where both of its buckets are full, the MP resizes the ways of its size to twice the buckets,
as often as it takes (R89, R90; log 152). -/
def withRoom (fuel : Nat) (m : MemSys) (p : Quad) : MemSys :=
  match fuel with
  | 0 => m
  | f + 1 =>
    if tableRoom m p then m
    else
      let c := pteSize p
      let grown := fun (m : MemSys) (w : Nat) =>
        match findWay m c w with
        | some y => rebuildWay m c w (1 + max y.m (y.mNew.getD 0))
        | none => m
      withRoom f (grown (grown m 0) 1) p

/-- Puts an entry into the table, which has or makes room for it: into the way with room in its bucket, the first of the two if both have
(log 5), and marks its size present. -/
def insertPte (m : MemSys) (p : Quad) : MemSys :=
  let m := withRoom 32 m p
  let c := pteSize p
  let pick := match (wayRooms m p).find? fun e => e.2.2 with
    | some e => (e.1, e.2.1)
    | none => (0, false, 0)
  let regions := (List.range (ceilDiv (pteBytes p) (2 ^ 30))).map fun k => pteTag p * 4096 / 2 ^ 30 + k
  { m with
    ptes := m.ptes ++ [{ c := c, w := pick.1, new := pick.2.1, bucket := pick.2.2, pte := p }]
    dir := regions.foldl (fun d r =>
      assocSet d r ((match d.find? fun e => e.1 == r with | some e => e.2 | none => 0) |||
        BitVec.ofNat 10 (2 ^ c))) m.dir }

/-- Removes the entry of a page. -/
def removePte (m : MemSys) (p : Quad) : MemSys := { m with ptes := m.ptes.filter fun t => t.pte != p }

/-! ## Access tables (R385) -/

/-- The targets that hold access tables (R385; log 153): the memory controllers are 0 to 7, the L2 slices' controls 8 to 71, the fabric
ports 72 to 87, then the control port and the management registers. -/
def portTarget (p : Nat) : Nat := 72 + p
/-- The control port as a target (R385). -/
def controlTarget : Nat := 88
/-- Targets of the device. -/
def targets : Nat := 90

/-- Master kinds. -/
def mkContext : Nat := 0
/-- An engine that acts for a context. -/
def mkEngine : Nat := 1
/-- The host agent. -/
def mkHost : Nat := 2
/-- MKIND of a peer device (R385). -/
def mkPeer : Nat := 3

/-- Whether an access-table word permits a master an access of a granule. -/
def entryPermits (w : Quad) (mkind : Nat) (mid : BitVec 16) (granule : Nat) (write : Bool) : Bool :=
  w.getLsbD 0 && (if write then w.getLsbD 2 else w.getLsbD 1) && (w.extractLsb' 8 3).toNat == mkind &&
    w.extractLsb' 16 16 == mid && (w.extractLsb' 64 32).toNat ≤ granule &&
    granule ≤ (w.extractLsb' 96 32).toNat

/-- Whether a target's table permits an access (R385). -/
def tablePermits (acc : List AccEntry) (target mkind : Nat) (mid : BitVec 16) (granule : Nat)
    (write : Bool) : Bool :=
  acc.any fun e => e.target == target && entryPermits e.word mkind mid granule write

/-- The verdict of the memory controller that serves a byte of physical memory. -/
def physPermits (s : State) (mkind : Nat) (mid : BitVec 16) (phys : Nat) (write : Bool) : Bool :=
  tablePermits s.rel.acc (phys / 2 ^ 40) mkind mid (phys % 2 ^ 40 / 4096) write

/-! ## What an access meets (R82, R83, R91, R228, R332 to R336) -/

/-- The target whose access table governs a far address: the fabric port it leaves by, or the control port (R385). -/
def farTarget (port va : Nat) : Nat := if placement va = 5 then portTarget port else controlTarget

/-- A far address in its target's own address space: the window offset (R332), or the offset in host memory (R336). -/
def farOffset (va : Nat) : Nat := if placement va = 5 then va % 2 ^ 42 else va % 2 ^ 54

/-- Whether the table of the port that an address beyond the device leaves by permits an access (R385): a fabric port's is over window
offsets, the control port's over VA[53:0] (log 153). -/
def farPermits (s : State) (port mkind : Nat) (mid : BitVec 16) (va : Nat) (write : Bool) : Bool :=
  tablePermits s.rel.acc (farTarget port va) mkind mid (farOffset va / 4096) write

/-- What the checks find for one address: an entry; a byte beyond the device (placement 5 or 6); no
translation; a cause. -/
inductive Seen where
  | page (p : Quad)
  | far
  | miss
  | bad (cause : BitVec 8)
  deriving DecidableEq, Repr

/-- Who makes an access: the context, its mode, and what it counts as at an access table. -/
structure Agent where
  asid : BitVec 16
  core : Nat
  super : Bool
  mkind : Nat
  deriving DecidableEq, Repr

/-- Whether a bay is present and healthy (R26). -/
def bayHealthy (s : State) (k : Nat) : Bool := s.dev.cap0.getLsbD (20 + k)
/-- The fabric ports that are up (R29). -/
def portsUp (s : State) : List Nat := (List.range 16).filter fun p => s.dev.cap3.getLsbD p
/-- The path to a peer (R333). -/
def pathPort (s : State) (d : Nat) : Option Nat :=
  let l := portsUp s
  if l.isEmpty then none else l[d % l.length]?
/-- Whether a VA lies beyond the device (R128). -/
def isFarVa (va : Nat) : Bool := placement va == 5 || placement va == 6
/-- The destination device of a placement-5 address (R332). -/
def peerOf (va : Nat) : Nat := va / 2 ^ 42 % 2 ^ 12
/-- A fabric port carries: it is up, and the interfaces of its bay are not clamped (R29, R350). -/
def portLive (s : State) (p : Nat) : Bool := (portsUp s).contains p && !s.dev.clamped.contains (p / 4)

/-! ### Routes (R13, R331, R416) -/

/-- A bridge in service: it joins bays that lie side by side (R13), is not retired, and not clamped (R350, R416). -/
def bridgeUp (s : State) (a b : Nat) : Bool :=
  a ^^^ b != 3 && !s.dev.retired.contains (0x0C, 4 * min a b + max a b) && !s.dev.clamped.contains a && !s.dev.clamped.contains b

/-- The bays a message passes from one bay to another, both among them: the shortest path of bridges in service,
that of R13 first; `cut` is a bridge not to be used. -/
def bayRoute (s : State) (cut : Option (Nat × Nat)) (a b : Nat) : Option (List Nat) :=
  let x := a ^^^ 1
  let y := a ^^^ 2
  let paths := if a = b then [[a]] else if b = x then [[a, b], [a, y, y ^^^ 1, b]]
               else if b = y then [[a, b], [a, x, x ^^^ 2, b]] else [[a, x, b], [a, y, b]]
  paths.find? fun p => (p.zip (p.drop 1)).all fun e =>
    bridgeUp s e.1 e.2 && cut != some e && cut != some (e.2, e.1)

/-- The unified range that holds an address for a context (R336, R337). -/
def hostRange (s : State) (asid : BitVec 16) (va : Nat) : Option URange :=
  s.fab.uranges.find? fun r => (r.asid == asid || r.asid == 0) && r.base ≤ va % 2 ^ 57 &&
    va % 2 ^ 57 < r.base + r.size
/-- The control port, on bay 0, is in service (R12, R416) and not clamped (R350). -/
def hostUp (s : State) : Bool := !s.dev.retired.contains (0x0E, 0) && !s.dev.clamped.contains 0

/-- The page attributes and the access table's verdicts for a page: from the core's page-attribute cache,
or else from the home's TLB (R228). -/
def pageAttr (s : State) (a : Agent) (va : Nat) : Option (Quad × Bool × Bool) :=
  match s.mem.pac.find? fun e => e.core == a.core && e.page == pageOf va && e.asid == a.asid &&
      a.mkind == mkContext with
  | some e => some (e.pte, e.r, e.w)
  | none =>
    match translate s.mem a.asid va with
    | some p =>
      let ph := physOf p va
      some (p, physPermits s a.mkind a.asid ph false, physPermits s a.mkind a.asid ph true)
    | none => none

/-- The cluster of a core. -/
def clusterOf (core : Nat) : Nat := core / 16
/-- The bay of a core (R15). -/
def bayOf (core : Nat) : Nat := core / 64
/-- The bay of an agent; one that is no core, the dispatcher, sits on bay 0. -/
def agentBay (core : Nat) : Nat := if core < 256 then bayOf core else 0

/-- Bridges in service join an agent to a bay, and neither end is clamped (R331, R350, R416): messages between them pass. -/
def reaches (s : State) (core bay : Nat) : Bool :=
  !s.dev.clamped.contains bay && (bayRoute s none (agentBay core) bay).isSome

/-- Messages pass between a core and the MP and the dispatcher, on bay 0 (R331, R350, R416). -/
def mpReaches (s : State) (core : Nat) : Bool := reaches s core 0

/-- An access gets no answer: the interfaces of the address's home bay are clamped (R350, R357), or the bridges in service join no route
to it (R331, R416). -/
def homeCut (s : State) (core va : Nat) : Bool :=
  !reaches s core (homeBay va)

/-- The port of the path to a peer carries, and the agent's messages reach it (R29, R331, R333, R350). -/
def pathLive (s : State) (core dev : Nat) : Bool :=
  (pathPort s dev).any fun p => portLive s p && reaches s core (p / 4)

/-- The checks of one address but its alignment (R228). DESIGN CHOICE: where no port is up (n = 0), an access to the device's own DEVID
raises 0x11 as R332 says, not the 0x14 that R333 gives every placement-5 access then (log 154). -/
def seeAddr (s : State) (a : Agent) (va : Nat) (write : Bool) : Seen :=
  if !canonical va then .bad 0x11
  else if placement va < 4 && !bayHealthy s (placement va) then .bad 0x11
  else if placement va == 5 then
    if !s.dev.cap3.getLsbD 28 then .bad 0x14
    else if peerOf va == (s.dev.cap3.extractLsb' 16 12).toNat then .bad 0x11
    else if !pathLive s a.core (peerOf va) then .bad 0x14
    else .far
  else if placement va == 6 then
    match hostRange s a.asid va with
    | none => .miss
    | some r => if write && !r.writable then .bad 0x12 else .far
  else
    match pageAttr s a va with
    | none => .miss
    | some (p, r, w) =>
      if homeCut s a.core va || (write && pteShared p) then .miss
      else if write && !pteW p then .bad 0x12
      else if !a.super && !pteU p then .bad 0x12
      else if !(if write then w else r) then .bad 0x13
      else .page p

/-- Keeps a page's attributes in the core's page-attribute cache of 64 entries (R228); the oldest entry
goes first (log 1). -/
def fillPac (s : State) (a : Agent) (va : Nat) : State :=
  if placement va == 5 || placement va == 6 || a.mkind != mkContext then s
  else if s.mem.pac.any fun e => e.core == a.core && e.page == pageOf va && e.asid == a.asid then s
  else
    match pageAttr s a va with
    | none => s
    | some (p, r, w) =>
      let e : PacEntry := { core := a.core, asid := a.asid, page := pageOf va, pte := p, r := r, w := w }
      let mine := s.mem.pac.filter fun e => e.core == a.core
      let others := s.mem.pac.filter fun e => e.core != a.core
      let kept := if mine.length < 64 then mine else mine.drop (mine.length - 63)
      { s with mem := { s.mem with pac := others ++ kept ++ [e] } }

/-- Clears from every page-attribute cache a page's entries and those of other pages that it covers (R89, R228). -/
def clearPac (m : MemSys) (p : Quad) : MemSys :=
  let under := fun (e : PacEntry) =>
    (e.asid == pteAsid p || pteAsid p == 0) && decide (pteTag p ≤ e.page ∧ e.page < pteTag p + 4 ^ pteSize p)
  { m with pac := m.pac.filter fun e => e.pte != p && !under e }

end Sys2Proof.Machine
end

