-- ==== Sys2Proof/Machine/Home.lean ====
section
/-! DEFINITION. The home of a line: its current value, the writes that have a completion time and have not
reached it, the leases it grants (R110, R111). -/

namespace Sys2Proof.Machine

/-- Whether any sector of a held line is pinned now. -/
def anyPinned (c : CLine) (gt : Nat) : Bool :=
  c.pins.any fun p => match p.till with | some w => gt < w | none => true

/-- The line a unit holds. -/
def heldLine (cs : List CLine) (unit : Nat) (asid : BitVec 16) (line : Nat) : Option CLine :=
  cs.find? fun c => c.unit == unit && c.asid == asid && c.line == line

/-- The lines of a unit that holds `room` of them with room for one: one that it holds already needs none; else, if the unit is full, its
oldest line that is not pinned goes (R16, R17; log 157). None if every line is pinned: the unit does not take the new one. -/
def makeRoom (cs : List CLine) (gt unit : Nat) (asid : BitVec 16) (line room : Nat) : Option (List CLine) :=
  let mine := cs.filter fun c => c.unit == unit
  if (heldLine cs unit asid line).isSome || decide (mine.length < room) then some cs
  else (mine.find? fun c => !anyPinned c gt).map fun old =>
    cs.filter fun c => !(c.unit == unit && c.asid == old.asid && c.line == old.line)

/-- The lines of an L1 of 256 KiB (R16), less those that hold reductions (R122). -/
def l1Room (m : MemSys) (core : Nat) : Nat := 2048 - (m.ulines.filter fun u => u.core == core).length

/-- The lines of a cluster cache: 256 KiB for each of its banks in cache role (R17, R94). -/
def ccRoom (e : Engines) (cluster : Nat) : Nat :=
  2048 * (e.banks.filter fun b => b.cluster == cluster && b.role == .cache).length

/-- The lease state of a line; a line not listed has none. -/
def homeLine (m : MemSys) (asid : BitVec 16) (line : Nat) : HLine :=
  match m.hlines.find? fun h => h.asid == asid && h.line == line with
  | some h => h
  | none => { asid := asid, line := line, mle := none, wlast := none }

/-- Replaces the lease state of a line. -/
def setHomeLine (m : MemSys) (h : HLine) : MemSys :=
  { m with hlines := m.hlines.filter (fun x => !(x.asid == h.asid && x.line == h.line)) ++ [h] }

/-- One more than an optional tick, or 0. -/
def after (o : Option Nat) : Nat := match o with | some x => x + 1 | none => 0

/-- The completion time of a write that arrives at a tick (R111). -/
def completionTime (h : HLine) (t : Nat) : Nat := max t (max (after h.mle) (after h.wlast))

/-- Writes bytes into physical memory. -/
def pokeBytes (m : Sparse 8) (bs : List (Nat × Byte)) : Sparse 8 := bs.foldl (fun a c => poke a c.1 c.2) m

/-- The byte of physical memory that is current: what the last write with W at or before now left. -/
def currentByte (m : MemSys) (a : Nat) : Byte := peek m.phys a

/-- The byte that the last write to it in coherence order wrote, whether or not its W has passed. -/
def latestByte (m : MemSys) (a : Nat) : Byte :=
  match firstSome (fun (w : PendW) => (w.bytes.find? fun c => c.1 == a)) m.pend.reverse with
  | some c => c.2
  | none => peek m.phys a

/-- The bytes from an address on that are current. -/
def currentBytes (m : MemSys) (a n : Nat) : List Byte := peekAll m.phys a n
/-- The latest bytes from an address on. -/
def latestBytes (m : MemSys) (a n : Nat) : List Byte := (List.range n).map fun i => latestByte m (a + i)

/-- The poisoned sectors that remain when bytes are written: a sector written whole is poisoned no more
(log 15). -/
def poisonAfter (l : List Nat) (bs : List (Nat × Byte)) : List Nat :=
  l.filter fun k => (bs.filter fun c => c.1 / 32 == k).length < 32

/-- Bytes of an address lie in the records of a context's error queue, whose fields are read-only (R4, R378, R381). -/
def recordByte (s : State) (asid : BitVec 16) (va : Nat) : Bool :=
  s.sched.ctxs.any fun c => c.errq.any fun q =>
    q.asid == asid && decide (q.va.toNat + 64 ≤ va) && decide (va < q.va.toNat + 64 + 64 * 2 ^ q.logn)

/-- A line holds the header of a ring, whose PROD and CONS the MP loads (R358, R381). -/
def headLine (s : State) (asid : BitVec 16) (line : Nat) : Bool :=
  (s.sched.ctxs.filterMap (fun c => c.errq) ++ s.dev.thermal.toList).any fun q => q.asid == asid && lineOf q.va.toNat == line

/-- The bytes of a write to a line that a store may change (R4). -/
def writableBytes (s : State) (asid : BitVec 16) (line : Nat) (bs : List (Nat × Byte)) : List (Nat × Byte) :=
  bs.filter fun c => !recordByte s asid (vaOfLine line + c.1 % 128)

/-- The home receives a write that may not complete before a tick, gives it a W, and applies it at once if W has come
(R111). -/
def homeWriteFrom (t : Nat) (s : State) (asid : BitVec 16) (line : Nat) (bs : List (Nat × Byte)) : State × Nat :=
  let h := homeLine s.mem asid line
  let w := completionTime h (max t s.gt)
  let m := setHomeLine s.mem { h with wlast := some w }
  let m := { m with poison := poisonAfter m.poison bs }
  let m := if w ≤ s.gt then { m with phys := pokeBytes m.phys bs }
           else { m with pend := m.pend ++ [{ asid := asid, line := line, w := w, bytes := bs }] }
  ({ s with mem := m }, w)

/-- The home receives a write at the present tick (R111). -/
def homeWrite (s : State) (asid : BitVec 16) (line : Nat) (bs : List (Nat × Byte)) : State × Nat :=
  homeWriteFrom s.gt s asid line bs

/-- Applies, in order of W, the pending writes whose W has come. -/
def applyPending (m : MemSys) (gt : Nat) : MemSys :=
  let due := sortBy (fun (p : PendW) => p.w) (m.pend.filter fun p => p.w ≤ gt)
  { m with
    phys := due.foldl (fun a p => pokeBytes a p.bytes) m.phys
    pend := m.pend.filter fun p => !(p.w ≤ gt) }

/-- GT counts: from the end of a start's power sequence on, and not while the supply is off (R31, R108, R349). -/
def counts (s : State) : Bool :=
  match s.dev.power with
  | .on | .mpFailed | .starting (.step _) => true
  | .off | .stuck _ _ | .starting (.domain _) | .lowering _ => false

/-- The answers whose tick has come are given (R337). -/
def giveAnswers (r : Rel) (gt : Nat) : Rel :=
  { r with
    replies := r.replies ++ (r.held.filter fun e => e.1 ≤ gt).map Prod.snd
    held := r.held.filter fun e => !(e.1 ≤ gt) }

/-- The answers to peers whose tick has come are given (R124, R130). -/
def givePeers (f : Fabric) (gt : Nat) : Fabric :=
  { f with
    answers := f.answers ++ (f.gives.filter fun e => e.1 ≤ gt).map Prod.snd
    gives := f.gives.filter fun e => !(e.1 ≤ gt) }

/-- GT rises (R108): writes whose W has come become current, and what the host and peers have sent whose W has come is reported
done. -/
def elapse (s : State) (n : Nat) : State :=
  let gt := if counts s then s.gt + n else s.gt
  { s with gt := gt, mem := applyPending s.mem gt, rel := giveAnswers s.rel gt, fab := givePeers s.fab gt }

/-- The earliest W of the writes pending on a line. -/
def earliestPending (m : MemSys) (asid : BitVec 16) (line : Nat) : Option Nat :=
  (m.pend.filter fun p => p.asid == asid && p.line == line).foldl
    (fun a p => match a with | some x => some (min x p.w) | none => some p.w) none

/-- The lease end the home grants now for a line of a lease class, and none if it has no length (R110). -/
def grantLease (m : MemSys) (gt : Nat) (p : Quad) (line : Nat) : Option Nat :=
  let full := gt + pteLease p
  let le := match earliestPending m (pteAsid p) line with | some w => min full (w - 1) | none => full
  if le ≤ gt then none else some le

/-- The home keeps the largest lease end it has granted (R110). -/
def noteLease (m : MemSys) (asid : BitVec 16) (line le : Nat) : MemSys :=
  let h := homeLine m asid line
  setHomeLine m { h with mle := some (match h.mle with | some x => max x le | none => le) }

/-- Splits bytes written from a VA on by their line, each with its memory addresses. -/
def byLine (p : Quad) (va : Nat) (bs : List Byte) : List (Nat × List (Nat × Byte)) :=
  let cells := (List.range bs.length).zip bs
  let lines := cells.foldl (fun a c => addOnce (lineOf (va + c.1)) a) []
  lines.map fun l => (l, (cells.filter fun c => lineOf (va + c.1) == l).map fun c => (physOf p (va + c.1), c.2))

end Sys2Proof.Machine
end

