-- ==== Sys2Proof/Machine/Lookup.lean ====
section
/-! DEFINITION. Finding and replacing the objects of State by number, and moving the focus to another split. -/

namespace Sys2Proof.Machine

/-- A launch record that is not there. -/
def LaunchRec.blank : LaunchRec :=
  { entry := 0, pool := 0, args := 0, gangs := 0, groups := 0, teams := 0, bars := 0, lanes := 0, vregs := 0,
    slots := 0, tiles := 0, lds := 0, w0val := 0, w1val := 0, w0ctr := 0, w0en := false, w1ctr := 0,
    w1en := false, sigctr := 0, sigen := false, prio := 0, red := false, scr := false, report := false,
    split := false, wdog := 0, asid := 0, kpt := 0, ntile := 0 }

/-- A launch that is not there. -/
def Launch.blank : Launch :=
  { id := 0, queue := 0, pos := 0, rcd := LaunchRec.blank, poolSize := 0, placed := 0, retired := 0,
    replay := 0, snap := [], lastW := 0, unroll := false, tangled := [], rollback := false, killed := false, due := false }

/-- A gang that is not there. -/
def Gang.blank : Gang :=
  { id := 0, launch := 0, index := 0, cluster := 0, origin := 0, nteams := 0, gbar := Barrier.none,
    st := .running, rdvs := [], seen := 0, unfit := none, save := none, retired := true }

/-- Operand slots and tiles that nobody owns. -/
def Slot.none : Slot := { owned := false, st := .empty, poison := false, bytes := [] }
/-- A tile that nobody owns (R99, R100). -/
def Tile.none : Tile :=
  { owned := false, st := .empty, poison := false, mode := 0, elems := [], anchor := 0, flags := 0, cs := []
    rounds := 0, mag := 0, kTotal := 0, inf := false }

/-- The gang of a number. -/
def findGang (s : State) (id : Nat) : Gang := (s.gangs.find? fun g => g.id == id).getD Gang.blank
/-- The launch of a number. -/
def findLaunch (s : State) (id : Nat) : Launch := (s.launches.find? fun l => l.id == id).getD Launch.blank
/-- Replaces a gang. -/
def updGang (s : State) (id : Nat) (f : Gang → Gang) : State :=
  { s with gangs := updateWhere (fun g => g.id == id) f s.gangs }
/-- Replaces a launch. -/
def updLaunch (s : State) (id : Nat) (f : Launch → Launch) : State :=
  { s with launches := updateWhere (fun l => l.id == id) f s.launches }

/-- Every team, the one in focus first. -/
def allTeams (s : State) : List Team := if s.tm.id = 0 then s.teams else s.tm :: s.teams
/-- Every group, the one in focus first. -/
def allGroups (s : State) : List Group := if s.g.id = 0 then s.groups else s.g :: s.groups
/-- The team of a number. -/
def findTeam (s : State) (id : Nat) : Team := ((allTeams s).find? fun t => t.id == id).getD Team.blank
/-- The group of a number. -/
def findGroup (s : State) (id : Nat) : Group := ((allGroups s).find? fun g => g.id == id).getD Group.blank
/-- Replaces a team. -/
def updTeam (s : State) (id : Nat) (f : Team → Team) : State :=
  if s.tm.id = id then { s with tm := f s.tm }
  else { s with teams := updateWhere (fun t => t.id == id) f s.teams }
/-- Replaces a group. -/
def updGroup (s : State) (id : Nat) (f : Group → Group) : State :=
  if s.g.id = id then { s with g := f s.g }
  else { s with groups := updateWhere (fun g => g.id == id) f s.groups }
/-- Replaces every group that meets a test. -/
def updGroups (s : State) (p : Group → Bool) (f : Group → Group) : State :=
  { s with g := if p s.g then f s.g else s.g, groups := updateWhere p f s.groups }

/-- The splits of a group, the one in focus first if it is the group's. -/
def splitsOf (s : State) (gid : Nat) : List Split :=
  if s.g.id = gid then s.sp :: s.g.others else (findGroup s gid).others
/-- A split of a group. -/
def findSplit (s : State) (gid num : Nat) : Split :=
  ((splitsOf s gid).find? fun p => p.num == num).getD Split.none
/-- Replaces a split of a group. -/
def updSplit (s : State) (gid num : Nat) (f : Split → Split) : State :=
  if s.g.id = gid then
    if s.sp.num = num then { s with sp := f s.sp }
    else { s with g := { s.g with others := updateWhere (fun p => p.num == num) f s.g.others } }
  else updGroup s gid fun g => { g with others := updateWhere (fun p => p.num == num) f g.others }
/-- Replaces every split of a group. -/
def updSplits (s : State) (gid : Nat) (f : Split → Split) : State :=
  if s.g.id = gid then { s with sp := f s.sp, g := { s.g with others := s.g.others.map f } }
  else updGroup s gid fun g => { g with others := g.others.map f }

/-- Puts the split, group and team in focus back into their lists. -/
def unfocus (s : State) : State :=
  let g := if s.sp.live then { s.g with others := s.g.others ++ [s.sp] } else s.g
  { s with
    sp := Split.none, g := Group.blank, tm := Team.blank
    groups := if s.g.id = 0 then s.groups else s.groups ++ [g]
    teams := if s.tm.id = 0 then s.teams else s.teams ++ [s.tm] }

/-- Brings a split, its group and its team into focus. -/
def focus (s : State) (w : Who) : State :=
  if s.g.id = w.gid ∧ s.sp.num = w.sp ∧ s.sp.live then s
  else
    let s := unfocus s
    let g := findGroup s w.gid
    let t := findTeam s g.team
    let p := (g.others.find? fun p => p.num == w.sp).getD Split.none
    { s with
      sp := p, g := { g with others := g.others.filter fun p => p.num != w.sp }, tm := t
      groups := s.groups.filter fun x => x.id != g.id
      teams := s.teams.filter fun x => x.id != t.id }

/-- Brings a group into focus with one of its splits. -/
def focusGroup (s : State) (gid : Nat) : State :=
  focus s { gid := gid, sp := (((splitsOf s gid).find? fun p => p.live).getD Split.none).num }

/-- The gang of the team in focus. -/
def State.gang (s : State) : Gang := findGang s s.tm.gang
/-- The launch of the team in focus. -/
def State.launch (s : State) : Launch := findLaunch s s.gang.launch
/-- The context of the team in focus. -/
def State.asid (s : State) : BitVec 16 := s.launch.rcd.asid
/-- The execution mask (R41). -/
def State.exec (s : State) : Word := s.sp.mask &&& s.sp.pred.headD 0
/-- The split in focus as the maker of an access. -/
def State.agent (s : State) : Agent :=
  { asid := s.asid, core := s.tm.core, super := s.sp.super, mkind := mkContext }

/-- The gang of a group. -/
def gangOfGroup (s : State) (g : Group) : Gang := findGang s (findTeam s g.team).gang
/-- The launch of a group. -/
def launchOfGroup (s : State) (g : Group) : Launch := findLaunch s (gangOfGroup s g).launch
/-- The context of a number. -/
def findCtx (s : State) (asid : BitVec 16) : Option Ctx := s.sched.ctxs.find? fun c => c.asid == asid
/-- Replaces a context. -/
def updCtx (s : State) (asid : BitVec 16) (f : Ctx → Ctx) : State :=
  { s with sched := { s.sched with ctxs := updateWhere (fun c => c.asid == asid) f s.sched.ctxs } }
/-- The LAUNCH field of records: queue in [5:0], position in [31:6] (R378). -/
def launchField (l : Launch) : Word := BitVec.ofNat 32 (l.queue % 64 + 64 * l.pos)
/-- The watchdog period of a launch (R399). -/
def watchPeriod (l : Launch) : Nat := if l.rcd.wdog = 0 then 2 ^ 22 else 2 ^ l.rcd.wdog
/-- A new object number (log 1). -/
def newId (s : State) : State × Nat :=
  ({ s with sched := { s.sched with nextId := s.sched.nextId + 1 } }, s.sched.nextId)

end Sys2Proof.Machine
end

