-- ==== Sys2Proof/Machine/Records.lean ====
section
/-! DEFINITION. Error records, error queues, control-port messages and the black box (R377 to R383). -/

namespace Sys2Proof.Machine

/-- The fields of an error record (R378) that its writer chooses. -/
structure Rcd where
  kind : Nat
  cause : BitVec 8
  code : BitVec 8
  inh : Bool
  unr : Bool
  asid : BitVec 16
  hop : BitVec 16
  launch : Word
  gang : Word
  core : Nat
  member : Nat
  group : Nat
  split : Nat
  pc : DWord
  addr : DWord
  lanes : Word
  extra : Word
  chunk : DWord
  bay : Nat
  cont : List DWord
  gt : Option Nat
  deriving DecidableEq, Repr

/-- A record of a kind with every other field as R378 gives it when it does not apply. -/
def Rcd.blank (kind : Nat) : Rcd :=
  { kind := kind, cause := 0, code := 0, inh := false, unr := false, asid := 0, hop := 0xFFFF,
    launch := 0xFFFFFFFF, gang := 0, core := 0xFF, member := 0, group := 0, split := 0, pc := 0, addr := 0,
    lanes := 0, extra := 0, chunk := 0xFFFFFFFFFFFFFFFF, bay := 0, cont := [], gt := none }

/-- Continuation records that follow (R380): four entries each. -/
def Rcd.ncont (r : Rcd) : Nat := ceilDiv r.cont.length 4

/-- The two words of a 64-bit value, low first. -/
def wordsOf (d : DWord) : List Word := [d.setWidth 32, (d >>> 32).setWidth 32]

/-- The first eight words of a record (R378), as a continuation repeats them with KIND 0xFF. -/
def rcdHead (s : State) (r : Rcd) (kind : Nat) : List Word :=
  wordsOf (BitVec.ofNat 64 (r.gt.getD s.gt)) ++
  [s.dev.startNo,
   BitVec.ofNat 32 kind ||| (r.cause.setWidth 32 <<< 8) ||| (r.code.setWidth 32 <<< 16) |||
     (BitVec.ofNat 32 r.inh.toNat <<< 24) ||| (BitVec.ofNat 32 r.unr.toNat <<< 25),
   r.asid.setWidth 32 ||| (r.hop.setWidth 32 <<< 16), r.launch, r.gang,
   BitVec.ofNat 32 (r.core % 256) ||| (BitVec.ofNat 32 (r.member % 16) <<< 8) |||
     (BitVec.ofNat 32 (r.group % 16) <<< 12) ||| (BitVec.ofNat 32 (r.split % 4) <<< 16) |||
     (BitVec.ofNat 32 (r.ncont % 256) <<< 24)]

/-- The sixteen words of a record (R378). -/
def rcdWords (s : State) (r : Rcd) : List Word :=
  rcdHead s r r.kind ++ wordsOf r.pc ++ wordsOf r.addr ++ [r.lanes, r.extra] ++ wordsOf r.chunk

/-- The continuation records (R380); unused entries of an address list are all ones, of a group list
zero. -/
def contWords (s : State) (r : Rcd) : List Word :=
  (chunksOf r.cont.length 4 r.cont).flatMap fun c =>
    rcdHead s r 0xFF ++
      (c ++ List.replicate (4 - c.length) (if r.kind = 7 then (0xFFFFFFFFFFFFFFFF : DWord) else 0)).flatMap wordsOf

/-- The event the black box keeps of a record (R383). -/
def bbWords (s : State) (r : Rcd) : List Word :=
  wordsOf (BitVec.ofNat 64 (r.gt.getD s.gt)) ++
  [BitVec.ofNat 32 r.kind ||| (r.cause.setWidth 32 <<< 8) ||| (BitVec.ofNat 32 (r.core % 256) <<< 16) |||
     (r.code.setWidth 32 <<< 24),
   r.asid.setWidth 32 ||| (r.hop.setWidth 32 <<< 16)] ++ wordsOf r.addr ++ wordsOf r.chunk

/-- Adds an event to a bay's black box of 4,096 events; the oldest goes first (R383). -/
def bbAdd (s : State) (bay : Nat) (w : List Word) : State :=
  let mine := s.rel.bb.filter fun e => e.bay == bay
  let bb := if mine.length < 4096 then s.rel.bb
            else (s.rel.bb.filter fun e => e.bay != bay) ++ mine.drop (mine.length - 4095)
  { s with rel := { s.rel with bb := bb ++ [{ bay := bay, words := w }] } }

/-- A launch-level event of the black box (R383: kinds 0x20 to 0x23), LAUNCH in ADDR. -/
def bbEvent (s : State) (bay kind core : Nat) (asid : BitVec 16) (addr : Word) : State :=
  bbAdd s bay (bbWords s { Rcd.blank kind with core := core, asid := asid, addr := addr.setWidth 64 })

/-- Sends a message on the control port, which holds 256; the count of lost messages goes with the next
one that fits (R382). A retired control port takes none: the control node hears of it from the black box alone (R416). -/
def ctlSend (s : State) (w : List Word) : State :=
  if s.dev.retired.contains (0x0E, 0) then s
  else if s.rel.ctl.length < 256 then
    let w := if s.rel.ctlLost = 0 then w else w ++ [BitVec.ofNat 32 s.rel.ctlLost]
    { s with rel := { s.rel with ctl := s.rel.ctl ++ [w], ctlLost := 0 } }
  else { s with rel := { s.rel with ctlLost := s.rel.ctlLost + 1 } }

/-- The MP writes bytes at a VA of a context not before a tick, if it is mapped (the MP is under no access table, R385) and its messages
reach the homes (R331, R350; log 181); the state and the largest W. -/
def mpWriteFrom (t : Nat) (s : State) (asid : BitVec 16) (va : Nat) (bs : List Byte) : State × Nat :=
  match translate s.mem asid va with
  | none => (s, t)
  | some p =>
    (byLine p va bs).foldl (fun a l =>
      if homeCut s 256 (vaOfLine l.1) then a
      else
      let r := homeWriteFrom t a.1 (pteAsid p) l.1 l.2
      (r.1, max a.2 r.2)) (s, t)

/-- The MP writes bytes at a VA of a context. -/
def mpWrite (s : State) (asid : BitVec 16) (va : Nat) (bs : List Byte) : State := (mpWriteFrom s.gt s asid va bs).1

/-- The MP reads bytes at a VA of a context, latest values. -/
def mpRead (s : State) (asid : BitVec 16) (va n : Nat) : List Byte :=
  match translate s.mem asid va with
  | none => List.replicate n 0
  | some p => (List.range n).map fun i => latestByte s.mem (physOf p (va + i))

/-- The bytes of words. -/
def bytesOfWords (ws : List Word) : List Byte := ws.flatMap fun w => toBytes 4 w.toNat

/-- The W of the last write to the line of a VA of a context, or the present tick. -/
def lastWrite (s : State) (asid : BitVec 16) (va : Nat) : Nat :=
  match translate s.mem asid va with
  | none => s.gt
  | some p => max s.gt ((homeLine s.mem (pteAsid p) (lineOf va)).wlast.getD 0)

/-- Puts records into a ring, whole or not at all (R358, R381): they are released at .dev before PROD moves past them, whose W is not
before theirs; and they are written once PROD has moved past those before them, so that records are performed in their order. The MP
reaches nothing of a ring across a clamp: records that would lie there are lost as those for which there is no room (R350; log 181). The
state, and the largest W of the records. -/
def ringPut (s : State) (r : Ring) (size : Nat) (recs : List (List Word)) : State × Nat :=
  let base := r.va.toNat
  let prod := ofBytes (mpRead s r.asid base 4)
  let cons := ofBytes (mpRead s r.asid (base + 4) 4)
  let used := (prod + 2 ^ 32 - cons) % 2 ^ 32
  let place := fun (k : Nat) => base + 64 + size * ((prod + k) % 2 ^ r.logn)
  if homeCut s 256 base then (s, s.gt)
  else if used + recs.length ≤ 2 ^ r.logn ∧ (List.range recs.length).all fun k => !homeCut s 256 (place k) then
    let a := ((List.range recs.length).zip recs).foldl (fun (a : State × Nat) e =>
      mpWriteFrom a.2 a.1 r.asid (place e.1) (bytesOfWords e.2)) (s, lastWrite s r.asid base)
    ((mpWriteFrom a.2 a.1 r.asid base (toBytes 4 (prod + recs.length))).1, a.2)
  else
    (mpWrite s r.asid (base + 8) (toBytes 4 (ofBytes (mpRead s r.asid (base + 8) 4) + 1)), s.gt)

/-- The error queue of a context other than 0 (R381). -/
def errorQueue (s : State) (asid : BitVec 16) : Option Ring :=
  if asid = 0 then none else (findCtx s asid).bind fun c => c.errq

/-- Writes an error record (R377 to R383): into the context's error queue, to the control node, and an
event into the black box of the bay where the failure was detected. Records of ASID 0 skip the queue. The state, and the W at which
the record is performed in the queue, or the present tick. -/
def recordAt (s : State) (r : Rcd) : State × Nat :=
  let ws := rcdWords s r
  let cs := chunksOf r.cont.length 16 (contWords s r)
  let a := match errorQueue s r.asid with
    | some q => ringPut s q 64 (ws :: cs)
    | none => (s, s.gt)
  let s := ctlSend a.1 (ws ++ cs.flatten)
  (bbAdd s r.bay (bbWords s r), a.2)

/-- Writes an error record (R377 to R383). -/
def writeRecord (s : State) (r : Rcd) : State := (recordAt s r).1

/-- What ADDR names a unit by (R407): units of a core, and banks of a cluster, are numbered over the device here and over their core or
cluster there. -/
def unitAddr (u : UnitId) : Nat :=
  if u.1 = 7 then u.2 % 8 else if u.1 = 8 then u.2 % 32 else if u.1 = 4 then u.2 % 64 else u.2
/-- The core of a unit, 0xFF if none. The register files, the L1 and the operand and accumulator stores of a core are numbered by the
core. -/
def unitCore (u : UnitId) : Nat :=
  match u.1 with
  | 0x01 | 0x02 | 0x03 | 0x06 | 0x09 => u.2
  | 0x07 => u.2 / 8
  | 0x08 => u.2 / 32
  | _ => 0xFF

/-- The bay a unit belongs to (R12, R407). -/
def unitBay (u : UnitId) : Nat :=
  match u.1 with
  | 0x01 | 0x02 | 0x03 | 0x06 | 0x07 | 0x08 | 0x09 => bayOf (unitCore u)
  | 0x04 => u.2 / 256
  | 0x05 => u.2 / 16
  | 0x0A => u.2 / 2
  | 0x0B => u.2 / 16
  | 0x0C => u.2 / 4
  | 0x0D => u.2 / 4
  | 0x0F => u.2
  | _ => 0

/-- The hop id of a bay's router. -/
def routerHop (bay : Nat) : BitVec 16 := BitVec.ofNat 16 (0x0100 + bay)

/-- The hop of the unit that finds an error (R18, R21): a bridge's router, a fabric port. -/
def unitHop (u : UnitId) : BitVec 16 :=
  match u.1 with
  | 0x0C => routerHop (u.2 / 4)
  | 0x0D => BitVec.ofNat 16 (0x0200 + u.2)
  | _ => 0xFFFF

/-- The window in which errors are counted (R408). -/
def errWindow : Nat := 2 ^ 24

/-- The ticks of the last errors of a kind of a unit (R408). -/
def recentErrs (s : State) (u : UnitId) (k : ErrKind) : List Nat :=
  ((s.dev.recent.find? fun e => e.1 == (u, k)).map Prod.snd).getD []

/-- The ticks of the errors of a kind of a unit within the window that ends now (R408). -/
def errsInWindow (s : State) (u : UnitId) (k : ErrKind) : List Nat := (recentErrs s u k).filter fun t => decide (s.gt < t + errWindow)

/-- Notes an error of a unit (R408). -/
def noteErr (s : State) (u : UnitId) (k : ErrKind) : State :=
  { s with dev := { s.dev with recent := assocSet s.dev.recent (u, k) (errsInWindow s u k ++ [s.gt]) } }

/-- The errors of a unit since its last record, and the tick of that record (R382). -/
def errCount (s : State) (u : UnitId) : Nat × Option Nat := ((s.dev.errors.find? fun e => e.1 == u).map Prod.snd).getD (0, none)

/-- Keeps the errors of a unit since its last record. -/
def setErrCount (s : State) (u : UnitId) (n : Nat) (last : Option Nat) : State :=
  { s with dev := { s.dev with errors := assocSet s.dev.errors u (n, last) } }

/-- The ECC record of a unit (R379, R382, R407): its index, the hop that found the error, whether it is uncorrectable, the errors since the
last record; the count then begins anew. -/
def eccRecord (s : State) (u : UnitId) (addr : DWord) (hop : BitVec 16) (bay : Nat) (bad : Bool) (n : Nat) : State :=
  setErrCount (writeRecord s { Rcd.blank 0x05 with
    hop := hop, core := unitCore u, addr := addr
    extra := BitVec.ofNat 32 (bad.toNat + u.1 * 256 + min n 0xFFFF * 65536), bay := bay }) u 0 (some s.gt)

/-- An error of a unit that was not corrected is recorded, every time (R382). -/
def uncorrectedAt (s : State) (u : UnitId) (addr : DWord) : State :=
  eccRecord (noteErr s u .uncorrectable) u addr (unitHop u) (unitBay u) true ((errCount s u).1 + 1)

/-- The same, at the unit's own index (R407). -/
def uncorrected (s : State) (u : UnitId) : State := uncorrectedAt s u (BitVec.ofNat 64 (unitAddr u))

/-- Counts a corrected error of a unit (R382): a record of kind ECC, with the count since the last one, at most once
every 2^24 cycles. -/
def countErrorAt (s : State) (u : UnitId) (addr : DWord) (hop : BitVec 16) (bay : Nat) : State :=
  let old := errCount s u
  let s := noteErr s u .corrected
  if old.2.all fun t => decide (t + 2 ^ 24 ≤ s.gt) then eccRecord s u addr hop bay false (old.1 + 1)
  else setErrCount s u (old.1 + 1) old.2

/-- The same, at the unit's own index (R407). -/
def countError (s : State) (u : UnitId) (hop : BitVec 16) (bay : Nat) : State :=
  countErrorAt s u (BitVec.ofNat 64 (unitAddr u)) hop bay

/-- The fields of a record that name a group and its launch (R378). -/
def groupRcd (s : State) (g : Group) (r : Rcd) : Rcd :=
  let t := findTeam s g.team
  let ga := findGang s t.gang
  let l := findLaunch s ga.launch
  { r with
    asid := l.rcd.asid, launch := launchField l, gang := BitVec.ofNat 32 ga.index, core := t.core
    member := t.member, group := g.idx, bay := bayOf t.core }

/-- The ADDRLIST record of a cause for the addresses beyond the one in TADDR (R379, R380, R397): ascending,
at most 1,020 listed, EXTRA counting all. -/
def addrList (s : State) (g : Group) (code : BitVec 8) (taddr : Nat) (addrs : List Nat) : State :=
  let rest := (sortBy id addrs).erase taddr
  if rest.isEmpty then s
  else
    writeRecord s { groupRcd s g (Rcd.blank 0x07) with
      code := code, extra := BitVec.ofNat 32 rest.length
      cont := (rest.take 1020).map (BitVec.ofNat 64) }

/-! ## Violations (R387) -/

/-- A violation is logged at its target, which holds 16 (R387). -/
def logAt (s : State) (t addr mkind : Nat) (mid : BitVec 16) (write : Bool) : State :=
  if (s.rel.viol.filter fun v => v.target == t).length < 16 then
    { s with rel := { s.rel with viol := s.rel.viol ++
      [{ target := t, mkind := mkind, mid := mid, addr := BitVec.ofNat 64 addr, write := write
         gt := s.gt }] } }
  else
    let n := ((s.rel.violLost.find? fun e => e.1 == t).map Prod.snd).getD 0
    { s with rel := { s.rel with violLost := assocSet s.rel.violLost t (n + 1) } }

/-- A violation of a byte of physical memory is logged at its memory controller (R385, R387). -/
def logViolation (s : State) (phys mkind : Nat) (mid : BitVec 16) (write : Bool) : State :=
  logAt s (phys / 2 ^ 40) (phys % 2 ^ 40) mkind mid write

end Sys2Proof.Machine
end

