-- ==== Sys2Proof/Machine/Snapshot.lean ====
section
/-! DEFINITION. Snapshots, entanglement and what makes a launch unrollable (R388, R389). -/

namespace Sys2Proof.Machine

/-- The 64 KiB granule of a VA (R388). -/
def granuleOf (va : Nat) : Nat := va % 2 ^ 57 / 65536

/-- The physical 4 KiB ranges that hold a granule of a context, each with its place in the granule (R388). -/
def granuleRanges (m : MemSys) (asid : BitVec 16) (g : Nat) : List (Nat × Nat) :=
  (List.range 16).filterMap fun k =>
    let va := vaOfPage (16 * g + k)
    (translate m asid va).map fun p => (4096 * k, physOf p va)

/-- Physical memory with every pending write applied. -/
def latestPhys (m : MemSys) : Sparse 8 := m.pend.foldl (fun a p => pokeBytes a p.bytes) m.phys

/-- The bytes a granule holds now that are not zero, by their place in it. -/
def granuleCells (m : MemSys) (asid : BitVec 16) (g : Nat) : List (Nat × Byte) :=
  let ph := latestPhys m
  (granuleRanges m asid g).flatMap fun r => (cellsIn ph r.2 (r.2 + 4096)).map fun c => (r.1 + (c.1 - r.2), c.2)

/-- The poisoned sectors of a granule, by their place in it. -/
def granuleSick (m : MemSys) (asid : BitVec 16) (g : Nat) : List Nat :=
  (granuleRanges m asid g).flatMap fun r => (m.poison.filter fun k => k / 128 == r.2 / 4096).map fun k => r.1 / 32 + (k - r.2 / 32)

/-- The bay where a failure of a launch counts as detected: that of its first gang (R383; log 155). -/
def launchBay (s : State) (l : Launch) : Nat := ((s.gangs.find? fun g => g.launch == l.id).map fun g => g.cluster / 4).getD 0

/-- The ROLLBACK record of a launch (R379, R389). -/
def rollbackRcd (bay : Nat) (l : Launch) (unr abandoned : Bool) : Rcd :=
  { Rcd.blank 0x0C with
    asid := l.rcd.asid, launch := launchField l, unr := unr, bay := bay
    extra := BitVec.ofNat 32 (l.replay % 256 + (if abandoned then 256 else 0)) }

/-- A launch that has become unrollable is named in a record, whatever its POLICY (R389; log 156). -/
def nameUnroll (s : State) (l : Launch) : State := writeRecord s (rollbackRcd (launchBay s l) l true false)

/-- A launch becomes unrollable, and every launch it is entangled with (R389). -/
def markUnroll (fuel : Nat) (s : State) (lid : Nat) : State :=
  match fuel with
  | 0 => s
  | f + 1 =>
    let l := findLaunch s lid
    if l.id = 0 || l.unroll then s
    else
      let s := updLaunch s lid fun l => { l with unroll := true }
      let s := nameUnroll s l
      l.tangled.foldl (fun s k => markUnroll f s k) s

/-- Two launches become entangled (R389). -/
def entangle (s : State) (a b : Nat) : State :=
  if a = b then s
  else
    let s := updLaunch s a fun l => { l with tangled := addOnce b l.tangled }
    let s := updLaunch s b fun l => { l with tangled := addOnce a l.tangled }
    let n := s.launches.length
    let s := if (findLaunch s a).unroll then markUnroll (n + 1) s b else s
    if (findLaunch s b).unroll then markUnroll (n + 1) s a else s

/-- A launch touches a granule that other running launches' snapshots hold (R389). -/
def touchGranule (s : State) (lid : Nat) (asid : BitVec 16) (g : Nat) : State :=
  let others := s.launches.filter fun l => l.id != lid && l.rcd.asid == asid && l.snap.any fun e => e.gran == g
  others.foldl (fun s l => entangle s lid l.id) s

/-- The granules that the snapshots of a context hold. -/
def snapUse (s : State) (asid : BitVec 16) : Nat :=
  s.launches.foldl (fun n l => if l.rcd.asid == asid then n + l.snap.length else n) 0

/-- The home copies a granule into a launch's snapshot before the launch first writes it (R388), or finds
that the launch cannot be rolled back any more (R389). -/
def snapGranule (s : State) (lid : Nat) (pageAsid : BitVec 16) (va : Nat) : State :=
  let l := findLaunch s lid
  if l.id = 0 then s
  else
    let n := s.launches.length
    if pageAsid = 0 then markUnroll (n + 1) s lid
    else
      let g := granuleOf va
      if l.rcd.report || l.unroll || l.snap.any fun e => e.gran == g then s
      else
        let reserve := match findCtx s l.rcd.asid with | some c => c.snapReserve | none => 0
        if snapUse s l.rcd.asid < reserve then
          let n := newId s
          let e : Snap :=
            { gran := g, seq := n.2, cells := granuleCells s.mem l.rcd.asid g, sick := granuleSick s.mem l.rcd.asid g }
          updLaunch n.1 lid fun l => { l with snap := l.snap ++ [e] }
        else markUnroll (n + 1) s lid

/-- The home receives a write of a launch (R111, R388, R389); `none` stands for the MP, the host or a
peer, whose writes no snapshot covers. A launch's write leaves read-only bytes as they are (R4). -/
def launchWrite (s : State) (lid : Option Nat) (pageAsid : BitVec 16) (line : Nat)
    (bs : List (Nat × Byte)) : State × Nat :=
  match lid with
  | none => homeWrite s pageAsid line bs
  | some k =>
    let s := snapGranule s k pageAsid (vaOfLine line)
    let s := touchGranule s k pageAsid (granuleOf (vaOfLine line))
    let r := homeWrite s pageAsid line (writableBytes s pageAsid line bs)
    (updLaunch r.1 k fun l => { l with lastW := max l.lastW r.2 }, r.2)

/-- Restores a granule from its copy (R390): its lines leave every cache, and writes pending on it are dropped. The contributions that
update-only lines still carry are those of launches that are not rolled back, whose own have merged: they stay. -/
def restoreGranule (m : MemSys) (asid : BitVec 16) (e : Snap) : MemSys :=
  let rs := granuleRanges m asid e.gran
  let inside := fun (a : Nat) => rs.any fun r => decide (r.2 ≤ a ∧ a < r.2 + 4096)
  let mine := fun (x : BitVec 16) (line : Nat) => x == asid && line / 512 == e.gran
  let back := rs.flatMap fun r => (e.cells.filter fun c => c.1 / 4096 == r.1 / 4096).map fun c => (r.2 + (c.1 - r.1), c.2)
  let sick := rs.flatMap fun r => (e.sick.filter fun k => k / 128 == r.1 / 4096).map fun k => r.2 / 32 + (k - r.1 / 32)
  { m with
    phys := pokeBytes (rs.foldl (fun p r => cellsOut p r.2 (r.2 + 4096)) m.phys) back
    poison := (m.poison.filter fun k => !inside (32 * k)) ++ sick
    pend := m.pend.map fun w => { w with bytes := w.bytes.filter fun c => !inside c.1 }
    l1 := m.l1.filter fun c => !mine c.asid c.line
    cc := m.cc.filter fun c => !mine c.asid c.line }

/-- Restores the snapshots of launches, the newest copy first, so that the oldest of a granule stays (R390). -/
def restoreSnaps (m : MemSys) (ls : List Launch) : MemSys :=
  let all := ls.flatMap fun l => l.snap.map fun e => (l.rcd.asid, e)
  (sortBy (fun (x : BitVec 16 × Snap) => x.2.seq) all).reverse.foldl (fun m x => restoreGranule m x.1 x.2) m

end Sys2Proof.Machine
end

