-- ==== Sys2Proof/Machine/Reduce.lean ====
section
/-! DEFINITION. Update-only lines: reductions, their arithmetic and their merges (R122, R123). -/

namespace Sys2Proof.Machine

/-- A group's horizon takes in a completion time (R108, R111). -/
def noteW (s : State) (gid w : Nat) : State := updGroup s gid fun g => { g with ch := max g.ch w }

/-- The operations of `red` and `atf` (R238) on patterns of a type: the result, and FXO where an FX sum saturated (R123) or NV where an FP32
sum was invalid (R60). DEDUCED (log 208): R123 names no flag of an FP32 sum, so it sets no other. -/
def reduceOp (op : Nat) (t : Ty) (a b : Nat) : Nat × Flags :=
  let w := t.bits
  let x := intOf t a
  let y := intOf t b
  match op with
  | 0 => ((a + b) % 2 ^ w, 0)
  | 1 => (if x ≤ y then a % 2 ^ w else b % 2 ^ w, 0)
  | 2 => (if x < y then b % 2 ^ w else a % 2 ^ w, 0)
  | 3 => (a &&& b, 0)
  | 4 => (a ||| b, 0)
  | 5 => (a ^^^ b, 0)
  | 6 =>
    let (i, o) := fxAdd 128 (BitVec.ofNat 128 a).toInt (BitVec.ofNat 128 b).toInt
    (wrapInt 128 i, flagIf o fFXO)
  | _ =>
    let (v, f) := fmtF32.round .rne (Val.add .rne (fmtF32.value (a % 2 ^ 32)) (fmtF32.value (b % 2 ^ 32)))
    (v, f &&& fNV)

/-- The update-only lines that cores hold of a line. -/
def holdersOf (m : MemSys) (asid : BitVec 16) (line : Nat) : List ULine :=
  m.ulines.filter fun u => u.asid == asid && u.line == line

/-- Flags that a merge sets in a contributor: in those that it resumes with, too, if its gang has halted (R123, R328). -/
def setFlags (f : Flags) (g : Group) : Group :=
  { g with flags := g.flags ||| f, image := g.image.map fun i => { i with flags := i.flags ||| f } }

/-- Writes a holder's contribution at the home (R122, R123): each element combines with the latest value,
the line gets one W, which enters the CH of the contributors, and the flags of its combinations and of the merge are set in theirs. DESIGN
CHOICE (log 197): a merge raises no 0x28 or 0x29, whatever FTRAP enables. -/
def mergeAt (s : State) (u : ULine) (base : Nat) : State :=
  let n := u.ty.bits / 8
  let (bs, fl) := u.elems.foldl (fun (acc : List (Nat × Byte) × Flags) e =>
    let old := ofBytes (latestBytes s.mem (base + e.1) n)
    let (v, f) := reduceOp u.op.toNat u.ty old e.2.toNat
    (acc.1 ++ ((List.range n).zip (toBytes n v)).map fun c => (base + e.1 + c.1, c.2), acc.2 ||| f))
    ([], u.flags)
  let lids := u.gids.map fun g => (launchOfGroup s (findGroup s g)).id
  let s := lids.foldl (fun s k => touchGranule (snapGranule s k u.asid (vaOfLine u.line)) k u.asid
    (granuleOf (vaOfLine u.line))) s
  let (s, w) := launchWrite s lids.head? u.asid u.line bs
  u.gids.foldl (fun s g => updGroup (noteW s g w) g (setFlags fl)) s

/-- The contexts of a holder's contributors that the access table denies a write of the line (R386). -/
def deniedAsids (s : State) (u : ULine) (base : Nat) : List (BitVec 16) :=
  (u.gids.map fun g => (launchOfGroup s (findGroup s g)).rcd.asid).filter fun a => !physPermits s mkContext a base true

/-- A contribution that the access table denies is dropped: it is logged, and its groups raise 0x13 later (R386, R387; log 158). -/
def dropLine (s : State) (u : ULine) (base : Nat) : State :=
  let s := (deniedAsids s u base).take 1 |>.foldl (fun s a => logViolation s base mkContext a true) s
  u.gids.foldl (fun s g => updGroup s g fun x => { x with
    deferred := { x.deferred with c13 := x.deferred.c13 ++ u.elems.map fun e => vaOfLine u.line + e.1 } }) s

/-- Merges a holder's contribution at the home (R122, R123), unless it is denied there (R386). Where no bridges in service join the holder
to the home, or the home is clamped (R350), the contribution stays where it is (log 179). -/
def mergeLine (s : State) (u : ULine) : State :=
  if !reaches s u.core (homeBay (vaOfLine u.line)) then s
  else
  let keep := s.mem.ulines.filter fun x => !(x.core == u.core && x.asid == u.asid && x.line == u.line)
  let s := { s with mem := { s.mem with ulines := keep } }
  match translate s.mem u.asid (vaOfLine u.line) with
  | none => s
  | some p =>
    let base := physOf p (vaOfLine u.line)
    if (deniedAsids s u base).isEmpty then mergeAt s u base else dropLine s u base

/-- Recalls every holder of a line (R122). DESIGN CHOICE: their contributions arrive in the order of each holder's last `red`, which R122
leaves open (log 140). -/
def recallLine (s : State) (asid : BitVec 16) (line : Nat) : State :=
  (holdersOf s.mem asid line).foldl mergeLine s

/-- Merges every update-only line a group has contributed to (R122). -/
def mergeGroup (s : State) (gid : Nat) : State :=
  (s.mem.ulines.filter fun u => u.gids.contains gid).foldl mergeLine s

/-- Merges a core's update-only lines that meet a test. -/
def mergeCore (s : State) (p : ULine → Bool) : State := (s.mem.ulines.filter p).foldl mergeLine s

/-- A core's L1 that has taken an update-only line comes back to its size (R16, R122): its oldest line that is not pinned goes, or, if all
are pinned, its oldest update-only line merges (log 157). -/
def l1Fit (s : State) (core : Nat) : State :=
  let mine := s.mem.l1.filter fun c => c.unit == core
  if mine.length ≤ l1Room s.mem core then s
  else
    match mine.find? fun c => !anyPinned c s.gt with
    | some old => { s with mem := { s.mem with
        l1 := s.mem.l1.filter fun c => !(c.unit == core && c.asid == old.asid && c.line == old.line) } }
    | none => ((s.mem.ulines.filter fun u => u.core == core && reaches s core (homeBay (vaOfLine u.line))).take 1).foldl mergeLine s

/-- Puts a contribution into the core's update-only line, whose other elements hold the identity (R122).
A line held for another operation or type merges first (log 16). The core's copy of the line under a lease
is dropped, since loads of a line with holders go to the home (R109). DESIGN CHOICE: the identity of FP32 add is that which keeps the
other operand as it is, so the first value is stored unchanged and only elements that were reduced to are merged (log 140). -/
def reduceInto (s : State) (core gid : Nat) (asid : BitVec 16) (line off op : Nat) (t : Ty) (v : Nat) : State :=
  let mine := s.mem.ulines.find? fun u => u.core == core && u.asid == asid && u.line == line
  let s := match mine with
    | some u => if u.op.toNat = op ∧ u.ty = t then s else mergeLine s u
    | none => s
  let fresh : ULine :=
    { core := core, asid := asid, line := line, op := BitVec.ofNat 3 op, ty := t, elems := [], gids := []
      flags := 0 }
  let u := (s.mem.ulines.find? fun u => u.core == core && u.asid == asid && u.line == line).getD fresh
  let (v, f) := match u.elems.find? fun e => e.1 == off with
    | some e => reduceOp op t e.2.toNat v
    | none => (v % 2 ^ t.bits, 0)
  let u := { u with
    elems := assocSet u.elems off (BitVec.ofNat 128 v), gids := addOnce gid u.gids, flags := u.flags ||| f }
  let rest := s.mem.ulines.filter fun x => !(x.core == core && x.asid == asid && x.line == line)
  l1Fit { s with mem := { s.mem with
      ulines := rest ++ [u]
      l1 := s.mem.l1.filter fun c => !(c.unit == core && c.asid == asid && c.line == line && !anyPinned c s.gt) } } core

end Sys2Proof.Machine
end

