-- ==== Sys2Proof/Machine/Cache.lean ====
section
/-! DEFINITION. Leased lines, loads and stores of groups: L1, the cluster cache, the way to the home
(R86, R109 to R113, R122, R128). -/

namespace Sys2Proof.Machine

/-! ## Lines held in L1 and in the cluster cache -/

/-- Whether a sector of a held line is pinned now (R112). -/
def pinnedNow (c : CLine) (gt sector : Nat) : Bool :=
  c.pins.any fun p => p.sector == sector && (match p.till with | some w => gt < w | none => true)

/-- The byte a held line gives at an offset: its sector is pinned or its lease runs (R109, R112). -/
def heldByte (c : CLine) (gt off : Nat) : Option Byte :=
  if pinnedNow c gt (off / 32) || gt < c.le then (c.bytes.find? fun b => b.1 == off).map Prod.snd else none

/-- Replaces the line a unit holds. -/
def putLine (cs : List CLine) (c : CLine) : List CLine :=
  cs.filter (fun x => !(x.unit == c.unit && x.asid == c.asid && x.line == c.line)) ++ [c]

/-- A unit of a number of lines fills a line with a lease; bytes that a store wrote whose pin holds now keep their value (R112), and so
does the mark of a poisoned sector that is pinned (R405). -/
def fillLine (cs : List CLine) (gt unit : Nat) (asid : BitVec 16) (line le : Nat) (bs : List Byte) (room : Nat) :
    List CLine :=
  match makeRoom cs gt unit asid line room with
  | none => cs
  | some cs =>
    let old := heldLine cs unit asid line
    let keep := match old with
      | some c => c.bytes.filter fun b => c.pins.any fun p =>
          p.offs.contains b.1 && (match p.till with | some w => decide (gt < w) | none => true)
      | none => []
    let all := ((List.range bs.length).zip bs).filter fun b => !(keep.any fun k => k.1 == b.1)
    putLine cs { unit := unit, asid := asid, line := line, le := le, bytes := keep ++ all
                 pins := match old with | some c => c.pins | none => []
                 sick := match old with | some c => c.sick.filter (pinnedNow c gt) | none => [] }

/-- A unit of a number of lines takes a store into its line and pins the sectors until the store's W (R112). Bytes that the unit no longer
holds, since their lease is over, are gone (R109). Where a write that has its W meets bytes of a store that is still on its way to the home,
those keep the store's value, which comes later in coherence order (R113). A poisoned sector that is written whole is poisoned no more
(log 15). -/
def pinStore (cs : List CLine) (gt unit : Nat) (asid : BitVec 16) (line off : Nat) (bs : List Byte)
    (flight : Nat) (till : Option Nat) (room : Nat) : List CLine :=
  match makeRoom cs gt unit asid line room with
  | none => cs
  | some cs =>
    let c := (heldLine cs unit asid line).getD
      { unit := unit, asid := asid, line := line, le := 0, bytes := [], pins := [], sick := [] }
    let later := fun (o : Nat) => till.isSome && c.pins.any fun p => p.till.isNone && p.offs.contains o
    let new := ((List.range bs.length).zip bs).filter fun b => !later (off + b.1)
    let sectors := new.foldl (fun a b => addOnce ((off + b.1) / 32) a) []
    let live := c.bytes.filter fun b => (heldByte c gt b.1).isSome
    putLine cs { c with
      bytes := new.foldl (fun a b => assocSet a (off + b.1) b.2) live
      sick := c.sick.filter fun k => !(decide (off ≤ 32 * k) && decide (32 * k + 32 ≤ off + bs.length))
      pins := c.pins ++ sectors.map fun k =>
        { sector := k, offs := (new.map fun b => off + b.1).filter fun o => o / 32 == k, flight := flight, till := till } }

/-- The same for an evict-first store, which takes no new line there (R150). -/
def pinHint (keep : Bool) (cs : List CLine) (gt unit : Nat) (asid : BitVec 16) (line off : Nat) (bs : List Byte)
    (flight : Nat) (till : Option Nat) (room : Nat) : List CLine :=
  if keep || (heldLine cs unit asid line).isSome then pinStore cs gt unit asid line off bs flight till room else cs

/-- Whether a cluster has a cluster cache: a bank in cache role (R94). -/
def hasCache (s : State) (cluster : Nat) : Bool :=
  s.eng.banks.any fun b => b.cluster == cluster && b.role == .cache

/-- Whether a page's lines may be held under a lease (R86, R109). -/
def cacheable (p : Quad) : Bool := !pteL2Only p

/-- Bytes by offset as runs of consecutive ones: where each begins, and its bytes. -/
def runsOf (bs : List (Nat × Byte)) : List (Nat × List Byte) :=
  bs.foldr (fun b acc =>
    match acc with
    | (o, l) :: t => if b.1 + 1 = o then (b.1, b.2 :: l) :: t else (b.1, [b.2]) :: acc
    | [] => [(b.1, [b.2])]) []

/-- A core's L1 and its cluster's cache take a write of a page they may hold (R112), but for the bytes that are read-only (R4). Each takes a
new line for it only if its `keep` says so. -/
def pinUnits (s : State) (keepL1 keepCc : Bool) (core : Nat) (p : Quad) (va : Nat) (bs : List Byte) (flight : Nat)
    (till : Option Nat) : State :=
  if !cacheable p then s
  else
    let cl := clusterOf core
    let runs := runsOf (writableBytes s (pteAsid p) (lineOf va) (((List.range bs.length).zip bs).map fun b => (va % 128 + b.1, b.2)))
    let pin := fun (keep : Bool) (cs : List CLine) (u room : Nat) => runs.foldl (fun cs r =>
      pinHint keep cs s.gt u (pteAsid p) (lineOf va) r.1 r.2 flight till room) cs
    { s with mem := { s.mem with
      l1 := pin keepL1 s.mem.l1 core (l1Room s.mem core)
      cc := if hasCache s cl then pin keepCc s.mem.cc cl (ccRoom s.eng cl) else s.mem.cc } }

/-- The same where the write asks the same of both (R150). -/
def pinBoth (s : State) (keep : Bool) (core : Nat) (p : Quad) (va : Nat) (bs : List Byte) (flight : Nat) (till : Option Nat) :
    State :=
  pinUnits s keep keep core p va bs flight till

/-- The pins of a flight learn their W. -/
def settlePins (cs : List CLine) (flight w : Nat) : List CLine :=
  cs.map fun c => { c with
    pins := c.pins.map fun p => if p.flight == flight && p.till.isNone then { p with till := some w } else p }

/-- Drops the pins of a flight that failed, and the bytes of its sectors. -/
def dropPins (cs : List CLine) (flight : Nat) : List CLine :=
  cs.map fun c =>
    let bad := (c.pins.filter fun p => p.flight == flight).map fun p => p.sector
    { c with
      pins := c.pins.filter fun p => p.flight != flight
      bytes := c.bytes.filter fun b => !bad.contains (b.1 / 32) }

/-! ## Loads -/

/-- The 128 bytes of a line that are current at its home. -/
def homeBytes (s : State) (p : Quad) (line : Nat) : List Byte :=
  currentBytes s.mem (physOf p (vaOfLine line)) 128

/-- The home serves a core's read of a line at the present tick (R110): the line's bytes and, if it is not
empty, a lease that L1 and the cluster cache then hold. `lid` is the reader's launch. `keep` is false for evict-first accesses (R150). -/
def homeServe (s : State) (lid core : Nat) (p : Quad) (line : Nat) (keep : Bool) : State × List Byte :=
  let bs := homeBytes s p line
  let s := touchGranule s lid (pteAsid p) (granuleOf (vaOfLine line))
  if cacheable p && keep then
    match grantLease s.mem s.gt p line with
    | none => (s, bs)
    | some le =>
      let m := noteLease s.mem (pteAsid p) line le
      let cl := clusterOf core
      let cc := if hasCache s cl then fillLine m.cc s.gt cl (pteAsid p) line le bs (ccRoom s.eng cl) else m.cc
      let low := match heldLine cc cl (pteAsid p) line with
        | some c => (List.range 128).map fun i => (heldByte c s.gt i).getD (bs.getD i 0)
        | none => bs
      ({ s with mem := { m with cc := cc, l1 := fillLine m.l1 s.gt core (pteAsid p) line le low (l1Room m core) } }, low)
  else (s, bs)

/-- The bytes a unit gives for `n` bytes at an offset, `none` for each it does not hold now. -/
def heldBytes (cs : List CLine) (gt unit : Nat) (asid : BitVec 16) (line off n : Nat) : List (Option Byte) :=
  match heldLine cs unit asid line with
  | some c => (List.range n).map fun i => heldByte c gt (off + i)
  | none => List.replicate n none

/-- The bytes of the first list where it has them, else of the second. -/
def overlay (a : List (Option Byte)) (b : List Byte) : List Byte :=
  (a.zip b).map fun c => c.1.getD c.2

/-- A core reads bytes within one line of a page (R109, R110, R112, R122): from L1, then the cluster cache,
then the home; at the home if the page is L2-only or the line has holders, which are recalled, but for bytes that L1 or the cluster cache
has of a store (R113). -/
def coreRead (s : State) (core : Nat) (p : Quad) (va n : Nat) (keep : Bool) : State × List Byte :=
  let asid := pteAsid p
  let line := lineOf va
  let off := va % 128
  if !cacheable p then
    let (s, bs) := homeServe (recallLine s asid line) s.launch.id core p line false
    (s, (bs.drop off).take n)
  else if !(holdersOf s.mem asid line).isEmpty then
    let s := recallLine s asid line
    let (s, bs) := homeServe s s.launch.id core p line false
    (s, overlay (heldBytes s.mem.l1 s.gt core asid line off n)
      (overlay (heldBytes s.mem.cc s.gt (clusterOf core) asid line off n) ((bs.drop off).take n)))
  else
    let top := heldBytes s.mem.l1 s.gt core asid line off n
    if top.all Option.isSome then (s, top.map fun o => o.getD 0)
    else
      let cl := clusterOf core
      let mid := heldBytes s.mem.cc s.gt cl asid line off n
      if mid.all Option.isSome then
        let low := mid.map fun o => o.getD 0
        let s := match heldLine s.mem.cc cl asid line with
          | some c =>
            if keep && s.gt < c.le then
              let bs := (List.range 128).map fun i => heldByte c s.gt i
              if bs.all Option.isSome then
                { s with mem := { s.mem with
                  l1 := fillLine s.mem.l1 s.gt core asid line c.le (bs.map fun o => o.getD 0) (l1Room s.mem core) } }
              else s
            else s
          | none => s
        (s, overlay top low)
      else
        let (s, bs) := homeServe s s.launch.id core p line keep
        (s, overlay top (overlay mid ((bs.drop off).take n)))

/-- A load waits while a write of its own group to one of its bytes is on its way, or has a W that has not passed, and the core's L1 has
not taken it (R112, R113): the page is L2-only, the store was evict-first (R150), or it is a contribution that has merged (R122). A pending
write whose W is within the group's CH counts as its own. -/
def ownWriteBusy (s : State) (g : Group) (core : Nat) (p : Quad) (va n : Nat) : Bool :=
  let pins := match heldLine s.mem.l1 core (pteAsid p) (lineOf va) with | some c => c.pins | none => []
  let taken := fun (i : Nat) (q : Pin → Bool) => cacheable p && pins.any fun y => y.offs.contains (va % 128 + i) && q y
  (List.range n).any fun i =>
    (s.mem.flight.any fun f => f.gid == g.id && f.asid == pteAsid p && decide (f.va ≤ va + i) &&
      decide (va + i < f.va + f.bytes.length) && !taken i fun y => y.flight == f.id && y.till.isNone) ||
    s.mem.pend.any fun w => w.asid == pteAsid p && decide (w.w ≤ g.ch) && (w.bytes.any fun c => c.1 == physOf p va + i) &&
      !taken i fun y => y.till.all fun t => decide (w.w ≤ t)

/-- Whether bytes lie in a poisoned sector (R229). -/
def poisonedAt (m : MemSys) (a n : Nat) : Bool :=
  m.poison.any fun k => decide (a / 32 ≤ k) && decide (k ≤ (a + n - 1) / 32)

/-! ## Stores -/

/-- The destination of a far address: a peer, or the host (R82). -/
def farDest (va : Nat) : Option Nat := if placement va = 5 then some (peerOf va) else none

/-- The port by which a group's next write to a destination leaves; 16 stands for the control port. While writes are on their way on
its path the group keeps the port, if it is up (R333). -/
def portNow (s : State) (gid : Nat) (dest : Option Nat) : Nat :=
  match dest with
  | none => 16
  | some d =>
    match s.mem.flight.find? fun f => f.gid == gid && isFarVa f.va && farDest f.va == dest && (portsUp s).contains f.port with
    | some f => f.port
    | none => (pathPort s d).getD 0

/-- The port by which a group's next access to a far address leaves (R333). -/
def farPort (s : State) (gid va : Nat) : Nat := portNow s gid (farDest va)

/-- A group posts a write on its path to a destination, which is a port and a destination, and which its first use creates (R128, R333). A
path whose count reaches 2^20 has a token inserted by its port, which retires no fence (R130). -/
def notePost (s : State) (gid : Nat) (dest : Option Nat) : State :=
  let port := portNow s gid dest
  let old := ((findGroup s gid).paths.find? fun p => p.dest == dest && p.port == port).getD
    { dest := dest, port := port, posted := 0, sent := 0, passed := 0, failed := [], token := false, acked := false }
  let new := { old with posted := old.posted + 1 }
  let s := updGroup s gid fun g => { g with paths := g.paths.filter (fun p => !(p.dest == dest && p.port == port)) ++ [new] }
  if new.posted = 2 ^ 20 then
    { s with fab := { s.fab with tokens := s.fab.tokens ++
      [{ gid := gid, dest := dest, port := new.port, count := new.posted, upto := s.mem.nextFlight, atEnd := false
         auto := true }] } }
  else s

/-- A store leaves the core (R111, R112, R128): L1 and the cluster cache take it at once and pin its sectors if they may hold the page (log
63); an evict-first store (`keep` false) takes no new line there (R150); a store to a peer or the host is posted, and makes its launch
unrollable (R389). -/
def sendStore (s : State) (gid core : Nat) (asid : BitVec 16) (page : Option Quad) (va : Nat)
    (bs : List Byte) (red : Option (BitVec 3 × Ty)) (poison keep : Bool) : State :=
  let n := s.mem.nextFlight
  let f : Flight :=
    { id := n, gid := gid, core := core, asid := (match page with | some p => pteAsid p | none => asid)
      va := va, bytes := bs, red := red, poison := poison
      port := if page.isSome then 0 else portNow s gid (farDest va) }
  let m := { s.mem with flight := s.mem.flight ++ [f], nextFlight := n + 1 }
  match page with
  | none =>
    let l := launchOfGroup s (findGroup s gid)
    let s := notePost { s with mem := m } gid (farDest va)
    markUnroll (s.launches.length + 1) s l.id
  | some p => pinBoth { s with mem := m } keep core p va bs n none

/-- A group's posted write failed: it is held against its path (R132). -/
def failPosted (s : State) (gid : Nat) (dest : Option Nat) (port va : Nat) : State :=
  updGroup s gid fun g => { g with
    paths := updateWhere (fun p => p.dest == dest && p.port == port) (fun p => { p with passed := p.passed + 1, failed := p.failed ++ [va] }) g.paths }

/-- A group's posted write has been performed: its port counts it (R130). -/
def passPosted (s : State) (gid : Nat) (dest : Option Nat) (port : Nat) : State :=
  updGroup s gid fun g => { g with
    paths := updateWhere (fun p => p.dest == dest && p.port == port) (fun p => { p with passed := p.passed + 1 }) g.paths }

/-- A grant for a context's window page held at a port (R334). -/
def grantFor (s : State) (port : Nat) (asid : BitVec 16) (va : Nat) : Option Grant :=
  s.fab.grants.find? fun g => g.port == port && g.asid == asid && g.dev.toNat == peerOf va && g.page == va % 2 ^ 42 / (4096 * 4 ^ g.size)

/-- The cell of a peer's byte that a context's window address names, by the grant its port holds (R332, R334). -/
def peerCell (s : State) (port : Nat) (asid : BitVec 16) (va : Nat) : Nat :=
  match grantFor s port asid va with
  | some g => (g.dev.toNat * 2 ^ 16 + g.tasid.toNat) * 2 ^ 64 + (g.target.toNat + va % (4096 * 4 ^ g.size)) % 2 ^ 64
  | none => 0

/-- The cell of a byte of host memory that an address names for a context (R336). -/
def hostCell (s : State) (asid : BitVec 16) (va : Nat) : Nat :=
  (match hostRange s asid va with | some r => r.asid.toNat | none => 0) * 2 ^ 54 + va % 2 ^ 54

/-- The bytes that a far address names for a context, by the port its access leaves by (R128). -/
def farBytes (s : State) (port : Nat) (asid : BitVec 16) (va n : Nat) : List Byte :=
  if placement va = 5 then peekAll s.fab.peer (peerCell s port asid va) n else peekAll s.fab.host (hostCell s asid va) n

/-- Writes bytes at a far address of a context (R128). -/
def farPoke (s : State) (port : Nat) (asid : BitVec 16) (va : Nat) (bs : List Byte) : State :=
  if placement va = 5 then { s with fab := { s.fab with peer := pokeAll s.fab.peer (peerCell s port asid va) bs } }
  else { s with fab := { s.fab with host := pokeAll s.fab.host (hostCell s asid va) bs } }

/-- What a posted write leaves in cells of a peer's window or of the host: its bytes, or the result of its
reduction (R123, R128). -/
def farCells (m : Sparse 8) (k : Nat) (f : Flight) : Sparse 8 :=
  match f.red with
  | none => pokeAll m k f.bytes
  | some (op, t) =>
    let n := t.bits / 8
    pokeAll m k (toBytes n (reduceOp op.toNat t (ofBytes (peekAll m k n)) (ofBytes f.bytes)).1)

/-- The port of a far access carries, and messages of a core reach it (R331, R350, R416); 16 is the control port. -/
def portReached (s : State) (core port va : Nat) : Bool :=
  if placement va = 5 then portLive s port && reaches s core (port / 4) else hostUp s && reaches s core 0

/-- The destination's access table denies an access of a context to a window page (R334). -/
def destDenies (s : State) (asid : BitVec 16) (va : Nat) (write : Bool) : Bool :=
  placement va == 5 && s.fab.denied.contains (asid, va % 2 ^ 54 / 4096, write)

/-- A posted write reaches its peer or the host (R128, R132, R334 to R336), or fails and is not performed: its destination is not reached,
its port's access table or the destination's denies it (R385, R386), or no range of the host takes it. One whose port holds no grant waits
while the port asks for it. -/
def farArrive (s : State) (f : Flight) : State :=
  let t := { s with mem := { s.mem with flight := s.mem.flight.filter fun x => x.id != f.id } }
  let dest := farDest f.va
  let bad := fun (t : State) => failPosted t f.gid dest f.port f.va
  if !portReached s f.core f.port f.va || dest.any s.fab.unreachable.contains then bad t
  else if !farPermits s f.port mkContext f.asid f.va true then
    bad (logAt t (farTarget f.port f.va) (farOffset f.va) mkContext f.asid true)
  else if placement f.va = 5 then
    if (grantFor s f.port f.asid f.va).isNone then
      { s with fab := { s.fab with asked := s.fab.asked ++ [{ port := f.port, asid := f.asid, page := f.va % 2 ^ 54 / 4096, gids := [] }] } }
    else if destDenies s f.asid f.va true then bad t
    else passPosted { t with fab := { t.fab with peer := farCells t.fab.peer (peerCell s f.port f.asid f.va) f } } f.gid dest f.port
  else
    match hostRange s f.asid f.va with
    | some r =>
      if r.writable then
        passPosted { t with fab := { t.fab with host := farCells t.fab.host (hostCell s f.asid f.va) f } } f.gid none f.port
      else bad t
    | none => bad t

/-- A store reaches its home (R111): it gets its W, which the group's CH takes in and which ends its pins; a
store that the access table denies is dropped, and its group raises 0x13 later (R386). -/
def storeArrive (s : State) (f : Flight) : State :=
  if placement f.va = 5 ∨ placement f.va = 6 then farArrive s f
  else
    let drop := fun (s : State) => { s with mem := { s.mem with
      flight := s.mem.flight.filter (fun x => x.id != f.id)
      l1 := dropPins s.mem.l1 f.id, cc := dropPins s.mem.cc f.id } }
    match translate s.mem f.asid f.va with
    | none => drop s
    | some p =>
      let a := physOf p f.va
      let l := launchOfGroup s (findGroup s f.gid)
      if !physPermits s mkContext l.rcd.asid a true then
        let s := logViolation (drop s) a mkContext l.rcd.asid true
        updGroup s f.gid fun g => { g with deferred := { g.deferred with c13 := g.deferred.c13 ++ [f.va] } }
      else
        let (s, w) := launchWrite s (some l.id) (pteAsid p) (lineOf f.va)
          (((List.range f.bytes.length).zip f.bytes).map fun c => (a + c.1, c.2))
        let s := noteW s f.gid w
        { s with mem := { s.mem with
          poison := if f.poison && !recordByte s (pteAsid p) f.va then addOnce (a / 32) s.mem.poison else s.mem.poison
          flight := s.mem.flight.filter (fun x => x.id != f.id)
          l1 := settlePins s.mem.l1 f.id w, cc := settlePins s.mem.cc f.id w } }

/-- Two stores were taken by one cache in their order: they are of one core, or of one cluster whose cache may hold their line (R112). -/
def sameCache (s : State) (a b : Flight) : Bool :=
  a.core == b.core || (clusterOf a.core == clusterOf b.core && hasCache s (clusterOf a.core) &&
    (translate s.mem a.asid a.va).any cacheable)

/-- Whether a flight may arrive now: no earlier store to its line that the same L1 or cluster cache took before it is still on its way,
since loads have seen the two in that order (R112, R113, R331), and bridges in service join its bay to the home's (R416). A posted write that its port
still asks a grant for waits (R334). -/
def mayArrive (s : State) (f : Flight) : Bool :=
  !(s.mem.flight.any fun x => x.id < f.id && sameCache s x f && x.asid == f.asid && lineOf x.va == lineOf f.va) &&
    (isFarVa f.va || reaches s f.core (homeBay f.va)) &&
    !(placement f.va == 5 && s.fab.asked.any fun e => e.port == f.port && e.asid == f.asid && e.page == f.va % 2 ^ 54 / 4096)

/-! ## The side log (R92, R93, R134) -/

/-- Whether a group has entries for a page in its core's side log. -/
def sidePending (m : MemSys) (gid page : Nat) : Bool := m.side.any fun e => e.gid == gid && e.page == page

/-- Marks the sector of a byte of physical memory poisoned. -/
def poisonSector (s : State) (a : Nat) : State := { s with mem := { s.mem with poison := addOnce (a / 32) s.mem.poison } }

/-- Replays one entry at the home: its elements in order, each of which gets its W now (R92) and is taken by L1 and the cluster cache
as a store is (R112); poisoned data mark their sector (R402). An element that the page forbids is discarded (R398), and one that an
access table denies is dropped and logged (R386, R387). -/
def replayEntry (s : State) (e : SideEntry) : State :=
  let l := launchOfGroup s (findGroup s e.gid)
  let ag : Agent := { asid := e.asid, core := e.core, super := e.super, mkind := mkContext }
  e.elems.foldl (fun s el =>
    match seeAddr s ag el.1 true with
    | .page p =>
      match e.red with
      | none =>
        let a := physOf p el.1
        let (s, w) := launchWrite s (some l.id) (pteAsid p) (lineOf el.1)
          (((List.range el.2.length).zip el.2).map fun c => (a + c.1, c.2))
        let s := if e.sick.contains el.1 && !recordByte s (pteAsid p) el.1 then poisonSector s a else s
        pinBoth (noteW s e.gid w) e.keep e.core p el.1 el.2 0 (some w)
      | some (op, t) =>
        recallLine (reduceInto s e.core e.gid (pteAsid p) (lineOf el.1) (el.1 % 128) op.toNat t (ofBytes el.2)) (pteAsid p)
          (lineOf el.1)
    | .far => sendStore s e.gid e.core e.asid none el.1 el.2 e.red false e.keep
    | .bad 0x13 =>
      let s := match pageAttr s ag el.1 with | some (p, _, _) => logViolation s (physOf p el.1) mkContext l.rcd.asid true | none => s
      updGroup s e.gid fun g => { g with deferred := { g.deferred with c13 := g.deferred.c13 ++ [el.1] } }
    | _ => updGroup s e.gid fun g => { g with deferred := { g.deferred with c12 := g.deferred.c12 ++ [el.1] } }) s

/-- Replays, in log order, the entries of a page that is mapped now (R92), of cores whose messages reach its homes (R350); after a refusal
the group's later entries for the page are discarded with it (R398). -/
def replayPage (s : State) (asid : BitVec 16) (page : Nat) : State :=
  let due := fun (e : SideEntry) => e.page == page && (e.asid == asid || asid == 0) &&
    (isFarVa (vaOfPage page) || e.elems.all fun el => reaches s e.core (homeBay el.1))
  let mine := s.mem.side.filter due
  let s := { s with mem := { s.mem with side := s.mem.side.filter fun e => !due e } }
  (mine.foldl (fun (acc : State × List Nat) e =>
    if acc.2.contains e.gid then
      (updGroup acc.1 e.gid fun g => { g with
        deferred := { g.deferred with c12 := g.deferred.c12 ++ e.elems.map Prod.fst } }, acc.2)
    else
      let before := (findGroup acc.1 e.gid).deferred.c12.length
      let s := replayEntry acc.1 e
      if before < (findGroup s e.gid).deferred.c12.length then (s, e.gid :: acc.2) else (s, acc.2))
    (s, [])).1

/-- Discards a page's entries, where the MP's answer comes to their core (R350): their groups raise a cause later, over the addresses
discarded (R93, R106). -/
def discardPage (s : State) (asid : BitVec 16) (page : Nat) (block : Bool) : State :=
  let told := fun (e : SideEntry) => e.page == page && (e.asid == asid || asid == 0) && mpReaches s e.core
  let mine := s.mem.side.filter told
  let s := { s with mem := { s.mem with side := s.mem.side.filter fun e => !told e } }
  mine.foldl (fun s e => updGroup s e.gid fun g =>
    let l := e.elems.map Prod.fst
    if block then { g with deferred := { g.deferred with c18 := g.deferred.c18 ++ l } }
    else { g with deferred := { g.deferred with c11 := g.deferred.c11 ++ l } }) s

end Sys2Proof.Machine
end

