-- ==== Sys2Proof/Machine/Ops.lean ====
section
/-! DEFINITION. The named operations on registers, latches and masks, taking a trap and returning from it,
what is checked when an instruction issues, and how a meaning ends. -/

namespace Sys2Proof.Machine

/-! ## Registers (R39, R40, R229) -/

/-- Scalar register n. -/
def getS (s : State) (n : Nat) : Word := peek s.g.sregs n
/-- The pair at n, low word first. -/
def getPair (s : State) (n : Nat) : DWord := getS s (n + 1) ++ getS s n
/-- Writes scalar register n, which clears its poison mark (R229). -/
def setS (s : State) (n : Nat) (v : Word) : State :=
  { s with g := { s.g with
      sregs := poke s.g.sregs n v, poison := s.g.poison.filter fun p => p.1 != 8192 + n } }
/-- Writes the pair at n. -/
def setPair (s : State) (n : Nat) (v : DWord) : State := setS (setS s n (v.setWidth 32)) (n + 1) ((v >>> 32).setWidth 32)
/-- Writes scalar registers from n on. -/
def setBlock (s : State) (n : Nat) : List Word → State
  | [] => s
  | v :: t => setBlock (setS s n v) (n + 1) t

/-- Vector register r in lane l. -/
def getV (s : State) (r l : Nat) : Word := peek s.g.vregs (32 * r + l)
/-- `k` registers from r on in one lane as one number, low word first. -/
def getVs (s : State) (r k l : Nat) : Nat := ofWords ((List.range k).map fun i => getV s (r + i) l)
/-- Writes vector register r in lane l, which clears its poison mark (R229). -/
def setV (s : State) (r l : Nat) (v : Word) : State :=
  { s with g := { s.g with
      vregs := poke s.g.vregs (32 * r + l) v, poison := s.g.poison.filter fun p => p.1 != 32 * r + l } }
/-- Writes words into the registers from r on in one lane. -/
def setVs (s : State) (r l : Nat) : List Word → State
  | [] => s
  | v :: t => setVs (setV s r l v) (r + 1) l t

/-- Writes a latch lane. -/
def setLatch (s : State) (k l : Nat) (v : Quad) : State :=
  { s with g := { s.g with latches := poke s.g.latches (32 * k + l) v } }

/-- Marks a latch as written by a vector instruction or by a scalar one. -/
def latchKind (s : State) (k : Nat) (vec : Bool) : State :=
  { s with g := { s.g with
      latchVec := if vec then addOnce k s.g.latchVec else s.g.latchVec.filter (· != k) } }

/-- A scalar result stands in every lane of a latch (R166). -/
def latchScalars (s : State) (k : Nat) (v : Quad) : State :=
  (List.range 32).foldl (fun t l => setLatch t k l v) (latchKind s k false)

/-- A group's latch chain is open: nothing but its instructions writes its latches (R52). -/
def chainOpen (s : State) (gid : Nat) : Bool := (splitsOf s gid).any fun p => p.chain.isSome

/-- A scalar result that comes after its instruction has issued goes to L0 of its group too (R50), unless a chain is open there, whose
latches it may not reach (R52; log 159). -/
def latchLate (s : State) (gid : Nat) (v : Quad) : State :=
  if chainOpen s gid then s
  else updGroup s gid fun g => { g with
    latches := (List.range 32).foldl (fun m l => poke m l v) g.latches, latchVec := g.latchVec.filter (· != 0) }

/-- The same for a lane of a vector result. -/
def latchLane (s : State) (gid l : Nat) (v : Quad) : State :=
  if chainOpen s gid then s
  else updGroup s gid fun g => { g with latches := poke g.latches l v, latchVec := addOnce 0 g.latchVec }

/-- A scalar result of an instruction that never stands in a latch chain: it goes to L0 too (R50). -/
def resultS (s : State) (n : Nat) (v : Word) : State := setS (latchScalars s 0 (v.setWidth 128)) n v
/-- The same for a pair. -/
def resultPair (s : State) (n : Nat) (v : DWord) : State := setPair (latchScalars s 0 (v.setWidth 128)) n v
/-- The same for registers from n on; the latch takes the first four words (log 31). -/
def resultBlock (s : State) (n : Nat) (vs : List Word) : State :=
  setBlock (latchScalars s 0 (BitVec.ofNat 128 (ofWords (vs.take 4)))) n vs

/-- Mask register m; m0 is the launched lanes (R36). -/
def getM (s : State) (m : Nat) : Word := if m = 0 then s.g.launched else peek s.g.masks m
/-- Writes mask register m in the lanes of a mask; a write that names m0 is ignored (R49). -/
def setM (s : State) (m : Nat) (lanes v : Word) : State :=
  if m = 0 then s
  else { s with g := { s.g with masks := poke s.g.masks m ((v &&& lanes) ||| (peek s.g.masks m &&& ~~~lanes)) } }

/-- The lanes of the execution mask, in rising order. -/
def activeLanes (s : State) : List Nat := lanesOf s.exec

/-- ORs flags into FLAGS (R77). -/
def orFlags (s : State) (f : Flags) : State := { s with g := { s.g with flags := s.g.flags ||| f } }

/-- Marks a register lane poisoned, with the address the data came from (R229). -/
def markPoison (s : State) (cell : Nat) (va : Nat) : State :=
  { s with g := { s.g with poison := s.g.poison ++ [(cell, BitVec.ofNat 64 va)] } }

/-- The value a free value is drawn with, and the counter advanced (log 2). -/
def drawFresh (s : State) : State × Nat := ({ s with fresh := s.fresh + 1 }, s.fresh)

/-! ## Scalar sources that issue looks at (R145, R146, R166) -/

/-- The value of a special source (R146). -/
def specialValue (s : State) (x : Special) (lane : Nat) : Nat :=
  match x with
  | .lane => lane
  | .group => s.g.idx
  | .member => s.tm.member
  | .width => Config.width
  | .gang => s.gang.index % 2 ^ 32

/-- A latch read as a scalar (R166; log 9). -/
def latchScalar (s : State) (k : Nat) : DWord :=
  if s.g.latchVec.contains k then Config.scalarOfVectorLatch s.fresh else (peek s.g.latches (32 * k)).setWidth 64

/-- A 32-bit scalar source. -/
def scalar32 (s : State) (x : Args) (f : Src) : Word :=
  match f with
  | .reg n => getS s n.toNat
  | .bcast n => getS s n.toNat
  | .latch k => (latchScalar s k.toNat).setWidth 32
  | .imm n => n.signExtend 32
  | .lit => x.literal
  | .special v => BitVec.ofNat 32 (specialValue s v 0)

/-! ## How a meaning ends -/

/-- A cause with what TADDR and TLANES hold (R192, R393). -/
structure Trap where
  cause : BitVec 8
  addr : DWord
  lanes : Word
  deriving DecidableEq, Repr

/-- How a meaning ends: completed, and the split goes on at the next instruction (`done`) or where the
meaning has put its PC (`jump`); a trap; or not now, so that the instruction issues again later (`wait`). -/
inductive Res where
  | done (s : State)
  | jump (s : State)
  | raise (t : Trap) (s : State)
  | wait (w : Wait) (s : State)
  deriving DecidableEq, Repr

/-- The address of the instruction after one at the split's PC (R137). -/
def nextPc (i : Shape) (s : State) : DWord := s.sp.pc + BitVec.ofNat 64 i.length

/-! ## Ending a context or a launch (R54, R390, R394) -/

/-- Whether a group belongs to a context. -/
def groupIn (s : State) (asid : BitVec 16) (g : Group) : Bool := (launchOfGroup s g).rcd.asid == asid && g.id != 0

/-- The termination of a context begins: its queues close, its groups stop, its side-log entries go (R394 steps 1 to
3). -/
def startTerminate (s : State) (asid : BitVec 16) (code : BitVec 8) : State :=
  let s1 := updCtx s asid fun c => if c.closing.isSome then c else { c with closing := some code }
  let s2 := { s1 with
    sched := { s1.sched with
      queues := updateWhere (fun q => q.asid == some asid) (fun q => { q with opened := false, entries := [] })
        s1.sched.queues }
    mem := { s1.mem with side := s1.mem.side.filter fun e => e.asid != asid } }
  updGroups s2 (fun g => groupIn s asid g) fun g => { g with halted := true }

/-- The launches entangled with some, however far (R389). -/
def tangledWith (fuel : Nat) (s : State) (ids : List Nat) : List Nat :=
  match fuel with
  | 0 => ids
  | f + 1 => tangledWith f s ((ids.flatMap fun k => (findLaunch s k).tangled).foldl (fun l k => addOnce k l) ids)

/-- A launch that is to be rolled back, with every launch it is entangled with: their groups stop (R390). -/
def startRollback (s : State) (lid : Nat) : State :=
  let ids := tangledWith s.launches.length s [lid]
  let s1 := { s with launches := updateWhere (fun l => ids.contains l.id) (fun l => { l with rollback := true }) s.launches }
  updGroups s1 (fun g => g.id != 0 && ids.contains (launchOfGroup s g).id) fun g => { g with halted := true }

/-! ## Traps (R191 to R193, R376, R377, R393) -/

/-- Causes whose trap writes no record (R376). -/
def unrecorded (c : BitVec 8) : Bool := c == 0x0A || c == 0x0B || c == 0x28 || c == 0x29 || c == 0x38
/-- Causes that roll a REPLAY launch back and enter no handler (R376). -/
def rollsBack (c : BitVec 8) : Bool := c == 0x15 || c == 0x30 || c == 0x31

/-- What the handler of a cause does with the group (R393): the context is terminated, the group is held for a debugger, the launch is
killed, the group is saved. -/
inductive Disposition where
  | terminate | hold | kill | save
  deriving DecidableEq, Repr

/-- The disposition of a cause (R393). -/
def disposition (c : BitVec 8) : Disposition :=
  if c == 0x0A || c == 0x0B then .hold else if rollsBack c then .kill else if c == 0x38 then .save else .terminate

/-- The fields of the TRAP record of a cause raised by the split in focus (R377, R378). -/
def trapRcd (s : State) (t : Trap) (tpc : DWord) (inh : Bool) : Rcd :=
  { groupRcd s s.g (Rcd.blank 0x01) with
    cause := t.cause, inh := inh, split := s.sp.num, pc := tpc, addr := t.addr, lanes := t.lanes }

/-- The TRAP record of a cause raised by the split in focus (R377, R378): the group goes no further, and its launch and context do not
end, before the record is performed. -/
def trapRecord (s : State) (t : Trap) (tpc : DWord) (inh : Bool) : State :=
  let a := recordAt s (trapRcd s t tpc inh)
  { a.1 with g := { a.1.g with recTill := max a.1.g.recTill a.2 } }

/-- A context's termination is due (R393). -/
def dueEnd (s : State) (asid : BitVec 16) : State := updCtx s asid fun c => { c with due := true }

/-- The disposition of a cause whose handler the group in focus has entered is due (R393, R396; log 12): the end of its context, the kill of
its launch, or, under a debugger, the hold, of which the debugger hears. -/
def dispose (s : State) (t : Trap) (tpc : DWord) : State :=
  match disposition t.cause with
  | .terminate => dueEnd s s.asid
  | .kill => updLaunch s s.launch.id fun l => { l with due := true }
  | .hold =>
    if (findCtx s s.asid).any fun c => c.debugger then ctlSend s (rcdWords s (trapRcd s t tpc false)) else dueEnd s s.asid
  | .save => s

/-- The handler's entry (R192): the trap registers, the shadow, supervisor mode, TVEC. -/
def enterHandler (s : State) (t : Trap) (tpc : DWord) (chain : Bool) : State :=
  { s with
    g := { s.g with
      entry := t.cause, tcause := BitVec.ofBool chain ++ t.cause, tpc := tpc, taddr := t.addr, tlanes := t.lanes
      tpmode := s.sp.super, tsplit := BitVec.ofNat 2 s.sp.num, tpcw := false, inHandler := true
      shadow := some { mask := s.sp.mask, pred := s.sp.pred, recon := s.sp.recon, fmt := s.sp.fmt
                       rnd := s.sp.rnd, arrival := s.sp.arrival, request := s.sp.request } }
    sp := { s.sp with
      mask := s.g.launched &&& ~~~s.g.exited, pred := [0xFFFFFFFF], recon := [], fmt := 0, rnd := 0
      super := true, pc := s.dev.tvec, chain := none, wait := none, parked := none, arrival := none
      request := none } }

/-- Takes a trap with a cause at the split in focus (R192). A fault inside a handler is recorded and ends
the context (R54, R377); a rollback cause under REPLAY is recorded and enters no handler (R376, R390).
`next` is the address after the instruction, which TPC holds for 0x0A and 0x0B. -/
def takeTrap (s : State) (t : Trap) (chain : Bool) (next : DWord) : State :=
  let start := match s.sp.chain with | some c => c.start | none => s.sp.pc
  let tpc := if t.cause = 0x0A ∨ t.cause = 0x0B then next else start
  if s.g.inHandler then
    startTerminate (trapRecord s t tpc true) s.asid 1
  else if rollsBack t.cause && !s.launch.rcd.report then
    startRollback (trapRecord s t tpc false) s.launch.id
  else
    let s := if unrecorded t.cause then s else trapRecord s t tpc false
    enterHandler (dispose s t tpc) t tpc chain

/-- The return from a handler (R193): the shadow comes back without the lanes that exited meanwhile (R55). Where there is no
shadow, since no trap has been taken, the split keeps its masks and formats and goes to TPC in the mode of TSAVE (log 139). -/
def leaveHandler (s : State) : State :=
  match s.g.shadow with
  | none =>
    { s with
      g := { s.g with inHandler := false, entry := 0 }
      sp := { s.sp with super := s.g.tpmode, pc := s.g.tpc, chain := none, wait := none } }
  | some h =>
    let live := ~~~s.g.exited
    { s with
      g := { s.g with inHandler := false, entry := 0, shadow := none }
      sp := { s.sp with
        mask := h.mask &&& live, pred := h.pred.map (· &&& live), recon := h.recon, fmt := h.fmt, rnd := h.rnd
        super := s.g.tpmode, pc := s.g.tpc, chain := none, wait := none
        arrival := if s.g.tpcw then none else h.arrival, request := if s.g.tpcw then none else h.request } }

/-! ## What an instruction names (R145, R196, R225) -/

/-- The registers, latches and modes an instruction's fields name: ranges of vector registers read and
written, scalar registers read and written, latches read. -/
structure Use where
  vread : List (Nat × Nat)
  vwrite : List (Nat × Nat)
  sread : List Nat
  swrite : List Nat
  latches : List Nat
  deriving DecidableEq, Repr

/-- Names nothing. -/
def Use.nothing : Use := { vread := [], vwrite := [], sread := [], swrite := [], latches := [] }

/-- 32-bit registers a type takes. -/
def Ty.regs (t : Ty) : Nat := if t.bits ≤ 32 then 1 else t.bits / 32

/-- The vector registers a field of a role names, 0 for a role that is not a vector one. -/
def roleVregs (x : Args) : Role → Nat
  | .v | .vNoSup => Ty.regs x.ty
  | .v32 | .vreg => 1
  | .v64 | .veven => 2
  | .q | .qNoSup => 4
  | .vSrc => Ty.regs (Ty.ofCode (x.fn.setWidth 4))
  | _ => 0

/-- The scalar registers a plain register number stands for in a role. -/
def roleSregs (x : Args) : Role → Nat
  | .s | .ds | .sd | .sdNoSup | .sreg | .sAny => 1
  | .ds64 | .s64 | .pair => 2
  | .sTy | .sdTy => Ty.regs x.ty
  | .sd4 => 4
  | .triple => 3
  | .block k _ => k
  | .anc => if x.fn.getLsbD 5 then 1 else 0
  | .ofillC => if x.fn.getLsbD 2 then 1 else 0
  | .pairOrS => if x.fn.getLsbD 0 then 1 else 2
  | .hsetA => if hsetWide x.fn.toNat then 2 else 1
  | _ => 0

/-- What a source field adds. The base register of `vrd` is named and not read (R219). -/
def useSrc (x : Args) (u : Use) (r : Role) (f : Src) : Use :=
  match f with
  | .reg n =>
    let v := roleVregs x r
    if r = .vreg then { u with vwrite := u.vwrite ++ [(n.toNat, 1)] }
    else if v ≠ 0 then { u with vread := u.vread ++ [(n.toNat, v)] }
    else { u with sread := u.sread ++ (List.range (roleSregs x r)).map (n.toNat + ·) }
  | .bcast n =>
    let k := if roleVregs x r ≠ 0 then roleVregs x r else roleSregs x r
    { u with sread := u.sread ++ (List.range k).map (n.toNat + ·) }
  | .latch k => { u with latches := u.latches ++ [k.toNat] }
  | _ => u

/-- What the destination field adds. -/
def useDest (x : Args) (u : Use) (r : Role) : Use :=
  if x.sup then u
  else
    let v := roleVregs x r
    if v ≠ 0 then { u with vwrite := u.vwrite ++ [(x.d.toNat, v)] }
    else { u with swrite := u.swrite ++ (List.range (roleSregs x r)).map (x.d.toNat + ·) }

/-- Instructions that read their destination too (R167, R170, R199, R212, R239): `ssel`, `sbfi`, `loop`, `vbfi`,
`cvt` that inserts, `fxacc`, `atx.cas`, `isdot` (R291). -/
def readsDest (op fn : Nat) : Bool :=
  op == 0x16 || op == 0x1C || op == 0x27 || op == 0x52 || (op == 0x70 && 16 ≤ fn) || op == 0x6C ||
    (op == 0x8A && fn % 32 == 0) || op == 0xC1

/-- The second register of a 64-bit special register's pair (R181), of `sget` and `sput`. DESIGN CHOICE: of a pair selected for broadcast by
`sput` the odd register is not named (log 188). -/
def useSpecial (op : Nat) (x : Args) (u : Use) : Use :=
  if specialBits x.literal.toNat != 64 then u
  else if op = 0x34 then (if x.sup then u else { u with swrite := u.swrite ++ [x.d.toNat + 1] })
  else if op = 0x35 then
    match x.a with
    | .reg n => { u with sread := u.sread ++ [n.toNat + 1] }
    | _ => u
  else u

/-- The number a register field names, or its immediate. -/
def srcNumber (f : Src) : Nat :=
  match f with
  | .reg n => n.toNat
  | .imm n => n.toNat
  | _ => 0

/-- Fields that mean more or less than their role: `rng` writes fn6 + 1 registers of its quad (R223); the block
of `tld` and `tst` names vector registers, of which the first is read whatever the handle's rank (R236), and no scalar one; the status of
`fpop.try` is written (R245). -/
def useExtra (op : Nat) (x : Args) (u : Use) : Use :=
  if op = 0x7B then (if x.sup then u else { u with vwrite := [(x.d.toNat, x.fn.toNat + 1)] })
  else if op = 0x86 ∨ op = 0x87 then { u with
    sread := (match x.b with | .reg n => u.sread.erase n.toNat | _ => u.sread), vread := u.vread ++ [((srcNumber x.b), 1)] }
  else if op = 0x96 ∧ x.fn = 1 then
    match x.c with
    | .reg n => { u with sread := u.sread.filter (· != n.toNat), swrite := u.swrite ++ [n.toNat] }
    | _ => u
  else u

/-- What an instruction's fields name. -/
def useOf (i : Shape) : Use :=
  match i with
  | .event => Use.nothing
  | .brv _ _ => Use.nothing
  | .formA op _ _ one pairs x =>
    let k := if pairs then 2 else 1
    let regs := fun (n : BitVec 6) => (List.range k).map (n.toNat + ·)
    { Use.nothing with
      sread := regs x.a ++ (if one then [] else regs x.b) ++ (if op = 0x16 ∨ op = 0x1C then regs x.d else [])
      swrite := regs x.d }
  | .bc r x =>
    let u := useSrc x (useSrc x (useSrc x Use.nothing r.a x.a) r.b x.b) r.c x.c
    let u := useDest x u r.d
    let u := useExtra r.op.toNat x (useSpecial r.op.toNat x u)
    if readsDest r.op.toNat x.fn.toNat then { u with vread := u.vread ++ u.vwrite, sread := u.sread ++ u.swrite } else u

/-- Whether an instruction's d9 sets write-back suppress (R50). -/
def suppresses (i : Shape) : Bool :=
  match i with
  | .bc _ x => x.sup
  | _ => false

/-- The opcode. -/
def opcodeOf (i : Shape) : Nat :=
  match i with
  | .formA op _ _ _ _ _ => op.toNat
  | .bc r _ => r.op.toNat
  | .brv _ _ => 0x22
  | .event => 0x100

/-- Whether an instruction may stand in a latch chain (R51): Form C scalar, 0x40 to 0x6F, `cvt`, `lcvt`. -/
def chainable (i : Shape) : Bool :=
  match i with
  | .bc r _ =>
    let n := r.op.toNat
    n < 0x20 || (0x40 ≤ n && n < 0x70) || n == 0x70 || n == 0x73
  | _ => false

/-- The special registers that only the supervisor reaches (R181). -/
def specialSuper (n : Nat) : Bool := 0x20 ≤ n && n ≤ 0x25

/-- Whether an instruction needs supervisor mode whatever its operands hold (R53, R181, R189, R190, R193). -/
def privileged (i : Shape) : Bool :=
  match i with
  | .bc r x =>
    let op := r.op.toNat
    op == 0x31 || op == 0x3E || op == 0x3B || op == 0x3C ||
      ((op == 0x34 || op == 0x35) && specialSuper x.literal.toNat)
  | _ => false

/-- The context a purge names is the issuer's own; ASID 0 never is (R189). -/
def ownAsid (s : State) (v : Word) : Bool := v == s.asid.setWidth 32 && s.asid != 0

/-- The position of an instruction in its latch chain (R50). -/
def chainPos (s : State) : Nat := match s.sp.chain with | some c => c.pos | none => 0

/-- A `cmaint.purge` or `.purgeasid` names another context, by the operand's value at issue (R189). A latch that is not written has no value:
the latch rules stop such an operand. -/
def purgesOther (i : Shape) (s : State) : Bool :=
  match i with
  | .bc r x => r.op.toNat == 0x3D && (r.fn 2 || r.fn 3) && !ownAsid s (scalar32 s x x.c) &&
      (match x.c with | .latch k => decide (k.toNat < chainPos s) | _ => true)
  | _ => false

/-- A `sput` of TVEC, which no mode may do (R181). -/
def putsTvec (i : Shape) : Bool :=
  match i with
  | .bc r x => r.op.toNat == 0x35 && x.literal.toNat == 0x20
  | _ => false

/-- Check 8 of R153 fails: the split is in user mode and needs supervisor mode, or no mode would do. -/
def lacksPrivilege (i : Shape) (s : State) : Bool :=
  putsTvec i || (!s.sp.super && (privileged i || purgesOther i s))

/-- Whether an instruction computes in FP64 and so is absent on profile N (R60). -/
def needsF64 (i : Shape) : Bool :=
  match i with
  | .bc r x => (0x40 ≤ r.op.toNat && r.op.toNat < 0x80) &&
      (x.ty == .f64 || (r.op.toNat == 0x70 && x.fn.toNat % 16 == 14))
  | _ => false

/-- The device is built in profile N (R26). -/
def profileN (s : State) : Bool := s.dev.cap0.extractLsb' 8 4 == 2

/-- Instructions that store vector data, which inside the save handler do not raise 0x15 (R402). -/
def storesData (i : Shape) : Bool :=
  [0x81, 0x83, 0x85, 0x87, 0x89, 0x90].contains (opcodeOf i)

/-! ## Issue (R153, R229, R318) -/

/-- The first unit of an instruction, zero-extended: what TADDR holds for an encoding cause (R393). -/
def firstUnit (i : Shape) : DWord := (i.units.headD 0).setWidth 64

/-- The latch rules of R51, at the split in focus. -/
def latchFault (i : Shape) (s : State) : Bool :=
  let pos := chainPos s
  (s.sp.chain.isSome && !chainable i) || (suppresses i && !chainable i) || (suppresses i && pos ≥ 3) ||
    (useOf i).latches.any fun k => pos ≤ k

/-- Instructions that read key lanes of their own choice, whatever the execution mask (R300); they look for poison
themselves. -/
def readsKeyLanes (i : Shape) : Bool := 0xC7 ≤ opcodeOf i && opcodeOf i ≤ 0xC9

/-- Vector instructions and commands, which an empty execution mask leaves without any effect beyond their encoding checks
(R198, R227, R267, R431). -/
def underMask (i : Shape) : Bool :=
  let n := opcodeOf i
  (0x40 ≤ n && n < 0x80) || (0x82 ≤ n && n < 0x8E) || n == 0x95 || n == 0x96 || (0xA0 ≤ n && n < 0xAC) ||
    (0xB0 ≤ n && n < 0xBB && n != 0xB9) || (0xC0 ≤ n && n < 0xC5) || n == 0xC6

/-- Instructions whose operands choose vector registers beyond those they name (R219, R236). -/
def choosesRegs (i : Shape) : Bool :=
  let n := opcodeOf i
  n == 0x86 || n == 0x87 || n == 0x7E || n == 0x7F

/-- A load of a group that is performed later has yet to write a register that an instruction names (R114, R318). -/
def lateRegOf (i : Shape) (g : Group) : Bool :=
  let u := useOf i
  g.late.any fun y => y.data.isEmpty &&
    if y.scalar then (List.range (Ty.regs y.ty)).any fun k => (u.sread ++ u.swrite).contains (y.dest + k)
    else choosesRegs i || (u.vread ++ u.vwrite).any fun r => decide (r.1 < y.dest + Ty.regs y.ty) && decide (y.dest < r.1 + r.2)

/-- The same for the group in focus. -/
def lateReg (i : Shape) (s : State) : Bool := lateRegOf i s.g

/-- What a store names but for the data it stores: its addresses (R226, R236). -/
def useAddress (i : Shape) : Use :=
  match i with
  | .bc r x => useExtra r.op.toNat x (useSrc x (useSrc x Use.nothing r.a x.a) r.b x.b)
  | _ => Use.nothing

/-- What an instruction reads whose poison stops it (R229): in the save handler a store of a poisoned lane writes it, and only its
addresses are looked at (R402). -/
def usePoison (i : Shape) (s : State) : Use :=
  if storesData i && s.g.inHandler && s.g.entry == 0x38 then useAddress i else useOf i

/-- The poisoned register lanes an instruction reads (R229): cells of the register file. An instruction under an empty
execution mask reads none (R198, R227). -/
def poisonedReads (i : Shape) (s : State) : List (Nat × DWord) :=
  let u := usePoison i s
  s.g.poison.filter fun p =>
    if p.1 < 8192 then
      !readsKeyLanes i && u.vread.any (fun r => r.1 ≤ p.1 / 32 && p.1 / 32 < r.1 + r.2) && s.exec.getLsbD (p.1 % 32)
    else u.sread.contains (p.1 - 8192) && !(underMask i && s.exec == 0)

/-- The trap of 0x15 over poisoned cells: the lanes, and the lowest address the data came from (R393). -/
def poisonTrap (s : State) (l : List (Nat × DWord)) : Trap :=
  { cause := 0x15
    addr := l.foldl (fun a p => if p.2.toNat < a.toNat then p.2 else a) ((l.map Prod.snd).headD 0)
    lanes := if l.all fun p => 8192 ≤ p.1 then s.exec else maskOf fun k => l.any fun p => p.1 < 8192 && p.1 % 32 == k }

/-- What issue finds. -/
inductive Issue where
  | go
  | stop (t : Trap)
  | hold (w : Wait)
  deriving DecidableEq, Repr

/-- The checks made at issue before an instruction acts (R153 orders 7 to 10, R229, R318): registers that an
engine or a load still has to write hold it; a vector register at or above the allocation raises 0x02; then privilege,
profile, latch rules, poison. -/
def issueCheck (i : Shape) (s : State) : Issue :=
  let u := useOf i
  if (u.sread ++ u.swrite).any (fun n => s.g.pending.contains n) || lateReg i s then .hold .register
  else if (u.vread ++ u.vwrite).any fun r => s.g.nv < r.1 + r.2 then
    .stop { cause := 0x02, addr := firstUnit i, lanes := s.exec }
  else if lacksPrivilege i s then .stop { cause := 0x04, addr := firstUnit i, lanes := s.exec }
  else if needsF64 i && profileN s then .stop { cause := 0x05, addr := firstUnit i, lanes := s.exec }
  else if latchFault i s then .stop { cause := 0x06, addr := s.sp.pc, lanes := s.exec }
  else if !(poisonedReads i s).isEmpty then
    .stop (poisonTrap s (poisonedReads i s))
  else .go

/-- The latch chain after an instruction has completed (R50). -/
def chainAfter (i : Shape) (s : State) : Option Chain :=
  if suppresses i then
    match s.sp.chain with
    | some c => some { c with pos := c.pos + 1 }
    | none => some { start := s.sp.pc, pos := 1 }
  else none

/-- An instruction completes: the split goes to `pc` and waits for nothing. -/
def complete (i : Shape) (s0 s : State) (pc : DWord) : State :=
  { s with sp := { s.sp with pc := pc, chain := chainAfter i s0, wait := none, since := s.gt } }

/-- An instruction does not complete now: the split waits and issues it again (R318, R326). -/
def park (w : Wait) (s : State) : State :=
  { s with sp := { s.sp with wait := some w, since := if s.sp.wait = some w then s.sp.since else s.gt } }

/-- Runs a meaning as an instruction of the split in focus: the checks of issue, the meaning, and what
follows from how it ends. Every path is a next state. -/
def run (i : Shape) (body : State → Res) (s : State) : Host.Outcome State Fault Refusal :=
  let chain := s.sp.chain.isSome || suppresses i
  match issueCheck i s with
  | .stop t => .next (takeTrap s t chain (nextPc i s))
  | .hold w => .next (park w s)
  | .go =>
    match body s with
    | .done t => .next (complete i s t (nextPc i s))
    | .jump t => .next (complete i s t t.sp.pc)
    | .raise t u => .next (takeTrap u t chain (nextPc i s))
    | .wait w t => .next (park w t)

/-! ## Atomics under way (R129, R239) -/

/-- A lane of an atomic that has been sent: its address, the port that has translated it (R333), the compared value and the operand, and
what it has read, if its reply has come. -/
structure AtomLane where
  lane : Nat
  va : Nat
  d : Nat
  c : Nat
  port : Nat
  got : Option Nat
  deriving DecidableEq, Repr

/-- Packs a lane into words of a request. -/
def AtomLane.pack (a : AtomLane) : List DWord :=
  [BitVec.ofNat 64 (a.lane + (if a.got.isSome then 256 else 0) + 512 * a.port), BitVec.ofNat 64 a.va, BitVec.ofNat 64 a.d,
   BitVec.ofNat 64 a.c, BitVec.ofNat 64 (a.got.getD 0)]

/-- Unpacks the lanes of a request. -/
def unpackLanes : List DWord → List AtomLane
  | a :: va :: d :: c :: m :: t =>
    { lane := a.toNat % 256, va := va.toNat, d := d.toNat, c := c.toNat, port := a.toNat / 512
      got := if a.toNat / 256 % 2 = 1 then some m.toNat else none } :: unpackLanes t
  | _ => []

/-- The lanes of the atomic that a request is of; of any other request, none. -/
def Request.lanes (q : Request) : List AtomLane :=
  if q.op = 0x8A ∨ q.op = 0x8C then unpackLanes (q.words.drop 2) else []

/-! ## Ends of a meaning -/

/-- Raises a cause over the execution mask. -/
def raiseExec (s : State) (cause : BitVec 8) (addr : DWord) : Res :=
  .raise { cause := cause, addr := addr, lanes := s.exec } s
/-- Raises a cause over the split's active mask (R393: 0x03, 0x07, 0x08, 0x09). -/
def raiseActive (s : State) (cause : BitVec 8) (addr : DWord) : Res :=
  .raise { cause := cause, addr := addr, lanes := s.sp.mask } s
/-- Raises a cause over given lanes. -/
def raiseLanes (s : State) (cause : BitVec 8) (addr : DWord) (lanes : Word) : Res :=
  .raise { cause := cause, addr := addr, lanes := lanes } s
/-- Raises 0x02 for an operand value that the instruction forbids (R393). -/
def raiseEncoding (i : Shape) (s : State) : Res := raiseExec s 0x02 (firstUnit i)
/-- Raises 0x04 (R393). -/
def raisePrivilege (i : Shape) (s : State) : Res := raiseExec s 0x04 (firstUnit i)

end Sys2Proof.Machine
end

