-- ==== Sys2Proof/Machine/Fetch.lean ====
section
/-! DEFINITION. Fetch lines, unit addresses, line words, checked transfers (R136 to R141), and asking the MP for
a page (R91). -/

namespace Sys2Proof.Machine

/-! ## Asking the MP for a page (R91) -/

/-- The group in focus has been told that the MP declines the page. -/
def declinedFor (s : State) (page : Nat) : Bool :=
  s.mem.asks.any fun a => a.asid == s.asid && a.page == page && a.declined.contains s.g.id

/-- Asks the MP for a page for the group in focus (R91). -/
def askPage (s : State) (page : Nat) : State :=
  if s.mem.asks.any fun a => a.asid == s.asid && a.page == page then
    let asks := updateWhere (fun (a : MapAsk) => a.asid == s.asid && a.page == page)
      (fun a => { a with gids := addOnce s.g.id a.gids }) s.mem.asks
    { s with mem := { s.mem with asks := asks } }
  else
    { s with mem := { s.mem with
      asks := s.mem.asks ++ [{ asid := s.asid, page := page, gids := [s.g.id], declined := [] }] } }

/-- Takes note of a refusal: the group's question is answered and forgotten. -/
def dropAsk (s : State) (page : Nat) : State :=
  let upd := updateWhere (fun (a : MapAsk) => a.asid == s.asid && a.page == page)
    (fun a => { a with gids := a.gids.filter (· != s.g.id), declined := a.declined.filter (· != s.g.id) }) s.mem.asks
  { s with mem := { s.mem with asks := upd.filter fun a => !(a.gids.isEmpty && a.declined.isEmpty) } }

/-! ## Unit addresses and lines -/

/-- The VA of the line that holds a unit address (R137). DESIGN CHOICE (log 140): R137 does not say what a unit address whose
VA exceeds 64 bits names; its VA wraps modulo 2^64, here and in `unitVa`. -/
def lineVa (u : DWord) : Nat := 64 * (u.toNat / 15) % 2 ^ 64
/-- The VA of a unit address (R137). -/
def unitVa (u : DWord) : Nat := (64 * (u.toNat / 15) + 4 * (u.toNat % 15)) % 2 ^ 64
/-- The unit of its line a unit address names. -/
def unitIn (u : DWord) : Nat := u.toNat % 15

/-- Even parity over a list of words: the ones are even in number (R139). -/
def parityEven (ws : List Word) : Bool := ws.foldl (fun n w => n + popCount w) 0 % 2 == 0

/-- The sixteen words of a line meet the four parity bits of its line word (R139). -/
def lineParityOk (ws : List Word) : Bool :=
  let lw := ws.getD 15 0
  let bit := fun (k : Nat) => lw &&& BitVec.ofNat 32 (2 ^ k)
  parityEven (ws.take 4 ++ [bit 28]) && parityEven ((ws.drop 4).take 4 ++ [bit 29]) &&
    parityEven ((ws.drop 8).take 4 ++ [bit 30]) && parityEven ((ws.drop 12).take 3 ++ [lw &&& 0x0FFFFFFF, bit 31])

/-- LFV is 1 and bits [27:24] are zero (R139, R140). -/
def lineVersionOk (ws : List Word) : Bool := (ws.getD 15 0).extractLsb' 20 8 == 1

/-- The units from `k` on at which instructions begin, pads left out (R138, R141). -/
def startsFrom (fuel k : Nat) (ws : List Word) : List Nat :=
  match fuel with
  | 0 => []
  | f + 1 =>
    if 15 ≤ k then []
    else
      let u := ws.getD k 0
      if u = 0xFFFFFFFF then startsFrom f (k + 1) ws else k :: startsFrom f (k + lengthOf u) ws

/-- Whether an instruction begins at a unit, lengths being read from unit 0 (R141). -/
def beginsAt (ws : List Word) (k : Nat) : Bool := (startsFrom 16 0 ws).contains k
/-- Whether a unit may be entered by a checked transfer (R139, R141). -/
def targetOk (ws : List Word) (k : Nat) : Bool := beginsAt ws k && (ws.getD 15 0).getLsbD k

/-! ## Fetch -/

/-- What a fetch of a line finds. -/
inductive Fetched where
  | line (ws : List Word)
  | bad (cause : BitVec 8) (addr : Nat)
  | miss (page : Nat)
  deriving DecidableEq, Repr

/-- The checks of an instruction fetch at a VA (R82, R91, R137, R228); a home that no route reaches does not answer (R331, R350). -/
def seeFetch (s : State) (a : Agent) (va : Nat) : Seen :=
  if !canonical va then .bad 0x11
  else if 5 ≤ placement va then .bad 0x12
  else if placement va < 4 && !bayHealthy s (placement va) then .bad 0x11
  else
    match pageAttr s a va with
    | none => .miss
    | some (p, r, _) =>
      if homeCut s a.core va then .miss
      else if !pteX p || (!a.super && !pteU p) then .bad 0x12
      else if !r then .bad 0x13
      else .page p

/-- The line an instruction cache holds (R86, R136). -/
def heldILine (s : State) (core : Nat) (asid : BitVec 16) (va : Nat) : Option ILine :=
  s.mem.icache.find? fun c => c.core == core && (c.asid == asid || c.asid == 0) && c.line == va % 2 ^ 57 / 64

/-- The sixteen words of a line at its home. -/
def homeLineWords (s : State) (p : Quad) (va : Nat) : List Word :=
  (chunksOf 16 4 (currentBytes s.mem (physOf p va) 64)).map fun b => BitVec.ofNat 32 (ofBytes b)

/-- The lines an instruction cache of 64 KiB holds (R16). -/
def ilineRoom : Nat := 1024

/-- A core's instruction cache without one line. -/
def dropILine (s : State) (core : Nat) (asid : BitVec 16) (line : Nat) : State :=
  { s with mem := { s.mem with
    icache := s.mem.icache.filter fun x => !(x.core == core && x.asid == asid && x.line == line) } }

/-- A core's instruction cache takes a line; when it is full, its oldest line goes (R16; log 1). -/
def keepILine (s : State) (c : ILine) : State :=
  let s := dropILine s c.core c.asid c.line
  let mine := s.mem.icache.filter fun x => x.core == c.core
  let others := s.mem.icache.filter fun x => x.core != c.core
  { s with mem := { s.mem with icache := others ++ mine.drop (mine.length + 1 - ilineRoom) ++ [c] } }

/-- The line as its home gives it. -/
def homeILine (s : State) (core : Nat) (p : Quad) (va : Nat) : ILine :=
  let ws := homeLineWords s p va
  { core := core, asid := pteAsid p, line := va % 2 ^ 57 / 64, words := ws, bad := !lineParityOk ws }

/-- Brings a line into a core's instruction cache, marked if it fails its parity there (R140): it is fetched again when an
instruction of it is to issue. -/
def fillILine (s : State) (core : Nat) (p : Quad) (va : Nat) : State := keepILine s (homeILine s core p va)

/-- Fetches a line from its home L2 and keeps it if its parity holds; one whose parity fails here has failed twice, and
nothing is kept of it (R140): the next attempt begins anew. -/
def fetchFromHome (s : State) (core : Nat) (p : Quad) (va : Nat) : State × Fetched :=
  let c := homeILine s core p va
  if c.bad then (dropILine s core c.asid c.line, .bad 0x15 va) else (keepILine s c, .line c.words)

/-- A line that the instruction cache holds and whose parity, checked again as an instruction of it is to issue, holds (R140). -/
def goodILine (s : State) (core : Nat) (asid : BitVec 16) (va : Nat) : Option ILine :=
  (heldILine s core asid va).filter fun c => !c.bad && lineParityOk c.words

/-- The home serves a core's instruction cache a line for a launch, which reads the line's granule by it (R389). -/
def readForCode (s : State) (lid : Nat) (p : Quad) (va : Nat) : State := touchGranule s lid (pteAsid p) (granuleOf va)

/-- Fetches the line at a VA for the group in focus: from the instruction cache, or else from its home (R136, R140, R389). -/
def fetchLineAt (s : State) (a : Agent) (va : Nat) (addr : Nat) : State × Fetched :=
  match goodILine s a.core a.asid va, seeFetch s a va with
  | _, .bad c => (s, .bad c addr)
  | some c, _ => (s, .line c.words)
  | none, .miss => (s, .miss (pageOf va))
  | none, .far => (s, .bad 0x12 addr)
  | none, .page p => fetchFromHome (fillPac (readForCode s s.launch.id p va) a va) a.core p va

/-- The LINE record the MP writes when a line fails parity twice (R140, R379). -/
def lineRecord (s : State) (va : Nat) : State :=
  writeRecord s { groupRcd s s.g (Rcd.blank 0x0D) with split := s.sp.num, pc := s.sp.pc, addr := BitVec.ofNat 64 va }

/-- The first unit at or after `k` that is not a pad, at most 15. -/
def skipPads (fuel k : Nat) (ws : List Word) : Nat :=
  match fuel with
  | 0 => k
  | f + 1 => if k < 15 ∧ ws.getD k 0 = 0xFFFFFFFF then skipPads f (k + 1) ws else k

/-- The words of the line at a unit address, for the group in focus: as its instruction cache holds them, or else as the home has them. -/
def wordsAt (s : State) (pc : DWord) : Option (List Word) :=
  match heldILine s s.tm.core s.asid (lineVa pc), seeFetch s s.agent (lineVa pc) with
  | some c, _ => some c.words
  | none, .page p => some (homeLineWords s p (lineVa pc))
  | none, _ => none

/-- The unit address of the next instruction from a unit address on, over at most `fuel` lines that hold nothing but pads (R138); a line that
could not be fetched ends the search. -/
def overPadLines (fuel : Nat) (s : State) (pc : DWord) : DWord :=
  match fuel, wordsAt s pc with
  | f + 1, some ws =>
    let k := skipPads 15 (unitIn pc) ws
    let next := pc + BitVec.ofNat 64 (k - unitIn pc)
    if k = 15 then overPadLines f s next else next
  | _, _ => pc

/-- The unit address of the next instruction from a unit address on: pads are stepped over, in this line and in those that follow it (R138),
of which an address space has 2^51. -/
def overPads (s : State) (pc : DWord) : DWord := overPadLines (2 ^ 51) s pc

/-- What a checked transfer ends in (R141). -/
inductive Transfer where
  | ok (s : State)
  | fail (t : Trap) (s : State)
  | hold (s : State)
  deriving DecidableEq, Repr

/-- Checks a transfer of the split in focus to a target (R141, R153): the fetch of the target line first, then
that the target begins an instruction and is marked in BTMASK. -/
def checkTransfer (s : State) (target : DWord) : Transfer :=
  let va := lineVa target
  match fetchLineAt s s.agent va (unitVa target) with
  | (s, .bad c a) =>
    let s := if c = 0x15 then lineRecord s a else s
    .fail { cause := c, addr := BitVec.ofNat 64 a, lanes := s.exec } s
  | (s, .miss page) =>
    if declinedFor s page then
      .fail { cause := 0x11, addr := BitVec.ofNat 64 (unitVa target), lanes := s.exec } (dropAsk s page)
    else .hold (askPage s page)
  | (s, .line ws) =>
    if targetOk ws (unitIn target) then .ok s
    else .fail { cause := 0x03, addr := target, lanes := s.sp.mask } s

/-- A meaning goes to a target by a checked transfer, if the check passes, in the state `f` makes (R141). -/
def transferTo (s : State) (target : DWord) (f : State → State) : Res :=
  match checkTransfer s target with
  | .ok s => let s := f s; .jump { s with sp := { s.sp with pc := target } }
  | .fail t s => .raise t s
  | .hold s => .wait .mapping s

end Sys2Proof.Machine
end

