-- ==== Sys2Proof/Machine/Operands.lean ====
section
/-! DEFINITION. Every operand form: scalar and vector sources, immediates, literals, special and latch sources
(R145 to R147, R166, R196), and how results are written (R50, R197, R199). -/

namespace Sys2Proof.Machine

/-! ## Scalar sources (R145, R146, R166) -/

/-- The state after a scalar source has been read: a latch that a vector instruction wrote draws a free
value (log 9). -/
def afterScalar (s : State) (f : Src) : State :=
  match f with
  | .latch k => if s.g.latchVec.contains k.toNat then (drawFresh s).1 else s
  | _ => s

/-- A 64-bit scalar source; a literal is sign-extended (R171, R181). -/
def scalar64 (s : State) (x : Args) (f : Src) : DWord :=
  match f with
  | .reg n => getPair s n.toNat
  | .bcast n => getPair s n.toNat
  | .latch k => latchScalar s k.toNat
  | .imm n => n.signExtend 64
  | .lit => x.literal.signExtend 64
  | .special v => BitVec.ofNat 64 (specialValue s v 0)

/-- A scalar source of an integer type of up to 64 bits (R147, R230). -/
def scalarTy (s : State) (x : Args) (f : Src) : Nat :=
  if x.ty.bits = 64 then
    match f with
    | .lit => if x.ty = .n64 then x.literal.toNat else (x.literal.signExtend 64).toNat
    | f => (scalar64 s x f).toNat
  else (scalar32 s x f).toNat % 2 ^ x.ty.bits

/-- The pair a field of role Pair names (R225). -/
def pairOf (s : State) (f : Src) : DWord :=
  match f with
  | .reg n => getPair s n.toNat
  | _ => 0

/-- The number a field names (a mask, handle, slot, tile, family or first register). -/
def fieldNum (f : Src) : Nat := srcNumber f

/-! ## Vector sources (R145 to R147, R196) -/

/-- The mode of an instruction that rounds, for logical index e and draw d (R71, R72). -/
def roundMode (s : State) (rnd : BitVec 3) (e d : Nat) : Mode :=
  modeOf (if rnd = 7 then s.sp.rnd else rnd) s.g.rkey e d

/-- A constant integer as an operand of a type (R147). The table of R147 has no row for the 8-bit
floating-point types and L6: there a free value stands (log 18). A special source of 2^31 or above is extended as `signed` says, with zeros
in role Q (log 190). -/
def constOf (t : Ty) (m : Mode) (signed : Bool) (v : Word) : Nat :=
  let i : Int := if signed then v.toInt else v.toNat
  match t with
  | .e4m3 | .e5m2 | .l6 => (Config.narrowConstant (BitVec.ofNat 4 t.code) v).toNat
  | .f32 | .f16 | .bf16 | .f64 => (tyRound m t (Val.ofInt i 0)).1
  | _ => wrapInt t.bits i

/-- The literal as an operand of a type (R147). -/
def literalOf (t : Ty) (m : Mode) (v : Word) : Nat :=
  match t with
  | .f32 => v.toNat
  | .f16 | .bf16 | .f64 => (tyRound m t (fmtF32.value v.toNat)).1
  | .e4m3 | .e5m2 | .l6 => (Config.narrowConstant (BitVec.ofNat 4 t.code) v).toNat
  | .n64 => v.toNat
  | _ => wrapInt t.bits v.toInt

/-- The bits of a container that hold a value of a type: of an L6 container all but [7:6], which reads ignore and writes make zero (R59). -/
def Ty.codeBits (t : Ty) : Nat := if t = .l6 then 6 else t.bits

/-- A vector source of a type in one lane, as a pattern of the type's bits (R59, R196, R197). -/
def vectorTy (s : State) (x : Args) (t : Ty) (f : Src) (l : Nat) : Nat :=
  (match f with
    | .reg n => getVs s n.toNat (Ty.regs t) l
    | .bcast n => ofWords ((List.range (Ty.regs t)).map fun i => getS s (n.toNat + i))
    | .latch k => (peek s.g.latches (32 * k.toNat + l)).toNat
    | .imm n => constOf t (roundMode s x.rnd l 0) true (n.signExtend 32)
    | .lit => literalOf t (roundMode s x.rnd l 0) x.literal
    | .special v => constOf t (roundMode s x.rnd l 0) false (BitVec.ofNat 32 (specialValue s v l))) % 2 ^ Ty.codeBits t

/-- A source of role V in one lane. -/
def vecA (s : State) (x : Args) (f : Src) (l : Nat) : Nat := vectorTy s x x.ty f l
/-- A source of role V32 in one lane (R196). -/
def vec32 (s : State) (x : Args) (f : Src) (l : Nat) : Nat := vectorTy s x .n32 f l
/-- A source of role P in one lane: 64 bits, constants sign-extended (R196). -/
def vec64 (s : State) (x : Args) (f : Src) (l : Nat) : Nat :=
  match f with
  | .special v => wrapInt 64 (BitVec.ofNat 32 (specialValue s v l)).toInt
  | f => vectorTy s x .i64 f l
/-- A source of role Q in one lane: an FX128 integer (R196). -/
def vecQ (s : State) (x : Args) (f : Src) (l : Nat) : Nat := vectorTy s x .fx128 f l

/-! ## Results (R50, R197, R199) -/

/-- A result of a type as the register lane holds it: sign-extended for signed integers (R59, R197). -/
def laneValue (t : Ty) (v : Nat) : Nat :=
  if t.bits < 32 && isSigned t then wrapInt 32 (intOf t v) else v % 2 ^ Ty.codeBits t

/-- Writes a vector result of `bits` bits in the lanes of the execution mask: into the chain's latch, and
into the registers unless it is suppressed (R50, R198). DESIGN CHOICE: the latch holds zeros above the result, which a wider vector source
of the chain then reads (R199 does not say; log 200). -/
def writeVec (s : State) (x : Args) (bits : Nat) (val : Nat → Nat) : State :=
  let k := chainPos s % 4
  let s1 := latchKind s k true
  (activeLanes s).foldl (fun t l =>
    let t := setLatch t k l (BitVec.ofNat 128 (val l))
    if x.sup then t else setVs t x.d.toNat l (toWords (if bits ≤ 32 then 1 else bits / 32) (val l))) s1

/-- Writes a vector result of a type (R197). -/
def writeTy (s : State) (x : Args) (t : Ty) (val : Nat → Nat) : State :=
  writeVec s x t.bits fun l => laneValue t (val l)

/-- Writes a scalar result that may stand in a latch: into every lane of the latch, and into the register or
pair unless it is suppressed (R50, R166). DESIGN CHOICE: a 32-bit result is zero-extended in the latch, which is what a
64-bit scalar source of the chain then reads (R171 does not say; log 140). -/
def writeScalar (s : State) (x : Args) (pair : Bool) (v : DWord) : State :=
  let s1 := latchScalars s (chainPos s % 4) (v.setWidth 128)
  if x.sup then s1 else if pair then setPair s1 x.d.toNat v else setS s1 x.d.toNat (v.setWidth 32)

end Sys2Proof.Machine
end

