-- ==== Sys2Proof/Machine/Flags.lean ====
section
/-! DEFINITION. Exception flags: every flag computation ends here, in FLAGS or in a trap (R77, R78). -/

namespace Sys2Proof.Machine

/-- The flags of the lanes of the execution mask, together. -/
def allFlags (s : State) (fl : Nat → Flags) : Flags :=
  (activeLanes s).foldl (fun a l => a ||| fl l) 0

/-- Completes an instruction with the flags its active lanes set (R78): if a flag is enabled in FTRAP, it
raises 0x28, or 0x29 if the only such flag is FXO, names the lanes, and has no effect; else `t` with the flags
ORed into FLAGS. -/
def withFlags (s : State) (fl : Nat → Flags) (t : State) : Res :=
  let hit := allFlags s fl &&& s.g.ftrap
  if hit = 0 then .done (orFlags t (allFlags s fl))
  else
    let lanes := maskOf fun l => s.exec.getLsbD l && (fl l &&& s.g.ftrap) != 0
    if hit = fFXO then raiseLanes s 0x29 0x20 lanes else raiseLanes s 0x28 (hit.setWidth 64) lanes

end Sys2Proof.Machine
end

