-- ==== Sys2Proof/Machine/Scalar.lean ====
section
/-! DEFINITION. The scalar integer instructions 0x00 to 0x1F in Form A and in Form C (R166 to R171): what each
computes, once, and one meaning per row of the opcode table. -/

namespace Sys2Proof.Machine

/-! ## What they compute: of a, b and the prior d -/

/-- Bits [63:32] of the signed product (R167). -/
def mulHighS (a b : Word) : Word := BitVec.ofInt 32 (a.toInt * b.toInt / 2 ^ 32)
/-- Bits [63:32] of the unsigned product (R167). -/
def mulHighU (a b : Word) : Word := BitVec.ofNat 32 (a.toNat * b.toNat / 2 ^ 32)
/-- The signed quotient, toward zero, with its corners (R168). -/
def divS (a b : Word) : Word :=
  if b = 0 then 0xFFFFFFFF else if a = 0x80000000 ∧ b = 0xFFFFFFFF then 0x80000000
  else BitVec.ofInt 32 (Int.tdiv a.toInt b.toInt)
/-- The signed remainder, with the sign of the dividend (R168). -/
def remS (a b : Word) : Word :=
  if b = 0 then a else if a = 0x80000000 ∧ b = 0xFFFFFFFF then 0
  else BitVec.ofInt 32 (a.toInt - b.toInt * Int.tdiv a.toInt b.toInt)
/-- The unsigned quotient (R168). -/
def divU (a b : Word) : Word := if b = 0 then 0xFFFFFFFF else BitVec.ofNat 32 (a.toNat / b.toNat)
/-- The unsigned remainder (R168). -/
def remU (a b : Word) : Word := if b = 0 then a else BitVec.ofNat 32 (a.toNat % b.toNat)
/-- Shift left; 0 for 32 or more (R167). -/
def shiftL (a b : Word) : Word := if 32 ≤ b.toNat then 0 else a <<< b.toNat
/-- Shift right with zeros; 0 for 32 or more (R167). -/
def shiftR (a b : Word) : Word := if 32 ≤ b.toNat then 0 else a >>> b.toNat
/-- Shift right with the sign; by 31 for 32 or more (R167). -/
def shiftA (a b : Word) : Word := a.sshiftRight (if 32 ≤ b.toNat then 31 else b.toNat)
/-- Whether a cc b holds (R169). -/
def condHolds (cc : Nat) (a b : Word) : Bool :=
  match cc with
  | 0 => a == b
  | 1 => a != b
  | 2 => a.toInt < b.toInt
  | 3 => a.toInt ≤ b.toInt
  | 4 => a.toInt > b.toInt
  | 5 => a.toInt ≥ b.toInt
  | 6 => a.toNat < b.toNat
  | 7 => a.toNat ≤ b.toNat
  | 8 => a.toNat > b.toNat
  | _ => a.toNat ≥ b.toNat
/-- 1 if a cc b holds, else 0 (R169). -/
def condWord (cc : Nat) (a b : Word) : Word := if condHolds cc a b then 1 else 0
/-- The width of a bit field: b[10:5], at most 32 (R170). -/
def fieldWidth (b : Word) : Nat := min (b.extractLsb' 5 6).toNat 32
/-- The position of a bit field: b[4:0] (R170). -/
def fieldPos (b : Word) : Nat := (b.extractLsb' 0 5).toNat
/-- Extracts a field, zero-extended (R170). -/
def extractU (a b : Word) : Word := BitVec.ofNat 32 (a.toNat / 2 ^ fieldPos b % 2 ^ fieldWidth b)
/-- Extracts a field, sign-extended (R170). -/
def extractS (a b : Word) : Word :=
  let f := a.toNat / 2 ^ fieldPos b % 2 ^ fieldWidth b
  let w := fieldWidth b
  if 0 < w ∧ f.testBit (w - 1) then BitVec.ofInt 32 ((f : Int) - 2 ^ w) else BitVec.ofNat 32 f
/-- Inserts a field into d (R170). -/
def insertField (a b d : Word) : Word :=
  let mask : Word := BitVec.ofNat 32 ((2 ^ fieldWidth b - 1) * 2 ^ fieldPos b)
  (d &&& ~~~mask) ||| BitVec.ofNat 32 (a.toNat % 2 ^ fieldWidth b * 2 ^ fieldPos b)

/-! ## How a row uses it -/

/-- A Form A instruction: d receives f of a, b and the prior d (R143, R166). -/
def scalarA (x : AArgs) (f : Word → Word → Word → Word) (s : State) : Res :=
  .done (setS s x.d.toNat (f (getS s x.a.toNat) (getS s x.b.toNat) (getS s x.d.toNat)))
/-- A Form A instruction of pairs (R144, R171). -/
def scalarA64 (x : AArgs) (f : DWord → DWord → DWord) (s : State) : Res :=
  .done (setPair s x.d.toNat (f (getPair s x.a.toNat) (getPair s x.b.toNat)))
/-- A Form C instruction: its sources, then the register or the latch (R50, R166). -/
def scalarC (x : Args) (f : Word → Word → Word → Word) (s : State) : Res :=
  let a := scalar32 s x x.a
  let s1 := afterScalar s x.a
  let b := scalar32 s1 x x.b
  let s2 := afterScalar s1 x.b
  .done (writeScalar s2 x false ((f a b (getS s x.d.toNat)).setWidth 64))
/-- A Form C instruction of pairs (R171). -/
def scalarC64 (x : Args) (f : DWord → DWord → DWord) (s : State) : Res :=
  let a := scalar64 s x x.a
  let s1 := afterScalar s x.a
  let b := scalar64 s1 x x.b
  let s2 := afterScalar s1 x.b
  .done (writeScalar s2 x true (f a b))

/-! ## The meanings -/

/-- `sadd`: (a + b) mod 2^32 (R167). -/
def execSadd (x : AArgs) (s : State) : Host.Outcome State Fault Refusal :=
  run (.sadd x) (scalarA x fun a b _ => a + b) s

/-- `sadd` in Form C (R167). -/
def execSaddC (x : Args) (s : State) : Host.Outcome State Fault Refusal :=
  run (.saddC x) (scalarC x fun a b _ => a + b) s

/-- `ssub`: (a - b) mod 2^32 (R167). -/
def execSsub (x : AArgs) (s : State) : Host.Outcome State Fault Refusal :=
  run (.ssub x) (scalarA x fun a b _ => a - b) s

/-- `ssub` in Form C (R167). -/
def execSsubC (x : Args) (s : State) : Host.Outcome State Fault Refusal :=
  run (.ssubC x) (scalarC x fun a b _ => a - b) s

/-- `smul`: (a * b) mod 2^32 (R167). -/
def execSmul (x : AArgs) (s : State) : Host.Outcome State Fault Refusal :=
  run (.smul x) (scalarA x fun a b _ => a * b) s

/-- `smul` in Form C (R167). -/
def execSmulC (x : Args) (s : State) : Host.Outcome State Fault Refusal :=
  run (.smulC x) (scalarC x fun a b _ => a * b) s

/-- `smulh`: signed high product (R167). -/
def execSmulh (x : AArgs) (s : State) : Host.Outcome State Fault Refusal :=
  run (.smulh x) (scalarA x fun a b _ => mulHighS a b) s

/-- `smulh` in Form C (R167). -/
def execSmulhC (x : Args) (s : State) : Host.Outcome State Fault Refusal :=
  run (.smulhC x) (scalarC x fun a b _ => mulHighS a b) s

/-- `smulhn`: unsigned high product (R167). -/
def execSmulhn (x : AArgs) (s : State) : Host.Outcome State Fault Refusal :=
  run (.smulhn x) (scalarA x fun a b _ => mulHighU a b) s

/-- `smulhn` in Form C (R167). -/
def execSmulhnC (x : Args) (s : State) : Host.Outcome State Fault Refusal :=
  run (.smulhnC x) (scalarC x fun a b _ => mulHighU a b) s

/-- `sdiv`: signed quotient (R168). -/
def execSdiv (x : AArgs) (s : State) : Host.Outcome State Fault Refusal :=
  run (.sdiv x) (scalarA x fun a b _ => divS a b) s

/-- `sdiv` in Form C (R168). -/
def execSdivC (x : Args) (s : State) : Host.Outcome State Fault Refusal :=
  run (.sdivC x) (scalarC x fun a b _ => divS a b) s

/-- `sdivn`: unsigned quotient (R168). -/
def execSdivn (x : AArgs) (s : State) : Host.Outcome State Fault Refusal :=
  run (.sdivn x) (scalarA x fun a b _ => divU a b) s

/-- `sdivn` in Form C (R168). -/
def execSdivnC (x : Args) (s : State) : Host.Outcome State Fault Refusal :=
  run (.sdivnC x) (scalarC x fun a b _ => divU a b) s

/-- `srem`: signed remainder (R168). -/
def execSrem (x : AArgs) (s : State) : Host.Outcome State Fault Refusal :=
  run (.srem x) (scalarA x fun a b _ => remS a b) s

/-- `srem` in Form C (R168). -/
def execSremC (x : Args) (s : State) : Host.Outcome State Fault Refusal :=
  run (.sremC x) (scalarC x fun a b _ => remS a b) s

/-- `sremn`: unsigned remainder (R168). -/
def execSremn (x : AArgs) (s : State) : Host.Outcome State Fault Refusal :=
  run (.sremn x) (scalarA x fun a b _ => remU a b) s

/-- `sremn` in Form C (R168). -/
def execSremnC (x : Args) (s : State) : Host.Outcome State Fault Refusal :=
  run (.sremnC x) (scalarC x fun a b _ => remU a b) s

/-- `sand`: a AND b (R167). -/
def execSand (x : AArgs) (s : State) : Host.Outcome State Fault Refusal :=
  run (.sand x) (scalarA x fun a b _ => a &&& b) s

/-- `sand` in Form C (R167). -/
def execSandC (x : Args) (s : State) : Host.Outcome State Fault Refusal :=
  run (.sandC x) (scalarC x fun a b _ => a &&& b) s

/-- `sor`: a OR b (R167). -/
def execSor (x : AArgs) (s : State) : Host.Outcome State Fault Refusal :=
  run (.sor x) (scalarA x fun a b _ => a ||| b) s

/-- `sor` in Form C (R167). -/
def execSorC (x : Args) (s : State) : Host.Outcome State Fault Refusal :=
  run (.sorC x) (scalarC x fun a b _ => a ||| b) s

/-- `sxor`: a XOR b (R167). -/
def execSxor (x : AArgs) (s : State) : Host.Outcome State Fault Refusal :=
  run (.sxor x) (scalarA x fun a b _ => a ^^^ b) s

/-- `sxor` in Form C (R167). -/
def execSxorC (x : Args) (s : State) : Host.Outcome State Fault Refusal :=
  run (.sxorC x) (scalarC x fun a b _ => a ^^^ b) s

/-- `sandn`: a AND NOT b (R167). -/
def execSandn (x : AArgs) (s : State) : Host.Outcome State Fault Refusal :=
  run (.sandn x) (scalarA x fun a b _ => a &&& ~~~b) s

/-- `sandn` in Form C (R167). -/
def execSandnC (x : Args) (s : State) : Host.Outcome State Fault Refusal :=
  run (.sandnC x) (scalarC x fun a b _ => a &&& ~~~b) s

/-- `sshl`: shift left (R167). -/
def execSshl (x : AArgs) (s : State) : Host.Outcome State Fault Refusal :=
  run (.sshl x) (scalarA x fun a b _ => shiftL a b) s

/-- `sshl` in Form C (R167). -/
def execSshlC (x : Args) (s : State) : Host.Outcome State Fault Refusal :=
  run (.sshlC x) (scalarC x fun a b _ => shiftL a b) s

/-- `sshr`: logical shift right (R167). -/
def execSshr (x : AArgs) (s : State) : Host.Outcome State Fault Refusal :=
  run (.sshr x) (scalarA x fun a b _ => shiftR a b) s

/-- `sshr` in Form C (R167). -/
def execSshrC (x : Args) (s : State) : Host.Outcome State Fault Refusal :=
  run (.sshrC x) (scalarC x fun a b _ => shiftR a b) s

/-- `ssra`: arithmetic shift right (R167). -/
def execSsra (x : AArgs) (s : State) : Host.Outcome State Fault Refusal :=
  run (.ssra x) (scalarA x fun a b _ => shiftA a b) s

/-- `ssra` in Form C (R167). -/
def execSsraC (x : Args) (s : State) : Host.Outcome State Fault Refusal :=
  run (.ssraC x) (scalarC x fun a b _ => shiftA a b) s

/-- `srot`: rotate left by b mod 32 (R167). -/
def execSrot (x : AArgs) (s : State) : Host.Outcome State Fault Refusal :=
  run (.srot x) (scalarA x fun a b _ => a.rotateLeft (b.toNat % 32)) s

/-- `srot` in Form C (R167). -/
def execSrotC (x : Args) (s : State) : Host.Outcome State Fault Refusal :=
  run (.srotC x) (scalarC x fun a b _ => a.rotateLeft (b.toNat % 32)) s

/-- `smin`: signed minimum (R167). -/
def execSmin (x : AArgs) (s : State) : Host.Outcome State Fault Refusal :=
  run (.smin x) (scalarA x fun a b _ => if a.toInt ≤ b.toInt then a else b) s

/-- `smin` in Form C (R167). -/
def execSminC (x : Args) (s : State) : Host.Outcome State Fault Refusal :=
  run (.sminC x) (scalarC x fun a b _ => if a.toInt ≤ b.toInt then a else b) s

/-- `smax`: signed maximum (R167). -/
def execSmax (x : AArgs) (s : State) : Host.Outcome State Fault Refusal :=
  run (.smax x) (scalarA x fun a b _ => if a.toInt ≤ b.toInt then b else a) s

/-- `smax` in Form C (R167). -/
def execSmaxC (x : Args) (s : State) : Host.Outcome State Fault Refusal :=
  run (.smaxC x) (scalarC x fun a b _ => if a.toInt ≤ b.toInt then b else a) s

/-- `sminn`: unsigned minimum (R167). -/
def execSminn (x : AArgs) (s : State) : Host.Outcome State Fault Refusal :=
  run (.sminn x) (scalarA x fun a b _ => if a.toNat ≤ b.toNat then a else b) s

/-- `sminn` in Form C (R167). -/
def execSminnC (x : Args) (s : State) : Host.Outcome State Fault Refusal :=
  run (.sminnC x) (scalarC x fun a b _ => if a.toNat ≤ b.toNat then a else b) s

/-- `smaxn`: unsigned maximum (R167). -/
def execSmaxn (x : AArgs) (s : State) : Host.Outcome State Fault Refusal :=
  run (.smaxn x) (scalarA x fun a b _ => if a.toNat ≤ b.toNat then b else a) s

/-- `smaxn` in Form C (R167). -/
def execSmaxnC (x : Args) (s : State) : Host.Outcome State Fault Refusal :=
  run (.smaxnC x) (scalarC x fun a b _ => if a.toNat ≤ b.toNat then b else a) s

/-- `ssel`: a if the prior d is nonzero, else b (R167). -/
def execSsel (x : AArgs) (s : State) : Host.Outcome State Fault Refusal :=
  run (.ssel x) (scalarA x fun a b d => if d ≠ 0 then a else b) s

/-- `ssel` in Form C (R167). -/
def execSselC (x : Args) (s : State) : Host.Outcome State Fault Refusal :=
  run (.sselC x) (scalarC x fun a b d => if d ≠ 0 then a else b) s

/-- `smov`: a (R167). -/
def execSmov (x : AArgs) (s : State) : Host.Outcome State Fault Refusal :=
  run (.smov x) (scalarA x fun a _ _ => a) s

/-- `smov` in Form C (R167). -/
def execSmovC (x : Args) (s : State) : Host.Outcome State Fault Refusal :=
  run (.smovC x) (scalarC x fun a _ _ => a) s

/-- `sclz`: leading zeros of a (R167). -/
def execSclz (x : AArgs) (s : State) : Host.Outcome State Fault Refusal :=
  run (.sclz x) (scalarA x fun a _ _ => BitVec.ofNat 32 (leadZeros a)) s

/-- `sclz` in Form C (R167). -/
def execSclzC (x : Args) (s : State) : Host.Outcome State Fault Refusal :=
  run (.sclzC x) (scalarC x fun a _ _ => BitVec.ofNat 32 (leadZeros a)) s

/-- `spopc`: ones in a (R167). -/
def execSpopc (x : AArgs) (s : State) : Host.Outcome State Fault Refusal :=
  run (.spopc x) (scalarA x fun a _ _ => BitVec.ofNat 32 (popCount a)) s

/-- `spopc` in Form C (R167). -/
def execSpopcC (x : Args) (s : State) : Host.Outcome State Fault Refusal :=
  run (.spopcC x) (scalarC x fun a _ _ => BitVec.ofNat 32 (popCount a)) s

/-- `sbrev`: a with its bits reversed (R167). -/
def execSbrev (x : AArgs) (s : State) : Host.Outcome State Fault Refusal :=
  run (.sbrev x) (scalarA x fun a _ _ => bitReverse a) s

/-- `sbrev` in Form C (R167). -/
def execSbrevC (x : Args) (s : State) : Host.Outcome State Fault Refusal :=
  run (.sbrevC x) (scalarC x fun a _ _ => bitReverse a) s

/-- `sbfx`: a bit field, zero-extended (R170). -/
def execSbfx (x : AArgs) (s : State) : Host.Outcome State Fault Refusal :=
  run (.sbfx x) (scalarA x fun a b _ => extractU a b) s

/-- `sbfx` in Form C (R170). -/
def execSbfxC (x : Args) (s : State) : Host.Outcome State Fault Refusal :=
  run (.sbfxC x) (scalarC x fun a b _ => extractU a b) s

/-- `sbfx.sx`: a bit field, sign-extended (R170). -/
def execSbfxSx (x : AArgs) (s : State) : Host.Outcome State Fault Refusal :=
  run (.sbfxSx x) (scalarA x fun a b _ => extractS a b) s

/-- `sbfx.sx` in Form C (R170). -/
def execSbfxSxC (x : Args) (s : State) : Host.Outcome State Fault Refusal :=
  run (.sbfxSxC x) (scalarC x fun a b _ => extractS a b) s

/-- `sbfi`: d with a bit field of a (R170). -/
def execSbfi (x : AArgs) (s : State) : Host.Outcome State Fault Refusal :=
  run (.sbfi x) (scalarA x fun a b d => insertField a b d) s

/-- `sbfi` in Form C (R170). -/
def execSbfiC (x : Args) (s : State) : Host.Outcome State Fault Refusal :=
  run (.sbfiC x) (scalarC x fun a b d => insertField a b d) s

/-- `scmp`: 1 if a cc b holds, else 0 (R169). -/
def execScmp (cc : BitVec 4) (x : AArgs) (s : State) : Host.Outcome State Fault Refusal :=
  run (.scmp cc x) (scalarA x fun a b _ => condWord cc.toNat a b) s

/-- `scmp` in Form C (R169). -/
def execScmpC (x : Args) (s : State) : Host.Outcome State Fault Refusal :=
  run (.scmpC x) (scalarC x fun a b _ => condWord x.fn.toNat a b) s

/-- `sadd64`: 64-bit sum (R171). -/
def execSadd64 (x : AArgs) (s : State) : Host.Outcome State Fault Refusal :=
  run (.sadd64 x) (scalarA64 x fun a b => a + b) s

/-- `sadd64` in Form C (R171). -/
def execSadd64C (x : Args) (s : State) : Host.Outcome State Fault Refusal :=
  run (.sadd64C x) (scalarC64 x fun a b => a + b) s

/-- `ssub64`: 64-bit difference (R171). -/
def execSsub64 (x : AArgs) (s : State) : Host.Outcome State Fault Refusal :=
  run (.ssub64 x) (scalarA64 x fun a b => a - b) s

/-- `ssub64` in Form C (R171). -/
def execSsub64C (x : Args) (s : State) : Host.Outcome State Fault Refusal :=
  run (.ssub64C x) (scalarC64 x fun a b => a - b) s

/-- `smul64`: 64-bit product (R171). -/
def execSmul64 (x : AArgs) (s : State) : Host.Outcome State Fault Refusal :=
  run (.smul64 x) (scalarA64 x fun a b => a * b) s

/-- `smul64` in Form C (R171). -/
def execSmul64C (x : Args) (s : State) : Host.Outcome State Fault Refusal :=
  run (.smul64C x) (scalarC64 x fun a b => a * b) s

end Sys2Proof.Machine
end

