-- ==== Sys2Proof/Machine/Sync.lean ====
section
/-! DEFINITION. Releases and acquires at a scope (R115, R117, R130, R397), and what a barrier does with an
arrival (R255 to R258). -/

namespace Sys2Proof.Machine

/-! ## Releases (R115, R117, R397) -/

/-- How a release ends: complete; not yet; a deferred fault. -/
inductive Released where
  | done (s : State)
  | wait (w : Wait) (s : State)
  | fail (t : Trap) (s : State)
  deriving DecidableEq, Repr

/-- The deferred cause a release raises first, with its addresses (R397). -/
def firstDeferred (d : Deferred) : Option (BitVec 8 × List Nat) :=
  if !d.c11.isEmpty then some (0x11, d.c11)
  else if !d.c18.isEmpty then some (0x18, d.c18)
  else if !d.c12.isEmpty then some (0x12, d.c12)
  else if !d.c13.isEmpty then some (0x13, d.c13)
  else none

/-- A deferred cause is pending no more. -/
def dropDeferred (d : Deferred) (c : BitVec 8) : Deferred :=
  if c = 0x11 then { d with c11 := [] } else if c = 0x18 then { d with c18 := [] }
  else if c = 0x12 then { d with c12 := [] } else { d with c13 := [] }

/-- The lowest of some addresses. -/
def lowest (l : List Nat) : Nat := l.foldl min (l.headD 0)

/-- A cause that covers some addresses is raised: its ADDRLIST record, and its trap (R397; log 20). -/
def raiseCovered (s : State) (c : BitVec 8) (addrs : List Nat) : Released :=
  .fail { cause := c, addr := BitVec.ofNat 64 (lowest addrs), lanes := s.exec } (addrList s s.g c (lowest addrs) addrs)

/-- A deferred cause is raised (R397). -/
def raiseDeferred (s : State) (c : BitVec 8) (addrs : List Nat) : Released :=
  raiseCovered { s with g := { s.g with deferred := dropDeferred s.g.deferred c } } c addrs

/-- Whether a VA lies beyond the device (R128). -/
def isFar (va : Nat) : Bool := isFarVa va

/-- Whether a group has a store on its way to a home of the device, or a contribution that cannot come there (R350; log 179). -/
def storesOut (s : State) (gid : Nat) : Bool :=
  (s.mem.flight.any fun f => f.gid == gid && !isFar f.va) ||
    s.mem.ulines.any fun u => u.gids.contains gid && !reaches s u.core (homeBay (vaOfLine u.line))
/-- Whether a group has entries in a side log. -/
def sideOut (s : State) (gid : Nat) : Bool := s.mem.side.any fun e => e.gid == gid

/-- Sends the release token of a path of a group, with the path's count (R130), unless one is out; more that was posted after an
acknowledged one takes another. -/
def sendToken (s : State) (gid : Nat) (p : Path) : State :=
  if p.token && !(p.acked && decide (p.sent < p.posted)) then s
  else
    let t := updGroup s gid fun g => { g with
      paths := updateWhere (fun q => q.dest == p.dest && q.port == p.port) (fun q => { q with token := true, acked := false, sent := q.posted }) g.paths }
    { t with fab := { t.fab with tokens := t.fab.tokens ++
      [{ gid := gid, dest := p.dest, port := p.port, count := p.posted, upto := t.mem.nextFlight, atEnd := false
         auto := false }] } }

/-- The paths a group has used since its last .sys release (R130). -/
def usedPaths (s : State) (gid : Nat) : List Path := (findGroup s gid).paths.filter fun p => 0 < p.posted

/-- Every path a group has used has acknowledged all that was posted on it (R130). -/
def pathsAcked (s : State) (gid : Nat) : Bool := (usedPaths s gid).all fun p => p.acked && p.sent == p.posted

/-- A path whose token has been acknowledged: what was posted after the token was sent is left for the next (R130). -/
def Path.settled (p : Path) : Path :=
  if p.acked then
    { p with posted := p.posted - p.sent, passed := p.passed - p.sent, sent := 0, token := false, acked := false, failed := [] }
  else p

/-- The system fence over the paths the group in focus has used since its last .sys release (R130): it retires
when every path has acknowledged, and raises 0x19 if a posted write failed (R132). -/
def sysFence (s : State) : Released :=
  let used := usedPaths s s.g.id
  if pathsAcked s s.g.id then
    let bad := used.flatMap fun p => p.failed
    let t := { s with g := { s.g with paths := s.g.paths.map Path.settled } }
    if bad.isEmpty then .done t else raiseCovered t 0x19 bad
  else .wait .fence (used.foldl (fun s p => sendToken s s.g.id p) s)

/-- A command of the retrieval engine (R299). -/
def CmdKind.retrieval : CmdKind → Bool
  | .probe .. | .insert .. | .delete .. | .migrate .. | .stat .. => true
  | _ => false

/-- A group's retrieval commands have yet to write their result words (R299). -/
def retrievalOut (s : State) (gid : Nat) : Bool := s.eng.cmds.any fun c => c.gid == gid && c.kind.retrieval

/-- The .dev condition of a release: the group's contributions merge, and a fault that this brings up is raised (R397); then nothing is on its
way, no retrieval command outstanding, and GT has reached CH (R115, R299). -/
def devRelease (s : State) : Released :=
  let s := mergeGroup s s.g.id
  match firstDeferred s.g.deferred with
  | some (c, l) => raiseDeferred s c l
  | none => if storesOut s s.g.id || retrievalOut s s.g.id || decide (s.gt < s.g.ch) then .wait .fence s else .done s

/-- A group's drains of tiles and slots that are not over, and its fills (R280). -/
def drainsOut (s : State) (gid : Nat) : Bool := s.eng.overlaps.any fun o => o.mover.any fun m => m.1 == gid

/-- A release of the group in focus at a scope (R115): 0 .grp, 1 .team, 2 .gang, 3 .dev, 4 .sys. Its side-log
entries drain first (R92) and its loads are performed; then a deferred fault is raised (R397); then its drains end (R280). A
.team or .gang release does not wait for stores that neither cache takes: those to L2-only pages, evict-first ones that miss, and
those beyond the device (DESIGN CHOICE: R115 does not say; log 140). -/
def release (s : State) (scope : Nat) : Released :=
  if sideOut s s.g.id then .wait .sideLog s
  else if !s.g.late.isEmpty then .wait .fence s
  else
    match firstDeferred s.g.deferred with
    | some (c, l) => raiseDeferred s c l
    | none =>
      if 1 ≤ scope ∧ drainsOut s s.g.id then .wait .fence s
      else if scope ≤ 1 ∨ (scope = 2 ∧ hasCache s (clusterOf s.tm.core)) then .done s
      else
        match devRelease s with
        | .done t => if scope = 4 then sysFence t else .done t
        | r => r

/-- A meaning that begins with a release (R397). -/
def withRelease (s : State) (scope : Nat) (f : State → Res) : Res :=
  match release s scope with
  | .done t => f t
  | .wait w t => .wait w t
  | .fail tr t => .raise tr t

/-- The action of an acquire at a scope (R115): at .gang, every clean, unpinned line of the core's L1 goes. -/
def acquire (s : State) (scope : Nat) : State :=
  if scope = 2 then
    { s with mem := { s.mem with l1 := s.mem.l1.filter fun c => !(c.unit == s.tm.core && !anyPinned c s.gt) } }
  else s

/-- A meaning that ends with an acquire (R115): the loads before it are performed first (log 35). -/
def withAcquire (s : State) (scope : Nat) (k : State → Res) : Res :=
  if s.g.late.isEmpty then k (acquire s scope) else .wait .fence s

/-! ## Barriers (R255, R256) -/

/-- The gang barrier's number (R393). -/
def gbarNo : Nat := 16

/-- A barrier of a team; number 16 is its gang's `gbar`. -/
def getBar (s : State) (tid n : Nat) : Barrier :=
  if n = gbarNo then (findGang s (findTeam s tid).gang).gbar
  else (findTeam s tid).barriers.getD n Barrier.none

/-- Replaces a barrier. -/
def setBar (s : State) (tid n : Nat) (b : Barrier) : State :=
  if n = gbarNo then updGang s (findTeam s tid).gang fun g => { g with gbar := b }
  else updTeam s tid fun t => { t with barriers := updateAt t.barriers n fun _ => b }

/-- A group whose every launched lane has exited. -/
def whollyExited (g : Group) : Bool := g.launched &&& ~~~g.exited == 0

/-- The units that have wholly exited, of a barrier of a team (R256). -/
def goneUnits (s : State) (tid n : Nat) (lanes : Bool) : List (Nat × Nat) :=
  let t := findTeam s tid
  let gs := (allGroups s).filter fun g =>
    if n = gbarNo then (findTeam s g.team).gang == t.gang else g.team == tid
  if lanes then gs.flatMap fun g => (lanesOf (g.launched &&& g.exited)).map fun l => (g.id, l)
  else (gs.filter whollyExited).map fun g => (g.id, 32)

/-- The arrivals of the present phase with the exits that count (R256). -/
def Barrier.arrived (b : Barrier) (gone : List (Nat × Nat)) : Nat :=
  b.cur.length + b.engine + (if b.exitc then (gone.filter fun x => !b.cur.contains x).length else 0)

/-- The present phase completes: its waiters are released, and early arrivals become its successor's. -/
def Barrier.advance (b : Barrier) : Barrier :=
  { b with
    cur := b.nxt, nxt := [], engine := 0, phase := b.phase + 1
    waiters := b.waiters.filter fun w => w.2.2 != b.phase }

/-- `complete` of R256. A phase without arrivals is not completed, so three rounds are enough. -/
def Barrier.complete (fuel : Nat) (gone : List (Nat × Nat)) (b : Barrier) : Barrier :=
  match fuel with
  | 0 => b
  | f + 1 =>
    if 0 < b.cur.length + b.engine ∧ b.expect ≤ b.arrived gone then Barrier.complete f gone b.advance else b

/-- Counts one unit, in CUR or else in NXT, and tells in which phase; none if it fits in neither (R256). -/
def Barrier.count (b : Barrier) (x : Nat × Nat) : Option (Barrier × Nat) :=
  if !b.cur.contains x then some ({ b with cur := b.cur ++ [x] }, b.phase)
  else if !b.nxt.contains x then some ({ b with nxt := b.nxt ++ [x] }, b.phase + 1)
  else .none

/-- Counts the lanes of an arrival in order: the barrier, those not counted yet, the phase of the last one, for which `bar.sync` then waits
even if its lanes were counted in different phases (DESIGN CHOICE: R256 does not say; log 160). -/
def Barrier.countAll (b : Barrier) (gid : Nat) (todo : List Nat) (phase : Nat) : Barrier × List Nat × Nat :=
  match todo with
  | [] => (b, [], phase)
  | l :: t =>
    match b.count (gid, l) with
    | some (b', p) => b'.countAll gid t p
    | .none => (b, l :: t, phase)

/-- Runs `complete` on a barrier after an arrival or an exit, which resets its watchdog (R259). -/
def settleBar (s : State) (tid n : Nat) (b : Barrier) : State :=
  setBar s tid n ({ b with last := s.gt }.complete 3 (goneUnits s tid n b.lanes))

/-- An engine arrives at a barrier (R256). -/
def engineArrive (s : State) (tid n : Nat) : State :=
  let b := getBar s tid n
  settleBar s tid n { b with engine := b.engine + 1 }

/-- The scope at which a barrier releases and acquires (R119). -/
def barScope (n : Nat) : Nat := if n = gbarNo then 2 else 1

/-- The split in focus waits at a barrier for a phase. -/
def waitAt (s : State) (a : Arrival) (phase : Nat) : Res :=
  let b := getBar s s.tm.id a.bar
  let w := (s.g.id, s.sp.num, phase)
  let a := if b.waiters.contains w then a else { a with since := s.gt }
  let s := setBar s s.tm.id a.bar { b with waiters := addOnce w b.waiters }
  .wait .barrier { s with sp := { s.sp with arrival := some a } }

/-- The arrival is over, and the split has nothing more to do with the barrier: it is no waiter of it. -/
def endArrival (s : State) : State :=
  let t := match s.sp.arrival with
    | some a =>
      let b := getBar s s.tm.id a.bar
      setBar s s.tm.id a.bar { b with waiters := b.waiters.filter fun w => !(w.1 == s.g.id && w.2.1 == s.sp.num) }
    | none => s
  { t with sp := { t.sp with arrival := none } }

/-- A wait at a barrier whose phase has completed ends (R256): the acquire, then 0 in the status register. -/
def returnFrom (s : State) (a : Arrival) : State :=
  let s := endArrival s
  let s := if a.sync then acquire s (barScope a.bar) else s
  match a.dest with
  | some d => resultS s d 0
  | none => s

/-- The split in focus goes on from a barrier. One that waited for its phase acquires, which the loads before it precede (R115, R119). -/
def passBarrier (s : State) (a : Arrival) : Res :=
  if a.sync && !s.g.late.isEmpty then .wait .barrier { s with sp := { s.sp with arrival := some a } } else .done (returnFrom s a)

/-- Counts what is left of an arrival of the split in focus, then waits if it must (R256). Where nothing can be counted no arrival has been
received, and the barrier stays as it is (R259). -/
def countArrival (s : State) (a : Arrival) : Res :=
  let r := (getBar s s.tm.id a.bar).countAll s.g.id a.todo a.phase
  let s := if r.2.1.length < a.todo.length then settleBar s s.tm.id a.bar r.1 else s
  let b := getBar s s.tm.id a.bar
  let a := { a with todo := r.2.1, phase := r.2.2 }
  if !a.todo.isEmpty then waitAt s a b.phase
  else if !a.sync || decide (a.phase < b.phase) then passBarrier s a
  else waitAt s a a.phase

/-- A wait ended by `bar.inval` (R257): 1 in the status register, or 0x22. -/
def invalidated (s : State) (a : Arrival) : Res :=
  match a.dest with
  | some d => .done (resultS (endArrival s) d 1)
  | none => raiseExec (endArrival s) 0x22 (BitVec.ofNat 64 a.bar)

/-- An arrival issues again (R401): it does not arrive twice. -/
def resumeArrival (s : State) (a : Arrival) : Res :=
  let b := getBar s s.tm.id a.bar
  if a.inval then invalidated s a
  else if !a.todo.isEmpty then
    if b.init then countArrival s a else raiseExec (endArrival s) 0x22 (BitVec.ofNat 64 a.bar)
  else if a.phase < b.phase then passBarrier s a
  else waitAt s a a.phase

/-- An arrival of the split in focus at a barrier, which waits for its phase if `sync` (R256). -/
def arriveAt (n : Nat) (sync : Bool) (dest : Option Nat) (next : DWord) (s : State) : Res :=
  match s.sp.arrival.filter fun a => a.pc == s.sp.pc with
  | some a => resumeArrival s a
  | none =>
    let b := getBar s s.tm.id n
    if !b.init then raiseExec s 0x22 (BitVec.ofNat 64 n)
    else
      withRelease s (barScope n) fun s =>
        let todo := if b.lanes then activeLanes s else [32]
        let a : Arrival :=
          { bar := n, pc := s.sp.pc, next := next, sync := sync, dest := dest, todo := todo, phase := b.phase
            inval := false, since := s.gt }
        if todo.isEmpty then .done (returnFrom s a) else countArrival s a

/-- Lanes of a group have exited: barriers with .exitcount count them (R256, R258). -/
def exitBarriers (s : State) (g : Group) : State :=
  let t := findTeam s g.team
  let s := (List.range t.barriers.length).foldl (fun s n =>
    let b := getBar s g.team n
    if b.init && b.exitc && (b.lanes || whollyExited g) then settleBar s g.team n b else s) s
  if whollyExited g then settleBar s g.team gbarNo (getBar s g.team gbarNo) else s

end Sys2Proof.Machine
end

