-- ==== Sys2Proof/Machine/Control.lean ====
section
/-! DEFINITION. The control instructions 0x20 to 0x2F and the event of reconvergence (R42 to R48, R55, R172 to
R180): transfers, divergent branches, records, predicates, `exit`. -/

namespace Sys2Proof.Machine

/-! ## Targets and records -/

/-- The target of a transfer: the instruction's first unit plus its literal (R151). -/
def branchTarget (s : State) (x : Args) : DWord := s.sp.pc + x.literal.signExtend 64

/-- A record of the group in focus. -/
def findRec (s : State) (id : Nat) : Option Rec := s.g.recs.find? fun r => r.id == id
/-- The top record of the split in focus. -/
def topRec (s : State) : Option Rec :=
  match s.sp.recon with
  | r :: _ => findRec s r
  | [] => none
/-- Replaces a record. -/
def updRec (s : State) (id : Nat) (f : Rec → Rec) : State :=
  { s with g := { s.g with recs := updateWhere (fun r => r.id == id) f s.g.recs } }

/-- Every split of the group in focus: the one in focus, if it is there, and the others. -/
def liveSplits (s : State) : List Split := if s.sp.live then s.sp :: s.g.others else s.g.others

/-- A push would make the stack hold 17 records (R43, R175). -/
def stackFull (s : State) : Bool := 16 ≤ s.sp.recon.length

/-- Pushes a record with a join PC, deferred lanes and their PC onto the stack of the split in focus (R42). -/
def pushRec (s : State) (jpc : DWord) (pend : Word) (ppc : DWord) : State :=
  let r : Rec :=
    { id := s.g.nextRec, jpc := jpc, fmt := s.sp.fmt, rnd := s.sp.rnd, pdep := s.sp.pred.length, exp := s.sp.mask
      arr := 0, pend := pend, ppc := ppc, held := [], pby := s.sp.num }
  { s with
    g := { s.g with recs := s.g.recs ++ [r], nextRec := s.g.nextRec + 1 }
    sp := { s.sp with recon := r.id :: s.sp.recon } }

/-- Removes records that no split and no shadow names. -/
def dropRecs (s : State) : State :=
  let shadow := match s.g.shadow with | some h => h.recon | none => []
  let used := shadow ++ (liveSplits s).flatMap fun p => p.recon
  { s with g := { s.g with recs := s.g.recs.filter fun r => used.contains r.id } }

/-- The top record is popped. -/
def popRec (s : State) : State := dropRecs { s with sp := { s.sp with recon := s.sp.recon.drop 1 } }

/-! ## Merging (R44) -/

/-- The lanes a split has carried to a record's JPC. -/
def heldBy (r : Rec) (num : Nat) : Word := ((r.held.find? fun e => e.1 == num).map Prod.snd).getD 0

/-- The lanes whose predicate bits a split that parks on a record has: those that it carried there, or to a record below it, and those that
it deferred at one of them. -/
def carriedBy (s : State) (rid : Nat) (p : Split) : Word :=
  (s.g.recs.filter fun q => q.id == rid || p.recon.contains q.id).foldl (fun m q =>
    m ||| heldBy q p.num ||| if q.pby = p.num then q.pend else 0) 0

/-- The predicate stack after a merge: each lane's bits from the split that carried it, entry by entry; a lane
that no parked split has carried takes the kept split's bits. -/
def mergedPred (carried : Split → Word) (kept : Split) (parked : List Split) : List Word :=
  let all := parked.foldl (fun m p => m ||| carried p) 0
  (List.range kept.pred.length).map fun k =>
    parked.foldl (fun m p => m ||| (p.pred.getD k 0 &&& carried p)) (kept.pred.getD k 0 &&& ~~~all)

/-- The records of splits that merge into one: what the others brought to a JPC, or deferred, is the kept one's from now on. -/
def mergeRecs (recs : List Rec) (kept : Split) (nums : List Nat) : List Rec :=
  updateWhere (fun q => kept.recon.contains q.id) (fun q =>
    { q with
      pby := if nums.contains q.pby then kept.num else q.pby
      held := assocSet (q.held.filter fun e => !nums.contains e.1) kept.num (nums.foldl (fun m n => m ||| heldBy q n) 0) }) recs

/-- A predicate stack brought to a depth, for a split that parks because its last active lanes exited. DESIGN CHOICE (log 140):
R45 names no check of the depth there, so the stack is cut or padded to PDEP and no 0x07 or 0x08 is raised. -/
def fitPred (l : List Word) (n : Nat) : List Word :=
  let l := l.drop (l.length - n)
  List.replicate (n - l.length) (l.headD 0) ++ l

/-- The lowest-numbered of some splits. -/
def lowestSplit (l : List Split) : Option Split :=
  l.foldl (fun a p => match a with | some q => if p.num < q.num then some p else some q | none => some p) none

/-- Merges the splits parked on a record, if their lanes are all it expects (R44): the lowest-numbered one is
kept, the others are freed. -/
def tryMerge (s : State) (rid : Nat) (away : List Split := []) : State :=
  let parked := (liveSplits s).filter fun p => p.parked == some rid
  match findRec s rid, lowestSplit parked with
  | some r, some k =>
    let want := r.exp &&& ~~~s.g.exited
    if parked.foldl (fun m p => m ||| p.mask) 0 = want then
      let kept := { k with
        mask := want, fmt := r.fmt, rnd := r.rnd, pred := mergedPred (carriedBy s rid) k (parked ++ away), recon := k.recon.drop 1
        parked := none, live := want != 0, since := s.gt, pc := r.jpc }
      let rest := s.g.others.filter fun p => p.parked != some rid
      let left := updateWhere (fun q => q.id == rid) (fun q => { q with arr := 0, held := [] }) s.g.recs
      let recs := mergeRecs left kept ((parked ++ away).map fun p => p.num)
      let t :=
        if s.sp.parked == some rid then { s with sp := kept, g := { s.g with others := rest, recs := recs } }
        else { s with g := { s.g with others := if want = 0 then rest else rest ++ [kept], recs := recs } }
      dropRecs t
    else s
  | _, _ => s

/-- The lanes of the split in focus have come to a record's JPC (R44). -/
def reachRec (s : State) (r : Rec) : State :=
  updRec s r.id fun r => { r with
    arr := r.arr ||| s.sp.mask, held := assocSet r.held s.sp.num (heldBy r s.sp.num ||| s.sp.mask) }

/-- The split in focus goes on with a record's deferred lanes (R44). -/
def takePending (s : State) (r : Rec) : State :=
  let s := updRec s r.id fun r => { r with pend := 0 }
  { s with sp := { s.sp with mask := r.pend, pc := r.ppc, fmt := r.fmt, rnd := r.rnd, wait := none } }

/-- The split in focus parks on a record, and the record merges if it can (R44). -/
def parkOn (s : State) (r : Rec) : State :=
  tryMerge { s with sp := { s.sp with mask := r.arr, parked := some r.id, wait := none } } r.id

/-- A split reaches its top record's JPC (R44). DESIGN CHOICE (log 140): R44 and R51 do not say what becomes of a latch chain
that is open then; the model leaves it open in the split, through a change to the deferred lanes, the parking and the merge. -/
def joinHere (s : State) : State :=
  match topRec s with
  | none => s
  | some r =>
    if s.sp.pc = r.jpc then
      let s := reachRec s r
      let depth := s.sp.pred.length
      let trap := fun (c : BitVec 8) =>
        takeTrap s { cause := c, addr := BitVec.ofNat 64 depth, lanes := s.sp.mask } s.sp.chain.isSome s.sp.pc
      if r.pend ≠ 0 then takePending s r
      else if r.pdep < depth then trap 0x07
      else if depth < r.pdep then trap 0x08
      else parkOn s { r with arr := r.arr ||| s.sp.mask }
    else s

/-! ## Divergent branches (R43, R174) -/

/-- Two sets of lanes with the PCs they go to. -/
structure Paths where
  first : Word
  fpc : DWord
  second : Word
  spc : DWord
  deriving DecidableEq, Repr

/-- The order in which a mask-serial split runs its two sets (R43 case 3): a backward branch runs N first. -/
def serialOrder (back : Bool) (t n : Word) (target next : DWord) : Paths :=
  if back then { first := n, fpc := next, second := t, spc := target }
  else { first := t, fpc := target, second := n, spc := next }

/-- A split runs the first of two sets. -/
def runFirst (s : State) (p : Paths) : State := { s with sp := { s.sp with mask := p.first, pc := p.fpc } }

/-- The lowest split number that is free, if one is (R43). -/
def freeNumber (s : State) : Option Nat :=
  (List.range 4).find? fun n => !(liveSplits s).any fun p => p.num == n

/-- Case 1 of R43: the top record takes the second set. -/
def reuseRec (s : State) (r : Rec) (p : Paths) : State :=
  runFirst (updRec s r.id fun r => { r with pend := p.second, ppc := p.spc, pby := s.sp.num }) p

/-- Case 2 of R43: a new split takes N. -/
def newSplit (s : State) (num : Nat) (jpc : DWord) (t n : Word) (target next : DWord) : State :=
  let s := pushRec s jpc 0 0
  let child := { s.sp with num := num, mask := n, pc := next, wait := none, since := s.gt, arrival := none
                           request := none, event := none }
  { s with
    g := { s.g with others := s.g.others ++ [child] }
    sp := { s.sp with mask := t, pc := target } }

/-- Case 3 of R43. -/
def serialize (s : State) (jpc : DWord) (p : Paths) : State := runFirst (pushRec s jpc p.second p.spc) p

/-- A branch on which the lanes of the split divide (R43, R174), after the check of its target. -/
def diverge (s : State) (x : BrvArgs) (t n : Word) (target next : DWord) : Res :=
  let jpc := s.sp.pc + x.join.signExtend 64
  let paths := serialOrder x.off.msb t n target next
  match (topRec s).filter fun r => r.jpc == jpc && r.pend == 0 with
  | some r => .jump (reuseRec s r paths)
  | none =>
    if stackFull s then raiseActive s 0x09 16
    else
      match (if s.g.inHandler then none else freeNumber s) with
      | some num => .jump (newSplit s num jpc t n target next)
      | none => .jump (serialize s jpc paths)

/-- The taken set of a divergent branch (R174). -/
def takenSet (s : State) (x : BrvArgs) (inv : Bool) : Word :=
  s.sp.mask &&& s.sp.pred.headD 0 &&& (getM s x.m.toNat ^^^ (if inv then 0xFFFFFFFF else 0))

/-- `brv` and `brv.not` (R43, R174). -/
def divergent (i : Shape) (x : BrvArgs) (inv : Bool) (s : State) : Res :=
  let t := takenSet s x inv
  let n := s.sp.mask &&& ~~~t
  let target := s.sp.pc + x.off.signExtend 64
  let next := nextPc i s
  if t = 0 then .done s
  else if n = 0 then transferTo s target id
  else
    match checkTransfer s target with
    | .ok s => diverge s x t n target next
    | .fail tr s => .raise tr s
    | .hold s => .wait .mapping s

/-! ## Procedures (R175, R176) -/

/-- `call` (R175): the check of the target, then the record, which names the next instruction, beyond pads (R138). -/
def callTo (i : Shape) (target : DWord) (s : State) : Res :=
  let next := overPads s (nextPc i s)
  match checkTransfer s target with
  | .ok s =>
    if stackFull s then raiseActive s 0x09 16
    else
      let s := pushRec s next 0 0
      .jump { s with sp := { s.sp with pc := target } }
  | .fail tr s => .raise tr s
  | .hold s => .wait .mapping s

/-! ## `exit` (R45, R55, R178, R397) -/

/-- Takes lanes out of every record of the group in focus (R55). -/
def dropFromRecs (s : State) (e : Word) : State :=
  { s with g := { s.g with recs := s.g.recs.map fun r =>
      { r with exp := r.exp &&& ~~~e, arr := r.arr &&& ~~~e, pend := r.pend &&& ~~~e } } }

/-- A split without some lanes (R55). -/
def dropFromSplit (p : Split) (e : Word) : Split :=
  { p with mask := p.mask &&& ~~~e, pred := p.pred.map (· &&& ~~~e) }

/-- What a split does whose active lanes have all exited (R43, R45; log 21): lanes that it deferred go on, even if it was parked itself, or it
parks with lanes that it brought to a JPC, or it is freed. -/
def afterEmpty (fuel : Nat) (s : State) : State :=
  match fuel with
  | 0 => { s with sp := { s.sp with live := false } }
  | f + 1 =>
    match topRec s with
    | none => { s with sp := { s.sp with live := false } }
    | some r =>
      if r.pend ≠ 0 ∧ r.pby = s.sp.num then takePending { s with sp := { s.sp with parked := none } } r
      else if heldBy r s.sp.num &&& r.arr ≠ 0 then
        { s with sp := { s.sp with mask := r.arr, parked := some r.id, pc := r.jpc, pred := fitPred s.sp.pred r.pdep } }
      else afterEmpty f (popRec s)

/-- The same for a split of the group that is not in focus. -/
def emptyOther (s : State) (p : Split) : State :=
  let rest := s.g.others.filter fun q => q.num != p.num
  let cur := s.sp
  let t := afterEmpty 17 { s with sp := p, g := { s.g with others := if cur.live then rest ++ [cur] else rest } }
  { t with
    sp := cur
    g := { t.g with others := (t.g.others.filter fun q => q.num != cur.num) ++ (if t.sp.live then [t.sp] else []) } }

/-- The split in the handler, as it stood at the trap, if a record is on its stack: the lanes that it carried there merge with those of
the splits parked on it, and it keeps none of them (R44, R45; log 21). -/
def awayAt (s : State) (r : Rec) : List Split :=
  match s.g.shadow with
  | some h =>
    if s.g.inHandler && h.recon.contains r.id then
      [{ s.sp with num := s.g.tsplit.toNat, pred := fitPred h.pred r.pdep, recon := h.recon.dropWhile (· != r.id) }]
    else []
  | none => []

/-- Splits of the group in focus whose lanes have all exited, and merges that the exits make possible (R45). -/
def settleSplits (s : State) : State :=
  let s := (s.g.others.filter fun p => p.mask == 0).foldl emptyOther s
  let s := if s.sp.live && s.sp.mask == 0 then afterEmpty 17 s else s
  s.g.recs.foldl (fun s r => tryMerge s r.id (awayAt s r)) s

/-- Lanes of the split in focus exit (R45, R55), and the barriers that count exits count them (R256). -/
def exitLanes (s : State) (e : Word) (next : DWord) : State :=
  let s := { s with
    g := { s.g with exited := s.g.exited ||| e, others := s.g.others.map (dropFromSplit · e), lastExit := s.sp.pc }
    sp := { dropFromSplit s.sp e with pc := next } }
  let s := settleSplits (dropFromRecs s e)
  exitBarriers s s.g

/-- The lanes that exit are the last of the group. -/
def lastLanes (s : State) (e : Word) : Bool := s.g.launched &&& ~~~(s.g.exited ||| e) == 0

/-- What the `exit` of a group's last lane does first (R397): the group's contributions merge, so that a fault of theirs is not lost (R122,
R386); then the system fence over its posted writes, then one deferred fault, of which a failed posted write is the last. -/
def lastExitCheck (s : State) : Released :=
  let s := mergeGroup s s.g.id
  match (if pathsAcked s s.g.id then firstDeferred s.g.deferred else none) with
  | some (c, l) => raiseDeferred s c l
  | none => sysFence s

/-- `exit` (R178). -/
def exitBody (i : Shape) (s : State) : Res :=
  let e := s.exec
  let next := nextPc i s
  if e = 0 then .done s
  else if lastLanes s e then
    match lastExitCheck s with
    | .done s => .jump (exitLanes s e next)
    | .wait w s => .wait w s
    | .fail t s => .raise t s
  else .jump (exitLanes s e next)

/-! ## `spinfo` (R179) -/

/-- The state word. -/
def splitWord (s : State) : Word :=
  let serial := match topRec s with | some r => r.pend != 0 | none => false
  BitVec.ofNat 32 (s.sp.num + 4 * (liveSplits s).length + 32 * s.sp.pred.length + 512 * s.sp.recon.length +
    (if serial then 2 ^ 14 else 0) + (if s.sp.super then 2 ^ 15 else 0))

/-! ## The meanings -/

/-- `br` (R173). -/
def execBr (x : Args) (s : State) : Host.Outcome State Fault Refusal :=
  run (.br x) (fun s => transferTo s (branchTarget s x) id) s

/-- `brc` (R169, R173). -/
def execBrc (x : Args) (s : State) : Host.Outcome State Fault Refusal :=
  run (.brc x) (fun s =>
    if condHolds x.fn.toNat (scalar32 s x x.a) (scalar32 s x x.b) then transferTo s (branchTarget s x) id
    else .done s) s

/-- `brv` (R43, R174). -/
def execBrv (x : BrvArgs) (s : State) : Host.Outcome State Fault Refusal :=
  run (.brvIf x) (divergent (.brvIf x) x false) s

/-- `brv.not` (R43, R174). -/
def execBrvNot (x : BrvArgs) (s : State) : Host.Outcome State Fault Refusal :=
  run (.brvNot x) (divergent (.brvNot x) x true) s

/-- `jmp` (R173). -/
def execJmp (x : Args) (s : State) : Host.Outcome State Fault Refusal :=
  run (.jmp x) (fun s => transferTo s (pairOf s x.a) id) s

/-- `call target` (R175). -/
def execCall (x : Args) (s : State) : Host.Outcome State Fault Refusal :=
  run (.call x) (fun s => callTo (.call x) (branchTarget s x) s) s

/-- `call sd` (R175). -/
def execCallIndirect (x : Args) (s : State) : Host.Outcome State Fault Refusal :=
  run (.callIndirect x) (fun s => callTo (.callIndirect x) (pairOf s x.a) s) s

/-- `ret` (R175): a checked transfer to the top record's JPC. -/
def execRet (x : Args) (s : State) : Host.Outcome State Fault Refusal :=
  run (.ret x) (fun s =>
    match topRec s with
    | some r => transferTo s r.jpc id
    | none => raiseActive s 0x09 16) s

/-- `join` (R176): an unchecked transfer to the top record's JPC. -/
def execJoin (x : Args) (s : State) : Host.Outcome State Fault Refusal :=
  run (.join x) (fun s =>
    match topRec s with
    | some r => .jump { s with sp := { s.sp with pc := r.jpc } }
    | none => raiseActive s 0x09 16) s

/-- `loop` (R173). -/
def execLoop (x : Args) (s : State) : Host.Outcome State Fault Refusal :=
  run (.loop x) (fun s =>
    let v := getS s x.d.toNat - 1
    if v = 0 then .done (resultS s x.d.toNat v)
    else transferTo s (branchTarget s x) fun t => resultS t x.d.toNat v) s

/-- `pushp` (R48, R177). -/
def execPushp (x : Args) (s : State) : Host.Outcome State Fault Refusal :=
  run (.pushp x) (fun s =>
    if 8 ≤ s.sp.pred.length then raiseActive s 0x07 (BitVec.ofNat 64 s.sp.pred.length)
    else .done { s with sp := { s.sp with pred := (s.sp.pred.headD 0 &&& getM s (fieldNum x.a)) :: s.sp.pred } }) s

/-- `invp` (R48). -/
def execInvp (x : Args) (s : State) : Host.Outcome State Fault Refusal :=
  run (.invp x) (fun s =>
    match s.sp.pred with
    | top :: below :: rest => .done { s with sp := { s.sp with pred := (below &&& ~~~top) :: below :: rest } }
    | l => raiseActive s 0x08 (BitVec.ofNat 64 l.length)) s

/-- `popp` (R48). -/
def execPopp (x : Args) (s : State) : Host.Outcome State Fault Refusal :=
  run (.popp x) (fun s =>
    match s.sp.pred with
    | _ :: below :: rest => .done { s with sp := { s.sp with pred := below :: rest } }
    | l => raiseActive s 0x08 (BitVec.ofNat 64 l.length)) s

/-- `exit` (R178). -/
def execExit (x : Args) (s : State) : Host.Outcome State Fault Refusal :=
  run (.exit x) (exitBody (.exit x)) s

/-- A split at its top record's JPC (R44); elsewhere the event does not occur. -/
def execReconverge (s : State) : Host.Outcome State Fault Refusal := .next (joinHere s)

/-- `spinfo` with k = 0: the state word (R179). -/
def execSpinfoState (x : Args) (s : State) : Host.Outcome State Fault Refusal :=
  run (.spinfoState x) (fun s => .done (resultS s x.d.toNat (splitWord s))) s

/-- `spinfo` with k = 1: the active mask (R179). -/
def execSpinfoActive (x : Args) (s : State) : Host.Outcome State Fault Refusal :=
  run (.spinfoActive x) (fun s => .done (resultS s x.d.toNat s.sp.mask)) s

/-- `spinfo` with k = 2: the execution mask (R179). -/
def execSpinfoExec (x : Args) (s : State) : Host.Outcome State Fault Refusal :=
  run (.spinfoExec x) (fun s => .done (resultS s x.d.toNat s.exec)) s

/-- `yield` (R180): the split goes to the end of the round-robin order, where an issued split stands anyway. -/
def execYield (x : Args) (s : State) : Host.Outcome State Fault Refusal := run (.yield x) .done s

/-- `nop` (R180). -/
def execNop (x : Args) (s : State) : Host.Outcome State Fault Refusal := run (.nop x) .done s

/-- `brk` in Form B (R180). -/
def execBrk (x : Args) (s : State) : Host.Outcome State Fault Refusal :=
  run (.brk x) (fun s => raiseExec s 0x0B 0) s

/-- `brk code` (R180). -/
def execBrkCode (x : Args) (s : State) : Host.Outcome State Fault Refusal :=
  run (.brkCode x) (fun s => raiseExec s 0x0B (x.literal.setWidth 64)) s

end Sys2Proof.Machine
end

