-- ==== Sys2Proof/Machine/Formats.lean ====
section
/-! DEFINITION. Format codes and the format word of the matrix instructions (R68, R69). -/

namespace Sys2Proof.Machine

/-! ## Format codes (R68) -/

/-- Bits of an element of a format code; L6 counts as 8 (R236). -/
def fmtBits (code : Nat) : Nat :=
  match code with
  | 0 | 10 => 32
  | 1 | 2 => 16
  | 3 | 4 | 5 | 6 | 7 => 8
  | 12 => 128
  | _ => 64
/-- Bytes of an element of a format code. -/
def fmtBytes (code : Nat) : Nat := fmtBits code / 8
/-- A format code that R68 reserves. -/
def reservedFmt (n : Nat) : Bool := n == 8 || 13 ≤ n
/-- The type of a format code other than FX64 and FX128 (R68). -/
def fmtTy (code : Nat) : Ty :=
  match code with
  | 0 => .f32
  | 1 => .bf16
  | 2 => .f16
  | 3 => .e4m3
  | 4 => .e5m2
  | 5 => .l6
  | 6 => .i8
  | 7 => .n8
  | 9 => .f64
  | _ => .i32
/-- Whether a format may be block-scaled: E4M3, E5M2, I8 or L6 (R69, R103). -/
def fmtScalable (code : Nat) : Bool := [3, 4, 5, 6].contains code

/-! ## The format word (R68, R69) -/

/-- The fields of FMT (R68). -/
structure MFmt where
  a : Nat
  b : Nat
  acc : Nat
  abs : Bool
  bbs : Bool
  out : Nat
  anchor : BitVec 16
  deriving DecidableEq, Repr

/-- Reads FMT (R68). -/
def mfmt (v : Word) : MFmt :=
  { a := (v.extractLsb' 0 4).toNat, b := (v.extractLsb' 4 4).toNat, acc := (v.extractLsb' 8 2).toNat
    abs := v.getLsbD 10, bbs := v.getLsbD 11, out := (v.extractLsb' 12 4).toNat, anchor := v.extractLsb' 16 16 }

/-- The classes of R69. -/
inductive MClass where
  | half | fp8 | int | log
  deriving DecidableEq, Repr

/-- The class of FMT's operand formats, if R69 lists them. -/
def MFmt.class? (f : MFmt) : Option MClass :=
  if (f.a == 1 && f.b == 1) || (f.a == 2 && f.b == 2) then some .half
  else if (f.a == 3 || f.a == 4) && (f.b == 3 || f.b == 4) then some .fp8
  else if (f.a == 6 || f.a == 7) && (f.b == 6 || f.b == 7) then some .int
  else if f.a == 5 && f.b == 5 then some .log
  else none

/-- The ACC codes a class allows: 0 F32, 1 FX128, 2 F64 (R69). -/
def MClass.accs : MClass → List Nat
  | .half | .fp8 => [0, 1, 2]
  | .int => [1]
  | .log => [0, 1]

/-- The class of a combination that R69 lists. -/
def MFmt.legal (f : MFmt) : Option MClass :=
  match f.class? with
  | some c => if c.accs.contains f.acc && (!f.abs || fmtScalable f.a) && (!f.bbs || fmtScalable f.b) then some c else none
  | none => none

end Sys2Proof.Machine
end

