-- ==== Sys2Proof/Machine/Access.lean ====
section
/-! DEFINITION. Loads, stores, reductions and atomics of a group on global addresses: the checks of R228, held
accesses (R91), the side log (R92), peers and the host (R128, R129, R334, R336). An access is a list of
elements, each with its lane and its VA. -/

namespace Sys2Proof.Machine

/-! ## Elements and checks (R228) -/

/-- One element of an access: its lane and VA. -/
structure Elem where
  lane : Nat
  va : Nat
  deriving DecidableEq, Repr

/-- The elements of an access and how TLANES names some of them: by lane, or, for a scalar access, as the
execution mask. TADDR holds the lowest of their addresses or, with `first`, the first (R228, R241). With `list` an ADDRLIST record names the
others that fail (R241, R379). -/
structure Access where
  elems : List Elem
  size : Nat
  write : Bool
  scalar : Bool
  first : Bool := false
  list : Bool := false
  deriving DecidableEq, Repr

/-- What TLANES holds for some elements. -/
def Access.lanes (x : Access) (s : State) (l : List Elem) : Word :=
  if x.scalar then s.exec else maskOf fun k => l.any fun e => e.lane == k

/-- What the checks find for an element (R228): alignment first. -/
def seeElem (s : State) (x : Access) (e : Elem) : Seen :=
  if e.va % x.size ≠ 0 then .bad 0x10 else seeAddr s s.agent e.va x.write

/-- The first cause in the order of R228 that an element of an access fails with, and those elements. -/
def firstCause (s : State) (x : Access) : Option (BitVec 8 × List Elem) :=
  firstSome (fun c =>
    let l := x.elems.filter fun e => seeElem s x e == .bad c
    if l.isEmpty then none else some (c, l)) [0x10, 0x11, 0x12, 0x13, 0x14]

/-- Raises a cause over elements, TADDR the lowest VA among them (R228, R393), or the first (R241), after the record of the others, if there
is to be one (R379; log 20). -/
def raiseElems (s : State) (x : Access) (c : BitVec 8) (l : List Elem) : Res :=
  let vas := l.map fun e => e.va
  let taddr := if x.first then vas.headD 0 else lowest vas
  let s := if x.list then addrList s s.g c taddr (vas.foldl (fun a v => addOnce v a) []) else s
  raiseLanes s c (BitVec.ofNat 64 taddr) (x.lanes s l)

/-- The 64 KiB block of a VA. -/
def blockOf (va : Nat) : Nat := va % 2 ^ 57 / 65536

/-- The cause of an access that the MP declines to map (R91): 0x18 for a block of the block store that has been
freed, evicted or cannot be copied (R106, R263). -/
def declineCause (s : State) (va : Nat) : BitVec 8 :=
  if s.kv.freed.any (fun e => e.1 == s.asid && e.2 == blockOf va) ||
      s.kv.names.any (fun n => n.asid == s.asid && blockOf n.va.toNat == blockOf va) then 0x18 else 0x11

/-- Asks the MP for a page on behalf of logged stores: no group is held (R92). -/
def askFor (s : State) (page : Nat) : State :=
  if s.mem.asks.any fun a => a.asid == s.asid && a.page == page then s
  else { s with mem := { s.mem with
    asks := s.mem.asks ++ [{ asid := s.asid, page := page, gids := [], declined := [] }] } }

/-- Distinct pages of some elements. -/
def pagesOf (l : List Elem) : List Nat := l.foldl (fun a e => addOnce (pageOf e.va) a) []

/-- The port of an access of the group in focus to a far address (R333). -/
def myPort (s : State) (va : Nat) : Nat := farPort s s.g.id va

/-- Asks the port for a window grant (R334). -/
def askGrant (s : State) (va : Nat) : State :=
  let port := myPort s va
  let page := va % 2 ^ 54 / 4096
  let mine := fun (e : Asked) => e.port == port && e.asid == s.asid && e.page == page
  let l := if s.fab.asked.any mine then updateWhere mine (fun e => { e with gids := addOnce s.g.id e.gids }) s.fab.asked
    else s.fab.asked ++ [{ port := port, asid := s.asid, page := page, gids := [s.g.id] }]
  { s with fab := { s.fab with asked := l } }

/-- An element beyond the device that a port cannot reach, or whose port cannot be reached (R331, R335, R350, R416). -/
def unreachableBy (s : State) (port va : Nat) : Bool :=
  isFar va && (!portReached s s.tm.core port va || (placement va == 5 && s.fab.unreachable.contains (peerOf va)))

/-- The same by the port of the group's next access there. -/
def unreachable (s : State) (va : Nat) : Bool := unreachableBy s (myPort s va) va

/-- An access that waited for a window page, or for a reply over it, when its path was lost (R335). -/
def pathLost (s : State) (who va : Nat) : Bool := placement va == 5 && s.fab.lost.contains (who, va % 2 ^ 54 / 4096)

/-- Who has heard that its window pages are refused or lost has heard it once. -/
def heard (s : State) (who : Nat) : State :=
  { s with fab := { s.fab with
    refused := s.fab.refused.filter fun r => r.1 != who
    lost := s.fab.lost.filter fun r => r.1 != who } }

/-- A peer element whose port holds no grant (R334). -/
def needsGrant (s : State) (va : Nat) : Bool := placement va == 5 && (grantFor s (myPort s va) s.asid va).isNone

/-- The access table of the port of a far address denies the access (R385). -/
def portDenies (s : State) (write : Bool) (va : Nat) : Bool :=
  isFar va && !farPermits s (myPort s va) mkContext s.asid va write

/-- The port logs an access that it denies (R387). -/
def logPort (s : State) (write : Bool) (va : Nat) : State :=
  logAt s (farTarget (myPort s va) va) (farOffset va) mkContext s.asid write

/-- The port's question for an element was refused (R334). -/
def grantRefused (s : State) (va : Nat) : Bool := s.fab.refused.contains (s.g.id, va % 2 ^ 54 / 4096)

/-- A load of the group that is performed later names the sector of some bytes (R113). -/
def lateMeets (s : State) (va n : Nat) : Bool :=
  s.g.late.any fun y => !y.lcl && y.elems.any fun e =>
    decide (va / 32 ≤ (e.2 + y.ty.bits / 8 - 1) / 32) && decide (e.2 / 32 ≤ (va + n - 1) / 32)

/-- A write of the group to far bytes is on its way (R113, R129). -/
def farOut (s : State) (va n : Nat) : Bool :=
  isFar va && s.mem.flight.any fun f => f.gid == s.g.id && isFar f.va && decide (f.va < va + n) &&
    decide (va < f.va + f.bytes.length)

/-- Raises 0x11 over the elements whose pages the MP has declined or, where there are none, 0x18 over those it has declined as blocks
(R91, R106, R228). -/
def raiseGone (s : State) (x : Access) (gone : List Elem) : Res :=
  let s' := (pagesOf gone).foldl dropAsk s
  let plain := gone.filter fun e => declineCause s e.va == 0x11
  if plain.isEmpty then raiseElems s' x 0x18 gone else raiseElems s' x 0x11 plain

/-- The group's contribution to a line merges before another access of the group to that line (R113, R122). -/
def mergeOwn (s : State) (asid : BitVec 16) (line : Nat) : State :=
  (s.mem.ulines.filter fun u => u.asid == asid && u.line == line && u.gids.contains s.g.id).foldl mergeLine s

/-- The group's contributions to the lines that some elements name merge. -/
def mergeOwnAt (s : State) (l : List Elem) : State :=
  l.foldl (fun t e => match pageAttr s s.agent e.va with
    | some (p, _, _) => mergeOwn t (pteAsid p) (lineOf e.va)
    | none => t) s

/-- A load, or an atomic, goes on in `k` once every element may be performed (R91, R92, R112, R113, R122, R129, R228, R334, R386), the
group's own contributions merged: until then it waits, or raises a cause with no effect. An unreachable destination is raised before a
refused grant (DESIGN CHOICE: R129 gives no order; log 140). -/
def whenReady (s : State) (x : Access) (k : State → Res) : Res :=
  match firstCause s x with
  | some (c, l) => raiseElems s x c l
  | none =>
    let miss := x.elems.filter fun e => seeElem s x e == .miss
    let gone := miss.filter fun e => declinedFor s (pageOf e.va)
    let lost := x.elems.filter fun e => unreachable s e.va || pathLost s s.g.id e.va
    let shut := x.elems.filter fun e => portDenies s x.write e.va
    let ask := x.elems.filter fun e => needsGrant s e.va
    let refused := ask.filter fun e => grantRefused s e.va
    let denied := x.elems.filter fun e => destDenies s s.asid e.va x.write
    let near := x.elems.filter fun e => !isFar e.va
    if !gone.isEmpty then raiseGone s x gone
    else
      if !lost.isEmpty then raiseElems (heard s s.g.id) x 0x14 lost
      else if !shut.isEmpty then raiseElems (shut.foldl (fun s e => logPort s x.write e.va) s) x 0x13 shut
      else if !refused.isEmpty then raiseElems (heard s s.g.id) x 0x11 refused
      else if ask.isEmpty && !denied.isEmpty then raiseElems s x 0x13 denied
      else if !miss.isEmpty then .wait .mapping ((pagesOf miss).foldl askPage s)
      else if !ask.isEmpty then .wait .mapping (ask.foldl (fun s e => askGrant s e.va) s)
      else if near.any fun e => s.mem.side.any fun i => i.page == pageOf e.va && (i.asid == s.asid || i.asid == 0) then
        .wait .mapping s
      else
        let m := mergeOwnAt s near
        if near.any fun e => match pageAttr s s.agent e.va with
            | some (p, _, _) => ownWriteBusy m m.g m.tm.core p e.va x.size
            | none => false then .wait .l2Store m
        else if x.elems.any fun e => farOut s e.va x.size || lateMeets s e.va x.size then .wait .l2Store m
        else k (near.foldl (fun s e => fillPac s s.agent e.va) m)

/-! ## Loads -/

/-- What a unit tells of a byte's poison, if it gives the byte (R405). -/
def heldSick (cs : List CLine) (gt unit : Nat) (asid : BitVec 16) (line off : Nat) : Option Bool :=
  (heldLine cs unit asid line).bind fun c => (heldByte c gt off).map fun _ => c.sick.contains (off / 32)

/-- The bytes a core reads of a page come poisoned (R229, R405): each from the cache that gives it, or from the home. -/
def readsSick (s : State) (core : Nat) (p : Quad) (va n : Nat) : Bool :=
  let asid := pteAsid p
  let line := lineOf va
  (List.range n).any fun i =>
    let top := if cacheable p then heldSick s.mem.l1 s.gt core asid line (va % 128 + i) else none
    let mid := if cacheable p then heldSick s.mem.cc s.gt (clusterOf core) asid line (va % 128 + i) else none
    (top.orElse fun _ => mid).getD (poisonedAt s.mem (physOf p va + i) 1)

/-- A poisoned sector of a line keeps it out of L1 (R229, R405). -/
def lineSick (s : State) (core : Nat) (p : Quad) (va : Nat) : Bool :=
  poisonedAt s.mem (physOf p (vaOfLine (lineOf va))) 128 ||
    (heldLine s.mem.cc (clusterOf core) (pteAsid p) (lineOf va)).any fun c => !c.sick.isEmpty

/-- Reads the bytes of an element that may be performed, and tells whether they came poisoned (R109, R229, R332,
R336). A line with a poisoned sector is not kept. -/
def readElem (s : State) (va n : Nat) (keep : Bool) : State × List Byte × Bool :=
  if isFar va then (s, farBytes s (myPort s va) s.asid va n, false)
  else
    match pageAttr s s.agent va with
    | none => (s, List.replicate n 0, false)
    | some (p, _, _) =>
      let core := s.tm.core
      let r := coreRead s core p va n (keep && !lineSick s core p va)
      (r.1, r.2, readsSick s core p va n)

/-- Reads every element of an access in lane order: lane, bytes, poisoned. -/
def readAll (s : State) (l : List Elem) (n : Nat) (keep : Bool) : State × List (Elem × List Byte × Bool) :=
  l.foldl (fun acc e =>
    let r := readElem acc.1 e.va n keep
    (r.1, acc.2 ++ [(e, r.2.1, r.2.2)])) (s, [])

/-- Reads every element of an access, or tells how the load ends without a value. -/
def tryLoad (s : State) (x : Access) (keep : Bool) : Except Res (State × List (Elem × List Byte × Bool)) :=
  match whenReady s x fun t => .done t with
  | .done t => .ok (readAll t x.elems x.size keep)
  | r => .error r

/-- How a meaning ends that may have ended in one of its loads. -/
def endOf : Except Res Res → Res
  | .ok r => r
  | .error r => r

/-- Raises 0x15 over the elements that came poisoned (R229, R393). -/
def raisePoison (s : State) (x : Access) (l : List (Elem × List Byte × Bool)) : Res :=
  raiseElems s x 0x15 ((l.filter fun e => e.2.2).map Prod.fst)

/-- Reads `n` bytes from a VA on, piece by piece of 8 bytes, as a load of one scalar access does. -/
def blockAccess (va n : Nat) : Access :=
  { elems := (List.range (n / 8)).map fun k => { lane := 0, va := (va + 8 * k) % 2 ^ 64 }
    size := 8, write := false, scalar := true }

/-- The 64-bit values of a block that has been read. -/
def blockValues (l : List (Elem × List Byte × Bool)) : List DWord := l.map fun e => BitVec.ofNat 64 (ofBytes e.2.1)

/-! ## Stores -/

/-- A store of one element: lane, VA, bytes, whether the data are poisoned (R402), and false for evict-first (R150). -/
structure Put where
  lane : Nat
  va : Nat
  bytes : List Byte
  poison : Bool
  keep : Bool := true
  deriving DecidableEq, Repr

/-- The element of a store. -/
def Put.elem (p : Put) : Elem := { lane := p.lane, va := p.va }

/-- Lanes that name one address: the highest-numbered one writes (R232). -/
def lastWriters (l : List Put) : List Put :=
  l.filter fun p => !(l.any fun q => q.va == p.va && decide (p.lane < q.lane))

/-- Elements that follow one another within a 32-byte sector become one write (R232). -/
def joinPuts (l : List Put) : List Put :=
  (sortBy (fun (p : Put) => p.va) l).foldl (fun acc p =>
    match acc.getLast? with
    | some q =>
      if q.va + q.bytes.length = p.va ∧ q.va / 32 = p.va / 32 ∧ q.poison = p.poison then
        acc.dropLast ++ [{ q with bytes := q.bytes ++ p.bytes }]
      else acc ++ [p]
    | none => [p]) []

/-- Earlier stores to a line that the core's L1, or its cluster's cache, took arrive before the core's reductions and atomics there: its
loads may have seen them (R112, R113). -/
def arriveOwn (s : State) (p : Quad) (line : Nat) : State :=
  let cl := clusterOf s.tm.core
  (s.mem.flight.filter fun f => f.asid == pteAsid p && lineOf f.va == line && !isFar f.va &&
    (f.core == s.tm.core || (clusterOf f.core == cl && hasCache s cl && cacheable p))).foldl storeArrive s

/-- Sends one write of the group in focus to where its VA leads. -/
def putOne (s : State) (p : Put) : State :=
  if isFar p.va then sendStore s s.g.id s.tm.core s.asid none p.va p.bytes none p.poison p.keep
  else
    match pageAttr s s.agent p.va with
    | none => s
    | some (e, _, _) =>
      let s := mergeOwn (fillPac s s.agent p.va) (pteAsid e) (lineOf p.va)
      sendStore s s.g.id s.tm.core s.asid (some e) p.va p.bytes none p.poison p.keep

/-- Whether an element goes to the side log (R92): no translation, or its group has entries for the page. -/
def goesToLog (s : State) (x : Access) (e : Elem) : Bool :=
  seeElem s x e == .miss || sidePending s.mem s.g.id (pageOf e.va)

/-- Puts an instruction's elements for one page into the side log, and asks for the page (R92). -/
def logPage (s : State) (red : Option (BitVec 3 × Ty)) (l : List Put) (page : Nat) : State :=
  let mine := l.filter fun p => pageOf p.va == page
  let e : SideEntry :=
    { core := s.tm.core, gid := s.g.id, asid := s.asid, super := s.sp.super, page := page, red := red
      keep := mine.all fun p => p.keep
      sick := (mine.filter fun p => p.poison).map fun p => p.va
      elems := mine.map fun p => (p.va, p.bytes) }
  askFor { s with mem := { s.mem with side := s.mem.side ++ [e] } } page

/-- The free entries of the core's side log, which holds 64 (R92). -/
def sideRoom (s : State) : Nat := 64 - (s.mem.side.filter fun e => e.core == s.tm.core).length

/-- A store or reduction of the group in focus (R92, R228): the checks of every lane; of those `last` keeps, the elements without a
translation go into the side log, and `send` takes the others; then `k`. With `list` a fault is recorded as R241 says. -/
def storeWith (s : State) (l : List Put) (n : Nat) (scalar : Bool) (red : Option (BitVec 3 × Ty)) (last : List Put → List Put)
    (send : State → List Put → State) (k : State → Res) (list : Bool := false) : Res :=
  let x : Access := { elems := l.map Put.elem, size := n, write := true, scalar := scalar, list := list }
  match firstCause s x with
  | some (c, bad) => raiseElems s x c bad
  | none =>
    let l := last l
    let log := l.filter fun p => goesToLog s x p.elem
    let direct := l.filter fun p => !goesToLog s x p.elem
    let pages := pagesOf (log.map Put.elem)
    if l.any fun p => lateMeets s p.va n then .wait .l2Store s
    else if sideRoom s < pages.length then .wait .sideLog (pages.foldl askFor s)
    else k (send (pages.foldl (fun s g => logPage s red log g) s) direct)

/-- A plain store (R231, R232). -/
def storeElems (s : State) (l : List Put) (n : Nat) (scalar : Bool) (k : State → Res) : Res :=
  storeWith s l n scalar none lastWriters (fun s d => (joinPuts d).foldl putOne s) k

/-! ## Reductions (R122, R238) -/

/-- One lane of `red` on an address that may be reached: into the update-only line; at once at the home of an L2-only page, whose lines L1
never holds (log 22), and for the line of a ring's header, which the MP reads (log 178); posted to a peer or the host (R128). -/
def reduceOne (op : BitVec 3) (t : Ty) (s : State) (p : Put) : State :=
  if isFar p.va then sendStore s s.g.id s.tm.core s.asid none p.va p.bytes (some (op, t)) false true
  else
    match pageAttr s s.agent p.va with
    | none => s
    | some (e, _, _) =>
      let s := arriveOwn (fillPac s s.agent p.va) e (lineOf p.va)
      let s := reduceInto s s.tm.core s.g.id (pteAsid e) (lineOf p.va) (p.va % 128) op.toNat t (ofBytes p.bytes)
      if pteL2Only e || headLine s (pteAsid e) (lineOf p.va) then recallLine s (pteAsid e) (lineOf p.va) else s

/-- A reduction of elements, lane by lane (R239). -/
def reduceElems (s : State) (op : BitVec 3) (t : Ty) (l : List Put) (scalar : Bool) (k : State → Res) : Res :=
  storeWith s l (t.bits / 8) scalar (some (op, t)) id (fun s d => d.foldl (reduceOne op t) s) k

/-! ## Atomics (R124, R239) -/

/-- What an atomic writes, of the value it reads: `none` if it writes nothing. -/
structure AtomOp where
  cas : Bool
  xchg : Bool
  op : BitVec 3
  ty : Ty
  deriving DecidableEq, Repr

/-- The new value of an atomic lane: of the memory value, the compared value d and the operand c (R239). -/
def AtomOp.value (a : AtomOp) (m d c : Nat) : Option Nat :=
  if a.cas then (if m = d then some c else none)
  else if a.xchg then some c
  else some (reduceOp a.op.toNat a.ty m c).1

/-- One lane of an atomic at its home (R124): the value it reads, and the state with its write, which L1 and the cluster cache take as
a store (R112); one that writes nothing has a W of its own too, and reads the granule for its launch (R389). -/
def atomOne (s : State) (a : AtomOp) (va d c : Nat) : State × Nat × Nat :=
  let n := a.ty.bits / 8
  match pageAttr s s.agent va with
  | none => (s, 0, s.gt)
  | some (p, _, _) =>
    let s := arriveOwn s p (lineOf va)
    let s := recallLine s (pteAsid p) (lineOf va)
    let ph := physOf p va
    let m := ofBytes (latestBytes s.mem ph n)
    match a.value m d c with
    | none =>
      let s := touchGranule s s.launch.id (pteAsid p) (granuleOf va)
      let h := homeLine s.mem (pteAsid p) (lineOf va)
      let w := completionTime h s.gt
      (noteW { s with mem := setHomeLine s.mem { h with wlast := some w } } s.g.id w, m, w)
    | some v =>
      let cells := ((List.range n).zip (toBytes n v)).map fun b => (ph + b.1, b.2)
      let r := launchWrite s (some s.launch.id) (pteAsid p) (lineOf va) cells
      (pinBoth (noteW r.1 s.g.id r.2) true s.tm.core p va (toBytes n v) 0 (some r.2), m, r.2)

end Sys2Proof.Machine
end

