-- ==== Sys2Proof/Machine/Scratch.lean ====
section
/-! DEFINITION. Scratchpad (R97, R118, R234), the range-overlap scoreboard (R101) and FIFO banks (R245, R246). -/

namespace Sys2Proof.Machine

/-! ## Scratchpad addresses (R97) -/

/-- The MEM field of a scratchpad address. -/
def lclMem (a : Nat) : Nat := bitsOf a 27 24
/-- The G bit of a scratchpad address. -/
def lclG (a : Nat) : Bool := bitsOf a 28 28 == 1
/-- The OFF field of a scratchpad address. -/
def lclOff (a : Nat) : Nat := bitsOf a 23 0

/-- The team whose allocation a scratchpad address of a team names: its own, or a member's of its gang. -/
def lclTeamOf (s : State) (tid a : Nat) : Option Nat :=
  if lclG a then
    let t := findTeam s tid
    ((allTeams s).find? fun y => y.gang == t.gang && y.member == lclMem a && !y.freed).map fun y => y.id
  else if lclMem a = 0 then some tid else none

/-- Whether `size` bytes at a scratchpad address of a team may be accessed (R97). DESIGN CHOICE: where LDS is no multiple of 16 KiB the
range ends at the launch's LDS bytes, not at the end of the last granule (log 140). -/
def lclInRange (s : State) (tid a size : Nat) : Bool :=
  bitsOf a 31 29 == 0 && match lclTeamOf s tid a with
    | some k => decide (lclOff a + size ≤ (findTeam s k).lds)
    | none => false

/-- The bank that holds a byte of a team's allocation. -/
def lclBank (t : Team) (off : Nat) : Nat := (t.granules.getD (off / 16384) (0, 0)).1

/-- Whether the banks of a span are in scratchpad role (R96). -/
def lclRole (s : State) (tid a size : Nat) : Bool :=
  match lclTeamOf s tid a with
  | none => false
  | some k =>
    let t := findTeam s k
    let first := lclOff a / 16384
    (List.range ((lclOff a + size - 1) / 16384 + 1 - first)).all fun g =>
      s.eng.banks.any fun b => b.cluster == clusterOf t.core && b.bank == lclBank t (16384 * (first + g)) && b.role == .scratch

/-- Reads bytes of a scratchpad address of a team. -/
def lclRead (s : State) (tid a n : Nat) : List Byte :=
  match lclTeamOf s tid a with
  | some k => peekAll (findTeam s k).lcl (lclOff a) n
  | none => List.replicate n 0

/-- Whether bytes of a scratchpad address lie in a poisoned sector (R405). -/
def lclPoisoned (s : State) (tid a n : Nat) : Bool :=
  match lclTeamOf s tid a with
  | some k => (findTeam s k).lclPoison.any fun p => decide (lclOff a / 32 ≤ p) && decide (p ≤ (lclOff a + n - 1) / 32)
  | none => false

/-- The address of the first poisoned element of a span of the team's scratchpad, of elements of `size` bytes (R229, R393). -/
def poisonedElem (s : State) (a n size : Nat) : Option Nat :=
  ((List.range (n / size)).map fun k => a + size * k).find? fun e => lclPoisoned s s.tm.id e size

/-- The poisoned sectors of a scratchpad after bytes are written at an offset: a sector written whole is poisoned no more
(log 15), and poisoned data mark their sector (R402). -/
def lclSick (l : List Nat) (o n : Nat) (poison : Bool) : List Nat :=
  let left := l.filter fun p => !(decide (o ≤ 32 * p) && decide (32 * p + 32 ≤ o + n))
  if poison then addOnce (o / 32) left else left

/-- Writes bytes at a scratchpad address of a team. -/
def lclWrite (s : State) (tid a : Nat) (bs : List Byte) (poison : Bool) : State :=
  match lclTeamOf s tid a with
  | none => s
  | some k => updTeam s k fun t =>
    { t with lcl := pokeAll t.lcl (lclOff a) bs, lclPoison := lclSick t.lclPoison (lclOff a) bs.length poison }

/-- Replaces what a team's pre-emption has saved. -/
def updImage (s : State) (tid : Nat) (f : TeamImage → TeamImage) : State :=
  updTeam s tid fun t => { t with image := t.image.map f }

/-- An engine writes bytes at a scratchpad address of a team, and so into what the team's pre-emption has saved
(R249). -/
def engineLcl (s : State) (tid a : Nat) (bs : List Byte) : State :=
  match lclTeamOf s tid a with
  | none => s
  | some k => updImage (lclWrite s tid a bs false) k fun m =>
    { m with lcl := pokeAll m.lcl (lclOff a) bs, lclPoison := lclSick m.lclPoison (lclOff a) bs.length false }

/-! ## The range-overlap scoreboard (R101) -/

/-- Whether two ranges touch, spans in 64-byte granules, and one of them is written. -/
def rangesMeet : Range → Range → Bool
  | .lcl t lo hi w, .lcl t' lo' hi' w' =>
    t == t' && decide (lo / 64 < ceilDiv hi' 64) && decide (lo' / 64 < ceilDiv hi 64) && (w || w')
  | .slots t m w, .slots t' m' w' => t == t' && m &&& m' != 0 && (w || w')
  | _, _ => false

/-- Whether ranges overlap those of a command or tile operation outstanding on the core in focus. -/
def overlapped (s : State) (rs : List Range) : Bool :=
  s.eng.overlaps.any fun o => o.core == s.tm.core && o.ranges.any fun r => rs.any (rangesMeet r)

/-- A fill or a drain of a slot or tile begins, whose scratchpad ranges are tracked until it ends (R280). -/
def trackMove (s : State) (name : Nat) (ranges : List Range) : State :=
  { s with eng := { s.eng with overlaps := s.eng.overlaps ++
    [{ core := s.tm.core, cmd := 0, ranges := ranges, mover := some (s.g.id, s.tm.id, name) }] } }

/-- A fill or a drain of a team has ended. -/
def endMove (s : State) (tid name : Nat) : State :=
  { s with eng := { s.eng with overlaps := s.eng.overlaps.filter fun o =>
    !(o.mover.any fun m => m.2.1 == tid && m.2.2 == name) } }

/-- The range of `n` bytes at a scratchpad address. -/
def lclRange (s : State) (a n : Nat) (write : Bool) : List Range :=
  match lclTeamOf s s.tm.id a with
  | some k => [.lcl k (lclOff a) (lclOff a + n) write]
  | none => []

/-- The spans a local vector access names, one for each allocation: from its lowest to its highest byte. -/
def lclSpans (s : State) (as : List Nat) (n : Nat) (write : Bool) : List Range :=
  let teams := as.foldl (fun l a => match lclTeamOf s s.tm.id a with | some k => addOnce k l | none => l) []
  teams.map fun k =>
    let offs := (as.filter fun a => lclTeamOf s s.tm.id a == some k).map lclOff
    .lcl k (lowest offs) (offs.foldl max 0 + n) write

/-! ## Local accesses (R234) -/

/-- Elements of a local access: lane and scratchpad address. -/
def lclElems (s : State) (x : Args) : List (Nat × Nat) :=
  (activeLanes s).map fun l => (l, (vec32 s x x.a l + (scalar32 s x x.b).toNat) % 2 ^ 32)

/-- The lanes of some elements. -/
def lanesNamed (l : List (Nat × Nat)) : Word := maskOf fun k => l.any fun e => e.1 == k

/-- A load of the group from scratchpad that is performed later reads bytes from an address on (R118). -/
def lateLocal (s : State) (a n : Nat) : Bool :=
  s.g.late.any fun y => y.lcl && y.elems.any fun e =>
    lclTeamOf s s.tm.id e.2 == lclTeamOf s s.tm.id a && decide (lclOff e.2 < lclOff a + n) &&
      decide (lclOff a < lclOff e.2 + y.ty.bits / 8)

/-- A local access goes on in `k` if every element passes the checks in their order and no outstanding command
overlaps it (R101, R234), nor a load of the group that is performed later (R118). -/
def lclChecked (s : State) (l : List (Nat × Nat)) (n : Nat) (write : Bool) (k : State → Res) : Res :=
  let raise := fun (c : BitVec 8) (bad : List (Nat × Nat)) =>
    raiseLanes s c (BitVec.ofNat 64 (lowest (bad.map Prod.snd))) (lanesNamed bad)
  let skew := l.filter fun e => e.2 % n != 0
  let out := l.filter fun e => !lclInRange s s.tm.id e.2 n
  let role := l.filter fun e => !lclRole s s.tm.id e.2 n
  if !skew.isEmpty then raise 0x10 skew
  else if !out.isEmpty then raise 0x16 out
  else if !role.isEmpty then raise 0x16 role
  else if overlapped s (lclSpans s (l.map Prod.snd) n write) || l.any fun e => lateLocal s e.2 n then .wait .overlap s
  else k s

/-- A scalar operand of a scratchpad region: bounds and role, TLANES as the execution mask (R97, R234). -/
def lclRegion (s : State) (a align n : Nat) (ranges : List Range) (k : State → Res) : Res :=
  if a % align ≠ 0 then raiseExec s 0x10 (BitVec.ofNat 64 a)
  else if !lclInRange s s.tm.id a n then raiseExec s 0x16 (BitVec.ofNat 64 a)
  else if 0 < n ∧ !lclRole s s.tm.id a n then raiseExec s 0x16 (BitVec.ofNat 64 a)
  else if overlapped s ranges || lateLocal s a n then .wait .overlap s
  else k s

/-! ## FIFO banks (R245, R246) -/

/-- The bank of a cluster. -/
def findBank (s : State) (cluster bank : Nat) : Option Bank :=
  s.eng.banks.find? fun b => b.cluster == cluster && b.bank == bank
/-- Replaces a bank. -/
def updBank (s : State) (cluster bank : Nat) (f : Bank → Bank) : State :=
  { s with eng := { s.eng with banks := updateWhere (fun b => b.cluster == cluster && b.bank == bank) f s.eng.banks } }

/-- A FIFO instruction on a bank in FIFO role goes on in `k` with its entries (R245). -/
def withFifo (s : State) (bank : Nat) (k : Bank → Res) : Res :=
  match findBank s (clusterOf s.tm.core) bank with
  | some b => if b.role = .fifo then k b else raiseExec s 0x16 (BitVec.ofNat 64 bank)
  | none => raiseExec s 0x16 (BitVec.ofNat 64 bank)

/-- The entries a FIFO bank holds at most (R94). -/
def fifoDepth : Nat := 2048

/-- Writes a status register, where the form has one. -/
def statusTo (s : State) (d : Option Nat) (v : Word) : State :=
  match d with
  | some n => setS s n v
  | none => s

/-- A push (R246): the release, then the entry. `dest` is the status register of the `.try` form, which under an empty execution mask is
left as it is (log 193). -/
def pushFifo (s : State) (x : Args) (dest : Option Nat) : Res :=
  if s.exec = 0 then .done s
  else
    let n := (scalar32 s x x.a).toNat
    withFifo s n fun b =>
      if fifoDepth ≤ b.fifo.length then
        match dest with
        | some d => .done (resultS s d 1)
        | none => .wait (.fifo n) s
      else
        withRelease s 2 fun s =>
          let entry := (List.range 32).map fun l =>
            if s.exec.getLsbD l then BitVec.ofNat 32 (vec32 s x x.b l) else 0
          let t := updBank s b.cluster n fun b => { b with fifo := b.fifo ++ [entry], last := s.gt }
          .done (match dest with | some d => resultS t d 0 | none => t)

/-- Marks a register lane poisoned whose data came from no address (R229, R405; log 173). -/
def markFree (s : State) (cell : Nat) : State := markPoison (drawFresh s).1 cell (Config.poisonFrom s.fresh)

/-- Marks the lanes that a FIFO entry brought from its poisoned sectors (R229, R405). -/
def markEntry (s : State) (x : Args) (sick : List Nat) : State :=
  if x.sup then s
  else (activeLanes s).foldl (fun s l => if sick.contains (l / 8) then markFree s (32 * x.d.toNat + l) else s) s

/-- A pop (R246): the oldest entry, then the acquire, before which the group's earlier loads are performed (R115); an empty execution mask
as for a push (log 193). -/
def popFifo (s : State) (x : Args) (dest : Option Nat) : Res :=
  if s.exec = 0 then .done s
  else
    let n := (scalar32 s x x.a).toNat
    withFifo s n fun b =>
      match b.fifo with
      | [] =>
        match dest with
        | some d => .done (resultS s d 1)
        | none => .wait (.fifo n) s
      | e :: rest =>
        if !s.g.late.isEmpty then .wait .fence s
        else
          let t := acquire (updBank s b.cluster n fun b => { b with
            fifo := rest, sick := (b.sick.filter fun k => decide (4 ≤ k)).map fun k => k - 4, last := s.gt }) 2
          .done (statusTo (markEntry (writeVec t x 32 fun l => (e.getD l 0).toNat) x b.sick) dest 0)

end Sys2Proof.Machine
end

