-- ==== Sys2Proof/Machine/Tensor.lean ====
section
/-! DEFINITION. Tensor records and handles (R102 to R104, R429), and the walks over dense and sparse dimensions
(R236, R289). -/

namespace Sys2Proof.Machine

/-! ## Records (R102, R103, R243) -/

/-- Element `i` of width `w` of a field of a word. -/
def fieldsOf (x : Word) (lo w n : Nat) : List (BitVec w) :=
  (List.range n).map fun i => x.extractLsb' (lo + w * i) w

/-- The 64-bit value at byte offset `4 * k` of a record's words. -/
def wordPair (ws : List Word) (k : Nat) : DWord := ws.getD (k + 1) 0 ++ ws.getD k 0

/-- The fields of a tensor record from its 32 words (R102). -/
def parseTensor (ws : List Word) : TRec :=
  let w := fun (k : Nat) => ws.getD k 0
  { efmt := (w 0).extractLsb' 0 4, bs := (w 0).getLsbD 4, rank := ((w 0).extractLsb' 5 3).toNat
    kind := fieldsOf (w 0) 8 2 5, scr := (w 0).getLsbD 18, fill := w 1, base := wordPair ws 2
    dim := (List.range 5).map fun i => w (4 + i), border := fieldsOf (w 9) 0 2 5
    stride := (List.range 5).map fun i => wordPair ws (10 + 2 * i), sidecar := wordPair ws 20, budget := w 22
    lvl := (List.range 4).map fun i => wordPair ws (24 + 2 * i) }

/-- The sum of fields shifted to their places. -/
def packFields {w : Nat} (l : List (BitVec w)) : Nat := l.foldr (fun x a => x.toNat + 2 ^ w * a) 0

/-- The 32 words of a tensor record (R102, R243). -/
def tensorWords (h : TRec) : List Word :=
  let head : Nat := h.efmt.toNat + 16 * h.bs.toNat + 32 * h.rank + 2 ^ 8 * packFields h.kind +
    2 ^ 18 * h.scr.toNat + 2 ^ 24
  [BitVec.ofNat 32 head, h.fill] ++ wordsOf h.base ++ h.dim ++ [BitVec.ofNat 32 (packFields h.border)] ++
    h.stride.flatMap wordsOf ++ wordsOf h.sidecar ++ [h.budget, 0] ++ h.lvl.flatMap wordsOf

/-- KIND of dimension d. -/
def TRec.kindOf (h : TRec) (d : Nat) : Nat := (h.kind.getD d 0).toNat
/-- The extent of dimension d. -/
def TRec.dimOf (h : TRec) (d : Nat) : Nat := (h.dim.getD d 0).toNat
/-- Bytes of an element. -/
def TRec.size (h : TRec) : Nat := fmtBytes h.efmt.toNat
/-- Whether every dimension is dense. -/
def TRec.dense (h : TRec) : Bool := (List.range h.rank).all fun d => h.kindOf d == 0
/-- The number of dimensions that are not dense. -/
def TRec.sparse (h : TRec) : Nat := ((List.range h.rank).filter fun d => h.kindOf d != 0).length

/-- The checks of R103 on a record's words. -/
def tensorOk (ws : List Word) : Bool :=
  let h := parseTensor ws
  let w := fun (k : Nat) => ws.getD k 0
  (w 0).extractLsb' 24 8 == 1 && decide (1 ≤ h.rank ∧ h.rank ≤ 5) &&
    !h.kind.contains 3 && !h.border.contains 3 && !reservedFmt h.efmt.toNat &&
    decide (h.sparse ≤ if h.bs then 3 else 4) && (!h.bs || fmtScalable h.efmt.toNat) &&
    (w 0).extractLsb' 19 5 == 0 && (w 9).extractLsb' 10 22 == 0 && w 23 == 0 &&
    (List.range 5).all fun d => if d < h.rank then h.dimOf d != 0 else h.dimOf d == 0

/-- The handle of a number of the team in focus. -/
def handleAt (s : State) (n : Nat) : Option TRec := s.tm.handles.getD n none
/-- Puts a record into a handle. -/
def setHandle (s : State) (n : Nat) (h : TRec) : State :=
  { s with tm := { s.tm with handles := updateAt s.tm.handles n fun _ => some h } }

/-- A meaning that names a handle: an empty one raises 0x17 (R103, R393). -/
def withHandle (s : State) (f : Src) (k : TRec → Res) : Res :=
  match handleAt s (fieldNum f) with
  | some h => k h
  | none => raiseExec s 0x17 (BitVec.ofNat 64 (fieldNum f))

/-- Raises 0x17 for a handle (R393). -/
def raiseHandle (s : State) (f : Src) : Res := raiseExec s 0x17 (BitVec.ofNat 64 (fieldNum f))

/-! ## Coordinates and borders (R104) -/

/-- The coordinate a read uses in a dimension of extent n; none for FILL (R104). -/
def borderOf (mode : BitVec 2) (n : Nat) (c : Int) : Option Nat :=
  if 0 ≤ c ∧ c < n then some c.toNat
  else
    match mode.toNat with
    | 1 =>
      let t := (c % (2 * n : Nat)).toNat
      some (if t < n then t else 2 * n - 1 - t)
    | 2 =>
      if n = 1 then some 0
      else
        let t := (c % (2 * n - 2 : Nat)).toNat
        some (if t < n then t else 2 * n - 2 - t)
    | _ => none

/-- Whether coordinates lie within the bounds. -/
def inBounds (h : TRec) (cs : List Int) : Bool :=
  (List.range h.rank).all fun d => decide (0 ≤ cs.getD d 0 ∧ cs.getD d 0 < h.dimOf d)

/-- The coordinates a read uses, none if the element reads as FILL (R104). -/
def resolve (h : TRec) (cs : List Int) : Option (List Nat) :=
  (List.range h.rank).mapM fun d =>
    borderOf (if h.kindOf d = 0 then h.border.getD d 0 else 0) (h.dimOf d) (cs.getD d 0)

/-- The VA of a dense element (R102). -/
def denseVa (h : TRec) (cs : List Nat) : Nat :=
  ((List.range h.rank).foldl (fun (a : DWord) d => a + BitVec.ofNat 64 (cs.getD d 0) * h.stride.getD d 0)
    h.base).toNat

/-- The VA that coordinates inside or outside the bounds give (R102, R104). -/
def affineVa (h : TRec) (cs : List Int) : Nat :=
  ((List.range h.rank).foldl (fun (a : DWord) d => a + BitVec.ofInt 64 (cs.getD d 0) * h.stride.getD d 0) h.base).toNat

/-- The bytes from the base of a dense tensor to the end of its last element (R102). -/
def tensorSpan (h : TRec) : Nat :=
  (List.range h.rank).foldl (fun n d => n + (h.dimOf d - 1) * (h.stride.getD d 0).toNat) h.size

/-- The bytes of FILL as an element (R104). -/
def fillBytes (h : TRec) : List Byte := toBytes h.size h.fill.toNat

/-- The value of FILL as an element. -/
def fillValue (h : TRec) : Nat := h.fill.toNat % 2 ^ fmtBits h.efmt.toNat

/-! ## Level walks (R289) -/

/-- What reads memory in a walk: a state, a VA and a number of bytes give the state after and the value. -/
abbrev Loader (σ ε : Type) := σ → Nat → Nat → Except ε (σ × Nat)

/-- Searches entries k, k + 1, ... of a CRD segment for a coordinate (R289). -/
def findCrd {σ ε : Type} (load : Loader σ ε) (crd c : Nat) : Nat → Nat → σ → Except ε (σ × Option Nat)
  | 0, _, st => .ok (st, none)
  | n + 1, k, st =>
    match load st ((crd + 4 * k) % 2 ^ 64) 4 with
    | .error e => .error e
    | .ok (st, v) =>
      if v = c then .ok (st, some k) else if c < v then .ok (st, none) else findCrd load crd c n (k + 1) st

/-- The step of a bitmap dimension of extent n from position p (R289). -/
def stepBitmap {σ ε : Type} (load : Loader σ ε) (lvl n c p : Nat) (st : σ) : Except ε (σ × Option Nat) :=
  match load st ((lvl + 8 * (p * ceilDiv n 32 + c / 32)) % 2 ^ 64) 8 with
  | .error e => .error e
  | .ok (st, v) =>
    let word : Word := BitVec.ofNat 32 v
    if word.getLsbD (c % 32) then
      .ok (st, some (v / 2 ^ 32 + popCount (BitVec.ofNat 32 (v % 2 ^ (c % 32)))))
    else .ok (st, none)

/-- The step of a compressed dimension from position p (R289). -/
def stepCompressed {σ ε : Type} (load : Loader σ ε) (lvl c p : Nat) (st : σ) : Except ε (σ × Option Nat) := do
  let (st, pos) ← load st (lvl % 2 ^ 64) 8
  let (st, crd) ← load st ((lvl + 8) % 2 ^ 64) 8
  let (st, lo) ← load st ((pos + 4 * p) % 2 ^ 64) 4
  let (st, hi) ← load st ((pos + 4 * p + 4) % 2 ^ 64) 4
  findCrd load crd c (hi - lo) lo st

/-- A walk over dimensions (KIND, extent, coordinate) with the level arrays of those that are not dense, from a
position on (R289). -/
def walk {σ ε : Type} (load : Loader σ ε) :
    List (Nat × Nat × Nat) → List DWord → Nat → σ → Except ε (σ × Option Nat)
  | [], _, p, st => .ok (st, some p)
  | (0, n, c) :: t, lv, p, st => walk load t lv (p * n + c) st
  | (_ + 1, _, _) :: _, [], _, st => .ok (st, none)
  | (k + 1, n, c) :: t, l :: lv, p, st =>
    match (if k = 0 then stepBitmap load l.toNat n c p st else stepCompressed load l.toNat c p st) with
    | .error e => .error e
    | .ok (st, none) => .ok (st, none)
    | .ok (st, some q) => walk load t lv q st

/-- The level arrays of a record in walk order: LVL0 is the scale array with BS (R102, R289). -/
def levelsOf (h : TRec) : List DWord := if h.bs then h.lvl.drop 1 else h.lvl

/-- The dimensions of a walk down to dimension `lo`, from the last on. -/
def walkDims (h : TRec) (lo : Nat) (cs : List Nat) : List (Nat × Nat × Nat) :=
  ((List.range h.rank).reverse.filter fun d => decide (lo ≤ d)).map fun d => (h.kindOf d, h.dimOf d, cs.getD d 0)

/-- The position of an element in the value array, none if it is not stored (R289). -/
def walkTo {σ ε : Type} (load : Loader σ ε) (h : TRec) (cs : List Nat) (st : σ) : Except ε (σ × Option Nat) :=
  walk load (walkDims h 0 cs) (levelsOf h) 0 st

/-- The VA of a stored element of a tensor that is not dense (R289). -/
def storedVa (h : TRec) (p : Nat) : Nat := (h.base.toNat + p * h.size) % 2 ^ 64

/-- The VA of the scale of an element of a block-scaled tensor whose dimension 0 is dense (R429). -/
def scaleVa {σ ε : Type} (load : Loader σ ε) (h : TRec) (cs : List Nat) (st : σ) : Except ε (σ × Option Nat) :=
  let lvl0 := (h.lvl.getD 0 0).toNat
  if h.kindOf 0 = 0 then
    match walk load (walkDims h 1 cs) (levelsOf h) 0 st with
    | .error e => .error e
    | .ok (st, none) => .ok (st, none)
    | .ok (st, some q) => .ok (st, some ((lvl0 + q * ceilDiv (h.dimOf 0) 32 + cs.getD 0 0 / 32) % 2 ^ 64))
  else
    match walkTo load h cs st with
    | .error e => .error e
    | .ok (st, none) => .ok (st, none)
    | .ok (st, some p) => .ok (st, some ((lvl0 + p / 32) % 2 ^ 64))

/-- One load of a lane of the group in focus, as a walk makes it. -/
def laneLoad (keep : Bool) (lane : Nat) : Loader State Res := fun s va n =>
  match tryLoad s { elems := [{ lane := lane, va := va }], size := n, write := false, scalar := false } keep with
  | .error r => .error r
  | .ok (s, l) =>
    if l.any fun e => e.2.2 then
      .error (raisePoison s { elems := [], size := n, write := false, scalar := false } l)
    else .ok (s, (l.map fun e => ofBytes e.2.1).headD 0)

end Sys2Proof.Machine
end

