-- ==== Sys2Proof/Machine/Engine.lean ====
section
/-! DEFINITION. Engine commands (R101, R125 to R127, R247 to R249): how one is accepted, reads and writes memory
for its context, and ends with its status word. -/

namespace Sys2Proof.Machine

/-! ## Scribes (R306, R308) -/

/-- The modulus p of S1 (R306). -/
def scribeP : Nat := 2 ^ 61 - 1

/-- The scribe of a sequence of 64-bit words: S0 and S1 (R306). -/
def scribeOf (ws : List Nat) : Nat × Nat :=
  let r := ws.foldl (fun (a : Int × Int × Nat) w =>
    let x := (BitVec.ofNat 64 w).toInt
    (a.1 + x, a.2.1 + ((a.2.2 : Int) + 1) * x, a.2.2 + 1)) (0, 0, 0)
  ((r.1 % 2 ^ 64).toNat, (r.2.1 % scribeP).toNat)

/-- Bytes as 64-bit words. -/
def dwordsOf (bs : List Byte) : List Nat := (chunksOf bs.length 8 bs).map ofBytes

/-- The fold of two scribes: sum, or difference (R308). -/
def scribeFold (sub : Bool) (a b : Nat × Nat) : Nat × Nat :=
  let s : Int := if sub then -1 else 1
  ((((a.1 : Int) + s * b.1) % 2 ^ 64).toNat, (((a.2 : Int) + s * b.2) % scribeP).toNat)

/-! ## Questions to the MP and to a port for a command (R91, R334) -/

/-- Asks the MP for a page on behalf of a numbered holder. -/
def askAs (s : State) (asid : BitVec 16) (page who : Nat) : State :=
  if s.mem.asks.any fun a => a.asid == asid && a.page == page then
    { s with mem := { s.mem with
      asks := updateWhere (fun (a : MapAsk) => a.asid == asid && a.page == page)
        (fun a => { a with gids := addOnce who a.gids }) s.mem.asks } }
  else
    { s with mem := { s.mem with
      asks := s.mem.asks ++ [{ asid := asid, page := page, gids := [who], declined := [] }] } }

/-- The MP has declined a page to a holder. -/
def declinedAs (s : State) (asid : BitVec 16) (page who : Nat) : Bool :=
  s.mem.asks.any fun a => a.asid == asid && a.page == page && a.declined.contains who

/-- Asks a port for a window grant on behalf of a holder (R334). -/
def grantAs (s : State) (port : Nat) (asid : BitVec 16) (va who : Nat) : State :=
  let page := va % 2 ^ 54 / 4096
  let mine := fun (e : Asked) => e.port == port && e.asid == asid && e.page == page
  let l := if s.fab.asked.any mine then updateWhere mine (fun e => { e with gids := addOnce who e.gids }) s.fab.asked
    else s.fab.asked ++ [{ port := port, asid := asid, page := page, gids := [who] }]
  { s with fab := { s.fab with asked := l } }

/-- A holder's questions are forgotten. -/
def forgetAsks (s : State) (who : Nat) : State :=
  let asks := s.mem.asks.map fun a =>
    { a with gids := a.gids.filter (· != who), declined := a.declined.filter (· != who) }
  { s with
    mem := { s.mem with asks := asks.filter fun a => !(a.gids.isEmpty && a.declined.isEmpty) }
    fab := (heard s who).fab }

/-! ## Reads and writes of an engine (R125, R248) -/

/-- Why an engine does not go on with an access: a completion code with the address it fails at and whether it writes, or a question
that must be answered first. -/
inductive EStop where
  | code (c : BitVec 8) (addr : Nat) (write : Bool)
  | ask (s : State)
  deriving DecidableEq, Repr

/-- Who accesses memory for a context: a holder number, the context and its mode, its core, its launch. -/
structure Engine where
  who : Nat
  asid : BitVec 16
  super : Bool
  core : Nat
  lid : Nat
  near : Bool
  deriving DecidableEq, Repr

/-- An engine as the maker of an access. -/
def Engine.agent (e : Engine) : Agent := { asid := e.asid, core := e.core, super := e.super, mkind := mkEngine }

/-- The engine of a command; the copy engine stands in the cluster (`near`), and may read its cache (R125). -/
def Cmd.engine (s : State) (c : Cmd) (near : Bool) : Engine :=
  { who := c.id, asid := c.asid, super := c.super, core := c.core
    lid := (launchOfGroup s (findGroup s c.gid)).id, near := near }

/-- The completion code of a cause (R248). -/
def codeOfCause (c : BitVec 8) : BitVec 8 :=
  if c = 0x11 then 1 else if c = 0x12 then 2 else if c = 0x13 then 3 else 8

/-- The port of an engine's access to a far address (R333); 16 stands for the control port. -/
def enginePort (s : State) (va : Nat) : Nat := if placement va = 5 then (pathPort s (peerOf va)).getD 0 else 16

/-- The table that governs an address logs an access of an engine that it denies (R387); a peer's own table logs its denials there. -/
def logEngine (s : State) (e : Engine) (va : Nat) (write : Bool) : State :=
  if isFarVa va then
    if farPermits s (enginePort s va) mkEngine e.asid va write then s
    else logAt s (farTarget (enginePort s va) va) (farOffset va) mkEngine e.asid write
  else
    match pageAttr s e.agent va with
    | some (p, _, _) => logViolation s (physOf p va) mkEngine e.asid write
    | none => s

/-- Checks an engine's access of bytes of one page: the entry, none beyond the device (R91, R228, R334, R385). -/
def engineSee (s : State) (e : Engine) (va : Nat) (write : Bool) : Except EStop (Option Quad) :=
  match seeAddr s e.agent va write with
  | .page p => .ok (some p)
  | .bad c => .error (.code (codeOfCause c) va write)
  | .miss =>
    if declinedAs s e.asid (pageOf va) e.who then .error (.code 1 va write)
    else .error (.ask (askAs s e.asid (pageOf va) e.who))
  | .far =>
    let port := enginePort s va
    if !portReached s e.core port va || (placement va == 5 && s.fab.unreachable.contains (peerOf va)) || pathLost s e.who va then
      .error (.code 8 va write)
    else if !farPermits s port mkEngine e.asid va write then .error (.code 3 va write)
    else if placement va = 5 ∧ (grantFor s port e.asid va).isNone then
      if s.fab.refused.contains (e.who, va % 2 ^ 54 / 4096) then .error (.code 1 va write)
      else .error (.ask (grantAs s port e.asid va e.who))
    else if destDenies s e.asid va write then .error (.code 3 va write)
    else .ok none

/-- An engine's access has stopped at an address with a completion code: one that a table denied is logged (R251, R387). -/
def noteDenied (s : State) (e : Engine) (code : BitVec 8) (va : Nat) (write : Bool) : State :=
  if code = 3 then logEngine s e va write else s

/-- Cuts a span of addresses into its pieces by line: start and length. -/
def linePieces (va n : Nat) : List (Nat × Nat) :=
  let base := va - va % 128
  (List.range (ceilDiv (va % 128 + n) 128)).map fun k =>
    let lo := max va (base + 128 * k)
    let hi := min (va + n) (base + 128 * k + 128)
    (lo % 2 ^ 64, hi - lo)

/-- Reads bytes within one line: the latest the cluster cache holds if the engine may read it, else those that
are current at the home (R109, R122, R125). -/
def enginePiece (s : State) (e : Engine) (va n : Nat) : Except EStop (State × List Byte) :=
  match engineSee s e va false with
  | .error x => .error x
  | .ok none =>
    .ok (s, farBytes s (enginePort s va) e.asid va n)
  | .ok (some p) =>
    let s := recallLine s (pteAsid p) (lineOf va)
    let s := touchGranule s e.lid (pteAsid p) (granuleOf va)
    let home := currentBytes s.mem (physOf p va) n
    let held := heldBytes s.mem.cc s.gt (clusterOf e.core) (pteAsid p) (lineOf va) (va % 128) n
    if poisonedAt s.mem (physOf p va) n then .error (.code 7 va false)
    else .ok (s, if e.near && cacheable p then overlay held home else home)

/-- Reads the pieces of a span. -/
def enginePieces (e : Engine) : List (Nat × Nat) → State → Except EStop (State × List Byte)
  | [], s => .ok (s, [])
  | p :: t, s =>
    match enginePiece s e p.1 p.2 with
    | .error x => .error x
    | .ok (s, a) =>
      match enginePieces e t s with
      | .error x => .error x
      | .ok (s, b) => .ok (s, a ++ b)

/-- Reads `n` bytes from a VA on. -/
def engineRead (e : Engine) (s : State) (va n : Nat) : Except EStop (State × List Byte) :=
  enginePieces e (linePieces va n) s

/-- The reads of an engine as a walk makes them. -/
def engineLoad (e : Engine) : Loader State EStop := fun s va n =>
  match engineRead e s va n with
  | .error x => .error x
  | .ok (s, bs) => .ok (s, ofBytes bs)

/-- Checks that an engine may write some spans (R228). -/
def engineMay (s : State) (e : Engine) (l : List (Nat × Nat)) : Option EStop :=
  firstSome (fun p => match engineSee s e p.1 true with | .error x => some x | .ok _ => none)
    (l.flatMap fun x => linePieces x.1 x.2)

/-- The cluster cache takes a write of its own copy engine, and so does the core's L1 where it holds the line: so they acknowledge it
(R112, R126; log 40). -/
def engineTake (s : State) (e : Engine) (p : Quad) (va : Nat) (bs : List Byte) (w : Nat) : State :=
  if hasCache s (clusterOf e.core) then pinUnits s false true e.core p va bs 0 (some w) else s

/-- Writes a piece within one line, and the W it gets; a write beyond the device is performed at once and makes
the launch unrollable (R111, R128, R389). -/
def enginePut (e : Engine) (acc : State × Nat) (va : Nat) (bs : List Byte) : State × Nat :=
  let s := acc.1
  if isFar va then
    let s := farPoke s (enginePort s va) e.asid va bs
    let l := findLaunch s e.lid
    (if l.id = 0 then s else markUnroll (s.launches.length + 1) s l.id, acc.2)
  else
    match translate s.mem e.asid va with
    | none => acc
    | some p =>
      let cells := ((List.range bs.length).zip bs).map fun c => (physOf p va + c.1, c.2)
      let r := launchWrite s (some e.lid) (pteAsid p) (lineOf va) cells
      (if e.near then engineTake r.1 e p va bs r.2 else r.1, max acc.2 r.2)

/-- Writes bytes from a VA on: the state, and the larger of a W and theirs. -/
def engineWrite (e : Engine) (s : State) (w va : Nat) (bs : List Byte) : State × Nat :=
  (linePieces va bs.length).foldl (fun acc p =>
    enginePut e acc p.1 ((bs.drop ((p.1 + 2 ^ 64 - va) % 2 ^ 64)).take p.2)) (s, w)

/-! ## Acceptance (R101, R247, R249) -/

/-- The flags of a command's literal (R247). -/
def engineFlags (x : Args) : EFlags :=
  let l := x.literal
  { acq := if l.getLsbD 3 then some (l.extractLsb' 0 3).toNat else none
    rel := if l.getLsbD 7 then some (l.extractLsb' 4 3).toNat else none
    bar := if l.getLsbD 12 then some (l.extractLsb' 8 4).toNat else none
    pitch := (l.extractLsb' 16 16).toNat }

/-- Whether the flags name a barrier that the launch has (R247). -/
def flagsBarOk (s : State) (f : EFlags) : Bool := f.bar.all fun b => decide (b < s.tm.nbars)

/-- The queue a command stands in: the copy engine of a cluster, the collective engine of a bay, the retrieval
engine of a cluster, the intersect unit of a core (R249, R292, R299). -/
def queueOf (core : Nat) : CmdKind → Nat × Nat
  | .coll _ _ _ => (1, bayOf core)
  | .probe .. | .insert .. | .delete .. | .migrate .. | .stat .. => (2, clusterOf core)
  | .spmulo .. | .spmerge .. => (3, core)
  | _ => (0, clusterOf core)

/-- The commands a queue holds at most (R249, R299); the intersect unit's is bounded by the core's scoreboard (R101). -/
def queueDepth : Nat × Nat → Nat
  | (0, _) => 64
  | (1, _) => 16
  | _ => 16

/-- The commands of `bcopy`, `bfill` and `coll`, which hint 1 places ahead of others, and those of `spmulo` and `spmerge`, which take it as
they do (R150, R288); of any other it says nothing. -/
def CmdKind.hinted : CmdKind → Bool
  | .copyIn .. | .copySlot .. | .copyOut .. | .fillLcl .. | .fillT .. | .coll .. | .spmulo .. | .spmerge .. => true
  | .probe .. | .insert .. | .delete .. | .migrate .. | .stat .. => false

/-- A new command of the split in focus; hint 1 is kept where R150 defines it. -/
def newCmd (x : Args) (s : State) (k : CmdKind) (f : EFlags) : Cmd :=
  { id := s.sched.nextId, kind := k, gid := s.g.id, tid := s.tm.id, core := s.tm.core, asid := s.asid
    super := s.sp.super, pc := s.sp.pc, lanes := s.exec, split := s.sp.num, dest := x.d.toNat, flags := f
    hint1 := x.hint == 1 && k.hinted, fmt := s.sp.fmt, rnd := if x.rnd = 7 then s.sp.rnd else x.rnd, rkey := s.g.rkey
    frozen := none, started := false, done := [], w := 0, res := none }

/-- A command is accepted (R101, R249): it takes a scoreboard entry and a place in its queue, and its status
register is pending; while it cannot, the instruction waits. -/
def accept (x : Args) (s : State) (k : CmdKind) (f : EFlags) (ranges : List Range) : Res :=
  let q := queueOf s.tm.core k
  let busy := (s.eng.cmds.filter fun c => queueOf c.core c.kind == q).length
  if overlapped s ranges || (!ranges.isEmpty && s.g.late.any fun y => y.lcl) then .wait .overlap s
  else if 16 ≤ (s.eng.overlaps.filter fun o => o.core == s.tm.core && o.mover.isNone).length || queueDepth q ≤ busy then
    .wait .queue s
  else
    let c := newCmd x s k f
    let e : Overlap := { core := s.tm.core, cmd := c.id, ranges := ranges, mover := none }
    let pend := useDest x Use.nothing (match k with | .stat .. => .block 4 false | _ => .sd)
    .done { (newId s).1 with
      eng := { s.eng with cmds := s.eng.cmds ++ [c], overlaps := s.eng.overlaps ++ [e] }
      g := { s.g with pending := s.g.pending ++ pend.swrite } }

/-! ## Completion (R125, R126, R248, R257) -/

/-- A command. -/
def findCmd (s : State) (id : Nat) : Option Cmd := s.eng.cmds.find? fun c => c.id == id
/-- Replaces a command. -/
def updCmd (s : State) (id : Nat) (f : Cmd → Cmd) : State :=
  { s with eng := { s.eng with cmds := updateWhere (fun c => c.id == id) f s.eng.cmds } }

/-- An engine may go on with a command: it has begun with it, or begins with it now, since none that has not begun stands
before it: those with hint 1 go first, then acceptance order (R150, R249). -/
def mayStart (s : State) (c : Cmd) : Bool :=
  c.started || s.eng.cmds.all fun x =>
    x.started || queueOf x.core x.kind != queueOf c.core c.kind ||
      (if x.hint1 == c.hint1 then decide (c.id ≤ x.id) else c.hint1)

/-- The engine begins with a command. -/
def startCmd (s : State) (c : Cmd) : State := updCmd s c.id fun c => { c with started := true }

/-- Sends a group's release tokens along the paths it has used (R130). -/
def sendTokens (s : State) (gid : Nat) : State := (usedPaths s gid).foldl (fun s p => sendToken s gid p) s

/-- Takes the acquire of a command at its scope before its first read, if it may (R125): its group's side-log
entries have drained and its loads are performed; at .dev or wider its writes are complete; at .sys the system fence too (R130). -/
def engineAcquire (s : State) (c : Cmd) (scope : Option Nat) : State × Bool :=
  match scope with
  | none => (s, true)
  | some k =>
    let wide := decide (3 ≤ k) || (k == 2 && !hasCache s (clusterOf c.core))
    let s := if wide then mergeGroup s c.gid else s
    let s := if k == 4 then sendTokens s c.gid else s
    let out := s.mem.flight.any fun f => f.gid == c.gid && (k == 4 || !isFar f.va)
    let asked := s.eng.cmds.any fun x => x.gid == c.gid && x.kind.retrieval && decide (x.id < c.id)
    let ready := !sideOut s c.gid && (findGroup s c.gid).late.isEmpty && (k != 4 || pathsAcked s c.gid) && (!wide || (!out && !asked && decide ((findGroup s c.gid).ch ≤ s.gt)))
    let drop := { s with mem := { s.mem with
      l1 := s.mem.l1.filter fun l => !(l.unit == c.core && !anyPinned l s.gt) } }
    (if ready && k == 2 then drop else s, ready)

/-- Writes a scalar register of a group, which is pending no more; a register that a save handler has stored takes the
value too (R249). -/
def settleReg (s : State) (gid n : Nat) (v : Word) : State :=
  updGroup s gid fun g => { g with
    sregs := poke g.sregs n v, pending := g.pending.filter (· != n)
    poison := g.poison.filter fun p => p.1 != 8192 + n
    image := g.image.map fun m => { m with
      sregs := poke m.sregs n v, poison := m.poison.filter fun p => p.1 != 8192 + n } }

/-- A command writes its scalar registers from `n` on, and L0, which takes the first four words (R50; logs 31, 159). -/
def settleRegs (s : State) (gid n : Nat) (words : List Word) : State :=
  latchLate (((List.range words.length).zip words).foldl (fun s p => settleReg s gid (n + p.1) p.2) s) gid
    (BitVec.ofNat 128 (ofWords (words.take 4)))

/-- The fields of a record that name a command (R378). -/
def cmdRcd (s : State) (c : Cmd) (r : Rcd) : Rcd :=
  { groupRcd s (findGroup s c.gid) r with split := c.split, pc := c.pc, lanes := c.lanes }

/-- A command leaves its queue and the scoreboard (R101). -/
def dropCmd (s : State) (id : Nat) : State :=
  let s := forgetAsks s id
  { s with eng := { s.eng with
    cmds := s.eng.cmds.filter fun c => c.id != id
    overlaps := s.eng.overlaps.filter fun o => o.cmd != id || o.mover.isSome } }

/-- The status word of R248. -/
def statusWord (code : BitVec 8) (barr : Bool) (chunks : Nat) : Word :=
  BitVec.ofNat 32 (code.toNat + (if barr then 256 else 0) + 65536 * min chunks 0xFFFF)

/-- The team's scribe-fault register takes a chunk (R309). -/
def noteScribe (s : State) (tid : Nat) (r : CmdRes) : State :=
  updTeam s tid fun t => { t with scrFault :=
    { chunk := r.chunk, hop := r.hop
      count := if t.scrFault.count = 0xFFFF then 0xFFFF else t.scrFault.count + 1, va := r.va } }

/-- A command whose transfer has ended, and whose release condition holds, writes its status word, makes its
barrier arrival, and is recorded if its code is not 0 (R126, R248, R257, R309, R390). A slot that its transfer has filled stays ready where
the barrier alone is gone (log 194). -/
def finishCmd (s : State) (c : Cmd) (r : CmdRes) : State :=
  let live := c.flags.bar.any fun b => (getBar s c.tid b).init
  let gone := c.flags.bar.isSome && !live
  let code := if gone && r.code == 0 then 6 else r.code
  let addr := if gone && r.code == 0 then BitVec.ofNat 64 (c.flags.bar.getD 0) else r.addr
  let s := settleRegs (dropCmd s c.id) c.gid c.dest [statusWord code live r.chunks]
  let s := match c.flags.bar with
    | some b => if live then engineArrive s c.tid b else s
    | none => s
  let s := if code = 5 then noteScribe s c.tid r else s
  let s := if code = 0 then s
    else
      let rec0 := { cmdRcd s c (Rcd.blank 0x02) with
        code := code, hop := r.hop, addr := addr, extra := BitVec.ofNat 32 (min r.chunks 0xFFFF)
        chunk := if code = 5 then r.chunk else 0xFFFFFFFFFFFFFFFF }
      writeRecord s rec0
  let l := launchOfGroup s (findGroup s c.gid)
  if code = 7 && !l.rcd.report && l.id != 0 then startRollback s l.id else s

/-- The writes of a command go through the cluster cache, which acknowledges them at once (R112, R126). -/
def ackedNear (s : State) (c : Cmd) : Bool := (queueOf c.core c.kind).1 == 0 && hasCache s (clusterOf c.core)

/-- Whether a command's release flag lets it write its status word (R126): its writes are acknowledged, at .team and .gang by the
cluster cache; where none takes them (R117), and at .dev and .sys, GT has reached the largest W of them; and at .sys the group's
paths have acknowledged its token (R130). -/
def releaseMet (s : State) (c : Cmd) : Bool :=
  match c.flags.rel with
  | some k => (decide (k < 3) && ackedNear s c) || k == 0 || (decide (c.w ≤ s.gt) && (k != 4 || pathsAcked s c.gid))
  | none => true

end Sys2Proof.Machine
end

