-- ==== Sys2Proof/Machine/Copy.lean ====
section
/-! DEFINITION. Bulk copy and fill (R250 to R253): their checks at issue, and the transfer of the copy engine,
chunk by chunk. -/

namespace Sys2Proof.Machine

/-! ## Tiles (R250) -/

/-- The tile that a block of six scalar registers names. -/
def boxAt (s : State) (n : Nat) : Box :=
  let e := getS s (n + 5)
  { org := (List.range 5).map fun d => (getS s (n + d)).toInt
    ext0 := (e.extractLsb' 0 16).toNat, ext1 := (e.extractLsb' 16 16).toNat }

/-- The tensor coordinates of tile element (i, j). -/
def Box.coords (b : Box) (i j : Nat) : List Int :=
  (b.org.getD 0 0 + j) :: (b.org.getD 1 0 + i) :: b.org.drop 2

/-- The places of a tile, row by row. -/
def Box.places (b : Box) : List (Nat × Nat) :=
  (List.range b.ext1).flatMap fun i => (List.range b.ext0).map fun j => (i, j)

/-- A tile element: the VA of its tensor element, none where there is none, its local place, and whether it is moved: a write
out of bounds is suppressed (R104). -/
structure TileElem where
  va : Option Nat
  place : Nat
  live : Bool
  deriving DecidableEq, Repr

/-- The elements of a tile that is read: borders resolve through R104. -/
def readElems (h : TRec) (b : Box) (place : Nat → Nat → Nat) : List TileElem :=
  b.places.map fun p => { va := (resolve h (b.coords p.1 p.2)).map (denseVa h), place := place p.1 p.2, live := true }

/-- The elements of a tile that is written: those out of bounds are suppressed, and count as written at the address that their
coordinates give (R104, R251; log 142). -/
def writeElems (h : TRec) (b : Box) (place : Nat → Nat → Nat) : List TileElem :=
  b.places.map fun p =>
    let cs := b.coords p.1 p.2
    { va := some (affineVa h cs), place := place p.1 p.2, live := inBounds h cs }

/-- The 4 KiB chunks of memory VA that elements lie in, ascending (R251). -/
def chunkKeys (l : List TileElem) : List Nat :=
  sortBy id (l.foldl (fun a e => match e.va with | some v => addOnce (v / 4096) a | none => a) [])

/-- The elements of a chunk. -/
def chunkElems (l : List TileElem) (key : Nat) : List TileElem := l.filter fun e => e.va.any fun v => v / 4096 == key

/-- The local row pitch in bytes of a copy to or from scratchpad (R250). -/
def rowPitch (h : TRec) (b : Box) (pitch : Nat) : Nat := if pitch = 0 then b.ext0 * h.size else 16 * pitch

/-- The scratchpad address of a tile element (R250). -/
def lclPlace (h : TRec) (b : Box) (pitch addr i j : Nat) : Nat := addr + i * rowPitch h b pitch + j * h.size

/-- The byte of a slot at which a tile element stands (R98, R250). -/
def slotPlace (h : TRec) (tr : Bool) (i j : Nat) : Nat := if tr then 128 * j + i * h.size else 128 * i + j * h.size

/-! ## Checks at issue (R250, R253) -/

/-- The checks of a handle and tile (R250), then `k`. -/
def withTile (s : State) (x : Args) (tr : Bool) (k : TRec → Box → Res) : Res :=
  let b := boxAt s (fieldNum x.b)
  withHandle s x.a fun h =>
    if !h.dense || (tr && h.bs) then raiseHandle s x.a
    else if (h.rank == 1 && b.ext1 != 1) || (b.org.drop h.rank).any (· != 0) then raiseHandle s x.a
    else k h b

/-- The scratchpad range of a tile: its rows, one allocation (R97, R101). -/
def tileSpan (h : TRec) (b : Box) (pitch : Nat) : Nat :=
  if b.ext0 = 0 || b.ext1 = 0 then 0 else (b.ext1 - 1) * rowPitch h b pitch + b.ext0 * h.size

/-- A copy to or from scratchpad (R250). -/
def copyLocal (i : Shape) (x : Args) (out : Bool) (s : State) : Res :=
  let f := engineFlags x
  let a := (scalar32 s x x.c).toNat
  if s.exec = 0 then .done s
  else if !flagsBarOk s f then raiseEncoding i s
  else
    withTile s x false fun h b =>
      let n := tileSpan h b f.pitch
      if n ≠ 0 ∧ !lclInRange s s.tm.id a n then raiseExec s 0x16 (BitVec.ofNat 64 a)
      else if 2 ≤ b.ext1 ∧ rowPitch h b f.pitch < b.ext0 * h.size then raiseEncoding i s
      else
        accept x s (if out then .copyOut h b (BitVec.ofNat 32 a) else .copyIn h b (BitVec.ofNat 32 a)) f
          (if n = 0 then [] else lclRange s a n (!out))

/-- A slot of a team. -/
def slotAt (t : Team) (n : Nat) : Slot := t.slots.getD n Slot.none
/-- Replaces a slot of a team. -/
def updSlot (s : State) (tid n : Nat) (f : Slot → Slot) : State :=
  updTeam s tid fun t => { t with slots := updateAt t.slots n f }
/-- An engine changes a slot of a team, and so what the team's pre-emption has saved of it (R249). -/
def engineSlot (s : State) (tid n : Nat) (f : Slot → Slot) : State :=
  updImage (updSlot s tid n f) tid fun m => { m with slots := updateAt m.slots n f }
/-- A tile of a team. -/
def tileAt (t : Team) (n : Nat) : Tile := t.tiles.getD n Tile.none
/-- Replaces a tile of a team. -/
def updTile (s : State) (tid n : Nat) (f : Tile → Tile) : State :=
  updTeam s tid fun t => { t with tiles := updateAt t.tiles n f }

/-- A quarter, queued or in a pass, that reads a slot of a team (R270). -/
def quartersUse (s : State) (p : Quarter → Bool) : Bool :=
  s.mx.quarters.any p || s.mx.passes.any fun y => y.quarters.any p

/-- What the gang operations that a team has joined still hold: the first slot and the first tile that each names, and how many of
its passes are over (R270, R276). -/
def mmagHolds (s : State) (tid : Nat) : List (Nat × Nat × Nat) :=
  let t := findTeam s tid
  let ga := findGang s t.gang
  ga.rdvs.filterMap fun r =>
    let ran := ((r.passes.find? fun e => e.1 == t.member).map Prod.snd).getD 0
    match r.joined.find? fun j => j.member == t.member with
    | some j =>
      if r.fail.isSome || 4 ≤ ran then none else some ((j.words.getD 2 0).toNat, (j.words.getD 3 0).toNat, ran)
    | none => none

/-- A gang operation that a team has joined has yet to fill a slot (R270, R276): all four of those it names. -/
def mmagFills (s : State) (tid n : Nat) : Bool :=
  let t := findTeam s tid
  (findGang s t.gang).rdvs.any fun r => !r.began && (r.joined.any fun j =>
    j.member == t.member && decide ((j.words.getD 2 0).toNat ≤ n ∧ n < (j.words.getD 2 0).toNat + 4))

/-- A gang operation that a team has joined has yet to use a slot: to fill it, or in a pass, of which pass u reads slots u / 2 and
2 + u % 2 of the four (R269, R270, R275). -/
def mmagSlot (s : State) (tid n : Nat) : Bool :=
  mmagFills s tid n ||
    (mmagHolds s tid).any fun h => (List.range 4).any fun u => decide (h.2.2 ≤ u) && (n == h.1 + u / 2 || n == h.1 + 2 + u % 2)

/-- A gang operation that a team has joined has yet to write a tile (R270, R276). -/
def mmagTile (s : State) (tid n : Nat) : Bool :=
  (mmagHolds s tid).any fun h => (List.range 4).any fun u => decide (h.2.2 ≤ u) && n == h.2.1 + u

/-- Whether a queued or running quarter, or a gang operation, reads a slot. -/
def slotBusy (s : State) (tid n : Nat) : Bool :=
  quartersUse s (fun q => q.tid == tid && (q.b == n || q.a == .slot n)) || mmagSlot s tid n

/-- The set of one slot of the team in focus, as the range-overlap scoreboard has it (R101). -/
def slotRange (s : State) (n : Nat) (write : Bool) : List Range := [.slots s.tm.id (BitVec.ofNat 32 (2 ^ n)) write]

/-- A write into a slot goes on in `k` once the slot may be filled (R99, R265, R270): it must be owned; while it
is filling or draining, or a pass reads it, the instruction waits. -/
def withFreeSlot (s : State) (n : Nat) (k : Res) : Res :=
  let o := slotAt s.tm n
  if !o.owned then raiseExec s 0x23 (BitVec.ofNat 64 n)
  else if overlapped s (slotRange s n true) then .wait .overlap s
  else if o.st == .filling || o.st == .draining || slotBusy s s.tm.id n then .wait .tile s
  else k

/-- Positions of a slot's line for elements of a size (R98): 128 bytes to a line. -/
def slotPositions (size : Nat) : Nat := 128 / size

/-- A copy into a slot (R250). -/
def copySlotBody (i : Shape) (x : Args) (s : State) : Res :=
  let f := engineFlags x
  let tr := x.fn.getLsbD 2
  let n := fieldNum x.c
  if s.exec = 0 then .done s
  else if !flagsBarOk s f then raiseEncoding i s
  else
    withTile s x tr fun h b =>
      let k := slotPositions h.size
      withFreeSlot s n <|
        if if tr then 64 < b.ext0 || k < b.ext1 else 64 < b.ext1 || k < b.ext0 then raiseEncoding i s
        else
          match accept x s (.copySlot h b tr n) f (slotRange s n true) with
          | .done t => .done (updSlot t t.tm.id n fun o => { o with st := .filling, bytes := [] })
          | r => r

/-- `bfill.lcl` (R253). -/
def fillLocal (i : Shape) (x : Args) (s : State) : Res :=
  let f := engineFlags x
  let a := (scalar32 s x x.a).toNat
  let n := (scalar32 s x x.b).toNat
  if s.exec = 0 then .done s
  else if !flagsBarOk s f then raiseEncoding i s
  else if a % 4 ≠ 0 ∨ n % 4 ≠ 0 then raiseExec s 0x10 (BitVec.ofNat 64 a)
  else if !lclInRange s s.tm.id a n then raiseExec s 0x16 (BitVec.ofNat 64 a)
  else
    accept x s (.fillLcl (BitVec.ofNat 32 a) n (scalar32 s x x.c)) f (if n = 0 then [] else lclRange s a n true)

/-- `bfill.t` (R253). -/
def fillTensor (i : Shape) (x : Args) (s : State) : Res :=
  let f := engineFlags x
  if s.exec = 0 then .done s
  else if !flagsBarOk s f then raiseEncoding i s
  else withTile s x false fun h b => accept x s (.fillT h b (scalar32 s x x.c)) f []

/-! ## The transfer (R251, R252) -/

/-- What a chunk's turn gives: the state and the largest W so far; why not; or a scribe mismatch at the chunk
that begins at a VA (R252). -/
inductive Turned where
  | ok (s : State) (w : Nat)
  | stop (e : EStop)
  | mismatch (va : Nat)
  deriving DecidableEq, Repr

/-- How a walk over chunks ends. -/
inductive Walked where
  | all (s : State) (w : Nat) (keys : List Nat)
  | later (s : State) (w : Nat) (keys : List Nat)
  | fail (s : State) (w : Nat) (keys : List Nat) (r : CmdRes)
  deriving DecidableEq, Repr

/-- The copy engine's hop id in its records (R17). -/
def copyHop (c : Cmd) : BitVec 16 := BitVec.ofNat 16 (0x0400 + clusterOf c.core)

/-- A result with nothing to name. -/
def plainRes (c : Cmd) (code : BitVec 8) (chunks : Nat) (addr : Nat) : CmdRes :=
  { code := code, chunks := chunks, addr := BitVec.ofNat 64 addr, chunk := 0xFFFFFFFFFFFFFFFF, hop := copyHop c
    va := 0 }

/-- The result of a copy that found a scribe mismatch: the chunk id names the bay and the chunk's place within
the command (R309). -/
def mismatchRes (c : Cmd) (place va : Nat) : CmdRes :=
  { plainRes c 5 place va with
    chunk := BitVec.ofNat 64 (bayOf c.core * 2 ^ 24 + place % 2 ^ 24 * 2 ^ 40)
    va := BitVec.ofNat 64 (va % 2 ^ 32) }

/-- Works through chunks in order and stops at the first that fails (R251): the record names the chunk's first
byte, or the poisoned data; a denied access is logged (R387). -/
def walkChunks (c : Cmd) (e : Engine) (turn : State → Nat → Nat → Turned) : List Nat → State → Nat → List Nat → Walked
  | [], s, w, done => .all s w done
  | k :: t, s, w, done =>
    if done.contains k then walkChunks c e turn t s w done
    else
      match turn s w k with
      | .ok s w => walkChunks c e turn t s w (done ++ [k])
      | .stop (.ask s) => .later s w done
      | .stop (.code r va write) => .fail (noteDenied s e r va write) w done (plainRes c r done.length (if r = 7 then va else k * 4096))
      | .mismatch va => .fail s w done (mismatchRes c done.length va)

/-- The sidecar entries that cover some elements: their numbers (R102). An element that is suppressed counts where its chunk is one
of the tensor's (R104, log 142). -/
def sidecarKeys (h : TRec) (l : List TileElem) : List Nat :=
  sortBy id (l.foldl (fun a e => match e.va with
    | some v =>
      let k := (v + 2 ^ 64 - h.base.toNat) % 2 ^ 64 / 4096
      if e.live || decide (k < ceilDiv (tensorSpan h) 4096) then addOnce k a else a
    | none => a) [])

/-- Whether a command checks and keeps scribes of a tensor (R252). -/
def scribesOn (s : State) (c : Cmd) (h : TRec) : Bool := h.scr && (launchOfGroup s (findGroup s c.gid)).rcd.scr

/-- The VA of the chunk a sidecar entry covers, and the VA of the entry (R102). -/
def sidecarPlace (h : TRec) (k : Nat) : Nat × Nat :=
  ((h.base.toNat + 4096 * k) % 2 ^ 64, (h.sidecar.toNat + 16 * k) % 2 ^ 64)

/-- Checks whole chunks against their sidecar entries; one that does not agree is read once more from its home (R252). It answers the
contents of the chunks read again, by the VA of their first byte. -/
def verifyScribes (e : Engine) (h : TRec) : List Nat → State → Except Turned (State × List (Nat × List Byte))
  | [], s => .ok (s, [])
  | k :: t, s =>
    let p := sidecarPlace h k
    match engineRead e s p.1 4096 with
    | .error x => .error (.stop x)
    | .ok (s, bs) =>
      match engineRead e s p.2 16 with
      | .error x => .error (.stop x)
      | .ok (s, en) =>
        let same := fun (bs : List Byte) => scribeOf (dwordsOf bs) == (ofBytes (en.take 8), ofBytes (en.drop 8))
        if same bs then verifyScribes e h t s
        else
          match engineRead { e with near := false } s p.1 4096 with
          | .error x => .error (.stop x)
          | .ok (s, bs) =>
            if same bs then (verifyScribes e h t s).map fun r => (r.1, (p.1, bs) :: r.2) else .error (.mismatch p.1)

/-- The bytes of an element at a VA: of the chunk that was read again, if it lies in one, else those read first (R252). -/
def readAgain (again : List (Nat × List Byte)) (va : Nat) (bs : List Byte) : List Byte :=
  match again.find? fun c => decide (c.1 ≤ va ∧ va < c.1 + 4096) with
  | some c => (c.2.drop (va - c.1)).take bs.length
  | none => bs

/-- Writes the sidecar entries of chunks that have been written, from the latest bytes of each (R252). -/
def writeScribes (e : Engine) (h : TRec) : List Nat → State → Nat → Turned
  | [], s, w => .ok s w
  | k :: t, s, w =>
    let p := sidecarPlace h k
    match engineRead e s p.1 4096, engineMay s e [(p.2, 16)] with
    | .error x, _ => .stop x
    | _, some x => .stop x
    | .ok (s, _), none =>
      let bs := (linePieces p.1 4096).flatMap fun q =>
        match translate s.mem e.asid q.1 with
        | some y => latestBytes s.mem (physOf y q.1) q.2
        | none => List.replicate q.2 0
      let r := scribeOf (dwordsOf bs)
      let o := engineWrite e s w p.2 (toBytes 8 r.1 ++ toBytes 8 r.2)
      writeScribes e h t o.1 o.2

/-- Reads the elements of a chunk: the place and bytes of each. -/
def readTile (e : Engine) (size : Nat) : List TileElem → State → Except EStop (State × List (Nat × List Byte))
  | [], s => .ok (s, [])
  | y :: t, s =>
    match y.va with
    | none => readTile e size t s
    | some v =>
      match engineRead e s v size with
      | .error x => .error x
      | .ok (s, bs) =>
        match readTile e size t s with
        | .error x => .error x
        | .ok (s, l) => .ok (s, (y.place, bs) :: l)

/-- A chunk of a tile that is read from memory (R251, R252): every read, then the scribes, then the local
writes, of what has been verified. -/
def turnIn (c : Cmd) (e : Engine) (h : TRec) (l : List TileElem) (put : State → Nat → List Byte → State)
    (s : State) (w key : Nat) : Turned :=
  let mine := chunkElems l key
  match readTile e h.size mine s with
  | .error x => .stop x
  | .ok (s, got) =>
    match (if scribesOn s c h then verifyScribes e h (sidecarKeys h mine) s else .ok (s, [])) with
    | .ok (s, again) => .ok ((mine.zip got).foldl (fun s g => put s g.2.1 (readAgain again (g.1.va.getD 0) g.2.2)) s) w
    | .error r => r

/-- A chunk of a tile that is written to memory (R251, R252): every source, the checks, the writes, then the
scribes. DESIGN CHOICE: where the reread of the chunk or the write of its sidecar entry fails, its element writes are not performed either
(log 201). `src` gives an element's bytes, or none where they are poisoned. -/
def turnOut (c : Cmd) (e : Engine) (h : TRec) (l : List TileElem) (src : State → Nat → Option (List Byte))
    (s : State) (w key : Nat) : Turned :=
  let all := chunkElems l key
  let mine := all.filter fun y => y.live
  match mine.find? fun y => (src s y.place).isNone with
  | some y => .stop (.code 7 y.place false)
  | none =>
    match engineMay s e (mine.map fun y => (y.va.getD 0, h.size)) with
    | some x => .stop x
    | none =>
      let r := mine.foldl (fun (a : State × Nat) y =>
        engineWrite e a.1 a.2 (y.va.getD 0) ((src s y.place).getD [])) (s, w)
      if scribesOn s c h then writeScribes e h (sidecarKeys h all) r.1 r.2 else .ok r.1 r.2

/-- Writes bytes into a slot. -/
def putSlot (tid n : Nat) (s : State) (place : Nat) (bs : List Byte) : State :=
  engineSlot s tid n fun o => { o with bytes := pokeAll o.bytes place bs }

/-- Moves the scales of a slot's lines into its side area (R250, R429): a block whose first element reads as FILL
has none. -/
def readScales (e : Engine) (h : TRec) (b : Box) (tid n : Nat) :
    List (Nat × Nat) → State → Except EStop State
  | [], s => .ok s
  | p :: t, s =>
    match resolve h (b.coords p.1 (32 * p.2)) with
    | none => readScales e h b tid n t s
    | some cs =>
      match scaleVa (engineLoad e) h cs s with
      | .error x => .error x
      | .ok (s, none) => readScales e h b tid n t s
      | .ok (s, some va) =>
        match engineRead e s va 1 with
        | .error x => .error x
        | .ok (s, bs) => readScales e h b tid n t (putSlot tid n s (8192 + 4 * p.1 + p.2) bs)

/-- The lines and blocks whose scales a slot fill moves. -/
def scalePlaces (h : TRec) (b : Box) : List (Nat × Nat) :=
  if h.bs then (List.range b.ext1).flatMap fun i => (List.range (ceilDiv b.ext0 32)).map fun k => (i, k) else []

/-- The elements that read as FILL are written once every chunk has been moved (R251). -/
def putFills (h : TRec) (l : List TileElem) (put : State → Nat → List Byte → State) (s : State) : State :=
  (l.filter fun y => y.va.isNone).foldl (fun s y => put s y.place (fillBytes h)) s

/-- Records how far a command has come. -/
def saveCmd (s : State) (c : Cmd) (w : Nat) (keys : List Nat) (r : Option CmdRes) : State :=
  updCmd s c.id fun c => { c with done := keys, w := w, res := r }

/-- A slot that is being filled is ready, or, after a failure, empty and zero (R251). -/
def endFill (s : State) (tid n : Nat) (ok : Bool) : State :=
  engineSlot s tid n fun o => if ok then { o with st := .ready, poison := false }
                           else { o with st := .empty, poison := false, bytes := [] }

/-- A tile that is written to memory from a source. -/
def moveOut (c : Cmd) (e : Engine) (h : TRec) (l : List TileElem) (src : State → Nat → Option (List Byte))
    (s : State) : State :=
  match walkChunks c e (turnOut c e h l src) (chunkKeys l) s c.w c.done with
  | .all s w d => saveCmd s c w d (some (plainRes c 0 d.length 0))
  | .later s w d => saveCmd s c w d none
  | .fail s w d r => saveCmd s c w d (some r)

/-- Whether the banks of a command's scratchpad span are in scratchpad role (R96). -/
def spanRole (s : State) (c : Cmd) (a n : Nat) : Bool := n == 0 || lclRole s c.tid a n

/-- The bytes of a scratchpad place that are not poisoned. -/
def cleanLcl (c : Cmd) (size : Nat) (s : State) (place : Nat) : Option (List Byte) :=
  if lclPoisoned s c.tid place size then none else some (lclRead s c.tid place size)

/-- A copy into scratchpad. -/
def moveIn (c : Cmd) (e : Engine) (h : TRec) (b : Box) (a : Nat) (s : State) : State :=
  let l := readElems h b (lclPlace h b c.flags.pitch a)
  let put := fun (s : State) (place : Nat) (bs : List Byte) => engineLcl s c.tid place bs
  match walkChunks c e (turnIn c e h l put) (chunkKeys l) s c.w c.done with
  | .all s w d => saveCmd (putFills h l put s) c w d (some (plainRes c 0 d.length 0))
  | .later s w d => saveCmd s c w d none
  | .fail s w d r => saveCmd s c w d (some r)

/-- A copy into a slot (R250, R251). -/
def moveSlot (c : Cmd) (e : Engine) (h : TRec) (b : Box) (tr : Bool) (n : Nat) (s : State) : State :=
  let l := readElems h b (slotPlace h tr)
  let put := putSlot c.tid n
  let s := if c.done.isEmpty then engineSlot s c.tid n fun o => { o with bytes := [] } else s
  match walkChunks c e (turnIn c e h l put) (chunkKeys l) s c.w c.done with
  | .all s w d =>
    match readScales e h b c.tid n (scalePlaces h b) s with
    | .ok s => saveCmd (endFill (putFills h l put s) c.tid n true) c w d (some (plainRes c 0 d.length 0))
    | .error (.ask s) => saveCmd s c w d none
    | .error (.code k va write) =>
      saveCmd (endFill (noteDenied s e k va write) c.tid n false) c w d (some (plainRes c k d.length (if k = 7 then va else va / 4096 * 4096)))
  | .later s w d => saveCmd s c w d none
  | .fail s w d r => saveCmd (endFill s c.tid n false) c w d (some r)

/-- The transfer of a copy or fill command as far as it can go now (R250 to R253). DESIGN CHOICE: an element of more than 32 bits takes p
zero-extended from `bfill.t`; R253 speaks of p's low bits only (log 161). -/
def copyTransfer (c : Cmd) (s : State) : State :=
  let e := c.engine s true
  let role := fun (a n : Nat) (k : State) =>
    if spanRole s c a n then k else saveCmd s c c.w [] (some (plainRes c 4 0 a))
  match c.kind with
  | .copyIn h b a => role a.toNat (tileSpan h b c.flags.pitch) (moveIn c e h b a.toNat s)
  | .copySlot h b tr n => moveSlot c e h b tr n s
  | .copyOut h b a =>
    role a.toNat (tileSpan h b c.flags.pitch)
      (moveOut c e h (writeElems h b (lclPlace h b c.flags.pitch a.toNat)) (cleanLcl c h.size) s)
  | .fillLcl a n p =>
    role a.toNat n
      (saveCmd (engineLcl s c.tid a.toNat ((List.range (n / 4)).flatMap fun _ => toBytes 4 p.toNat)) c c.w []
        (some (plainRes c 0 0 0)))
  | .fillT h b p => moveOut c e h (writeElems h b fun _ _ => 0) (fun _ _ => some (toBytes h.size p.toNat)) s
  | _ => s

/-! ## The meanings -/

/-- `bcopy.in` (R250). -/
def execBcopyIn (x : Args) (s : State) : Host.Outcome State Fault Refusal :=
  run (.bcopyIn x) (copyLocal (.bcopyIn x) x false) s

/-- `bcopy.in.slot` (R250). -/
def execBcopyInSlot (x : Args) (s : State) : Host.Outcome State Fault Refusal :=
  run (.bcopyInSlot x) (copySlotBody (.bcopyInSlot x) x) s

/-- `bcopy.out` (R250). -/
def execBcopyOut (x : Args) (s : State) : Host.Outcome State Fault Refusal :=
  run (.bcopyOut x) (copyLocal (.bcopyOut x) x true) s

/-- `bfill.lcl` (R253). -/
def execBfillLcl (x : Args) (s : State) : Host.Outcome State Fault Refusal :=
  run (.bfillLcl x) (fillLocal (.bfillLcl x) x) s

/-- `bfill.t` (R253). -/
def execBfillT (x : Args) (s : State) : Host.Outcome State Fault Refusal :=
  run (.bfillT x) (fillTensor (.bfillT x) x) s

end Sys2Proof.Machine
end

