-- ==== Sys2Proof/Machine/Sched.lean ====
section
/-! DEFINITION. Which split may issue, what it issues, and how an instruction comes to stand at its PC
(R44, R46, R52, R136 to R140, R318). -/

namespace Sys2Proof.Machine

/-- The cores run (R23, R349, R354): the device has started, whether or not its MP has failed since. -/
def running (s : State) : Bool := s.dev.power == .on || s.dev.power == .mpFailed

/-- A save handler of a group waits until every group of its gang has entered its own (R326). -/
def saveHeld (s : State) (g : Group) : Bool :=
  g.inHandler && g.entry == 0x38 && (match (gangOfGroup s g).st with | .halting _ => true | _ => false)

/-- A group is held for the debugger of its context (R393, R396): a software trap or a breakpoint, until the control
node resumes it. -/
def debugHeld (s : State) (g : Group) : Bool :=
  g.inHandler && (g.entry == 0x0A || g.entry == 0x0B) &&
    (findCtx s (launchOfGroup s g).rcd.asid).any fun c => c.debugger

/-- A waiter of a barrier that timed out has yet to take its trap (R52): the handlers of the others do not issue before its TRAP record is
performed (R426). -/
def firingHeld (s : State) (g : Group) : Bool :=
  g.inHandler && g.entry == 0x21 && (allGroups s).any fun h => (findTeam s h.team).gang == (findTeam s g.team).gang &&
    (splitsOf s h.id).any fun p => p.event.any fun e => e.1 == 0x21 && decide (e.2 ≤ 16)

/-- Whether a split of a group may try to issue (R44, R53, R318, R326): it is there and not parked, its group
is not retired, halted or held, no handler of the group runs on another split, and the records written of the group have been
performed (R377, R426). A split that waits tries again. -/
def maySplit (s : State) (g : Group) (p : Split) : Bool :=
  p.live && p.parked.isNone && !g.retired && !g.halted && (!g.inHandler || p.num == g.tsplit.toNat) &&
    !saveHeld s g && !debugHeld s g && !firingHeld s g && running s && decide (g.recTill ≤ s.gt)

/-- Whether the split in focus may try to issue. -/
def mayIssue (s : State) : Bool := maySplit s s.g s.sp

/-- A split has sent a request of a remote atomic, the block store or the MP, whose reply holds its group (R129, R190, R262). A join of
`mmag` is none (R276), and neither is what `ldacq` keeps while it waits (R116). -/
def awaitsReply (p : Split) : Bool := p.request.any fun q => q.op != 0xB4 && q.op != 0x8F

/-- A split waits in a way that holds its group (`Wait.holdsGroup`), or for a reply. -/
def holding (p : Split) : Bool := p.live && p.parked.isNone && (p.wait.any Wait.holdsGroup || awaitsReply p)

/-- Another split of the group holds the group (R91, R115, R129, R189, R190, R262): this one issues nothing, unless it is in a
handler or inside a latch chain. -/
def groupHeld (s : State) (g : Group) (p : Split) : Bool :=
  !g.inHandler && p.chain.isNone && !holding p && (splitsOf s g.id).any fun q => q.num != p.num && holding q

/-- Another split of the core is inside a latch chain, which issues to its end first (R52, R319). -/
def chainFirst (s : State) (g : Group) (p : Split) : Bool :=
  p.chain.isNone && (allGroups s).any fun h => (findTeam s h.team).core == (findTeam s g.team).core &&
    (splitsOf s h.id).any fun q => q.chain.isSome && maySplit s h q

/-- A split has something issued that completes before it halts: a latch chain, an atomic on its way (R326). -/
def mustFinish (p : Split) : Bool := p.live && (p.chain.isSome || p.request.any fun q => q.op == 0x8A || q.op == 0x8C)

/-- The tick ends with this turn: the watchdogs are tested when it has (R399). -/
def tickOver (s : State) : Bool := match s.agenda with | [] => true | t :: _ => t.ticks != 0

/-- A group goes on to its next `ppoint` after a request, for at most 1,600 cycles (R185); one inside a handler halts at its
next boundary (R326). -/
def goesToPoint (s : State) (g : Group) (since : Nat) : Bool :=
  g.pointAware && !g.inHandler && decide (s.gt < since + 1600)

/-- A request has come to the gang: a split issues no more, but for what completes first (R185, R326). -/
def haltStops (s : State) (g : Group) (p : Split) : Bool :=
  match (gangOfGroup s g).st with
  | .halting since => !mustFinish p && !goesToPoint s g since
  | _ => false

/-- How many turns a split stands behind the one that issued last in its group (R46). -/
def turnsBehind (g : Group) (n : Nat) : Nat := (n + 7 - g.turn) % 4

/-- No split defers its loads any more. -/
def settleDefer (s : State) : State :=
  { s with
    sp := { s.sp with defer := false }
    g := { s.g with others := s.g.others.map fun p => { p with defer := false } } }

/-- The split is at the JPC of its top record (R44). -/
def atJoin (s : State) : Bool :=
  match s.sp.recon with
  | r :: _ => s.g.recs.any fun x => x.id == r && x.jpc == s.sp.pc
  | [] => false

/-- An instruction moves operands or data over the bond (R320): a vector instruction, or one that fills, drains or copies into operand
slots and tiles. -/
def crossesBond (i : Instr) : Bool :=
  match i with
  | .ofill .. | .bcopyInSlot .. | .mmag .. | .mmarow .. | .sptile .. => true
  | .adrain .. | .adrainRaw .. | .adrainRawSlot .. | .aload .. | .aloadAdd .. | .aloadRaw .. => true
  | i => match i.shape with | .bc r _ => decide (0x40 ≤ r.op.toNat ∧ r.op.toNat < 0x80) | _ => false

/-- An instruction needs the bond, whose tenon ports are clamped in the group's bay (R320, R350, R357): it waits. -/
def bondClamped (s : State) (i : Instr) : Bool := s.dev.clamped.contains (bayOf s.tm.core) && crossesBond i

/-- What stands at the split's PC. -/
inductive AtPc where
  /-- An instruction. -/
  | instr (i : Instr)
  /-- Words that are no instruction, with the cause and what TADDR holds (R152, R153). -/
  | illegal (cause : BitVec 8) (addr : DWord)
  /-- Pad units, and the unit address after them (R138). -/
  | pads (pc : DWord)
  /-- The fetch raises a cause (R137, R140). -/
  | fail (t : Trap)
  /-- The MP has been asked for the page (R91). -/
  | asked
  deriving DecidableEq, Repr

/-- Reads the instruction at unit `k` of a line (R138, R140, R153). -/
noncomputable def readUnits (ws : List Word) (k : Nat) : AtPc :=
  if !lineVersionOk ws then .illegal 0x02 ((ws.getD 15 0).setWidth 64)
  else
    match decode ((ws.take 15).drop k) with
    | .ok i => .instr i
    | .error .opcode => .illegal 0x01 ((ws.getD k 0).setWidth 64)
    | .error _ => .illegal 0x02 ((ws.getD k 0).setWidth 64)

/-- Fetches and decodes at the PC of the split in focus (R136 to R140, R153). -/
noncomputable def lookAtPc (s : State) : State × AtPc :=
  let va := lineVa s.sp.pc
  match fetchLineAt s s.agent va (unitVa s.sp.pc) with
  | (s, .bad c a) =>
    (if c = 0x15 then lineRecord s a else s, .fail { cause := c, addr := BitVec.ofNat 64 a, lanes := s.exec })
  | (s, .miss page) =>
    if declinedFor s page then
      (dropAsk s page, .fail { cause := 0x11, addr := BitVec.ofNat 64 (unitVa s.sp.pc), lanes := s.exec })
    else (askPage s page, .asked)
  | (s, .line ws) =>
    let k := skipPads 15 (unitIn s.sp.pc) ws
    if k = unitIn s.sp.pc then (s, readUnits ws k)
    else (s, .pads (s.sp.pc + BitVec.ofNat 64 (k - unitIn s.sp.pc)))

/-! ## Placing one instruction (the host's State.withFetchWord) -/

/-- The parity bits of a line whose sixteenth word has its low 28 bits set (R139). -/
def sealLine (us : List Word) (low : Word) : List Word :=
  let bit := fun (b : Bool) (k : Nat) => if b then (0 : Word) else BitVec.ofNat 32 (2 ^ k)
  let p0 := bit (parityEven (us.take 4)) 28
  let p1 := bit (parityEven ((us.drop 4).take 4)) 29
  let p2 := bit (parityEven ((us.drop 8).take 4)) 30
  let p3 := bit (parityEven ((us.drop 12).take 3 ++ [low])) 31
  us ++ [low ||| p0 ||| p1 ||| p2 ||| p3]

/-- The VA of the page that a placed program lies in: placement 4, page 1 of the spread space. -/
def placedVa : Nat := 0xFF00000000001000
/-- The unit address of its first unit. -/
def placedPc : DWord := BitVec.ofNat 64 (15 * (placedVa / 64))
/-- The page-table entry of that page: writable, executable, user, 4 KiB, context 1, frame 16. -/
def placedPte : Quad := mkPte 0 true true true 0 0 false 1 (pageOf placedVa) 16

/-- The launch record of a placed program: one gang of one team of one group, every vector register. -/
def placedRec : LaunchRec :=
  { LaunchRec.blank with entry := placedPc, gangs := 1, groups := 1, teams := 1, bars := 16, vregs := 256
                         slots := 32, tiles := 8, report := true, asid := 1 }

/-- Barrier 0 of a team (R255). -/
def barrierZero (n : Nat) : Barrier := { Barrier.none with init := true, exitc := true, expect := n }

/-- A placed program's split, group, team, gang, launch and context, as a launch of the record gives them
(R317), with 64 KiB of scratchpad. -/
def placeProgram (s : State) (lanes : Word) : State :=
  { s with
    sp := { Split.none with live := true, pc := placedPc, mask := lanes }
    g := { Group.blank with id := 1, team := 1, nv := 256, launched := lanes, retired := false }
    tm := { Team.blank with
      id := 1, gang := 1, ngroups := 1, nbars := 16, lds := 65536, freed := false
      barriers := barrierZero 1 :: List.replicate 15 Barrier.none
      slots := List.replicate 32 Slot.none, tiles := List.replicate 8 Tile.none
      granules := [(0, 0), (0, 1), (0, 2), (0, 3)] }
    gangs := [{ Gang.blank with
      id := 1, launch := 1, nteams := 1, retired := false, gbar := barrierZero 1 }]
    launches := [{ Launch.blank with id := 1, rcd := placedRec, placed := 1 }]
    sched := { s.sched with
      nextId := 2
      ctxs := [{ asid := 1, errq := none, kvPool := 0, snapReserve := 0, pools := [], ctrPage := none, debugger := false
                 closing := none, due := false, killedGangs := 0, gone := false }] }
    mem := insertPte s.mem placedPte
    rel := { s.rel with acc := (List.range 8).map fun k =>
      { target := k, idx := 0, word := 0xFFFFFFFF_00000000_00000000_00010007#128 } }
    agenda := [{ ticks := 1, act := .issue { gid := 1, sp := 0 } }] }

/-- Puts units into the first line of the placed page, with a line word that marks unit 0, and pads after
them. -/
def placeUnits (s : State) (us : List Word) : State :=
  let line := sealLine ((us ++ List.replicate 15 0xFFFFFFFF).take 15) 0x00100001
  let cells := (List.range 64).zip (bytesOfWords line)
  let a := physOf placedPte placedVa
  { s with mem := { s.mem with phys := pokeBytes s.mem.phys (cells.map fun c => (a + c.1, c.2)) } }

/-- The units of an instruction whose bits are `w`: as many as its length says. -/
def tableUnits (nbits w : Nat) : List Word :=
  let us := toWords 3 (w % 2 ^ nbits)
  us.take (lengthOf (us.headD 0))

end Sys2Proof.Machine
end

