-- ==== Sys2Proof/Machine/Barrier.lean ====
section
/-! DEFINITION. Barriers (R254 to R259) and their watchdog (R399 to R401, R425, R426). -/

namespace Sys2Proof.Machine

/-! ## The instructions -/

/-- A barrier number is below 16 and the entry's BARS (R254). -/
def barNumberOk (s : State) (n : Nat) : Bool := n < 16 && n < s.tm.nbars

/-- An accepted engine command of the team names a barrier (R255). -/
def engineNames (s : State) (tid n : Nat) : Bool := s.eng.cmds.any fun c => c.tid == tid && c.flags.bar == some n

/-- `bar.init` (R255). -/
def initBarrier (i : Shape) (x : Args) (s : State) : Res :=
  let n := (scalar32 s x x.a).toNat
  let expect := (scalar32 s x x.b).toNat
  if s.exec = 0 then .done s
  else if !barNumberOk s n || n == 0 || expect == 0 || 65535 < expect then raiseEncoding i s
  else
    let b := getBar s s.tm.id n
    if !b.waiters.isEmpty || engineNames s s.tm.id n then raiseExec s 0x20 (BitVec.ofNat 64 n)
    else
      .done (setBar s s.tm.id n
        { init := true, lanes := x.fn.getLsbD 0, exitc := x.fn.getLsbD 1, expect := expect, cur := [], nxt := []
          engine := 0, waiters := [], phase := b.phase, last := s.gt })

/-- An arrival at a numbered barrier, with the check of its number (R254, R256). -/
def arriveNumbered (i : Shape) (x : Args) (sync : Bool) (dest : Option Nat) (s : State) : Res :=
  let n := (scalar32 s x x.a).toNat
  let again := s.sp.arrival.any fun a => a.pc == s.sp.pc
  if s.exec = 0 then .done s
  else if !again && !barNumberOk s n then raiseEncoding i s
  else arriveAt n sync dest (nextPc i s) s

/-- Marks an arrival whose phase has not completed as invalidated (R257). -/
def markInval (n phase : Nat) (o : Option Arrival) : Option Arrival :=
  o.map fun a => if a.bar == n && (decide (phase ≤ a.phase) || !a.todo.isEmpty) then { a with inval := true } else a

/-- Every waiter of a team's barrier learns that it has been invalidated (R257). -/
def invalWaiters (s : State) (tid n phase : Nat) : State :=
  let mark := fun (p : Split) => { p with arrival := markInval n phase p.arrival }
  let group := fun (g : Group) => { g with
    others := g.others.map mark
    shadow := g.shadow.map fun h => { h with arrival := markInval n phase h.arrival } }
  let s := updGroups s (fun g => g.team == tid && g.id != 0) group
  if s.g.team = tid then { s with sp := mark s.sp } else s

/-- `bar.inval` (R257). -/
def invalBarrier (i : Shape) (x : Args) (s : State) : Res :=
  let n := (scalar32 s x x.a).toNat
  if s.exec = 0 then .done s
  else if !barNumberOk s n || n == 0 then raiseEncoding i s
  else
    let b := getBar s s.tm.id n
    .done (setBar (invalWaiters s s.tm.id n b.phase) s.tm.id n { Barrier.none with phase := b.phase })

/-- `gbar` (R258). -/
def gangArrival (i : Shape) (dest : Option Nat) (s : State) : Res :=
  if s.exec = 0 then .done s else arriveAt gbarNo true dest (nextPc i s) s

/-- `bar.init` (R254, R255). -/
def execBarInit (x : Args) (s : State) : Host.Outcome State Fault Refusal :=
  run (.barInit x) (initBarrier (.barInit x) x) s

/-- `bar.arrive` (R254, R256). -/
def execBarArrive (x : Args) (s : State) : Host.Outcome State Fault Refusal :=
  run (.barArrive x) (arriveNumbered (.barArrive x) x false none) s

/-- `bar.sync` (R254, R256). -/
def execBarSync (x : Args) (s : State) : Host.Outcome State Fault Refusal :=
  run (.barSync x) (arriveNumbered (.barSync x) x true none) s

/-- `bar.sync.st` (R254, R256, R257). -/
def execBarSyncSt (x : Args) (s : State) : Host.Outcome State Fault Refusal :=
  run (.barSyncSt x) (arriveNumbered (.barSyncSt x) x true (some x.d.toNat)) s

/-- `bar.inval` (R254, R257). -/
def execBarInval (x : Args) (s : State) : Host.Outcome State Fault Refusal :=
  run (.barInval x) (invalBarrier (.barInval x) x) s

/-- `gbar` (R254, R258). -/
def execGbar (x : Args) (s : State) : Host.Outcome State Fault Refusal :=
  run (.gbar x) (gangArrival (.gbar x) none) s

/-- `gbar.st` (R254, R258). -/
def execGbarSt (x : Args) (s : State) : Host.Outcome State Fault Refusal :=
  run (.gbarSt x) (gangArrival (.gbarSt x) (some x.d.toNat)) s

/-- Whether the split in focus waits in a `bar.sync` or `gbar` whose phase has completed. -/
def waitOver (s : State) : Bool :=
  match s.sp.arrival with
  | some a =>
    a.sync && a.pc == s.sp.pc && !a.inval && a.todo.isEmpty && decide (a.phase < (getBar s s.tm.id a.bar).phase) &&
      s.g.late.isEmpty && s.sp.event.isNone
  | none => false

/-- A waiting `bar.sync` or `gbar` returns: the acquire, then its status (R256). -/
def leaveBarrier (s : State) : State :=
  match s.sp.arrival with
  | some a =>
    let s := returnFrom s a
    { s with sp := { s.sp with pc := a.next, wait := none, since := s.gt } }
  | none => s

/-- A waiting `bar.sync` returns once its phase completes (R256), though not inside a latch chain of its group (R52); what cannot return
stays as it is. -/
def execBarWaitRelease (gid sp : Nat) (s : State) : Host.Outcome State Fault Refusal :=
  let t := focus s { gid := gid, sp := sp }
  if mayIssue t && waitOver t && !chainOpen t gid then .next (leaveBarrier t) else .next s

/-! ## The watchdog (R259, R399 to R401) -/

/-- Waiters of a barrier whose group is not in a handler and has not been stopped (R404). -/
def Barrier.idle (s : State) (b : Barrier) : List (Nat × Nat × Nat) :=
  b.waiters.filter fun w => !(findGroup s w.1).inHandler && !(findGroup s w.1).halted

/-- The tick at which the wait of a waiter began. -/
def waitBegan (s : State) (w : Nat × Nat × Nat) : Nat :=
  match (findSplit s w.1 w.2.1).arrival with
  | some a => a.since
  | none => s.gt

/-- A watchdog that has counted since a tick fires at the end of this tick (R399): it is a test, and the period is over. -/
def watchdogFires (s : State) (period since : Nat) : Bool := s.gt % 1024 == 0 && decide (since + period ≤ s.gt) && tickOver s

/-- The first test, now or later, at which a watchdog that has counted since a tick fires (R399). -/
def firstTest (s : State) (period since : Nat) : Nat := 1024 * ceilDiv (max s.gt (since + period)) 1024

/-- The teams a barrier of a team spans, by member. -/
def barTeams (s : State) (tid n : Nat) : List Team :=
  let t := findTeam s tid
  if n = gbarNo then sortBy (fun (y : Team) => y.member) ((allTeams s).filter fun y => y.gang == t.gang && y.id != 0)
  else [t]

/-- What a barrier's watchdog counts (R259, R399), if its gang runs and it has a waiter: the period, and the tick it counts from. -/
def barrierWatch (s : State) (tid n : Nat) : Option (Nat × Nat) :=
  let b := getBar s tid n
  let ga := findGang s (findTeam s tid).gang
  let l := b.idle s
  if !l.isEmpty && ga.st == .running then
    some (watchPeriod (findLaunch s ga.launch), max b.last (lowest (l.map (waitBegan s))))
  else none

/-- Whether a barrier's watchdog fires now (R259, R399). -/
def barrierFires (s : State) (tid n : Nat) : Bool := (barrierWatch s tid n).any fun w => watchdogFires s w.1 w.2

/-- The groups of a team by number. -/
def teamGroups (s : State) (tid : Nat) : List Group :=
  sortBy (fun (g : Group) => g.idx) ((allGroups s).filter fun g => g.team == tid)

/-- The PC of a group's lowest-numbered split. -/
def lowestPc (s : State) (g : Group) : DWord :=
  match lowestSplit ((splitsOf s g.id).filter fun p => p.live) with
  | some p => p.pc
  | none => g.lastExit

/-- A group's state at a timeout, and its PC (R380, R400, R425): 0 running, 1 arrived in the phase of the oldest
waiter, 2 waiting on it, 3 exited. One in a handler is running (R404). -/
def timeoutEntry (s : State) (b : Barrier) (g : Group) : DWord :=
  let l := b.idle s
  let oldest := lowest (l.map fun w => w.2.2)
  let came := if oldest = b.phase then b.cur else b.nxt
  let mine := l.find? fun w => w.1 == g.id && w.2.2 == oldest
  let e : Nat × DWord :=
    if whollyExited g then (3, g.lastExit)
    else match mine with
      | some w => (2, (findSplit s g.id w.2.1).pc)
      | none => (if !g.inHandler && came.any fun u => u.1 == g.id then 1 else 0, lowestPc s g)
  BitVec.ofNat 64 (e.2.toNat % 2 ^ 60 + e.1 * 2 ^ 60)

/-- The TIMEOUT record of one team (R400): it names the team's lowest-numbered waiting group, or group 0. -/
def timeoutRecord (s : State) (b : Barrier) (n : Nat) (t : Team) : State :=
  let gs := teamGroups s t.id
  let l := b.idle s
  let first := (gs.find? fun g => l.any fun w => w.1 == g.id).getD (gs.headD Group.blank)
  let base := { groupRcd s first (Rcd.blank 0x0A) with
    addr := BitVec.ofNat 64 n, extra := BitVec.ofNat 32 t.ngroups, cont := gs.map (timeoutEntry s b) }
  match l.find? fun w => w.1 == first.id with
  | some w =>
    let p := findSplit s w.1 w.2.1
    writeRecord s { base with split := p.num, pc := p.pc, lanes := p.mask &&& p.pred.headD 0 }
  | none => writeRecord s { base with pc := lowestPc s first }

/-- A split raises a cause where it waits, unless its group is in a handler or has been stopped (R404). While a latch chain of the group is
open, the cause waits for its end (R52). -/
def trapWaiter (cause : BitVec 8) (addr : Nat) (s : State) (w : Who) : State :=
  let t := focus s w
  if t.g.inHandler || t.g.halted || !t.sp.live then s
  else if chainOpen t w.gid then { t with sp := { t.sp with event := some (cause, addr) } }
  else
    takeTrap t { cause := cause, addr := BitVec.ofNat 64 addr, lanes := t.exec } t.sp.chain.isSome t.sp.pc

/-- No waiter's handler in a gang issues before every TRAP record of a barrier's timeout is performed (R426). -/
def levelTraps (s : State) (gang : Nat) : State :=
  let mine := fun (g : Group) => g.id != 0 && g.inHandler && g.entry == 0x21 && (findTeam s g.team).gang == gang
  let last := ((allGroups s).filter mine).foldl (fun n g => max n g.recTill) 0
  updGroups s mine fun g => { g with recTill := last }

/-- The split in focus takes the cause that an asynchronous event has raised, once no latch chain of its group is open (R52, R426). -/
def takeEvent (s : State) (e : BitVec 8 × Nat) : State :=
  if chainOpen s s.g.id then park (s.sp.wait.getD .hold) s
  else
    let t := { s with sp := { s.sp with event := none } }
    levelTraps (takeTrap t { cause := e.1, addr := BitVec.ofNat 64 e.2, lanes := t.exec } false t.sp.pc) t.tm.gang

/-- A barrier's watchdog fires (R259, R400, R426): every TIMEOUT record, then every waiter's trap. -/
def fireBarrier (s : State) (tid n : Nat) : State :=
  let b := getBar s tid n
  let l := sortBy (fun (w : Nat × Nat × Nat) => 4 * w.1 + w.2.1) (b.idle s)
  let s := (barTeams s tid n).foldl (fun s t => timeoutRecord s b n t) s
  let s := setBar s tid n { b with waiters := b.waiters.filter fun w => !l.contains w }
  levelTraps (l.foldl (fun s w => trapWaiter 0x21 n s { gid := w.1, sp := w.2.1 }) s) (findTeam s tid).gang

/-- A barrier watchdog fires (R259, R399, R400); where it does not fire, nothing happens. -/
def execBarrierTimeout (tid bar : Nat) (s : State) : Host.Outcome State Fault Refusal :=
  .next (if barrierFires s tid bar then fireBarrier s tid bar else s)

/-! ## Other watchdogs (R246, R399) -/

/-- What the watchdog of a split's wait on a FIFO bank counts (R246, R399): the bank, the period, and the tick it counts from. -/
def fifoWatch (s : State) (g : Group) (p : Split) : Option (Nat × Nat × Nat) :=
  match p.wait with
  | some (.fifo n) =>
    let last := match findBank s (clusterOf (findTeam s g.team).core) n with | some b => b.last | none => 0
    if (gangOfGroup s g).st == .running && p.live && p.event.isNone && !g.inHandler && !g.halted then
      some (n, watchPeriod (launchOfGroup s g), max last p.since)
    else none
  | _ => none

/-- The FIFO bank on which the split in focus waits, if its watchdog fires now (R246, R399): no push or pop for the period. -/
def fifoFires (s : State) : Option Nat :=
  (fifoWatch s s.g s.sp).bind fun w => if watchdogFires s w.2.1 w.2.2 then some w.1 else none

/-- A group's entry in a TIMEOUT record of a wait that is no barrier's (R380): 3 exited, 2 with the PC of its split that waits for the same,
else 0. -/
def waitEntry (s : State) (waits : Split → Bool) (g : Group) : DWord :=
  let e : Nat × DWord :=
    if whollyExited g then (3, g.lastExit)
    else match if g.inHandler then none else lowestSplit ((splitsOf s g.id).filter fun p => p.live && waits p) with
      | some p => (2, p.pc)
      | none => (0, lowestPc s g)
  BitVec.ofNat 64 (e.2.toNat % 2 ^ 60 + e.1 * 2 ^ 60)

/-- The TIMEOUT record of a FIFO wait: it names the waiting group, with its team's groups as entries (R379,
R380). -/
def fifoRecord (s : State) (n : Nat) : State :=
  let entry := waitEntry s fun p => p.wait == some (.fifo n)
  writeRecord s { groupRcd s s.g (Rcd.blank 0x0A) with
    split := s.sp.num, pc := s.sp.pc, addr := BitVec.ofNat 64 (0x100 + n), lanes := s.exec
    extra := BitVec.ofNat 32 s.tm.ngroups, cont := (teamGroups s s.tm.id).map entry }

/-- A blocking FIFO wait's watchdog fires, and the split raises 0x21 (R246, R399). -/
def execFifoTimeout (gid sp : Nat) (s : State) : Host.Outcome State Fault Refusal :=
  let t := focus s { gid := gid, sp := sp }
  match fifoFires t with
  | some n =>
    .next (trapWaiter 0x21 (0x100 + n) (fifoRecord t n) { gid := gid, sp := sp })
  | none => .next s

end Sys2Proof.Machine
end

