-- ==== Sys2Proof/Machine/Launching.lean ====
section
/-! DEFINITION. Launch records, their checks, launch queues, completion counters (R37, R310 to R314, R324). -/

namespace Sys2Proof.Machine

/-! ## Blocks of cores (R37, R315) -/

/-- Rows and columns of the block a gang of some teams takes (R37). -/
def shapeOf (teams : Nat) : Nat × Nat :=
  match teams with
  | 1 => (1, 1)
  | 2 => (1, 2)
  | 4 => (2, 2)
  | 8 => (2, 4)
  | _ => (4, 4)

/-- The origins of a shape in a cluster, as core numbers y * 4 + x in rising order (R37). -/
def originsOf (teams : Nat) : List Nat :=
  (List.range 16).filter fun o => o / 4 % (shapeOf teams).1 == 0 && o % 4 % (shapeOf teams).2 == 0

/-- The cores of a block by member index (R37). -/
def blockCores (cluster teams origin : Nat) : List Nat :=
  (List.range teams).map fun m => 16 * cluster + origin + m / (shapeOf teams).2 * 4 + m % (shapeOf teams).2

/-- The cores a test's targets hold (R421). -/
def FieldTest.holds (t : FieldTest) (core : Nat) : Bool := t.targets.contains (if t.bays then bayOf core else core)

/-- Whether a core is in service (R27, R315, R408): it is not fenced, nor test-fenced (R421). -/
def coreUp (s : State) (core : Nat) : Bool :=
  bayHealthy s (bayOf core) && !s.dev.retired.contains (0x09, core) && !s.dev.test.any fun t => t.holds core

/-- The scratchpad granules a cluster's banks hold: 16 in each bank of scratchpad role (R94, R97). -/
def clusterGranules (s : State) (cluster : Nat) : Nat :=
  16 * (s.eng.banks.filter fun b => b.cluster == cluster && b.role == .scratch).length

/-- The granules a gang needs (R315). -/
def gangGranules (r : LaunchRec) : Nat := r.teams * ceilDiv r.lds 16384

/-- Whether a gang's shape fits some cluster whose healthy cores are all free (R94, R311). -/
def shapeFits (s : State) (r : LaunchRec) : Bool :=
  (List.range 16).any fun c => decide (gangGranules r ≤ clusterGranules s c) &&
    (originsOf r.teams).any fun o => (blockCores c r.teams o).all (coreUp s)

/-! ## Launch records (R310, R311) -/

/-- Bits of a word as a number. -/
def fieldOf (w : Word) (hi lo : Nat) : Nat := bitsOf w.toNat hi lo

/-- The fields of a launch record from its sixteen words (R310). -/
def parseLaunch (ws : List Word) : LaunchRec :=
  let w := fun (k : Nat) => ws.getD k 0
  let pair := fun (k : Nat) => w (k + 1) ++ w k
  { entry := pair 0, pool := pair 2, args := pair 4, gangs := (w 6).toNat
    groups := fieldOf (w 7) 7 0, teams := fieldOf (w 7) 15 8, bars := fieldOf (w 7) 23 16
    lanes := fieldOf (w 7) 31 24
    vregs := fieldOf (w 8) 15 0, slots := fieldOf (w 8) 23 16, tiles := fieldOf (w 8) 31 24, lds := (w 9).toNat
    w0val := w 10, w1val := w 11
    w0ctr := fieldOf (w 12) 11 0, w0en := (w 12).getLsbD 15, w1ctr := fieldOf (w 12) 27 16
    w1en := (w 12).getLsbD 31
    sigctr := fieldOf (w 13) 11 0, sigen := (w 13).getLsbD 15, prio := fieldOf (w 13) 18 16
    red := (w 13).getLsbD 19, scr := (w 13).getLsbD 20, report := (w 13).getLsbD 21, split := (w 13).getLsbD 22
    wdog := fieldOf (w 13) 27 23
    asid := (w 14).setWidth 16, kpt := fieldOf (w 14) 31 16, ntile := (w 15).toNat }

/-- The reserved fields are zero (R310). -/
def launchReserved (ws : List Word) : Bool :=
  fieldOf (ws.getD 12 0) 14 12 == 0 && fieldOf (ws.getD 12 0) 30 28 == 0 && fieldOf (ws.getD 13 0) 14 12 == 0 &&
    fieldOf (ws.getD 13 0) 31 28 == 0

/-- Every field lies in its range (R310, R311). -/
def launchRanges (r : LaunchRec) : Bool :=
  1 ≤ r.gangs && 1 ≤ r.groups && r.groups ≤ 16 && [1, 2, 4, 8, 16].contains r.teams && 1 ≤ r.bars && r.bars ≤ 16 &&
    r.lanes ≤ 32 && 8 ≤ r.vregs && r.vregs ≤ 256 && r.vregs % 8 == 0 && r.slots ≤ 32 && r.tiles ≤ 8 &&
    r.lds ≤ 2 ^ 24 && (r.wdog == 0 || (16 ≤ r.wdog && r.wdog ≤ 30)) &&
    (if r.split then 1 ≤ r.kpt && 1 ≤ r.ntile else r.kpt == 0 && r.ntile == 0) && r.vregs * r.groups ≤ 4096

/-- A counter belongs to a context (R313). -/
def ownsCounter (s : State) (asid : BitVec 16) (c : Nat) : Bool := s.sched.owners.contains (c, asid)

/-- The enabled waits and signals name counters of the record's context (R311). -/
def launchCounters (s : State) (r : LaunchRec) : Bool :=
  (!r.w0en || ownsCounter s r.asid r.w0ctr) && (!r.w1en || ownsCounter s r.asid r.w1ctr) &&
    (!r.sigen || ownsCounter s r.asid r.sigctr)

/-- What the dispatcher's fetch of ENTRY finds (R311). -/
inductive EntryCheck where
  | ok
  | bad
  | ask (page : Nat)
  deriving DecidableEq, Repr

/-- The dispatcher fetches ENTRY's line for the record's context (R141, R311). It is no core, so nothing is
kept. -/
def checkEntry (s : State) (r : LaunchRec) : EntryCheck :=
  let va := lineVa r.entry
  match seeFetch s { asid := r.asid, core := 256, super := false, mkind := mkContext } va with
  | .miss => .ask (pageOf va)
  | .page p =>
    let ws := homeLineWords s p va
    if lineParityOk ws && lineVersionOk ws && targetOk ws (unitIn r.entry) then .ok else .bad
  | _ => .bad

/-! ## Queues and counters (R312, R313) -/

/-- The value of a counter. -/
def counterOf (s : State) (c : Nat) : Word := peek s.sched.counters c

/-- A wait on a counter is satisfied (R313). -/
def waitMet (s : State) (c : Nat) (v : Word) : Bool := !(counterOf s c - v).msb

/-- Every enabled wait of a record is satisfied (R312). DESIGN CHOICE: a counter that has been released or assigned to another context since
the record was queued still counts (log 169). -/
def launchEligible (s : State) (r : LaunchRec) : Bool :=
  (!r.w0en || waitMet s r.w0ctr r.w0val) && (!r.w1en || waitMet s r.w1ctr r.w1val)

/-- Heads that have become eligible note the tick (R314). -/
def noteEligible (s : State) : State :=
  { s with sched := { s.sched with queues := s.sched.queues.map fun q =>
      match q.entries with
      | e :: rest =>
        if e.since.isNone && launchEligible s e.rcd then { q with entries := { e with since := some s.gt } :: rest }
        else q
      | [] => q } }

/-- The word of a counter on its owner's page of counters takes its value (R313). -/
def showCounter (s : State) (c : Nat) : State :=
  match s.sched.owners.find? fun o => o.1 == c with
  | none => s
  | some o =>
    match (findCtx s o.2).bind fun x => x.ctrPage with
    | some va => mpWrite s o.2 (va.toNat + 4 * c) (toBytes 4 (counterOf s c).toNat)
    | none => s

/-- A counter rises modulo 2^32 (R313). -/
def addCounter (s : State) (c : Nat) (n : Word) : State :=
  noteEligible (showCounter
    { s with sched := { s.sched with counters := poke s.sched.counters c (counterOf s c + n) } } c)

/-- The pool size the loader reported for a VA (R165, R243). -/
def poolSizeAt (s : State) (asid : BitVec 16) (va : DWord) : Nat :=
  match findCtx s asid with
  | some c => ((c.pools.find? fun p => p.1 == va).map Prod.snd).getD 0
  | none => 0

/-- A launch queue. -/
def queueAt (s : State) (q : Nat) : LQueue :=
  s.sched.queues.getD q { asid := none, opened := false, entries := [], nextPos := 0 }

/-- Replaces a launch queue. -/
def updQueue (s : State) (q : Nat) (f : LQueue → LQueue) : State :=
  { s with sched := { s.sched with queues := updateAt s.sched.queues q f } }

/-- Queues a record (R312). -/
def enqueue (s : State) (q : Nat) (r : LaunchRec) : State :=
  noteEligible (updQueue s q fun y =>
    { y with
      nextPos := y.nextPos + 1
      entries := y.entries ++
        [{ pos := y.nextPos, rcd := r, poolSize := poolSizeAt s r.asid r.pool, replay := 0, since := none
           prio7 := none, placed := 0, running := none }] })

/-- What becomes of a record that is given to a queue (R186, R311): a status, or a page to be asked for. `own` is
the issuer's context, none for the control node. -/
inductive Queued where
  | status (code : Word) (s : State)
  | ask (page : Nat)
  deriving DecidableEq, Repr

/-- The page of ENTRY's line. -/
def entryPage (r : LaunchRec) : Nat := pageOf (lineVa r.entry)

/-- The device accepts launches: its MP runs (R23), bay 0 has not been fenced wholly, which may have taken its router, and a bridge of it is
in service (R419; log 168). -/
def takesLaunches (s : State) : Bool :=
  s.dev.power == .on && !s.dev.retired.contains (0x0A, 0) && !([1, 2].all fun k => s.dev.retired.contains (0x0C, k))

/-- A record is checked and queued (R186, R311, R312): rejected 2, denied 3, full 1, queued 0. `declined` says that
the MP has declined ENTRY's page. DESIGN CHOICE (log 140): R186 gives no order among the statuses; 2 is tested first, then 3, then 1.
A device that accepts no launches denies one (log 147). A queue is open to the context it belongs to, also while the MP has closed it to
placement (log 189). -/
def submit (s : State) (q : Nat) (ws : List Word) (own : Option (BitVec 16)) (declined : Nat → Bool) : Queued :=
  let r := parseLaunch ws
  if 64 ≤ q || !launchReserved ws || !launchRanges r || !launchCounters s r || !shapeFits s r then .status 2 s
  else
    let y := queueAt s q
    let place : Queued :=
      if !takesLaunches s || y.asid != some r.asid || !(own.all fun a => a == r.asid) then .status 3 s
      else if 128 ≤ y.entries.length then .status 1 s
      else .status 0 (enqueue s q r)
    match checkEntry s r with
    | .ok => place
    | .bad => .status 2 s
    | .ask p => if declined p then .status 2 s else .ask p

/-! ## Persistent split mode (R188, R324) -/

/-- The k-th work item of a team, as the four words `wget` writes (R188, R324). -/
def workItem (r : LaunchRec) (team k : Nat) : List Word :=
  let t := r.gangs * r.teams
  let i := r.ntile * r.kpt
  let lo := team * i / t
  let hi := (team + 1) * i / t
  let start := if k = 0 then lo else (lo / r.kpt + k) * r.kpt
  if !r.split || hi ≤ start then [0, 0, 0, 0x80000000]
  else
    let tile := start / r.kpt
    let stop := min hi ((tile + 1) * r.kpt)
    let first := start % r.kpt == 0
    let last := stop == (tile + 1) * r.kpt
    [BitVec.ofNat 32 tile, BitVec.ofNat 32 (start % r.kpt), BitVec.ofNat 32 (start % r.kpt + (stop - start)),
     BitVec.ofNat 32 ((if first then 1 else 0) + (if last then 2 else 0) + (if last && !first then 4 else 0))]

end Sys2Proof.Machine
end

