-- ==== Sys2Proof/Machine/Mapping.lean ====
section
/-! DEFINITION. Changes of mappings (R83, R87, R91 to R93, R228): installing a page, invalidating and removing one,
free frames. -/

namespace Sys2Proof.Machine

/-- The VA of a page's first byte. -/
def pageBase (p : Quad) : Nat := vaOfPage (pteTag p)
/-- A number of a 4 KiB page lies in a page. -/
def pageIn (p : Quad) (page : Nat) : Bool := decide (pteTag p ≤ page ∧ page < pteTag p + 4 ^ pteSize p)
/-- A line of `size` bytes lies in a page. -/
def lineOfPage (p : Quad) (size line : Nat) : Bool := pageIn p (line * size / 4096)
/-- A holder's ASID is that of a page, or the page is global. -/
def pageFor (p : Quad) (asid : BitVec 16) : Bool := asid == pteAsid p || pteAsid p == 0

/-- Lines of a page are pinned, or stores to it, or loads and atomics that are performed later, are on their way: the page cannot be
invalidated yet (R87, R189). -/
def pageBusy (s : State) (p : Quad) : Bool :=
  let mine := fun (c : CLine) => c.asid == pteAsid p && lineOfPage p 128 c.line && anyPinned c s.gt
  s.mem.l1.any mine || s.mem.cc.any mine ||
    (s.mem.flight.any fun f => f.asid == pteAsid p && !isFar f.va && pageIn p (pageOf f.va)) ||
    (allGroups s).any fun g => pageFor p (launchOfGroup s g).rcd.asid &&
      ((g.late.any fun y => !y.lcl && y.elems.any fun e => pageIn p (pageOf e.2)) ||
        (splitsOf s g.id).any fun q => q.request.any fun r => r.lanes.any fun y => y.got.isNone && !isFar y.va && pageIn p (pageOf y.va))

/-- Every cache gives up a page (R87): contributions merge, lines and attributes go. -/
def invalidatePage (s : State) (p : Quad) : State :=
  let s := mergeCore s fun u => u.asid == pteAsid p && lineOfPage p 128 u.line
  let stay := fun (c : CLine) => !(c.asid == pteAsid p && lineOfPage p 128 c.line)
  let m := clearPac s.mem p
  { s with mem := { m with
    l1 := m.l1.filter stay, cc := m.cc.filter stay
    icache := m.icache.filter fun c => !(c.asid == pteAsid p && lineOfPage p 64 c.line) } }

/-- A page is removed (R87). -/
def unmapPage (s : State) (p : Quad) : State :=
  let s := invalidatePage s p
  { s with mem := removePte s.mem p }

/-- A page's logged stores are replayed, and the questions about it are answered (R91, R92). -/
def answerPage (s : State) (p : Quad) : State :=
  let pages := s.mem.side.foldl (fun l e =>
    if pageFor p e.asid && pageIn p e.page then addOnce e.page l else l) []
  let s := pages.foldl (fun s g => replayPage s (pteAsid p) g) s
  { s with mem := { s.mem with asks := s.mem.asks.filter fun a => !(pageFor p a.asid && pageIn p a.page) } }

/-- A page is installed (R91, R92). -/
def installPage (s : State) (p : Quad) : State := answerPage { s with mem := insertPte s.mem p } p

/-- A page's entry is replaced by another for the same addresses (R87). -/
def changePage (s : State) (p q : Quad) : State := installPage (unmapPage s p) q

/-- The core of a holder that waits for the MP: a command's, or a group's. -/
def holderCore (s : State) (who : Nat) : Nat :=
  match s.eng.cmds.find? fun c => c.id == who with
  | some c => c.core
  | none => (findTeam s (findGroup s who).team).core

/-- The MP declines a page to those who wait for it and whom its answer reaches (R91, R350): their accesses fault, and logged stores are
discarded (R93, R106). -/
def declinePage (s : State) (asid : BitVec 16) (page : Nat) (block : Bool) : State :=
  let s := discardPage s asid page block
  let upd := updateWhere (fun (a : MapAsk) => a.asid == asid && a.page == page)
    (fun a =>
      let told := a.gids.filter fun k => mpReaches s (holderCore s k)
      { a with gids := a.gids.filter fun k => !told.contains k, declined := a.declined ++ told }) s.mem.asks
  { s with mem := { s.mem with asks := upd.filter fun a => !(a.gids.isEmpty && a.declined.isEmpty) } }

/-! ## Frames (R85, R413) -/

/-- Frames of each controller that a page of a size takes at a VA (R85). -/
def frameCount (va size : Nat) : Nat := max 1 (4 ^ size / stripes va)
/-- Frames of each controller that a page takes (R85). -/
def frameSpan (p : Quad) : Nat := frameCount (pageBase p) (pteSize p)

/-- The stacks on which the bytes of a page of a size at a VA lie (R84, R85). -/
def stacksAt (va size : Nat) : List Nat :=
  ((List.range (min 8 (4 ^ size))).map fun k => homeStack (va + 4096 * k)).foldl (fun l x => addOnce x l) []
/-- The stacks a page's bytes lie on (R84, R85). -/
def pageStacks (p : Quad) : List Nat := stacksAt (pageBase p) (pteSize p)

/-- Frames of each controller (R28): 15,625,000 in a stack that is whole. -/
def framesPerStack : Nat := 15625000
/-- Frames of a layer (R413). -/
def framesPerLayer : Nat := 1953125

/-- The frames from `pfn` on that a page of a size at a VA would take are, on the stacks of its bytes, of no retired layer (R413) and
under no page. -/
def framesFree (s : State) (va size pfn : Nat) : Bool :=
  let n := frameCount va size
  let homes := stacksAt va size
  decide (pfn + n ≤ framesPerStack) &&
    !(s.dev.retired.any fun u => u.1 == 0x0B && homes.contains (u.2 / 8) &&
      decide (u.2 % 8 * framesPerLayer < pfn + n ∧ pfn < (u.2 % 8 + 1) * framesPerLayer)) &&
    !(s.mem.ptes.any fun t => decide (ptePfn t.pte < pfn + n ∧ pfn < ptePfn t.pte + frameSpan t.pte) &&
      (pageStacks t.pte).any homes.contains)

/-- The lowest free run of frames for a page of a size at a VA, aligned to its length (R85; log 29). -/
def findFrames (s : State) (va size : Nat) : Option Nat :=
  let n := frameCount va size
  let starts := 0 :: (List.range 8).map (· * framesPerLayer) ++
    s.mem.ptes.map fun t => ptePfn t.pte + frameSpan t.pte
  (sortBy id (starts.map fun p => ceilDiv p n * n)).find? fun p => framesFree s va size p

/-- The cells of a page's bytes, as runs of 4 KiB, in the order of its addresses. -/
def pageRuns (p : Quad) : List Nat := (List.range (4 ^ pteSize p)).map fun k => physOf p (pageBase p + 4096 * k)

/-- The bytes of a page as the latest writes leave them, its poisoned sectors too, go to another page of the same size;
writes pending on it move with it (R106, R414). -/
def copyPage (s : State) (p q : Quad) : State :=
  let runs := (pageRuns p).zip (pageRuns q)
  let ph := latestPhys s.mem
  let phys := runs.foldl (fun m r =>
    pokeBytes (cellsOut m r.2 (r.2 + 4096)) ((cellsIn ph r.1 (r.1 + 4096)).map fun c => (c.1 + r.2 - r.1, c.2))) s.mem.phys
  let sick := runs.flatMap fun r => (s.mem.poison.filter fun k => k / 128 == r.1 / 4096).map fun k => k + r.2 / 32 - r.1 / 32
  let clean := s.mem.poison.filter fun k => !(runs.any fun r => k / 128 == r.2 / 4096)
  let left := s.mem.pend.map fun w => { w with bytes := w.bytes.filter fun c => !(runs.any fun r => c.1 / 4096 == r.2 / 4096) }
  { s with mem := { s.mem with phys := phys, poison := clean ++ sick, pend := left } }

/-- A page's bytes become zero, at once and whatever was pending there (R263). -/
def zeroPage (s : State) (p : Quad) : State :=
  let runs := pageRuns p
  { s with mem := { s.mem with
    phys := runs.foldl (fun m r => cellsOut m r (r + 4096)) s.mem.phys
    poison := s.mem.poison.filter fun k => !(runs.any fun r => k / 128 == r / 4096)
    pend := s.mem.pend.map fun w => { w with bytes := w.bytes.filter fun c => !(runs.any fun r => c.1 / 4096 == r / 4096) } } }

end Sys2Proof.Machine
end

