-- ==== Sys2Proof/Machine/System.lean ====
section
/-! DEFINITION. The system instructions 0x30 to 0x3F and the MP's service reply (R68, R181 to R194): traps and
returns, special registers, launches, signals, memory-system control. -/

namespace Sys2Proof.Machine

/-! ## Traps and returns (R192 to R194, R326) -/

/-- The save entry 0x38 of the split in focus, at an instruction boundary; a group inside a handler halts without
it (R192, R326). -/
def saveEntry (s : State) : State :=
  if s.g.inHandler then { s with g := { s.g with halted := true } }
  else takeTrap s { cause := 0x38, addr := 0, lanes := s.g.launched &&& ~~~s.g.exited } false s.sp.pc

/-- `rte` (R193): the shadow comes back; after a save entry the group leaves the core. -/
def returnBody (s : State) : Res :=
  let back := fun (s : State) =>
    let saved := s.g.entry == 0x38
    let t := settleSplits (leaveHandler s)
    if saved then { t with g := { t.g with halted := true } } else t
  if s.g.tpcw then
    match checkTransfer s s.g.tpc with
    | .ok s => .jump (back s)
    | .fail t s => .raise t s
    | .hold s => .wait .mapping s
  else .jump (back s)

/-! ## FMT and RND (R68, R183) -/

/-- A value that may stand in FMT (R68). -/
def fmtLegal (v : Word) : Bool :=
  !reservedFmt (fieldOf v 3 0) && !reservedFmt (fieldOf v 7 4) && !reservedFmt (fieldOf v 15 12) &&
    fieldOf v 9 8 != 3
/-- A value that names F64 (R68). -/
def fmtUsesF64 (v : Word) : Bool :=
  fieldOf v 3 0 == 9 || fieldOf v 7 4 == 9 || fieldOf v 15 12 == 9 || fieldOf v 9 8 == 2

/-- Writes FMT (R68). -/
def writeFmt (i : Shape) (v : Word) (s : State) : Res :=
  if !fmtLegal v then raiseEncoding i s
  else if fmtUsesF64 v && profileN s then raiseExec s 0x05 (firstUnit i)
  else .done { s with sp := { s.sp with fmt := v } }

/-- Writes RND (R183). -/
def writeRnd (i : Shape) (v : Word) (s : State) : Res :=
  if 6 ≤ v.toNat then raiseEncoding i s else .done { s with sp := { s.sp with rnd := v.setWidth 3 } }

/-! ## Special registers (R181, R182, R191) -/

/-- Word n of RKEY (R73). -/
def rkeyWord (s : State) (n : Nat) : Word := s.g.rkey.extractLsb' (32 * n) 32
/-- RKEY with word n replaced (R73). -/
def setRkeyWord (r : Quad) (n : Nat) (v : Word) : Quad :=
  let w := fun (k : Nat) => if k = n then v else r.extractLsb' (32 * k) 32
  w 3 ++ w 2 ++ w 1 ++ w 0
/-- TSAVE (R191). -/
def tsaveWord (s : State) : Word := 0#28 ++ BitVec.ofBool s.g.tpcw ++ s.g.tsplit ++ BitVec.ofBool s.g.tpmode

/-- The value of a special register (R181). -/
def specialReg (s : State) (n : Nat) : DWord :=
  let w := fun (v : Word) => v.setWidth 64
  match n with
  | 0x00 => w s.sp.fmt
  | 0x01 => s.sp.rnd.setWidth 64
  | 0x02 => w (rkeyWord s 0)
  | 0x03 => w (rkeyWord s 1)
  | 0x04 => w (rkeyWord s 2)
  | 0x05 => w (rkeyWord s 3)
  | 0x06 => s.tm.ltm.setWidth 64
  | 0x07 => BitVec.ofNat 64 s.g.ch
  | 0x08 => s.g.flags.setWidth 64
  | 0x09 => s.g.ftrap.setWidth 64
  | 0x0A => BitVec.ofNat 64 s.gt
  | 0x0B => BitVec.ofNat 64 s.dev.pool
  | 0x10 => w s.dev.cap0
  | 0x11 => s.dev.cap1
  | 0x12 => s.dev.cap2
  | 0x13 => w s.dev.cap3
  | 0x20 => s.dev.tvec
  | 0x21 => s.g.tcause.setWidth 64
  | 0x22 => s.g.tpc
  | 0x23 => s.g.taddr
  | 0x24 => w s.g.tlanes
  | _ => w (tsaveWord s)

/-- The types of reductions whose merge may set a flag: FX128 and FP32 (R60, R123). -/
def flagTy (t : Ty) : Bool := t == .fx128 || t == .f32

/-- Such reductions of a group are in the side log, or on their way to their homes (R123, R182). -/
def flagsOut (s : State) (gid : Nat) : Bool :=
  (s.mem.flight.any fun f => f.gid == gid && !isFar f.va && f.red.any fun r => flagTy r.2) ||
    s.mem.side.any fun e => e.gid == gid && e.red.any fun r => flagTy r.2

/-- Merges the reductions a group has contributed to whose merge may set a flag (R122, R182). -/
def mergeFlags (s : State) (gid : Nat) : State :=
  (s.mem.ulines.filter fun u => u.gids.contains gid && flagTy u.ty).foldl mergeLine s

/-- `sget` (R181); CH waits for the W of earlier stores and reductions, which merge then, and FLAGS for the reductions whose
merge may set a flag (R123, R182; log 23). -/
def readSpecial (x : Args) (s : State) : Res :=
  let n := x.literal.toNat % 65536
  if n = 0x07 ∧ storesOut s s.g.id then .wait .fence s
  else if n = 0x08 ∧ flagsOut s s.g.id then .wait .fence s
  else
    let s := if n = 0x07 then mergeGroup s s.g.id else if n = 0x08 then mergeFlags s s.g.id else s
    let v := specialReg s n
    .done (if specialBits n = 64 then resultPair s x.d.toNat v else resultS s x.d.toNat (v.setWidth 32))

/-- `sput` (R181, R182, R191); TVEC was refused at issue. -/
def writeSpecial (x : Args) (s : State) : Res :=
  let n := x.literal.toNat % 65536
  let v := if specialBits n = 64 then scalar64 s x x.a else (scalar32 s x x.a).setWidth 64
  let w : Word := v.setWidth 32
  let g := s.g
  match n with
  | 0x00 => writeFmt (.sput x) w s
  | 0x01 => writeRnd (.sput x) w s
  | 0x02 => .done { s with g := { g with rkey := setRkeyWord g.rkey 0 w } }
  | 0x03 => .done { s with g := { g with rkey := setRkeyWord g.rkey 1 w } }
  | 0x04 => .done { s with g := { g with rkey := setRkeyWord g.rkey 2 w } }
  | 0x05 => .done { s with g := { g with rkey := setRkeyWord g.rkey 3 w } }
  | 0x06 => .done { s with tm := { s.tm with ltm := v.setWidth 40 } }
  | 0x08 => .done { s with g := { g with flags := v.setWidth 6 } }
  | 0x09 => .done { s with g := { g with ftrap := v.setWidth 6 } }
  | 0x21 => .done { s with g := { g with tcause := v.setWidth 9 } }
  | 0x22 => .done { s with g := { g with tpc := v, tpcw := true } }
  | 0x23 => .done { s with g := { g with taddr := v } }
  | 0x24 => .done { s with g := { g with tlanes := w } }
  | 0x25 => .done { s with g := { g with tpmode := v.getLsbD 0 } }
  | _ => raisePrivilege (.sput x) s

/-! ## Launches, signals, work (R186 to R188) -/

/-- The record of `lnch` has been read: it is checked and queued, and the status written (R186, R311), once the dispatcher can be reached
(R350). -/
def launchFrom (x : Args) (s : State) (ws : List Word) : Res :=
  let q := (scalar32 s x x.b).toNat
  if !mpReaches s s.tm.core then .wait .fence s
  else match submit s q ws (some s.asid) (declinedFor s) with
  | .status v t => .done (resultS (dropAsk t (entryPage (parseLaunch ws))) x.d.toNat v)
  | .ask p => .wait .mapping (askPage s p)

/-- `lnch` (R186): a .dev release, the record as a load, the status; a poisoned record raises 0x15 (log 28). -/
def launchBody (x : Args) (s : State) : Res :=
  withRelease s 3 fun s =>
    let va := (pairOf s x.a).toNat
    if va % 64 ≠ 0 then raiseExec s 0x10 (BitVec.ofNat 64 va)
    else
      whenReady s (blockAccess va 64) fun s =>
        let r := readAll s (blockAccess va 64).elems 8 true
        if r.2.any fun e => e.2.2 then raisePoison r.1 (blockAccess va 64) r.2
        else launchFrom x r.1 ((blockValues r.2).flatMap wordsOf)

/-- `sig` at a scope (R187), which counts once the dispatcher can be reached (R350). -/
def signalBody (x : Args) (scope : Nat) (s : State) : Res :=
  let c := (scalar32 s x x.a).toNat
  let n := scalar32 s x x.b
  if !ownsCounter s s.asid c then raiseExec s 0x13 (BitVec.ofNat 64 c)
  else withRelease s scope fun s => if mpReaches s s.tm.core then .done (addCounter s c n) else .wait .fence s

/-! ## Memory-system control (R95, R189) -/

/-- A gang's saved context has left its cores, and its teams hold no allocation (R95, R328). -/
def Gang.away (g : Gang) : Bool := match g.st with | .saved _ => true | _ => false

/-- A live allocation lies in a bank of a cluster (R95). -/
def bankInUse (s : State) (cluster bank : Nat) : Bool :=
  (allTeams s).any fun t => clusterOf t.core == cluster && !t.freed && !(findGang s t.gang).away &&
    t.granules.any fun g => g.1 == bank

/-- A range of the scoreboard lies, in part, in a bank of a cluster. -/
def rangeInBank (s : State) (cluster bank : Nat) : Range → Bool
  | .lcl t lo hi _ =>
    let y := findTeam s t
    clusterOf y.core == cluster && (List.range y.granules.length).any fun k =>
      (y.granules.getD k (0, 0)).1 == bank && decide (lo < 16384 * (k + 1) ∧ 16384 * k < hi)
  | .slots _ _ _ => false

/-- A role change of a bank waits (R95): an accepted command names the bank, or, where it leaves the cluster cache, lines of that cache
have writes that are not yet at their homes. -/
def bankBusy (s : State) (cluster bank : Nat) : Bool :=
  (s.eng.overlaps.any fun o => o.ranges.any (rangeInBank s cluster bank)) ||
    ((s.eng.banks.any fun b => b.cluster == cluster && b.bank == bank && b.role == .cache) &&
      s.mem.cc.any fun c => c.unit == cluster && anyPinned c s.gt)

/-- A bank takes a role (R95): the lines of the cluster cache leave with a bank of cache role, and a FIFO's entries
with a bank of FIFO role. -/
def setRole (s : State) (cluster bank : Nat) (r : BankRole) : State :=
  let mine := fun (b : Bank) => b.cluster == cluster && b.bank == bank
  let was := s.eng.banks.any fun b => mine b && b.role == .cache
  { s with
    eng := { s.eng with banks := updateWhere mine (fun b => { b with role := r, fifo := [], sick := [] }) s.eng.banks }
    mem := { s.mem with cc := s.mem.cc.filter fun c => !was || c.unit != cluster } }

/-- `bmode` (R95, R189). DEDUCED (log 187): a role that the bank has already does nothing, also where the bank holds a live allocation. -/
def bankBody (x : Args) (s : State) : Res :=
  let cl := clusterOf s.tm.core
  let bank := (scalar32 s x x.a).toNat
  let role := (scalar32 s x x.b).toNat
  let new : BankRole := match role with | 0 => .cache | 1 => .scratch | _ => .fifo
  let now := s.eng.banks.find? fun b => b.cluster == cl && b.bank == bank
  if 64 ≤ bank || 3 ≤ role then raiseExec s 0x16 (BitVec.ofNat 64 bank)
  else if now.any fun b => b.role == new then .done s
  else if bankInUse s cl bank then raiseExec s 0x16 (BitVec.ofNat 64 bank)
  else if bankBusy s cl bank then .wait .hold s
  else .done (setRole s cl bank new)

/-- A line of `size` bytes lies in [va, va + bytes). -/
def lineInRange (size line va bytes : Nat) : Bool :=
  line * size < va % 2 ^ 57 + bytes && va % 2 ^ 57 < line * size + size && 0 < bytes

/-- `xinv` (R189). -/
def dropCode (s : State) (core va bytes : Nat) : State :=
  let gone := fun (c : ILine) => c.core == core && (bytes == 0 || lineInRange 64 c.line va bytes)
  { s with mem := { s.mem with icache := s.mem.icache.filter fun c => !gone c } }

/-- `cmaint.inv` (R189). -/
def dropLeases (s : State) (core : Nat) (asid : BitVec 16) (va bytes : Nat) : State :=
  let gone := fun (c : CLine) => c.unit == core && c.asid == asid && lineInRange 128 c.line va bytes && !anyPinned c s.gt
  { s with mem := { s.mem with l1 := s.mem.l1.filter fun c => !gone c } }

/-- `cmaint.purge` over the lines that meet a test (R189): contributions merge; it goes on once no line is pinned,
and then every copy goes. -/
def purgeLines (s : State) (hit : BitVec 16 → Nat → Bool) : Res :=
  let s := mergeCore s fun u => hit u.asid u.line
  let pinned := fun (c : CLine) => hit c.asid c.line && anyPinned c s.gt
  if s.mem.l1.any pinned || s.mem.cc.any pinned then .wait .fence s
  else
    let stay := fun (c : CLine) => !hit c.asid c.line
    .done { s with mem := { s.mem with l1 := s.mem.l1.filter stay, cc := s.mem.cc.filter stay } }

/-! ## The meanings -/

/-- `trap` (R194). -/
def execTrap (x : Args) (s : State) : Host.Outcome State Fault Refusal :=
  run (.trap x) (fun s => raiseExec s 0x0A ((scalar32 s x x.a).setWidth 64)) s

/-- `rte` (R193). -/
def execRte (x : Args) (s : State) : Host.Outcome State Fault Refusal := run (.rte x) returnBody s

/-- `setfmt` (R68, R183). -/
def execSetfmt (x : Args) (s : State) : Host.Outcome State Fault Refusal :=
  run (.setfmt x) (fun s => writeFmt (.setfmt x) (scalar32 s x x.a) s) s

/-- `setrnd` (R183). -/
def execSetrnd (x : Args) (s : State) : Host.Outcome State Fault Refusal :=
  run (.setrnd x) (fun s => writeRnd (.setrnd x) (scalar32 s x x.a) s) s

/-- `sget` (R181). -/
def execSget (x : Args) (s : State) : Host.Outcome State Fault Refusal := run (.sget x) (readSpecial x) s

/-- `sput` (R181). -/
def execSput (x : Args) (s : State) : Host.Outcome State Fault Refusal := run (.sput x) (writeSpecial x) s

/-- `ltm` (R184). -/
def execLtm (x : Args) (s : State) : Host.Outcome State Fault Refusal :=
  run (.ltm x) (fun s =>
    .done { s with tm := { s.tm with ltm := (scalar32 s x x.b).setWidth 8 ++ scalar32 s x x.a } }) s

/-- `ppoint` (R185): the group is point-aware from now on, and halts here if a request is pending. -/
def execPpoint (x : Args) (s : State) : Host.Outcome State Fault Refusal :=
  run (.ppoint x) (fun s =>
    let s := { s with g := { s.g with pointAware := true } }
    match s.gang.st with
    | .halting _ => .jump (saveEntry { s with sp := { s.sp with pc := nextPc (.ppoint x) s } })
    | _ => .done s) s

/-- `lnch` (R186). -/
def execLnch (x : Args) (s : State) : Host.Outcome State Fault Refusal := run (.lnch x) (launchBody x) s

/-- `sig.dev` (R187). -/
def execSigDev (x : Args) (s : State) : Host.Outcome State Fault Refusal := run (.sigDev x) (signalBody x 3) s

/-- `sig.sys` (R187). -/
def execSigSys (x : Args) (s : State) : Host.Outcome State Fault Refusal := run (.sigSys x) (signalBody x 4) s

/-- `wget` (R188, R324). -/
def execWget (x : Args) (s : State) : Host.Outcome State Fault Refusal :=
  run (.wget x) (fun s =>
    let r := s.launch.rcd
    let item := workItem r (s.gang.index * r.teams + s.tm.member) s.g.wgets
    .done (resultBlock { s with g := { s.g with wgets := s.g.wgets + 1 } } x.d.toNat item)) s

/-- `bmode` (R95, R189). -/
def execBmode (x : Args) (s : State) : Host.Outcome State Fault Refusal := run (.bmode x) (bankBody x) s

/-- `xinv` (R189). -/
def execXinv (x : Args) (s : State) : Host.Outcome State Fault Refusal :=
  run (.xinv x) (fun s => .done (dropCode s s.tm.core (pairOf s x.a).toNat (scalar32 s x x.b).toNat)) s

/-- `cmaint.inv` (R189). -/
def execCmaintInv (x : Args) (s : State) : Host.Outcome State Fault Refusal :=
  run (.cmaintInv x) (fun s =>
    .done (dropLeases s s.tm.core s.asid (pairOf s x.a).toNat (scalar32 s x x.b).toNat)) s

/-- `cmaint.merge` (R189). DESIGN CHOICE: it reaches the lines of the issuer's ASID and of ASID 0; the rule names none (log 199). -/
def execCmaintMerge (x : Args) (s : State) : Host.Outcome State Fault Refusal :=
  run (.cmaintMerge x) (fun s =>
    let va := (pairOf s x.a).toNat
    let bytes := (scalar32 s x x.b).toNat
    .done (mergeCore s fun u =>
      u.core == s.tm.core && (u.asid == s.asid || u.asid == 0) && lineInRange 128 u.line va bytes)) s

/-- `cmaint.purge` (R189). -/
def execCmaintPurge (x : Args) (s : State) : Host.Outcome State Fault Refusal :=
  run (.cmaintPurge x) (fun s =>
    let asid := scalar32 s x x.c
    let va := (pairOf s x.a).toNat
    let bytes := (scalar32 s x x.b).toNat
    purgeLines s fun a l => a.setWidth 32 == asid && lineInRange 128 l va bytes) s

/-- `cmaint.purgeasid` (R189). -/
def execCmaintPurgeasid (x : Args) (s : State) : Host.Outcome State Fault Refusal :=
  run (.cmaintPurgeasid x) (fun s =>
    let asid := scalar32 s x x.c
    purgeLines s fun a _ => a.setWidth 32 == asid) s

/-- `halt` (R190, R379, R394): the HALT record, and the context's termination begins. -/
def execHalt (x : Args) (s : State) : Host.Outcome State Fault Refusal :=
  run (.halt x) (fun s =>
    let r := { groupRcd s s.g (Rcd.blank 0x09) with
      split := s.sp.num, pc := s.sp.pc, lanes := s.exec, extra := scalar32 s x x.a }
    .done (startTerminate (writeRecord s r) s.asid 1)) s

/-- `sysc` (R190): a .dev release, then the request; the group is held until the reply. -/
def execSysc (x : Args) (s : State) : Host.Outcome State Fault Refusal :=
  run (.sysc x) (fun s =>
    if s.sp.request.any fun q => q.pc == s.sp.pc then .wait .reply s
    else
      withRelease s 3 fun s =>
        let q : Request :=
          { pc := s.sp.pc, next := nextPc (.sysc x) s, op := 0x3F, dest := x.d.toNat
            words := [(scalar32 s x x.a).setWidth 64, (scalar32 s x x.b).setWidth 64] }
        .wait .reply { s with sp := { s.sp with request := some q } }) s

/-- A split in focus that has been answered goes on after its instruction. -/
def answered (s : State) (q : Request) : State :=
  { s with sp := { s.sp with pc := q.next, request := none, wait := none, since := s.gt } }

/-- The MP's reply to `sysc` is written to the waiting split's register (R190), though not inside a latch chain of the group (R52), nor across
clamped interfaces (R350); a pre-empted group receives it after it resumes. -/
def execSyscReply (gid sp : Nat) (value : Word) (s : State) : Host.Outcome State Fault Refusal :=
  let t := focus s { gid := gid, sp := sp }
  match t.sp.request with
  | some q => if q.op = 0x3F ∧ mayIssue t ∧ !chainOpen t gid ∧ mpReaches t t.tm.core then .next (answered (resultS t q.dest value) q) else .next s
  | none => .next s

end Sys2Proof.Machine
end

