-- ==== Sys2Proof/Machine/BlockStore.lean ====
section
/-! DEFINITION. The block store (R105, R106, R262, R263): its instructions, the controller's reply, and the copy of a
shared block that is written. -/

namespace Sys2Proof.Machine

/-! ## Names and blocks (R105, R106) -/

/-- A name that a triple gives in a context: sequence, layer, block number. -/
def findName (s : State) (asid : BitVec 16) (n : List Word) : Option KvName :=
  s.kv.names.find? fun x => x.asid == asid && [x.seq, x.layer, x.blk] == n
/-- A block. -/
def findBlock (s : State) (id : Nat) : Option KvBlock := s.kv.blocks.find? fun b => b.id == id
/-- The names on a block. -/
def namesOn (s : State) (id : Nat) : List KvName := s.kv.names.filter fun x => x.block == id
/-- Blocks of a context that stand in frames (R105). -/
def blocksOf (s : State) (asid : BitVec 16) : Nat := (s.kv.blocks.filter fun b => b.asid == asid && !b.evicted).length
/-- The pool of a context. -/
def poolOf (s : State) (asid : BitVec 16) : Nat := match findCtx s asid with | some c => c.kvPool | none => 0

/-- The page of a name: 64 KiB, user, writable if the name is alone on its block (R106; log 29). -/
def namePte (s : State) (x : KvName) : Quad :=
  let pfn := match findBlock s x.block with | some b => b.pfn | none => 0
  mkPte 2 ((namesOn s x.block).length == 1) false true 0 0 true x.asid (pageOf x.va.toNat) pfn

/-- The VA of 64 KiB block k of placement 7. -/
def kvVa (k : Nat) : DWord := BitVec.ofNat 64 (0xFFC0000000000000 + k % 2 ^ 38 * 65536)

/-- Whether a VA may be given to a new name of a context. -/
def kvVaFree (s : State) (asid : BitVec 16) (va : DWord) : Bool :=
  !(s.kv.names.any fun n => n.va == va) && !(s.kv.freed.any fun e => e.2 == blockOf va.toNat) &&
    (List.range 16).all fun k => (translate s.mem asid (va.toNat + 4096 * k)).isNone

/-- The VA the controller gives a new name: a free one of placement 7, and for a second name one whose stripes fall on
the stacks of the first's (R84, R106); which one, no rule says. -/
def newKvVa (s : State) (asid : BitVec 16) (like : Option DWord) : DWord :=
  let start := Config.kvPlace s.fresh
  let fits := fun (va : DWord) => like.all fun x => homeStack va.toNat == homeStack x.toNat
  kvVa (((List.range 65536).find? fun k => fits (kvVa (start + k)) && kvVaFree s asid (kvVa (start + k))).getD 0 + start)

/-- The pages of a block's names, as they stand in the table. -/
def blockPages (s : State) (id : Nat) : List Quad :=
  (namesOn s id).filterMap fun n => translate s.mem n.asid n.va.toNat

/-- The pages of a block's names take the form its names now ask for (R106). -/
def remapBlock (s : State) (id : Nat) : State :=
  (namesOn s id).foldl (fun s n =>
    match translate s.mem n.asid n.va.toNat with
    | some p => if p = namePte s n then s else changePage s p (namePte s n)
    | none => installPage s (namePte s n)) s

/-- The pages of a block can be invalidated now (R87). -/
def blockIdle (s : State) (id : Nat) : Bool := (blockPages s id).all fun p => !pageBusy s p

/-! ## The controller (R262, R263) -/

/-- What the controller answers: a status, and for `kvget` a VA. -/
inductive KvAnswer where
  | status (code : Nat) (s : State)
  | found (va : DWord)
  | later
  deriving DecidableEq, Repr

/-- A layer number that is too large (R262). -/
def badLayer (n : List Word) : Bool := decide (65536 ≤ (n.getD 1 0).toNat)

/-- Adds a name on a block. -/
def addName (s : State) (asid : BitVec 16) (n : List Word) (block : Nat) (va : DWord) : State :=
  { s with kv := { s.kv with names := s.kv.names ++
    [{ asid := asid, seq := n.getD 0 0, layer := n.getD 1 0, blk := n.getD 2 0, block := block, va := va }] } }

/-- `kvalloc` at the controller (R105, R263). -/
def kvCreate (s : State) (asid : BitVec 16) (n : List Word) : KvAnswer :=
  if badLayer n then .status 5 s
  else if (findName s asid n).isSome then .status 2 s
  else if poolOf s asid ≤ blocksOf s asid then .status 1 s
  else
    let va := newKvVa s asid none
    match findFrames s va.toNat 2 with
    | none => .status 1 s
    | some pfn =>
      let s := (newId (drawFresh s).1).1
      let id := s.sched.nextId - 1
      let s := { s with kv := { s.kv with
        blocks := s.kv.blocks ++ [{ id := id, asid := asid, pfn := BitVec.ofNat 24 pfn, evicted := false }] } }
      let s := addName s asid n id va
      match findName s asid n with
      | some x => .status 0 (installPage (zeroPage s (namePte s x)) (namePte s x))
      | none => .status 1 s

/-- `kvget` at the controller (R263). -/
def kvLookup (s : State) (asid : BitVec 16) (n : List Word) : KvAnswer :=
  if badLayer n then .status 5 s
  else
    match findName s asid n with
    | none => .status 3 s
    | some x => if (findBlock s x.block).all fun b => b.evicted then .status 4 s else .found x.va

/-- `kvshare` at the controller (R106, R263). -/
def kvSecond (s : State) (asid : BitVec 16) (old new : List Word) : KvAnswer :=
  if badLayer old || badLayer new then .status 5 s
  else
    match findName s asid old with
    | none => .status 3 s
    | some x =>
      if (findBlock s x.block).all fun b => b.evicted then .status 4 s
      else if (findName s asid new).isSome then .status 2 s
      else if !blockIdle s x.block then .later
      else
        let va := newKvVa s asid (some x.va)
        .status 0 (remapBlock (addName (drawFresh s).1 asid new x.block va) x.block)

/-- A name is removed, and its block with the last of its names (R263). -/
def removeName (s : State) (x : KvName) : State :=
  let pages := match translate s.mem x.asid x.va.toNat with | some p => [p] | none => []
  let s := pages.foldl unmapPage s
  let s := { s with kv := { s.kv with
    names := s.kv.names.filter (· != x), freed := addOnce (x.asid, blockOf x.va.toNat) s.kv.freed } }
  if (namesOn s x.block).isEmpty then
    { s with kv := { s.kv with blocks := s.kv.blocks.filter fun b => b.id != x.block } }
  else if (findBlock s x.block).all fun b => b.evicted then s
  else remapBlock s x.block

/-- `kvfree` at the controller (R263). -/
def kvRemove (s : State) (asid : BitVec 16) (n : List Word) : KvAnswer :=
  if badLayer n then .status 5 s
  else
    match findName s asid n with
    | none => .status 3 s
    | some x => if blockIdle s x.block then .status 0 (removeName s x) else .later

/-- The names a request carries: its words are the triples. -/
def requestNames (q : Request) : List Word × List Word :=
  ((q.words.take 3).map (·.setWidth 32), (q.words.drop 3).map (·.setWidth 32))

/-- The controller acts on a request of the group in focus (R262). -/
def kvAct (s : State) (q : Request) : KvAnswer :=
  let n := requestNames q
  if q.op = 0xA8 then kvCreate s s.asid n.1
  else if q.op = 0xA9 then kvLookup s s.asid n.1
  else if q.op = 0xAA then kvSecond s s.asid n.1 n.2
  else kvRemove s s.asid n.1

/-- A request of the block store. -/
def isKv (q : Request) : Bool := decide (0xA8 ≤ q.op ∧ q.op ≤ 0xAB)

/-- The reply is written: a status, or in `kvget` a pair (R262, R263). -/
def kvWrite (q : Request) (a : KvAnswer) (s : State) : State :=
  match a with
  | .status c t => answered (if q.op = 0xA9 then resultPair t q.dest (BitVec.ofNat 64 c) else resultS t q.dest (BitVec.ofNat 32 c)) q
  | .found va => answered (resultPair s q.dest va) q
  | .later => s

/-! ## The meanings -/

/-- The words of the triple a field names (R225). -/
def tripleOf (s : State) (f : Src) : List DWord := (List.range 3).map fun k => (getS s (fieldNum f + k)).setWidth 64

/-- A block-store instruction (R262): a .dev release, then the request; the group is held until the reply. -/
def kvBody (i : Shape) (op : Nat) (x : Args) (two : Bool) (s : State) : Res :=
  if s.exec = 0 then .done s
  else if s.sp.request.any fun q => q.pc == s.sp.pc then .wait .reply s
  else
    withRelease s 3 fun s =>
      let q : Request :=
        { pc := s.sp.pc, next := nextPc i s, op := op, dest := x.d.toNat
          words := tripleOf s x.a ++ (if two then tripleOf s x.b else []) }
      .wait .reply { s with sp := { s.sp with request := some q } }

/-- `kvalloc` (R262, R263). -/
def execKvalloc (x : Args) (s : State) : Host.Outcome State Fault Refusal :=
  run (.kvalloc x) (kvBody (.kvalloc x) 0xA8 x false) s

/-- `kvget` (R262, R263). -/
def execKvget (x : Args) (s : State) : Host.Outcome State Fault Refusal :=
  run (.kvget x) (kvBody (.kvget x) 0xA9 x false) s

/-- `kvshare` (R262, R263). -/
def execKvshare (x : Args) (s : State) : Host.Outcome State Fault Refusal :=
  run (.kvshare x) (kvBody (.kvshare x) 0xAA x true) s

/-- `kvfree` (R262, R263). -/
def execKvfree (x : Args) (s : State) : Host.Outcome State Fault Refusal :=
  run (.kvfree x) (kvBody (.kvfree x) 0xAB x false) s

/-- The block-store controller acts on a waiting split's request and its reply is written (R262, R263), though not inside a latch chain of
the group (R52), nor across the clamped interfaces of the core's bay (R350). -/
def execKvReply (gid sp : Nat) (s : State) : Host.Outcome State Fault Refusal :=
  let t := focus s { gid := gid, sp := sp }
  match t.sp.request with
  | some q => if isKv q && mayIssue t && !chainOpen t gid && !t.dev.clamped.contains (bayOf t.tm.core) then .next (kvWrite q (kvAct t q) t) else .next s
  | none => .next s

/-- The name of a context whose VA holds an address. -/
def nameAt (s : State) (asid : BitVec 16) (va : Nat) : Option KvName :=
  s.kv.names.find? fun n => n.asid == asid && blockOf n.va.toNat == blockOf va

/-- Whether anyone waits to write a block: logged stores, or questions about its pages (R106). -/
def writeWanted (s : State) (n : KvName) : Bool :=
  s.mem.asks.any fun a => a.asid == n.asid && a.page / 16 == blockOf n.va.toNat

/-- A storing name gets a copy of its block in a free frame of its pool and is mapped writable; the others keep the
frames (R106). -/
def copyBlock (s : State) (n : KvName) (pfn : Nat) : State :=
  let old := namePte s n
  let s := match translate s.mem n.asid n.va.toNat with | some p => unmapPage s p | none => s
  let r := newId s
  let s := { r.1 with kv := { r.1.kv with
    blocks := r.1.kv.blocks ++ [{ id := r.2, asid := n.asid, pfn := BitVec.ofNat 24 pfn, evicted := false }]
    names := updateWhere (· == n) (fun x => { x with block := r.2 }) r.1.kv.names } }
  let x := { n with block := r.2 }
  let s := copyPage s old (namePte s x)
  remapBlock (installPage s (namePte s x)) n.block

/-- A write to a shared block page copies the block and remaps the storing name; with no free block in the pool the
logged stores are discarded and a held atomic faults (R106). -/
def execBlockCopyOnWrite (asid : BitVec 16) (va : DWord) (s : State) :
    Host.Outcome State Fault Refusal :=
  match nameAt s asid va.toNat with
  | none => .next s
  | some n =>
    let shared := (translate s.mem asid n.va.toNat).any pteShared
    if !shared || !writeWanted s n || !blockIdle s n.block then .next s
    else
      match (if blocksOf s asid < poolOf s asid then findFrames s n.va.toNat 2 else none) with
      | some pfn => .next (copyBlock s n pfn)
      | none => .next ((List.range 16).foldl (fun s k => declinePage s asid (pageOf n.va.toNat + k) true) s)

end Sys2Proof.Machine
end

