-- ==== Sys2Proof/Machine/Approx.lean ====
section
/-! DEFINITION. The approximate functions (R211). Each computes the exact value as an integer in units of a
power of two, to far below the stated error, takes the FP32 patterns within the error bound, and leaves to a
free value of `Config` which of them is the result (log 8). Special inputs and the results that R211
calls exact are fixed. -/

namespace Sys2Proof.Machine

/-! ## Choosing within a bound -/

/-- FP32 patterns in the order of their values, -0 below +0: the key of a pattern's place. -/
def patternOfKey (k : Int) : Nat := if 0 ≤ k then k.toNat else 2 ^ 31 + (-k - 1).toNat

/-- The greatest place whose magnitude is at most i * 2^e; from 2^128 on, infinity. -/
def placeBelow (i : Nat) (e : Int) : Nat :=
  if i = 0 then 0
  else if (128 : Int) ≤ (Nat.log2 i : Int) + e then 0x7F800000
  else (fmtF32.round .rtz (.fin false i e)).1

/-- The least place whose magnitude is at least i * 2^e. -/
def placeAbove (i : Nat) (e : Int) : Nat := (fmtF32.round .rup (.fin false i e)).1

/-- The greatest key of a value at most i * 2^e. -/
def keyBelow (i e : Int) : Int :=
  if 0 ≤ i then (placeBelow i.toNat e : Int) else -1 - (placeAbove (-i).toNat e : Int)

/-- The least key of a value at least i * 2^e. -/
def keyAbove (i e : Int) : Int :=
  if 0 < i then (placeAbove i.toNat e : Int) else -1 - (placeBelow (-i).toNat e : Int)

/-- The place a choice takes in a range of keys. -/
def chooseKey (lo hi : Int) (choice : Nat) : Int := lo + (choice % (hi + 1 - lo).toNat : Nat)

/-- Flags of a result that is not exact (R77, R211). -/
def inexactFlags (pattern : Nat) : Flags :=
  let mag := pattern % 2 ^ 31
  fNX ||| flagIf (mag < 0x00800000) fUF ||| flagIf (mag == 0x7F800000) fOF

/-- A result within `bound` of the exact value, which is a to within 2^130, all in units of 2^e: the patterns nearer to a than the bound less
2^130 units (log 8). -/
def within (a : Int) (bound : Nat) (e : Int) (choice : Nat) : Nat × Flags :=
  let slack : Int := bound - 2 ^ 130
  let p := patternOfKey (chooseKey (keyAbove (a - slack) e) (keyBelow (a + slack) e) choice)
  (p, inexactFlags p)

/-- One unit in the last place of FP32 at a * 2^e, in units of 2^e. It is not greater than at the exact value, whose magnitude a does not
exceed. -/
def ulpUnits (a : Nat) (e : Int) : Nat := 2 ^ ((max ((Nat.log2 a : Int) + e) (-126)) - 23 - e).toNat

/-- A result within n units in the last place of a * 2^e (R211). -/
def withinUlps (neg : Bool) (a n : Nat) (e : Int) (choice : Nat) : Nat × Flags :=
  within (if neg then -(a : Int) else a) (n * ulpUnits a e) e choice

/-- A result within 2^-22 of a * 2^-256 (R211). -/
def withinAbs (a : Int) (choice : Nat) : Nat × Flags := within a (2 ^ 234) (-256) choice

/-! ## Elementary functions in fixed point -/

/-- The integer square root, from bit k down. -/
def isqrtFrom (n : Nat) : Nat → Nat → Nat
  | 0, r => r
  | k + 1, r => isqrtFrom n k (if (r + 2 ^ k) * (r + 2 ^ k) ≤ n then r + 2 ^ k else r)
/-- The integer square root. -/
def isqrt (n : Nat) : Nat := isqrtFrom n (Nat.log2 n / 2 + 1) 0

/-- ln 2 in units of 2^-256. -/
def ln2Fixed : Nat := 0xb17217f7d1cf79abc9e3b39803f2f6af40f343267298b62d8a0d175b8baafa2b
/-- Half of pi in units of 2^-256. -/
def halfPiFixed : Nat := 0x1921fb54442d18469898cc51701b839a252049c1114cf98e804177d4c76273644

/-- The sum of x^k / k! for k from j, given the term before, x in units of 2^-p. -/
def expTerms (p x : Nat) : Nat → Nat → Nat → Nat
  | 0, _, _ => 0
  | n + 1, j, t =>
    let t := t * x / 2 ^ p / j
    t + expTerms p x n (j + 1) t
/-- e^x - 1 in units of 2^-p. -/
def expm1Fixed (p terms x : Nat) : Nat := expTerms p x terms 1 (2 ^ p)

/-- The alternating sum of the terms t, t x^2 / (j (j + 1)), ... in units of 2^-256. -/
def trigTerms (x : Nat) : Nat → Nat → Int → Int
  | 0, _, _ => 0
  | n + 1, j, t => t + trigTerms x n (j + 2) (-(t * (x * x : Nat) / 2 ^ 512 / (j * (j + 1) : Nat)))
/-- sin r for 0 ≤ r < 2, in units of 2^-256. -/
def sinFixed (r : Nat) : Int := trigTerms r 45 2 r
/-- cos r for 0 ≤ r < 2, in units of 2^-256. -/
def cosFixed (r : Nat) : Int := trigTerms r 45 1 (2 ^ 256)

/-- The sum of z^(2k+1) / (2k+1), z in units of 2^-256. -/
def atanhTerms (z : Nat) : Nat → Nat → Nat → Nat
  | 0, _, _ => 0
  | n + 1, j, t => t / j + atanhTerms z n (j + 2) (t * z / 2 ^ 256 * z / 2 ^ 256)
/-- ln m for m in [1, 2], in units of 2^-256. -/
def lnFixed (m : Nat) : Nat :=
  let z := (m - 2 ^ 256) * 2 ^ 256 / (m + 2 ^ 256)
  2 * atanhTerms z 90 1 z

/-- The magnitude mag * 2^exp in units of 2^-256; exact for every FP32 magnitude. -/
def fixed256 (mag : Nat) (exp : Int) : Nat := mag * 2 ^ (exp + 256).toNat

/-- The quadrant of the angle x, in units of 2^-256, and what is over (the reduction of R211). -/
def reduceAngle (x : Nat) : Nat × Nat := (x / halfPiFixed % 4, x % halfPiFixed)

/-- sin x for x ≥ 0, in units of 2^-256. -/
def sinOf (x : Nat) : Int :=
  match reduceAngle x with
  | (0, r) => sinFixed r
  | (1, r) => cosFixed r
  | (2, r) => -sinFixed r
  | (_, r) => -cosFixed r
/-- cos x for x ≥ 0, in units of 2^-256. -/
def cosOf (x : Nat) : Int :=
  match reduceAngle x with
  | (0, r) => cosFixed r
  | (1, r) => -sinFixed r
  | (2, r) => -cosFixed r
  | (_, r) => sinFixed r

/-! ## The functions of R211, on FP32 patterns -/

/-- The pattern of FP32 plus one. -/
def f32One : Nat := 0x3F800000
/-- The pattern of an FP32 infinity. -/
def f32Inf (neg : Bool) : Nat := fmtF32.sign neg + 0x7F800000
/-- The FP32 pattern of 2^k, k in [-149, 127]. -/
def f32Pow2 (k : Int) : Nat := (fmtF32.round .rne (.fin false 1 k)).1
/-- The exponent k of a magnitude that is 2^k. -/
def pow2Exp (mag : Nat) (exp : Int) : Option Int :=
  if mag = 2 ^ Nat.log2 mag then some ((Nat.log2 mag : Int) + exp) else none

/-- What a NaN input gives (R211). Like every result that the table of R211 does not call exact, those of an infinity, a zero or a negative
input among them, it sets NX; DEDUCED (log 192): of `ftanh` it calls the zeros exact. -/
def nanResult (signalling : Bool) : Nat × Flags := (fmtF32.defNan, flagIf signalling fNV ||| fNX)
/-- What an input outside the domain of a function gives (R211). -/
def noResult : Nat × Flags := (fmtF32.defNan, fNV ||| fNX)

/-- `frcp` (R211). -/
def approxRcp (x : Nat) : Nat × Flags :=
  match fmtF32.value x with
  | .nan b => nanResult b
  | .inf n => (fmtF32.sign n, fNX)
  | .fin n mag e =>
    if mag = 0 then (f32Inf n, fDZ ||| fNX)
    else
      let value := withinUlps n (2 ^ 512 / mag) 1 (-e - 512) (Config.approxRcp (BitVec.ofNat 32 x))
      match pow2Exp mag e with
      | some k => if -127 ≤ k ∧ k ≤ 149 ∧ -k ≤ 127 then (fmtF32.sign n + f32Pow2 (-k), 0) else value
      | none => value

/-- `frsq` (R211). -/
def approxRsq (x : Nat) : Nat × Flags :=
  match fmtF32.value x with
  | .nan b => nanResult b
  | .inf n => if n then noResult else (0, fNX)
  | .fin n mag e =>
    if mag = 0 then (f32Inf n, fDZ ||| fNX)
    else if n then noResult
    else
      let m := if e % 2 = 0 then mag else 2 * mag
      let h := if e % 2 = 0 then e / 2 else (e - 1) / 2
      let value := withinUlps false (isqrt (2 ^ 512 / m)) 1 (-h - 256) (Config.approxRsq (BitVec.ofNat 32 x))
      match pow2Exp mag e with
      | some k => if k % 2 = 0 then (f32Pow2 (-(k / 2)), 0) else value
      | none => value

/-- `fexp2` (R211). -/
def approxExp2 (x : Nat) : Nat × Flags :=
  match fmtF32.value x with
  | .nan b => nanResult b
  | .inf n => (if n then 0 else f32Inf false, fNX)
  | .fin n mag e =>
    let v := signedAt n (fixed256 mag e) (-256) (-256)
    let k := v / 2 ^ 256
    let f := (v % 2 ^ 256).toNat
    if 128 ≤ k then (f32Inf false, fOF ||| fNX)
    else if v < -150 * 2 ^ 256 then (0, fUF ||| fNX)
    else if f = 0 ∧ -149 ≤ k then (f32Pow2 k, 0)
    else
      let a := 2 ^ 256 + expm1Fixed 256 60 (f * ln2Fixed / 2 ^ 256)
      withinUlps false a 2 (k - 256) (Config.approxExp2 (BitVec.ofNat 32 x))

/-- `flog2` (R211). -/
def approxLog2 (x : Nat) : Nat × Flags :=
  match fmtF32.value x with
  | .nan b => nanResult b
  | .inf n => if n then noResult else (f32Inf false, fNX)
  | .fin n mag e =>
    if mag = 0 then (f32Inf true, fDZ ||| fNX)
    else if n then noResult
    else
      match pow2Exp mag e with
      | some k => ((fmtF32.round .rne (Val.ofInt k 0)).1, 0)
      | none =>
        let k : Int := (Nat.log2 mag : Int) + e
        let m := mag * 2 ^ (256 - Nat.log2 mag)
        let a : Int := k * 2 ^ 256 + (lnFixed m * 2 ^ 256 / ln2Fixed : Nat)
        let c := Config.approxLog2 (BitVec.ofNat 32 x)
        if 0x3F400000 ≤ x ∧ x ≤ 0x3FC00000 then withinAbs a c
        else withinUlps (decide (a < 0)) (a.natAbs - 2 ^ 20) 2 (-256) c

/-- `fsin` (R211). -/
def approxSin (x : Nat) : Nat × Flags :=
  match fmtF32.value x with
  | .nan b => nanResult b
  | .inf _ => noResult
  | .fin n mag e =>
    if mag = 0 then (x, 0)
    else
      let a := sinOf (fixed256 mag e)
      withinAbs (if n then -a else a) (Config.approxSin (BitVec.ofNat 32 x))

/-- `fcos` (R211). -/
def approxCos (x : Nat) : Nat × Flags :=
  match fmtF32.value x with
  | .nan b => nanResult b
  | .inf _ => noResult
  | .fin _ mag e =>
    if mag = 0 then (f32One, 0) else withinAbs (cosOf (fixed256 mag e)) (Config.approxCos (BitVec.ofNat 32 x))

/-- `ftanh` (R211). -/
def approxTanh (x : Nat) : Nat × Flags :=
  match fmtF32.value x with
  | .nan b => nanResult b
  | .inf n => (fmtF32.sign n + f32One, 0)
  | .fin n mag e =>
    if mag = 0 then (x, 0)
    else
      let v := fixed256 mag e
      if 9 * 2 ^ 256 ≤ v then (fmtF32.sign n + f32One, 0)
      else
        let m := expm1Fixed 512 200 (2 * v * 2 ^ 256)
        withinUlps n (m * 2 ^ 512 / (m + 2 ^ 513)) 2 (-512) (Config.approxTanh (BitVec.ofNat 32 x))

end Sys2Proof.Machine
end

