-- ==== Sys2Proof/Machine/VectorInt.lean ====
section
/-! DEFINITION. The vector integer instructions 0x40 to 0x58 (R201 to R204). -/

namespace Sys2Proof.Machine

/-! ## What they compute, at a width -/

/-- Shift left at width w; 0 for w or more (R202). -/
def laneShl (w x y : Nat) : Nat := if w ≤ y then 0 else x * 2 ^ y % 2 ^ w
/-- Logical shift right at width w; 0 for w or more (R202). -/
def laneShr (w x y : Nat) : Nat := if w ≤ y then 0 else x / 2 ^ y
/-- Arithmetic shift right at width w, by at most w - 1 (R202). -/
def laneSra (w x y : Nat) : Nat := wrapInt w ((BitVec.ofNat w x).toInt / 2 ^ min y (w - 1))
/-- Leading zeros in w bits (R202). -/
def laneClz (w x : Nat) : Nat := leadZeros (BitVec.ofNat w x)
/-- Ones in w bits (R202). -/
def lanePopc (w x : Nat) : Nat := popCount (BitVec.ofNat w x)

/-- Whether x cc y holds at width w (R169). -/
def condAt (w cc x y : Nat) : Bool :=
  let a := (BitVec.ofNat w x).toInt
  let b := (BitVec.ofNat w y).toInt
  match cc with
  | 0 => x == y
  | 1 => x != y
  | 2 => a < b
  | 3 => a ≤ b
  | 4 => a > b
  | 5 => a ≥ b
  | 6 => x < y
  | 7 => x ≤ y
  | 8 => x > y
  | _ => x ≥ y

/-- Element k of w bits of a word, signed or not (R203). -/
def dotElem (signed : Bool) (w x k : Nat) : Int :=
  if signed then (BitVec.ofNat w (x / 2 ^ (w * k))).toInt else (x / 2 ^ (w * k) % 2 ^ w : Nat)

/-- The exact dot product of `n` elements plus c, for the signedness of a and b (R203). -/
def dotExact (sa sb : Bool) (w n a b c : Nat) : Int :=
  (if sa || sb then (BitVec.ofNat 32 c).toInt else (c : Int)) +
    ((List.range n).map fun k => dotElem sa w a k * dotElem sb w b k).foldl (· + ·) 0

/-- The dot product, saturated once, and whether it saturated (R203). -/
def dotSat (sa sb : Bool) (w n a b c : Nat) : Nat × Bool :=
  let t := dotExact sa sb w n a b c
  let lo : Int := if sa || sb then -(2 ^ 31) else 0
  let hi : Int := if sa || sb then 2 ^ 31 - 1 else 2 ^ 32 - 1
  if t < lo then (wrapInt 32 lo, true) else if hi < t then (wrapInt 32 hi, true) else (wrapInt 32 t, false)

/-! ## How a row uses it -/

/-- A lane-wise result of TYPE from a, b and c at that type (R198, R202). -/
def laneWise (x : Args) (f : Nat → Nat → Nat → Nat) (s : State) : Res :=
  .done (writeTy s x x.ty fun l => f (vecA s x x.a l) (vecA s x x.b l) (vecA s x x.c l))

/-- A lane-wise result of TYPE from a at that type and the 32-bit word b (R198, R202). -/
def laneWord (x : Args) (f : Nat → Nat → Nat) (s : State) : Res :=
  .done (writeTy s x x.ty fun l => f (vecA s x x.a l) (vec32 s x x.b l))

/-- A lane-wise condition into a mask register, in the lanes of the execution mask (R202, R208). -/
def laneMask (s : State) (x : Args) (p : Nat → Bool) : State := setM s x.d.toNat s.exec (maskOf p)

/-- A dot product over the execution mask, with FXO where it saturates (R203). -/
def laneDot (x : Args) (w n : Nat) (mix : Bool) (s : State) : Res :=
  let sa := isSigned x.ty
  let r := fun l => dotSat sa (sa != mix) w n (vec32 s x x.a l) (vec32 s x x.b l) (vec32 s x x.c l)
  withFlags s (fun l => flagIf (r l).2 fFXO) (writeVec s x 32 fun l => (r l).1)

/-! ## The meanings -/

/-- `vadd`: a + b modulo 2^w (R202). -/
def execVadd (x : Args) (s : State) : Host.Outcome State Fault Refusal :=
  run (.vadd x) (laneWise x fun a b _ => a + b) s

/-- `vsub`: a - b modulo 2^w (R202). -/
def execVsub (x : Args) (s : State) : Host.Outcome State Fault Refusal :=
  run (.vsub x) (laneWise x fun a b _ => a + 2 ^ x.ty.bits - b) s

/-- `vmul`: the low half of a * b (R202). -/
def execVmul (x : Args) (s : State) : Host.Outcome State Fault Refusal :=
  run (.vmul x) (laneWise x fun a b _ => a * b) s

/-- `vmulh`: the high half of val(a) * val(b) (R202). -/
def execVmulh (x : Args) (s : State) : Host.Outcome State Fault Refusal :=
  run (.vmulh x) (laneWise x fun a b _ => wrapInt x.ty.bits (intOf x.ty a * intOf x.ty b / 2 ^ x.ty.bits)) s

/-- `vmad`: a * b + c modulo 2^w (R202). -/
def execVmad (x : Args) (s : State) : Host.Outcome State Fault Refusal :=
  run (.vmad x) (laneWise x fun a b c => a * b + c) s

/-- `vmin`: the lesser of val(a), val(b) (R202). -/
def execVmin (x : Args) (s : State) : Host.Outcome State Fault Refusal :=
  run (.vmin x) (laneWise x fun a b _ => if intOf x.ty a ≤ intOf x.ty b then a else b) s

/-- `vmax`: the greater of val(a), val(b) (R202). -/
def execVmax (x : Args) (s : State) : Host.Outcome State Fault Refusal :=
  run (.vmax x) (laneWise x fun a b _ => if intOf x.ty a ≤ intOf x.ty b then b else a) s

/-- `vabs`: |val(a)| modulo 2^w (R202). -/
def execVabs (x : Args) (s : State) : Host.Outcome State Fault Refusal :=
  run (.vabs x) (laneWise x fun a _ _ => (intOf x.ty a).natAbs) s

/-- `vand`: a AND b (R202). -/
def execVand (x : Args) (s : State) : Host.Outcome State Fault Refusal :=
  run (.vand x) (laneWise x fun a b _ => a &&& b) s

/-- `vor`: a OR b (R202). -/
def execVor (x : Args) (s : State) : Host.Outcome State Fault Refusal :=
  run (.vor x) (laneWise x fun a b _ => a ||| b) s

/-- `vxor`: a XOR b (R202). -/
def execVxor (x : Args) (s : State) : Host.Outcome State Fault Refusal :=
  run (.vxor x) (laneWise x fun a b _ => a ^^^ b) s

/-- `vandn`: a AND NOT b (R202). -/
def execVandn (x : Args) (s : State) : Host.Outcome State Fault Refusal :=
  run (.vandn x) (laneWise x fun a b _ => a &&& (2 ^ x.ty.bits - 1 - b)) s

/-- `vshl`: shift left by the word b (R202). -/
def execVshl (x : Args) (s : State) : Host.Outcome State Fault Refusal :=
  run (.vshl x) (laneWord x fun a b => laneShl x.ty.bits a b) s

/-- `vshr`: logical shift right by the word b (R202). -/
def execVshr (x : Args) (s : State) : Host.Outcome State Fault Refusal :=
  run (.vshr x) (laneWord x fun a b => laneShr x.ty.bits a b) s

/-- `vsra`: arithmetic shift right by the word b (R202). -/
def execVsra (x : Args) (s : State) : Host.Outcome State Fault Refusal :=
  run (.vsra x) (laneWord x fun a b => laneSra x.ty.bits a b) s

/-- `vclz`: leading zeros of a (R202). -/
def execVclz (x : Args) (s : State) : Host.Outcome State Fault Refusal :=
  run (.vclz x) (laneWise x fun a _ _ => laneClz x.ty.bits a) s

/-- `vpopc`: ones in a (R202). -/
def execVpopc (x : Args) (s : State) : Host.Outcome State Fault Refusal :=
  run (.vpopc x) (laneWise x fun a _ _ => lanePopc x.ty.bits a) s

/-- `vbfx`: a bit field of a, sign-extended when TYPE is .i32 (R202). -/
def execVbfx (x : Args) (s : State) : Host.Outcome State Fault Refusal :=
  run (.vbfx x) (laneWord x fun a b =>
    ((if x.ty = .i32 then extractS else extractU) (BitVec.ofNat 32 a) (BitVec.ofNat 32 b)).toNat) s

/-- `vbfi`: d with a bit field of a (R202). -/
def execVbfi (x : Args) (s : State) : Host.Outcome State Fault Refusal :=
  run (.vbfi x) (fun s => .done (writeTy s x x.ty fun l =>
    (insertField (BitVec.ofNat 32 (vecA s x x.a l)) (BitVec.ofNat 32 (vec32 s x x.b l)) (getV s x.d.toNat l)).toNat)) s

/-- `vcmp`: bit l of m receives a cc b; m0 is not written (R49, R169) (R202). -/
def execVcmp (x : Args) (s : State) : Host.Outcome State Fault Refusal :=
  run (.vcmp x) (fun s => .done (laneMask s x fun l =>
    condAt x.ty.bits x.fn.toNat (vecA s x x.a l) (vecA s x x.b l))) s

/-- `vsel`: a where the mask bit is 1, else b (R59, R202). -/
def execVsel (x : Args) (s : State) : Host.Outcome State Fault Refusal :=
  run (.vsel x) (fun s => .done (writeTy s x x.ty fun l =>
    if (getM s (fieldNum x.c)).getLsbD l then vecA s x x.a l else vecA s x x.b l)) s

/-- `vmov`: a (R59, R202). -/
def execVmov (x : Args) (s : State) : Host.Outcome State Fault Refusal :=
  run (.vmov x) (laneWise x fun a _ _ => a) s

/-- `vdot4`: a four-way dot product of bytes plus c, saturated once (R203). -/
def execVdot4 (x : Args) (s : State) : Host.Outcome State Fault Refusal :=
  run (.vdot4 x) (laneDot x 8 4 false) s

/-- `vdot4Mix`: `vdot4` with b of the other signedness (R203). -/
def execVdot4Mix (x : Args) (s : State) : Host.Outcome State Fault Refusal :=
  run (.vdot4Mix x) (laneDot x 8 4 true) s

/-- `vdot2`: a two-way dot product of halfwords plus c, saturated once (R203). -/
def execVdot2 (x : Args) (s : State) : Host.Outcome State Fault Refusal :=
  run (.vdot2 x) (laneDot x 16 2 false) s

/-- `vdot2Mix`: `vdot2` with b of the other signedness (R203). -/
def execVdot2Mix (x : Args) (s : State) : Host.Outcome State Fault Refusal :=
  run (.vdot2Mix x) (laneDot x 16 2 true) s

/-- `vadd64`: the 64-bit sum of a and the extended word b (R204). -/
def execVadd64 (x : Args) (s : State) : Host.Outcome State Fault Refusal :=
  run (.vadd64 x) (fun s => .done (writeVec s x 64 fun l =>
    (vec64 s x x.a l + wrapInt 64 (intOf x.ty (vec32 s x x.b l))) % 2 ^ 64)) s

end Sys2Proof.Machine
end

