-- ==== Sys2Proof/Machine/Float.lean ====
section
/-! DEFINITION. The floating-point instructions 0x59 to 0x6B (R205 to R211). -/

namespace Sys2Proof.Machine

/-! ## Exact results as one value each -/

/-- The exact quotient to 256 bits and more, with a last bit that is set when more follows (R206): enough to
round once under every mode. -/
def quotFin (na : Bool) (ma : Nat) (ea : Int) (nb : Bool) (mb : Nat) (eb : Int) : Val :=
  let n := ma * 2 ^ 400
  .fin (na != nb) (2 * (n / mb) + (if n % mb = 0 then 0 else 1)) (ea - eb - 401)

/-- The quotient and the flag of a division of a finite nonzero number by zero (R206). -/
def Val.div : Val → Val → Val × Flags
  | .nan a, y => (.nan (a || y.isSig), 0)
  | x, .nan b => (.nan (x.isSig || b), 0)
  | .inf _, .inf _ => (.nan true, 0)
  | .inf a, .fin n _ _ => (.inf (a != n), 0)
  | .fin n _ _, .inf b => (.fin (n != b) 0 0, 0)
  | .fin na ma ea, .fin nb mb eb =>
    if mb = 0 then (if ma = 0 then (.nan true, 0) else (.inf (na != nb), fDZ))
    else (quotFin na ma ea nb mb eb, 0)

/-- The square root to 128 bits and more, with a last bit that is set when more follows (R206). -/
def Val.sqrt : Val → Val
  | .nan a => .nan a
  | .inf n => if n then .nan true else .inf false
  | .fin n m e =>
    if m = 0 then .fin n 0 0
    else if n then .nan true
    else
      let m := if e % 2 = 0 then m * 2 ^ 400 else m * 2 ^ 401
      let h := if e % 2 = 0 then e / 2 else (e - 1) / 2
      let r := isqrt m
      .fin false (2 * r + (if r * r = m then 0 else 1)) (h - 201)

/-- An exponent in reach of every format: beyond it the result is the same (R206). -/
def clampExp (i : Int) : Int := max (-5000) (min 5000 i)

/-- `fmin` or `fmax` of two patterns (R207). -/
def pickFloat (t : Ty) (greater : Bool) (a b : Nat) : Nat × Flags :=
  let x := tyValue t a
  let y := tyValue t b
  let nv := flagIf (x.isSig || y.isSig) fNV
  if x.isNan && y.isNan then ((tyRound .rne t (.nan false)).1, nv)
  else if x.isNan then (b, nv)
  else if y.isNan then (a, nv)
  else
    let less := Val.lt x y || (Val.eq x y && x.neg && !y.neg)
    (if less != greater then a else b, nv)

/-- Whether a condition of `fcmp` holds (R208). -/
def floatCond (cond : Nat) (x y : Val) : Bool :=
  let un := x.isNan || y.isNan
  match cond with
  | 0 => Val.eq x y
  | 1 => un || !Val.eq x y
  | 2 => Val.lt x y
  | 3 => Val.lt x y || Val.eq x y
  | 4 => Val.lt y x
  | 5 => Val.lt y x || Val.eq x y
  | 6 => un
  | _ => !un

/-- The flag of `fcmp` (R208). -/
def floatCondFlag (cond : Nat) (x y : Val) : Flags :=
  flagIf (if 2 ≤ cond ∧ cond ≤ 5 then x.isNan || y.isNan else x.isSig || y.isSig) fNV

/-- The class bit of a pattern (R209). -/
def classBit (t : Ty) (a : Nat) : Nat :=
  match fmtOf t with
  | none => 0
  | some f =>
    let e := a / 2 ^ f.mbits % 2 ^ f.ebits
    match f.value a with
    | .nan s => if s then 8 else 9
    | .inf n => if n then 0 else 7
    | .fin n m _ => if m = 0 then (if n then 3 else 4) else if e = 0 then (if n then 2 else 5) else (if n then 1 else 6)

/-- The sign bit of a pattern of a type. -/
def signBit (t : Ty) (a : Nat) : Bool := a / 2 ^ (t.bits - 1) % 2 == 1

/-- The magnitude of a with a new sign; NaN by R210. -/
def withSign (t : Ty) (a : Nat) (neg : Bool) : Nat × Flags :=
  let x := tyValue t a
  if x.isNan then ((tyRound .rne t (.nan false)).1, flagIf x.isSig fNV)
  else (a % 2 ^ (t.bits - 1) + (if neg then 2 ^ (t.bits - 1) else 0), 0)

/-! ## How a row uses it -/

/-- Per lane a result of a type and its flags (R77, R78, R198). -/
def laneResult (x : Args) (t : Ty) (f : Nat → Nat × Flags) (s : State) : Res :=
  withFlags s (fun l => (f l).2) (writeTy s x t fun l => (f l).1)

/-- The mode of a lane (R71, R72). -/
def laneMode (s : State) (x : Args) (l : Nat) : Mode := roundMode s x.rnd l 0
/-- A source of role V in one lane as an exact value. -/
def laneVal (s : State) (x : Args) (f : Src) (l : Nat) : Val := tyValue x.ty (vecA s x f l)

/-- An exact value of the lane's mode and operands, rounded once to TYPE (R206). -/
def rounded (x : Args) (f : Mode → Val → Val → Val → Val) (s : State) : Res :=
  laneResult x x.ty (fun l =>
    let m := laneMode s x l
    tyRound m x.ty (f m (laneVal s x x.a l) (laneVal s x x.b l) (laneVal s x x.c l))) s

/-- A function of one FP32 pattern (R211). -/
def approximate (x : Args) (f : Nat → Nat × Flags) (s : State) : Res :=
  laneResult x .f32 (fun l => f (vecA s x x.a l)) s

/-! ## The meanings -/

/-- `fadd`: a + b, rounded once (R206). -/
def execFadd (x : Args) (s : State) : Host.Outcome State Fault Refusal :=
  run (.fadd x) (rounded x fun m a b _ => Val.add m a b) s

/-- `fsub`: a - b, rounded once (R206). -/
def execFsub (x : Args) (s : State) : Host.Outcome State Fault Refusal :=
  run (.fsub x) (rounded x fun m a b _ => Val.add m a b.negate) s

/-- `fmul`: a * b, rounded once (R206). -/
def execFmul (x : Args) (s : State) : Host.Outcome State Fault Refusal :=
  run (.fmul x) (rounded x fun _ a b _ => Val.mul a b) s

/-- `ffma`: a * b + c, rounded once (R206). -/
def execFfma (x : Args) (s : State) : Host.Outcome State Fault Refusal :=
  run (.ffma x) (rounded x fun m a b c => Val.add m (Val.mul a b) c) s

/-- `fmin`: the lesser, a number rather than a NaN (R207). -/
def execFmin (x : Args) (s : State) : Host.Outcome State Fault Refusal :=
  run (.fmin x) (fun s => laneResult x x.ty (fun l => pickFloat x.ty false (vecA s x x.a l) (vecA s x x.b l)) s) s

/-- `fmax`: the greater, a number rather than a NaN (R207). -/
def execFmax (x : Args) (s : State) : Host.Outcome State Fault Refusal :=
  run (.fmax x) (fun s => laneResult x x.ty (fun l => pickFloat x.ty true (vecA s x x.a l) (vecA s x x.b l)) s) s

/-- `fcmp`: bit l of m receives the condition; m0 is not written (R208). -/
def execFcmp (x : Args) (s : State) : Host.Outcome State Fault Refusal :=
  run (.fcmp x) (fun s =>
    withFlags s (fun l => floatCondFlag x.fn.toNat (laneVal s x x.a l) (laneVal s x x.b l))
      (laneMask s x fun l => floatCond x.fn.toNat (laneVal s x x.a l) (laneVal s x x.b l))) s

/-- `fdiv`: a / b, rounded once (R206). -/
def execFdiv (x : Args) (s : State) : Host.Outcome State Fault Refusal :=
  run (.fdiv x) (fun s => laneResult x x.ty (fun l =>
    let (q, f) := Val.div (laneVal s x x.a l) (laneVal s x x.b l)
    let (r, g) := tyRound (laneMode s x l) x.ty q
    (r, f ||| g)) s) s

/-- `fsqrt`: the square root of a, rounded once (R206). -/
def execFsqrt (x : Args) (s : State) : Host.Outcome State Fault Refusal :=
  run (.fsqrt x) (rounded x fun _ a _ _ => Val.sqrt a) s

/-- `frcp`: 1 / a, approximated (R211). -/
def execFrcp (x : Args) (s : State) : Host.Outcome State Fault Refusal :=
  run (.frcp x) (approximate x approxRcp) s

/-- `frsq`: 1 / sqrt a, approximated (R211). -/
def execFrsq (x : Args) (s : State) : Host.Outcome State Fault Refusal :=
  run (.frsq x) (approximate x approxRsq) s

/-- `fexp2`: 2^a, approximated (R211). -/
def execFexp2 (x : Args) (s : State) : Host.Outcome State Fault Refusal :=
  run (.fexp2 x) (approximate x approxExp2) s

/-- `flog2`: log2 a, approximated (R211). -/
def execFlog2 (x : Args) (s : State) : Host.Outcome State Fault Refusal :=
  run (.flog2 x) (approximate x approxLog2) s

/-- `fsin`: sin a, approximated (R211). -/
def execFsin (x : Args) (s : State) : Host.Outcome State Fault Refusal :=
  run (.fsin x) (approximate x approxSin) s

/-- `fcos`: cos a, approximated (R211). -/
def execFcos (x : Args) (s : State) : Host.Outcome State Fault Refusal :=
  run (.fcos x) (approximate x approxCos) s

/-- `ftanh`: tanh a, approximated (R211). -/
def execFtanh (x : Args) (s : State) : Host.Outcome State Fault Refusal :=
  run (.ftanh x) (approximate x approxTanh) s

/-- `fclass`: the class bit of a in a 32-bit lane (R209). -/
def execFclass (x : Args) (s : State) : Host.Outcome State Fault Refusal :=
  run (.fclass x) (fun s => .done (writeVec s x 32 fun l => 2 ^ classBit x.ty (vecA s x x.a l))) s

/-- `fscale`: a * 2^b for the signed word b, rounded once (R206). -/
def execFscale (x : Args) (s : State) : Host.Outcome State Fault Refusal :=
  run (.fscale x) (fun s => laneResult x x.ty (fun l =>
    tyRound (laneMode s x l) x.ty ((laneVal s x x.a l).scale (clampExp (intOf .i32 (vec32 s x x.b l))))) s) s

/-- `fsgnCopy`: the magnitude of a with the sign of b (R210). -/
def execFsgnCopy (x : Args) (s : State) : Host.Outcome State Fault Refusal :=
  run (.fsgnCopy x) (fun s => laneResult x x.ty (fun l =>
    withSign x.ty (vecA s x x.a l) (signBit x.ty (vecA s x x.b l))) s) s

/-- `fsgnNcopy`: the magnitude of a with the opposite of the sign of b (R210). -/
def execFsgnNcopy (x : Args) (s : State) : Host.Outcome State Fault Refusal :=
  run (.fsgnNcopy x) (fun s => laneResult x x.ty (fun l =>
    withSign x.ty (vecA s x x.a l) (!signBit x.ty (vecA s x x.b l))) s) s

/-- `fsgnXor`: the magnitude of a with the XOR of both signs (R210). -/
def execFsgnXor (x : Args) (s : State) : Host.Outcome State Fault Refusal :=
  run (.fsgnXor x) (fun s => laneResult x x.ty (fun l =>
    withSign x.ty (vecA s x x.a l) (signBit x.ty (vecA s x x.a l) != signBit x.ty (vecA s x x.b l))) s) s

end Sys2Proof.Machine
end

