-- ==== Sys2Proof/Machine/Fixed.lean ====
section
/-! DEFINITION. Fixed-point lane arithmetic 0x6C to 0x6F and 0x7D (R212 to R214). -/

namespace Sys2Proof.Machine

/-! ## What they compute: integers of FX128 and FX64 -/

/-- The integer of an FX128 pattern. -/
def fx128Of (x : Nat) : Int := (BitVec.ofNat 128 x).toInt
/-- The integer of an FX64 pattern. -/
def fx64Of (x : Nat) : Int := (BitVec.ofNat 64 x).toInt

/-- `fxacc` of d and the operands' values at an anchor (R213): the sum is saturated once. -/
def accumulate (m : Mode) (anchor d : Int) (a b : Val) : Int × Flags :=
  if d = fxNan 128 then (d, 0)
  else
    match Val.mul a b with
    | .nan _ => (fxNan 128, fNV)
    | .inf n => (if n then -fxMax 128 else fxMax 128, fFXO)
    | .fin n mag e =>
      let (k, nx) := roundAt m n mag e anchor
      let (i, o) := fxSat 128 (d + (if n then -(k : Int) else k))
      (i, flagIf o fFXO ||| flagIf nx fNX)

/-- Shifts of an anchor beyond which the result is the same (R214). -/
def clampShift (i : Int) : Int := max (-300) (min 300 i)

/-- `fxpk` of an integer of width w into width v, with s the new anchor minus the old one (R214). -/
def repack (m : Mode) (w v : Nat) (s q : Int) : Int × Flags :=
  if q = fxNan w then (fxNan v, 0) else fxRound m v (clampShift s) (Val.ofInt q 0)

/-! ## How a row uses it -/

/-- The anchor of an instruction: c[15:0] if fn6[5] is set, else FMT.ANCHOR (R212). -/
def anchorOf (s : State) (x : Args) : Int :=
  if x.fn.getLsbD 5 then ((scalar32 s x x.c).setWidth 16).toInt else (s.sp.fmt.extractLsb' 16 16).toInt

/-- The state after the anchor operand has been read (log 9). -/
def afterAnchor (s : State) (x : Args) : State := if x.fn.getLsbD 5 then afterScalar s x.c else s

/-- Per lane an integer of a width and its flags (R77, R78, R198). -/
def fxResult (x : Args) (w : Nat) (f : Nat → Int × Flags) (s : State) : Res :=
  withFlags s (fun l => (f l).2) (writeVec s x w fun l => wrapInt w (f l).1)

/-! ## The meanings -/

/-- `fxacc`: d accumulates the product of a and b, rounded at the anchor (R213). -/
def execFxacc (x : Args) (s : State) : Host.Outcome State Fault Refusal :=
  run (.fxacc x) (fun s => fxResult x 128 (fun l =>
    accumulate (laneMode s x l) (anchorOf s x) (fx128Of (getVs s x.d.toNat 4 l)) (laneVal s x x.a l)
      (laneVal s x x.b l)) (afterAnchor s x)) s

/-- `fxcvt`: the value of a at the anchor, converted to TYPE (R213). -/
def execFxcvt (x : Args) (s : State) : Host.Outcome State Fault Refusal :=
  run (.fxcvt x) (fun s => laneResult x x.ty (fun l =>
    tyRound (laneMode s x l) x.ty (fxValue 128 (anchorOf s x) (fx128Of (vecQ s x x.a l)))) (afterAnchor s x)) s

/-- `fxset`: the value of a, converted into FX128 at the anchor (R213). -/
def execFxset (x : Args) (s : State) : Host.Outcome State Fault Refusal :=
  run (.fxset x) (fun s => fxResult x 128 (fun l =>
    fxRound (laneMode s x l) 128 (anchorOf s x) (laneVal s x x.a l)) (afterAnchor s x)) s

/-- `fxadd`: the saturating sum of a and b (R213). -/
def execFxadd (x : Args) (s : State) : Host.Outcome State Fault Refusal :=
  run (.fxadd x) (fun s => fxResult x 128 (fun l =>
    let (i, o) := fxAdd 128 (fx128Of (vecQ s x x.a l)) (fx128Of (vecQ s x x.b l))
    (i, flagIf o fFXO)) s) s

/-- `fxpk.fx64`: FX128 repacked into FX64 at a new anchor (R214). -/
def execFxpkFx64 (x : Args) (s : State) : Host.Outcome State Fault Refusal :=
  run (.fxpkFx64 x) (fun s => fxResult x 64 (fun l =>
    repack (laneMode s x l) 128 64 (scalar32 s x x.b).toInt (fx128Of (vecQ s x x.a l))) (afterScalar s x.b)) s

/-- `fxpk.fx128`: FX64 repacked into FX128 at a new anchor (R214). -/
def execFxpkFx128 (x : Args) (s : State) : Host.Outcome State Fault Refusal :=
  run (.fxpkFx128 x) (fun s => fxResult x 128 (fun l =>
    repack (laneMode s x l) 64 128 (scalar32 s x x.b).toInt (fx64Of (vec64 s x x.a l))) (afterScalar s x.b)) s

end Sys2Proof.Machine
end

