-- ==== Sys2Proof/Machine/Collective.lean ====
section
/-! DEFINITION. Collectives (R260, R261, R339 to R344, R372, R417, R430): the instruction, the participants' work,
the chunks and their hops. -/

namespace Sys2Proof.Machine

/-! ## The collective record (R260) -/

/-- The fields of a collective record (R260). -/
structure CollRec where
  kind : Nat
  efmt : Nat
  cid : BitVec 16
  npart : Nat
  root : Nat
  anchor : BitVec 16
  rank : Nat
  src : Nat
  dst : Nat
  count : Nat
  plist : Nat
  deriving DecidableEq, Repr

/-- The fields of a collective record from its sixteen words (R260). -/
def parseColl (ws : List Word) : CollRec :=
  let w := fun (k : Nat) => ws.getD k 0
  { kind := fieldOf (w 0) 3 0, efmt := fieldOf (w 0) 7 4, cid := (w 0).extractLsb' 16 16
    npart := fieldOf (w 1) 15 0, root := fieldOf (w 1) 31 16
    anchor := (w 2).setWidth 16, rank := fieldOf (w 2) 31 16
    src := (wordPair ws 4).toNat, dst := (wordPair ws 6).toNat, count := (wordPair ws 8).toNat
    plist := (wordPair ws 10).toNat }

/-- The kinds that reduce: all-reduce and reduce-scatter (R260). -/
def reduces (kind : Nat) : Bool := kind < 2

/-- Chunks of a contribution (R340). -/
def chunksPer (kind efmt count : Nat) : Nat :=
  if reduces kind then ceilDiv count 512 else ceilDiv (ceilDiv (count * fmtBytes efmt) 8) 512

/-- No field of a record is reserved or out of range (R260, R340). -/
def collOk (ws : List Word) : Bool :=
  let r := parseColl ws
  r.kind ≤ 3 && fieldOf (ws.getD 0 0) 15 8 == 1 && !reservedFmt r.efmt &&
    (!reduces r.kind || [0, 10, 12].contains r.efmt) && decide (1 ≤ r.npart) && decide (r.npart ≤ 16384) &&
    decide (r.rank < r.npart) && (if r.kind = 3 then decide (r.root < r.npart) else r.root == 0) &&
    ws.getD 3 0 == 0 && (ws.drop 12).all (· == 0) && decide (chunksPer r.kind r.efmt r.count ≤ 2 ^ 24)

/-- `coll` (R260): its record as a load, then the command. -/
def collBody (x : Args) (s : State) : Res :=
  let va := (pairOf s x.a).toNat
  if s.exec = 0 then .done s
  else if !flagsBarOk s (engineFlags x) then raiseEncoding (.coll x) s
  else if va % 64 ≠ 0 then raiseExec s 0x10 (BitVec.ofNat 64 va)
  else
    whenReady s (blockAccess va 64) fun s =>
      let r := readAll s (blockAccess va 64).elems 8 true
      if r.2.any fun e => e.2.2 then raisePoison r.1 (blockAccess va 64) r.2
      else
        accept x r.1 (.coll ((blockValues r.2).flatMap wordsOf) (bayOf s.tm.core) (BitVec.ofNat 64 va)) (engineFlags x) []

/-! ## The tree (R339) -/

/-- The number of steps of one direction: the least L with 2^L ≥ NPART. -/
def levelsFor (n : Nat) : Nat := Nat.log2 (2 * n - 1)

/-- The up step in which rank r' sends, L for rank 0: its number of trailing zeros. -/
def sendStep (l r : Nat) : Nat :=
  match l with
  | 0 => 0
  | k + 1 => if r % 2 = 1 then 0 else 1 + sendStep k (r / 2)

/-- Whether some rank from `lo` up to but not including `hi` owns a chunk (R339). -/
def owns (c : Coll) (lo hi chunk : Nat) : Bool :=
  let q := chunksPer c.kind c.efmt c.count
  decide (lo * q / c.npart ≤ chunk ∧ chunk < min hi c.npart * q / c.npart)

/-- The contributions a participant of a collective reads or holds (R430). -/
def orgsOf (c : Coll) : List Nat := if c.kind = 2 then List.range c.npart else [0]

/-- The chunks that a participant writes, in ascending order (R430). -/
def writesOf (c : Coll) (p : Part) : List (Nat × Nat) :=
  let l := (orgsOf c).flatMap fun o => (List.range (chunksPer c.kind c.efmt c.count)).map fun k => (o, k)
  if c.kind = 1 then l.filter fun k => owns c p.rel (p.rel + 1) k.2 else l

/-- The unrecoverable chunk that a participant's chunk depends on (R417). -/
def lostFor (c : Coll) (rel : Nat) (k : Nat × Nat) : Option Lost :=
  c.lost.find? fun e => e.org == k.1 && e.chunk == k.2 &&
    (e.up || decide (e.rel ≤ rel ∧ rel < e.rel + 2 ^ sendStep (levelsFor c.npart) e.rel))

/-! ## Routes (R13, R341, R416) -/

/-- The hop ids of a bay's collective engine and of its router (R17, R18). -/
def engineHop (bay : Nat) : BitVec 16 := BitVec.ofNat 16 (0x0300 + bay)
/-- A hop is a router. -/
def isRouter (h : BitVec 16) : Bool := h.toNat / 256 == 1
/-- The hop id of a fabric port (R21). -/
def portHop (p : Nat) : BitVec 16 := BitVec.ofNat 16 (0x0200 + p)
/-- A hop is a fabric port: its number. -/
def hopPort (h : BitVec 16) : Option Nat := if h.toNat / 256 = 2 then some (h.toNat % 256) else none
/-- The bay of a hop. -/
def hopBay (h : BitVec 16) : Nat := match hopPort h with | some p => p / 4 | none => h.toNat % 4

/-- A hop is a collective engine. -/
def isEngine (h : BitVec 16) : Bool := h.toNat / 256 == 3

/-- The routers from one bay to another, and then a hop of that bay (R331, R416). None where no bridges in service join the two: the message
waits where it is until some do. -/
def hopsVia (s : State) (a b : Nat) (last : BitVec 16) : List (BitVec 16) :=
  match bayRoute s none a b with
  | some r => r.map routerHop ++ [last]
  | none => []

/-- The hops from one bay's collective engine to another's (R341). -/
def hopsTo (s : State) (a b : Nat) : List (BitVec 16) := if a = b then [engineHop b] else hopsVia s a b (engineHop b)

/-- The hops from a bay's collective engine out of the device, on the path to a device (R331, R333, R341); none with no port up. -/
def hopsOut (s : State) (a dev : Nat) : List (BitVec 16) :=
  match pathPort s dev with
  | some p => hopsVia s a (p / 4) (portHop p)
  | none => []

/-! ## Participants and chunks -/

/-- Replaces a collective. -/
def updColl (s : State) (id : Nat) (f : Coll → Coll) : State :=
  { s with eng := { s.eng with colls := updateWhere (fun c => c.id == id) f s.eng.colls } }
/-- A collective. -/
def findColl (s : State) (id : Nat) : Option Coll := s.eng.colls.find? fun c => c.id == id
/-- A participant by rank r'. -/
def partOf (c : Coll) (rel : Nat) : Option Part := c.parts.find? fun p => p.rel == rel
/-- Replaces a participant. -/
def updPart (s : State) (id rel : Nat) (f : Part → Part) : State :=
  updColl s id fun c => { c with parts := updateWhere (fun p => p.rel == rel) f c.parts }
/-- What a participant holds of a chunk. -/
def valOf (p : Part) (k : Nat × Nat) : Option PVal := p.vals.find? fun v => (v.org, v.chunk) == k
/-- A participant holds a chunk. -/
def putVal (s : State) (id rel : Nat) (v : PVal) : State :=
  updPart s id rel fun p => { p with
    vals := p.vals.filter (fun x => !(x.org == v.org && x.chunk == v.chunk)) ++ [v] }

/-- The CHUNKID of a chunk of a collective (R340). -/
def chunkIdOf (c : Coll) (step src index : Nat) : DWord :=
  BitVec.ofNat 64 (c.cid.toNat + 2 ^ 16 * (step % 256) + 2 ^ 24 * (src % 65536) + 2 ^ 40 * (index % 2 ^ 24))

/-- The index of a chunk within what its sender sends (R340): an appended partial is one contribution. -/
def chunkIndex (c : Coll) (step src : Nat) (v : PVal) : Nat :=
  let q := chunksPer c.kind c.efmt c.count
  if c.kind ≠ 2 then v.chunk else if step < levelsFor c.npart then (v.org - src) * q + v.chunk else v.org * q + v.chunk

/-- Where a rank r' takes part: the device and bay of its entry in the participant list (R260). -/
def rankPlace (c : Coll) (rel : Nat) : Nat × Nat :=
  let e := c.plist.getD ((rel + c.root) % c.npart) 0
  (e % 4096, e / 4096 % 4)

/-- This device's id (R29). -/
def ownId (s : State) : Nat := (s.dev.cap3.extractLsb' 16 12).toNat

/-- A participant's command has failed, or its collective was stopped: it sends no more and sums no more (R261). -/
def partFailed (s : State) (p : Part) : Bool :=
  ((findCmd s p.cmd).bind fun m => m.res).any fun r => !([0, 5, 0x0B].contains r.code.toNat)

/-- A participant sends a chunk to another in a step (R339, R340), unless its command has failed (R261): to a bay of this device, or out
through a fabric port. -/
def sendChunk (c : Coll) (src dest step : Nat) (v : PVal) (s : State) : State :=
  match (partOf c src).filter fun a => !partFailed s a with
  | some a =>
    let place := rankPlace c dest
    let out := place.1 != ownId s
    let w := scribeOf (v.slots.map BitVec.toNat)
    let n := newId s
    let x : Chunk :=
      { num := n.2, coll := c.id, dest := dest, org := v.org, chunk := v.chunk, step := step
        chunkId := chunkIdOf c step src (chunkIndex c step src v), s0 := w.1, s1 := w.2
        fmt := if reduces c.kind then 11 else BitVec.ofNat 4 c.efmt, ovf := v.ovf, rsnd := false
        anchor := c.anchor, hop := engineHop a.bay, payload := v.slots, side := none, prev := engineHop a.bay
        hops := if out then hopsOut s a.bay place.1 else hopsTo s a.bay place.2, tries := 0, rerouted := false, waiting := false
        out := out }
    { n.1 with eng := { n.1.eng with chunks := n.1.eng.chunks ++ [x] } }
  | none => s

/-- The result of a chunk stands at a rank: it is kept to be written, and sent on to the rank's subtree, the largest
distance first (R339). -/
def settleFinal (c : Coll) (rel : Nat) (v : PVal) (s : State) : State :=
  let l := levelsFor c.npart
  let s := putVal s c.id rel { v with final := true }
  (List.range (sendStep l rel)).reverse.foldl (fun s u =>
    let dest := rel + 2 ^ u
    if decide (dest < c.npart) && (c.kind != 1 || owns c dest (dest + 2 ^ u) v.chunk) then
      sendChunk c rel dest (2 * l - 1 - u) v s
    else s) s

/-- The first up step from a given one in which rank r' receives, or its own sending step (R339). -/
def skipSteps (c : Coll) (rel : Nat) : Nat → Nat → Nat
  | 0, k => k
  | f + 1, k =>
    if k < sendStep (levelsFor c.npart) rel ∧ c.npart ≤ rel + 2 ^ k then skipSteps c rel f (k + 1) else k

/-- A participant's partial of a chunk after some up steps: it waits for the next one, or is sent, or is the result
(R339). Contributions that are appended wait for nothing, and a broadcast has no up steps. -/
def settlePartial (c : Coll) (rel : Nat) (v : PVal) (s : State) : State :=
  let l := levelsFor c.npart
  let last := sendStep l rel
  let step := if c.kind = 2 ∨ c.kind = 3 then last else skipSteps c rel l v.step
  let v := { v with step := step }
  if step < last then putVal s c.id rel v
  else if rel = 0 then settleFinal c rel v s
  else sendChunk c rel (rel - 2 ^ last) last v (putVal s c.id rel v)

/-! ## Records of chunks (R342, R343, R379) -/

/-- A CHUNK record, at a hop, for a participant, whether or not its command has ended. -/
def chunkRecord (s : State) (p : Part) (id : DWord) (hop : BitVec 16) (extra : Word) : State :=
  writeRecord s { Rcd.blank 0x04 with
    asid := p.asid, launch := p.launch, hop := hop, extra := extra, chunk := id, bay := hopBay hop }

/-- A chunk's loss is recorded for the participant that would take it; for one on another device, for the first one of this device
(log 167). -/
def recordLoss (s : State) (c : Coll) (rel : Nat) (id : DWord) (hop : BitVec 16) (extra : Word) : State :=
  match (partOf c rel).orElse fun _ => c.parts.head? with
  | some p => chunkRecord s p id hop extra
  | none => s

/-- What a participant of a reduce-scatter has still to do for a chunk, whether or not its command has ended: to send its partial, or, where
its subtree owns the chunk, to pass the result on (R339). -/
def owesChunk (c : Coll) (p : Part) (k : Nat) : Bool :=
  let last := sendStep (levelsFor c.npart) p.rel
  (lostFor c p.rel (0, k)).isNone && (valOf p (0, k)).all fun v =>
    if owns c p.rel (p.rel + 2 ^ last) k then !v.final else decide (v.step < last)

/-- A participant has still to send for the other ranks of a collective: one whose command failed, and one of a collective that was stopped,
sends no more (R261). -/
def stillSends (s : State) (c : Coll) (p : Part) : Bool :=
  c.kind == 1 && c.began && !c.stopped && !partFailed s p &&
    (List.range (chunksPer c.kind c.efmt c.count)).any (owesChunk c p)

/-- A collective whose participants' commands have all ended is over, once they owe the other ranks nothing, what it sends to other devices
has left and their hops have verified it. -/
def closeColl (s : State) (id : Nat) : State :=
  match findColl s id with
  | none => s
  | some c =>
    if c.parts.all (fun p => (findCmd s p.cmd).all (fun m => m.res.isSome) && !stillSends s c p) &&
        !s.eng.chunks.any (fun y => y.coll == id && y.out) && !s.fab.sent.any (fun y => y.coll == id) then
      { s with eng := { s.eng with
        colls := s.eng.colls.filter fun y => y.id != id, chunks := s.eng.chunks.filter fun y => y.coll != id } }
    else s

/-- A chunk is unrecoverable (R341, R343, R417): the participants of this device learn of it, and the launches under REPLAY are to be
rolled back. -/
def noteLost (s : State) (c : Coll) (e : Lost) : State :=
  let s := updColl s c.id fun c => { c with lost := c.lost ++ [e] }
  closeColl (c.parts.foldl (fun s p =>
    match findCmd s p.cmd with
    | some m =>
      let l := launchOfGroup s (findGroup s m.gid)
      if l.rcd.report || l.id = 0 || l.rollback then s else startRollback s l.id
    | none => s) s) c.id

/-- A chunk is unrecoverable at a hop of this device (R341, R343, R417): its record, and what follows. -/
def loseChunk (s : State) (c : Coll) (x : Chunk) (hop : BitVec 16) (extra : Word) : State :=
  let s := recordLoss s c x.dest x.chunkId hop extra
  let s := { s with
    eng := { s.eng with chunks := s.eng.chunks.filter fun y => y.num != x.num }
    fab := { s.fab with sent := s.fab.sent.filter fun y => y.num != x.num } }
  noteLost s c { up := decide (x.step < levelsFor c.npart), rel := x.dest, org := x.org, chunk := x.chunk
                 chunkId := x.chunkId, hop := x.hop }

/-! ## A chunk arrives (R341, R342) -/

/-- Replaces a chunk on its way. -/
def updChunk (s : State) (n : Nat) (f : Chunk → Chunk) : State :=
  { s with eng := { s.eng with chunks := updateWhere (fun x => x.num == n) f s.eng.chunks } }
/-- A chunk is on its way no more. -/
def dropChunk (s : State) (n : Nat) : State :=
  { s with eng := { s.eng with chunks := s.eng.chunks.filter fun x => x.num != n } }

/-- Slots with the bits of some of them flipped. -/
def flipSlots (flips : List (Nat × DWord)) (l : List DWord) : List DWord :=
  flips.foldl (fun l f => updateAt l f.1 (· ^^^ f.2)) l

/-- The sum of two payloads, slot by slot, and whether a slot saturated (R342); `adder` flips bits of the sums that a
faulty adder forms. -/
def sumSlots (adder : List (Nat × DWord)) (a b : List DWord) : List DWord × Bool :=
  let r := (a.zip b).map fun p => fxAdd 64 p.1.toInt p.2.toInt
  (flipSlots adder (r.map fun x => BitVec.ofInt 64 x.1), r.any Prod.snd)

/-- The unit that is the link into a hop (R341, R407): a bridge, or the port by which a chunk comes to the device. -/
def linkInto (prev h : BitVec 16) : Option UnitId :=
  if isRouter prev && isRouter h && prev != h then some (0x0C, 4 * min (hopBay prev) (hopBay h) + max (hopBay prev) (hopBay h))
  else if isRouter prev then none
  else (hopPort h).map fun p => (0x0D, p)

/-- A hop finds a chunk wrong (R341 step 1): it is charged to the link into the hop and resent; after three failed resends the hop
reports the link, and the chunk goes by the other route, where there is one, for three more tries. -/
def badArrival (s : State) (c : Coll) (x : Chunk) (h : BitVec 16) : State :=
  let bridge := isRouter x.prev && isRouter h && x.prev != h
  let a := hopBay x.prev
  let b := hopBay h
  let link := linkInto x.prev h
  let s := match link with | some u => countError s u h b | none => s
  let again := fun (y : Chunk) => { y with tries := y.tries + 1, waiting := true }
  if x.tries + 1 < (if x.rerouted then 3 else 4) then updChunk s x.num again
  else
    let s := match link with | some u => uncorrected s u | none => s
    let dest := hopBay (x.hops.getLast?.getD h)
    match (if bridge && !x.rerouted then bayRoute s (some (a, b)) a dest else none) with
    | some p => updChunk s x.num fun y =>
        { y with tries := 0, rerouted := true, waiting := true
                 hops := (p.drop 1).map routerHop ++ [x.hops.getLast?.getD (engineHop dest)] }
    | none => loseChunk s c x h 2

/-- The next healthy bay in ascending order, modulo 4 (R341 step 2). -/
def nextBay (s : State) (b : Nat) : Nat :=
  (([1, 2, 3].map fun k => (b + k) % 4).find? fun k => bayHealthy s k).getD b

/-- A reducing engine adds an arriving chunk to the partial of its rank and checks the sum (R341 step 2, R342). On a
mismatch that persists, the next healthy bay's engine takes its place; there the chunk is unrecoverable. -/
def reduceArrival (s : State) (c : Coll) (x : Chunk) (p : Part) (v : PVal) (h : BitVec 16)
    (adder : List (Nat × DWord)) : State :=
  let own := x.side.getD (v.slots, v.ovf)
  let r := sumSlots adder own.1 x.payload
  let flagged := r.2 || own.2 || x.ovf
  let fold := scribeFold false (scribeOf (own.1.map BitVec.toNat)) (x.s0, x.s1)
  if flagged || scribeOf (r.1.map BitVec.toNat) == fold then
    let s := if r.2 then chunkRecord s p x.chunkId h 1 else s
    settlePartial c x.dest { v with slots := r.1, ovf := flagged, step := x.step + 1 } (dropChunk s x.num)
  else if x.side.isNone && nextBay s (hopBay h) != hopBay h then
    updChunk s x.num fun _ => { x with
      side := some own, prev := h, hops := hopsTo s (hopBay h) (nextBay s (hopBay h)), tries := 0
      rerouted := false }
  else loseChunk s c x h 6

/-- A chunk has reached its engine unharmed (R339, R341). One whose partial still lacks an earlier step stays; a participant whose command
has failed takes none (R261). -/
def takeChunk (s : State) (c : Coll) (x : Chunk) (h : BitVec 16) (adder : List (Nat × DWord)) : State :=
  match partOf c x.dest with
  | none => dropChunk s x.num
  | some p =>
    if partFailed s p || (lostFor c x.dest (x.org, x.chunk)).isSome then dropChunk s x.num
    else
      let v : PVal := { org := x.org, chunk := x.chunk, slots := x.payload, ovf := x.ovf, step := x.step + 1, final := false }
      if levelsFor c.npart ≤ x.step then settleFinal c x.dest v (dropChunk s x.num)
      else if c.kind = 2 then settlePartial c x.dest v (dropChunk s x.num)
      else
        match valOf p (x.org, x.chunk) with
        | some own => if own.step = x.step then reduceArrival s c x p own h adder else s
        | none => s

/-- A chunk leaves the device at its fabric port, which keeps it until the next hop has verified it (R341 steps 1 and 3). -/
def leaveChunk (s : State) (x : Chunk) (h : BitVec 16) : State :=
  let s := dropChunk s x.num
  { s with fab := { s.fab with sent := s.fab.sent ++ [{ x with hop := h, prev := h, hops := [], tries := 0, rsnd := false }] } }

/-- The hop beyond the port asks for a chunk again (R341 step 1): the port resends it three times; then it is unrecoverable, as no other
route leads there (R333). -/
def resendSent (s : State) (n : Nat) : State :=
  match s.fab.sent.find? fun x => x.num == n with
  | none => s
  | some x =>
    if x.tries < 3 then
      { s with fab := { s.fab with sent := updateWhere (fun y => y.num == n) (fun y => { y with tries := y.tries + 1, rsnd := true }) s.fab.sent } }
    else
      match findColl s x.coll with
      | some c => loseChunk s c x x.hop 2
      | none => { s with fab := { s.fab with sent := s.fab.sent.filter fun y => y.num != n } }

/-- The hop beyond the port has verified a chunk: the port keeps it no more (R341 step 3). -/
def verifySent (s : State) (n : Nat) : State :=
  let mine := s.fab.sent.filter fun x => x.num == n
  let s := { s with fab := { s.fab with sent := s.fab.sent.filter fun x => x.num != n } }
  mine.foldl (fun s x => closeColl s x.coll) s

/-- A hop that a chunk cannot reach now (R331, R350, R416): over a bridge, or at a port, that is not in service. -/
def hopDown (s : State) (prev h : BitVec 16) : Bool :=
  (isRouter prev && isRouter h && prev != h && !bridgeUp s (hopBay prev) (hopBay h)) || (hopPort h).any fun p => !portLive s p

/-- A chunk that waits at a hop that is down goes by the path there is now; with no port up it cannot leave. -/
def rerouteChunk (s : State) (c : Coll) (x : Chunk) (h : BitVec 16) : State :=
  if x.out && (hopPort h).isSome then
    let far := (rankPlace c x.dest).1
    if (pathPort s far).any (portLive s) then updChunk s x.num fun y => { y with hops := hopsOut s (hopBay x.prev) far }
    else loseChunk s c x h 2
  else s

/-- A chunk that no route led on has one now, or waits where it is (R331, R416); one that would leave the device by no port is lost. -/
def goOn (s : State) (c : Coll) (x : Chunk) : State :=
  if x.out then loseChunk s c x x.prev 2
  else
    match partOf c x.dest with
    | some p => updChunk s x.num fun y => { y with hops := hopsTo s (hopBay x.prev) p.bay }
    | none => dropChunk s x.num

/-- The link check (R341 step 1): the payload as it came agrees with the header, and so does the partial that goes with it to a
substitute engine. -/
def linkOk (x : Chunk) (got : List DWord) (side : Option (List DWord × Bool)) : Bool :=
  scribeOf (got.map BitVec.toNat) == (x.s0, x.s1) &&
    side.map (fun y => scribeOf (y.1.map BitVec.toNat)) == x.side.map fun y => scribeOf (y.1.map BitVec.toNat)

/-- A chunk arrives at its next hop (R341): the link check on the payload as it comes, the reduction check at a
reducing engine, and on. `flips` are bits changed on the link, of the payload and then of the partial that goes with it, `adder` bits that
a faulty adder changes. -/
def arriveChunk (s : State) (x : Chunk) (flips adder : List (Nat × DWord)) : State :=
  match findColl s x.coll, x.hops with
  | none, _ => dropChunk s x.num
  | some c, [] => goOn s c x
  | some c, h :: rest =>
    let n := x.payload.length
    let got := flipSlots (flips.filter fun f => decide (f.1 < n)) x.payload
    let side := x.side.map fun y => (flipSlots ((flips.filter fun f => decide (n ≤ f.1)).map fun f => (f.1 - n, f.2)) y.1, y.2)
    if hopDown s x.prev h then rerouteChunk s c x h
    else if !linkOk x got side then badArrival s c x h
    else
      let x := { x with payload := got, side := side }
      if rest.isEmpty && x.out then leaveChunk s x h
      else if rest.isEmpty && isEngine h then closeColl (takeChunk s c x h adder) c.id
      else
        updChunk s x.num fun _ =>
          { x with hop := h, prev := h, hops := rest, tries := 0, rerouted := false, rsnd := false }

/-- A chunk on its way arrives at its next hop (R341). -/
def execChunkArrival (n : Nat) (flips adder : List (Nat × DWord)) (s : State) : Host.Outcome State Fault Refusal :=
  match s.eng.chunks.find? fun x => x.num == n with
  | some x => .next (if x.waiting then s else arriveChunk s x flips adder)
  | none => .next s

/-- The previous hop resends the chunk it kept (R341). -/
def execChunkResend (n : Nat) (s : State) : Host.Outcome State Fault Refusal :=
  .next (updChunk s n fun x => if x.waiting then { x with waiting := false, rsnd := true } else x)

/-! ## A participant's engine (R260, R261, R344, R430) -/

/-- A result of a collective command: it names the record unless another address is given. -/
def collRes (c : Cmd) (code : BitVec 8) (chunks : Nat) (addr : Nat) : CmdRes :=
  { code := code, chunks := chunks, addr := BitVec.ofNat 64 addr, chunk := 0xFFFFFFFFFFFFFFFF
    hop := engineHop (bayOf c.core), va := 0 }

/-- A command ends with a result. -/
def endCmd (s : State) (id : Nat) (r : CmdRes) : State :=
  updCmd s id fun c => if c.res.isSome then c else { c with res := some r }

/-- Every participant whose command has not ended reports 0x0A (R261). -/
def refuseAll (s : State) (c : Coll) : State :=
  let s := c.parts.foldl (fun s p =>
    match findCmd s p.cmd with
    | some m => endCmd s p.cmd (match m.kind with
        | .coll _ _ va => collRes m 0x0A p.wrote.length va.toNat
        | _ => collRes m 0x0A 0 0)
    | none => s) s
  closeColl s c.id

/-- The entries of a participant list (R260). -/
def plistOk (s : State) (c : Cmd) (r : CollRec) (es : List Nat) : Bool :=
  let own := es.getD r.rank 0
  es.all (fun e => e < 2 ^ 14) && own % 4096 == ownId s && own / 4096 == bayOf c.core

/-- The parameters that must agree (R261). -/
def agrees (c : Coll) (r : CollRec) : Bool :=
  c.kind == r.kind && c.efmt == r.efmt && c.npart == r.npart && c.anchor == r.anchor && c.count == r.count

/-- The collective of a CID that is still gathering; the first to join it begins it with what its record names (R261). -/
def gatherColl (s : State) (r : CollRec) : State × Option Coll :=
  match s.eng.colls.find? fun c => c.cid == r.cid && !c.began with
  | some c => (s, some c)
  | none =>
    let n := newId s
    let c : Coll :=
      { id := n.2, cid := r.cid, kind := r.kind, efmt := r.efmt, npart := r.npart, root := r.root
        anchor := r.anchor, count := r.count, plist := [], parts := [], away := [], last := s.gt, began := false
        stopped := false, lost := [] }
    ({ n.1 with eng := { n.1.eng with colls := n.1.eng.colls ++ [c] } }, some c)

/-- Every rank has joined, here or on another device. -/
def Coll.full (c : Coll) : Bool :=
  (List.range c.npart).all fun k => c.parts.any (fun p => p.rank == k) || c.away.any fun p => p.rank == k

/-- The participants name the same parameters (R261). -/
def collAgrees (s : State) (c : Coll) : Bool :=
  c.away.all (fun p => p.agrees) && c.parts.all fun p => match findCmd s p.cmd with
    | some m => (match m.kind with | .coll ws _ _ => agrees c (parseColl ws) | _ => false)
    | none => false

/-- Once every rank has joined, a collective begins, or, if what they name differs, all report 0x0A (R261). -/
def beginColl (s : State) (c : Coll) : State :=
  let s := updColl s c.id fun _ => c
  if !c.full then s
  else if collAgrees s c then updColl s c.id fun c => { c with began := true }
  else refuseAll s c

/-- A participant of this device joins the collective of its CID (R260, R261); `es` is its participant list. -/
def joinColl (s : State) (cmd : Cmd) (r : CollRec) (es : List Nat) : State :=
  match gatherColl s r with
  | (s, some c) =>
    let p : Part :=
      { cmd := cmd.id, asid := cmd.asid, launch := launchField (launchOfGroup s (findGroup s cmd.gid)), rank := r.rank, rel := (r.rank + c.npart - c.root % c.npart) % c.npart, bay := bayOf cmd.core
        next := 0, vals := [], wrote := [], ovf := false }
    beginColl s { c with parts := c.parts ++ [p], plist := es, last := s.gt }
  | (s, none) => s

/-- A command that has taken its acquire reads its participant list and joins (R260). -/
def startColl (c : Cmd) (ws : List Word) (va : DWord) (s : State) : State :=
  let r := parseColl ws
  if !collOk ws then endCmd s c.id (collRes c 9 0 va.toNat)
  else
    match engineRead (c.engine s false) s r.plist (4 * r.npart) with
    | .error (.ask s) => s
    | .error (.code k a write) => endCmd (noteDenied s (c.engine s false) k a write) c.id (collRes c k 0 a)
    | .ok (s, bs) =>
      let es := (chunksOf r.npart 4 bs).map ofBytes
      if plistOk s c r es then joinColl s c r es
      else endCmd s c.id (collRes c 9 0 va.toNat)

/-- Element p of a contribution as FX64 (R261, R372), and whether it saturated. -/
def toSlot (m : Cmd) (c : Coll) (p v : Nat) : Int × Bool :=
  if c.efmt = 12 then
    let q := (BitVec.ofNat 128 v).toInt
    if q = fxNan 128 then (fxNan 64, false) else fxSat 64 q
  else
    let r := fxRound (modeOf m.rnd m.rkey p 0) 64 c.anchor.toInt (tyValue (fmtTy c.efmt) v)
    (r.1, r.2 &&& fFXO != 0)

/-- Result element p in EFMT (R261, R372), and whether its conversion saturated (R342). -/
def fromSlot (m : Cmd) (c : Coll) (p : Nat) (q : Int) : Nat × Bool :=
  if c.efmt = 12 then (wrapInt 128 (if q = fxNan 64 then fxNan 128 else q), false)
  else
    let r := tyRound (modeOf m.rnd m.rkey p (2 ^ 32)) (fmtTy c.efmt) (fxValue 64 c.anchor.toInt q)
    (r.1, r.2 &&& fOF != 0 || (r.2 &&& fNV != 0 && q != fxNan 64))

/-- Bytes of a chunk of a contribution: from where within it, and how many (R340, R430). -/
def chunkSpan (c : Coll) (k : Nat) : Nat × Nat :=
  let n := fmtBytes c.efmt
  let per := if reduces c.kind then 512 * n else 4096
  (per * k, min per (c.count * n - per * k))

/-- A chunk of the source as slots (R261, R340), and whether an element saturated. -/
def slotsOf (m : Cmd) (c : Coll) (k : Nat) (bs : List Byte) : List DWord × Bool :=
  if reduces c.kind then
    let n := fmtBytes c.efmt
    let es := chunksOf bs.length n bs
    let r := ((List.range es.length).zip es).map fun e => toSlot m c (512 * k + e.1) (ofBytes e.2)
    (r.map fun x => BitVec.ofInt 64 x.1, r.any Prod.snd)
  else ((chunksOf bs.length 8 bs).map fun b => BitVec.ofNat 64 (ofBytes b), false)

/-- A participant's source fails (R261): it stops sending and notifies the others. -/
def failSource (s : State) (c : Coll) (p : Part) (m : Cmd) (code : BitVec 8) (addr : Nat) : State :=
  let s := endCmd s m.id (collRes m code p.wrote.length addr)
  closeColl (updColl s c.id fun c => { c with stopped := true }) c.id

/-- The chunks that a rank r' reads of its source: all, but in a broadcast the root's alone (R339). -/
def sourceChunks (c : Coll) (rel : Nat) : Nat := if c.kind = 3 ∧ rel ≠ 0 then 0 else chunksPer c.kind c.efmt c.count

/-- A participant reads its source chunk by chunk, from chunk `k` on, and sends what is due (R261, R339). -/
def readSource (m : Cmd) (id rel : Nat) (r : CollRec) : Nat → State → State
  | 0, s => s
  | f + 1, s =>
    match findColl s id with
    | none => s
    | some c =>
      match partOf c rel with
      | none => s
      | some p =>
        if sourceChunks c rel ≤ p.next then s
        else
          let sp := chunkSpan c p.next
          match engineRead (m.engine s false) s ((r.src + sp.1) % 2 ^ 64) sp.2 with
          | .error (.ask s) => s
          | .error (.code k a write) => failSource (noteDenied s (m.engine s false) k a write) c p m k a
          | .ok (s, bs) =>
            let y := slotsOf m c p.next bs
            let org := if c.kind = 2 then rel else 0
            let v : PVal := { org := org, chunk := p.next, slots := y.1, ovf := y.2, step := 0, final := false }
            let s := if y.2 then chunkRecord s p (chunkIdOf c 0 rel p.next) (engineHop p.bay) 1 else s
            let s := updPart s id rel fun p => { p with next := p.next + 1 }
            let s := if (lostFor c rel (org, p.next)).isSome then s else settlePartial c rel v s
            readSource m id rel r f s

/-- The VA and bytes of a result chunk at an endpoint (R430), and whether a conversion saturated. -/
def resultOf (m : Cmd) (c : Coll) (p : Part) (r : CollRec) (v : PVal) : Nat × List Byte × Bool :=
  let n := fmtBytes c.efmt
  let sp := chunkSpan c v.chunk
  if reduces c.kind then
    let q := chunksPer c.kind c.efmt c.count
    let first := if c.kind = 1 then p.rel * q / c.npart else 0
    let es := ((List.range v.slots.length).zip v.slots).map fun e => fromSlot m c (512 * v.chunk + e.1) e.2.toInt
    ((r.dst + sp.1 - 512 * n * first) % 2 ^ 64, es.flatMap fun e => toBytes n e.1, es.any Prod.snd)
  else
    ((r.dst + v.org * (c.count * n) + sp.1) % 2 ^ 64, (v.slots.flatMap fun d => toBytes 8 d.toNat).take sp.2, false)

/-- An endpoint writes the results it holds, in ascending order; a chunk whose destination fails ends its command
(R248, R341 step 4, R342). -/
def writeResults (m : Cmd) (id rel : Nat) (r : CollRec) : List (Nat × Nat) → State → State
  | [], s => s
  | k :: t, s =>
    match findColl s id with
    | none => s
    | some c =>
      match partOf c rel with
      | none => s
      | some p =>
        match (if p.wrote.contains k then none else (valOf p k).filter fun v => v.final) with
        | none => writeResults m id rel r t s
        | some v =>
          let y := resultOf m c p r v
          match engineMay s (m.engine s false) [(y.1, y.2.1.length)] with
          | some (.ask s) => s
          | some (.code e a write) => endCmd (noteDenied s (m.engine s false) e a write) m.id (collRes m e p.wrote.length y.1)
          | none =>
            let w := match findCmd s m.id with | some m => m.w | none => 0
            let o := engineWrite (m.engine s false) s w y.1 y.2.1
            let s := updCmd o.1 m.id fun m => { m with w := o.2 }
            let s := if y.2.2 then chunkRecord s p (chunkIdOf c 0 rel k.2) (engineHop p.bay) 1 else s
            let s := updPart s id rel fun p => { p with wrote := p.wrote ++ [k], ovf := p.ovf || v.ovf || y.2.2 }
            writeResults m id rel r t s

/-- A participant that has read its source, and whose chunks are all written or lost, ends its command (R342 to R344, R417, R430). -/
def endPart (m : Cmd) (id rel : Nat) (r : CollRec) (va : DWord) (s : State) : State :=
  match findColl s id with
  | none => s
  | some c =>
    match partOf c rel with
    | none => s
    | some p =>
      let l := writesOf c p
      if decide (sourceChunks c rel ≤ p.next) && l.all fun k => p.wrote.contains k || (lostFor c rel k).isSome then
        let code : BitVec 8 := if p.ovf then 0x0B else 0
        let res := match l.find? fun k => (lostFor c rel k).isSome with
          | none => collRes m code p.wrote.length va.toNat
          | some k =>
            match lostFor c rel k with
            | none => collRes m code p.wrote.length va.toNat
            | some e =>
              let at' := (resultOf m c p r { org := k.1, chunk := k.2, slots := [], ovf := false, step := 0, final := true }).1
              { collRes m 5 p.wrote.length at' with
                chunk := e.chunkId, hop := e.hop, va := BitVec.ofNat 64 (at' % 2 ^ 32) }
        closeColl (endCmd s m.id res) id
      else s

/-- A collective command works as far as it can now: it joins, reads and sends, writes, and ends. -/
def collTransfer (m : Cmd) (ws : List Word) (va : DWord) (s : State) : State :=
  let mine := fun (s : State) => s.eng.colls.find? fun c => c.parts.any fun p => p.cmd == m.id
  let s := if (mine s).isSome then s else startColl m ws va s
  match mine s with
  | none => s
  | some c =>
    if !c.began || (findCmd s m.id).any fun m => m.res.isSome then s
    else
      let r := parseColl ws
      let rel := ((c.parts.find? fun p => p.cmd == m.id).map fun p => p.rel).getD 0
      let s := readSource m c.id rel r (chunksPer c.kind c.efmt c.count + 1) s
      match if (findCmd s m.id).any fun m => m.res.isNone then partOf c rel else none with
      | none => s
      | some p => endPart m c.id rel r va (writeResults m c.id rel r (writesOf c p) s)

/-! ## The meanings -/

/-- `coll` (R260). -/
def execColl (x : Args) (s : State) : Host.Outcome State Fault Refusal := run (.coll x) (collBody x) s

/-- What the join watchdog of a gathering collective counts (R261, R399), while every gang that takes part runs: the period, and the tick it
counts from. -/
def joinWatch (s : State) (c : Coll) : Option (Nat × Nat) :=
  let cmds := c.parts.filterMap fun p => findCmd s p.cmd
  let gangs := cmds.map fun m => gangOfGroup s (findGroup s m.gid)
  gangs.getLast?.bind fun g =>
    if !c.began && gangs.all (fun g => g.st == .running || g.retired) then some (watchPeriod (findLaunch s g.launch), c.last)
    else none

/-- Whether the join watchdog of a gathering collective fires now (R261, R399). -/
def joinFires (s : State) (c : Coll) : Bool := (joinWatch s c).any fun w => watchdogFires s w.1 w.2

/-- Not all participants joined within the watchdog period (R261). -/
def execCollJoinTimeout (cid : BitVec 16) (s : State) : Host.Outcome State Fault Refusal :=
  match s.eng.colls.find? fun c => c.cid == cid && !c.began with
  | some c => .next (if joinFires s c then refuseAll s c else s)
  | none => .next s

/-- A participant's notice of a failed source stops the others (R261). -/
def execCollFailureNotice (cid : BitVec 16) (s : State) : Host.Outcome State Fault Refusal :=
  match s.eng.colls.find? fun c => c.cid == cid && c.stopped with
  | some c => .next (refuseAll s c)
  | none => .next s

end Sys2Proof.Machine
end

