-- ==== Sys2Proof/Machine/Convert.lean ====
section
/-! DEFINITION. Conversion: `cvt`, `quant`, `dequant`, `lcvt` (R74, R215 to R218). -/

namespace Sys2Proof.Machine

/-! ## Elements of a lane (R215) -/

/-- The type that fn6[3:0] names (R215 to R217). -/
def srcTy (x : Args) : Ty := Ty.ofCode (x.fn.setWidth 4)

/-- The constant of a source field in a lane. -/
def constantWord (s : State) (x : Args) (f : Src) (l : Nat) : Word :=
  match f with
  | .imm n => n.signExtend 32
  | .lit => x.literal
  | .special v => BitVec.ofNat 32 (specialValue s v l)
  | _ => 0

/-- Element k of type t of a source in one lane (R215). Above the lowest element a constant is a free value
(log 25). -/
def elementOf (s : State) (x : Args) (t : Ty) (f : Src) (k l : Nat) : Nat :=
  if k = 0 then vectorTy s x t f l
  else
    match f with
    | .reg _ | .bcast _ | .latch _ => vec32 s x f l / 2 ^ (t.bits * k) % 2 ^ t.bits
    | f => (Config.constantElement (BitVec.ofNat 4 t.code) (constantWord s x f l) k).toNat % 2 ^ t.bits

/-- A 32-bit lane with its element k of w bits replaced (R215). -/
def putElement (w k old v : Nat) : Nat :=
  old % 2 ^ (w * k) + v % 2 ^ w * 2 ^ (w * k) + old / 2 ^ (w * (k + 1)) * 2 ^ (w * (k + 1))

/-- The conversion of one element in a lane (R215). -/
def convertLane (s : State) (x : Args) (l : Nat) : Nat × Flags :=
  tyRound (laneMode s x l) x.ty (tyValue (srcTy x) (elementOf s x (srcTy x) x.a (fieldNum x.b % 4) l))

/-! ## The quantiser (R74) -/

/-- The largest finite magnitude M of a target of `quant` as an exact value (R74). -/
def quantMax (t : Ty) : Val :=
  match t with
  | .i8 => Val.ofInt 127 0
  | .l6 => .fin false 55109 (-12)
  | t => match fmtOf t with
    | some f => f.value f.maxBits
    | none => Val.ofInt 0 0

/-- The code of M, or of -M. -/
def quantMaxCode (t : Ty) (neg : Bool) : Nat := (tyRound .rtz t (if neg then (quantMax t).negate else quantMax t)).1

/-- Quantises one finite element at a scale, saturating: its code and whether it is inexact (R74). -/
def quantOne (t : Ty) (m : Mode) (e : Int) (x : Val) : Nat × Bool :=
  let y := x.scale (127 - e)
  if Val.lt (quantMax t) y.abs then (quantMaxCode t x.neg, false)
  else
    let (c, f) := tyRound m t y
    (c, f &&& fNX != 0)

/-- A finite value in units of 2^-150, which every value and candidate of the quantiser is a multiple of. -/
def units150 : Val → Int
  | .fin n m e => signedAt n m e (-150)
  | _ => 0

/-- The exact sum of squared errors of a candidate, in units of 2^-300 (R74). -/
def quantError (t : Ty) (e : Int) (xs : List Val) (codes : List (Nat × Bool)) : Nat :=
  ((xs.zip codes).map fun p =>
    let d := units150 p.1 - units150 ((tyValue t p.2.1).scale (e - 127))
    (d * d).toNat).foldl (· + ·) 0

/-- The smallest e with a ≤ M * 2^(e - 127), for a nonzero finite a (R74). -/
def quantExp (t : Ty) (a : Val) : Int :=
  match a, quantMax t with
  | .fin _ m e, .fin _ n f =>
    let g : Int := (Nat.log2 m : Int) + e - ((Nat.log2 n : Int) + f) + 127
    if Val.lt ((quantMax t).scale (g - 127)) a.abs then g + 1 else g
  | _, _ => 127

/-- A candidate with its error and codes. -/
def quantTry (t : Ty) (modes : List Mode) (xs : List Val) (e : Int) : Int × Nat × List (Nat × Bool) :=
  let codes := (modes.zip xs).map fun p => quantOne t p.1 e p.2
  (e, quantError t e xs codes, codes)

/-- The scale byte, the codes and which are inexact, for a block of finite values (R74). -/
def quantFinite (t : Ty) (modes : List Mode) (xs : List Val) : Nat × List (Nat × Bool) :=
  let a := xs.foldl (fun a x => if Val.lt a x.abs then x.abs else a) (Val.ofInt 0 0)
  if a.isZero then (127, xs.map fun _ => ((tyRound .rne t (Val.ofInt 0 0)).1, false))
  else
    let e0 := quantExp t a
    let cand := fun (i : Int) => quantTry t modes xs (max 0 (min 254 (e0 + i)))
    let better := fun (c d : Int × Nat × List (Nat × Bool)) => if d.2.1 ≤ c.2.1 then d else c
    let best := better (better (cand (-1)) (cand 0)) (cand 1)
    (best.1.toNat, best.2.2)

/-- Whether a value is a NaN or an infinity. -/
def Val.special (x : Val) : Bool := x.isNan || x.isInf

/-- The block in the execution mask's lanes: for each lane its code and flags, and the scale byte (R74,
R216). NV is set by the lanes that hold a NaN or an infinity (log 26). -/
def quantBlock (s : State) (x : Args) : Nat × List (Nat × Flags) :=
  let xs := (List.range 32).map fun l =>
    if s.exec.getLsbD l then tyValue (srcTy x) (vectorTy s x (srcTy x) x.a l) else Val.ofInt 0 0
  if xs.any Val.special then (255, xs.map fun v => (0, flagIf v.special fNV))
  else
    let (e, codes) := quantFinite x.ty ((List.range 32).map fun l => laneMode s x l) xs
    (e, codes.map fun c => (c.1, flagIf c.2 fNX))

/-! ## The meanings -/

/-- `cvt`: one element per lane converted to TYPE (R215). -/
def execCvt (x : Args) (s : State) : Host.Outcome State Fault Refusal :=
  run (.cvt x) (fun s => laneResult x x.ty (convertLane s x) s) s

/-- `cvt` with insertion: the converted element replaces one element of d (R215). -/
def execCvtIns (x : Args) (s : State) : Host.Outcome State Fault Refusal :=
  run (.cvtIns x) (fun s =>
    let w := x.ty.bits
    if 32 ≤ w then laneResult x x.ty (convertLane s x) s
    else
      withFlags s (fun l => (convertLane s x l).2) (writeVec s x 32 fun l =>
        putElement w (fieldNum x.b / 4 % 4) (getV s x.d.toNat l).toNat (convertLane s x l).1)) s

/-- `quant`: a block's codes with the scale that gives the least error (R74, R216), under a format word that R69
lists. -/
def execQuant (x : Args) (s : State) : Host.Outcome State Fault Refusal :=
  run (.quant x) (fun s =>
    if (mfmt s.sp.fmt).legal.isNone then raiseEncoding (.quant x) s
    else
      let r := quantBlock s x
      withFlags s (fun l => (r.2.getD l (0, 0)).2)
        (writeVec s x 32 fun l => (r.2.getD l (0, 0)).1 + 256 * r.1)) s

/-- `dequant`: the value of a code and its scale, rounded to TYPE (R217). DESIGN CHOICE (log 172): R217 gives a9 no role; a constant a9 is
read as a 32-bit word whose raw bits are the code and the scale. -/
def execDequant (x : Args) (s : State) : Host.Outcome State Fault Refusal :=
  run (.dequant x) (fun s => laneResult x x.ty (fun l =>
    let v := vec32 s x x.a l
    let scale := v / 256 % 256
    let code := tyValue (srcTy x) (v % 256)
    if scale = 255 ∨ (srcTy x = .e4m3 ∧ code.isNan) then tyRound .rne x.ty (.nan false)
    else tyRound (laneMode s x l) x.ty (code.scale (scale - 127))) s) s

/-- `lcvt.to`: the L6 code of a (R64, R218). -/
def execLcvtTo (x : Args) (s : State) : Host.Outcome State Fault Refusal :=
  run (.lcvtTo x) (fun s => laneResult x .l6 (fun l =>
    tyRound (laneMode s x l) .l6 (laneVal s x x.a l)) s) s

/-- `lcvt.from`: the value of an L6 code, rounded to TYPE (R62, R218). -/
def execLcvtFrom (x : Args) (s : State) : Host.Outcome State Fault Refusal :=
  run (.lcvtFrom x) (fun s => laneResult x x.ty (fun l =>
    tyRound (laneMode s x l) x.ty (l6Value (vectorTy s x .l6 x.a l))) s) s

/-- `lcvt.prod`: the product of two L6 codes, rounded to TYPE (R63, R218). -/
def execLcvtProd (x : Args) (s : State) : Host.Outcome State Fault Refusal :=
  run (.lcvtProd x) (fun s => laneResult x x.ty (fun l =>
    tyRound (laneMode s x l) x.ty (l6Product (vectorTy s x .l6 x.a l) (vectorTy s x .l6 x.b l))) s) s

end Sys2Proof.Machine
end

