-- ==== Sys2Proof/Machine/CrossLane.lean ====
section
/-! DEFINITION. The cross-lane instructions 0x74 to 0x7C, 0x7E and 0x7F (R219 to R224). -/

namespace Sys2Proof.Machine

/-! ## Moves between lanes (R219, R220) -/

/-- The segment size for a modifier k (R219). -/
def segmentOf (k : Nat) : Nat := if 1 ≤ k ∧ 2 ^ k < 32 then 2 ^ k else 32

/-- Whether a lane can be a source: launched and not exited (R220). -/
def sourceLane (s : State) (l : Nat) : Bool := (s.g.launched &&& ~~~s.g.exited).getLsbD l

/-- The lane that `shfl` sources in lane l, none for fill (R220). -/
def shuffleLane (mode seg n l : Nat) : Option Nat :=
  let o := l % seg
  let so : Int :=
    match mode with
    | 0 => (o : Int) - n
    | 1 => (o : Int) + n
    | 2 => (o ^^^ n : Nat)
    | _ => ((o : Int) - n) % seg
  if so < 0 ∨ (seg : Int) ≤ so then none else some (l - o + so.toNat)

/-- The poisoned cells of `a` that a move reads in source lanes (R220, R229). -/
def poisonedSources (s : State) (x : Args) (src : Nat → Option Nat) : List (Nat × DWord) :=
  match x.a with
  | .reg n => s.g.poison.filter fun p =>
      n.toNat ≤ p.1 / 32 && p.1 / 32 < n.toNat + Ty.regs x.ty &&
        (activeLanes s).any fun l => src l == some (p.1 % 32) && sourceLane s (p.1 % 32)
  | _ => []

/-- A move: each lane receives `a` of its source lane, or the fill c (R220). -/
def moveLanes (x : Args) (src : Nat → Option Nat) (s : State) : Res :=
  if !(poisonedSources s x src).isEmpty then .raise (poisonTrap s (poisonedSources s x src)) s
  else
    .done (writeTy s x x.ty fun l =>
      match src l with
      | some k => if sourceLane s k then vecA s x x.a k else vecA s x x.c l
      | none => vecA s x x.c l)

/-- The lowest lane of the execution mask. -/
def firstLane (s : State) : Nat := (activeLanes s).headD 0

/-! ## Combining lanes (R221) -/

/-- One combination of patterns of a type under a mode, with its flags (R221). -/
def combine (op : Nat) (t : Ty) (m : Mode) (a b : Nat) : Nat × Flags :=
  match op with
  | 0 => ((a + b) % 2 ^ t.bits, 0)
  | 1 => (if intOf t a ≤ intOf t b then a else b, 0)
  | 2 => (if intOf t a ≤ intOf t b then b else a, 0)
  | 3 => (a &&& b, 0)
  | 4 => (a ||| b, 0)
  | 5 => (a ^^^ b, 0)
  | 6 => tyRound m t (Val.add m (tyValue t a) (tyValue t b))
  | _ =>
    let (i, o) := fxAdd 128 (fx128Of a) (fx128Of b)
    (wrapInt 128 i, flagIf o fFXO)

/-- The identity of a combination (R221). -/
def identityOf (op : Nat) (t : Ty) : Nat :=
  match op with
  | 1 => wrapInt t.bits (intRange t).2
  | 2 => wrapInt t.bits (intRange t).1
  | 3 => 2 ^ t.bits - 1
  | 6 => 2 ^ (t.bits - 1)
  | _ => 0

/-- The values and flags of every lane before the tree (R221). -/
def treeStart (s : State) (x : Args) (op : Nat) : List (Nat × Flags) :=
  (List.range 32).map fun l => (if s.exec.getLsbD l then vecA s x x.a l else identityOf op x.ty, 0)

/-- Step k of the tree, for every lane at once; a lane keeps the flags of its own sums (R221). -/
def treeStep (s : State) (x : Args) (op k : Nat) (v : List (Nat × Flags)) : List (Nat × Flags) :=
  (List.range 32).map fun l =>
    let p := l ^^^ 2 ^ k
    let a := v.getD l (0, 0)
    let b := v.getD p (0, 0)
    let (r, f) := combine op x.ty (roundMode s x.rnd (min l p) k) a.1 b.1
    (r, a.2 ||| f)

/-- Steps k to k + n - 1 of the tree. -/
def treeSteps (s : State) (x : Args) (op : Nat) : Nat → Nat → List (Nat × Flags) → List (Nat × Flags)
  | 0, _, v => v
  | n + 1, k, v => treeSteps s x op n (k + 1) (treeStep s x op k v)

/-- The flags of all the sums of a lane's segment (R221; log 26). -/
def segmentFlags (seg l : Nat) (v : List (Nat × Flags)) : Flags :=
  (List.range 32).foldl (fun f k => if k / seg = l / seg then f ||| (v.getD k (0, 0)).2 else f) 0

/-- A prefix scan over the lanes of the execution mask: (lane, result, flags) in order (R221). -/
def scanLanes (s : State) (x : Args) (op : Nat) (excl : Bool) : List Nat → Nat → List (Nat × Nat × Flags)
  | [], _ => []
  | l :: t, acc =>
    let (r, f) := combine op x.ty (roundMode s x.rnd l 0) acc (vecA s x x.a l)
    (l, if excl then acc else r, f) :: scanLanes s x op excl t r

/-- The entry of a lane in a scan. -/
def scanAt (v : List (Nat × Nat × Flags)) (l : Nat) : Nat × Flags :=
  match v.find? fun e => e.1 == l with
  | some e => e.2
  | none => (0, 0)

/-! ## Random words (R79, R80, R223) -/

/-- The Philox words of a lane for `rng` (R223). -/
def rngWords (s : State) (x : Args) (l : Nat) : List Word :=
  philox (BitVec.ofNat 64 (vec64 s x x.c l)) (BitVec.ofNat 128 (vec64 s x x.a l + 2 ^ 64 * vec64 s x x.b l))

/-- Writes the first n words of each lane into the registers from d on, and into the latch (R50, R223). -/
def writeWords (s : State) (x : Args) (n : Nat) (words : Nat → List Word) : State :=
  (activeLanes s).foldl (fun t l =>
    setVs (setLatch t 0 l (BitVec.ofNat 128 (ofWords ((words l).take n)))) x.d.toNat l ((words l).take n))
    (latchKind s 0 true)

/-! ## Indexed registers (R224) -/

/-- The register `vrd` or `vwr` reaches in a lane (R224). -/
def indexedReg (s : State) (x : Args) (base : Nat) (f : Src) (l : Nat) : Nat := base + vec32 s x f l

/-- The poisoned cells that `vrd` reads (R224, R229): none at or above the allocation. -/
def poisonedIndexed (s : State) (x : Args) : List (Nat × DWord) :=
  s.g.poison.filter fun p =>
    decide (p.1 < 32 * s.g.nv) && (activeLanes s).any fun l => p.1 == 32 * indexedReg s x (fieldNum x.b) x.a l + l

/-! ## The meanings -/

/-- `perm`: lane l sources lane b[l] mod W (R220). -/
def execPerm (x : Args) (s : State) : Host.Outcome State Fault Refusal :=
  run (.perm x) (fun s => moveLanes x (fun l => some (vec32 s x x.b l % 32)) s) s

/-- `shfl`: lane l sources a lane of its segment by the mode (R220). -/
def execShfl (x : Args) (s : State) : Host.Outcome State Fault Refusal :=
  run (.shfl x) (fun s => moveLanes x (fun l =>
    shuffleLane (x.fn.toNat % 4) (segmentOf (x.fn.toNat / 4)) (vec32 s x x.b l) l) s) s

/-- `bcast`: every lane sources lane b mod W (R220). -/
def execBcast (x : Args) (s : State) : Host.Outcome State Fault Refusal :=
  run (.bcast x) (fun s =>
    let n := (scalar32 s x x.b).toNat % 32
    moveLanes x (fun _ => some n) (afterScalar s x.b)) s

/-- `bcast.first`: every lane sources the lowest lane of the execution mask (R220). -/
def execBcastFirst (x : Args) (s : State) : Host.Outcome State Fault Refusal :=
  run (.bcastFirst x) (fun s => moveLanes x (fun _ => some (firstLane s)) s) s

/-- `redx`: the butterfly reduction of each segment (R221). -/
def execRedx (x : Args) (s : State) : Host.Outcome State Fault Refusal :=
  run (.redx x) (fun s =>
    let op := x.fn.toNat % 8
    let seg := segmentOf (x.fn.toNat / 8)
    let v := treeSteps s x op (Nat.log2 seg) 0 (treeStart s x op)
    withFlags s (fun l => segmentFlags seg l v) (writeTy s x x.ty fun l => (v.getD l (0, 0)).1)) s

/-- `scanx`: the prefix scan over the execution mask (R221). -/
def execScanx (x : Args) (s : State) : Host.Outcome State Fault Refusal :=
  run (.scanx x) (fun s =>
    let op := x.fn.toNat % 8
    let v := scanLanes s x op (x.fn.getLsbD 3) (activeLanes s) (identityOf op x.ty)
    withFlags s (fun l => (scanAt v l).2) (writeTy s x x.ty fun l => (scanAt v l).1)) s

/-- `ballot`: the mask of the lanes whose a is nonzero (R222). -/
def execBallot (x : Args) (s : State) : Host.Outcome State Fault Refusal :=
  run (.ballot x) (fun s =>
    .done (resultS s x.d.toNat (maskOf fun l => s.exec.getLsbD l && vecA s x x.a l != 0))) s

/-- `vote.all`: 1 if every lane's a is nonzero (R222). -/
def execVoteAll (x : Args) (s : State) : Host.Outcome State Fault Refusal :=
  run (.voteAll x) (fun s =>
    .done (resultS s x.d.toNat (if (activeLanes s).all fun l => vecA s x x.a l != 0 then 1 else 0))) s

/-- `vote.any`: 1 if some lane's a is nonzero (R222). -/
def execVoteAny (x : Args) (s : State) : Host.Outcome State Fault Refusal :=
  run (.voteAny x) (fun s =>
    .done (resultS s x.d.toNat (if (activeLanes s).any fun l => vecA s x x.a l != 0 then 1 else 0))) s

/-- `vote.uni`: 1 if all lanes hold equal a (R222). -/
def execVoteUni (x : Args) (s : State) : Host.Outcome State Fault Refusal :=
  run (.voteUni x) (fun s =>
    .done (resultS s x.d.toNat
      (if (activeLanes s).all fun l => vecA s x x.a l == vecA s x x.a (firstLane s) then 1 else 0))) s

/-- `rng`: words of Philox for element a, draw b and stream c (R223). -/
def execRng (x : Args) (s : State) : Host.Outcome State Fault Refusal :=
  run (.rng x) (fun s => .done (writeWords s x (x.fn.toNat + 1) (rngWords s x))) s

/-- `rngf`: the FP32 value of a word (R80). -/
def execRngf (x : Args) (s : State) : Host.Outcome State Fault Refusal :=
  run (.rngf x) (fun s => .done (writeTy s x .f32 fun l =>
    (tyRound .rne .f32 (.fin false (vec32 s x x.a l / 2 ^ 8) (-24))).1)) s

/-- `vrd`: the register base + a[l] in each lane, 0 at or above the allocation (R224). -/
def execVrd (x : Args) (s : State) : Host.Outcome State Fault Refusal :=
  run (.vrd x) (fun s =>
    if !(poisonedIndexed s x).isEmpty then .raise (poisonTrap s (poisonedIndexed s x)) s
    else
      .done (writeVec s x 32 fun l =>
        let r := indexedReg s x (fieldNum x.b) x.a l
        if s.g.nv ≤ r then 0 else (getV s r l).toNat)) s

/-- `vwr`: writes the register base + b[l] in each lane, and nothing at or above the allocation (R224); like every vector result outside a
chain, a[l] goes to L0 too (R50). -/
def execVwr (x : Args) (s : State) : Host.Outcome State Fault Refusal :=
  run (.vwr x) (fun s =>
    .done ((activeLanes s).foldl (fun t l =>
      let r := indexedReg s x x.d.toNat x.b l
      let t := setLatch t 0 l (BitVec.ofNat 128 (vecA s x x.a l))
      if s.g.nv ≤ r then t else setV t r l (BitVec.ofNat 32 (vecA s x x.a l))) (latchKind s 0 true))) s

end Sys2Proof.Machine
end

