-- ==== Sys2Proof/Machine/Memory.lean ====
section
/-! DEFINITION. The memory instructions 0x80 to 0x96 (R225 to R246): loads and stores, tensor-walk accesses,
atomics, reductions, multicast, fences, handles, FIFO banks. -/

namespace Sys2Proof.Machine

/-! ## Addresses and values (R226, R231) -/

/-- Bytes of an element of TYPE. -/
def elemBytes (x : Args) : Nat := x.ty.bits / 8

/-- A 32-bit offset, sign-extended. -/
def signed32 (v : Nat) : Int := (BitVec.ofNat 32 v).toInt

/-- The address of a lane of a vector instruction (R226). -/
def laneAddr (s : State) (x : Args) (l : Nat) : Nat :=
  let scale : Int := if x.fn.getLsbD 5 then elemBytes x else 1
  wrapInt 64 ((pairOf s x.a).toNat + signed32 (vec32 s x x.b l) * scale)

/-- The address of a scalar instruction, and the base of a contiguous block (R226). -/
def scalarAddr (s : State) (x : Args) : Nat := wrapInt 64 ((pairOf s x.a).toNat + (scalar32 s x x.b).toInt)

/-- The address of a lane of a contiguous block (R231). -/
def blockAddr (s : State) (x : Args) (l : Nat) : Nat := (scalarAddr s x + l * elemBytes x) % 2 ^ 64

/-- Whether an access of the classes 0x80 to 0x87 may take lines into L1: every hint but 1 (R150). -/
def keepHint (x : Args) : Bool := x.hint != 1

/-- Elements of a vector access: the lanes of the execution mask. -/
def laneElems (s : State) (addr : Nat → Nat) : List Elem := (activeLanes s).map fun l => { lane := l, va := addr l }

/-- What a load has read for a lane. -/
def loadedAt (l : List (Elem × List Byte × Bool)) (lane : Nat) : Nat :=
  match l.find? fun e => e.1.lane == lane with
  | some e => ofBytes e.2.1
  | none => 0

/-- Marks the register lanes of the elements that came poisoned (R229). -/
def markLoaded (s : State) (x : Args) (l : List (Elem × List Byte × Bool)) : State :=
  (l.filter fun e => e.2.2).foldl (fun s e =>
    (List.range (Ty.regs x.ty)).foldl (fun s i => markPoison s (32 * (x.d.toNat + i) + e.1.lane) e.1.va) s) s

/-- Writes what a vector load has read into its lanes (R197, R229, R231). -/
def writeLoaded (s : State) (x : Args) (l : List (Elem × List Byte × Bool)) : State :=
  markLoaded (writeTy s x x.ty (loadedAt l)) x l

/-- Writes a value of TYPE into the scalar destination (R231). -/
def writeScalarTy (s : State) (x : Args) (v : Nat) : State :=
  if x.ty.bits = 64 then resultPair s x.d.toNat (BitVec.ofNat 64 v)
  else resultS s x.d.toNat (BitVec.ofNat 32 (laneValue x.ty v))

/-- Whether a vector source, or a scalar one that stands for every lane, is poisoned in a lane (R229). -/
def lanePoison (s : State) (x : Args) (f : Src) (l : Nat) : Bool :=
  match f with
  | .reg n => s.g.poison.any fun p => n.toNat ≤ p.1 / 32 && p.1 / 32 < n.toNat + Ty.regs x.ty && p.1 % 32 == l
  | .bcast n => s.g.poison.any fun p => 8192 + n.toNat ≤ p.1 && p.1 < 8192 + n.toNat + Ty.regs x.ty
  | _ => false

/-- Whether a scalar source is poisoned (R229). -/
def scalarPoison (s : State) (x : Args) (f : Src) : Bool :=
  match f with
  | .reg n | .bcast n => s.g.poison.any fun p => 8192 + n.toNat ≤ p.1 && p.1 < 8192 + n.toNat + Ty.regs x.ty
  | _ => false

/-- The store of one lane's element. -/
def lanePut (s : State) (x : Args) (f : Src) (l va : Nat) : Put :=
  { lane := l, va := va, bytes := toBytes (elemBytes x) (vecA s x f l), poison := lanePoison s x f l, keep := keepHint x }

/-! ## Loads and stores (R231 to R235) -/

/-- The access of a scalar load. -/
def scalarAccess (s : State) (x : Args) (write : Bool) : Access :=
  { elems := [{ lane := 0, va := scalarAddr s x }], size := elemBytes x, write := write, scalar := true }

/-- The ports by which an access of the group in focus leaves for the peers that its elements name (R333). -/
def portsOf (s : State) (elems : List (Nat × Nat)) : List (Nat × Nat) :=
  (elems.filter fun e => placement e.2 == 5).foldl (fun l e => addOnce (peerOf e.2, myPort s e.2) l) []

/-- A load issues now and is performed later (R114), or a store into scratchpad does (R118): where it is, its elements, what it stores, the
ports that have translated it. -/
def deferMem (s : State) (x : Args) (lcl scalar : Bool) (elems : List (Nat × Nat)) (data : List (List Byte × Bool)) : State :=
  { (newId s).1 with g := { s.g with late := s.g.late ++
    [{ id := s.sched.nextId, lcl := lcl, scalar := scalar, dest := x.d.toNat, ty := x.ty, super := s.sp.super
       keep := keepHint x, elems := elems, data := data, ports := if lcl then [] else portsOf s elems }] } }

/-- A load issues now and is performed later (R114). -/
def deferLoad (s : State) (x : Args) (lcl scalar : Bool) (elems : List (Nat × Nat)) : State := deferMem s x lcl scalar elems []

/-- A scalar load has read a value, poisoned or not, at an address: its register and the marks of it (R229, R231). -/
def takeScalar (s : State) (x : Args) (v : Nat) (sick : Bool) (va : Nat) : State :=
  let t := writeScalarTy s x v
  if sick then (List.range (Ty.regs x.ty)).foldl (fun t i => markPoison t (8192 + x.d.toNat + i) va) t else t

/-- A scalar load (R231); one that is evict-first leaves L1 as it is (R150). -/
def loadScalar (s : State) (x : Args) : Res :=
  whenReady s (scalarAccess s x false) fun s =>
    let va := scalarAddr s x
    if s.sp.defer then .done (deferLoad s x false true [(0, va)])
    else
      let r := readElem s va (elemBytes x) (keepHint x)
      .done (takeScalar r.1 x (ofBytes r.2.1) r.2.2 va)

/-- A scalar store (R231), evict-first or not (R150). -/
def storeScalar (s : State) (x : Args) (keep : Bool) : Res :=
  storeElems s
    [{ lane := 0, va := scalarAddr s x, bytes := toBytes (elemBytes x) (scalarTy s x x.c)
       poison := scalarPoison s x x.c, keep := keep }] (elemBytes x) true fun s => .done s

/-- A vector load from an address for each lane (R231, R232). -/
def loadLanes (s : State) (x : Args) (addr : Nat → Nat) : Res :=
  let a : Access := { elems := laneElems s addr, size := elemBytes x, write := false, scalar := false }
  whenReady s a fun s =>
    if s.sp.defer && !x.sup then .done (deferLoad s x false false (a.elems.map fun e => (e.lane, e.va)))
    else
      let r := readAll s a.elems a.size (keepHint x)
      .done (writeLoaded r.1 x r.2)

/-- A vector store to an address for each lane (R231, R232). -/
def storeLanes (s : State) (x : Args) (addr : Nat → Nat) : Res :=
  storeElems s ((activeLanes s).map fun l => lanePut s x x.c l (addr l)) (elemBytes x) false fun s => .done s

/-- `pfch` (R235): the line comes under a lease, or into L2 alone; what it may not read it leaves. -/
def prefetch (s : State) (x : Args) : State :=
  let va := scalarAddr s x
  match seeAddr s s.agent va false with
  | .page p =>
    if x.hint == 1 || !cacheable p || !(holdersOf s.mem (pteAsid p) (lineOf va)).isEmpty ||
        poisonedAt s.mem (physOf p (vaOfLine (lineOf va))) 128 then s
    else (coreRead (fillPac s s.agent va) s.tm.core p va 1 true).1
  | _ => s

/-- A local load (R234). -/
def loadLocal (s : State) (x : Args) : Res :=
  let l := lclElems s x
  let n := elemBytes x
  lclChecked s l n false fun s =>
    if s.sp.defer && !x.sup then .done (deferLoad s x true false l)
    else
      .done (writeLoaded s x (l.map fun e =>
        ({ lane := e.1, va := e.2 }, lclRead s s.tm.id e.2 n, lclPoisoned s s.tm.id e.2 n)))

/-! ## Loads that are performed later (R114, R118) -/

/-- Writes what a load has read for an element: a scalar register or pair, or a lane of a vector register, and L0 (R50). -/
def writeLate (s : State) (y : Late) (lane : Nat) (v : Nat) : State :=
  if y.scalar then
    if y.ty.bits = 64 then setPair (latchLate s s.g.id (BitVec.ofNat 128 v)) y.dest (BitVec.ofNat 64 v)
    else setS (latchLate s s.g.id (BitVec.ofNat 128 (laneValue y.ty v))) y.dest (BitVec.ofNat 32 (laneValue y.ty v))
  else setVs (latchLane s s.g.id lane (BitVec.ofNat 128 (laneValue y.ty v))) y.dest lane (toWords (Ty.regs y.ty) (laneValue y.ty v))

/-- The port that has translated an element of a load, whatever PORTS says since (R333, R335); 16 is the control port. -/
def Late.port (y : Late) (va : Nat) : Nat :=
  if placement va = 5 then ((y.ports.find? fun e => e.1 == peerOf va).map Prod.snd).getD 0 else 16

/-- One element of a load that is performed now: it is read, and its register marked if it came poisoned (R229). -/
def performElem (y : Late) (s : State) (e : Nat × Nat) : State :=
  let n := y.ty.bits / 8
  let r := if y.lcl then (s, lclRead s s.tm.id e.2 n, lclPoisoned s s.tm.id e.2 n)
    else if isFar e.2 then (s, farBytes s (y.port e.2) s.asid e.2 n, false)
    else readElem s e.2 n y.keep
  let t := writeLate r.1 y e.1 (ofBytes r.2.1)
  if r.2.2 then
    (List.range (Ty.regs y.ty)).foldl (fun t i =>
      markPoison t (if y.scalar then 8192 + y.dest + i else 32 * (y.dest + i) + e.1) e.2) t
  else t

/-- An element of such a load gets an answer: bridges in service join its core to its home, or to its port, and no clamp cuts it off (R331,
R350). -/
def lateReaches (s : State) (y : Late) (va : Nat) : Bool :=
  y.lcl || (if isFar va then portReached s s.tm.core (y.port va) va else !homeCut s s.tm.core va)

/-- A load of a group that was to be performed later has elements left, or none: then it is over. -/
def leaveLate (s : State) (id : Nat) (elems : List (Nat × Nat)) : State :=
  let keep := updateWhere (fun z => z.id == id) (fun z => { z with elems := elems }) s.g.late
  { s with g := { s.g with late := if elems.isEmpty then keep.filter fun z => z.id != id else keep } }

/-- The element in a place of a load of the group in focus that was to be performed later is performed now, with those of the other lanes that
name its address (R232), or a store into scratchpad, whole (R114, R118). -/
def performLate (s : State) (id k : Nat) : State :=
  match s.g.late.find? fun y => y.id == id with
  | none => s
  | some y =>
    if y.data.isEmpty then
      match y.elems[k % max 1 y.elems.length]? with
      | some e =>
        if lateReaches s y e.2 then
          leaveLate ((y.elems.filter fun o => o.2 == e.2).foldl (performElem y) s) id (y.elems.filter fun o => o.2 != e.2)
        else s
      | none => leaveLate s id []
    else leaveLate ((y.elems.zip y.data).foldl (fun t e => lclWrite t t.tm.id e.1.2 e.2.1 e.2.2) s) id []

/-- The elements of a group's loads from global memory that are performed later and meet a test are performed now; the focus is on the
group. -/
def performHits (hit : Nat → Nat → Bool) (s : State) : State :=
  (s.g.late.filter fun y => !y.lcl).foldl (fun s y =>
    let mine := fun (e : Nat × Nat) => hit (y.port e.2) e.2
    leaveLate ((y.elems.filter mine).foldl (performElem y) s) y.id (y.elems.filter fun e => !mine e)) s

/-- The loads of every context's groups that have issued, are performed later and meet a test (of the port, the context and the
address) are performed now: before a translation that they used goes or an access table comes to deny them, so that none reaches its
target after that (R335, R385, R386; log 180). -/
def performBefore (s : State) (hit : Nat → BitVec 16 → Nat → Bool) : State :=
  let here : Who := { gid := s.g.id, sp := s.sp.num }
  let busy := (allGroups s).filter fun g => g.late.any fun y => !y.lcl
  if busy.isEmpty then s
  else focus (busy.foldl (fun s g => performHits (fun port va => hit port (launchOfGroup s g).rcd.asid va) (focusGroup s g.id)) s) here

/-- A local store (R234): of lanes that name one byte, the highest-numbered one writes last. It may be performed later (R118). -/
def storeLocal (s : State) (x : Args) : Res :=
  let l := lclElems s x
  let n := elemBytes x
  lclChecked s l n true fun s =>
    let data := l.map fun e => (toBytes n (vecA s x x.c e.1), lanePoison s x x.c e.1)
    if s.sp.defer && !l.isEmpty then .done (deferMem s x true false l data)
    else .done ((l.zip data).foldl (fun t e => lclWrite t t.tm.id e.1.2 e.2.1 e.2.2) s)

/-! ## Tensor-walk accesses (R236) -/

/-- The coordinates of a lane: signed words of the block's registers (R236). -/
def laneCoords (s : State) (x : Args) (rank l : Nat) : List Int :=
  (List.range rank).map fun d => (getV s (fieldNum x.b + d) l).toInt

/-- The poisoned coordinates that active lanes read (R229). -/
def poisonedCoords (s : State) (x : Args) (rank : Nat) : List (Nat × DWord) :=
  s.g.poison.filter fun p =>
    fieldNum x.b ≤ p.1 / 32 && p.1 / 32 < fieldNum x.b + rank && p.1 < 8192 && s.exec.getLsbD (p.1 % 32)

/-- The checks of a tensor-walk access in their order (R236), then `k` with the record. -/
def walkChecked (i : Shape) (s : State) (x : Args) (store : Bool) (k : TRec → Res) : Res :=
  if s.exec = 0 then .done s
  else
    withHandle s x.a fun h =>
      if fmtBits h.efmt.toNat ≠ x.ty.bits then raiseHandle s x.a
      else if s.g.nv < fieldNum x.b + h.rank then raiseEncoding i s
      else if store && !h.dense then raiseHandle s x.a
      else if !(poisonedCoords s x h.rank).isEmpty then .raise (poisonTrap s (poisonedCoords s x h.rank)) s
      else k h

/-- A load by coordinates of which some elements are performed later (R114): the other lanes are written now. -/
def walkLater (s : State) (x : Args) (late : List (Nat × Nat)) (val : Nat → Nat) : State :=
  writeTy (deferLoad s x false false late) x x.ty fun l =>
    if late.any fun e => e.1 == l then getVs s x.d.toNat (Ty.regs x.ty) l else val l

/-- Loads of a dense tensor: FILL, or the element at the resolved coordinates (R104, R236). -/
def walkDense (s : State) (x : Args) (h : TRec) : Res :=
  let at_ := fun (l : Nat) => (resolve h (laneCoords s x h.rank l)).map (denseVa h)
  let a : Access :=
    { elems := (activeLanes s).filterMap fun l => (at_ l).map fun va => { lane := l, va := va }
      size := elemBytes x, write := false, scalar := false }
  whenReady s a fun s =>
    if s.sp.defer && !x.sup then .done (walkLater s x (a.elems.map fun e => (e.lane, e.va)) fun _ => fillValue h)
    else
      let r := readAll s a.elems a.size (keepHint x)
      .done (markLoaded (writeTy r.1 x x.ty fun l =>
        if (at_ l).isSome then loadedAt r.2 l else fillValue h) x r.2)

/-- What the walk of a lane of a tensor that is not dense has come to: the state, the lane's value, what was loaded for it, and the element
that is performed later, if it is (R114). -/
structure LaneWalk where
  s : State
  val : Nat
  loads : List (Elem × List Byte × Bool)
  late : List (Nat × Nat)

/-- The element of a lane of a tensor that is not dense (R236, R289). Where it is performed later its level arrays are read now (log 35). -/
def walkLane (x : Args) (h : TRec) (s : State) (cs : List Int) (l : Nat) : Except Res LaneWalk :=
  match resolve h cs with
  | none => .ok { s := s, val := fillValue h, loads := [], late := [] }
  | some c =>
    match walkTo (laneLoad (keepHint x) l) h c s with
    | .error r => .error r
    | .ok (s, none) => .ok { s := s, val := 0, loads := [], late := [] }
    | .ok (s, some p) =>
      let a : Access := { elems := [{ lane := l, va := storedVa h p }], size := h.size, write := false, scalar := false }
      if s.sp.defer && !x.sup then
        match whenReady s a fun t => .done t with
        | .done s => .ok { s := s, val := 0, loads := [], late := [(l, storedVa h p)] }
        | r => .error r
      else
        match tryLoad s a (keepHint x) with
        | .error r => .error r
        | .ok (s, v) => .ok { s := s, val := loadedAt v l, loads := v, late := [] }

/-- What the walks of some lanes of a tensor that is not dense have come to: the state, the lanes' values, what was loaded, what is loaded
later, the causes raised, and why a lane waits. -/
structure Walks where
  s : State
  vals : List (Nat × Nat)
  loads : List (Elem × List Byte × Bool)
  late : List (Nat × Nat)
  traps : List Trap
  wait : Option Wait

/-- One more lane walks. -/
def walkMore (x : Args) (h : TRec) (rank : Nat) (a : Walks) (l : Nat) : Walks :=
  match walkLane x h a.s (laneCoords a.s x rank l) l with
  | .ok w => { a with s := w.s, vals := a.vals ++ [(l, w.val)], loads := a.loads ++ w.loads, late := a.late ++ w.late }
  | .error (.raise t s) => { a with s := s, traps := a.traps ++ [t] }
  | .error (.wait w s) => { a with s := s, wait := some w }
  | .error _ => a

/-- The first cause that lanes raise in the order of R228, its lanes, its lowest address. -/
def mergeTraps (l : List Trap) : Option Trap :=
  firstSome (fun c =>
    let mine := l.filter fun t => t.cause == c
    if mine.isEmpty then none
    else some { cause := c, addr := BitVec.ofNat 64 (lowest (mine.map fun t => t.addr.toNat))
                lanes := mine.foldl (fun m t => m ||| t.lanes) 0 })
    ([0x10, 0x11, 0x12, 0x13, 0x14, 0x18, 0x15, 0x17] ++ l.map fun t => t.cause)

/-- The lanes of a tensor that is not dense (R228, R236): where one cannot be performed none is, and only the questions its lanes have
asked are kept. -/
def walkLanes (x : Args) (h : TRec) (rank : Nat) (lanes : List Nat) (s : State) :
    Except Res Walks :=
  let a := lanes.foldl (walkMore x h rank) { s := s, vals := [], loads := [], late := [], traps := [], wait := none }
  let kept := { s with
    mem := { s.mem with asks := a.s.mem.asks }, fab := { s.fab with asked := a.s.fab.asked, refused := a.s.fab.refused, lost := a.s.fab.lost } }
  match mergeTraps a.traps, a.wait with
  | some t, _ => .error (.raise t kept)
  | none, some w => .error (.wait w kept)
  | none, none => .ok a

/-- `tld` (R236). -/
def loadWalk (i : Shape) (s : State) (x : Args) : Res :=
  walkChecked i s x false fun h =>
    if h.dense then walkDense s x h
    else
      match walkLanes x h h.rank (activeLanes s) s with
      | .error r => r
      | .ok w =>
        let val := fun (l : Nat) => ((w.vals.find? fun e => e.1 == l).map Prod.snd).getD 0
        if w.late.isEmpty then .done (markLoaded (writeTy w.s x x.ty val) x w.loads) else .done (walkLater w.s x w.late val)

/-- `tst` (R236): lanes out of bounds write nothing (R104). -/
def storeWalk (i : Shape) (s : State) (x : Args) : Res :=
  walkChecked i s x true fun h =>
    let ins := (activeLanes s).filter fun l => inBounds h (laneCoords s x h.rank l)
    storeElems s (ins.map fun l =>
      lanePut s x x.c l (denseVa h ((laneCoords s x h.rank l).map Int.toNat))) (elemBytes x) false fun s => .done s

/-! ## Atomics (R124, R129, R239) -/

/-- An atomic's operation as a word of its request. -/
def AtomOp.word (a : AtomOp) : DWord :=
  BitVec.ofNat 64 (a.ty.code + 16 * a.op.toNat + (if a.cas then 128 else 0) + if a.xchg then 256 else 0)
/-- The operation of a request. -/
def AtomOp.ofWord (w : DWord) : AtomOp :=
  { cas := w.getLsbD 7, xchg := w.getLsbD 8, op := w.extractLsb' 4 3, ty := Ty.ofCode (w.setWidth 4) }

/-- The words of an atomic's request: its largest W, its operation, then its lanes. -/
def atomWords (w : Nat) (a : AtomOp) (l : List AtomLane) : List DWord :=
  BitVec.ofNat 64 w :: a.word :: l.flatMap AtomLane.pack

/-- The request of the instruction at the split's PC, if it has sent one. -/
def requestHere (s : State) (op : Nat) : Option Request :=
  s.sp.request.filter fun r => r.op == op && r.pc == s.sp.pc

/-- Performs an atomic's lanes that lie on the device, in ascending order (R239): the state, the largest W. -/
def atomLanes (a : AtomOp) : List AtomLane → State → Nat → State × Nat × List AtomLane
  | [], s, w => (s, w, [])
  | y :: t, s, w =>
    if isFar y.va then
      let r := atomLanes a t s w
      (r.1, r.2.1, y :: r.2.2)
    else
      let o := atomOne s a y.va y.d y.c
      let r := atomLanes a t o.1 (max w o.2.2)
      (r.1, r.2.1, { y with got := some o.2.1 } :: r.2.2)

/-- An atomic issues (R239), which makes a launch that writes beyond the device unrollable (R389): every lane is checked; those of the
device are performed at once, or, if others go to a peer or the host, with the last of their replies, so that a denied one leaves no effect
(R129, R386; log 145); the values come back at their W and with the replies (R124, R129). -/
def atomStart (s : State) (x : Args) (a : AtomOp) (op : Nat) (next : DWord) : Res :=
  let acc : Access :=
    { elems := laneElems s (laneAddr s x), size := elemBytes x, write := true, scalar := false }
  whenReady s acc fun s =>
    let l := (activeLanes s).map fun k =>
      { lane := k, va := laneAddr s x k, d := getVs s x.d.toNat (Ty.regs x.ty) k % 2 ^ x.ty.bits
        c := vecA s x x.c k, port := myPort s (laneAddr s x k), got := none }
    let s := if l.any fun y => isFar y.va then markUnroll (s.launches.length + 1) s s.launch.id else s
    let r := if l.any fun y => isFar y.va then (s, s.gt, l) else atomLanes a l s s.gt
    let q : Request := { pc := s.sp.pc, next := next, op := op, dest := x.d.toNat, words := atomWords r.2.1 a r.2.2 }
    .wait .reply { r.1 with sp := { r.1.sp with request := some q } }

/-- An atomic: sent once, and complete when GT has reached its W and every reply has come (R124, R129). -/
def atomBody (s : State) (x : Args) (a : AtomOp) (op : Nat) (next : DWord) : Res :=
  match requestHere s op with
  | none => if s.exec = 0 then .done s else atomStart s x a op next
  | some q =>
    let l := unpackLanes (q.words.drop 2)
    if decide (s.gt < (q.words.headD 0).toNat) || l.any fun y => y.got.isNone then .wait .reply s
    else
      let t := { s with sp := { s.sp with request := none } }
      .done (writeTy t x x.ty fun k => ((l.find? fun y => y.lane == k).bind fun y => y.got).getD 0)

/-! ## The load that acquires (R116) -/

/-- `ldacq`: the load, then the acquire, before which the earlier loads of the group are performed; what it has read it keeps until then. -/
def loadAcquire (s : State) (x : Args) (next : DWord) : Res :=
  let take := fun (t : State) (ws : List DWord) =>
    .done (takeScalar t x (ws.getD 0 0).toNat (ws.getD 1 0 == 1) (ws.getD 2 0).toNat)
  match requestHere s 0x8F with
  | some q => withAcquire s (x.fn.toNat / 4) fun t => take { t with sp := { t.sp with request := none } } q.words
  | none =>
    whenReady s (scalarAccess s x false) fun s =>
      let va := scalarAddr s x
      let r := readElem s va (elemBytes x) true
      let ws : List DWord := [BitVec.ofNat 64 (ofBytes r.2.1), (BitVec.ofBool r.2.2).setWidth 64, BitVec.ofNat 64 va]
      if r.1.g.late.isEmpty then take (acquire r.1 (x.fn.toNat / 4)) ws
      else
        let q : Request := { pc := s.sp.pc, next := next, op := 0x8F, dest := x.d.toNat, words := ws }
        .wait .fence { r.1 with sp := { r.1.sp with request := some q } }

/-! ## Reductions and multicast (R238 to R241) -/

/-- A reduction of the lanes (R239). -/
def reduceLanes (s : State) (x : Args) : Res :=
  reduceElems s (x.fn.setWidth 3) x.ty ((activeLanes s).map fun l => lanePut s x x.c l (laneAddr s x l)) false
    fun s => .done s

/-- The number of destinations of `mcst` (R240). -/
def mcstCount (x : Args) : Nat := match x.c with | .imm n => n.toNat | _ => 0

/-- The table of destinations as a load (R240). -/
def mcstTable (s : State) (x : Args) : Access :=
  { elems := (List.range (mcstCount x)).map fun k => { lane := 0, va := ((pairOf s x.a).toNat + 8 * k) % 2 ^ 64 }
    size := 8, write := false, scalar := true }

/-- The stores to destination k at a VA: one for each lane of the execution mask, never evict-first (R150). -/
def mcstPuts (s : State) (x : Args) (dest : Nat) : List Put :=
  (activeLanes s).map fun l => { lanePut s x x.b l ((dest + l * elemBytes x) % 2 ^ 64) with keep := true }

/-- Of stores to one address, the last one (R240). -/
def keepLast : List Put → List Put
  | [] => []
  | p :: t => if t.any fun q => q.va == p.va then keepLast t else p :: keepLast t

/-- A multicast reads its table, then goes on in `k` with the destinations (R240). -/
def withTable (s : State) (x : Args) (k : State → List Nat → Res) : Res :=
  if s.exec = 0 then .done s
  else
    match tryLoad s (mcstTable s x) true with
    | .error r => r
    | .ok (s, l) =>
      if l.any fun e => e.2.2 then raisePoison s (mcstTable s x) l
      else k s (l.map fun e => ofBytes e.2.1)

/-- A plain multicast store (R240, R241). -/
def multicast (s : State) (x : Args) : Res :=
  withTable s x fun s dests =>
    storeWith s (dests.flatMap fun d => mcstPuts s x d) (elemBytes x) false none keepLast
      (fun s l => (joinPuts l).foldl putOne s) (fun s => .done s) true

/-- A reducing multicast store: all destinations or none; TLANES names table entries (R241). -/
def multicastReduce (s : State) (x : Args) : Res :=
  let op : BitVec 3 := (x.fn - 1).setWidth 3
  withTable s x fun s dests =>
    let rows := ((List.range dests.length).zip dests).map fun e => (e.1, mcstPuts s x e.2)
    let acc : Access :=
      { elems := rows.flatMap fun r => r.2.map fun p => { lane := r.1, va := p.va }
        size := elemBytes x, write := true, scalar := false, first := true, list := true }
    whenReady s acc fun s => .done ((rows.flatMap Prod.snd).foldl (reduceOne op x.ty) s)

/-! ## Handles (R243, R244) -/

/-- Loads a record of 128 bytes as words; a poisoned one raises 0x15 (log 28). -/
def loadRecord (s : State) (va : Nat) (k : State → List Word → Res) : Res :=
  if va % 128 ≠ 0 then raiseExec s 0x10 (BitVec.ofNat 64 va)
  else
    match tryLoad s (blockAccess va 128) true with
    | .error r => r
    | .ok (s, l) =>
      if l.any fun e => e.2.2 then raisePoison s (blockAccess va 128) l
      else k s ((blockValues l).flatMap wordsOf)

/-- Puts a record that has been read into a handle (R103); `addr` is what TADDR holds if it is refused. -/
def takeRecord (s : State) (x : Args) (addr : DWord) (ws : List Word) : Res :=
  if tensorOk ws then .done (setHandle s x.d.toNat (parseTensor ws)) else raiseExec s 0x17 addr

/-- The record of a handle as stores (R243). -/
def recordPuts (va : Nat) (h : TRec) : List Put :=
  let ws := tensorWords h
  (List.range 16).map fun k =>
    { lane := 0, va := (va + 8 * k) % 2 ^ 64, bytes := toBytes 8 (wordPair ws (2 * k)).toNat, poison := false }

/-- A handle with one field set, none where R244 forbids the value. -/
def setField (h : TRec) (code : Nat) (v : DWord) : Option TRec :=
  let w : Word := v.setWidth 32
  match code with
  | 0 => some { h with base := v }
  | 1 => some { h with fill := w }
  | 12 => some { h with sidecar := v }
  | 13 => some { h with budget := w }
  | n =>
    if n < 7 then
      let d := n - 2
      if decide (d < h.rank) == (w == 0) then none else some { h with dim := updateAt h.dim d fun _ => w }
    else some { h with stride := updateAt h.stride (n - 7) fun _ => v }

/-! ## The meanings -/

/-- `ld`: a scalar load (R231). -/
def execLd (x : Args) (s : State) : Host.Outcome State Fault Refusal :=
  run (.ld x) (fun s => loadScalar s x) s

/-- `st`: a scalar store (R231). -/
def execSt (x : Args) (s : State) : Host.Outcome State Fault Refusal :=
  run (.st x) (fun s => storeScalar s x (keepHint x)) s

/-- `vld`: a gather (R231, R232). -/
def execVld (x : Args) (s : State) : Host.Outcome State Fault Refusal :=
  run (.vld x) (fun s => loadLanes s x (laneAddr s x)) s

/-- `vst`: a scatter (R231, R232). -/
def execVst (x : Args) (s : State) : Host.Outcome State Fault Refusal :=
  run (.vst x) (fun s => storeLanes s x (laneAddr s x)) s

/-- `vldc`: a load of a contiguous block (R231, R233). -/
def execVldc (x : Args) (s : State) : Host.Outcome State Fault Refusal :=
  run (.vldc x) (fun s => loadLanes s x (blockAddr s x)) s

/-- `vstc`: a store of a contiguous block (R231, R233). -/
def execVstc (x : Args) (s : State) : Host.Outcome State Fault Refusal :=
  run (.vstc x) (fun s => storeLanes s x (blockAddr s x)) s

/-- `tld`: a load by coordinates (R236). -/
def execTld (x : Args) (s : State) : Host.Outcome State Fault Refusal :=
  run (.tld x) (fun s => loadWalk (.tld x) s x) s

/-- `tst`: a store by coordinates (R236). -/
def execTst (x : Args) (s : State) : Host.Outcome State Fault Refusal :=
  run (.tst x) (fun s => storeWalk (.tst x) s x) s

/-- `lld`: a scratchpad load (R234). -/
def execLld (x : Args) (s : State) : Host.Outcome State Fault Refusal :=
  run (.lld x) (fun s => loadLocal s x) s

/-- `lst`: a scratchpad store (R234). -/
def execLst (x : Args) (s : State) : Host.Outcome State Fault Refusal :=
  run (.lst x) (fun s => storeLocal s x) s

/-- `atx.cas`: compare and swap at the home (R239). -/
def execAtxCas (x : Args) (s : State) : Host.Outcome State Fault Refusal :=
  run (.atxCas x) (fun s =>
    atomBody s x { cas := true, xchg := false, op := 0, ty := x.ty } 0x8A (nextPc (.atxCas x) s)) s

/-- `atx.xchg`: exchange at the home (R239). -/
def execAtxXchg (x : Args) (s : State) : Host.Outcome State Fault Refusal :=
  run (.atxXchg x) (fun s =>
    atomBody s x { cas := false, xchg := true, op := 0, ty := x.ty } 0x8A (nextPc (.atxXchg x) s)) s

/-- `red`: a reduction into update-only lines (R122, R239). -/
def execRed (x : Args) (s : State) : Host.Outcome State Fault Refusal :=
  run (.red x) (fun s => reduceLanes s x) s

/-- `atf`: fetch and op at the home (R239). -/
def execAtf (x : Args) (s : State) : Host.Outcome State Fault Refusal :=
  run (.atf x) (fun s =>
    atomBody s x { cas := false, xchg := false, op := x.fn.setWidth 3, ty := x.ty } 0x8C (nextPc (.atf x) s)) s

/-- `mcst`: a plain store to a table of destinations (R240). -/
def execMcst (x : Args) (s : State) : Host.Outcome State Fault Refusal :=
  run (.mcst x) (fun s => multicast s x) s

/-- `mcst` with a reduction: all destinations or none (R241). -/
def execMcstReduce (x : Args) (s : State) : Host.Outcome State Fault Refusal :=
  run (.mcstReduce x) (fun s => multicastReduce s x) s

/-- `fence.rel`: a release (R115, R242). -/
def execFenceRel (x : Args) (s : State) : Host.Outcome State Fault Refusal :=
  run (.fenceRel x) (fun s => withRelease s (x.fn.toNat / 4) fun s => .done s) s

/-- `fence.acq`: an acquire (R115, R242). -/
def execFenceAcq (x : Args) (s : State) : Host.Outcome State Fault Refusal :=
  run (.fenceAcq x) (fun s => withAcquire s (x.fn.toNat / 4) fun s => .done s) s

/-- `fence.ar`: a release, then an acquire (R115, R242). -/
def execFenceAr (x : Args) (s : State) : Host.Outcome State Fault Refusal :=
  run (.fenceAr x) (fun s => withRelease s (x.fn.toNat / 4) fun s => .done (acquire s (x.fn.toNat / 4))) s

/-- `ldacq`: a load, then an acquire (R116). -/
def execLdacq (x : Args) (s : State) : Host.Outcome State Fault Refusal :=
  run (.ldacq x) (fun s => loadAcquire s x (nextPc (.ldacq x) s)) s

/-- `strel`: a release, then a store (R116). -/
def execStrel (x : Args) (s : State) : Host.Outcome State Fault Refusal :=
  run (.strel x) (fun s => withRelease s (x.fn.toNat / 4) fun s => storeScalar s x true) s

/-- `pfch`: a prefetch (R235). -/
def execPfch (x : Args) (s : State) : Host.Outcome State Fault Refusal :=
  run (.pfch x) (fun s => .done (prefetch s x)) s

/-- `hld`: loads and checks a tensor record (R103, R243). -/
def execHld (x : Args) (s : State) : Host.Outcome State Fault Refusal :=
  run (.hld x) (fun s =>
    let va := scalarAddr s x
    loadRecord s va fun s ws => takeRecord s x (BitVec.ofNat 64 va) ws) s

/-- `hld.pool`: loads the record of an index of the launch's pool (R243). -/
def execHldPool (x : Args) (s : State) : Host.Outcome State Fault Refusal :=
  run (.hldPool x) (fun s =>
    let i := (scalar32 s x x.b).toNat
    if s.launch.poolSize ≤ i then raiseExec s 0x17 (BitVec.ofNat 64 i)
    else
      loadRecord s ((s.launch.rcd.pool.toNat + 128 * i) % 2 ^ 64) fun s ws =>
        takeRecord s x (BitVec.ofNat 64 i) ws) s

/-- `hst`: stores a handle as its record (R243). -/
def execHst (x : Args) (s : State) : Host.Outcome State Fault Refusal :=
  run (.hst x) (fun s =>
    let va := scalarAddr s x
    withHandle s x.c fun h =>
      if va % 128 ≠ 0 then raiseExec s 0x10 (BitVec.ofNat 64 va)
      else storeElems s (recordPuts va h) 8 true fun s => .done s) s

/-- `hset`: sets one field of a handle (R244). -/
def execHset (x : Args) (s : State) : Host.Outcome State Fault Refusal :=
  run (.hset x) (fun s =>
    let v := if hsetWide x.fn.toNat then pairOf s x.a else (scalar32 s x x.a).setWidth 64
    match handleAt s x.d.toNat with
    | none => raiseExec s 0x17 (x.d.setWidth 64)
    | some h =>
      match setField h x.fn.toNat v with
      | some h => .done (setHandle s x.d.toNat h)
      | none => raiseExec s 0x17 (x.d.setWidth 64)) s

/-- `fpush`: appends an entry to a FIFO bank (R245, R246). -/
def execFpush (x : Args) (s : State) : Host.Outcome State Fault Refusal :=
  run (.fpush x) (fun s => pushFifo s x none) s

/-- `fpush.try`: a push that never waits for room (R246). -/
def execFpushTry (x : Args) (s : State) : Host.Outcome State Fault Refusal :=
  run (.fpushTry x) (fun s => pushFifo s x (some x.d.toNat)) s

/-- `fpop`: removes the oldest entry of a FIFO bank (R245, R246). -/
def execFpop (x : Args) (s : State) : Host.Outcome State Fault Refusal :=
  run (.fpop x) (fun s => popFifo s x none) s

/-- `fpop.try`: a pop that never waits for an entry (R246). -/
def execFpopTry (x : Args) (s : State) : Host.Outcome State Fault Refusal :=
  run (.fpopTry x) (fun s => popFifo s x (some (fieldNum x.c))) s

end Sys2Proof.Machine
end

