-- ==== Sys2Proof/Machine/Product.lean ====
section
/-! DEFINITION. The arithmetic of the matrix array (R63, R65, R75, R76, R272, R273) and its check row (R285,
R286). -/

namespace Sys2Proof.Machine

/-! ## Limits of a class (R272, R274) -/

/-- The largest K of a class (R272). -/
def MClass.maxK : MClass → Nat
  | .half => 64
  | _ => 128

/-- How many of K a pass takes in a cycle (R274). -/
def MClass.rate : MClass → Nat
  | .half => 2
  | .fp8 | .int => 4
  | .log => 8

/-! ## Operands and products (R63, R65, R98) -/

/-- The code at line l, position k of a slot. -/
def slotCode (o : Slot) (fmt l k : Nat) : Nat :=
  let n := fmtBytes fmt
  ofBytes (peekAll o.bytes (128 * l + n * k) n)

/-- The scale byte of line l at position k (R98, R272). -/
def slotScale (o : Slot) (l k : Nat) : Nat := (peek o.bytes (8192 + 4 * l + k / 32)).toNat

/-- The exact product of two elements with their scale bytes, 127 where there is no scale (R63, R65). -/
def product (fa fb : Nat) (x y : Nat × Nat) : Val :=
  if x.2 = 255 ∨ y.2 = 255 then .nan false
  else
    let p := if fa = 5 then l6Product x.1 y.1 else Val.mul (tyValue (fmtTy fa) x.1) (tyValue (fmtTy fb) y.1)
    p.scale ((x.2 : Int) - 127 + ((y.2 : Int) - 127))

/-! ## Accumulation (R75, R76, R100, R273) -/

/-- The format of an F32 or F64 accumulator. -/
def accFmt (acc : Nat) : Fmt := if acc = 2 then fmtF64 else fmtF32

/-- The exact sum of some products (R75). -/
def sumVals : List Val → Val
  | [] => .fin false 0 0
  | x :: t => t.foldl (Val.add .rne) x

/-- A value in units of 2^-32768; none if it is no number (R285). -/
def unitsOf : Val → Option Int
  | .fin n m e => some (signedAt n m e (-32768))
  | _ => none

/-- What accumulating into an element gives: its new bits, flags, the magnitudes it went through (R285), and
whether one of them was no number. -/
structure Accum where
  bits : Nat
  flags : Flags
  mag : Nat
  inf : Bool
  deriving DecidableEq, Repr

/-- Takes a value into the magnitudes an accumulation went through. -/
def Accum.note (a : Accum) (v : Val) : Accum :=
  match unitsOf v with
  | some i => { a with mag := max a.mag i.natAbs }
  | none => { a with inf := true }

/-- Accumulates groups of eight products in F32 or F64 (R75). -/
def accumFloat (f : Fmt) : List (List Val) → Accum → Accum
  | [], a => a
  | g :: t, a =>
    let s := sumVals g
    let r := f.round .rne s
    let c := f.round .rne (Val.add .rne (f.value a.bits) (f.value r.1))
    let v := f.value c.1
    let fl := a.flags ||| r.2 ||| c.2 ||| flagIf (v.isNan || g.any Val.isNan) fNV
    accumFloat f t (({ a with bits := c.1, flags := fl }.note s).note v)

/-- Adds products into an FX128 element, each rounded to the anchor; the sum saturates once (R76). `modes` gives
the rounding of product k. -/
def accumFixed (anchor : Int) (q : Int) (ps : List Val) (modes : Nat → Mode) : Int × Flags :=
  let nan := q == fxNan 128 || ps.any Val.isNan || (ps.contains (.inf true) && ps.contains (.inf false))
  let r := ((List.range ps.length).zip ps).foldl (fun (a : Int × Bool) p =>
    match p.2 with
    | .fin n m e =>
      let (k, nx) := roundAt (modes p.1) n m e anchor
      (if n then a.1 - k else a.1 + k, a.2 || nx)
    | .inf n => (if n then a.1 - 2 ^ 200 else a.1 + 2 ^ 200, a.2)
    | .nan _ => a) (q, false)
  if nan then (fxNan 128, fNV ||| flagIf r.2 fNX)
  else
    let (i, o) := fxSat 128 r.1
    (i, flagIf o fFXO ||| flagIf r.2 fNX)

/-- The integer of an FX128 element. -/
def elemInt (t : Tile) (i j : Nat) : Int := (peek t.elems (64 * i + j)).toInt

/-- The value of an element in the tile's MODE (R100). -/
def elemVal (t : Tile) (i j : Nat) : Val :=
  let b := peek t.elems (64 * i + j)
  if t.mode = 1 then fxValue 128 t.anchor.toInt b.toInt else (accFmt t.mode.toNat).value (b.toNat % 2 ^ (accFmt t.mode.toNat).width)

/-- Writes an element; bits above its mode's width are zero (R100). -/
def setElem (t : Tile) (i j : Nat) (v : Nat) : Tile := { t with elems := poke t.elems (64 * i + j) (BitVec.ofNat 128 v) }

/-- Accumulates products into element (i, j) of a tile (R75, R76, R273). -/
def accumElem (t : Tile) (q : Quarter) (i j : Nat) (ps : List Val) : Tile :=
  let f := mfmt q.fmt
  if f.acc = 1 then
    let r := accumFixed t.anchor.toInt (elemInt t i j) ps fun k => modeOf q.rnd q.rkey (64 * i + j) k
    { setElem t i j (wrapInt 128 r.1) with flags := t.flags ||| r.2, inf := t.inf || ps.any fun p => (unitsOf p).isNone }
  else
    let old := (peek t.elems (64 * i + j)).toNat % 2 ^ (accFmt f.acc).width
    let r := accumFloat (accFmt f.acc) (chunksOf ps.length 8 ps) { bits := old, flags := 0, mag := t.mag, inf := t.inf }
    { setElem t i j r.bits with flags := t.flags ||| r.flags, mag := r.mag, inf := r.inf }

/-! ## Quarters (R272) -/

/-- The rows of a quarter. -/
def Quarter.rows (q : Quarter) : List Nat :=
  (List.range 16).filterMap fun d => if 16 * q.q + d < q.m then some (16 * q.q + d) else none

/-- The A elements of row i with their scale bytes; none if no row is supplied. -/
def Quarter.aRow (s : State) (q : Quarter) (i : Nat) : Option (List (Nat × Nat)) :=
  let f := mfmt q.fmt
  match q.a with
  | .rows r => (r.getD i none)
  | .slot n =>
    let o := slotAt (findTeam s q.tid) n
    some ((List.range q.k).map fun k => (slotCode o f.a i k, if f.abs then slotScale o i k else 127))

/-- The B elements of column j with their scale bytes. -/
def Quarter.bCol (s : State) (q : Quarter) (j : Nat) : List (Nat × Nat) :=
  let f := mfmt q.fmt
  let o := slotAt (findTeam s q.tid) q.b
  (List.range q.k).map fun k => (slotCode o f.b j k, if f.bbs then slotScale o j k else 127)

/-- The products of row i and column j. -/
def Quarter.products (q : Quarter) (a b : List (Nat × Nat)) : List Val :=
  let f := mfmt q.fmt
  (a.zip b).map fun p => product f.a f.b p.1 p.2

/-- Adds exact values to column j of the check row (R285). -/
def addCheck (t : Tile) (j : Nat) (ps : List Val) : Tile :=
  match unitsOf (sumVals ps) with
  | some i => { t with cs := updateAt t.cs j (· + i) }
  | none => { t with inf := true }

/-- Updates element (i, j) with the products of row and column (R272), and the check row. DESIGN CHOICE: for L6, whose products (R63) are not
bilinear, column j of the check row takes the sum of the products of each (i, j); R285 writes it (sum of a_ik) times b_kj (log 162). -/
def quarterElem (q : Quarter) (checks : Bool) (t : Tile) (i j : Nat) (a b : List (Nat × Nat)) : Tile :=
  let ps := q.products a b
  let u := accumElem t q i j ps
  if checks then addCheck u j ps else { u with mag := t.mag, inf := t.inf }

/-- Runs a quarter: each element of its rows and of columns 0 to N - 1 (R272). -/
def runQuarter (s : State) (q : Quarter) (checks : Bool) (t : Tile) : Tile :=
  let cols := (List.range q.n).map fun j => (j, q.bCol s j)
  q.rows.foldl (fun t i =>
    match q.aRow s i with
    | none => t
    | some a => cols.foldl (fun t c => quarterElem q checks t i c.1 a c.2) t) t

/-- The counts G and KT of a pass on a tile (R285). -/
def countPass (acc k : Nat) (t : Tile) : Tile :=
  if acc = 1 then { t with kTotal := t.kTotal + k } else { t with rounds := t.rounds + 2 * ceilDiv k 8 }

/-! ## The check row (R285, R286) -/

/-- The exact sum of a column; none if an element is no number. -/
def columnSum (t : Tile) (j : Nat) : Option Int :=
  (List.range 64).foldl (fun a i => match a, unitsOf (elemVal t i j) with | some x, some y => some (x + y) | _, _ => none)
    (some 0)

/-- The check row after a write of the whole tile: the column sums, and G, P and KT zero (R285). Nothing is kept
while checks are disabled. -/
def resetCheck (checks : Bool) (t : Tile) : Tile :=
  let base := { t with cs := [], rounds := 0, mag := 0, kTotal := 0, inf := false }
  if checks then { base with cs := (List.range 64).map fun j => (columnSum t j).getD 0 } else base

/-- Whether column j lies within the tolerance (R286). -/
def columnOk (t : Tile) (j : Nat) (sum : Int) : Bool :=
  let d := (sum - t.cs.getD j 0).natAbs
  if t.mode = 1 then
    if t.flags &&& fNX = 0 then d == 0 else decide (d ≤ 64 * t.kTotal * 2 ^ (t.anchor.toInt + 32768).toNat)
  else decide (d * 2 ^ (if t.mode = 2 then 53 else 24) ≤ 64 * t.rounds * t.mag)

/-- The status of `mchk`, with the lowest column beyond tolerance (R286). DESIGN CHOICE: a tile with a NaN element whose NV is clear is not
checked, status 3 (log 204). -/
def checkTile (checks : Bool) (t : Tile) : Nat × Nat :=
  if !checks then (2, 0)
  else if t.flags &&& (fNV ||| fOF ||| fFXO) ≠ 0 ∨ t.inf then (3, 0)
  else
    let sums := (List.range 64).map (columnSum t)
    if sums.any Option.isNone then (3, 0)
    else
      match (List.range 64).find? fun j => !columnOk t j ((sums.getD j none).getD 0) with
      | some j => (1, j)
      | none => (0, 0)

end Sys2Proof.Machine
end

