-- ==== Sys2Proof/Machine/Matrix.lean ====
section
/-! DEFINITION. The operand store and the accumulator store: 0xB0 to 0xBA but `mmag` (R264 to R286). -/

namespace Sys2Proof.Machine

/-! ## Tiles and slots of a team (R99, R265, R270, R406) -/

/-- TADDR of a tile (R393). -/
def tileName (n : Nat) : DWord := BitVec.ofNat 64 (32 + n)
/-- TADDR of a slot (R393). -/
def slotName (n : Nat) : DWord := BitVec.ofNat 64 n

/-- Whether a queued or running quarter, or a gang operation, writes a tile. -/
def tileBusy (s : State) (tid n : Nat) : Bool := quartersUse s (fun q => q.tid == tid && q.tile == n) || mmagTile s tid n

/-- The launch checks its products (R285). -/
def checksOn (s : State) : Bool := s.launch.rcd.scr

/-- Moving data at this tick: filling or draining. -/
def moving (st : TState) : Bool := st == .filling || st == .draining

/-- A slot that is read goes on in `k` once it is ready (R99), no command that fills it is outstanding (R101), and no gang
operation of the team has yet to fill it (R270). -/
def withReadySlot (s : State) (n : Nat) (k : Slot → Res) : Res :=
  let o := slotAt s.tm n
  if !o.owned then raiseExec s 0x23 (slotName n)
  else if overlapped s (slotRange s n false) then .wait .overlap s
  else if o.st == .empty then raiseExec s 0x23 (slotName n)
  else if moving o.st || mmagFills s s.tm.id n then .wait .tile s
  else k o

/-- A tile that is read goes on in `k` once it is ready (R99). -/
def withReadyTile (s : State) (n : Nat) (k : Tile → Res) : Res :=
  let t := tileAt s.tm n
  if !t.owned || t.st == .empty then raiseExec s 0x23 (tileName n)
  else if moving t.st then .wait .tile s
  else k t

/-- A tile that is drained or checked goes on in `k` once it is ready and no pass writes it (R99, R270). -/
def withQuietTile (s : State) (n : Nat) (k : Tile → Res) : Res :=
  withReadyTile s n fun t => if tileBusy s s.tm.id n then .wait .tile s else k t

/-- A tile that is written goes on in `k` once it may be (R99, R270). -/
def withFreeTile (s : State) (n : Nat) (k : Tile → Res) : Res :=
  let t := tileAt s.tm n
  if !t.owned then raiseExec s 0x23 (tileName n)
  else if moving t.st || tileBusy s s.tm.id n then .wait .tile s
  else k t

/-- A tile that a product adds to goes on in `k` if its MODE is FMT.ACC (R99) and no gang operation of the team has yet to write
it (R270). -/
def withModeTile (s : State) (n : Nat) (k : Tile → Res) : Res :=
  withReadyTile s n fun t =>
    if t.mode.toNat ≠ (mfmt s.sp.fmt).acc then raiseExec s 0x23 (tileName n)
    else if mmagTile s s.tm.id n then .wait .tile s
    else k t

/-- A tile that is converted or checked goes on in `k` if its MODE is FMT.ACC (R99, log 141), once it is ready and no pass
writes it (R270). -/
def withQuietModeTile (s : State) (n : Nat) (k : Tile → Res) : Res :=
  withReadyTile s n fun t =>
    if t.mode.toNat ≠ (mfmt s.sp.fmt).acc then raiseExec s 0x23 (tileName n)
    else if tileBusy s s.tm.id n then .wait .tile s
    else k t

/-- Raises 0x15 for a poisoned slot (R406). -/
def cleanSlot (s : State) (n : Nat) (o : Slot) (k : Res) : Res :=
  if o.poison then raiseExec s 0x15 (0xFFFFFFFFFFFFFF00 + slotName n) else k

/-- Raises 0x15 for a poisoned tile (R406). -/
def cleanTile (s : State) (n : Nat) (t : Tile) (k : Res) : Res :=
  if t.poison then raiseExec s 0x15 (0xFFFFFFFFFFFFFF00 + tileName n) else k

/-- The save handler of a pre-emption runs on the split in focus. -/
def inSave (s : State) : Bool := s.g.inHandler && s.g.entry == 0x38

/-! ## Claiming and releasing (R268, R269) -/

/-- The slots and tiles that two operand words name: names as TADDR holds them. -/
def namedStores (slots tiles : Word) : List Nat :=
  lanesOf slots ++ (lanesOf (tiles &&& 0xFF)).map (32 + ·)

/-- Whether a named slot or tile is within the team's reservation. -/
def nameReserved (t : Team) (n : Nat) : Bool := if n < 32 then n < t.slots.length else n - 32 < t.tiles.length
/-- Whether a named slot or tile is owned. -/
def nameOwned (t : Team) (n : Nat) : Bool := if n < 32 then (slotAt t n).owned else (tileAt t (n - 32)).owned
/-- Whether a named slot or tile is filling, draining or used by a pass. -/
def nameBusy (s : State) (n : Nat) : Bool :=
  if n < 32 then moving (slotAt s.tm n).st || slotBusy s s.tm.id n
  else moving (tileAt s.tm (n - 32)).st || tileBusy s s.tm.id (n - 32)

/-- Sets a named slot or tile to its state right after a claim, or to nobody's. -/
def setName (owned : Bool) (s : State) (n : Nat) : State :=
  if n < 32 then updSlot s s.tm.id n fun _ => { Slot.none with owned := owned }
  else updTile s s.tm.id (n - 32) fun _ => { Tile.none with owned := owned }

/-- `oclaim` (R268). -/
def claimBody (x : Args) (s : State) : Res :=
  let l := namedStores (scalar32 s x x.a) (scalar32 s x x.b)
  if s.exec = 0 then .done s
  else
    match l.find? fun n => !nameReserved s.tm n || nameOwned s.tm n with
    | some n => raiseExec s 0x23 (BitVec.ofNat 64 n)
    | none => .done (l.foldl (setName true) s)

/-- The slots among some names, as a range of the scoreboard that is written (R101). -/
def namedRange (s : State) (l : List Nat) : List Range :=
  [.slots s.tm.id (maskOf fun k => l.contains k) true]

/-- `orel` (R269): it waits for the engine commands that move a named slot too, until their status words are written (R101). -/
def releaseBody (x : Args) (s : State) : Res :=
  let l := namedStores (scalar32 s x x.a) (scalar32 s x x.b)
  if s.exec = 0 then .done s
  else
    match l.find? fun n => !nameReserved s.tm n || !nameOwned s.tm n with
    | some n => raiseExec s 0x23 (BitVec.ofNat 64 n)
    | none => if l.any (nameBusy s) || overlapped s (namedRange s l) then .wait .hold s else .done (l.foldl (setName false) s)

/-! ## Filling slots (R271) -/

/-- The pitch of R271: 16-byte units in [31:16], 0 for `base` bytes. -/
def shapePitch (shape : Word) (base : Nat) : Nat :=
  let p := (shape.extractLsb' 16 16).toNat
  if p = 0 then base else 16 * p

/-- The slot byte that byte p of row i becomes (R271). -/
def fillPlace (tr b8 : Bool) (i p : Nat) : Nat :=
  if !tr then 128 * i + p
  else if b8 then 128 * (p % 64) + i + 64 * (p / 64)
  else 128 * (p / 2) + 2 * i + p % 2

/-- The bytes of a slot that `ofill` gives it (R271). -/
def fillBytesOf (s : State) (tr b8 : Bool) (addr pitch lines : Nat) (sc : Option Nat) : Sparse 8 :=
  let rows := (List.range lines).foldl (fun m i =>
    let bs := lclRead s s.tm.id (addr + i * pitch) 128
    ((List.range 128).zip bs).foldl (fun m b => poke m (fillPlace tr b8 i b.1) b.2) m) []
  match sc with
  | some a => pokeAll rows 8192 (lclRead s s.tm.id a 256)
  | none => rows

/-- `ofill` (R271). -/
def fillSlotBody (i : Shape) (x : Args) (s : State) : Res :=
  let n := x.d.toNat
  let addr := (scalar32 s x x.a).toNat
  let shape := scalar32 s x x.b
  let lines := (shape.extractLsb' 0 7).toNat
  let pitch := shapePitch shape 128
  let span := (lines - 1) * pitch + 128
  let sc := if x.fn.getLsbD 2 then some (scalar32 s x x.c).toNat else none
  let put := fun (s : State) =>
    withFreeSlot s n <|
      let sick := (List.range lines).any (fun k => lclPoisoned s s.tm.id (addr + k * pitch) 128) ||
        sc.any fun a => lclPoisoned s s.tm.id a 256
      .done (trackMove (updSlot s s.tm.id n fun o => { o with
        st := .filling, poison := sick
        bytes := fillBytesOf s (x.fn.getLsbD 0) (x.fn.getLsbD 1) addr pitch lines sc }) n
        (lclRange s addr span false ++ (sc.map fun a => lclRange s a 256 false).getD []))
  if s.exec = 0 then .done s
  else if lines == 0 || 64 < lines || shape.extractLsb' 7 9 != 0 then raiseEncoding i s
  else
    match sc with
    | none => lclRegion s addr 16 span (lclRange s addr span false) put
    | some a =>
      if addr % 16 = 0 ∧ a % 16 ≠ 0 then raiseExec s 0x10 (BitVec.ofNat 64 a)
      else lclRegion s addr 16 span (lclRange s addr span false) fun s =>
        lclRegion s a 16 256 (lclRange s a 256 false) put

/-! ## Products (R272, R278) -/

/-- The quarters of a product of `m` rows that the execution mask takes part in (R272). -/
def quartersOf (exec : Word) (m : Nat) : List Nat :=
  (List.range 4).filter fun q => exec.extractLsb' (8 * q) 8 != 0 && 16 * q < m

/-- The places taken in a core's matrix queue (R274, R318): its quarters, and four for each gang operation that a team of the core
has joined, whose passes go through the queue one at a time (log 143). -/
def queuedOn (s : State) (core : Nat) : Nat :=
  (s.mx.quarters.filter fun q => q.core == core && q.mmag.isNone).length +
    4 * ((allTeams s).flatMap fun t => if t.core == core && !t.freed then mmagHolds s t.id else []).length

/-- A quarter of the instruction at the split in focus. -/
def newQuarter (s : State) (x : Args) (q : Nat) (a : AOp) (b m n k : Nat) : Quarter :=
  { id := s.sched.nextId, core := s.tm.core, tid := s.tm.id, q := q, tile := x.d.toNat, a := a, b := b, m := m, n := n
    k := k, fmt := s.sp.fmt, rnd := if x.rnd = 7 then s.sp.rnd else x.rnd, rkey := s.g.rkey, since := s.gt
    mmag := none }

/-- Puts a product's quarters into the core's matrix queue, which holds 16 (R274). -/
def enqueueQuarters (s : State) (x : Args) (a : AOp) (b m n k : Nat) : Res :=
  let qs := quartersOf s.exec m
  if 16 < queuedOn s s.tm.core + qs.length then .wait .queue s
  else
    .done { (newId s).1 with mx := { s.mx with
      quarters := s.mx.quarters ++ qs.map fun q => newQuarter s x q a b m n k } }

/-- `mma` (R272). What R69 does not list and an extent outside its limits raise 0x02 whatever the execution mask; an empty mask has no
further effect (R198; log 186). -/
def productBody (i : Shape) (x : Args) (s : State) : Res :=
  let ext := scalar32 s x x.c
  let m := (ext.extractLsb' 0 8).toNat
  let n := (ext.extractLsb' 8 8).toNat
  let k := (ext.extractLsb' 16 8).toNat
  let oa := fieldNum x.a
  let ob := fieldNum x.b
  match (mfmt s.sp.fmt).legal with
  | none => raiseEncoding i s
  | some c =>
    if m == 0 || 64 < m || n == 0 || 64 < n || k == 0 || c.maxK < k || ext.extractLsb' 24 8 != 0 then raiseEncoding i s
    else if s.exec = 0 then .done s
    else
      withReadySlot s oa fun a => withReadySlot s ob fun b => withModeTile s x.d.toNat fun t =>
        cleanSlot s oa a <| cleanSlot s ob b <| cleanTile s x.d.toNat t <|
          enqueueQuarters s x (.slot oa) ob m n k

/-- The VAs of the elements of a gathered row: none for one that reads as FILL (R104, R278). -/
def gatherVas (h : TRec) (k0 id k : Nat) : List (Option Nat) :=
  (List.range k).map fun j => (resolve h [((k0 + j : Nat) : Int), (id : Int)]).map (denseVa h)

/-- The VAs of the scales of a gathered row's elements (R278, R429). -/
def gatherScales (h : TRec) (k0 id k : Nat) : List (Option Nat) :=
  (List.range k).map fun j => (resolve h [((k0 + j : Nat) : Int), (id : Int)]).map fun cs =>
    ((h.lvl.getD 0 0).toNat + cs.getD 1 0 * ceilDiv (h.dimOf 0) 32 + cs.getD 0 0 / 32) % 2 ^ 64

/-- Loads of a list of VAs that the instruction makes, as a scalar access. -/
def gatherAccess (l : List (Option Nat)) (size : Nat) : Access :=
  { elems := (l.filterMap id).map fun va => { lane := 0, va := va }, size := size, write := false, scalar := true }

/-- The values that loads of VAs have given, in order; `fill` for those not loaded. -/
def gathered (l : List (Option Nat)) (vals : List Nat) (fill : Nat) : List Nat :=
  (l.foldl (fun (a : List Nat × List Nat) v =>
    match v with
    | some _ => (a.1 ++ [a.2.headD 0], a.2.drop 1)
    | none => (a.1 ++ [fill], a.2)) ([], vals)).1

/-- Reads the rows of `mmarow` and goes on in `k` with them: for each id its elements and scales (R278). -/
def withRows (s : State) (h : TRec) (scaled : Bool) (k0 : Nat) (ids : List Nat) (kk : Nat)
    (k : State → List (Option (List (Nat × Nat))) → Res) : Res :=
  let real := ids.map fun id => if id = 0xFFFFFFFF then none else some id
  let vas := real.flatMap fun o => match o with | some id => gatherVas h k0 id kk | none => []
  let scs := if scaled then real.flatMap fun o => match o with | some id => gatherScales h k0 id kk | none => [] else []
  let acc := gatherAccess vas h.size
  let sacc := gatherAccess scs 1
  match tryLoad s acc true with
  | .error r => r
  | .ok (s, l) =>
    match tryLoad s sacc true with
    | .error r => r
    | .ok (s, sl) =>
      if l.any fun e => e.2.2 then raisePoison s acc l
      else if sl.any fun e => e.2.2 then raisePoison s sacc sl
      else
        let codes := gathered vas (l.map fun e => ofBytes e.2.1) (fillValue h)
        let scales := if scaled then gathered scs (sl.map fun e => ofBytes e.2.1) 127 else codes.map fun _ => 127
        let rows := chunksOf (codes.length + 1) kk (codes.zip scales)
        k s (real.foldl (fun (a : List (Option (List (Nat × Nat))) × List (List (Nat × Nat))) o =>
          match o with
          | some _ => (a.1 ++ [some (a.2.headD [])], a.2.drop 1)
          | none => (a.1 ++ [none], a.2)) ([], rows)).1

/-- `mmarow` (R278): under an empty execution mask as `mma` (log 186). DESIGN CHOICE: a list address that is not a multiple of 4 raises 0x10
(log 202). -/
def rowProductBody (i : Shape) (x : Args) (s : State) : Res :=
  let lit := x.literal
  let c := (lit.extractLsb' 0 7).toNat
  let n := (lit.extractLsb' 8 7).toNat
  let k := (lit.extractLsb' 16 8).toNat
  let f := mfmt s.sp.fmt
  let ob := fieldNum x.c
  let base := fieldNum x.b
  match f.legal with
  | none => raiseEncoding i s
  | some cl =>
    if lit.getLsbD 7 || lit.getLsbD 15 || lit.extractLsb' 24 8 != 0 || c == 0 || 64 < c || n == 0 || 64 < n ||
        k == 0 || cl.maxK < k then raiseEncoding i s
    else if s.exec = 0 then .done s
    else
      withHandle s x.a fun h =>
        if !h.dense || h.rank != 2 || h.efmt.toNat != f.a || h.bs != f.abs then raiseHandle s x.a
        else
          let la := (getS s base).toNat
          let k0 := (getS s (base + 1)).toNat
          lclRegion s la 4 (4 * c) (lclRange s la (4 * c) false) fun s =>
            withReadySlot s ob fun b => withModeTile s x.d.toNat fun t =>
              cleanSlot s ob b <| cleanTile s x.d.toNat t <|
                let ids := (chunksOf c 4 (lclRead s s.tm.id la (4 * c))).map ofBytes
                match (List.range c).find? fun k => lclPoisoned s s.tm.id (la + 4 * k) 4 with
                | some k => raiseExec s 0x15 (BitVec.ofNat 64 (la + 4 * k))
                | none =>
                  if 16 < queuedOn s s.tm.core + (quartersOf s.exec c).length then .wait .queue s
                  else withRows s h f.abs k0 ids k fun s rows => enqueueQuarters s x (.rows rows) ob c n k

/-! ## Clearing, draining, loading (R279 to R282) -/

/-- A tile filled with one element, in a mode at an anchor (R279). -/
def filledTile (t : Tile) (acc : Nat) (v : Nat) (anchor : BitVec 16) : Tile :=
  { t with
    st := .filling, poison := false, mode := BitVec.ofNat 2 acc, flags := 0, anchor := anchor
    elems := pokeAll [] 0 (List.replicate 4096 (BitVec.ofNat 128 v)) }

/-- `aclr` (R279). DESIGN CHOICE (log 186): it forms no product, so that R69's combinations of operand formats are not looked at; nor are
they by `adrain` and `aload`. -/
def clearBody (x : Args) (s : State) : Res :=
  let n := x.d.toNat
  let f := mfmt s.sp.fmt
  let v := scalar32 s x x.a
  let anc : BitVec 16 := if x.fn.getLsbD 5 then (scalar32 s x x.b).setWidth 16 else f.anchor
  if s.exec = 0 then .done s
  else
    withFreeTile s n fun _ =>
      let elem := if f.acc = 2 then (fmtF64.round .rne (fmtF32.value v.toNat)).1
                  else if f.acc = 1 then wrapInt 128 v.toInt else v.toNat
      .done (updTile s s.tm.id n fun t =>
        resetCheck (checksOn s) (filledTile t f.acc elem (if f.acc = 1 then anc else 0)))

/-- The element of a tile as a code of OFMT, with the flags of its conversion (R61, R64, R67, R280). `anchor` is that
of an FX output. -/
def drainElem (out : Nat) (anchor : Int) (m : Mode) (v : Val) : Nat × Flags :=
  match out with
  | 11 => let r := fxRound m 64 anchor v; (wrapInt 64 r.1, r.2)
  | 12 => let r := fxRound m 128 anchor v; (wrapInt 128 r.1, r.2)
  | _ => tyRound m (fmtTy out) v

/-- The anchor of an FX output (R280). -/
def drainAnchor (f : MFmt) (t : Tile) : Int := if t.mode = 1 then t.anchor.toInt else f.anchor.toInt

/-- The converted elements of a tile's rows and columns (R280): row, column, code, flags. -/
def drainCodes (s : State) (x : Args) (t : Tile) (m n : Nat) : List (Nat × Nat × Nat × Flags) :=
  let f := mfmt s.sp.fmt
  (List.range m).flatMap fun i => (List.range n).map fun j =>
    let r := drainElem f.out (drainAnchor f t) (roundMode s x.rnd (64 * i + j) (2 ^ 32)) (elemVal t i j)
    (i, j, r.1, r.2)

/-- Marks a tile as draining, with flags. -/
def startDrain (s : State) (n : Nat) (fl : Flags) : State :=
  updTile s s.tm.id n fun t => { t with st := .draining, flags := t.flags ||| fl }

/-- `adrain` (R280). DESIGN CHOICE: rows are written in rising order, so that of two that overlap the later one stays (log 195). -/
def drainBody (i : Shape) (x : Args) (s : State) : Res :=
  let n := fieldNum x.b
  let f := mfmt s.sp.fmt
  let addr := (scalar32 s x x.a).toNat
  let shape := scalar32 s x x.c
  let m := (shape.extractLsb' 0 8).toNat
  let w := (shape.extractLsb' 8 8).toNat
  let size := fmtBytes f.out
  let pitch := shapePitch shape (w * size)
  let span := (m - 1) * pitch + w * size
  if s.exec = 0 then .done s
  else if f.out = 9 ∧ profileN s then raiseExec s 0x05 (firstUnit i)
  else if m == 0 || 64 < m || w == 0 || 64 < w then raiseEncoding i s
  else
    lclRegion s addr 16 span (lclRange s addr span true) fun s =>
      withQuietModeTile s n fun t => cleanTile s n t <|
        let codes := drainCodes s x t m w
        let put := fun (s : State) (c : Nat × Nat × Nat × Flags) =>
          lclWrite s s.tm.id (addr + c.1 * pitch + c.2.1 * size) (toBytes size c.2.2.1) false
        .done (trackMove (startDrain (codes.foldl put s) n (codes.foldl (fun a c => a ||| c.2.2.2) 0)) (32 + n)
          (lclRange s addr span true))

/-- The flag word of a tile (R284). -/
def flagWord (t : Tile) : Word := t.anchor ++ (0#8 ++ (t.mode ++ t.flags))

/-- `adrain.raw` (R282): 4,096 elements of 16 bytes, then the flag word and zeros. -/
def drainRawBody (x : Args) (s : State) : Res :=
  let n := fieldNum x.b
  let addr := (scalar32 s x x.a).toNat
  if s.exec = 0 then .done s
  else
    lclRegion s addr 16 65552 (lclRange s addr 65552 true) fun s =>
      withQuietTile s n fun t =>
        let write := fun (s : State) =>
          let s := (List.range 4096).foldl (fun s e =>
            lclWrite s s.tm.id (addr + 16 * e) (toBytes 16 (peek t.elems e).toNat) t.poison) s
          .done (trackMove (startDrain (lclWrite s s.tm.id (addr + 65536) (toBytes 16 (flagWord t).toNat) t.poison) n 0) (32 + n)
            (lclRange s addr 65552 true))
        if inSave s then write s else cleanTile s n t (write s)

/-- `adrain.raw.slot` (R282): the slot's lines and its side area. -/
def drainSlotBody (x : Args) (s : State) : Res :=
  let n := fieldNum x.b
  let addr := (scalar32 s x x.a).toNat
  if s.exec = 0 then .done s
  else
    lclRegion s addr 16 8448 (lclRange s addr 8448 true) fun s =>
      withReadySlot s n fun o =>
        let write := fun (s : State) =>
          let s := (List.range 528).foldl (fun s e =>
            lclWrite s s.tm.id (addr + 16 * e) (peekAll o.bytes (16 * e) 16) o.poison) s
          .done (trackMove (updSlot s s.tm.id n fun o => { o with st := .draining }) n (lclRange s addr 8448 true))
        if inSave s then write s else cleanSlot s n o (write s)

/-- Bytes of an element in a mode's native layout (R281). -/
def nativeBytes (acc : Nat) : Nat := match acc with | 0 => 4 | 2 => 8 | _ => 16

/-- A tile after `aload` has set it from values of its rows and columns (R281). -/
def setTile (f : MFmt) (vals : List (Nat × Nat)) (sick : Bool) (t : Tile) : Tile :=
  { t with
    st := .filling, poison := sick, mode := BitVec.ofNat 2 f.acc, anchor := if f.acc = 1 then f.anchor else t.anchor
    elems := vals.foldl (fun m e => poke m e.1 (BitVec.ofNat 128 e.2)) [] }

/-- `aload.add` on one element (R281). -/
def addElem (f : MFmt) (t : Tile) (e v : Nat) : Tile :=
  if f.acc = 1 then
    let r := fxAdd 128 (peek t.elems e).toInt (BitVec.ofNat 128 v).toInt
    { t with elems := poke t.elems e (BitVec.ofNat 128 (wrapInt 128 r.1)), flags := t.flags ||| flagIf r.2 fFXO }
  else
    let g := accFmt f.acc
    let r := g.round .rne (Val.add .rne (g.value ((peek t.elems e).toNat % 2 ^ g.width)) (g.value (v % 2 ^ g.width)))
    { t with elems := poke t.elems e (BitVec.ofNat 128 r.1), flags := t.flags ||| r.2 }

/-- The check row of `aload.add` (R285): the column sums of the input, one rounding, the new magnitudes. -/
def addLoaded (f : MFmt) (vals : List (Nat × Nat)) (t : Tile) : Tile :=
  let valOf := fun (v : Nat) =>
    if f.acc = 1 then fxValue 128 t.anchor.toInt (BitVec.ofNat 128 v).toInt
    else (accFmt f.acc).value (v % 2 ^ (accFmt f.acc).width)
  let t1 := vals.foldl (fun t e => addCheck t (e.1 % 64) [valOf e.2]) t
  let mags := if f.acc = 1 then [] else vals.map fun e => elemVal t (e.1 / 64) (e.1 % 64)
  mags.foldl (fun t v => match unitsOf v with
    | some i => { t with mag := max t.mag i.natAbs }
    | none => { t with inf := true }) { t1 with rounds := t1.rounds + 1 }

/-- `aload` and `aload.add` (R281). -/
def loadTileBody (i : Shape) (x : Args) (add : Bool) (s : State) : Res :=
  let n := x.d.toNat
  let f := mfmt s.sp.fmt
  let addr := (scalar32 s x x.a).toNat
  let shape := scalar32 s x x.c
  let m := (shape.extractLsb' 0 8).toNat
  let w := (shape.extractLsb' 8 8).toNat
  let size := nativeBytes f.acc
  let pitch := shapePitch shape (w * size)
  let span := (m - 1) * pitch + w * size
  if s.exec = 0 then .done s
  else if m == 0 || 64 < m || w == 0 || 64 < w then raiseEncoding i s
  else
    lclRegion s addr 16 span (lclRange s addr span false) fun s =>
      let vals := (List.range m).flatMap fun i => (List.range w).map fun j =>
        (64 * i + j, ofBytes (lclRead s s.tm.id (addr + i * pitch + j * size) size))
      let sick := (List.range m).any fun i => (List.range w).any fun j =>
        lclPoisoned s s.tm.id (addr + i * pitch + j * size) size
      if add then
        withReadyTile s n fun t =>
          if t.mode.toNat ≠ f.acc then raiseExec s 0x23 (tileName n)
          else if tileBusy s s.tm.id n then .wait .tile s
          else cleanTile s n t <|
            .done (trackMove (updTile s s.tm.id n fun t =>
              let u := vals.foldl (fun t e => addElem f t e.1 e.2) t
              let u := if checksOn s then addLoaded f vals u else u
              { u with st := .filling, poison := t.poison || sick }) (32 + n) (lclRange s addr span false))
      else
        withFreeTile s n fun _ =>
          .done (trackMove (updTile s s.tm.id n fun t => resetCheck (checksOn s) (setTile f vals sick t)) (32 + n)
            (lclRange s addr span false))

/-- Bits of an element that a mode keeps: the others read as zero (R100). -/
def modeBits (mode : BitVec 2) : Nat := if mode = 0 then 32 else if mode = 2 then 64 else 128

/-- `aload.raw` (R282). DESIGN CHOICE: a flag word whose MODE is 3 sets MODE 3, and every bit of the elements is kept (log 205). -/
def loadRawBody (x : Args) (s : State) : Res :=
  let n := x.d.toNat
  let addr := (scalar32 s x x.a).toNat
  if s.exec = 0 then .done s
  else
    lclRegion s addr 16 65552 (lclRange s addr 65552 false) fun s =>
      withFreeTile s n fun _ =>
        let w : Word := BitVec.ofNat 32 (ofBytes (lclRead s s.tm.id (addr + 65536) 4))
        let elems : Sparse 128 := (List.range 4096).foldl (fun m e =>
          poke m e (BitVec.ofNat 128 (ofBytes (lclRead s s.tm.id (addr + 16 * e) 16) % 2 ^ modeBits (w.extractLsb' 6 2)))) []
        let sick := (List.range 4096).any fun e => lclPoisoned s s.tm.id (addr + 16 * e) 16
        .done (trackMove (updTile s s.tm.id n fun t => resetCheck (checksOn s) { t with
          st := .filling, poison := sick, elems := elems, flags := w.extractLsb' 0 6, mode := w.extractLsb' 6 2
          anchor := w.extractLsb' 16 16 }) (32 + n) (lclRange s addr 65552 false))

/-! ## State and checks (R284, R286) -/

/-- The STATE code of the tile table (R99). -/
def stateCode : TState → BitVec 2
  | .empty => 0
  | .filling => 1
  | .ready => 2
  | .draining => 3

/-- The tile-table byte (R99). -/
def tileByte (resid : Nat) (owned : Bool) (st : TState) (mode : BitVec 2) : Word :=
  let team : BitVec 2 := if owned then BitVec.ofNat 2 resid else 0
  (0#1 ++ (mode ++ (team ++ (BitVec.ofBool owned ++ stateCode st)))).setWidth 32

/-- `mchk` (R286). DEDUCED: that `mchk.st` never raises is said of the check; a tile that is not owned, empty or of another MODE raises 0x23 in
both forms, a poisoned one 0x15 (R99, R265, R406; log 203). -/
def checkBody (x : Args) (dest : Option Nat) (s : State) : Res :=
  let n := fieldNum x.a
  if s.exec = 0 then .done s
  else
    withQuietModeTile s n fun t => cleanTile s n t <|
      let r := checkTile (checksOn s) t
      match dest with
      | some d => .done (resultS s d (BitVec.ofNat 32 r.1))
      | none =>
        if r.1 = 1 then raiseExec s 0x31 (BitVec.ofNat 64 r.2)
        else if r.1 = 3 then raiseExec s 0x31 0xFFFFFFFFFFFFFFFF
        else .done s

/-! ## The meanings -/

/-- `oclaim` (R268). -/
def execOclaim (x : Args) (s : State) : Host.Outcome State Fault Refusal := run (.oclaim x) (claimBody x) s

/-- `orel` (R269). -/
def execOrel (x : Args) (s : State) : Host.Outcome State Fault Refusal := run (.orel x) (releaseBody x) s

/-- `ofill` (R271). -/
def execOfill (x : Args) (s : State) : Host.Outcome State Fault Refusal := run (.ofill x) (fillSlotBody (.ofill x) x) s

/-- `mma` (R272). -/
def execMma (x : Args) (s : State) : Host.Outcome State Fault Refusal := run (.mma x) (productBody (.mma x) x) s

/-- `mmarow` (R278). -/
def execMmarow (x : Args) (s : State) : Host.Outcome State Fault Refusal :=
  run (.mmarow x) (rowProductBody (.mmarow x) x) s

/-- `aclr` (R279). -/
def execAclr (x : Args) (s : State) : Host.Outcome State Fault Refusal := run (.aclr x) (clearBody x) s

/-- `adrain` (R280). -/
def execAdrain (x : Args) (s : State) : Host.Outcome State Fault Refusal := run (.adrain x) (drainBody (.adrain x) x) s

/-- `adrain.raw` (R282). -/
def execAdrainRaw (x : Args) (s : State) : Host.Outcome State Fault Refusal := run (.adrainRaw x) (drainRawBody x) s

/-- `adrain.raw.slot` (R282). -/
def execAdrainRawSlot (x : Args) (s : State) : Host.Outcome State Fault Refusal :=
  run (.adrainRawSlot x) (drainSlotBody x) s

/-- `aload` (R281). -/
def execAload (x : Args) (s : State) : Host.Outcome State Fault Refusal :=
  run (.aload x) (loadTileBody (.aload x) x false) s

/-- `aload.add` (R281). -/
def execAloadAdd (x : Args) (s : State) : Host.Outcome State Fault Refusal :=
  run (.aloadAdd x) (loadTileBody (.aloadAdd x) x true) s

/-- `aload.raw` (R282). -/
def execAloadRaw (x : Args) (s : State) : Host.Outcome State Fault Refusal := run (.aloadRaw x) (loadRawBody x) s

/-- `tstate` of a slot (R284); one beyond the reservation reads 0. -/
def execTstateSlot (x : Args) (s : State) : Host.Outcome State Fault Refusal :=
  run (.tstateSlot x) (fun s =>
    let o := slotAt s.tm (fieldNum x.a)
    .done (resultS s x.d.toNat (tileByte s.tm.resid o.owned o.st 0))) s

/-- `tstate.t` (R284). -/
def execTstateTile (x : Args) (s : State) : Host.Outcome State Fault Refusal :=
  run (.tstateTile x) (fun s =>
    let t := tileAt s.tm (fieldNum x.a)
    .done (resultS s x.d.toNat (tileByte s.tm.resid t.owned t.st t.mode))) s

/-- `tstate.t.fl` (R284). -/
def execTstateFlags (x : Args) (s : State) : Host.Outcome State Fault Refusal :=
  run (.tstateFlags x) (fun s => .done (resultS s x.d.toNat (flagWord (tileAt s.tm (fieldNum x.a))))) s

/-- `mchk` (R286). -/
def execMchk (x : Args) (s : State) : Host.Outcome State Fault Refusal := run (.mchk x) (checkBody x none) s

/-- `mchk.st` (R286). -/
def execMchkSt (x : Args) (s : State) : Host.Outcome State Fault Refusal :=
  run (.mchkSt x) (checkBody x (some x.d.toNat)) s

/-- A fill or drain ends, and its slot, or tile 32 + j, is ready (R99). A slot that an engine command fills becomes
ready with that command. -/
def execFillDrainComplete (tid idx : Nat) (s : State) : Host.Outcome State Fault Refusal :=
  let engine := s.eng.cmds.any fun c => c.tid == tid && (match c.kind with | .copySlot _ _ _ n => n == idx | _ => false)
  if idx < 32 then
    if engine then .next s
    else .next (endMove (updSlot s tid idx fun o => if moving o.st then { o with st := .ready } else o) tid idx)
  else .next (endMove (updTile s tid (idx - 32) fun t => if moving t.st then { t with st := .ready } else t) tid idx)

end Sys2Proof.Machine
end

