-- ==== Sys2Proof/Machine/GangProduct.lean ====
section
/-! DEFINITION. Gang products (R275 to R277), the passes of the matrix array (R274, R323) and the rendezvous
watchdog (R276). -/

namespace Sys2Proof.Machine

/-! ## What an `mmag` names (R275) -/

/-- The extents of an `mmag` literal. -/
def mmagM (w : Word) : Nat := (w.extractLsb' 0 10).toNat
/-- The columns of an `mmag` literal. -/
def mmagN (w : Word) : Nat := (w.extractLsb' 10 10).toNat
/-- K of an `mmag` literal. -/
def mmagK (w : Word) : Nat := (w.extractLsb' 20 8).toNat

/-- The literal is within its limits for a gang of some teams (R275). -/
def mmagLitOk (teams : Nat) (c : MClass) (w : Word) : Bool :=
  let sh := shapeOf teams
  w.extractLsb' 28 4 == 0 && 1 ≤ mmagM w && mmagM w ≤ 128 * sh.1 && 1 ≤ mmagN w && mmagN w ≤ 128 * sh.2 &&
    1 ≤ mmagK w && mmagK w ≤ c.maxK

/-- The member of a gang at row y and column x (R37). -/
def memberAt (teams y x : Nat) : Nat := y * (shapeOf teams).2 + x
/-- Row and column of a member. -/
def placeOf (teams m : Nat) : Nat × Nat := (m / (shapeOf teams).2, m % (shapeOf teams).2)

/-- The team of a gang's member. -/
def memberTeam (s : State) (gang m : Nat) : Team :=
  ((allTeams s).find? fun t => t.gang == gang && t.member == m && t.id != 0).getD Team.blank

/-- Bytes of an operand block: 128 lines of 128 bytes, and 512 scale bytes if it is scaled (R275). -/
def blockBytes (scaled : Bool) : Nat := if scaled then 16896 else 16384

/-- The members whose blocks a member reads. -/
def blockMembers (teams m : Nat) : Nat × Nat :=
  (memberAt teams (placeOf teams m).1 0, memberAt teams 0 (placeOf teams m).2)

/-- The checks of a team's own operands, in the order that R276 names them: 0x16, 0x10, 0x23; then the tiles that the products add to,
which may not be poisoned (R406; log 163). -/
def mmagBad (s : State) (f : MFmt) (a b slot tile : Nat) : Option (BitVec 8 × DWord) :=
  let ga := s.gang
  let src := blockMembers ga.nteams s.tm.member
  let bad := fun (m addr n : Nat) => !lclInRange s (memberTeam s ga.id m).id addr n ||
    !lclRole s (memberTeam s ga.id m).id addr n
  let slots := (List.range 4).map (slot + ·)
  let tiles := (List.range 4).map (tile + ·)
  if bad src.1 a (blockBytes f.abs) then some (0x16, BitVec.ofNat 64 a)
  else if bad src.2 b (blockBytes f.bbs) then some (0x16, BitVec.ofNat 64 b)
  else if a % 16 ≠ 0 then some (0x10, BitVec.ofNat 64 a)
  else if b % 16 ≠ 0 then some (0x10, BitVec.ofNat 64 b)
  else
    match slots.find? fun n => !(slotAt s.tm n).owned with
    | some n => some (0x23, slotName n)
    | none =>
      match tiles.find? fun n =>
          let t := tileAt s.tm n
          !t.owned || t.st == .empty || t.mode.toNat != f.acc with
      | some n => some (0x23, tileName n)
      | none => (tiles.find? fun n => (tileAt s.tm n).poison).map fun n => (0x15, 0xFFFFFFFFFFFFFF00 + tileName n)

/-- Whether a slot or tile that an `mmag` names is being moved or used (R99, R270). -/
def mmagBusy (s : State) (slot tile : Nat) : Bool :=
  (List.range 4).any (fun k => nameBusy s (slot + k)) || (List.range 4).any fun k => nameBusy s (32 + tile + k)

/-! ## Rendezvous (R276, R277) -/

/-- A gang operation of a gang. -/
def findRdv (s : State) (gang op : Nat) : Option Rendezvous := (findGang s gang).rdvs.find? fun r => r.op == op
/-- Replaces a gang operation. -/
def updRdv (s : State) (gang op : Nat) (f : Rendezvous → Rendezvous) : State :=
  updGang s gang fun g => { g with rdvs := updateWhere (fun r => r.op == op) f g.rdvs }

/-- The passes a member has completed. -/
def Rendezvous.ran (r : Rendezvous) (m : Nat) : Nat := ((r.passes.find? fun e => e.1 == m).map Prod.snd).getD 0

/-- Every member that has passes to run has joined. -/
def Rendezvous.formed (r : Rendezvous) (teams : Nat) : Bool :=
  (List.range teams).all fun m => r.ran m == 4 || r.joined.any fun j => j.member == m

/-- The lines of an operand block and their scales, as the bytes of the two slots they go to (R275). -/
def blockSlots (s : State) (tid addr : Nat) (scaled : Bool) : List (Sparse 8) :=
  (List.range 2).map fun k =>
    let lines := pokeAll [] 0 (lclRead s tid (addr + 8192 * k) 8192)
    if scaled then pokeAll lines 8192 (lclRead s tid (addr + 16384 + 256 * k) 256) else lines

/-- Bytes of an operand block of a member, or of its scales, are poisoned (R405). -/
def blockSick (s : State) (tid addr : Nat) (scaled : Bool) : List Bool :=
  (List.range 2).map fun k =>
    lclPoisoned s tid (addr + 8192 * k) 8192 || (scaled && lclPoisoned s tid (addr + 16384 + 256 * k) 256)

/-- Delivers the operands to one member's slots (R275). DESIGN CHOICE: a slot that takes poisoned scratchpad bytes is poisoned, as by `ofill`
(logs 48, 163). -/
def deliverTo (s : State) (gang : Nat) (words : List Word) (j : Joined) : State :=
  let teams := (findGang s gang).nteams
  let f := mfmt j.fmt
  let src := blockMembers teams j.member
  let w := fun (k : Nat) => (words.getD k 0).toNat
  let ta := (memberTeam s gang src.1).id
  let tb := (memberTeam s gang src.2).id
  let lines := blockSlots s ta (w 0) f.abs ++ blockSlots s tb (w 1) f.bbs
  let sick := blockSick s ta (w 0) f.abs ++ blockSick s tb (w 1) f.bbs
  ((List.range 4).zip (lines.zip sick)).foldl (fun s e =>
    updSlot s (memberTeam s gang j.member).id (w 2 + e.1) fun o =>
      { o with st := .ready, poison := e.2.2, bytes := e.2.1 }) s

/-- The rows, or columns, of a product that fall in half `k` of a member's block. -/
def shareOf (total place k : Nat) : Nat := min 64 (total - (128 * place + 64 * k))

/-- The quarters of pass u of a member (R275, R276): four, one for each band, also where fewer of the product's rows, or none of its columns,
fall in its tile. DEDUCED (log 164): R272 and R274 count only the bands that a product has. -/
def passQuarters (s : State) (gang op : Nat) (words : List Word) (j : Joined) (u : Nat) : List Quarter :=
  let teams := (findGang s gang).nteams
  let t := memberTeam s gang j.member
  let lit := words.getD 4 0
  let p := placeOf teams j.member
  let m := shareOf (mmagM lit) p.1 (u / 2)
  let n := shareOf (mmagN lit) p.2 (u % 2)
  let slot := (words.getD 2 0).toNat
  (List.range 4).map fun q =>
    { id := s.sched.nextId, core := t.core, tid := t.id, q := q, tile := (words.getD 3 0).toNat + u
      a := .slot (slot + u / 2), b := slot + 2 + u % 2, m := m, n := n, k := mmagK lit, fmt := j.fmt, rnd := j.rnd
      rkey := j.rkey, since := s.gt, mmag := some (op, u) }

/-- A member goes on with its next pass. -/
def nextPass (s : State) (gang op : Nat) (words : List Word) (j : Joined) : State :=
  match findRdv s gang op with
  | none => s
  | some r =>
    let u := r.ran j.member
    if 4 ≤ u then s
    else { (newId s).1 with mx := { s.mx with quarters := s.mx.quarters ++ passQuarters s gang op words j u } }

/-- A gang operation begins once every team has issued (R276): a disagreement or a failed check is raised in every
team, the disagreement first and then the failure of the lowest member (log 55); else the operands are delivered and each member goes on
with its first pass. -/
def beginRdv (s : State) (gang op : Nat) : State :=
  match findRdv s gang op with
  | none => s
  | some r =>
    let teams := (findGang s gang).nteams
    if r.began || !r.formed teams then s
    else
      let l := sortBy (fun (j : Joined) => j.member) r.joined
      let words := (l.map fun j => j.words).headD []
      let fail : Option (BitVec 8 × DWord) :=
        if l.any fun j => j.words != words then some (0x02, 0) else firstSome (fun j => j.bad) l
      let s := updRdv s gang op fun r => { r with began := true, fail := fail }
      if fail.isSome then s
      else
        let s := l.foldl (fun s j => deliverTo s gang words j) s
        l.foldl (fun s j => nextPass s gang op words j) s

/-- A team joins a gang operation (R276). -/
def joinRdv (s : State) (op : Nat) (j : Joined) : State :=
  let gang := s.gang.id
  let s := if (findRdv s gang op).isSome then s
    else updGang s gang fun g => { g with rdvs := g.rdvs ++
      [{ op := op, joined := [], last := s.gt, began := false, fail := none, passes := [], left := [] }] }
  beginRdv (updRdv s gang op fun r => { r with joined := r.joined ++ [j], last := s.gt }) gang op

/-- A member has nothing more to do with a gang operation, which ends with the last one. -/
def leaveRdv (s : State) (op : Nat) : State :=
  let gang := s.gang
  let m := s.tm.member
  let t := { s with sp := { s.sp with request := none } }
  let upd := updateWhere (fun (r : Rendezvous) => r.op == op) (fun r => { r with left := addOnce m r.left }) gang.rdvs
  updGang t gang.id fun g => { g with rdvs := upd.filter fun r => r.left.length < g.nteams }

/-! ## `mmag` (R275 to R277) -/

/-- The operands `mmag` names: addrA, addrB, slot base, tile base, literal. -/
def mmagWords (x : Args) (s : State) : List Word :=
  [scalar32 s x x.a, scalar32 s x x.b, BitVec.ofNat 32 (fieldNum x.c), BitVec.ofNat 32 x.d.toNat, x.literal]

/-- The ranges an `mmag` names (R101, R275): the operand blocks in the allocations of the members it reads, and the slots it
fills. -/
def mmagRanges (s : State) (f : MFmt) (a b slot : Nat) : List Range :=
  let ga := s.gang
  let src := blockMembers ga.nteams s.tm.member
  let span := fun (m addr n : Nat) =>
    match lclTeamOf s (memberTeam s ga.id m).id addr with
    | some k => [Range.lcl k (lclOff addr) (lclOff addr + n) false]
    | none => []
  span src.1 a (blockBytes f.abs) ++ span src.2 b (blockBytes f.bbs) ++ [.slots s.tm.id (BitVec.ofNat 32 (15 * 2 ^ slot)) true]

/-- A team issues an `mmag`: the .gang release, then it joins (R276), once no outstanding command overlaps what it names (R101) and
the queue has room for the quarters of a pass (R318). `op` is the operation's number, `first` says that this issue is counted, and
`lit` that the literal is within its limits (R275). -/
def mmagJoin (x : Args) (next : DWord) (op : Nat) (first lit : Bool) (s : State) : Res :=
  let f := mfmt s.sp.fmt
  let slot := fieldNum x.c
  let tile := x.d.toNat
  withRelease s 2 fun s =>
    let w := mmagWords x s
    let bad := if lit then mmagBad s f (w.getD 0 0).toNat (w.getD 1 0).toNat slot tile else some (0x02, 0)
    if bad.isNone && overlapped s (mmagRanges s f (w.getD 0 0).toNat (w.getD 1 0).toNat slot) then .wait .overlap s
    else if bad.isNone && mmagBusy s slot tile then .wait .tile s
    else if bad.isNone && decide (16 < queuedOn s s.tm.core + 4) then .wait .queue s
    else
      let j : Joined :=
        { member := s.tm.member, words := w, bad := bad
          fmt := s.sp.fmt, rnd := if x.rnd = 7 then s.sp.rnd else x.rnd, rkey := s.g.rkey }
      let q : Request :=
        { pc := s.sp.pc, next := next, op := 0xB4, dest := 0, words := [BitVec.ofNat 64 op] }
      let s := if first then { s with tm := { s.tm with mmags := s.tm.mmags + 1 } } else s
      .wait .rendezvous (joinRdv { s with sp := { s.sp with request := some q } } op j)

/-- `mmag` (R275 to R277). A literal outside its limits raises 0x02 in every team, as any other disagreement or failed check does
(log 144). -/
def mmagBody (i : Shape) (x : Args) (s : State) : Res :=
  if s.exec = 0 then .done s
  else
    match requestHere s 0xB4 with
    | some q =>
      let op := (q.words.headD 0).toNat
      let lit := (mfmt s.sp.fmt).legal.any fun c => mmagLitOk s.gang.nteams c x.literal
      match findRdv s s.gang.id op with
      | none => .done { s with sp := { s.sp with request := none } }
      | some r =>
        if r.ran s.tm.member = 4 then .done (leaveRdv s op)
        else if !r.began then
          if r.joined.any fun j => j.member == s.tm.member then .wait .rendezvous s
          else mmagJoin x (nextPc i s) op false lit s
        else
          match r.fail with
          | some (c, a) => if c = 2 then raiseEncoding i (leaveRdv s op) else raiseExec (leaveRdv s op) c a
          | none => .wait .rendezvous s
    | none =>
      match (mfmt s.sp.fmt).legal with
      | none => raiseEncoding i s
      | some c => mmagJoin x (nextPc i s) s.tm.mmags true (mmagLitOk s.gang.nteams c x.literal) s

/-- `mmag` (R275). -/
def execMmag (x : Args) (s : State) : Host.Outcome State Fault Refusal := run (.mmag x) (mmagBody (.mmag x) x) s

/-! ## Power tokens (R323) -/

/-- The tokens of a bay: an equal share of the pool among the healthy bays, a remainder going to the lowest-numbered
ones. -/
def bayShare (s : State) (bay : Nat) : Nat :=
  let up := (List.range 4).filter (bayHealthy s)
  let n := up.length
  let before := (up.filter fun k => k < bay).length
  if n = 0 || !up.contains bay then 0 else s.dev.pool / n + (if before < s.dev.pool % n then 1 else 0)

/-- The tokens held in a bay. -/
def bayHeld (s : State) (bay : Nat) : Nat :=
  s.mx.passes.foldl (fun n p => if bayOf p.core = bay then n + p.tokens else n) 0

/-! ## Passes (R274) -/

/-- Quarters that may stand in one pass: the same team, B slot, K, FMT and gang operation. -/
def samePass (a b : Quarter) : Bool :=
  a.tid == b.tid && a.b == b.b && a.k == b.k && a.fmt == b.fmt && a.mmag == b.mmag

/-- A quarter may not start while an earlier one of its tile and number is queued or runs (R270). -/
def quarterBlocked (s : State) (before : List Quarter) (q : Quarter) : Bool :=
  let same := fun (y : Quarter) => y.tid == q.tid && y.tile == q.tile && y.q == q.q
  before.any same || s.mx.passes.any fun p => p.quarters.any same

/-- The bands of a core that are free. -/
def freeBands (s : State) (core : Nat) : List Nat :=
  (List.range 4).filter fun b => !(s.mx.passes.any fun p =>
    p.core == core && (p.band == some b || p.quarters.any fun q => q.q == b))

/-- The quarters of a core's queue that may start now, in order. -/
def startable (s : State) (core : Nat) : List Quarter :=
  let l := s.mx.quarters.filter fun q => q.core == core
  let r := l.foldl (fun (a : List Quarter × List Quarter) q =>
    (a.1 ++ (if (freeBands s core).contains q.q && !quarterBlocked s a.2 q then [q] else []), a.2 ++ [q])) ([], [])
  r.1

/-- Gathers the pass that a quarter begins: the first of each number, in order. -/
def gatherPass (l : List Quarter) (seed : Quarter) : List Quarter :=
  (l.filter (samePass seed)).foldl (fun a q => if a.any fun y => y.q == q.q then a else a ++ [q]) []

/-- Whether a pass's fusion window is over (R274): all four bands hold a quarter, or 8 cycles have passed. -/
def windowOver (s : State) (l : List Quarter) : Bool :=
  l.length == 4 || l.any fun q => q.since + 8 ≤ s.gt

/-- The passes that a core could start if it held the tokens, in order. -/
def readyPasses (s : State) (core : Nat) : List (List Quarter) :=
  let busy := s.mx.passes.filter fun p => p.core == core && p.band.isNone
  if 2 ≤ busy.length then []
  else
    let l := startable s core
    (l.map (gatherPass l)).filter (windowOver s)

/-- The first pass that a core could start if it held the tokens. -/
def readyPass (s : State) (core : Nat) : Option (List Quarter) := (readyPasses s core).head?

/-- The tick at which the oldest quarter of a pass entered its queue. -/
def passAge (l : List Quarter) : Nat := lowest (l.map fun q => q.since)

/-- The tick from which a team is halting (R326). -/
def haltingSince (s : State) (t : Team) : Option Nat :=
  match (findGang s t.gang).st with
  | .halting since => some since
  | _ => none

/-- A pass of quarters that receive their tokens at once, since a team of their core is halting: that team's, and those that were in the
core's queue when the request came (R323). -/
def urgentPass (s : State) (l : List Quarter) : Bool :=
  l.any fun q => (allTeams s).any fun t => t.core == q.core && !t.freed &&
    (haltingSince s t).any fun since => t.id == q.tid || decide (q.since ≤ since)

/-- The `lshproj` that wait for a token in a bay (R298, R323): the tick from which each has waited, and its core. -/
def tokenWaits (s : State) (bay : Nat) : List (Nat × Nat) :=
  (allGroups s).flatMap fun g =>
    let core := (findTeam s g.team).core
    if bayOf core != bay || g.retired || g.halted then []
    else ((splitsOf s g.id).filter fun p => p.live && p.wait == some .token).map fun p => (p.since, core)

/-- A request for tokens comes before another (R323): it is older, or as old and of a lower core. -/
def earlier (a b : Nat × Nat) : Bool := decide (a.1 < b.1) || (a.1 == b.1 && decide (a.2 < b.2))

/-- An earlier request of the bay than one of an age on a core waits (R323). -/
def olderWaits (s : State) (age core : Nat) : Bool :=
  (tokenWaits s (bayOf core)).any (fun w => earlier w (age, core)) ||
    (List.range 64).any fun k =>
      let c := 64 * bayOf core + k
      (readyPass s c).any fun y => earlier (passAge y, c) (age, core)

/-- The pass a core starts now, with its tokens (R274, R323): one of a team that is halting first, else the first, cut to the bay's
share in band order. -/
def passNow (s : State) (core : Nat) : Option (List Quarter) :=
  match (readyPasses s core).find? (urgentPass s), readyPass s core with
  | some l, _ => some l
  | none, none => none
  | none, some l =>
    let bay := bayOf core
    let share := bayShare s bay
    let cut := (sortBy (fun (q : Quarter) => q.q) l).take share
    if cut.isEmpty || share < bayHeld s bay + cut.length || olderWaits s (passAge l) core then none else some cut

/-- Cycles a pass lasts (R274). -/
def passCycles (l : List Quarter) : Nat :=
  match l with
  | q :: _ =>
    match (mfmt q.fmt).class? with
    | some c => max 4 (ceilDiv q.k c.rate)
    | none => 4
  | [] => 4

/-- A core starts a pass (R274). -/
def startPass (s : State) (core : Nat) (l : List Quarter) : State :=
  let stream := if s.mx.passes.any fun p => p.core == core && p.band.isNone && p.stream == 0 then 1 else 0
  let p : Pass :=
    { id := s.sched.nextId, core := core, stream := stream, quarters := l, tokens := l.length
      till := s.gt + passCycles l, band := none }
  { (newId s).1 with mx :=
    { quarters := s.mx.quarters.filter fun q => !l.contains q, passes := s.mx.passes ++ [p] } }

/-- The array starts a pass (R274); where none may start, nothing happens. -/
def execPassStart (core : Nat) (s : State) : Host.Outcome State Fault Refusal :=
  match passNow s core with
  | some l => .next (startPass s core l)
  | none => .next s

/-- Whether the launch of a team checks its products. -/
def teamChecks (s : State) (tid : Nat) : Bool :=
  (findLaunch s (findGang s (findTeam s tid).gang).launch).rcd.scr

/-- A quarter of which some element lies in its tile reads a slot that is poisoned (R405; log 163). -/
def quarterSick (s : State) (q : Quarter) : Bool :=
  let sick := fun (n : Nat) => (slotAt (findTeam s q.tid) n).poison
  !q.rows.isEmpty && q.n != 0 && (sick q.b || match q.a with | .slot n => sick n | .rows _ => false)

/-- A pass's quarters take effect on their tiles, with the counts of R285; a product of poisoned operands poisons its tile (log 163). -/
def applyPass (s : State) (p : Pass) : State :=
  let s1 := p.quarters.foldl (fun s q =>
    updTile s q.tid q.tile fun t =>
      let u := runQuarter s q (teamChecks s q.tid) t
      if quarterSick s q then { u with poison := true } else u) s
  let tiles := p.quarters.foldl (fun a q => addOnce (q.tid, q.tile, (mfmt q.fmt).acc, q.k) a) []
  tiles.foldl (fun s e => if teamChecks s e.1 then updTile s e.1 e.2.1 (countPass e.2.2.1 e.2.2.2) else s) s1

/-- The pass of an `mmag` is over for its member once none of its quarters is left: the member goes on with its next
pass, unless its gang is halting (R277). -/
def endMmag (s : State) (p : Pass) : State :=
  match p.quarters with
  | q :: _ =>
    match q.mmag with
    | none => s
    | some (op, u) =>
      let t := findTeam s q.tid
      if quartersUse s fun y => y.tid == q.tid && y.mmag == some (op, u) then s
      else
        let s := updRdv s t.gang op fun r => { r with passes := assocSet r.passes t.member (u + 1) }
        if (haltingSince s t).isSome then s
        else
          match (findRdv s t.gang op).bind fun r => r.joined.find? fun j => j.member == t.member with
          | some j => nextPass s t.gang op j.words j
          | none => s
  | [] => s

/-- A pass ends (R274): its tiles are updated, its tokens return. -/
def endPass (s : State) (p : Pass) : State :=
  let s := applyPass s p
  endMmag { s with mx := { s.mx with passes := s.mx.passes.filter fun y => y.id != p.id } } p

/-- A pass ends once its cycles have passed (R274). -/
def execPassEnd (pass : Nat) (s : State) : Host.Outcome State Fault Refusal :=
  match s.mx.passes.find? fun p => p.id == pass with
  | some p => if p.till ≤ s.gt then .next (endPass s p) else .next s
  | none => .next s

/-! ## The rendezvous watchdog (R276, R399) -/

/-- What the watchdogs of a gang's operations that have not begun count (R276, R399): the operation, the period, the tick it counts from. -/
def rdvWatch (s : State) (gang : Nat) : List (Rendezvous × Nat × Nat) :=
  let ga := findGang s gang
  if ga.st == .running then
    (ga.rdvs.filter fun r => !r.began && !r.joined.isEmpty).map fun r => (r, watchPeriod (findLaunch s ga.launch), r.last)
  else []

/-- A gang operation whose watchdog fires now. -/
def rdvFires (s : State) (gang : Nat) : Option Rendezvous :=
  ((rdvWatch s gang).find? fun w => watchdogFires s w.2.1 w.2.2).map Prod.fst

/-- A split waits in a gang operation. -/
def inRdv (op : Nat) (p : Split) : Bool := p.request.any fun q => q.op == 0xB4 && q.words == [BitVec.ofNat 64 op]

/-- The splits of a team that wait in a gang operation. -/
def rdvWaiters (s : State) (tid op : Nat) : List Who :=
  (teamGroups s tid).flatMap fun g => ((splitsOf s g.id).filter fun p => p.live && inRdv op p).map fun p =>
    { gid := g.id, sp := p.num }

/-- The TIMEOUT record of a waiting team (R379, R380). -/
def rdvRecord (s : State) (tid op : Nat) (w : Who) : State :=
  let p := findSplit s w.gid w.sp
  let entry := waitEntry s (inRdv op)
  writeRecord s { groupRcd s (findGroup s w.gid) (Rcd.blank 0x0A) with
    split := p.num, pc := p.pc, addr := 17, lanes := p.mask &&& p.pred.headD 0
    extra := BitVec.ofNat 32 (findTeam s tid).ngroups, cont := (teamGroups s tid).map entry }

/-- A rendezvous watchdog fires (R276): each waiting team raises 0x21 with TADDR 17. -/
def fireRdv (s : State) (gang : Nat) (r : Rendezvous) : State :=
  let ws := r.joined.filterMap fun j =>
    let t := memberTeam s gang j.member
    (rdvWaiters s t.id r.op).head?.map fun w => (t.id, w)
  let s := ws.foldl (fun s e => rdvRecord s e.1 r.op e.2) s
  let s := updRdv s gang r.op fun r => { r with joined := [], last := s.gt }
  ws.foldl (fun s e => trapWaiter 0x21 17 s e.2) s

/-- A rendezvous watchdog fires (R276, R399); where none fires, nothing happens. -/
def execRendezvousTimeout (gang : Nat) (s : State) : Host.Outcome State Fault Refusal :=
  match rdvFires s gang with
  | some r => .next (fireRdv s gang r)
  | none => .next s

end Sys2Proof.Machine
end

