-- ==== Sys2Proof/Machine/Dispatcher.lean ====
section
/-! DEFINITION. The dispatcher (R37 to R39, R310 to R317, R328): queues and counters, placement, aging, reservations,
and placing a saved gang again. -/

namespace Sys2Proof.Machine

/-! ## What is resident (R39, R315) -/

/-- A gang holds its cores (R326, R328). -/
def Gang.placed (g : Gang) : Bool :=
  !g.retired && match g.st with
    | .running | .halting _ | .halted _ => true
    | .saved _ | .killed => false

/-- The teams that hold a place on a core. -/
def residents (s : State) (core : Nat) : List Team :=
  (allTeams s).filter fun t => t.core == core && !t.freed && (findGang s t.gang).placed

/-- The launch record of a team. -/
def teamRec (s : State) (t : Team) : LaunchRec := (findLaunch s (findGang s t.gang).launch).rcd

/-- The sum of what the teams resident on a core hold. -/
def coreSum (s : State) (core : Nat) (f : LaunchRec → Nat) : Nat :=
  (residents s core).foldl (fun n t => n + f (teamRec s t)) 0

/-- A core has room for a team of a launch (R39, R98, R315). -/
def coreRoom (s : State) (r : LaunchRec) (core : Nat) : Bool :=
  coreUp s core && decide ((residents s core).length < 4 ∧
    coreSum s core (fun y => y.groups) + r.groups ≤ 16 ∧
    coreSum s core (fun y => y.groups * y.vregs) + r.groups * r.vregs ≤ 4096 ∧
    coreSum s core (fun y => y.slots) + r.slots ≤ 32 ∧ coreSum s core (fun y => y.tiles) + r.tiles ≤ 8)

/-- The granules of a cluster that teams hold. -/
def usedGranules (s : State) (cluster : Nat) : List (Nat × Nat) :=
  ((allTeams s).filter fun t => clusterOf t.core == cluster && !t.freed && (findGang s t.gang).placed).flatMap
    fun t => t.granules

/-- The granules of a cluster's scratchpad banks that are free, in order (R94, R97). -/
def freeGranules (s : State) (cluster : Nat) : List (Nat × Nat) :=
  let used := usedGranules s cluster
  (s.eng.banks.filter fun b => b.cluster == cluster && b.role == .scratch).flatMap fun b =>
    ((List.range 16).map fun k => (b.bank, k)).filter fun g => !used.contains g

/-- The cores of a reserved block (R316). -/
def Reserve.cores (v : Reserve) : List Nat := blockCores v.cluster v.teams v.origin

/-- The record a reservation was made for: that of the saved gang, or of the head while it is its queue's head. -/
def Reserve.rcd (s : State) (v : Reserve) : Option LaunchRec :=
  match v.gang with
  | some id => some (findLaunch s (findGang s id).launch).rcd
  | none => ((queueAt s v.queue).entries.head?.filter fun e => e.pos == v.pos).map fun e => e.rcd

/-- A reservation stands (R316): the head or saved gang it was made for is there, and its block can still take it, with every core in service
and banks enough in scratchpad role. DESIGN CHOICE: one whose queue a context switch closes stands on (log 170). -/
def liveReserve (s : State) (v : Reserve) : Bool :=
  (v.rcd s).any fun r => v.cores.all (coreUp s) && decide (gangGranules r ≤ clusterGranules s v.cluster)

/-- Whether a gang of a launch fits a block now (R315, R316), whose bay the dispatcher reaches (R350). `own` is its reservation. -/
def blockFits (s : State) (r : LaunchRec) (own : Option Reserve) (cluster origin : Nat) : Bool :=
  mpReaches s (16 * cluster) && decide (gangGranules r ≤ (freeGranules s cluster).length) &&
    (blockCores cluster r.teams origin).all fun c => coreRoom s r c &&
      !(s.sched.reserves.any fun v => own != some v && liveReserve s v && v.cores.contains c)

/-- The block a gang is placed on (R315): its reserved one; else the first that fits, from the cluster after the last
placement's on. -/
def findPlace (s : State) (r : LaunchRec) (own : Option Reserve) : Option (Nat × Nat) :=
  match own with
  | some v => if blockFits s r own v.cluster v.origin then some (v.cluster, v.origin) else none
  | none =>
    firstSome (fun k =>
      let c := (s.sched.cursor + 1 + k) % 16
      ((originsOf r.teams).find? fun o => blockFits s r none c o).map fun o => (c, o)) (List.range 16)

/-! ## Who is to be placed (R312, R314, R316, R328) -/

/-- A priority after some ticks of waiting (R314). -/
def effPrio (prio since gt : Nat) : Nat := min 7 (prio + (gt - since) / 2 ^ 16)

/-- A context whose pages and queues a checkpoint holds (R345). -/
def checkpointHolds (s : State) (asid : BitVec 16) : Bool :=
  s.dev.checkpoint.any fun c => c.asids.isEmpty || c.asids.contains asid

/-- A checkpoint has closed a queue (R345). -/
def heldQueue (s : State) (q : Nat) : Bool := s.dev.checkpoint.any fun c => c.closed.contains q

/-- The head of a queue that may be placed: the queue is open, its waits are satisfied, its launch is not being
undone. A checkpoint waits for the grids that run, so one placed in part goes on (R345; log 147). -/
def eligibleHead (s : State) (q : Nat) : Option QEntry :=
  let y := queueAt s q
  match y.entries with
  | e :: _ =>
    let l := findLaunch s (e.running.getD 0)
    if (y.opened || (heldQueue s q && decide (0 < e.placed))) && e.since.isSome && !l.rollback && !l.killed then some e else none
  | [] => none

/-- The reservation of a queue's head. -/
def headReserve (s : State) (q : Nat) : Option Reserve :=
  s.sched.reserves.find? fun v => v.queue == q && v.gang.isNone && liveReserve s v
/-- The reservation of a saved gang. -/
def gangReserve (s : State) (id : Nat) : Option Reserve := s.sched.reserves.find? fun v => v.gang == some id && liveReserve s v

/-- A saved gang that may be placed again, and the tick it halted: its context's queues are open for it, or closed by a checkpoint that
waits for its grid (R345), and nothing undoes its launch nor ends its context (R328, R329, R394). -/
def resumable (s : State) (g : Gang) : Option Nat :=
  let l := findLaunch s g.launch
  match g.st with
  | .saved since =>
    let y := queueAt s l.queue
    if !g.retired && !l.rollback && !l.killed && !((findCtx s l.rcd.asid).any fun c => c.closing.isSome) && (y.opened || heldQueue s l.queue) && y.asid == some l.rcd.asid then some since else none
  | _ => none

/-- The highest effective priority among the heads and saved gangs that fit a block now. -/
def topPrio (s : State) : Nat :=
  let heads := (List.range 64).filterMap fun q => (eligibleHead s q).bind fun e =>
    (findPlace s e.rcd (headReserve s q)).map fun _ => effPrio e.rcd.prio (e.since.getD 0) s.gt
  let gangs := s.gangs.filterMap fun g => (resumable s g).bind fun since =>
    let r := (findLaunch s g.launch).rcd
    (findPlace s r (gangReserve s g.id)).map fun _ => effPrio r.prio since s.gt
  (heads ++ gangs).foldl max 0

/-- How far a queue stands behind the one served last at a level (R314). -/
def turnOf (s : State) (level q : Nat) : Nat :=
  match s.sched.lastServed.find? fun e => e.1 == level with
  | some e => (q + 63 - e.2) % 64
  | none => q

/-- The head that is placed now: of the highest effective priority that fits, round-robin among equals (R314). -/
def bestHead (s : State) : Option (Nat × QEntry × Nat × Nat) :=
  let top := topPrio s
  let l := (List.range 64).filterMap fun q => (eligibleHead s q).bind fun e =>
    if effPrio e.rcd.prio (e.since.getD 0) s.gt = top then
      (findPlace s e.rcd (headReserve s q)).map fun b => (q, e, b.1, b.2)
    else none
  (sortBy (fun (x : Nat × QEntry × Nat × Nat) => turnOf s top x.1) l).head?

/-! ## Placing (R37, R38, R255, R315, R317) -/

/-- The lowest residency index free on a core (R99). -/
def freeResid (s : State) (core : Nat) : Nat :=
  ((List.range 4).find? fun k => (residents s core).all fun t => t.resid != k).getD 0

/-- The state of a group at team start (R317). -/
def newGroup (r : LaunchRec) (id team idx : Nat) : Group :=
  let lanes : Word := if idx + 1 = r.groups ∧ r.lanes ≠ 0 then BitVec.ofNat 32 (2 ^ r.lanes - 1) else 0xFFFFFFFF
  { Group.blank with
    id := id, team := team, idx := idx, nv := r.vregs, launched := lanes, retired := false
    sregs := poke (poke [] 0 (r.args.setWidth 32)) 1 ((r.args >>> 32).setWidth 32)
    others := [{ Split.none with live := true, pc := r.entry, mask := lanes }] }

/-- A team at its start (R184, R255, R265, R317). -/
def newTeam (r : LaunchRec) (id gang member core resid : Nat) (granules : List (Nat × Nat)) : Team :=
  { Team.blank with
    id := id, gang := gang, member := member, core := core, resid := resid, ngroups := r.groups, nbars := r.bars
    lds := r.lds, granules := granules, freed := false
    barriers := barrierZero r.groups :: List.replicate (r.bars - 1) Barrier.none
    slots := List.replicate r.slots Slot.none, tiles := List.replicate r.tiles Tile.none }

/-- Puts a team with its groups on a core. -/
def startTeam (r : LaunchRec) (gang : Nat) (s : State) (m core : Nat) : State :=
  let t := newId s
  let granules := (freeGranules s (clusterOf core)).take (ceilDiv r.lds 16384)
  let s := { t.1 with teams := t.1.teams ++ [newTeam r t.2 gang m core (freeResid s core) granules] }
  (List.range r.groups).foldl (fun s k =>
    let g := newId s
    { g.1 with groups := g.1.groups ++ [newGroup r g.2 t.2 k] }) s

/-- The members of a gang with their cores, in order. -/
def memberCores (r : LaunchRec) (cluster origin : Nat) : List (Nat × Nat) :=
  (List.range r.teams).zip (blockCores cluster r.teams origin)

/-- A launch begins with its first gang (R312, R388). -/
def beginLaunch (s : State) (q : Nat) (e : QEntry) : State × Nat :=
  match e.running with
  | some lid => (s, lid)
  | none =>
    let n := newId s
    let l : Launch := { Launch.blank with
      id := n.2, queue := q, pos := e.pos, rcd := e.rcd, poolSize := e.poolSize, replay := e.replay }
    ({ n.1 with launches := n.1.launches ++ [l] }, n.2)

/-- The head of a queue has had a gang placed; with its last one the next record becomes head (R312). -/
def afterPlaced (s : State) (q lid : Nat) : State :=
  noteEligible (updQueue s q fun y =>
    match y.entries with
    | e :: rest =>
      if e.placed + 1 = e.rcd.gangs then { y with entries := rest }
      else { y with entries := { e with placed := e.placed + 1, running := some lid, prio7 := none } :: rest }
    | [] => y)

/-- The dispatcher's notes after a placement: the cursor, whom it served, the reservation that is used up. -/
def noteServed (s : State) (level q cluster : Nat) (own : Option Reserve) : State :=
  { s with sched := { s.sched with
    cursor := cluster, lastServed := assocSet s.sched.lastServed level q
    reserves := s.sched.reserves.filter fun v => own != some v } }

/-- Places the next gang of a queue's head on a block (R315). The launch's first gang in a bay leaves an event there (R383, R418). -/
def placeGang (s : State) (q : Nat) (e : QEntry) (cluster origin : Nat) : State :=
  let level := effPrio e.rcd.prio (e.since.getD 0) s.gt
  let s := noteServed s level q cluster (headReserve s q)
  let r := e.rcd
  let b := beginLaunch s q e
  let g := newId b.1
  let first := !(s.gangs.any fun g => g.launch == b.2 && g.cluster / 4 == cluster / 4)
  let gang : Gang := { Gang.blank with
    id := g.2, launch := b.2, index := e.placed, cluster := cluster, origin := origin, nteams := r.teams
    retired := false, gbar := barrierZero (r.groups * r.teams) }
  let s := { g.1 with gangs := g.1.gangs ++ [gang] }
  let s := (memberCores r cluster origin).foldl (fun s m => startTeam r g.2 s m.1 m.2) s
  let s := updLaunch s b.2 fun l => { l with placed := l.placed + 1 }
  let s := if first then
      bbEvent s (cluster / 4) 0x20 (16 * cluster + origin) r.asid (launchField (findLaunch s b.2))
    else s
  afterPlaced s q b.2

/-- The dispatcher places a gang (R314, R315); where none can be placed, nothing happens. -/
def execGangPlacement (s : State) : Host.Outcome State Fault Refusal :=
  if !running s then .next s
  else
    match bestHead s with
    | some (q, e, c, o) => .next (placeGang s q e c o)
    | none => .next s

/-! ## Placing a saved gang again (R38, R99, R184, R282, R328) -/

/-- A group as it resumes: the registers its save entry found, at its TPC, not point-aware (R185, R328). -/
def resumeGroup (g : Group) : Group :=
  let g := match g.image with
    | some m => { g with
        sregs := m.sregs, vregs := m.vregs, poison := m.poison, masks := m.masks, latches := m.latches
        latchVec := m.latchVec, rkey := m.rkey, flags := m.flags, ftrap := m.ftrap, image := none }
    | none => g
  { g with halted := false, pointAware := false }

/-- What a team's slots and tiles come back as: those in LTM as they were, the rest owned, empty and zero (R99, R184). -/
def resumeTeam (checks : Bool) (t : Team) : Team :=
  match t.image with
  | none => t
  | some m =>
    let slots := ((List.range m.slots.length).zip m.slots).map fun e =>
      if m.ltm.getLsbD e.1 then e.2 else { Slot.none with owned := e.2.owned }
    let tiles := ((List.range m.tiles.length).zip m.tiles).map fun e =>
      if m.ltm.getLsbD (32 + e.1) then (if e.2.st == .ready then { resetCheck checks e.2 with st := .ready } else e.2)
      else { Tile.none with owned := e.2.owned }
    { t with ltm := m.ltm, slots := slots, tiles := tiles, lcl := m.lcl, lclPoison := m.lclPoison, image := none }

/-- A split's waits count from the resumption (R330, R399). -/
def resumeSplit (gt : Nat) (p : Split) : Split :=
  { p with wait := none, since := gt, arrival := p.arrival.map fun a => { a with since := gt } }

/-- The watchdogs of a gang count from the resumption (R330, R399). -/
def resumeClocks (s : State) (id : Nat) : State :=
  let bar := fun (b : Barrier) => { b with last := s.gt }
  let s := updGang s id fun g => { g with
    gbar := bar g.gbar, rdvs := g.rdvs.map fun r => { r with last := s.gt } }
  let s := ((allTeams s).filter fun t => t.gang == id).foldl (fun s t =>
    updTeam s t.id fun t => { t with barriers := t.barriers.map bar }) s
  ((allGroups s).filter fun g => (findTeam s g.team).gang == id).foldl (fun s g =>
    updSplits s g.id (resumeSplit s.gt)) s

/-- Places a saved gang on a block (R38, R328): its teams leave where they were, and each takes a residency place and granules that no
other team holds (R39, R97). -/
def placeAgain (s : State) (g : Gang) (cluster origin : Nat) : State :=
  let l := findLaunch s g.launch
  let level := match g.st with | .saved since => effPrio l.rcd.prio since s.gt | _ => l.rcd.prio
  let s := noteServed s level l.queue cluster (gangReserve s g.id)
  let s := updGang s g.id fun x => { x with st := .running, cluster := cluster, origin := origin }
  let s := ((allTeams s).filter fun t => t.gang == g.id && t.id != 0 && !t.freed).foldl (fun s t =>
    updTeam s t.id fun t => { t with core := 256, granules := [] }) s
  let s := (memberCores l.rcd cluster origin).foldl (fun s m =>
    match (allTeams s).find? fun t => t.gang == g.id && t.member == m.1 with
    | none => s
    | some t =>
      let granules := (freeGranules s cluster).take (ceilDiv l.rcd.lds 16384)
      let resid := freeResid s m.2
      updTeam s t.id fun t => if t.freed then t
        else resumeTeam l.rcd.scr { t with core := m.2, resid := resid, granules := granules }) s
  let s := updGroups s (fun y => !y.retired && y.id != 0 && (findTeam s y.team).gang == g.id) resumeGroup
  resumeClocks s g.id

/-- A saved gang is placed again when no head or saved gang of higher priority fits (R314, R328). -/
def execGangResume (gang : Nat) (s : State) : Host.Outcome State Fault Refusal :=
  let g := findGang s gang
  match resumable s g with
  | none => .next s
  | some since =>
    let r := (findLaunch s g.launch).rcd
    match findPlace s r (gangReserve s gang) with
    | some (c, o) => .next (if running s && effPrio r.prio since s.gt == topPrio s then placeAgain s g c o else s)
    | none => .next s

/-! ## Pages of the MP's choice (R105, R313, R381, R402) -/

/-- VA k of a placement, in pages of a size (R82). -/
def placeVa (place size k : Nat) : DWord :=
  BitVec.ofNat 64 ((if place = 4 then 0xFF00000000000000 else place * 2 ^ 54) + k % 2 ^ (42 - 2 * size) * (4096 * 4 ^ size))

/-- The placement in which the MP maps pages of its own: 4, or, once stripes are lost, that of the first healthy bay (R419; log 89). -/
def ownPlace (s : State) : Option Nat :=
  if s.dev.retired.any fun u => u.1 == 0x0A then (List.range 4).find? (bayHealthy s) else some 4

/-- The lowest free VA for a page of a size, from the k-th on. -/
def freeVa (s : State) (asid : BitVec 16) (size start : Nat) : Option DWord :=
  (ownPlace s).bind fun place =>
    ((List.range 65536).find? fun k => (List.range (4 ^ size)).all fun j =>
      (translate s.mem asid ((placeVa place size (start + k)).toNat + 4096 * j)).isNone).map fun k => placeVa place size (start + k)

/-- The MP maps an empty page of its own choice in free frames at a free VA of a context, writable or not, for users or not: its VA, none
if there is no room. -/
def mapFresh (s : State) (asid : BitVec 16) (size start : Nat) (w u : Bool) : State × Option DWord :=
  match (freeVa s asid size start).bind fun va => (findFrames s va.toNat size).map fun pfn => (va, pfn) with
  | some (va, pfn) =>
    let p := mkPte size w false u 0 0 false asid (pageOf va.toNat) (BitVec.ofNat 24 pfn)
    (installPage (zeroPage s p) p, some va)
  | none => (s, none)

/-! ## Requests to halt (R326, R402) -/

/-- The MP maps a save area for a gang (R328, R402), for supervisors alone, unless it has one; how large it is, and how the handler comes to
know it, no rule says (log 171). -/
def provideSave (s : State) (id : Nat) : State :=
  let g := findGang s id
  if g.save.isSome then s
  else
    let r := mapFresh s (findLaunch s g.launch).rcd.asid (Config.saveSize id % 10) (Config.savePlace id) true false
    updGang r.1 id fun g => { g with save := r.2 }

/-- A request reaches a gang that runs, once its save area has been mapped (R326, R402): while there is no room for one it is not asked. A
second request merges into the first (R330). -/
def requestHalt (s : State) (id : Nat) : State :=
  let g := findGang s id
  if g.st == .running && !g.retired then
    updGang (provideSave s id) id fun g => if g.save.isSome then { g with st := .halting s.gt } else g
  else s

/-! ## Aging and reservations (R314, R316) -/

/-- The tick at which a priority reaches 7 (R314). -/
def sevenAt (prio since : Nat) : Nat := since + (7 - prio) * 2 ^ 16

/-- Heads whose effective priority has come to 7 note since when they wait there (R314, R316). -/
def execPriorityAging (s : State) : Host.Outcome State Fault Refusal :=
  .next { s with sched := { s.sched with queues := s.sched.queues.map fun y =>
    match y.entries with
    | e :: rest =>
      match e.since with
      | some t =>
        if e.prio7.isNone && decide (sevenAt e.rcd.prio t ≤ s.gt) then
          { y with entries := { e with prio7 := some (if e.placed = 0 then sevenAt e.rcd.prio t else s.gt) } :: rest }
        else y
      | none => y
    | [] => y } }

/-- Who is due a reservation: a queue and a position, a gang if it is a saved one. -/
structure DueReserve where
  queue : Nat
  pos : Nat
  gang : Option Nat
  rcd : LaunchRec
  deriving DecidableEq, Repr

/-- Who is due a reservation: the heads and saved gangs that have waited at priority 7 for 2^18 cycles (R316). -/
def reserveDue (s : State) : List DueReserve :=
  let heads := (List.range 64).filterMap fun q => (eligibleHead s q).bind fun e =>
    if (headReserve s q).isNone && e.prio7.any fun t => decide (t + 2 ^ 18 ≤ s.gt) then some { queue := q, pos := e.pos, gang := none, rcd := e.rcd }
    else none
  let gangs := s.gangs.filterMap fun g => (resumable s g).bind fun since =>
    let l := findLaunch s g.launch
    if (gangReserve s g.id).isNone && decide (sevenAt l.rcd.prio since + 2 ^ 18 ≤ s.gt) then
      some { queue := l.queue, pos := l.pos, gang := some g.id, rcd := l.rcd }
    else none
  heads ++ gangs

/-- The blocks a reservation may take, with the cores of each that hold residents: clusters without a reservation whose
banks are large enough, cores in service (R316). -/
def reserveBlocks (s : State) (r : LaunchRec) : List (Nat × Nat × Nat) :=
  (List.range 16).flatMap fun c =>
    if (s.sched.reserves.any fun v => liveReserve s v && v.cluster == c) || decide (clusterGranules s c < gangGranules r) then []
    else ((originsOf r.teams).filter fun o => (blockCores c r.teams o).all (coreUp s)).map fun o =>
      (c, o, ((blockCores c r.teams o).filter fun k => !(residents s k).isEmpty).length)

/-- A reservation is made for one that is due: the block with the fewest occupied cores, the lowest cluster and origin among equals
(R316). -/
def reserveOne (s : State) (d : DueReserve) : State :=
  match (sortBy (fun (b : Nat × Nat × Nat) => b.2.2) (reserveBlocks s d.rcd)).head? with
  | none => s
  | some (c, o, _) =>
    { s with sched := { s.sched with reserves := s.sched.reserves ++
      [{ queue := d.queue, pos := d.pos, gang := d.gang, cluster := c, origin := o, teams := d.rcd.teams, since := s.gt }] } }

/-- Reservations are made for all that are due (R316), after those that no longer stand have gone. -/
def execReservation (s : State) : Host.Outcome State Fault Refusal :=
  let s := { s with sched := { s.sched with reserves := s.sched.reserves.filter (liveReserve s) } }
  .next ((reserveDue s).foldl reserveOne s)

/-- After 2^22 cycles the gangs that still occupy a reserved block are pre-empted (R316). -/
def execReservationPreempt (queue : Nat) (s : State) : Host.Outcome State Fault Refusal :=
  let due := s.sched.reserves.filter fun v => v.queue == queue && liveReserve s v && decide (v.since + 2 ^ 22 ≤ s.gt)
  let gangs := due.flatMap fun v => v.cores.flatMap fun c => (residents s c).map fun t => t.gang
  .next (gangs.foldl requestHalt s)

/-! ## Queues and counters (R311 to R313) -/

/-- The MP is asked for a page by the dispatcher, whose number is 0 (R311). -/
def dispatcherAsk (s : State) (asid : BitVec 16) (page : Nat) : State :=
  let hit := fun (a : MapAsk) => a.asid == asid && a.page == page
  let asks := if s.mem.asks.any hit then updateWhere hit (fun a => { a with gids := addOnce 0 a.gids }) s.mem.asks
    else s.mem.asks ++ [{ asid := asid, page := page, gids := [0], declined := [] }]
  { s with mem := { s.mem with asks := asks } }

/-- The MP has declined a page to the dispatcher. -/
def dispatcherDeclined (s : State) (asid : BitVec 16) (page : Nat) : Bool :=
  s.mem.asks.any fun a => a.asid == asid && a.page == page && a.declined.contains 0

/-- The dispatcher's question for a page is over. -/
def dispatcherDrop (s : State) (asid : BitVec 16) (page : Nat) : State :=
  let l := updateWhere (fun (a : MapAsk) => a.asid == asid && a.page == page)
    (fun a => { a with gids := a.gids.filter (· != 0), declined := a.declined.filter (· != 0) }) s.mem.asks
  { s with mem := { s.mem with asks := l.filter fun a => !(a.gids.isEmpty && a.declined.isEmpty) } }

/-- A launch message is held, or held no more. -/
def holdMessage (s : State) (m : Nat × List Word) (held : Bool) : State :=
  { s with sched := { s.sched with
    messages := s.sched.messages.filter (fun x => x != m) ++ if held then [m] else [] } }

/-- A launch message of the control node is checked, queued and answered (R311); it is held while ENTRY's page is asked for. A device
whose MP has failed accepts no launches (R23), and none comes by a control port that is out of service (R350, R416). -/
def execLaunchMessage (queue : Nat) (words : List Word) (s : State) : Host.Outcome State Fault Refusal :=
  if s.dev.power != .on || !hostUp s then .next s
  else
    let r := parseLaunch words
    match submit s queue words none (dispatcherDeclined s r.asid) with
    | .ask page => .next (holdMessage (dispatcherAsk s r.asid page) (queue, words) true)
    | .status code t =>
      let t := dispatcherDrop (holdMessage t (queue, words) false) r.asid (entryPage r)
      .next { t with rel := { t.rel with replies := t.rel.replies ++ [[code.setWidth 64]] } }

/-- The blocks of the block store that no pool takes yet (R105). -/
def poolsLeft (s : State) : Nat :=
  (s.dev.cap2.extractLsb' 32 32).toNat - s.sched.ctxs.foldl (fun n c => n + c.kvPool) 0

/-- A context that the MP knows from now on (R105, R388). -/
def newCtx (s : State) (asid : BitVec 16) : Ctx :=
  { asid := asid, errq := none, kvPool := min (Config.kvPool asid) (poolsLeft s)
    snapReserve := Config.snapReserve asid, pools := [], ctrPage := none, debugger := false, closing := none
    due := false, killedGangs := 0, gone := false }

/-- The page size of a ring: the smallest that holds its header and records (R358, R381). -/
def ringPage (bytes : Nat) : Nat := ((List.range 8).find? fun k => decide (bytes ≤ 4096 * 4 ^ k)).getD 8

/-- The MP provides a context with an empty ring of records in memory (R358, R381). -/
def provideRing (s : State) (asid : BitVec 16) (start logn size : Nat) : State × Option Ring :=
  let r := mapFresh s asid (ringPage (64 + size * 2 ^ logn)) start true true
  match r.2 with
  | some va =>
    (mpWrite r.1 asid (va.toNat + 12) (toBytes 4 s.dev.startNo.toNat ++ [BitVec.ofNat 8 logn]),
     some { va := va, logn := logn, asid := asid })
  | none => (s, none)

/-- A ring's page is mapped. -/
def ringThere (s : State) (r : Option Ring) : Bool := r.any fun r => (translate s.mem r.asid r.va.toNat).isSome

/-- The MP gives a context it has come to know its error queue (R381), and the monitoring context the thermal ring
(R358), where it has none on a page that is mapped. -/
def provideRings (s : State) (asid : BitVec 16) : State :=
  let s := if ringThere s ((findCtx s asid).bind fun c => c.errq) then s
    else
      let r := provideRing s asid (Config.errqPlace asid) (6 + Config.errqLog asid % 11) 64
      updCtx r.1 asid fun c => { c with errq := r.2 }
  if asid = Config.monitorAsid ∧ !ringThere s s.dev.thermal then
    let r := provideRing s asid Config.thermalPlace (8 + Config.thermalLog % 13) 32
    { r.1 with dev := { r.1.dev with thermal := r.2 } }
  else s

/-- A context is known and not being terminated; one that was terminated begins anew. -/
def admitCtx (s : State) (asid : BitVec 16) : State :=
  match findCtx s asid with
  | none => provideRings { s with sched := { s.sched with ctxs := s.sched.ctxs ++ [newCtx s asid] } } asid
  | some c =>
    if c.gone then provideRings (updCtx s asid fun c => { c with closing := none, due := false, gone := false, killedGangs := 0 }) asid
    else s

/-- The MP opens a queue to a context, or closes it (R312, R329); it opens none to a context that a checkpoint names (R345). -/
def execQueueOpen (queue : Nat) (asid : Option (BitVec 16)) (s : State) : Host.Outcome State Fault Refusal :=
  let y := queueAt s queue
  if s.dev.power != .on || decide (64 ≤ queue) then .next s
  else
    match asid with
    | none =>
      .next (updQueue s queue fun y => { y with opened := false, asid := if y.entries.isEmpty then none else y.asid })
    | some a =>
      let s := admitCtx s a
      let dying := (findCtx s a).any fun c => c.closing.isSome
      if a = 0 || dying || heldQueue s queue || checkpointHolds s a || (y.asid != some a && !y.entries.isEmpty) then .next s
      else .next (noteEligible (updQueue s queue fun y => { y with opened := true, asid := some a }))

/-- The MP maps a page for a context's counters, read-only, at a free VA (R313). -/
def mapCounters (s : State) (asid : BitVec 16) : State :=
  if (findCtx s asid).any fun c => !(c.ctrPage.any fun va => (translate s.mem asid va.toNat).isSome) then
    let r := mapFresh s asid 1 (Config.counterPlace asid) false true
    let s := updCtx r.1 asid fun c => { c with ctrPage := r.2 }
    (s.sched.owners.filter fun o => o.2 == asid).foldl (fun s o => showCounter s o.1) s
  else s

/-- A counter belongs to no context. -/
def disown (s : State) (ctr : Nat) : State :=
  { s with sched := { s.sched with owners := s.sched.owners.filter fun o => o.1 != ctr } }

/-- The MP assigns a counter to a context, which takes it from the one before, and sets it to 0; or releases it (R313). -/
def execCounterAssign (ctr : Nat) (asid : Option (BitVec 16)) (s : State) : Host.Outcome State Fault Refusal :=
  if s.dev.power != .on || decide (4096 ≤ ctr) then .next s
  else
    match asid with
    | none => .next (disown s ctr)
    | some a =>
      let t := admitCtx s a
      if a = 0 || (findCtx t a).any (fun c => c.closing.isSome) then .next s
      else
        let s := disown (mapCounters t a) ctr
        .next (noteEligible (showCounter { s with sched := { s.sched with
          owners := s.sched.owners ++ [(ctr, a)], counters := poke s.sched.counters ctr 0 } } ctr))

end Sys2Proof.Machine
end

