-- ==== Sys2Proof/Machine/Worker.lean ====
section
/-! DEFINITION. An engine's work as a sequence of reads and writes that ends at the first one that fails (R124, R248,
R292, R299). -/

namespace Sys2Proof.Machine

/-- Work in progress: the state, the largest W so far, the 4 KiB chunks of memory written, why it stopped. -/
structure Work where
  s : State
  w : Nat
  chunks : List Nat
  stop : Option EStop

/-- Work that begins. -/
def Work.start (s : State) (w : Nat) : Work := { s := s, w := w, chunks := [], stop := none }

/-- Work of an engine stops; an access that a table denied is logged (R387). -/
def Work.halt (x : Work) (e : Engine) (k : EStop) : Work :=
  if x.stop.isSome then x
  else { x with s := (match k with | .code c va write => noteDenied x.s e c va write | .ask _ => x.s), stop := some k }

/-- Reads `n` bytes; 0 once the work has stopped. -/
def Work.read (x : Work) (e : Engine) (va n : Nat) : Work × Nat :=
  if x.stop.isSome then (x, 0)
  else
    match engineRead e x.s (va % 2 ^ 64) n with
    | .error k => (x.halt e k, 0)
    | .ok (s, bs) => ({ x with s := s }, ofBytes bs)

/-- Writes bytes. -/
def Work.write (x : Work) (e : Engine) (va : Nat) (bs : List Byte) : Work :=
  if x.stop.isSome then x
  else
    let va := va % 2 ^ 64
    match engineMay x.s e [(va, bs.length)] with
    | some k => x.halt e k
    | none =>
      let r := engineWrite e x.s x.w va bs
      { x with s := r.1, w := r.2, chunks := addOnce (va / 4096) x.chunks }

/-- The value a home holds last for bytes within one line, as an atomic reads it (R124). -/
def latestAt (s : State) (e : Engine) (va n : Nat) : Nat :=
  if isFar va then
    ofBytes (farBytes s (enginePort s va) e.asid va n)
  else
    match translate s.mem e.asid va with
    | some p => ofBytes (latestBytes s.mem (physOf p va) n)
    | none => 0

/-- One atomic of R124 on `n` bytes within one line: the old value, of which `f` gives what is written, if anything. -/
def Work.atomic (x : Work) (e : Engine) (va n : Nat) (f : Nat → Option Nat) : Work × Nat :=
  let va := va % 2 ^ 64
  let r := x.read e va n
  if r.1.stop.isSome then (r.1, 0)
  else
    match engineMay r.1.s e [(va, n)] with
    | some k => (r.1.halt e k, 0)
    | none =>
      let old := latestAt r.1.s e va n
      match f old with
      | none => (r.1, old)
      | some v => (r.1.write e va (toBytes n v), old)

/-- The questions that work has raised, kept in the state it began with: the work begins again once they are
answered. -/
def askOnly (s t : State) : State :=
  { s with mem := { s.mem with asks := t.mem.asks }, fab := { s.fab with asked := t.fab.asked } }

end Sys2Proof.Machine
end

