-- ==== Sys2Proof/Machine/Sparse.lean ====
section
/-! DEFINITION. Sparse tensors: intersection, the outer product and its merge, tiles stored compressed (R289 to R294,
R431). -/

namespace Sys2Proof.Machine

/-! ## Intersection (R290, R291) -/

/-- One lane of the walk of R290: the two words (0 for an inactive lane) and the positions OA, OB and OUT before
it. -/
structure Step where
  lane : Nat
  wa : Word
  wb : Word
  oa : Nat
  ob : Nat
  out : Nat
  deriving DecidableEq, Repr

/-- The words the lane matches on. -/
def Step.both (x : Step) : Word := x.wa &&& x.wb

/-- The walk of R290 over the 32 lanes from given positions: the lanes, and the positions after the last. -/
def bitmapWalk (s : State) (x : Args) (oa ob out : Nat) : List Step × Nat × Nat × Nat :=
  (List.range 32).foldl (fun (a : List Step × Nat × Nat × Nat) l =>
    let on := s.exec.getLsbD l
    let wa : Word := if on then BitVec.ofNat 32 (vec32 s x x.a l) else 0
    let wb : Word := if on then BitVec.ofNat 32 (vec32 s x x.b l) else 0
    let e : Step := { lane := l, wa := wa, wb := wb, oa := a.2.1, ob := a.2.2.1, out := a.2.2.2 }
    (a.1 ++ [e], (a.2.1 + popCount wa) % 2 ^ 32, (a.2.2.1 + popCount wb) % 2 ^ 32,
      (a.2.2.2 + popCount (wa &&& wb)) % 2 ^ 32)) ([], oa, ob, out)

/-- Active lanes whose words have nothing in common. -/
def emptyLanes (s : State) (l : List Step) : Nat := (l.filter fun e => s.exec.getLsbD e.lane && e.both == 0).length

/-- What `isect` writes into a lane: the four words of its quad. -/
def isectLane (l : List Step) (k : Nat) : Nat :=
  match l.find? fun e => e.lane == k with
  | some e => e.both.toNat + 2 ^ 32 * e.oa + 2 ^ 64 * e.ob + 2 ^ 96 * e.out
  | none => 0

/-- `isect` (R290): the vector results, then the Block. -/
def isectBody (x : Args) (s : State) : Res :=
  if s.exec = 0 then .done s
  else
    let n := fieldNum x.c
    let r := bitmapWalk s x (getS s n).toNat (getS s (n + 1)).toNat (getS s (n + 2)).toNat
    let empty := ((getS s (n + 3)).toNat + emptyLanes s r.1) % 2 ^ 32
    let t := writeVec s x 128 (isectLane r.1)
    .done (setBlock t n ([r.2.1, r.2.2.1, r.2.2.2, empty].map (BitVec.ofNat 32)))

/-- The matches of a lane: the indexes into A's and B's values. -/
def matchesOf (e : Step) : List (Nat × Nat) :=
  (lanesOf e.both).map fun j =>
    let low := fun (w : Word) => popCount (BitVec.ofNat 32 (w.toNat % 2 ^ j))
    ((e.oa + low e.wa) % 2 ^ 32, (e.ob + low e.wb) % 2 ^ 32)

/-- `isdot` (R291): the values of every match are loaded, and the exact total is added and saturated once. -/
def isdotBody (x : Args) (s : State) : Res :=
  if s.exec = 0 then .done s
  else
    let n := fieldNum x.c
    let va := (getPair s n).toNat
    let vb := (getPair s (n + 2)).toNat
    let r := bitmapWalk s x (getS s (n + 4)).toNat (getS s (n + 5)).toNat 0
    let pairs := r.1.flatMap fun e => (matchesOf e).map fun m => (e.lane, (va + m.1) % 2 ^ 64, (vb + m.2) % 2 ^ 64)
    let acc : Access :=
      { elems := pairs.flatMap fun p => [{ lane := p.1, va := p.2.1 }, { lane := p.1, va := p.2.2 }]
        size := 1, write := false, scalar := false }
    match tryLoad s acc true with
    | .error e => e
    | .ok (s, l) =>
      if l.any fun e => e.2.2 then raisePoison s acc l
      else
        let signed := x.ty == .i8
        let val := fun (e : Elem × List Byte × Bool) => intOf (if signed then .i8 else .n8) (ofBytes e.2.1)
        let total := (chunksOf l.length 2 l).foldl (fun (a : Int) p => a + (p.map val).foldl (· * ·) 1) 0
        let old := getPair s x.d.toNat
        let t := (if signed then old.toInt else (old.toNat : Int)) + total
        let lo : Int := if signed then -2 ^ 63 else 0
        let hi : Int := if signed then 2 ^ 63 - 1 else 2 ^ 64 - 1
        let v := if hi < t then hi else if t < lo then lo else t
        let empty := ((getS s (n + 6)).toNat + emptyLanes s r.1) % 2 ^ 32
        let u := resultPair s x.d.toNat (BitVec.ofInt 64 v)
        withFlags s (fun _ => flagIf (v != t) fFXO)
          (setBlock u (n + 4) ([r.2.1, r.2.2.1, empty].map (BitVec.ofNat 32)))

/-! ## The outer product (R292, R293) -/

/-- A handle that `spmulo` may read (R292). -/
def productHandle (h : TRec) : Bool :=
  h.rank == 2 && h.kindOf 1 == 0 && h.kindOf 0 == 2 && [0, 1, 2, 3, 4, 6, 7].contains h.efmt.toNat && !h.bs

/-- A buffer of triples that begins at a VA goes on in `k` (R292). -/
def withBuffer (s : State) (va : DWord) (k : Res) : Res :=
  if va.toNat % 32 ≠ 0 then raiseExec s 0x10 va else k

/-- `spmulo` (R292): its checks, and the command. -/
def spmuloBody (x : Args) (s : State) : Res :=
  let f := engineFlags x
  let n := fieldNum x.c
  if s.exec = 0 then .done s
  else if !flagsBarOk s f then raiseEncoding (.spmulo x) s
  else
    withHandle s x.a fun a => withHandle s x.b fun b =>
      if !productHandle a then raiseHandle s x.a
      else if !productHandle b || b.dimOf 1 != a.dimOf 1 then raiseHandle s x.b
      else
        withBuffer s (getPair s n) <|
          accept x s (.spmulo a b (getPair s n) (getS s (n + 2)).toNat (getS s (n + 3)).toNat (getS s (n + 4)).toNat) f []

/-- `spmerge` (R293): its checks, and the command. A sum is rounded to hC's format, which is not F64 on profile N (R24). -/
def spmergeBody (x : Args) (s : State) : Res :=
  let f := engineFlags x
  let n := fieldNum x.a
  if s.exec = 0 then .done s
  else if !flagsBarOk s f then raiseEncoding (.spmerge x) s
  else
    withHandle s x.b fun c =>
      if c.rank != 2 || c.kindOf 1 != 0 || c.kindOf 0 != 2 then raiseHandle s x.b
      else if c.efmt = 9 ∧ profileN s then raiseExec s 0x05 (firstUnit (.spmerge x))
      else withBuffer s (getPair s n) <| accept x s (.spmerge (getPair s n) (getS s (n + 2)).toNat c) f []

/-- The VAs of POS and CRD of a compressed dimension 0 (R289). -/
def Work.level (x : Work) (e : Engine) (h : TRec) : Work × Nat × Nat :=
  let lv := ((levelsOf h).getD 0 0).toNat
  let a := x.read e lv 8
  let b := a.1.read e (lv + 8) 8
  (b.1, a.2, b.2)

/-- The stored elements of column k of a handle: coordinate and value (R289). -/
def Work.column (x : Work) (e : Engine) (h : TRec) (pos crd k : Nat) : Work × List (Nat × Nat) :=
  let lo := x.read e (pos + 4 * k) 4
  let hi := lo.1.read e (pos + 4 * k + 4) 4
  (List.range (hi.2 - lo.2)).foldl (fun (a : Work × List (Nat × Nat)) i =>
    let c := a.1.read e (crd + 4 * (lo.2 + i)) 4
    let v := c.1.read e (storedVa h (lo.2 + i)) h.size
    (v.1, a.2 ++ [(c.2, v.2)])) (hi.1, [])

/-- The anchor of FMT. -/
def fmtAnchor (v : Word) : Int := (v.extractLsb' 16 16).toInt

/-- A place is reserved in a buffer, and a triple stored in it or discarded (R292). -/
def Work.triple (x : Work) (e : Engine) (buf cap row col : Nat) (q : Int) : Work :=
  let r := x.atomic e buf 8 fun n => some ((n + 1) % 2 ^ 64)
  if r.2 < cap then
    r.1.write e (buf + 32 + 32 * r.2) (toBytes 4 row ++ toBytes 4 col ++ toBytes 8 0 ++ toBytes 16 (wrapInt 128 q))
  else (r.1.atomic e (buf + 8) 1 fun b => some (b ||| 1)).1

/-- The products of one k (R292). -/
def Work.products (x : Work) (m : Cmd) (e : Engine) (a b : TRec) (pa pb : Nat × Nat) (buf cap k : Nat) : Work :=
  let ra := x.column e a pa.1 pa.2 k
  let rb := ra.1.column e b pb.1 pb.2 k
  (ra.2.flatMap fun y => rb.2.map fun z => (y, z)).foldl (fun x p =>
    let v := Val.mul (tyValue (fmtTy a.efmt.toNat) p.1.2) (tyValue (fmtTy b.efmt.toNat) p.2.2)
    let mode := modeOf m.rnd m.rkey (2 ^ 32 * p.1.1 + p.2.1) k
    x.triple e buf cap p.1.1 p.2.1 (fxRound mode 128 (fmtAnchor m.fmt) v).1) rb.1

/-- `spmulo` as a whole (R292). -/
def multiply (m : Cmd) (e : Engine) (a b : TRec) (buf cap k0 k1 : Nat) (x : Work) : Work :=
  let la := x.level e a
  let lb := la.1.level e b
  (List.range (k1 - k0)).foldl (fun x i => x.products m e a b la.2 lb.2 buf cap (k0 + i)) lb.1

/-- Adds a value to the group of its row and column: the exact sum, and whether FX NaN is among them. -/
def addTriple (l : List ((Nat × Nat) × Int × Bool)) (k : Nat × Nat) (q : Int) : List ((Nat × Nat) × Int × Bool) :=
  let nan := decide (q = fxNan 128)
  match l.find? fun e => e.1 == k with
  | some e => assocSet l k ((if nan then e.2.1 else e.2.1 + q), e.2.2 || nan)
  | none => l ++ [(k, (if nan then 0 else q), nan)]

/-- The triples of a buffer as sums in (row, column) order (R293). -/
def sumTriples (l : List (Nat × Nat × Int)) : List ((Nat × Nat) × Int × Bool) :=
  sortBy (fun (e : (Nat × Nat) × Int × Bool) => 2 ^ 32 * e.1.1 + e.1.2)
    (l.foldl (fun a t => addTriple a (t.1, t.2.1) t.2.2) [])

/-- `spmerge` as a whole (R293). DESIGN CHOICE: where TRUNC is set the triples that the buffer holds are counted by the capacity that `spmerge`
itself names, since the buffer does not keep the one it was filled with (log 166); a triple whose row is M or more has its coordinate and
value written, and no POS entry counts it (log 207). -/
def mergeTriples (m : Cmd) (e : Engine) (buf cap : Nat) (c : TRec) (x : Work) : Work :=
  let head := x.read e buf 16
  let count := if head.2 / 2 ^ 64 % 2 = 1 then min cap (head.2 % 2 ^ 64) else head.2 % 2 ^ 64
  let r := (List.range count).foldl (fun (a : Work × List (Nat × Nat × Int)) i =>
    let v := a.1.read e (buf + 32 + 32 * i) 32
    (v.1, a.2 ++ [(v.2 % 2 ^ 32, v.2 / 2 ^ 32 % 2 ^ 32, (BitVec.ofNat 128 (v.2 / 2 ^ 128)).toInt)])) (head.1, [])
  let sums := sumTriples r.2
  let sat := sums.any fun s => !s.2.2 && (fxSat 128 s.2.1).2
  let kept := sums.take cap
  let lv := r.1.level e c
  let anchor := fmtAnchor m.fmt
  let code := fun (s : (Nat × Nat) × Int × Bool) =>
    let q := if s.2.2 then fxNan 128 else (fxSat 128 s.2.1).1
    let mode := modeOf m.rnd m.rkey (2 ^ 32 * s.1.1 + s.1.2) (2 ^ 32)
    (drainElem c.efmt.toNat anchor mode (fxValue 128 anchor q)).1
  let x1 := ((List.range kept.length).zip kept).foldl (fun (x : Work) s =>
    (x.write e (lv.2.2 + 4 * s.1) (toBytes 4 s.2.1.2)).write e (storedVa c s.1) (toBytes c.size (code s.2))) lv.1
  let x2 := (List.range (c.dimOf 1 + 1)).foldl (fun (x : Work) i =>
    x.write e (lv.2.1 + 4 * i) (toBytes 4 (kept.filter fun s => decide (s.1.1 < i)).length)) x1
  if sat || decide (cap < sums.length) then
    (x2.atomic e (buf + 8) 1 fun b => some (b ||| (if sat then 2 else 0) ||| (if cap < sums.length then 4 else 0))).1
  else x2

/-- The transfer of a command of the intersect unit as far as it can go now: it ends, or asks and begins again. -/
def sparseTransfer (c : Cmd) (s : State) : State :=
  let e := c.engine s false
  let x := match c.kind with
    | .spmulo a b buf cap k0 k1 => multiply c e a b buf.toNat cap k0 k1 (Work.start s c.w)
    | .spmerge buf cap h => mergeTriples c e buf.toNat cap h (Work.start s c.w)
    | _ => Work.start s c.w
  let plain := fun (code : BitVec 8) (addr : Nat) => { plainRes c code x.chunks.length addr with hop := 0xFFFF }
  match x.stop with
  | none => saveCmd x.s c x.w [] (some (plain 0 0))
  | some (.code k a _) => saveCmd x.s c x.w [] (some (plain k a))
  | some (.ask t) => askOnly s t

/-! ## Tiles stored compressed (R294) -/

/-- The header of a stored tile (R294). -/
def tileHeader (nnz : Nat) (esc : Bool) (bytes : Nat) : Nat := nnz + (if esc then 2 ^ 16 else 0) + 2 ^ 32 * bytes

/-- A bit for each of eight elements that is not zero. -/
def byteOf (l : List Nat) : Nat := l.foldr (fun x a => (if x = 0 then 0 else 1) + 2 * a) 0

/-- The bytes of a stored tile: its converted elements in row-major order, with the handle's budget (R294). -/
def tileBytes (size budget : Nat) (codes : List Nat) : List Byte :=
  let full := codes.filter (· ≠ 0)
  let total := 520 + full.length * size
  let bits := (chunksOf 512 8 codes).map fun l => BitVec.ofNat 8 (byteOf l)
  if total ≤ budget then
    toBytes 8 (tileHeader full.length false total) ++ bits ++ full.flatMap (toBytes size)
  else
    toBytes 8 (tileHeader full.length true (8 + 4096 * size)) ++ codes.flatMap (toBytes size)

/-- `sptile` (R294). -/
def sptileBody (x : Args) (s : State) : Res :=
  let va := (pairOf s x.a).toNat
  let n := fieldNum x.b
  let f := mfmt s.sp.fmt
  if s.exec = 0 then .done s
  else if f.out = 9 ∧ profileN s then raiseExec s 0x05 (firstUnit (.sptile x))
  else if va % 64 ≠ 0 then raiseExec s 0x10 (BitVec.ofNat 64 va)
  else
    withHandle s x.c fun h =>
      if h.efmt.toNat ≠ f.out then raiseHandle s x.c
      else
        withQuietModeTile s n fun t => cleanTile s n t <|
          let codes := drainCodes s x t 64 64
          let bs := tileBytes h.size h.budget.toNat (codes.map fun c => c.2.2.1)
          let pieces := chunksOf bs.length 8 bs
          let puts := ((List.range pieces.length).zip pieces).map fun p =>
            ({ lane := 0, va := (va + 8 * p.1) % 2 ^ 64, bytes := p.2, poison := false } : Put)
          storeElems s puts 1 true fun s =>
            .done (resultS (startDrain s n (codes.foldl (fun a c => a ||| c.2.2.2) 0)) x.d.toNat
              (BitVec.ofNat 32 bs.length))

/-! ## The meanings -/

/-- `isect` (R290). -/
def execIsect (x : Args) (s : State) : Host.Outcome State Fault Refusal := run (.isect x) (isectBody x) s

/-- `isdot` (R291). -/
def execIsdot (x : Args) (s : State) : Host.Outcome State Fault Refusal := run (.isdot x) (isdotBody x) s

/-- `spmulo` (R292). -/
def execSpmulo (x : Args) (s : State) : Host.Outcome State Fault Refusal := run (.spmulo x) (spmuloBody x) s

/-- `spmerge` (R293). -/
def execSpmerge (x : Args) (s : State) : Host.Outcome State Fault Refusal := run (.spmerge x) (spmergeBody x) s

/-- `sptile` (R294). -/
def execSptile (x : Args) (s : State) : Host.Outcome State Fault Refusal := run (.sptile x) (sptileBody x) s

end Sys2Proof.Machine
end

