-- ==== Sys2Proof/Machine/Events.lean ====
section
/-! DEFINITION. Events of the memory system and of the engines: a command finishes, a store reaches its home, a page
is mapped (R82, R86, R87, R90 to R93, R110 to R112, R115, R140, R228, R248). -/

namespace Sys2Proof.Machine

/-! ## Engine commands (R248) -/

/-- The transfer of a command as far as it can go now. -/
def transfer (c : Cmd) (s : State) : State :=
  match c.kind with
  | .coll ws _ va => collTransfer c ws va s
  | .spmulo .. | .spmerge .. => sparseTransfer c s
  | _ => copyTransfer c s

/-- A command of an engine goes on, in its turn (R249): its acquire, its transfer; then, when its release is met, its status word and
its barrier arrival (R125, R126, R248). -/
def execEngineComplete (cmd : Nat) (s : State) : Host.Outcome State Fault Refusal :=
  match findCmd s cmd with
  | none => .next s
  | some c =>
    if c.kind.retrieval then .next s
    else
      match c.res with
      | some r =>
        let s := if c.flags.rel == some 4 then sendTokens s c.gid else s
        .next (if releaseMet s c then finishCmd s c r else s)
      | none =>
        if !mayStart s c then .next s
        else
          let a := engineAcquire (startCmd s c) c c.flags.acq
          .next (if a.2 then transfer c a.1 else a.1)

/-! ## Lines (R86, R110 to R112, R140) -/

/-- A group of a context on a core. -/
def groupOn (s : State) (core : Nat) (asid : BitVec 16) : Option Group :=
  (allGroups s).find? fun g => !g.retired && (findTeam s g.team).core == core && (launchOfGroup s g).rcd.asid == asid

/-- Brings a line into a core's instruction cache, for the launch of a group of the context that runs there, if any does (R389); one that
fails its parity is fetched once more (R136, R140). -/
def execFetchLine (core : Nat) (asid : BitVec 16) (va : DWord) (s : State) : Host.Outcome State Fault Refusal :=
  let a : Agent := { asid := asid, core := core, super := true, mkind := mkContext }
  if core < 256 ∧ (heldILine s core asid va.toNat).isNone then
    match seeFetch s a va.toNat with
    | .page p =>
      let t := match groupOn s core asid with
        | some g => readForCode s (launchOfGroup s g).id p va.toNat
        | none => s
      .next (fillILine (fillPac t a va.toNat) core p (va.toNat / 64 * 64))
    | _ => .next s
  else .next s

/-- The home serves a core's read of a line that it may hold, for a group of the context that runs there (R110). -/
def execHomeRead (core : Nat) (asid : BitVec 16) (va : DWord) (s : State) : Host.Outcome State Fault Refusal :=
  match groupOn s core asid with
  | none => .next s
  | some g =>
    match seeAddr s { asid := asid, core := core, super := true, mkind := mkContext } va.toNat false with
    | .page p =>
      if cacheable p && (holdersOf s.mem (pteAsid p) (lineOf va.toNat)).isEmpty then
        .next (homeServe s (launchOfGroup s g).id core p (lineOf va.toNat) true).1
      else .next s
    | _ => .next s

/-- A store arrives at its home and gets its W, unless an earlier one of its group to the line is on its way (R111,
R113). -/
def execStoreAtHome (n : Nat) (s : State) : Host.Outcome State Fault Refusal :=
  match s.mem.flight.find? fun f => f.id == n with
  | some f => .next (if mayArrive s f then storeArrive s f else s)
  | none => .next s

/-- The pins of a sector whose W has passed go (R112). -/
def unpin (gt sector : Nat) (c : CLine) : CLine :=
  { c with pins := c.pins.filter fun p => !(p.sector == sector && p.till.any fun w => decide (w ≤ gt)) }

/-- A sector is released in a core's L1 and in its cluster's cache (R112). -/
def execSectorUnpin (core : Nat) (asid : BitVec 16) (va : DWord) (s : State) : Host.Outcome State Fault Refusal :=
  let line := lineOf va.toNat
  let upd := fun (cs : List CLine) (unit : Nat) =>
    updateWhere (fun c => c.unit == unit && c.asid == asid && c.line == line) (unpin s.gt (va.toNat % 128 / 32)) cs
  .next { s with mem := { s.mem with l1 := upd s.mem.l1 core, cc := upd s.mem.cc (clusterOf core) } }

/-- A line that is not pinned leaves L1 or the cluster cache, or a line leaves an instruction cache; an update-only line merges
(R16, R86). -/
def execLineEviction (level : CacheLevel) (unit : Nat) (asid : BitVec 16) (va : DWord) (s : State) :
    Host.Outcome State Fault Refusal :=
  let line := lineOf va.toNat
  let stay := fun (c : CLine) => !(c.unit == unit && c.asid == asid && c.line == line) || anyPinned c s.gt
  match level with
  | .l1 =>
    let s := mergeCore s fun u => u.core == unit && u.asid == asid && u.line == line
    .next { s with mem := { s.mem with l1 := s.mem.l1.filter stay } }
  | .cluster => .next { s with mem := { s.mem with cc := s.mem.cc.filter stay } }
  | .code => .next (dropILine s unit asid (va.toNat % 2 ^ 57 / 64))

/-- A page's attributes come to a core's page-attribute cache (R228). -/
def execPacFill (core : Nat) (asid : BitVec 16) (va : DWord) (s : State) : Host.Outcome State Fault Refusal :=
  if core < 256 && canonical va.toNat then
    .next (fillPac s { asid := asid, core := core, super := false, mkind := mkContext } va.toNat)
  else .next s

/-- A split that waits for CH, or for a store to an L2-only page, waits no more once GT has come (R112, R115). -/
def execReleaseWaitEnd (gid sp : Nat) (s : State) : Host.Outcome State Fault Refusal :=
  let g := findGroup s gid
  let past := decide (g.ch ≤ s.gt) && !storesOut s gid && !retrievalOut s gid && !drainsOut s gid && g.late.isEmpty &&
    g.paths.all fun p => !p.token || p.acked
  .next (updSplit s gid sp fun p =>
    if (p.wait == some .fence || p.wait == some .l2Store) && past then { p with wait := none } else p)

/-! ## Mappings (R82, R83, R85, R87, R90, R91) -/

/-- Two pages have a frame in common. -/
def framesMeet (p q : Quad) : Bool :=
  decide (ptePfn p < ptePfn q + frameSpan q ∧ ptePfn q < ptePfn p + frameSpan p) &&
    (pageStacks p).any (pageStacks q).contains

/-- Whether a frame of a page is on a retired layer (R413). -/
def onRetired (s : State) (p : Quad) : Bool :=
  s.dev.retired.any fun u => u.1 == 0x0B && (pageStacks p).contains (u.2 / 8) &&
    decide (u.2 % 8 * framesPerLayer < ptePfn p + frameSpan p ∧ ptePfn p < (u.2 % 8 + 1) * framesPerLayer)

/-- Whether a page's frames are of the device, on no retired layer (R85, R413), aligned. -/
def framesGood (s : State) (p : Quad) : Bool :=
  decide (ptePfn p + frameSpan p ≤ framesPerStack) && ptePfn p % frameSpan p == 0 && !onRetired s p

/-- Two pages have an address in common. -/
def pagesMeet (p q : Quad) : Bool := decide (pteTag p < pteTag q + 4 ^ pteSize q ∧ pteTag q < pteTag p + 4 ^ pteSize p)

/-- The MP may install an entry beside these (R82, R83, R87, R88): it is a valid one of a placement the device maps,
aligned to its size, in healthy bays, on good frames; it is no second entry of a page; and a frame mapped writable has that one mapping.
DESIGN CHOICE: the MP installs no page of ASID 0 that overlaps a context's own, which R89 would let match both (log 184). -/
def mayMap (s : State) (others : List Quad) (p : Quad) : Bool :=
  let pl := placement (pageBase p)
  pteOk p && !pteKv p && pteTag p % 4 ^ pteSize p == 0 && decide (pl ≤ 4) &&
    (if pl == 4 then !s.dev.retired.any (fun u => u.1 == 0x0A) else bayHealthy s pl) &&
    framesGood s p &&
    others.all fun q =>
      !(pagesMeet p q && (if pteAsid q == pteAsid p then pteSize q == pteSize p else pteAsid q == 0 || pteAsid p == 0)) &&
        !(framesMeet p q && (pteW p || pteW q || pteKv q))

/-- A page has an address in common with the save area of a gang of its context (R402): the MP keeps that mapped as it is. -/
def savePage (s : State) (p : Quad) : Bool :=
  s.gangs.any fun g => !g.retired && pteAsid p == (findLaunch s g.launch).rcd.asid &&
    g.save.any fun va => (translate s.mem (pteAsid p) va.toNat).any (pagesMeet p)

/-- Every entry of the page table. -/
def allPtes (s : State) : List Quad := s.mem.ptes.map fun t => t.pte

/-- An entry that is no valid one is logged by the MP (R88). -/
def logMalformed (s : State) (p : Quad) : State :=
  if pteV p && !pteOk p then { s with rel := { s.rel with mapLog := s.rel.mapLog ++ [p] } } else s

/-- A page of a block that has been freed, evicted or cannot be copied (R106, R263): its logged stores raise 0x18. -/
def freedPage (s : State) (asid : BitVec 16) (page : Nat) : Bool :=
  let b := blockOf (vaOfPage page)
  s.kv.freed.any (fun e => e.1 == asid && e.2 == b) || s.kv.names.any fun n => n.asid == asid && blockOf n.va.toNat == b

/-- A page that may be mapped is installed; where it lies over a larger page of its context, the lines there go first
(R87), and it waits while one is pinned; where both of its buckets are full, the MP resizes a way first (R89, R90). -/
def mapPage (s : State) (p : Quad) : State :=
  if mayMap s (allPtes s) p && !pageBusy s p && tableRoom s.mem p then installPage (invalidatePage s p) p else s

/-- The MP of a device that is on answers for a page that someone waits for (R91): it maps it, or declines it. -/
def execPageMapReply (asid : BitVec 16) (va : DWord) (pte : Option Quad) (s : State) :
    Host.Outcome State Fault Refusal :=
  let page := pageOf va.toNat
  let wanted := s.mem.asks.any (fun a => a.asid == asid && a.page == page) ||
    s.mem.side.any fun e => e.asid == asid && e.page == page
  if s.dev.power != .on || !wanted || (translate s.mem asid va.toNat).isSome then .next s
  else
    match pte with
    | some p => .next (if pageIn p page && pageFor p asid then mapPage (logMalformed s p) p else s)
    | none => .next (declinePage s asid page (freedPage s asid page))

/-- A way with an entry's bucket changed by the resize: entries at the cursor go to the new table (R90). -/
def moveBucket (y : PWay) (t : PSlot) : PSlot :=
  match y.mNew with
  | some m =>
    if t.c == y.c && t.w == y.w && !t.new && t.bucket == y.cursor then
      { t with new := true
               bucket := wayHash y.salt m (pteTag t.pte / 4 ^ y.c * 65536 + (pteAsid t.pte).toNat) }
    else t
  | none => t

/-- The MP moves one bucket of a way that is being resized; after the last the new table is the way's (R90). It does not
where a bucket of the new table would hold more than 8 entries (R89). -/
def advanceWay (s : State) (y : PWay) : State :=
  match y.mNew with
  | none => s
  | some m =>
    let ptes := s.mem.ptes.map (moveBucket y)
    let full := ptes.any fun t => t.c == y.c && t.w == y.w && t.new &&
      decide (8 < (ptes.filter fun u => u.c == y.c && u.w == y.w && u.new && u.bucket == t.bucket).length)
    if full then s
    else
      let past := y.cursor + 1 == 2 ^ y.m
      let y' := if past then { y with m := m, mNew := none, cursor := 0 } else { y with cursor := y.cursor + 1 }
      let done := fun (t : PSlot) => if past && t.c == y.c && t.w == y.w then { t with new := false } else t
      { s with mem := { s.mem with
        ptes := ptes.map done
        ways := updateWhere (fun z => z.c == y.c && z.w == y.w) (fun _ => y') s.mem.ways } }

/-- The MP of a device that is on (R31) removes, inserts or changes a mapping, or begins or advances a resize (R87, R90); while lines of
the page are pinned it waits. -/
def execMappingChange (c : MapChange) (s : State) : Host.Outcome State Fault Refusal :=
  if s.dev.power != .on then .next s
  else match c with
  | .remove asid va =>
    match translate s.mem asid va.toNat with
    | some p => .next (if pteKv p || pageBusy s p || savePage s p then s else unmapPage s p)
    | none => .next s
  | .insert p =>
    let s := logMalformed s p
    match (allPtes s).find? fun q => pteAsid q == pteAsid p && pteTag q == pteTag p && pteSize q == pteSize p with
    | some q =>
      .next (if pteKv q || pageBusy s q || savePage s q || !mayMap s ((allPtes s).filter (· != q)) p then s else changePage s q p)
    | none => .next (if savePage s p then s else mapPage s p)
  | .beginResize c w bits =>
    .next { s with mem := { s.mem with
      ways := updateWhere (fun y => y.c == c && y.w == w && y.mNew.isNone && decide (0 < bits ∧ bits ≤ 32))
        (fun y => { y with mNew := some bits, cursor := 0 }) s.mem.ways } }
  | .advance c w =>
    match findWay s.mem c w with
    | some y => .next (advanceWay s y)
    | none => .next s

end Sys2Proof.Machine
end

