-- ==== Sys2Proof/Machine/Lifecycle.lean ====
section
/-! DEFINITION. How groups, teams, gangs and grids end, are pre-empted, terminated, killed and rolled back (R56, R99,
R133, R326 to R330, R388 to R396, R403). -/

namespace Sys2Proof.Machine

/-! ## Retirement (R56) -/

/-- The groups of a gang. -/
def gangGroups (s : State) (id : Nat) : List Group := (allGroups s).filter fun g => (findTeam s g.team).gang == id && g.id != 0
/-- The teams of a gang. -/
def gangTeams (s : State) (id : Nat) : List Team := (allTeams s).filter fun t => t.gang == id && t.id != 0

/-- The context of a launch is being terminated (R394): nothing of it retires or completes any more. -/
def ending (s : State) (l : Launch) : Bool := (findCtx s l.rcd.asid).any fun c => c.closing.isSome

/-- A group whose last lane has exited retires once its side-log entries have drained; its contributions merge (R56,
R122). One of a context that is being terminated, or of a launch that is being killed, does not (R394, R395). -/
def execGroupRetire (gid : Nat) (s : State) : Host.Outcome State Fault Refusal :=
  let g := findGroup s gid
  let l := launchOfGroup s g
  if g.id = 0 || g.retired || !whollyExited g || sideOut s gid || !g.late.isEmpty || ending s l || l.killed then .next s
  else .next (updGroup (mergeGroup s gid) gid fun g => { g with retired := true })

/-- A team has a command, a quarter, a pass, or a slot or tile that is filling or draining (R56, R99). -/
def teamBusy (s : State) (t : Team) : Bool :=
  (s.eng.cmds.any fun c => c.tid == t.id) || quartersUse s (fun q => q.tid == t.id) ||
    (t.slots.any fun o => moving o.st) || t.tiles.any fun o => moving o.st

/-- A team that has freed what it held: its groups stay until the grid completes, and so do the numbers of its granules, which commands of
other teams may still name (R95). -/
def freedTeam (t : Team) : Team :=
  { t with
    freed := true, slots := [], tiles := [], lcl := [], lclPoison := [], barriers := []
    handles := List.replicate 16 none, fams := List.replicate 4 none, image := none }

/-- A gang retires with the last of its teams (R56), once the dispatcher can hear of it (R350). -/
def retireGang (s : State) (id : Nat) : State :=
  let g := findGang s id
  if g.retired || !mpReaches s (16 * g.cluster) || !(gangTeams s id).all fun t => t.freed then s
  else updLaunch (updGang s id fun g => { g with retired := true }) g.launch fun l => { l with retired := l.retired + 1 }

/-- A team frees its resources once its groups have retired and its engine commands have written their status words
(R56). -/
def execTeamRetire (tid : Nat) (s : State) : Host.Outcome State Fault Refusal :=
  let t := findTeam s tid
  let runs := match (findGang s t.gang).st with | .running | .halting _ => true | _ => false
  let gone := ((allGroups s).filter fun g => g.team == tid && g.id != 0).all fun g => g.retired
  if t.id = 0 || t.freed || !runs || !gone || teamBusy s t || ending s (findLaunch s (findGang s t.gang).launch) then .next s
  else .next (retireGang (updTeam s tid freedTeam) t.gang)

/-- The groups of some launches. -/
def launchGroups (s : State) (lids : List Nat) : List Group :=
  (allGroups s).filter fun g => g.id != 0 && lids.contains (launchOfGroup s g).id

/-- The contributions of some launches' groups merge (R122). -/
def mergeLaunches (s : State) (lids : List Nat) : State := (launchGroups s lids).foldl (fun s g => mergeGroup s g.id) s

/-- The contexts a checkpoint names; none named is the device (R345). -/
def namedCtxs (s : State) (asids : List (BitVec 16)) : List (BitVec 16) :=
  (s.sched.ctxs.filter fun c => asids.isEmpty || asids.contains c.asid).map fun c => c.asid

/-- The grids of some contexts that run. -/
def gridsOf (s : State) (asids : List (BitVec 16)) : List Launch := s.launches.filter fun l => asids.contains l.rcd.asid

/-- A checkpoint notes that the last named grid has completed before its limit (R345, R346). -/
def noteQuiet (s : State) : State :=
  match s.dev.checkpoint with
  | some c =>
    if decide (s.gt < c.limit) && (gridsOf s (namedCtxs s c.asids)).isEmpty then
      { s with dev := { s.dev with checkpoint := some { c with quiet := true } } }
    else s
  | none => s

/-- Some launches leave the machine with their gangs, teams and groups. -/
def removeLaunches (s : State) (lids : List Nat) : State :=
  let gangs := (s.gangs.filter fun g => lids.contains g.launch).map fun g => g.id
  let groups := (launchGroups s lids).map fun g => g.id
  let s := unfocus s
  let teams := (s.teams.filter fun t => gangs.contains t.gang).map fun t => t.id
  noteQuiet { s with
    groups := s.groups.filter fun g => !teams.contains g.team
    teams := s.teams.filter fun t => !gangs.contains t.gang
    gangs := s.gangs.filter fun g => !gangs.contains g.id
    launches := (s.launches.filter fun l => !lids.contains l.id).map fun l =>
      { l with tangled := l.tangled.filter fun k => !lids.contains k }
    mem := { s.mem with
      side := s.mem.side.filter fun e => !groups.contains e.gid
      asks := (s.mem.asks.map fun a => { a with
        gids := a.gids.filter fun k => !groups.contains k
        declined := a.declined.filter fun k => !groups.contains k }).filter fun a =>
          !(a.gids.isEmpty && a.declined.isEmpty) }
    eng := { s.eng with overlaps := s.eng.overlaps.filter fun o => !(o.mover.any fun m => groups.contains m.1) }
    fab := { s.fab with
      tokens := s.fab.tokens.filter fun t => !groups.contains t.gid
      refused := s.fab.refused.filter fun r => !groups.contains r.1
      lost := s.fab.lost.filter fun r => !groups.contains r.1 }
    sched := { s.sched with reserves := s.sched.reserves.filter fun v => v.gang.all fun k => !gangs.contains k } }

/-- The stores of some launches' groups have reached their homes, and GT has reached their W and that of the launches'
other writes. -/
def writesDone (s : State) (lids : List Nat) : Bool :=
  (launchGroups s lids).all (fun g => !storesOut s g.id && decide (g.ch ≤ s.gt)) &&
    (s.launches.filter fun l => lids.contains l.id).all fun l => decide (l.lastW ≤ s.gt)

/-- The bays in which a launch has gangs. -/
def launchBays (s : State) (lid : Nat) : List Nat :=
  s.gangs.foldl (fun l g => if g.launch == lid then addOnce (g.cluster / 4) l else l) []

/-- A handler has been entered whose disposition is to end a launch or its context (R393). -/
def doomed (s : State) (l : Launch) : Bool := l.due || (findCtx s l.rcd.asid).any fun c => c.due

/-- A grid whose gangs have all retired: its writes are released at .dev, and then its counter is signalled (R56,
R313), whoever it belongs to by then (DESIGN CHOICE, log 169); each of its bays keeps an event (R383, R418). A launch that a handler's
disposition ends does not complete (R393). -/
def execGridComplete (lid : Nat) (s : State) : Host.Outcome State Fault Refusal :=
  let l := findLaunch s lid
  if l.id = 0 || l.rollback || l.killed || ending s l || doomed s l || l.placed != l.rcd.gangs || l.retired != l.rcd.gangs then .next s
  else
    let s := mergeLaunches s [lid]
    if !writesDone s [lid] then .next s
    else
      let s := (launchBays s lid).foldl (fun s bay => bbEvent s bay 0x21 0xFF l.rcd.asid (launchField l)) (removeLaunches s [lid])
      .next (if l.rcd.sigen then addCounter s l.rcd.sigctr 1 else s)

/-! ## Pre-emption (R326 to R330) -/

/-- A pre-emption request reaches a gang (R326). -/
def execPreemptRequest (gang : Nat) (s : State) : Host.Outcome State Fault Refusal := .next (requestHalt s gang)

/-- A slot is being filled by an engine command, which a halt does not wait for (R249). -/
def engineFills (s : State) (tid n : Nat) : Bool :=
  s.eng.cmds.any fun c => c.tid == tid && (match c.kind with | .copySlot _ _ _ k => k == n | _ => false)

/-- What a team has issued has completed, its engine commands apart (R326). -/
def teamSettled (s : State) (t : Team) : Bool :=
  !quartersUse s (fun q => q.tid == t.id) && (t.tiles.all fun o => !moving o.st) &&
    ((List.range t.slots.length).zip t.slots).all fun e => !moving e.2.st || engineFills s t.id e.1

/-- A group is in its save handler. -/
def savesNow (g : Group) : Bool := g.inHandler && g.entry == 0x38
/-- A group that still runs when its gang halts. -/
def stillRuns (g : Group) : Bool := !g.retired && !whollyExited g

/-- A group halts at its boundary (R192, R326): the lowest-numbered split that is not parked takes the save entry. -/
def haltGroup (s : State) (g : Group) : State :=
  if savesNow g || g.halted then s
  else
    let l := (splitsOf s g.id).filter fun p => p.live && (if g.inHandler then p.num == g.tsplit.toNat else p.parked.isNone)
    match (sortBy (fun (p : Split) => p.num) l).head? with
    | some p => saveEntry (focus s { gid := g.id, sp := p.num })
    | none => updGroup s g.id fun g => { g with halted := true }

/-- The registers a save handler finds. -/
def imageOf (g : Group) : Image :=
  { sregs := g.sregs, vregs := g.vregs, poison := g.poison, masks := g.masks, latches := g.latches
    latchVec := g.latchVec, rkey := g.rkey, flags := g.flags, ftrap := g.ftrap }
/-- What a team's pre-emption saves. -/
def teamImageOf (t : Team) : TeamImage :=
  { ltm := t.ltm, slots := t.slots, tiles := t.tiles, lcl := t.lcl, lclPoison := t.lclPoison }

/-- A rendezvous that a halt breaks off is formed again after the gang resumes (R277, R330). -/
def breakRdv (r : Rendezvous) : Rendezvous := if r.fail.isSome then r else { r with began := false, joined := [] }

/-- Every group of a gang has halted or entered its save handler: what the handlers save is fixed (R326, R328). -/
def haltedGang (s : State) (id : Nat) : State :=
  let g := findGang s id
  let l := findLaunch s g.launch
  let s := updGroups s (fun y => y.id != 0 && savesNow y && (findTeam s y.team).gang == id) fun y =>
    { y with image := some (imageOf y) }
  let s := (gangTeams s id).foldl (fun s t =>
    updTeam s t.id fun t => if t.freed then t else { t with image := some (teamImageOf t) }) s
  let s := updGang s id fun g => { g with st := .halted s.gt, rdvs := g.rdvs.map breakRdv, seen := s.mem.nextFlight }
  bbEvent s (g.cluster / 4) 0x22 (16 * g.cluster + g.origin) l.rcd.asid (launchField l)

/-- A gang halts as far as it can (R185, R326): each group at its own next boundary, a point-aware one at its `ppoint`, at most
1,600 cycles later; the gang has halted when every group has and what it and its teams had issued has completed. -/
def execGangHalt (gang : Nat) (s : State) : Host.Outcome State Fault Refusal :=
  match (findGang s gang).st with
  | .halting since =>
    let l := (gangGroups s gang).filter stillRuns
    let may := fun (g : Group) => !goesToPoint s g since && g.late.isEmpty && !(splitsOf s g.id).any mustFinish
    let s := l.foldl (fun s g => if may g then haltGroup s g else s) s
    let all := (((gangGroups s gang).filter stillRuns).all fun g => (savesNow g || g.halted) && g.late.isEmpty) &&
      (gangTeams s gang).all fun t => t.freed || teamSettled s t
    .next (if all then haltedGang s gang else s)
  | _ => .next s

/-- A cache of the gang's cores, or of their clusters, pins a store that came before the halt: the gang's groups may have read it, and no
other cache has it before its W (R112, R113; log 209). -/
def mayHaveSeen (s : State) (gang : Nat) : Bool :=
  let mine := fun (c : CLine) => c.pins.any fun p =>
    decide (p.flight < (findGang s gang).seen) && p.till.all fun w => decide (s.gt < w)
  (gangTeams s gang).any fun t => (s.mem.l1.any fun c => c.unit == t.core && mine c) ||
    s.mem.cc.any fun c => c.unit == clusterOf t.core && mine c

/-- A saved context is complete (R133, R249): every group has left the core, GT has reached CH, side-log entries have
drained, contributions have merged, every engine command has written its status word, and what its groups may have read in its caches is
current everywhere. The cores are free again. -/
def execSaveComplete (gang : Nat) (s : State) : Host.Outcome State Fault Refusal :=
  match (findGang s gang).st with
  | .halted since =>
    let l := gangGroups s gang
    if !(l.filter stillRuns).all fun g => g.halted then .next s
    else
      let s := l.foldl (fun s g => mergeGroup s g.id) s
      let done := (gangGroups s gang).all fun g => !storesOut s g.id && !sideOut s g.id && decide (g.ch ≤ s.gt)
      let idle := (gangTeams s gang).all fun t => !(s.eng.cmds.any fun c => c.tid == t.id)
      .next (if done && idle && !mayHaveSeen s gang then updGang s gang fun g => { g with st := .saved since } else s)
  | _ => .next s

/-- A checkpoint that has closed some queues leaves them closed when it ends: they have been closed for another reason meanwhile. -/
def keepClosed (s : State) (mine : Nat → Bool) : State :=
  match s.dev.checkpoint with
  | some c => { s with dev := { s.dev with checkpoint := some { c with closed := c.closed.filter fun q => !mine q } } }
  | none => s

/-- A context switch (R329): its queues close to placement, those too that a checkpoint has closed, and every gang of it is pre-empted. -/
def execContextSwitch (asid : BitVec 16) (s : State) : Host.Outcome State Fault Refusal :=
  let s := keepClosed { s with sched := { s.sched with
    queues := updateWhere (fun q => q.asid == some asid) (fun q => { q with opened := false }) s.sched.queues } }
    fun q => (queueAt s q).asid == some asid
  .next (s.gangs.foldl (fun s g => if (findLaunch s g.launch).rcd.asid == asid then requestHalt s g.id else s) s)

/-- A saved gang whose shape has fitted no cluster of available cores for 2^22 cycles ends its context (R403). -/
def execUnplaceableTerminate (gang : Nat) (s : State) : Host.Outcome State Fault Refusal :=
  let g := findGang s gang
  let r := (findLaunch s g.launch).rcd
  .next (if g.away && !g.retired && !shapeFits s r && g.unfit.any fun t => decide (t + 2 ^ 22 ≤ s.gt) then startTerminate s r.asid 3
    else s)

/-! ## Termination (R394, R395) -/

/-- What some launches have begun in engines, arrays and memory is over: every command has written its status word, no
quarter is left, their stores have reached their homes, and the records written of their groups have been performed (R377, R394). -/
def workOver (s : State) (lids : List Nat) : Bool :=
  let gids := (launchGroups s lids).map fun g => g.id
  let tids := ((allTeams s).filter fun t => lids.contains (findGang s t.gang).launch).map fun t => t.id
  !(s.eng.cmds.any fun c => gids.contains c.gid) && !quartersUse s (fun q => tids.contains q.tid) &&
    gids.all fun k => !storesOut s k && decide ((findGroup s k).recTill ≤ s.gt)

/-- The launches of a context that run. -/
def ctxLaunches (s : State) (asid : BitVec 16) : List Nat :=
  (s.launches.filter fun l => l.rcd.asid == asid).map fun l => l.id

/-- The gangs of some launches that have not retired. -/
def liveGangs (s : State) (lids : List Nat) : Nat :=
  (s.gangs.filter fun g => lids.contains g.launch && !g.retired).length

/-- The TERMINATE record (R379, R394, R395). -/
def terminateRecord (s : State) (asid : BitVec 16) (code : BitVec 8) (launch : Word) (n : Nat) : State :=
  writeRecord s { Rcd.blank 0x08 with asid := asid, code := code, launch := launch, extra := BitVec.ofNat 32 n }

/-- The end of a context's termination (R394 steps 4 to 6). -/
def endTerminate (s : State) (asid : BitVec 16) (code : BitVec 8) : State :=
  let lids := ctxLaunches s asid
  if !workOver s lids then s
  else
    let n := liveGangs s lids
    let s := removeLaunches (mergeLaunches s lids) lids
    let s := updCtx s asid fun c => { c with gone := true, killedGangs := n }
    terminateRecord s asid code 0xFFFFFFFF n

/-- A context is terminated (R394): first its queues close and its groups stop; when its commands are over, its
resources are freed and the record is written. A handler's disposition and the control node end one with CODE 1 (R393, R394). -/
def execContextTerminate (asid : BitVec 16) (code : BitVec 8) (s : State) : Host.Outcome State Fault Refusal :=
  match findCtx s asid with
  | none => .next s
  | some c =>
    if c.gone then .next s
    else
      match c.closing with
      | none => .next (if code = 1 then startTerminate s asid code else s)
      | some k => .next (endTerminate s asid k)

/-- The groups of a launch stop and its side-log entries go; what is left of it in its queue goes too (R395). -/
def startKill (s : State) (lid : Nat) : State :=
  let gids := (launchGroups s [lid]).map fun g => g.id
  let s := updLaunch s lid fun l => { l with killed := true }
  let s := updQueue s (findLaunch s lid).queue fun y =>
    { y with entries := y.entries.filter fun e => e.running != some lid }
  let s := { s with mem := { s.mem with side := s.mem.side.filter fun e => !gids.contains e.gid } }
  noteEligible (updGroups s (fun g => gids.contains g.id) fun g => { g with halted := true })

/-- The end of a launch's killing: its resources are freed and the record is written (R395). -/
def endKill (s : State) (lid : Nat) : State :=
  let l := findLaunch s lid
  if !workOver s [lid] then s
  else
    let n := liveGangs s [lid]
    terminateRecord (removeLaunches (mergeLaunches s [lid]) [lid]) l.rcd.asid 2 (launchField l) n

/-- A launch is killed (R395). -/
def execLaunchKill (lid : Nat) (s : State) : Host.Outcome State Fault Refusal :=
  let l := findLaunch s lid
  .next (if l.id = 0 then s else if l.killed then endKill s lid else startKill s lid)

/-! ## Rollback (R388 to R390) -/

/-- The home copies a granule that a store of a launch is on its way to (R388). -/
def execSnapshotCopy (lid : Nat) (va : DWord) (s : State) : Host.Outcome State Fault Refusal :=
  let f := s.mem.flight.find? fun f =>
    (launchOfGroup s (findGroup s f.gid)).id == lid && !isFar f.va && granuleOf f.va == granuleOf va.toNat
  match f.bind fun f => translate s.mem f.asid f.va with
  | some p => .next (if pteW p then snapGranule s lid (pteAsid p) va.toNat else s)
  | none => .next s

/-- A launch goes back to the head of its queue (R390). -/
def requeue (s : State) (l : Launch) : State :=
  noteEligible (updQueue s l.queue fun y => { y with entries :=
    { pos := l.pos, rcd := l.rcd, poolSize := l.poolSize, replay := l.replay + 1, since := none, prio7 := none
      placed := 0, running := none } :: y.entries.filter fun e => e.pos != l.pos })

/-- A launch that has been rolled back is replayed, or abandoned after its third replay (R390); the bay keeps the event. -/
def replayOne (bay : Nat) (s : State) (l : Launch) : State :=
  let l' := { l with replay := l.replay + 1 }
  if 3 < l'.replay then startTerminate (writeRecord s (rollbackRcd bay l' l.unroll true)) l.rcd.asid 1
  else writeRecord (requeue s l) (rollbackRcd bay l' l.unroll false)

/-- The rollback of some launches (R390): abandoned if one of them is unrollable; else every granule is restored and
each is replayed, those of higher position first so that the lowest comes to its queue's head. -/
def rollBack (s : State) (ids : List Nat) : State :=
  let ls := s.launches.filter fun l => ids.contains l.id
  if ls.any fun l => l.unroll then
    ls.foldl (fun s l => startTerminate (writeRecord s (rollbackRcd (launchBay s l) l true true)) l.rcd.asid 1) s
  else
    let t := removeLaunches { s with mem := restoreSnaps s.mem ls } ids
    (sortBy (fun (l : Launch) => l.pos) ls).reverse.foldl (fun t l => replayOne (launchBay s l) t l) t

/-- The rollback of a launch goes on (R390): contributions merge, launches entangled with it stop too; when every
command has written its status word it takes place. -/
def execRollback (lid : Nat) (s : State) : Host.Outcome State Fault Refusal :=
  let l := findLaunch s lid
  if l.id = 0 || !l.rollback || (findCtx s l.rcd.asid).any fun c => c.closing.isSome then .next s
  else
    let s := mergeLaunches s (tangledWith s.launches.length s [lid])
    let ids := tangledWith s.launches.length s [lid]
    let s := startRollback s lid
    .next (if workOver s ids then rollBack s ids else s)

/-! ## Debugging (R396) -/

/-- The control node attaches a debugger to a context, or detaches it (R396). With a group of it held, the context's end is then due, as
where none was attached. -/
def execDebuggerAttach (asid : BitVec 16) (attached : Bool) (s : State) : Host.Outcome State Fault Refusal :=
  let held := (allGroups s).any fun g => (launchOfGroup s g).rcd.asid == asid && g.id != 0 && debugHeld s g
  .next (updCtx s asid fun c => { c with debugger := attached, due := c.due || (held && !attached) })

/-- The `rte` that ends a debug hold (R193). -/
def resumeHeld (s : State) : State :=
  match returnBody s with
  | .done t | .jump t => { t with sp := { t.sp with chain := none, wait := none } }
  | .raise tr t => takeTrap t tr false t.sp.pc
  | .wait w t => park w t

/-- The control node resumes a held group, or terminates its context; with no debugger attached the context is
terminated (R396). -/
def execDebugResume (gid : Nat) (terminate : Bool) (s : State) : Host.Outcome State Fault Refusal :=
  let g := findGroup s gid
  let asid := (launchOfGroup s g).rcd.asid
  let held := g.inHandler && (g.entry == 0x0A || g.entry == 0x0B)
  if g.id = 0 || !held || g.halted then .next s
  else if terminate || !debugHeld s g then .next (startTerminate s asid 1)
  else .next (resumeHeld (focus s { gid := gid, sp := g.tsplit.toNat }))

end Sys2Proof.Machine
end

