-- ==== Sys2Proof/Machine/Fabric.lean ====
section
/-! DEFINITION. The fabric, the host and checkpoints (R128 to R132, R331 to R338, R345 to R348). -/

namespace Sys2Proof.Machine

/-! ## Remote atomics (R129) -/

/-- A lane of a remote atomic that awaits its reply. -/
def AtomLane.open (y : AtomLane) : Bool := y.got.isNone && isFar y.va

/-- The value of the bytes that a lane names beyond the device, by the port that has translated it. -/
def AtomLane.peek (y : AtomLane) (s : State) (asid : BitVec 16) (n : Nat) : Nat := ofBytes (farBytes s y.port asid y.va n)

/-- Replies come to the first lanes that await one, each with the value its lane read; the new values stand at the
destination, by the port that has translated each (R129, R239, R333). -/
def answerLanes (a : AtomOp) : List DWord → List AtomLane → State → State × List AtomLane
  | [], l, s => (s, l)
  | _, [], s => (s, [])
  | v :: vs, y :: t, s =>
    if y.open then
      let n := a.ty.bits / 8
      let old := v.toNat % 2 ^ a.ty.bits
      let s := match a.value old y.d y.c with
        | some x => farPoke s y.port s.asid y.va (toBytes n x)
        | none => farPoke s y.port s.asid y.va (toBytes n old)
      let r := answerLanes a vs t s
      (r.1, { y with got := some old } :: r.2)
    else
      let r := answerLanes a (v :: vs) t s
      (r.1, y :: r.2)

/-- The atomic a split awaits replies for: its lanes. -/
def openLanes (q : Request) : List AtomLane :=
  q.lanes.filter AtomLane.open

/-- A lane of the split in focus whose destination has become unreachable, or whose path is lost (R129, R335). -/
def laneLost (s : State) (y : AtomLane) : Bool := unreachableBy s y.port y.va || pathLost s s.g.id y.va

/-- An atomic that has been sent ends with a cause over some of its lanes (R129). In a group that has been stopped the fault is neither
taken nor recorded (R394, R404). -/
def endAtomic (s : State) (q : Request) (cause : BitVec 8) (bad : List AtomLane) : State :=
  let t := { heard s s.g.id with sp := { s.sp with request := none } }
  if s.g.halted then t
  else
    takeTrap t
      { cause := cause, addr := BitVec.ofNat 64 (lowest (bad.map fun y => y.va))
        lanes := bad.foldl (fun (m : Word) y => m ||| BitVec.ofNat 32 (2 ^ y.lane)) 0 } s.sp.chain.isSome q.next

/-- A remote atomic fails (R129, R335): 0x14 where its destination has become unreachable, 0x13 where the destination's
access table denied it. -/
def failAtomic (s : State) (q : Request) (l : List AtomLane) : State :=
  let lost := l.filter (laneLost s)
  if lost.isEmpty then endAtomic s q 0x13 l else endAtomic s q 0x14 lost

/-- The place of a lane on the device that the access table has come to deny since the checks of issue, if it has (R385, R386). -/
def laneDenied (s : State) (y : AtomLane) : Option Nat :=
  if isFar y.va || y.got.isSome then none
  else match pageAttr s s.agent y.va with
    | some (p, _, _) => if physPermits s mkContext s.asid (physOf p y.va) true then none else some (physOf p y.va)
    | none => none

/-- An atomic that has been sent may end with a cause: not while a handler of its group runs on another split (R53, R54; log 212). -/
def mayEnd (s : State) : Bool := s.g.halted || !s.g.inHandler

/-- The lanes of the device are performed with the last reply (log 145), or, where the table denies one by then, none of them: the denials
are logged and 0x13 is raised, as soon as it may be; what the replies have performed stays (R129, R386, R387; log 145). -/
def lastReply (s : State) (q : Request) (a : AtomOp) (l : List AtomLane) : Option State :=
  let shut := l.filter fun y => (laneDenied s y).isSome
  if shut.isEmpty then
    let z := atomLanes a l s (q.words.headD 0).toNat
    some { z.1 with sp := { z.1.sp with request := some { q with words := atomWords z.2.1 a z.2.2 } } }
  else if !mayEnd s then none
  else
    some <| endAtomic ((shut.filterMap (laneDenied s)).foldl (fun t ph => logViolation t ph mkContext s.asid true) s) q 0x13 shut

/-- A remote atomic may fail: a destination of it has become unreachable, or no lane of it has been performed, so that a denial has
no effect (R129, R386; log 145). -/
def mayDeny (s : State) (q : Request) : Bool :=
  (openLanes q).any (laneLost s) || (unpackLanes (q.words.drop 2)).all fun y => y.got.isNone

/-- Replies to a remote atomic return (R129); with the last, the lanes of the device are performed. Once a destination of it is
unreachable or lost, the atomic fails (R335). -/
def execRemoteAtomicReply (gid sp : Nat) (ok : Bool) (values : List DWord) (s : State) :
    Host.Outcome State Fault Refusal :=
  let t := focus s { gid := gid, sp := sp }
  match t.sp.request with
  | none => .next s
  | some q =>
    let l := openLanes q
    if l.isEmpty then .next s
    else if !ok || l.any (laneLost t) then .next (if mayDeny t q && mayEnd t then failAtomic t q l else s)
    else
      let a := AtomOp.ofWord (q.words.getD 1 0)
      let r := answerLanes a values (unpackLanes (q.words.drop 2)) t
      if r.2.any AtomLane.open then
        .next { r.1 with sp := { r.1.sp with request := some { q with words := atomWords (q.words.headD 0).toNat a r.2 } } }
      else .next ((lastReply r.1 q a r.2).getD s)

/-! ## The system fence (R130, R132) -/

/-- The writes a token counts have all passed: the port's fence counter for the source has reached the token's count (R130), or, for a token
that the port inserted, a fence has ended since and the counter begun anew. -/
def pathClear (s : State) (t : Token) : Bool :=
  (findGroup s t.gid).paths.all fun p => p.dest != t.dest || p.port != t.port || decide (t.count ≤ p.passed) ||
    (t.auto && decide (p.posted < t.count))

/-- Replaces element `n` of the tokens, or drops it. -/
def setToken (s : State) (n : Nat) (t : Option Token) : State :=
  { s with fab := { s.fab with tokens := s.fab.tokens.take n ++ t.toList ++ s.fab.tokens.drop (n + 1) } }

/-- A token goes on once the writes it counts have passed; one that a port inserted retires no fence (R130). -/
def execFenceToken (n : Nat) (s : State) : Host.Outcome State Fault Refusal :=
  match s.fab.tokens[n]? with
  | none => .next s
  | some t =>
    if !pathClear s t then .next s
    else .next (setToken s n (if t.auto then none else some { t with atEnd := true }))

/-- The last hop acknowledges a token, with the addresses of the writes that failed there, which the path holds since they came there and
were not performed; for a destination that is unreachable the path is done when its writes have failed (R130, R132). -/
def execFenceAck (n : Nat) (_failed : List DWord) (s : State) : Host.Outcome State Fault Refusal :=
  match s.fab.tokens[n]? with
  | none => .next s
  | some t =>
    if t.auto || !t.atEnd then .next s
    else
      let upd := fun (p : Path) => { p with acked := true }
      .next (updGroup (setToken s n none) t.gid fun g => { g with
        paths := updateWhere (fun p => p.dest == t.dest && p.port == t.port) upd g.paths })

/-! ## Window grants (R334, R335) -/

/-- An address of a context lies on the page of a grant. -/
def Grant.covers (g : Grant) (asid : BitVec 16) (va : Nat) : Bool :=
  g.asid == asid && g.dev.toNat == peerOf va && g.page == va % 2 ^ 42 / (4096 * 4 ^ g.size)

/-- A remote atomic that its port has translated with a grant awaits its reply, or a load that it has is performed later (R114). -/
def grantBusy (s : State) (g : Grant) : Bool :=
  (allGroups s).any fun h =>
    let mine := fun (port va : Nat) => placement va == 5 && g.port == port && g.covers (launchOfGroup s h).rcd.asid va
    ((splitsOf s h.id).any fun p => p.request.any fun q => (openLanes q).any fun y => mine y.port y.va) ||
      h.late.any fun y => !y.lcl && y.elems.any fun e => mine (y.port e.2) e.2

/-- A port's TLB takes a grant; it holds 4,096, and the oldest that nothing awaits goes first (R334; log 17). -/
def keepGrant (s : State) (g : Grant) : State :=
  let mine := s.fab.grants.filter fun x => x.port == g.port
  let kept := if mine.length < 4096 then s.fab.grants
    else match mine.find? fun x => !grantBusy s x with
      | some old => s.fab.grants.filter fun x => x != old
      | none => s.fab.grants
  { s with fab := { s.fab with grants := kept ++ [g] } }

/-- Posted writes of a context to some addresses fail, untranslated as they are (R132, R334, R335). -/
def failWindow (s : State) (bad : Flight → Bool) : State :=
  let mine := s.mem.flight.filter fun f => placement f.va == 5 && bad f
  let s := mine.foldl (fun s f => failPosted s f.gid (farDest f.va) f.port f.va) s
  { s with mem := { s.mem with flight := s.mem.flight.filter fun f => !mine.contains f } }

/-- A grant yields a VA in placement 0 to 4 or 7 (R334). -/
def goodTarget (t : WindowTarget) : Bool := canonical t.va.toNat && !isFarVa t.va.toNat

/-- The destination's MP answers a port's question (R334): a grant, of a page of any size of R88, or a refusal. -/
def execWindowGrant (asid : BitVec 16) (va : DWord) (grant : Option WindowTarget) (s : State) :
    Host.Outcome State Fault Refusal :=
  let page := va.toNat % 2 ^ 54 / 4096
  match s.fab.asked.find? fun e => e.asid == asid && e.page == page with
  | none => .next s
  | some e =>
    let t := { s with fab := { s.fab with asked := s.fab.asked.filter fun x => x != e } }
    match grant with
    | some y =>
      .next (if goodTarget y then keepGrant t
        { port := e.port, asid := asid, dev := BitVec.ofNat 12 (peerOf va.toNat), size := y.size % 10
          page := va.toNat % 2 ^ 42 / (4096 * 4 ^ (y.size % 10)), tasid := y.asid, target := y.va } else s)
    | none =>
      let t := failWindow t fun f => f.port == e.port && f.asid == asid && f.va % 2 ^ 54 / 4096 == page
      .next { t with fab := { t.fab with refused := e.gids.foldl (fun l k => addOnce (k, page) l) t.fab.refused } }

/-- A destination revokes a grant in every port that holds it (R335), which is complete once the accesses translated with it have reached
the destination. Posted writes not yet translated fail, and what waits for the page raises 0x11. -/
def execWindowRevoke (dev : BitVec 12) (asid : BitVec 16) (va : DWord) (s : State) : Host.Outcome State Fault Refusal :=
  let at_ := dev.toNat * 2 ^ 42 + va.toNat % 2 ^ 42
  let gs := s.fab.grants.filter fun g => g.covers asid at_
  if gs.any (grantBusy s) then .next s
  else
    let s := failWindow s fun f => gs.any fun g => g.covers f.asid f.va
    let there := fun (e : Asked) => gs.any fun g => g.covers e.asid (e.page * 4096)
    .next { s with fab := { s.fab with
      grants := s.fab.grants.filter fun x => !gs.contains x
      asked := s.fab.asked.filter fun e => !there e
      refused := (s.fab.asked.filter there).foldl (fun l e => e.gids.foldl (fun l k => addOnce (k, e.page) l) l) s.fab.refused } }

/-- Every entry for a device goes, in every port (R335); what waits for one of its pages, or for a reply from it, raises 0x14. Loads that
have issued are performed before (log 180). -/
def forgetDevice (s : State) (d : Nat) : State :=
  let s := performBefore s fun _ _ va => placement va == 5 && peerOf va == d
  let waiting := s.fab.asked.filter fun e => e.page / 2 ^ 30 == d
  let held := (allGroups s).flatMap fun h => (splitsOf s h.id).flatMap fun p =>
    match p.request with
    | some q => ((openLanes q).filter fun y => placement y.va == 5 && peerOf y.va == d).map fun y => (h.id, y.va % 2 ^ 54 / 4096)
    | none => []
  { s with fab := { s.fab with
    grants := s.fab.grants.filter fun g => g.dev.toNat != d
    asked := s.fab.asked.filter fun e => e.page / 2 ^ 30 != d
    denied := s.fab.denied.filter fun e => e.2.1 / 2 ^ 30 != d
    lost := (waiting.flatMap (fun e => e.gids.map fun k => (k, e.page)) ++ held).foldl (fun l x => addOnce x l) s.fab.lost } }

/-- The link reports a destination unreachable (R335): entries for it go, and posted writes on their way to it fail. With the supply off no
link reports (R31). DESIGN CHOICE: it stays unreachable until this device's next start (log 210). -/
def execDestUnreachable (dev : BitVec 12) (s : State) : Host.Outcome State Fault Refusal :=
  if !running s then .next s
  else
  let s := forgetDevice (failWindow s fun f => peerOf f.va == dev.toNat) dev.toNat
  .next { s with fab := { s.fab with unreachable := addOnce dev.toNat s.fab.unreachable } }

/-! ## The host (R337, R338, R345) -/

/-- The MP answers the control node. -/
def reply (s : State) (ws : List DWord) : State := { s with rel := { s.rel with replies := s.rel.replies ++ [ws] } }

/-- What the host agent meets at an address (R337): a page, or none, or a denial. -/
def hostSees (s : State) (asid : BitVec 16) (va : Nat) (write : Bool) : Except (Option Nat) Quad :=
  if isFar va then .error none
  else
    match hostRange s asid va, translate s.mem asid va with
    | some r, some p =>
      if write && (!r.writable || !pteW p) then .error none
      else if physPermits s mkHost 0 (physOf p va) write then .ok p
      else .error (some (physOf p va))
    | _, _ => .error none

/-- The error reply the host agent gets (R386). -/
def hostError : List DWord := [0xFFFFFFFFFFFFFFFF]

/-- A read of the host agent is performed at the home, after the recall of holders, and never leased (R122, R337). -/
def hostRead (s : State) (asid : BitVec 16) (l : List (Nat × Nat)) : State × List Byte :=
  l.foldl (fun (acc : State × List Byte) x =>
    match translate acc.1.mem asid x.1 with
    | some p =>
      let s := recallLine acc.1 (pteAsid p) (lineOf x.1)
      (s, acc.2 ++ currentBytes s.mem (physOf p x.1) x.2)
    | none => acc) (s, [])

/-- A write of the host agent gets its completion times (R111, R337). -/
def hostWrite (s : State) (asid : BitVec 16) (va : Nat) (bs : List Byte) (l : List (Nat × Nat)) : State × Nat :=
  l.foldl (fun (acc : State × Nat) x =>
    match translate acc.1.mem asid x.1 with
    | some p =>
      let part := (bs.drop ((x.1 + 2 ^ 64 - va) % 2 ^ 64)).take x.2
      let cells := ((List.range part.length).zip part).map fun c => (physOf p x.1 + c.1, c.2)
      let s := recallLine acc.1 (pteAsid p) (lineOf x.1)
      let r := homeWrite s (pteAsid p) (lineOf x.1) (writableBytes s (pteAsid p) (lineOf x.1) cells)
      (r.1, max acc.2 r.2)
    | none => acc) (s, 0)

/-- The host agent accesses device memory through a unified range (R337): the reply gives the bytes read; that to a store, with its W,
is given once GT has come to W. Nothing crosses to a bay whose interfaces are clamped or that no bridge joins to bay 0 (R331, R350). -/
def execHostAccess (asid : BitVec 16) (va : DWord) (len : Nat) (store : Option (List Byte)) (s : State) :
    Host.Outcome State Fault Refusal :=
  if !running s || !hostUp s || checkpointHolds s asid then .next s
  else
    let n := match store with | some bs => bs.length | none => len
    let l := linePieces va.toNat n
    let bad := firstSome (fun x => match hostSees s asid x.1 store.isSome with | .error e => some e | .ok _ => none) l
    if bad.isNone && l.any fun x => homeCut s 256 x.1 then .next s
    else match bad, store with
    | some e, _ =>
      let s := match e with | some ph => logViolation s ph mkHost 0 store.isSome | none => s
      .next (reply s hostError)
    | none, some bs =>
      let r := hostWrite s asid va.toNat bs l
      let rel := { r.1.rel with held := r.1.rel.held ++ [(r.2, [BitVec.ofNat 64 r.2])] }
      .next { r.1 with rel := giveAnswers rel r.1.gt }
    | none, none =>
      let r := hostRead s asid l
      .next (reply r.1 ((chunksOf (ceilDiv n 8) 8 r.2).map fun b => BitVec.ofNat 64 (ofBytes b)))

/-- Entries of two contexts may meet: they are the same, or one is ASID 0 (R86, R87, R336). -/
def asidsMeet (a b : BitVec 16) : Bool := a == b || a == 0 || b == 0

/-- A remote atomic to host memory of a range awaits its reply (R129, R338). -/
def rangeAsked (s : State) (asid : BitVec 16) (base size : Nat) : Bool :=
  (allGroups s).any fun h => asidsMeet (launchOfGroup s h).rcd.asid asid && (splitsOf s h.id).any fun p => p.request.any fun q =>
    (openLanes q).any fun y => placement y.va == 6 && decide (base ≤ y.va % 2 ^ 57 ∧ y.va % 2 ^ 57 < base + size)

/-- Lines of a range are pinned, or stores or atomics to it, or loads that are performed later, are on their way. -/
def rangeBusy (s : State) (asid : BitVec 16) (base size : Nat) : Bool :=
  let mine := fun (c : CLine) => asidsMeet c.asid asid && lineInRange 128 c.line base size && anyPinned c s.gt
  let late := fun (g : Group) => asidsMeet (launchOfGroup s g).rcd.asid asid && g.late.any fun y =>
    !y.lcl && y.elems.any fun e => decide (base ≤ e.2 % 2 ^ 57 ∧ e.2 % 2 ^ 57 < base + size)
  s.mem.l1.any mine || s.mem.cc.any mine || rangeAsked s asid base size || (allGroups s).any late ||
    s.mem.flight.any fun f => asidsMeet f.asid asid && base ≤ f.va % 2 ^ 57 && f.va % 2 ^ 57 < base + size

/-- Cached lines of a range go (R87, R338). -/
def purgeRange (s : State) (asid : BitVec 16) (base size : Nat) : State :=
  let s := mergeCore s fun u => asidsMeet u.asid asid && lineInRange 128 u.line base size
  let stay := fun (c : CLine) => !(asidsMeet c.asid asid && lineInRange 128 c.line base size)
  { s with mem := { s.mem with l1 := s.mem.l1.filter stay, cc := s.mem.cc.filter stay } }

/-- Those who wait for a range go on: logged stores are replayed, questions are answered (R91, R92, R336). -/
def answerRange (s : State) (r : URange) : State :=
  let inside := fun (page : Nat) => decide (r.base ≤ page * 4096 ∧ page * 4096 < r.base + r.size)
  let mine := fun (a : BitVec 16) => a == r.asid || r.asid == 0
  let pages := s.mem.side.foldl (fun l e => if mine e.asid && inside e.page then addOnce e.page l else l) []
  let s := pages.foldl (fun s g => replayPage s r.asid g) s
  { s with mem := { s.mem with asks := s.mem.asks.filter fun a => !(mine a.asid && inside a.page && a.page / 2 ^ 42 == 6) } }

/-- Two ranges overlap. -/
def rangesOverlap (a b : URange) : Bool := decide (a.base < b.base + b.size ∧ b.base < a.base + a.size)

/-- The MP installs, changes or removes a unified range (R87, R336, R338). The table is one per ASID: ranges of two contexts do not
restrict each other, since the frames behind them are those that R87 has the page table allow; one of ASID 0 is of every context. What
was cached or is on its way goes first, over the old range and the new one. -/
def execUnifiedRangeChange (asid : BitVec 16) (base : DWord) (size : Nat) (writable : Option Bool) (s : State) :
    Host.Outcome State Fault Refusal :=
  let b := base.toNat % 2 ^ 57
  let old := s.fab.uranges.filter fun r => r.asid == asid && r.base == b
  let rest := s.fab.uranges.filter fun r => !(r.asid == asid && r.base == b)
  let span := old.foldl (fun n r => max n r.size) size
  if s.dev.power != .on || rangeBusy s asid b span || checkpointHolds s asid then .next s
  else
    match writable with
    | none => let s := purgeRange s asid b span; .next { s with fab := { s.fab with uranges := rest } }
    | some w =>
      let r : URange := { asid := asid, base := b, size := size, writable := w }
      if size = 0 || size % 4096 != 0 || b % 4096 != 0 || placement b == 5 ||
          rest.any fun x => rangesOverlap x r && asidsMeet x.asid asid then .next s
      else
        let s := purgeRange s asid b span
        .next (answerRange { s with fab := { s.fab with uranges := rest ++ [r] } } r)

/-! ## Checkpoints (R345 to R348) -/

/-- The open queues of the contexts that a checkpoint names (R345). -/
def namedQueues (s : State) (asids : List (BitVec 16)) : List Nat :=
  (List.range 64).filter fun q => (queueAt s q).opened && match (queueAt s q).asid with
    | some a => asids.isEmpty || asids.contains a
    | none => false

/-- Opens or closes queues to placement (R345). -/
def setQueues (s : State) (qs : List Nat) (open_ : Bool) : State :=
  noteEligible (qs.foldl (fun s q => updQueue s q fun y => { y with opened := open_ }) s)

/-- A page's entry without its frame number. -/
def withoutPfn (p : Quad) : Quad := p &&& ~~~(BitVec.ofNat 128 ((2 ^ 24 - 1) * 2 ^ 77))
/-- A page's entry with a frame number. -/
def withPfn (p : Quad) (pfn : Nat) : Quad := withoutPfn p ||| BitVec.ofNat 128 (pfn % 2 ^ 24 * 2 ^ 77)

/-- The bytes of a page that are not zero, by offset. -/
def pageCells (ph : Sparse 8) (p : Quad) : List (Nat × Byte) :=
  ((List.range (4 ^ pteSize p)).zip (pageRuns p)).flatMap fun r =>
    (cellsIn ph r.2 (r.2 + 4096)).map fun c => (4096 * r.1 + (c.1 - r.2), c.2)

/-- A block's pages come once, under the first of its names (R347). -/
def pageKept (s : State) (p : Quad) : Bool :=
  !pteKv p || (match nameAt s (pteAsid p) (pageBase p) with
    | some n => (namesOn s n.block).head? == some n
    | none => false)

/-- A context's part of the image (R347); ASID 0 stands for the pages and ranges that every context shares. -/
def imageCtx (s : State) (asid : BitVec 16) : ImageCtx :=
  let ph := latestPhys s.mem
  let pages := (allPtes s).filter fun p => pteAsid p == asid && pageKept s p
  { asid := asid
    errq := (findCtx s asid).bind fun c => c.errq
    ctrPage := (findCtx s asid).bind fun c => c.ctrPage
    queues := ((List.range 64).map fun q => (q, queueAt s q)).filterMap fun e =>
      if e.2.asid = some asid then some (e.1, e.2.entries) else none
    counters := (s.sched.owners.filter fun o => o.2 == asid).map fun o => (o.1, counterOf s o.1)
    pages := pages.map fun p => (withoutPfn p, pageCells ph p)
    names := s.kv.names.filter fun n => n.asid == asid
    blocks := (s.kv.blocks.filter fun b => b.asid == asid).map fun b => { b with pfn := 0 }
    uranges := s.fab.uranges.filter fun r => r.asid == asid }

/-- The image is streamed to the safe tier, through a fabric port that carries, and the queues open again (R345). -/
def streamImage (s : State) (c : Checkpoint) : State :=
  if (List.range 16).any (portLive s) then
    let image := (0 :: (namedCtxs s c.asids).filter (· != 0)).map (imageCtx s)
    let s := { s with
      fab := { s.fab with images := s.fab.images.filter (fun e => e.1 != c.dest) ++ [(c.dest, image)] }
      dev := { s.dev with checkpoint := none } }
    setQueues s c.closed true
  else s

/-- A checkpoint goes on (R345): once no grid of its contexts runs, the image is streamed. -/
def stepCheckpoint (s : State) (c : Checkpoint) : State := if c.quiet then streamImage s c else s

/-- The limit of a checkpoint's wait, in ticks (R346). -/
def quiesceLimit (limit : Nat) : Option Nat :=
  if limit = 0 then some (2 ^ 32) else if 2 ^ 20 ≤ limit ∧ limit ≤ 2 ^ 40 then some limit else none

/-- A checkpoint request (R345, R346): it closes the queues; asked again, it goes on. -/
def execCheckpointRequest (asids : List (BitVec 16)) (to_ : SafePlace) (s : State) : Host.Outcome State Fault Refusal :=
  if s.dev.power != .on then .next s
  else
    match s.dev.checkpoint, quiesceLimit to_.limit with
    | some c, _ => .next (if c.asids = asids ∧ c.dest = to_.dest then stepCheckpoint s c else s)
    | none, some n =>
      let qs := namedQueues s asids
      let s := setQueues s qs false
      .next (noteQuiet { s with dev := { s.dev with
        checkpoint := some { asids := asids, dest := to_.dest, limit := s.gt + n, closed := qs, quiet := false } } })
    | none, none => .next s

/-- A checkpoint with a grid still running when its limit passed is abandoned (R346): the queues open, and the control node hears which
grids run. -/
def execCheckpointAbandon (s : State) : Host.Outcome State Fault Refusal :=
  match s.dev.checkpoint with
  | none => .next s
  | some c =>
    if c.quiet || decide (s.gt < c.limit) then .next s
    else
      let l := gridsOf s (namedCtxs s c.asids)
      let s := setQueues { s with dev := { s.dev with checkpoint := none } } c.closed true
      .next (reply s (l.map fun x => (launchField x).setWidth 64))

/-- The placement a page is restored in (R348): its own, or for a bay that is not healthy the one the request names. -/
def restorePlace (s : State) (places : List (Nat × Nat)) (k : Nat) : Option Nat :=
  if 4 ≤ k then (if s.dev.retired.any fun u => u.1 == 0x0A then none else some k)
  else if bayHealthy s k then some k
  else ((places.find? fun e => e.1 == k).map Prod.snd).filter fun j => j < 4 && bayHealthy s j

/-- A page's entry with another placement field. -/
def movePlace (p : Quad) (k : Nat) : Quad :=
  let tag := pteTag p % 2 ^ 42 + k * 2 ^ 42
  (p &&& ~~~(BitVec.ofNat 128 ((2 ^ 45 - 1) * 2 ^ 32))) ||| BitVec.ofNat 128 (tag * 2 ^ 32)

/-- Restores a page in free frames (R348); none if it cannot be. -/
def restorePage (places : List (Nat × Nat)) (acc : Option State) (e : Quad × List (Nat × Byte)) : Option State :=
  acc.bind fun s => (restorePlace s places (placement (pageBase e.1))).bind fun k =>
    let p := movePlace e.1 k
    (findFrames s (pageBase p) (pteSize p)).map fun pfn =>
      let p := withPfn p pfn
      let s := zeroPage s p
      let cells := e.2.map fun c => (physOf p (pageBase p + c.1), c.2)
      installPage { s with mem := { s.mem with phys := pokeBytes s.mem.phys cells } } p

/-- The frames of a restored block are those of its page. -/
def blockFrame (s : State) (names : List KvName) (b : KvBlock) : KvBlock :=
  match (names.find? fun n => n.block == b.id).bind fun n => translate s.mem n.asid n.va.toNat with
  | some p => { b with pfn := BitVec.ofNat 24 (ptePfn p) }
  | none => b

/-- The names of a context's blocks are mapped again (R106, R348). -/
def restoreBlocks (s : State) (x : ImageCtx) : State :=
  let first := 1 + s.kv.blocks.foldl (fun n b => max n b.id) s.sched.nextId
  let fresh := fun (id : Nat) => first + id
  let names := x.names.map fun n => { n with block := fresh n.block }
  let blocks := x.blocks.map fun b => blockFrame s names { b with id := fresh b.id }
  let top := blocks.foldl (fun n b => max n (b.id + 1)) s.sched.nextId
  let s := { s with
    sched := { s.sched with nextId := top }
    kv := { s.kv with names := s.kv.names ++ names, blocks := s.kv.blocks ++ blocks } }
  blocks.foldl (fun s b => remapBlock s b.id) s

/-- A restored context has the error queue and the page of counters of its image (R347, R348); the start number in the queue's header is
this device's (R352). -/
def restoreRings (s : State) (x : ImageCtx) : State :=
  match x.errq with
  | none => admitCtx s x.asid
  | some r =>
    let s := if (findCtx s x.asid).isSome then s
      else { s with sched := { s.sched with ctxs := s.sched.ctxs ++ [newCtx s x.asid] } }
    let s := updCtx s x.asid fun c =>
      { c with errq := some r, ctrPage := x.ctrPage, closing := none, due := false, gone := false, killedGangs := 0 }
    mpWrite s r.asid (r.va.toNat + 12) (toBytes 4 s.dev.startNo.toNat)

/-- The pages of an image that a restore brings: of those that every context shares, the ones the device has not mapped already, since those
in use stay as they are (R348; log 185). -/
def pagesToRestore (acc : Option State) (x : ImageCtx) : List (Quad × List (Nat × Byte)) :=
  x.pages.filter fun e => x.asid != 0 || !(acc.any fun s => (translate s.mem 0 (pageBase e.1)).isSome)

/-- The ranges of an image that a restore brings, alike. -/
def rangesToRestore (s : State) (x : ImageCtx) : List URange :=
  x.uranges.filter fun r => x.asid != 0 || !(s.fab.uranges.any fun y => rangesOverlap y r && asidsMeet y.asid r.asid)

/-- Restores a context, or what all share (R348): none if it cannot be. -/
def restoreCtx (places : List (Nat × Nat)) (acc : Option State) (x : ImageCtx) : Option State :=
  ((pagesToRestore acc x).foldl (restorePage places) acc).map fun s =>
    let s := if x.asid = 0 then s else restoreBlocks (restoreRings s x) x
    let s := x.queues.foldl (fun s q => updQueue s q.1 fun y => { y with
      asid := some x.asid, opened := true
      entries := q.2.map fun e => { e with since := none, prio7 := none, placed := 0, running := none }
      nextPos := q.2.foldl (fun n e => max n (e.pos + 1)) y.nextPos }) s
    let s := x.counters.foldl (fun s c => { s with sched := { s.sched with
      owners := s.sched.owners ++ [(c.1, x.asid)], counters := poke s.sched.counters c.1 c.2 } }) s
    noteEligible { s with fab := { s.fab with uranges := s.fab.uranges ++ rangesToRestore s x } }

/-- The device has room for a context of an image: no page, name, queue or counter of it is in use. What every context shares has room. -/
def mayRestore (s : State) (x : ImageCtx) : Bool :=
  (x.asid == 0 || !((allPtes s).any fun p => pteAsid p == x.asid)) && !(s.kv.names.any fun n => n.asid == x.asid) &&
    !(s.launches.any fun l => l.rcd.asid == x.asid) &&
    x.queues.all (fun q => (queueAt s q.1).entries.isEmpty) &&
    x.counters.all fun c => !(s.sched.owners.any fun o => o.1 == c.1)

/-- A restore (R348) of the image at a place of the safe tier, this device's or another's: the whole image, or nothing, and only on a
device with a healthy bay; one that is not on answers nothing (R31). -/
def execRestoreRequest (place : Nat) (places : List (Nat × Nat)) (s : State) : Host.Outcome State Fault Refusal :=
  match s.fab.images.find? fun e => e.1 == place with
  | none => .next s
  | some (_, l) =>
    if s.dev.power != .on then .next s
    else if !((List.range 4).any (bayHealthy s)) || !(l.all (mayRestore s)) then .next (reply s [1])
    else
      match l.foldl (restoreCtx places) (some s) with
      | some t => .next (reply t [0])
      | none => .next (reply s [1])

end Sys2Proof.Machine
end

