-- ==== Sys2Proof/Machine/Retrieval.lean ====
section
/-! DEFINITION. Retrieval tables: families, projections, and the commands of the retrieval engine (R295 to R305). -/

namespace Sys2Proof.Machine

/-! ## Families (R295, R296) -/

/-- The fields of a family record at a VA, from its 32 words (R295). -/
def parseFamily (ws : List Word) (va : DWord) : FRec :=
  let w := fun (k : Nat) => ws.getD k 0
  { explicit := (w 0).getLsbD 0, k := fieldOf (w 0) 15 8, l := fieldOf (w 0) 20 16
    policy := (w 0).extractLsb' 24 2, d := fieldOf (w 1) 12 0, seed := wordPair ws 2, tbase := wordPair ws 4
    spillv := wordPair ws 6, spillcap := (w 8).toNat, rehash := (w 10).getLsbD 0, oldfam := wordPair ws 12
    weight := wordPair ws 14, va := va }

/-- The checks of a family record (R295, R296). -/
def familyOk (ws : List Word) : Bool :=
  let r := parseFamily ws 0
  let w := fun (k : Nat) => ws.getD k 0
  fieldOf (w 1) 31 24 == 1 && decide (3 ≤ r.k ∧ r.k ≤ 20) && decide (1 ≤ r.l ∧ r.l ≤ 16) && r.policy != 3 &&
    decide (1 ≤ r.d ∧ r.d ≤ 4096) && r.tbase.toNat % 64 == 0 && r.spillv.toNat % 16 == 0 &&
    fieldOf (w 0) 7 1 == 0 && fieldOf (w 0) 23 21 == 0 && fieldOf (w 0) 31 26 == 0 && fieldOf (w 1) 23 13 == 0 &&
    fieldOf (w 10) 31 1 == 0 && w 11 == 0 && (ws.drop 16).all (· == 0)

/-- Loads a family record and goes on in `k` with its words (R296). -/
def withFamilyRecord (s : State) (va : Nat) (k : State → List Word → Res) : Res :=
  if va % 128 ≠ 0 then raiseExec s 0x10 (BitVec.ofNat 64 va)
  else
    whenReady s (blockAccess va 128) fun s =>
      let r := readAll s (blockAccess va 128).elems 8 true
      if r.2.any fun e => e.2.2 then raisePoison r.1 (blockAccess va 128) r.2
      else k r.1 ((blockValues r.2).flatMap wordsOf)

/-- Puts a family into a family register. -/
def setFamily (s : State) (n : Nat) (f : Fam) : State :=
  { s with tm := { s.tm with fams := updateAt s.tm.fams n fun _ => some f } }

/-- `lshfam` (R296). -/
def loadFamily (x : Args) (s : State) : Res :=
  let va := (pairOf s x.a + (scalar32 s x x.b).signExtend 64).toNat
  withFamilyRecord s va fun s ws =>
    let r := parseFamily ws (BitVec.ofNat 64 va)
    if !familyOk ws then raiseExec s 0x17 r.va
    else if !r.rehash then .done (setFamily s x.d.toNat { new := r, old := none })
    else
      withFamilyRecord s r.oldfam.toNat fun s os =>
        let o := parseFamily os r.oldfam
        if !familyOk os || o.rehash || o.l != r.l || o.d != r.d then raiseExec s 0x17 r.va
        else .done (setFamily s x.d.toNat { new := r, old := some o })

/-- A meaning that names a family: an empty one raises 0x17 (R296, R393). -/
def withFamily (s : State) (f : Src) (k : Fam → Res) : Res :=
  match s.tm.fams.getD (fieldNum f) none with
  | some y => k y
  | none => raiseExec s 0x17 (BitVec.ofNat 64 (16 + fieldNum f))

/-! ## Projection (R297) -/

/-- Whether entry r(t, j, i) of a family is −1; `m` holds the bits of an explicit matrix (R297). -/
def entryNeg (f : FRec) (m t j i : Nat) : Bool :=
  if f.explicit then (m / 2 ^ ((t * f.k + j) * f.d + i)) % 2 == 1
  else ((philox f.seed (BitVec.ofNat 128 (i / 4 + 2 ^ 64 * (32 * t + j)))).getD (i % 4) 0).msb

/-- Bytes of a family's explicit matrix. -/
def matrixBytes (f : FRec) : Nat := if f.explicit then ceilDiv (f.l * f.k * f.d) 8 else 0

/-- A finite value as an integer in units of 2^-149; no element of a projection is finer. -/
def units149 : Val → Int
  | .fin n mag e => signedAt n mag e (-149)
  | _ => 0

/-- Inputs that make every key invalid: a NaN, or infinities of both signs (R297). -/
def inputsBad (xs : List Val) : Bool :=
  xs.any Val.isNan || (xs.any (fun v => v.isInf && v.neg) && xs.any fun v => v.isInf && !v.neg)

/-- A key bit (R297): whether the sum is at least 0; none if its infinite terms have both signs. -/
def keyBit (f : FRec) (m t j : Nat) (xs : List Val) : Option Bool :=
  let r := ((List.range xs.length).zip xs).map fun p => if entryNeg f m t j p.1 then p.2.negate else p.2
  let down := r.any fun v => v.isInf && v.neg
  let up := r.any fun v => v.isInf && !v.neg
  if down && up then none
  else if down then some false
  else if up then some true
  else some (decide (0 ≤ (r.map units149).foldl (· + ·) 0))

/-- The key of some inputs in a table, and whether it is invalid (R297). -/
def keyOfTable (f : FRec) (m : Nat) (xs : List Val) (t : Nat) : Nat × Bool :=
  let bits := (List.range f.k).map fun j => keyBit f m t j xs
  if inputsBad xs || bits.any Option.isNone then (0, true)
  else (bits.foldr (fun b a => (if b = some true then 1 else 0) + 2 * a) 0, false)

/-- Reads a family's explicit matrix by loads of the group, and goes on in `k` with its bits. -/
def withMatrix (s : State) (f : FRec) (k : State → Nat → Res) : Res :=
  let acc : Access :=
    { elems := (List.range (matrixBytes f)).map fun i => { lane := 0, va := (f.seed.toNat + i) % 2 ^ 64 }
      size := 1, write := false, scalar := true }
  match tryLoad s acc true with
  | .error r => r
  | .ok (s, l) =>
    if l.any fun e => e.2.2 then raisePoison s acc l
    else k s (ofBytes (l.flatMap fun e => e.2.1))

/-- The elements of `lshproj`, from scratchpad. -/
def projInputs (s : State) (ty : Ty) (a d : Nat) : List Val :=
  (chunksOf d (ty.bits / 8) (lclRead s s.tm.id a (d * (ty.bits / 8)))).map fun b => tyValue ty (ofBytes b)

/-- Whether `lshproj` of the split in focus is granted its token now (R323): the share of its bay holds one more, and no earlier
request waits. -/
def tokenNow (s : State) : Bool :=
  let bay := bayOf s.tm.core
  let age := if s.sp.wait = some .token then s.sp.since else s.gt
  decide (bayHeld s bay + 1 ≤ bayShare s bay) && !olderWaits s age s.tm.core

/-- `lshproj` uses a band of the array, with a token, for ⌈D / 64⌉ cycles (R298). -/
def holdBand (s : State) (band d : Nat) : State :=
  { (newId s).1 with mx := { s.mx with passes := s.mx.passes ++
    [{ id := s.sched.nextId, core := s.tm.core, stream := 0, quarters := [], tokens := 1, till := s.gt + ceilDiv d 64
       band := some band }] } }

/-- `lshproj` (R297, R298). Once what it reads may be read it asks for one power token and one band, and keeps its place among the requests
while it waits for either (R323). -/
def projectBody (x : Args) (s : State) : Res :=
  if s.exec = 0 then .done s
  else
    withFamily s x.a fun f =>
      let a := (scalar32 s x x.b).toNat
      let n := f.new.d * (x.ty.bits / 8)
      lclRegion s a 1 n (lclRange s a n false) fun s =>
        match poisonedElem s a n (x.ty.bits / 8) with
        | some e => raiseExec s 0x15 (BitVec.ofNat 64 e)
        | none =>
        withMatrix s f.new fun u m => withMatrix u (f.old.getD f.new) fun u mo =>
          if !tokenNow s || (freeBands s s.tm.core).isEmpty then .wait .token s
          else
            let xs := projInputs s x.ty a f.new.d
            let new := fun (l : Nat) => keyOfTable f.new m xs l
            let old := fun (l : Nat) => match f.old with | some o => keyOfTable o mo xs l | none => new l
            let within := fun (l : Nat) => decide (l < f.new.l)
            withFlags u (fun l => flagIf (within l && ((new l).2 || (old l).2)) fNV)
              (writeVec (holdBand u ((freeBands u u.tm.core).headD 0) f.new.d) x 64 fun l =>
                if within l then (new l).1 + 2 ^ 32 * (old l).1 else 0)

/-! ## Commands: acceptance (R299 to R304) -/

/-- The key lanes of a vector register: lanes 0 to L − 1 (R300). -/
def keyLanes (s : State) (r l : Nat) : List Word := (List.range l).map fun k => getV s r k

/-- Poisoned key lanes raise 0x15 (R229, R300). -/
def cleanKeys (s : State) (r l : Nat) (k : Res) : Res :=
  let bad := s.g.poison.filter fun p => (p.1 / 32 == r || p.1 / 32 == r + 1) && decide (p.1 < 8192 ∧ p.1 % 32 < l)
  if bad.isEmpty then k else .raise (poisonTrap s bad) s

/-- No flags. -/
def EFlags.none : EFlags := { acq := .none, rel := .none, bar := .none, pitch := 0 }

/-- `lshprobe` (R300); the bitmap may reach to the end of its allocation. -/
def probeBody (x : Args) (s : State) : Res :=
  let n := fieldNum x.c
  let la := (getS s n).toNat
  let bm := (getS s (n + 1)).toNat
  let c := (getS s (n + 2)).toNat
  let r := fieldNum x.b
  withFamily s x.a fun f =>
    if c = 0 ∨ 1024 < c then raiseEncoding (.lshprobe x) s
    else
      cleanKeys s r f.new.l <|
        lclRegion s la 1 (4 * c) [] fun s =>
          lclRegion s bm 1 1 [] fun s =>
            let rest := match lclTeamOf s s.tm.id bm with
              | some k => (findTeam s k).lds - lclOff bm
              | none => 0
            accept x s
              (.probe f (keyLanes s r f.new.l) (keyLanes s (r + 1) f.new.l) (BitVec.ofNat 32 la) (BitVec.ofNat 32 bm) c)
              EFlags.none (lclRange s la (4 * c) true ++ lclRange s bm rest true)

/-- `lshins` and `lshdel` (R301). -/
def updateBody (i : Shape) (x : Args) (ins : Bool) (s : State) : Res :=
  let r := fieldNum x.b
  let row := scalar32 s x x.c
  withFamily s x.a fun f =>
    if row = 0xFFFFFFFF then raiseEncoding i s
    else
      let keys := keyLanes s r f.new.l
      let olds := keyLanes s (r + 1) f.new.l
      cleanKeys s r f.new.l <|
        accept x s (if ins then .insert f keys olds row else .delete f keys olds row) EFlags.none []

/-- `lshstep` (R303). -/
def stepBody (x : Args) (s : State) : Res :=
  let n := (scalar32 s x x.b).toNat
  withFamily s x.a fun f =>
    if n = 0 ∨ 4096 < n then raiseEncoding (.lshstep x) s else accept x s (.migrate f n) EFlags.none []

/-- `lshstat` (R304). -/
def statBody (x : Args) (s : State) : Res :=
  let t := (scalar32 s x x.b).toNat
  withFamily s x.a fun f =>
    if f.new.l ≤ t then raiseEncoding (.lshstat x) s else accept x s (.stat f t) EFlags.none []

/-! ## Buckets and spill entries (R295) -/

/-- The VA of a bucket; only the low K bits of a key count (R302). -/
def bucketVa (f : FRec) (t key : Nat) : Nat := (f.tbase.toNat + 64 * (t * 2 ^ f.k + key % 2 ^ f.k)) % 2 ^ 64

/-- The row ids of a bucket, in slot order. -/
def bucketIds (b : Nat) : List Nat := (List.range (b % 16)).map fun k => b / 2 ^ (32 + 32 * k) % 2 ^ 32
/-- OVF of a bucket. -/
def bucketOvf (b : Nat) : Bool := b / 16 % 2 == 1
/-- FRZ of a bucket. -/
def bucketFrz (b : Nat) : Bool := b / 32 % 2 == 1

/-- A bucket after an update: its ids, its marks, SEQ one more (R295). DESIGN CHOICE: the slots of ids from COUNT on are zero after every
update (log 206). -/
def bucketWith (b : Nat) (ids : List Nat) (ovf frz : Bool) : Nat :=
  ids.length + (if ovf then 16 else 0) + (if frz then 32 else 0) + 2 ^ 8 * ((b / 2 ^ 8 + 1) % 2 ^ 24) +
    2 ^ 32 * ids.foldr (fun i a => i + 2 ^ 32 * a) 0

/-- The spill entries of a table and key, in spill order: row id and VA of the entry (R295). -/
def Work.spilled (x : Work) (e : Engine) (f : FRec) (t key : Nat) : Work × List (Nat × Nat) :=
  let base := f.spillv.toNat
  let n := x.read e base 8
  (List.range (min n.2 f.spillcap)).foldl (fun (a : Work × List (Nat × Nat)) k =>
    let va := (base + 16 + 16 * k) % 2 ^ 64
    let v := a.1.read e va 16
    let id := v.2 / 2 ^ 64 % 2 ^ 32
    if v.2 % 2 ^ 64 = t + 2 ^ 32 * (key % 2 ^ f.k) ∧ id ≠ 0xFFFFFFFF then (v.1, a.2 ++ [(id, va)]) else (v.1, a.2))
    (n.1, [])

/-- The row ids of a bucket that has been read, with those of its spill entries (R300, R303). -/
def Work.allIds (x : Work) (e : Engine) (f : FRec) (t key b : Nat) : Work × List Nat :=
  if bucketOvf b && f.policy == 2 then
    let r := x.spilled e f t key
    (r.1, bucketIds b ++ r.2.map Prod.fst)
  else (x, bucketIds b)

/-- The VA of a family's CURSOR. -/
def cursorVa (f : FRec) : Nat := (f.va.toNat + 0x24) % 2 ^ 64

/-- Whether a table's old bucket is the one to use, by CURSOR (R302), and the old family. -/
def Work.useOld (x : Work) (e : Engine) (f : Fam) (old : Nat) : Work × Option FRec × Nat :=
  match f.old with
  | none => (x, none, 0)
  | some o =>
    let c := x.read e (cursorVa f.new) 4
    (c.1, if old % 2 ^ o.k < c.2 then none else some o, c.2)

/-! ## Updates (R301) -/

/-- How an update of one table ends: the ids stored or removed, with code 0, 1 or 2; or its bucket is frozen. -/
inductive Updated where
  | did (x : Work) (count code : Nat)
  | frozen (x : Work)

/-- Inserts a row id into a bucket (R301). An old bucket that is frozen is not touched. -/
def Work.insert (x : Work) (e : Engine) (f : FRec) (old : Bool) (t key row : Nat) : Updated :=
  let new := fun (b : Nat) =>
    let ids := bucketIds b
    if old && bucketFrz b then none
    else if ids.length < 15 then some (bucketWith b (ids ++ [row]) (bucketOvf b) (bucketFrz b))
    else some (bucketWith b (if f.policy = 1 then ids.drop 1 ++ [row] else ids) true (bucketFrz b))
  let r := x.atomic e (bucketVa f t key) 64 new
  if r.1.stop.isSome then .did r.1 0 0
  else if old && bucketFrz r.2 then .frozen r.1
  else if (bucketIds r.2).length < 15 then .did r.1 1 0
  else if f.policy = 1 then .did r.1 1 2
  else if f.policy = 2 then
    let base := f.spillv.toNat
    let n := r.1.atomic e base 8 fun n => some ((n + 1) % 2 ^ 64)
    if n.2 < f.spillcap then
      let y := n.1.atomic e (base + 16 + 16 * n.2) 16 fun _ => some (t + 2 ^ 32 * (key % 2 ^ f.k) + 2 ^ 64 * row)
      .did y.1 1 0
    else .did n.1 0 1
  else .did r.1 0 1

/-- Removes every occurrence of a row id from a bucket, or, if there is none, from its spill entries (R301). DESIGN CHOICE: whether the id is in
no bucket is decided for each table by itself (log 165). -/
def Work.delete (x : Work) (e : Engine) (f : FRec) (old : Bool) (t key row : Nat) : Updated :=
  let new := fun (b : Nat) =>
    let ids := bucketIds b
    let keep := ids.filter (· ≠ row)
    if (old && bucketFrz b) || keep.length = ids.length then none
    else some (bucketWith b keep (bucketOvf b) (bucketFrz b))
  let r := x.atomic e (bucketVa f t key) 64 new
  let ids := bucketIds r.2
  let gone := ids.length - (ids.filter (· ≠ row)).length
  if r.1.stop.isSome then .did r.1 0 0
  else if old && bucketFrz r.2 then .frozen r.1
  else if 0 < gone then .did r.1 gone 0
  else if bucketOvf r.2 && f.policy == 2 then
    let l := r.1.spilled e f t key
    let hits := l.2.filter fun p => p.1 == row
    .did (hits.foldl (fun x p => (x.atomic e p.2 16 fun v => some (v ||| 0xFFFFFFFF * 2 ^ 64)).1) l.1) hits.length 0
  else .did r.1 0 0

/-! ## Results (R299) -/

/-- The code of a result word that an engine's code stands for (R299). -/
def retrievalCode (c : BitVec 8) : Nat := if c = 1 ∨ c = 8 then 5 else if c = 7 then 7 else 6

/-- The result word (R299). -/
def resultWord (code : Nat) (more inv : Bool) (count : Nat) : Word :=
  BitVec.ofNat 32 (code + (if more then 2 ^ 8 else 0) + (if inv then 2 ^ 9 else 0) + 2 ^ 16 * (count % 2 ^ 16))

/-- A retrieval command writes its registers and ends (R299); codes 5 to 9 write a record, and poisoned data roll a
launch under REPLAY back (R390). -/
def finishRetrieval (s : State) (c : Cmd) (w code count : Nat) (words : List Word) (addr : Nat) : State :=
  let s := settleRegs (noteW (dropCmd s c.id) c.gid w) c.gid c.dest words
  let s := if code < 5 then s
    else
      writeRecord s { cmdRcd s c (Rcd.blank 0x03) with
        code := BitVec.ofNat 8 code, addr := BitVec.ofNat 64 addr, extra := BitVec.ofNat 32 (count % 2 ^ 16) }
  let l := launchOfGroup s (findGroup s c.gid)
  if code = 7 ∧ !l.rcd.report ∧ l.id ≠ 0 then startRollback s l.id else s

/-- The code and address of work that has stopped, and the code otherwise. -/
def Work.endCode (x : Work) (code : Nat) : Nat × Nat :=
  match x.stop with
  | some (.code k a _) => (retrievalCode k, a)
  | _ => (code, 0)

/-- Ends a command whose work is done or has failed; if the work asks, the command begins again later. -/
def endRetrieval (s : State) (c : Cmd) (x : Work) (code : Nat) (more inv : Bool) (count : Nat) (before : List Word) :
    State :=
  match x.stop with
  | some (.ask t) => askOnly s t
  | _ =>
    let k := x.endCode code
    finishRetrieval x.s c x.w k.1 count (before ++ [resultWord k.1 more inv count]) k.2

/-! ## The probe (R300) -/

/-- The list of a probe as it grows: the ids appended, whether one more was found when it was full, and the address of a poisoned byte of
the bitmap that it has read. -/
structure Found where
  ids : List Nat
  more : Bool
  bad : Option Nat
  deriving DecidableEq, Repr

/-- The address of a row id's visited bit. -/
def visitedAt (bm id : Nat) : Nat := (bm + id / 8) % 2 ^ 32

/-- Whether a row id's visited bit is set; a bit outside the allocation counts as clear (log 30). -/
def visited (s : State) (c : Cmd) (bm id : Nat) : Bool :=
  let a := visitedAt bm id
  lclInRange s c.tid a 1 && ((lclRead s c.tid a 1).headD 0).getLsbD (id % 8)

/-- Takes some ids into the list of a probe, up to a poisoned byte of its bitmap (R229, R299). -/
def Found.take (s : State) (c : Cmd) (bm cap : Nat) (y : Found) (ids : List Nat) : Found :=
  ids.foldl (fun y id =>
    if y.more || y.bad.isSome || y.ids.contains id then y
    else if lclInRange s c.tid (visitedAt bm id) 1 && lclPoisoned s c.tid (visitedAt bm id) 1 then
      { y with bad := some (visitedAt bm id) }
    else if visited s c bm id then y
    else if y.ids.length = cap then { y with more := true }
    else { y with ids := y.ids ++ [id] }) y

/-- The spill entries of a table and key in spill order, each read only while the list still looks for an id (R300). -/
def spillTake (c : Cmd) (e : Engine) (r : FRec) (bm cap t key : Nat) (x : Work) (y : Found) : Work × Found :=
  let base := r.spillv.toNat
  let n := x.read e base 8
  (List.range (min n.2 r.spillcap)).foldl (fun (a : Work × Found) k =>
    if a.1.stop.isSome || a.2.more || a.2.bad.isSome then a
    else
      let v := a.1.read e ((base + 16 + 16 * k) % 2 ^ 64) 16
      let id := v.2 / 2 ^ 64 % 2 ^ 32
      (v.1, if v.1.stop.isNone && decide (v.2 % 2 ^ 64 = t + 2 ^ 32 * (key % 2 ^ r.k)) && id != 0xFFFFFFFF then
        a.2.take v.1.s c bm cap [id] else a.2)) (n.1, y)

/-- One table of a probe (R300, R302): CURSOR, the bucket, and, unless the list has found its further id, the spill entries. -/
def probeTable (c : Cmd) (e : Engine) (f : Fam) (keys olds : List Word) (bm cap t : Nat) (x : Work) (y : Found) : Work × Found :=
  let u := x.useOld e f (olds.getD t 0).toNat
  let r := u.2.1.getD f.new
  let key := if u.2.1.isSome then (olds.getD t 0).toNat else (keys.getD t 0).toNat
  let b := u.1.read e (bucketVa r t key) 64
  if b.1.stop.isSome then (b.1, y)
  else
    let z := y.take b.1.s c bm cap (bucketIds b.2)
    if z.more || z.bad.isSome || !(bucketOvf b.2 && r.policy == 2) then (b.1, z) else spillTake c e r bm cap t key b.1 z

/-- How far a probe has come, as the command's `done` holds it: the next table, MORE, the list. -/
def Found.pack (y : Found) (t : Nat) : List Nat := t :: y.more.toNat :: y.ids
/-- The list of a probe from the command's `done`, and the next table. -/
def Found.unpack (l : List Nat) : Nat × Found := (l.headD 0, { ids := l.drop 2, more := l.getD 1 0 == 1, bad := none })

/-- One turn of `lshprobe` (R300, R305): one table at one tick; with the last the list is written, and the visited bits it set are
clear again. -/
def runProbe (c : Cmd) (e : Engine) (f : Fam) (keys olds : List Word) (la bm cap : Nat) (s : State) : State :=
  let p := Found.unpack c.done
  let r := probeTable c e f keys olds bm cap p.1 (Work.start s c.w) p.2
  let r := match r.2.bad with | some a => (r.1.halt e (.code 7 a false), r.2) | none => r
  match r.1.stop with
  | some (.ask t) => askOnly s t
  | k =>
    if k.isNone && !r.2.more && decide (p.1 + 1 < f.new.l) then
      updCmd r.1.s c.id fun c => { c with done := r.2.pack (p.1 + 1) }
    else
      let list := r.2.ids ++ List.replicate (cap - r.2.ids.length) 0xFFFFFFFF
      let s := engineLcl r.1.s c.tid la (list.flatMap (toBytes 4))
      endRetrieval s c { r.1 with s := s } 0 r.2.more false r.2.ids.length []

/-! ## Insert and delete (R301, R302) -/

/-- What a command's `done` holds for a table: the table, its code, the ids stored or removed. -/
def doneEntry (t code count : Nat) : Nat := t + 16 * (code + 4 * count)

/-- The code and count of the tables a command has done (R301). -/
def doneResult (l : List Nat) : Nat × Nat :=
  let codes := l.map fun d => d / 16 % 4
  (if codes.contains 1 then 1 else if codes.contains 2 then 2 else 0, (l.map fun d => d / 64).foldl (· + ·) 0)

/-- Works through the tables of an insert or delete, and ends it, or leaves it waiting at a frozen bucket. The wait on a bucket is over once
CURSOR has passed its key, and the next one counts from its own first reading of FRZ (R302). -/
def updateTables (c : Cmd) (e : Engine) (f : Fam) (keys olds : List Word) (row : Nat) (ins : Bool) :
    List Nat → State → Nat → List Nat → State
  | [], s, w, done => endRetrieval s c (Work.start s w) (doneResult done).1 false false (doneResult done).2 []
  | t :: rest, s, w, done =>
    if done.any fun d => d % 16 == t then updateTables c e f keys olds row ins rest s w done
    else
      let u := (Work.start s w).useOld e f (olds.getD t 0).toNat
      let r := u.2.1.getD f.new
      let old := u.2.1.isSome
      let key := if old then (olds.getD t 0).toNat else (keys.getD t 0).toNat
      match (if ins then u.1.insert e r old t key row else u.1.delete e r old t key row) with
      | .did x count code =>
        match x.stop with
        | some (.ask y) =>
          updCmd (askOnly s y) c.id fun m => { m with
            done := done, w := w, frozen := if u.1.stop.isNone && !old then none else c.frozen }
        | some (.code _ _ _) => endRetrieval s c x 0 false false (doneResult done).2 []
        | none => updateTables { c with frozen := none } e f keys olds row ins rest x.s x.w (done ++ [doneEntry t code count])
      | .frozen x =>
        let since := match c.frozen with
          | some (tick, cur) => if cur < u.2.2 then (x.s.gt, u.2.2) else (tick, cur)
          | none => (x.s.gt, u.2.2)
        updCmd x.s c.id fun c => { c with done := done, w := w, frozen := some since }

/-- The family a retrieval command names. -/
def CmdKind.family : CmdKind → Option Fam
  | .probe f .. | .insert f .. | .delete f .. | .migrate f _ | .stat f _ => some f
  | _ => none

/-- The CURSOR that a command waits on. -/
def waitCursor (c : Cmd) : Nat := match c.kind.family with | some f => cursorVa f.new | none => 0

/-- That CURSOR as it now is at its home. -/
def cursorNow (s : State) (c : Cmd) : Nat :=
  let va := waitCursor c
  if isFar va then ofBytes (farBytes s (enginePort s va) c.asid va 4)
  else match translate s.mem c.asid va with
    | some p => ofBytes (currentBytes s.mem (physOf p va) 4)
    | none => 0

/-- The tick at which it came to be so since a state before: the last W, come since, of the writes pending on it there, or that state's
tick. -/
def cursorTick (s s' : State) (c : Cmd) : Nat :=
  match translate s.mem c.asid (waitCursor c) with
  | some p =>
    let a := physOf p (waitCursor c)
    (s.mem.pend.filter fun w => decide (w.w ≤ s'.gt) && w.bytes.any fun b => decide (a ≤ b.1 ∧ b.1 < a + 4)).foldl (fun n w => max n w.w) s.gt
  | none => s.gt

/-- Ticks have passed since a state: where a CURSOR has risen, whoever wrote it, the watchdogs of the commands that wait on a frozen bucket of
its family count from that rise on (R302, R399). -/
def noteCursors (s s' : State) : State :=
  if (s'.eng.cmds.all fun c => c.frozen.isNone) then s'
  else { s' with eng := { s'.eng with cmds := s'.eng.cmds.map fun c =>
    if (c.frozen.any fun z => decide (z.2 < cursorNow s' c)) then { c with frozen := some (cursorTick s s' c, cursorNow s' c) } else c } }

/-! ## Migration (R303) -/

/-- The weight record of a family (R303): none if it is not as it must be. -/
def Work.weight (x : Work) (e : Engine) (f : FRec) : Work × Option TRec :=
  let va := f.weight.toNat
  if va % 128 ≠ 0 then (x, none)
  else
    let r := x.read e va 128
    let ws := toWords 32 r.2
    let h := parseTensor ws
    if r.1.stop.isNone && tensorOk ws && h.dense && h.rank == 2 && h.dimOf 0 == f.d && !h.bs &&
        [0, 1, 2, 6].contains h.efmt.toNat then (r.1, some h)
    else (r.1, none)

/-- The inputs of a row of the weight tensor (R104, R303). -/
def Work.row (x : Work) (e : Engine) (h : TRec) (d id : Nat) : Work × List Val :=
  let ty := fmtTy h.efmt.toNat
  (List.range d).foldl (fun (a : Work × List Val) i =>
    match resolve h [(i : Int), (id : Int)] with
    | none => (a.1, a.2 ++ [tyValue ty (fillValue h)])
    | some cs =>
      let v := a.1.read e (denseVa h cs) h.size
      (v.1, a.2 ++ [tyValue ty v.2])) (x, [])

/-- Progress of a migration: the work, the keys migrated, codes, INV. -/
structure Migration where
  x : Work
  count : Nat
  codes : List Nat
  inv : Bool

/-- One row id of an old bucket goes to its new key in a table. -/
def Migration.row (y : Migration) (e : Engine) (f : FRec) (h : TRec) (m t id : Nat) : Migration :=
  if y.x.stop.isSome then y
  else
    let r := y.x.row e h f.d id
    let bad := (List.range f.l).any fun k => (keyOfTable f m r.2 k).2
    let key := if bad then 0 else (keyOfTable f m r.2 t).1
    match r.1.insert e f false t key id with
    | .did x _ code => { y with x := x, codes := if x.stop.isSome then y.codes else code :: y.codes, inv := y.inv || bad }
    | .frozen x => { y with x := x }

/-- Writes CURSOR with a W larger than those of every insert before it (R303). -/
def Work.advance (x : Work) (e : Engine) (f : FRec) (v : Nat) : Work :=
  let va := cursorVa f
  match (if isFar va then none else translate x.s.mem e.asid va) with
  | none => x.write e va (toBytes 4 v)
  | some p =>
    let h := homeLine x.s.mem (pteAsid p) (lineOf va)
    let late := { h with wlast := some (match h.wlast with | some k => max k x.w | none => x.w) }
    let s := if x.stop.isSome then x.s else { x.s with mem := setHomeLine x.s.mem late }
    ({ x with s := s }).write e va (toBytes 4 v)

/-- One old key: its buckets are frozen and read, their ids inserted, and CURSOR moves on (R303). -/
def Migration.key (y : Migration) (e : Engine) (f o : FRec) (h : TRec) (m c : Nat) : Migration :=
  let r := (List.range f.l).foldl (fun (a : Work × List (Nat × Nat)) t =>
    let b := a.1.atomic e (bucketVa o t c) 64 fun b => some (bucketWith b (bucketIds b) (bucketOvf b) true)
    (b.1, a.2 ++ [(t, b.2)])) (y.x, [])
  let z := r.2.foldl (fun (y : Migration) p =>
    let l := y.x.allIds e o p.1 c p.2
    l.2.foldl (fun y id => y.row e f h m p.1 id) { y with x := l.1 }) { y with x := r.1 }
  let x := z.x.advance e f (c + 1)
  { z with x := x, count := if x.stop.isSome then z.count else z.count + 1 }

/-- `lshstep` as a whole (R303). -/
def runStep (c : Cmd) (e : Engine) (f : Fam) (n : Nat) (s : State) : State :=
  match f.old with
  | none => endRetrieval s c (Work.start s c.w) 4 false false 0 []
  | some o =>
    let w := (Work.start s c.w).weight e f.new
    match w.1.stop, w.2 with
    | none, none => finishRetrieval w.1.s c c.w 9 0 [resultWord 9 false false 0] f.new.weight.toNat
    | _, none => endRetrieval s c w.1 0 false false 0 []
    | _, some h =>
      let m := if matrixBytes f.new = 0 then (w.1, 0) else w.1.read e f.new.seed.toNat (matrixBytes f.new)
      let cur := m.1.read e (cursorVa f.new) 4
      let stop := min (cur.2 + n) (2 ^ o.k)
      let y := (List.range (stop - cur.2)).foldl (fun (y : Migration) i =>
        if y.x.stop.isSome then y else y.key e f.new o h m.2 (cur.2 + i))
        { x := cur.1, count := 0, codes := [], inv := false }
      let code := if 2 ^ o.k ≤ cur.2 + y.count then 3
                  else if y.codes.contains 1 then 1 else if y.codes.contains 2 then 2 else 0
      endRetrieval s c y.x code false y.inv y.count []

/-! ## Statistics (R304) -/

/-- One turn of `lshstat` (R304): one bucket at one tick, counted into what the command's `done` holds: the next bucket, the ids, the
buckets with ids, those with OVF, the largest COUNT. -/
def runStat (c : Cmd) (e : Engine) (f : Fam) (t : Nat) (s : State) : State :=
  let at_ := fun (k : Nat) => c.done.getD k 0
  let v := (Work.start s c.w).read e (bucketVa f.new t (at_ 0)) 64
  let n := v.2 % 16
  let done := if v.1.stop.isSome then at_
    else fun k => [at_ 0 + 1, at_ 1 + n, at_ 2 + (if 0 < n then 1 else 0), at_ 3 + (if bucketOvf v.2 then 1 else 0),
      max (at_ 4) n].getD k 0
  if v.1.stop.isNone && decide (done 0 < 2 ^ f.new.k) then
    updCmd v.1.s c.id fun c => { c with done := (List.range 5).map done }
  else endRetrieval s c v.1 0 false false (done 4) ([done 1, done 2, done 3].map (BitVec.ofNat 32))

/-! ## The meanings -/

/-- Whether a retrieval command may be performed: its group's earlier commands on the family have ended, and the
W of what they wrote has passed (R299). -/
def mayRetrieve (s : State) (c : Cmd) : Bool :=
  let same := fun (d : Cmd) => d.gid == c.gid && decide (d.id < c.id) &&
    (d.kind.family.map fun f => f.new.va) == (c.kind.family.map fun f => f.new.va) && d.kind.retrieval
  c.kind.retrieval && !s.eng.cmds.any same && decide ((findGroup s c.gid).ch ≤ s.gt)

/-- A retrieval command works as far as it can now. -/
def runRetrieval (s : State) (c : Cmd) : State :=
  let e := c.engine s false
  match c.kind with
  | .probe f keys olds la bm cap => runProbe c e f keys olds la.toNat bm.toNat cap s
  | .insert f keys olds row => updateTables c e f keys olds row.toNat true (List.range f.new.l) s c.w c.done
  | .delete f keys olds row => updateTables c e f keys olds row.toNat false (List.range f.new.l) s c.w c.done
  | .migrate f n => runStep c e f n s
  | .stat f t => runStat c e f t s
  | _ => s

/-- A retrieval command is performed, and writes its result word unless it must wait (R299). -/
def execRetrievalComplete (cmd : Nat) (s : State) : Host.Outcome State Fault Refusal :=
  match findCmd s cmd with
  | some c => .next (if mayRetrieve s c && mayStart s c then runRetrieval (startCmd s c) { c with started := true } else s)
  | none => .next s

/-- The bucket a command waits on: the first of its tables that is not done. -/
def frozenBucket (c : Cmd) : Nat :=
  match c.kind with
  | .insert f _ olds _ | .delete f _ olds _ =>
    let t := ((List.range f.new.l).find? fun t => !(c.done.any fun d => d % 16 == t)).getD 0
    bucketVa (f.old.getD f.new) t (olds.getD t 0).toNat
  | _ => 0

/-- What the watchdog of a command that waits on a frozen bucket counts (R302, R399), while its gang runs: the period, and the tick it counts
from. -/
def frozenWatch (s : State) (c : Cmd) : Option (Nat × Nat) :=
  let ga := gangOfGroup s (findGroup s c.gid)
  c.frozen.bind fun f => if ga.st == .running then some (watchPeriod (findLaunch s ga.launch), f.1) else none

/-- The watchdog of a wait on a frozen bucket fires (R302, R399): the command ends with code 8. -/
def fireFrozen (s : State) (c : Cmd) : State :=
  let n := (doneResult c.done).2
  finishRetrieval s c c.w 8 n [resultWord 8 false false n] (frozenBucket c)

/-- A wait on a frozen bucket expires (R302, R399), where CURSOR has not risen in this tick. -/
def execFrozenBucketTimeout (cmd : Nat) (s : State) : Host.Outcome State Fault Refusal :=
  let s := noteCursors s s
  match findCmd s cmd with
  | some c => .next (if (frozenWatch s c).any fun w => watchdogFires s w.1 w.2 then fireFrozen s c else s)
  | none => .next s

/-- `lshfam` (R296). -/
def execLshfam (x : Args) (s : State) : Host.Outcome State Fault Refusal := run (.lshfam x) (loadFamily x) s

/-- `lshproj` (R298). -/
def execLshproj (x : Args) (s : State) : Host.Outcome State Fault Refusal := run (.lshproj x) (projectBody x) s

/-- `lshprobe` (R300). -/
def execLshprobe (x : Args) (s : State) : Host.Outcome State Fault Refusal := run (.lshprobe x) (probeBody x) s

/-- `lshins` (R301). -/
def execLshins (x : Args) (s : State) : Host.Outcome State Fault Refusal :=
  run (.lshins x) (updateBody (.lshins x) x true) s

/-- `lshdel` (R301). -/
def execLshdel (x : Args) (s : State) : Host.Outcome State Fault Refusal :=
  run (.lshdel x) (updateBody (.lshdel x) x false) s

/-- `lshstep` (R303). -/
def execLshstep (x : Args) (s : State) : Host.Outcome State Fault Refusal := run (.lshstep x) (stepBody x) s

/-- `lshstat` (R304). -/
def execLshstat (x : Args) (s : State) : Host.Outcome State Fault Refusal := run (.lshstat x) (statBody x) s

end Sys2Proof.Machine
end

