-- ==== Sys2Proof/Machine/Digest.lean ====
section
/-! DEFINITION. SHAKE256 (R355, R420): the public digest function of FIPS 202, with 64 bytes of output. PRESUMED: the
spec names it and does not spell it out (log 11). -/

namespace Sys2Proof.Machine

/-- Where the walk of FIPS 202's step rho stands after a number of moves: the place x, y of a lane. -/
def keccakWalk : Nat → Nat × Nat
  | 0 => (1, 0)
  | n + 1 => let p := keccakWalk n; (p.2, (2 * p.1 + 3 * p.2) % 5)

/-- The rotation of lane x + 5 y (step rho): the move t of the walk that comes there turns it by the t-th triangular number; the lane at
the origin stays. -/
def keccakTurn (i : Nat) : Nat :=
  match (List.range 24).find? fun t => (keccakWalk t).1 + 5 * (keccakWalk t).2 == i with
  | some t => (t + 1) * (t + 2) / 2 % 64
  | none => 0

/-- The feedback register of step iota after a number of shifts, over the polynomial 1 + x^4 + x^5 + x^6 + x^8. -/
def keccakFeedback : Nat → Nat
  | 0 => 1
  | n + 1 => let r := 2 * keccakFeedback n; if r < 256 then r else r ^^^ 0x171

/-- The constant of a round (step iota): its bit 2^j - 1 is the register's lowest bit after j shifts more. -/
def keccakConstant (round : Nat) : DWord :=
  (List.range 7).foldl (fun (c : DWord) j => if keccakFeedback (j + 7 * round) % 2 = 1 then c ||| BitVec.twoPow 64 (2 ^ j - 1) else c) 0

/-- One round on the 25 lanes: theta, rho with pi, chi, iota. -/
def keccakRound (a : List DWord) (rc : DWord) : List DWord :=
  let at_ := fun (l : List DWord) (i : Nat) => l.getD i 0
  let c := (List.range 5).map fun x => at_ a x ^^^ at_ a (x + 5) ^^^ at_ a (x + 10) ^^^ at_ a (x + 15) ^^^ at_ a (x + 20)
  let t := (List.range 25).map fun i => at_ a i ^^^ at_ c ((i + 4) % 5) ^^^ (at_ c ((i + 1) % 5)).rotateLeft 1
  let b := (List.range 25).map fun i =>
    let j := (i % 5 + 3 * (i / 5)) % 5 + 5 * (i % 5)
    (at_ t j).rotateLeft (keccakTurn j)
  (List.range 25).map fun i =>
    let row := 5 * (i / 5)
    at_ b i ^^^ (~~~ at_ b (row + (i + 1) % 5) &&& at_ b (row + (i + 2) % 5)) ^^^ (if i = 0 then rc else 0)

/-- The permutation of the state. -/
def keccak (a : List DWord) : List DWord := ((List.range 24).map keccakConstant).foldl keccakRound a

/-- The bytes of a block that the state takes in and gives out at a time. -/
def shakeRate : Nat := 136

/-- The message padded to whole blocks: the suffix of SHAKE with the first bit of the padding, zeros, the last bit. -/
def shakePad (bs : List Byte) : List Byte :=
  let n := shakeRate - bs.length % shakeRate
  bs ++ if n = 1 then [0x9F] else 0x1F :: List.replicate (n - 2) 0 ++ [0x80]

/-- The state takes in a block. -/
def shakeAbsorb (a : List DWord) (block : List Byte) : List DWord :=
  let words := (chunksOf 17 8 block).map fun b => BitVec.ofNat 64 (ofBytes b)
  keccak ((List.range 25).map fun i => a.getD i 0 ^^^ words.getD i 0)

/-- The 64-byte SHAKE256 digest of a message. -/
@[irreducible] def shake256 (bs : List Byte) : List Byte :=
  let p := shakePad bs
  let a := (chunksOf (p.length / shakeRate) shakeRate p).foldl shakeAbsorb (List.replicate 25 0)
  ((a.take 8).flatMap fun w => toBytes 8 w.toNat)

end Sys2Proof.Machine
end

