-- ==== Sys2Proof/Machine/Power.lean ====
section
/-! DEFINITION. The capability registers (R25 to R29), the attestation report (R356), the power loop (R33, R34, R357 to R359). -/

namespace Sys2Proof.Machine

/-! ## Capability registers (R25 to R28, R413, R419) -/

/-- A core is available to the scheduler (R27): neither it nor its bay is fenced or test-fenced (R421). -/
def Device.coreIn (d : Device) (c : Nat) : Bool :=
  !d.retired.contains (0x0F, bayOf c) && !d.retired.contains (0x09, c) && !d.test.any fun t => t.holds c

/-- The cores of a bay that are available (R27). -/
def Device.bayCores (d : Device) (k : Nat) : Nat := ((List.range 64).filter fun c => d.coreIn (64 * k + c)).length

/-- The available cores that run at half width (R27). -/
def Device.halfCores (d : Device) : Nat := (d.half.filter fun e => d.coreIn e.1).length

/-- The usable frames (R28, R413): those of the layers that are neither retired nor of a stack that is out. -/
def Device.frames (d : Device) : Nat :=
  1953125 * ((List.range 64).filter fun u => !d.retired.contains (0x0B, u) && !d.retired.contains (0x0A, u / 8)).length

/-- A bay has been fenced wholly, so that stripes of placements 4 and 7 are lost (R419). -/
def Device.lostStripes (d : Device) : Bool := d.retired.any fun u => u.1 == 0x0A

/-- The MP publishes what is in service (R25 to R28). -/
def Device.setCaps (d : Device) : Device :=
  let bays := (List.range 4).foldl (fun n k => if d.retired.contains (0x0F, k) then n else n + 2 ^ k) 0
  let cores := (List.range 4).foldl (fun n k => n + d.bayCores k * 2 ^ (8 * k)) 0
  { d with
    cap0 := (d.cap0 &&& 0xFF0FFFFF) ||| BitVec.ofNat 32 (bays * 2 ^ 20)
    cap1 := BitVec.ofNat 64 (cores + d.halfCores * 2 ^ 32)
    cap2 := (d.cap2 &&& 0xFFFFFFFF00000000) ||| BitVec.ofNat 64 d.frames
    cap3 := d.retired.foldl (fun w u => if u.1 = 0x0D then w &&& ~~~(BitVec.ofNat 32 (2 ^ u.2)) else w) d.cap3 }

/-- The MP sizes the block store (R28, R413, R419): with every layer in service as at reset (log 4), with fewer as it
chooses, with lost stripes to nothing. -/
def Device.sizeKv (d : Device) : Device :=
  let n := if d.lostStripes then 0 else if d.frames = 125000000 then 0x40000
           else min (Config.kvSize d.frames) (d.frames / 16)
  { d with cap2 := (d.cap2 &&& 0xFFFFFFFF) ||| BitVec.ofNat 64 (n % 2 ^ 32 * 2 ^ 32) }

/-! ## Identity (R356) -/

/-- The attestation report (R356). -/
def report (s : State) (nonce : List Byte) : List Byte :=
  nonce ++ s.dev.serial ++ s.dev.romDigest ++ s.dev.fwDigest ++ s.dev.testDigest ++ toBytes 4 s.dev.startNo.toNat ++
    toBytes 4 s.dev.cap0.toNat ++ toBytes 8 s.dev.cap1.toNat ++ toBytes 8 s.dev.cap2.toNat ++ toBytes 4 s.dev.cap3.toNat

/-- Bytes as an answer to the control node. -/
def replyBytes (s : State) (bs : List Byte) : State :=
  reply s ((chunksOf bs.length 8 bs).map fun b => BitVec.ofNat 64 (ofBytes b))

/-- The MP answers with a report signed with the identity key (R356), if its answers pass the control port (R350). -/
def execAttestationRequest (nonce : List Byte) (s : State) : Host.Outcome State Fault Refusal :=
  if s.dev.power != .on || !hostUp s || nonce.length != 32 then .next s
  else .next (replyBytes s (report s nonce ++ Config.falconSign (report s nonce)))

/-! ## The power loop (R357 to R359) -/

/-- A sensor's place, and its reading in 1/16 degrees. -/
def sensorKey (y : Sensor) : Nat × Nat := (y.core, 2 * y.idx.toNat + y.die.toNat)
/-- A sensor's reading in 1/16 degrees. -/
def sensorDeg (y : Sensor) : Int := y.temp.toInt

/-- The coolant is in the range of R33: an inlet of 15 to 40 degrees, a flow of at least 3.0 L/min. -/
def coolantOk (r : PowerReading) : Bool :=
  decide (240 ≤ r.inlet.toInt ∧ r.inlet.toInt ≤ 640) && decide (3000 ≤ r.flow)

/-- The pool size the loop sets (R357). -/
def loopPool (old : Nat) (r : PowerReading) : Nat :=
  let crit := r.sensors.any fun y => decide (1760 ≤ sensorDeg y)
  let hot := r.sensors.any fun y => decide (1520 ≤ sensorDeg y)
  let cool := r.sensors.all fun y => decide (sensorDeg y < 1440)
  let limits := (if crit then [0] else []) ++ (if hot then [old - 64] else []) ++
    (if 2600 < r.draw then [old - 64] else []) ++ (if coolantOk r then [] else [old - 128]) ++
    (if cool && decide (r.draw < 2500) && coolantOk r then [old + 32] else [])
  min 1024 (match limits with | [] => old | x :: l => l.foldl min x)

/-- The launch that runs on a core, if any (R359). -/
def launchOn (s : State) (core : Nat) : Option Launch :=
  ((sortBy (fun (t : Team) => t.resid) (residents s core)).map fun t => findLaunch s (findGang s t.gang).launch).head?

/-- The eight words of a thermal record (R359), of a core's sensor or of the package. -/
def thermalWords (s : State) (core : Option Nat) (place : Nat) (temp : BitVec 16) (kind : Nat) : List Word :=
  let l := core.bind (launchOn s)
  wordsOf (BitVec.ofNat 64 s.gt) ++
  [BitVec.ofNat 32 (core.getD 0xFF % 256 + place % 4 * 256) ||| (temp.setWidth 32 <<< 16), BitVec.ofNat 32 kind,
   BitVec.ofNat 32 s.dev.pool ||| ((l.map fun (x : Launch) => x.rcd.asid).getD 0).setWidth 32 <<< 16,
   (l.map launchField).getD 0, 0, 0]

/-- Writes a thermal record (R358): dropped if the ring is full. -/
def thermalPut (s : State) (ws : List Word) : State :=
  match s.dev.thermal with
  | some r => (ringPut s r 32 [ws]).1
  | none => s

/-- A sensor at 120 degrees makes the hardware clamp every interface of its bay (R350, R357). -/
def clampBay (s : State) (bay : Nat) : State := { s with dev := { s.dev with clamped := addOnce bay s.dev.clamped } }

/-- The last reading of a sensor. -/
def lastTemp (s : State) (y : Sensor) : Option (BitVec 16) :=
  (s.dev.temps.find? fun e => e.1 == sensorKey y).map Prod.snd

/-- The records of one sensor (R359), by its reading and the one before it: it crossed 95 degrees upward, it fell below 90, it is
critical; and at 120 degrees the clamp of its bay (R357). -/
def sensorRecords (s : State) (y : Sensor) : State :=
  let put := fun (s : State) (kind : Nat) => thermalPut s (thermalWords s (some y.core) (sensorKey y).2 y.temp kind)
  let old := lastTemp s y
  let s := { s with dev := { s.dev with temps := assocSet s.dev.temps (sensorKey y) y.temp } }
  let s := if decide (1520 ≤ sensorDeg y) && old.all fun t => decide (t.toInt < 1520) then put s 1 else s
  let s := if decide (sensorDeg y < 1440) && old.any fun t => decide (1440 ≤ t.toInt) then put s 2 else s
  let s := if 1760 ≤ sensorDeg y then ctlSend (put s 4) (thermalWords s (some y.core) (sensorKey y).2 y.temp 4) else s
  if 1920 ≤ sensorDeg y then clampBay s (bayOf y.core) else s

/-- The sensor a record of a changed pool names (R359): the hottest of those at or above 95 degrees, the first among equals; where there is
none, the record is the package's (DESIGN CHOICE: log 175). -/
def hotSensor (r : PowerReading) : Option Sensor :=
  (sortBy (fun (y : Sensor) => (32768 - sensorDeg y).toNat) (r.sensors.filter fun y => decide (1520 ≤ sensorDeg y))).head?

/-- The words of a record of a changed pool (R359). -/
def poolWords (s : State) (r : PowerReading) : List Word :=
  match hotSensor r with
  | some y => thermalWords s (some y.core) (sensorKey y).2 y.temp 3
  | none => thermalWords s none 0 0 3

/-- One pass of the power loop, every 2^16 cycles (R34, R357 to R359); a record of the coolant gives the temperature of the inlet. -/
def execPowerLoop (r : PowerReading) (s : State) : Host.Outcome State Fault Refusal :=
  if s.dev.power != .on || s.gt % 2 ^ 16 != 0 then .next s
  else
    let old := s.dev.pool
    let s := { s with dev := { s.dev with pool := loopPool old r } }
    let s := r.sensors.foldl sensorRecords s
    let s := if coolantOk r then s else thermalPut s (thermalWords s none 0 r.inlet 5)
    let s := if 2600 < r.draw then thermalPut s (thermalWords s none 0 0 6) else s
    .next (if s.dev.pool = old then s else thermalPut s (poolWords s r))

/-- A sensor at 120 degrees makes the hardware clamp every interface of its bay, without the MP (R350, R357). -/
def execThermalClamp (bay : Nat) (s : State) : Host.Outcome State Fault Refusal :=
  .next (if running s && decide (bay < 4) then clampBay s bay else s)

end Sys2Proof.Machine
end

