-- ==== Sys2Proof/Machine/Reliability.lean ====
section
/-! DEFINITION. Failing silicon (R385 to R387, R405 to R421): errors that are corrected, units that are retired or
fenced, layers that are vacated, in-field tests, access tables and violation logs. -/

namespace Sys2Proof.Machine

/-! ## Records of units (R25, R382, R405, R407) -/

/-- The UNIT record of a unit that is fenced or restored (R25, R379, R407, R408). -/
def unitRecord (s : State) (u : UnitId) (code : BitVec 8) (restored : Bool) : State :=
  writeRecord s { Rcd.blank 0x0B with
    code := code, hop := unitHop u, core := unitCore u, addr := BitVec.ofNat 64 (unitAddr u)
    extra := BitVec.ofNat 32 (u.1 + (if restored then 2 else 1) * 256), bay := unitBay u }

/-- The vertical bus of a stack that brings a controller address: that of its layer (R407, R413). -/
def busOf (stack addr : Nat) : UnitId := (0x0B, 8 * stack + min 7 (addr % 2 ^ 40 / 4096 / framesPerLayer))

/-- The interfaces of a unit are clamped, by its bay or, of a bridge, by either of the two that it joins (R350). -/
def unitClamped (s : State) (u : UnitId) : Bool :=
  s.dev.clamped.contains (unitBay u) || (u.1 == 0x0C && (s.dev.clamped.contains (u.2 / 4) || s.dev.clamped.contains (u.2 % 4)))

/-- The scrub of a stack whose base die is not clamped (R350) finds errors (R229, R405): those of one bit are corrected and counted; a
sector with another is poisoned, and recorded. The bus of its layer counts them too (R408). -/
def execHbmScrub (stack : Nat) (errs : List (Nat × Bool)) (s : State) : Host.Outcome State Fault Refusal :=
  if !running s || decide (8 ≤ stack) || unitClamped s (0x0A, stack) then .next s
  else
    .next (errs.foldl (fun s e =>
      let s := noteErr s (busOf stack e.1) (if e.2 then .uncorrectable else .corrected)
      if e.2 then
        let s := { s with mem := { s.mem with poison := addOnce ((stack * 2 ^ 40 + e.1 % 2 ^ 40) / 32) s.mem.poison } }
        uncorrected s (0x0A, stack)
      else countError s (0x0A, stack) 0xFFFF (stack / 2)) s)

/-- A unit whose transfers are checked and resent (R405, R412). -/
def isResent (cls : Nat) : Bool := [0x07, 0x08, 0x0C, 0x0D, 0x0E].contains cls

/-- A slot or flit is sent again (R405), where no clamp keeps the unit from carrying it (R350): nothing changes but the count of corrected
errors. One that fails again is recorded; what follows for the unit is its retirement. -/
def execLinkRetransmit (cls idx : Nat) (ok : Bool) (s : State) : Host.Outcome State Fault Refusal :=
  if !running s || !isResent cls || unitClamped s (cls, idx) then .next s
  else .next (if ok then countError s (cls, idx) (unitHop (cls, idx)) (unitBay (cls, idx)) else uncorrected s (cls, idx))

/-- The errors of a unit that count at its last one (R408): corrected ones and others within the window that ends there, and those since the
last that was corrected, one after another. -/
def errTally (s : State) (u : UnitId) : Nat × Nat × Nat :=
  let all := recentErrs s u .corrected ++ recentErrs s u .uncorrectable
  let within := fun (t : Nat) => all.all fun x => decide (x < t + errWindow)
  let good := (recentErrs s u .corrected).filter within
  let bad := (recentErrs s u .uncorrectable).filter within
  (good.length, bad.length, (bad.filter fun t => good.all fun x => decide (x < t)).length)

/-- A unit meets its threshold (R408): a tenon port with a slot that fails its resend, or 64 corrected errors; a vertical bus with 64
corrected errors or 2 others; a link with 8 retransmissions that fail one after another, or 256 failures. -/
def overThreshold (s : State) (u : UnitId) : Bool :=
  let n := errTally s u
  if u.1 = 0x07 then decide (1 ≤ n.2.1 ∨ 64 ≤ n.1)
  else if u.1 = 0x0B then decide (64 ≤ n.1 ∨ 2 ≤ n.2.1)
  else [0x0C, 0x0D, 0x0E].contains u.1 && decide (8 ≤ n.2.2 ∨ 256 ≤ n.1 + n.2.1)

/-! ## Gangs that must leave (R327, R390, R395, R410) -/

/-- A change of the device's registers and lists. -/
def updDev (s : State) (f : Device → Device) : State := { s with dev := f s.dev }

/-- A unit is retired or fenced, and the capability registers say so (R25). Its errors count no more. -/
def retire (s : State) (u : UnitId) : State :=
  updDev s fun d => { d with
    retired := addOnce u d.retired, due := d.due.filter fun e => e.unit != u, recent := d.recent.filter fun e => e.1.1 != u }.setCaps

/-- The gangs that hold cores of which some are named. -/
def gangsOnCores (s : State) (cores : Nat → Bool) : List Nat :=
  (s.gangs.filter fun g => g.placed && (gangTeams s g.id).any fun t => !t.freed && cores t.core).map fun g => g.id

/-- The MP asks gangs to halt (R326). -/
def askToLeave (s : State) (cores : Nat → Bool) : State := (gangsOnCores s cores).foldl requestHalt s

/-- A launch that has lost a gang is rolled back under REPLAY and killed under REPORT (R390, R395, R410, R419). -/
def loseLaunch (s : State) (gang : Nat) : State :=
  let l := findLaunch s (findGang s gang).launch
  if l.id = 0 || l.rollback || l.killed then s
  else if l.rcd.report then startKill s l.id else startRollback s l.id

/-- A unit's retirement waits until the gangs there have halted. -/
def defer (s : State) (u : UnitId) (code : BitVec 8) (whole : Bool) : State :=
  updDev s fun d => { d with due := d.due ++ [{ unit := u, code := code, since := s.gt, whole := whole }] }

/-- What is about to be retired, if this unit is. -/
def dueOf (s : State) (u : UnitId) : Option Due := s.dev.due.find? fun e => e.unit == u

/-! ## Cores (R408 to R412) -/

/-- The half of its core that a port or a lane is in (R14, R409). -/
def unitHalf (u : UnitId) : Nat := if u.1 = 0x07 then u.2 % 8 / 4 else u.2 % 32 / 16
/-- A port or lane of one half of a core. -/
def inHalf (core half : Nat) (u : UnitId) : Bool :=
  (u.1 == 0x07 || u.1 == 0x08) && unitCore u == core && unitHalf u == half

/-- A half of a core holds a retired port or a fenced lane, or is about to (R409). -/
def halfBroken (s : State) (core half : Nat) : Bool :=
  s.dev.retired.any (inHalf core half) || s.dev.due.any fun e => inHalf core half e.unit

/-- A unit is retired, and its record written (R408). -/
def retireUnit (s : State) (u : UnitId) (code : BitVec 8) : State := unitRecord (retire s u) u code false

/-- A core is fenced (R408, R410): it leaves CAP1 and its gangs go elsewhere; one whose tiles can no longer cross the
bond loses its launch. Ports and lanes of it that were about to be retired are. -/
def fenceCore (s : State) (core : Nat) (code : BitVec 8) (cut : Bool) : State :=
  if s.dev.retired.contains (0x09, core) then s
  else
    let l := s.dev.due.filter fun e => inHalf core 0 e.unit || inHalf core 1 e.unit
    let s := retireUnit (l.foldl (fun s e => retireUnit s e.unit e.code) s) (0x09, core) code
    (gangsOnCores s (· == core)).foldl (fun s g =>
      if cut && (gangTeams s g).any (fun t => t.core == core && t.tiles.any fun o => o.owned) then loseLaunch s g
      else requestHalt s g) s

/-- A port or a lane of a core fails (R408 to R410): the core's gangs are asked to leave, and it then runs at half width;
if its other half has failed before, it is fenced. -/
def breakHalf (s : State) (u : UnitId) (code : BitVec 8) : State :=
  let core := unitCore u
  let h := unitHalf u
  if s.dev.retired.contains u || (dueOf s u).isSome then s
  else if halfBroken s core (1 - h) then fenceCore (retireUnit s u code) core code true
  else if s.dev.half.contains (core, h) then retireUnit s u code
  else askToLeave (defer s u code false) (· == core)

/-- The MP switches a core to half width once its gangs have left, which it asks until then (R410). -/
def execHalfWidthSwitch (core half : Nat) (s : State) : Host.Outcome State Fault Refusal :=
  let l := s.dev.due.filter fun e => inHalf core half e.unit
  if s.dev.power != .on || l.isEmpty then .next s
  else if !(gangsOnCores s (· == core)).isEmpty then .next (askToLeave s (· == core))
  else
    let s := l.foldl (fun s e => retireUnit s e.unit e.code) s
    .next (updDev s fun d => { d with half := addOnce (core, half) d.half }.setCaps)

/-- The opcode of the instruction at the PC of the split in focus, which its instruction cache holds (R136, R143). -/
def opcodeHere (s : State) : Option Nat :=
  (heldILine s s.tm.core s.asid (lineVa s.sp.pc)).map fun c =>
    ((c.words.getD (unitIn s.sp.pc) 0).extractLsb' 2 8).toNat

/-- The instruction at a split is one that executes twice (R322): RED is set, and its opcode is 0x00–0x1F or 0x40–0x7F. -/
def runsTwice (s : State) (m : Mismatch) : Bool :=
  let t := focus s { gid := m.gid, sp := m.sp }
  (findGroup s m.gid).id != 0 && (launchOfGroup s (findGroup s m.gid)).rcd.red && maySplit t t.g t.sp &&
    (opcodeHere t).any fun k => k < 0x20 || (0x40 ≤ k && k < 0x80)

/-- What execution r of a rerun gives at a lane. -/
def rerunAt (m : Mismatch) (r l : Nat) : Nat := (if r = 0 then m.x0 else if r = 1 then m.x1 else m.x2).getD l 0

/-- The three executions of a rerun disagree at a lane (R412). -/
def rerunDiffers (m : Mismatch) (l : Nat) : Bool := rerunAt m 0 l != rerunAt m 1 l || rerunAt m 1 l != rerunAt m 2 l

/-- The one execution that differs at a lane from the other two (R412). -/
def oddRun (m : Mismatch) (l : Nat) : Option Nat :=
  (List.range 3).find? fun r => rerunAt m ((r + 1) % 3) l == rerunAt m ((r + 2) % 3) l && rerunAt m r l != rerunAt m ((r + 1) % 3) l

/-- The physical lanes, of `n`, that would account for every lane of a list that disagrees: `cand` of R412. -/
def suspects (m : Mismatch) (n : Nat) (lanes : List Nat) : List Nat :=
  (List.range n).filter fun p => lanes.all fun l => (oddRun m l).any fun r => (l + r) % n == p

/-- What the vote over a rerun that disagrees retires (R412): the one lane it names, on a core at full width; else the core. -/
def blame (m : Mismatch) (s : State) (core : Nat) (lanes : List Nat) : State :=
  match s.dev.half.any (fun e => e.1 == core), suspects m 32 lanes with
  | false, [p] => breakHalf s (0x08, 32 * core + p) 0x03
  | _, _ => fenceCore s core 0x03 (halfBroken s core 0 || halfBroken s core 1)

/-- Two executions of an instruction have differed (R412). If the rerun agrees it is a transient, which is recorded, and the instruction
goes on; else the instruction writes nothing, the lane or the core is retired, and it raises 0x30 at its split, with TLANES the lanes that
disagree, or 0 for a scalar instruction. A transient is one of class 0x08, a lane's: the one that the event names or, where it names the
core, that of the lowest active lane (log 182). -/
def meetMismatch (s : State) (u : UnitId) (m : Mismatch) : State :=
  let who : Who := { gid := m.gid, sp := m.sp }
  let t := focus s who
  let lane : UnitId := if u.1 = 0x08 then u else (0x08, 32 * unitCore u + (activeLanes t).headD 0)
  let transient := countError s lane 0xFFFF (unitBay lane)
  let raise := fun (s : State) (lanes : Word) =>
    takeTrap (focus s who) { cause := 0x30, addr := 0, lanes := lanes } t.sp.chain.isSome t.sp.pc
  if (opcodeHere t).any fun k => k < 0x20 then
    if rerunAt m 0 0 = rerunAt m 1 0 then transient
    else raise (fenceCore s t.tm.core 0x03 (halfBroken s t.tm.core 0 || halfBroken s t.tm.core 1)) 0
  else
    let lanes := (activeLanes t).filter (rerunDiffers m)
    if lanes.isEmpty then transient
    else raise (blame m s t.tm.core lanes) (maskOf fun l => lanes.contains l)

/-! ## Layers (R413 to R415) -/

/-- The pools of the contexts, each no larger than the room that those before it leave (R105). -/
def fitPools : List Ctx → Nat → List Ctx
  | [], _ => []
  | c :: t, room => { c with kvPool := min c.kvPool room } :: fitPools t (room - min c.kvPool room)

/-- The pools keep within CAP2.KVBLOCKS (R105): those of the contexts admitted last are cut first (log 146). -/
def cutPools (s : State) : State :=
  { s with sched := { s.sched with ctxs := fitPools s.sched.ctxs (s.dev.cap2.extractLsb' 32 32).toNat } }

/-- A layer of a stack is retired (R413). -/
def retireLayer (s : State) (stack layer : Nat) (code : BitVec 8) : State :=
  let u : UnitId := (0x0B, 8 * stack + layer)
  if s.dev.retired.contains u then s
  else unitRecord (cutPools (updDev (retire s u) Device.sizeKv)) u code false

/-- The MP retires a layer whose bus meets its threshold (R408, R413). -/
def execLayerRetire (stack layer : Nat) (s : State) : Host.Outcome State Fault Refusal :=
  if s.dev.power != .on || decide (8 ≤ stack) || decide (8 ≤ layer) || !overThreshold s (0x0B, 8 * stack + layer) then .next s
  else .next (retireLayer s stack layer 0x01)

/-- The name that a page of placement 7 belongs to. -/
def nameOfPage (s : State) (p : Quad) : Option KvName := if pteKv p then nameAt s (pteAsid p) (pageBase p) else none

/-- A page is of an evictable block (R414): every name on it is of a sequence with bit 31 set. -/
def evictable (s : State) (p : Quad) : Bool :=
  match nameOfPage s p with
  | some n => (namesOn s n.block).all fun x => x.seq.msb
  | none => false

/-- The order in which evictable blocks go (R414). -/
def evictOrder (s : State) (p : Quad) : Nat :=
  match nameOfPage s p with
  | some n => ((n.asid.toNat * 2 ^ 32 + n.seq.toNat) * 2 ^ 32 + n.layer.toNat) * 2 ^ 32 + n.blk.toNat
  | none => 0

/-- The pages that retired layers still hold, in the order in which they move (R414). -/
def toMove (s : State) : List Quad :=
  let l := (allPtes s).filter (onRetired s)
  sortBy pageBase (l.filter fun p => !evictable s p) ++ sortBy (evictOrder s) (l.filter (evictable s))

/-- The address of a byte after its page has moved. -/
def movedAddr (runs : List (Nat × Nat)) (a : Nat) : Nat :=
  match runs.find? fun r => r.1 ≤ a && a < r.1 + 4096 with
  | some r => a + r.2 - r.1
  | none => a

/-- The bytes of a page, its poisoned sectors and the writes pending on it stand at its new frame (R414). -/
def moveBytes (m : MemSys) (p q : Quad) : MemSys :=
  let runs := (pageRuns p).zip (pageRuns q)
  let cells := runs.flatMap fun r => cellsIn m.phys r.1 (r.1 + 4096)
  let phys := runs.foldl (fun a r => cellsOut (cellsOut a r.1 (r.1 + 4096)) r.2 (r.2 + 4096)) m.phys
  let there := fun (k : Nat) => runs.any fun r => k / 128 == r.2 / 4096
  { m with
    phys := pokeBytes phys (cells.map fun c => (movedAddr runs c.1, c.2))
    poison := (m.poison.filter fun k => !there k).map fun k => movedAddr runs (32 * k) / 32
    pend := m.pend.map fun w => { w with bytes := w.bytes.map fun c => (movedAddr runs c.1, c.2) } }

/-- A page's entry names its new frame: its lines stay (R106, R414), and the page-attribute caches, whose verdicts were those on the old
frame, give up the page (R228). -/
def reframe (m : MemSys) (p : Quad) (pfn : Nat) : MemSys :=
  { m with
    ptes := updateWhere (fun t => t.pte == p) (fun t => { t with pte := withPfn p pfn }) m.ptes
    pac := m.pac.filter fun e => e.pte != p }

/-- A page, or a block with the pages of all its names, moves to a frame (R414). Loads that have issued are performed before (log 180). -/
def moveTo (s : State) (p : Quad) (pfn : Nat) : State :=
  let l := match nameOfPage s p with
    | some n => blockPages s n.block
    | none => [p]
  let s := performBefore s fun _ a va => !isFar va && l.any fun x => pageFor x a && pageIn x (pageOf va)
  let s1 := { s with mem := moveBytes s.mem p (withPfn p pfn) }
  match nameOfPage s p with
  | some n =>
    let s2 := { s1 with mem := (blockPages s n.block).foldl (fun m x => reframe m x pfn) s1.mem }
    { s2 with kv := { s2.kv with blocks := updateWhere (fun b => b.id == n.block) (fun b => { b with pfn := BitVec.ofNat 24 pfn }) s2.kv.blocks } }
  | none => { s1 with mem := reframe s1.mem p pfn }

/-- A block is evicted (R415): its names' pages go, and its frames with them. -/
def evictBlock (s : State) (p : Quad) : State :=
  match nameOfPage s p with
  | none => s
  | some n =>
    let s := (blockPages s n.block).foldl unmapPage s
    { s with kv := { s.kv with
      blocks := updateWhere (fun b => b.id == n.block) (fun b => { b with evicted := true }) s.kv.blocks
      freed := (namesOn s n.block).foldl (fun l x => addOnce (x.asid, blockOf x.va.toNat) l) s.kv.freed } }

/-- The bay of the retired layer on which a page stands. -/
def retiredBay (s : State) (p : Quad) : Nat :=
  ((s.dev.retired.find? fun u => u.1 == 0x0B && (pageStacks p).contains (u.2 / 8)).map unitBay).getD 0

/-- No frame remains (R414): a launch that has a granule's copy on a retired layer becomes unrollable; where the copies stand no rule says
(log 174). -/
def loseSnaps (s : State) : State :=
  s.launches.foldl (fun s l =>
    if l.snap.any fun e => s.dev.retired.contains (0x0B, Config.snapPlace e.seq % 64) then markUnroll (s.launches.length + 1) s l.id
    else s) s

/-- The blocks for which no frame remains are evicted; each context that loses some hears their VAs in one record
(R415). -/
def evictRest (s : State) (l : List Quad) : State :=
  let bay := (l.head?.map (retiredBay s)).getD 0
  let vas := l.flatMap fun p => match nameOfPage s p with
    | some n => (namesOn s n.block).map fun x => (x.asid, x.va.toNat)
    | none => []
  let asids := vas.foldl (fun a e => addOnce e.1 a) []
  let s := l.foldl evictBlock s
  asids.foldl (fun s a =>
    let mine := sortBy id (vas.foldl (fun m e => if e.1 == a then addOnce e.2 m else m) [])
    writeRecord s { Rcd.blank 0x07 with
      code := 4, asid := a, extra := BitVec.ofNat 32 mine.length, bay := bay, cont := (mine.take 1020).map (BitVec.ofNat 64) }) s

/-- A free run of frames is left for a page. -/
def hasFrame (s : State) (p : Quad) : Bool := (findFrames s (pageBase p) (pteSize p)).isSome

/-- A page's context is not yet being terminated. -/
def ctxStays (s : State) (p : Quad) : Bool := (findCtx s (pteAsid p)).any fun c => c.closing.isNone && !c.gone

/-- What is done next to vacate the retired layers, and the page or block that it is done to first (R414): one moves for which a frame
remains; then the evictable blocks left go; then the contexts of the other pages left end. -/
def nextMove (s : State) : Option Quad :=
  match (toMove s).find? (hasFrame s) with
  | some p => some p
  | none =>
    match (toMove s).find? (evictable s) with
    | some p => some p
    | none => (toMove s).find? (ctxStays s)

/-- The next page or block leaves a retired layer for a free frame (R414). Once none is left for any of them, snapshots there are lost,
evictable blocks are evicted, and then the context of any other page is terminated. -/
def execBlockMove (asid : BitVec 16) (va : DWord) (pfn : BitVec 24) (s : State) :
    Host.Outcome State Fault Refusal :=
  match nextMove s with
  | none => .next s
  | some p =>
    if !running s || pteAsid p != asid || !pageIn p (pageOf va.toNat) then .next s
    else if hasFrame s p then
      .next (if framesFree s (pageBase p) (pteSize p) pfn.toNat && pfn.toNat % frameSpan p == 0 then moveTo s p pfn.toNat else s)
    else if evictable s p then
      let l := (toMove s).filter (evictable s)
      .next (if l.any (pageBusy s) then s else evictRest (loseSnaps s) l)
    else .next (startTerminate (loseSnaps s) asid 4)

/-! ## Fencing a bay (R419) -/

/-- Bays are about to be fenced (R419): the MP asks their gangs to halt. A compute fence that is due becomes a whole one. The CODE is
0x01 for a unit that has failed, and 0x06 otherwise. -/
def startFence (s : State) (bay : Nat) (whole : Bool) (code : BitVec 8) : State :=
  match dueOf s (0x0F, bay) with
  | some _ =>
    if whole then updDev s fun d => { d with
      due := updateWhere (fun e => e.unit == (0x0F, bay)) (fun e => { e with whole := true }) d.due }
    else s
  | none => askToLeave (defer s (0x0F, bay) (if code = 0x01 then 0x01 else 0x06) whole) fun c => bayOf c == bay

/-! ## Bridges and ports (R335, R416) -/

/-- The peers on whose paths a port is, of those for which any port holds or asks for an entry, or has translated an access that is under
way, each with the port: the path of R333, or the one kept from before a change of PORTS. -/
def pathDevs (s : State) (p : Nat) : List Nat :=
  let asked := s.fab.asked.map fun e => (e.page / 2 ^ 30, e.port)
  let lanes := (allGroups s).flatMap fun h => (splitsOf s h.id).flatMap fun q =>
    (q.request.toList.flatMap openLanes).map fun y => (peerOf y.va, y.port)
  let loads := (allGroups s).flatMap fun h => h.late.flatMap fun y => y.ports
  ((s.fab.grants.map (fun (g : Grant) => (g.dev.toNat, g.port)) ++ asked ++ lanes ++ loads).filter fun e =>
    e.2 == p || pathPort s e.1 == some p).foldl (fun l e => addOnce e.1 l) []

/-- Chunks that have bridges yet to cross take the path that is left (R331, R416). -/
def rerouteChunks (s : State) : State :=
  { s with eng := { s.eng with chunks := s.eng.chunks.map fun x =>
    match x.hops.getLast? with
    | some h =>
      let at_ := hopBay x.prev
      if x.hops.length ≤ 1 || at_ = hopBay h then x
      else match bayRoute s none at_ (hopBay h) with
        | some p => { x with hops := (if isRouter x.prev then p.drop 1 else p).map routerHop ++ [h] }
        | none => x
    | none => x } }

/-- A bridge, a fabric port or the control port goes out of service (R416): paths change, and the translations of a port that is
down go (R335). -/
def dropLink (s : State) (cls idx : Nat) (code : BitVec 8) : State :=
  if s.dev.retired.contains (cls, idx) then s
  else if cls = 0x0D then
    let devs := pathDevs s idx
    retireUnit (devs.foldl forgetDevice (failWindow s fun f => f.port == idx || devs.contains (peerOf f.va))) (cls, idx) code
  else
    let s := retireUnit s (cls, idx) code
    if cls = 0x0C then rerouteChunks s else s

/-- The links of the part: bridges 0–1, 0–2, 1–3 and 2–3, sixteen fabric ports, the control port (R13, R20, R407). -/
def isLink (cls idx : Nat) : Bool :=
  (cls == 0x0C && [1, 2, 7, 11].contains idx) || (cls == 0x0D && decide (idx < 16)) || (cls == 0x0E && idx == 0)

/-! ### What a fence takes with it (R419) -/

/-- The MP unmaps every page of a placement and ends the contexts that own one (R419). Loads that have issued are performed before
(log 180). -/
def dropPlacement (s : State) (k : Nat) : State :=
  let l := (allPtes s).filter fun p => placement (pageBase p) == k
  let s := performBefore s fun _ a va => !isFar va && l.any fun p => pageFor p a && pageIn p (pageOf va)
  let s := l.foldl unmapPage s
  (l.foldl (fun a p => if pteAsid p = 0 then a else addOnce (pteAsid p) a) []).foldl (fun s a => startTerminate s a 5) s

/-- The bridges of a bay (R13). -/
def bayBridges (bay : Nat) : List UnitId :=
  [4 * min bay (bay ^^^ 1) + max bay (bay ^^^ 1), 4 * min bay (bay ^^^ 2) + max bay (bay ^^^ 2)].map fun b => (0x0C, b)
/-- The stacks of a bay (R12). -/
def bayStacks (bay : Nat) : List UnitId := [(0x0A, 2 * bay), (0x0A, 2 * bay + 1)]
/-- The links that go out of service with a bay: its ports and its bridges, but not the bridges of bay 0 (R23, R419). -/
def bayLinks (bay : Nat) : List UnitId := (if bay = 0 then [] else bayBridges bay) ++ (List.range 4).map fun p => (0x0D, 4 * bay + p)

/-- What a whole fence takes with it (R419): the bay's stacks, its ports and its bridges, but not those of bay 0 (R23), each with its
record; and with the stripes placements 4 and 7, and every block. -/
def loseBay (s : State) (bay : Nat) (code : BitVec 8) : State :=
  let s := (bayStacks bay).foldl retire s
  let s := (bayLinks bay).foldl (fun s u => dropLink s u.1 u.2 code) s
  let s := dropPlacement (dropPlacement (updDev s Device.sizeKv) 4) 7
  { s with
    kv := { s.kv with blocks := s.kv.blocks.map fun b => { b with evicted := true } }
    sched := { s.sched with ctxs := s.sched.ctxs.map fun c => { c with kvPool := 0 } } }

/-- A bay is fenced (R419). Bay 0 keeps the MP, the control port, its router and its bridges in service (R23). -/
def endFence (s : State) (bay : Nat) (e : Due) : State :=
  let s := (gangsOnCores s fun c => bayOf c == bay).foldl loseLaunch s
  let s := unitRecord (retire s (0x0F, bay)) (0x0F, bay) e.code false
  let s := dropPlacement s bay
  if e.whole then loseBay s bay e.code else s

/-- The bays not yet fenced wholly that the bridges in service no longer join to bay 0 (R416). -/
def cutOff (s : State) : List Nat :=
  (List.range 4).filter fun k => !s.dev.retired.contains (0x0A, 2 * k) && k != 0 && (bayRoute s none 0 k).isNone

/-- The MP fences a bay (R419): asked first, its gangs halt; once they have, or when the bound of R327 has passed, the
fence takes effect. -/
def execBayFence (bay : Nat) (whole : Bool) (code : BitVec 8) (s : State) : Host.Outcome State Fault Refusal :=
  let gone := s.dev.retired.contains (0x0F, bay) && (!whole || s.dev.retired.contains (0x0A, 2 * bay))
  if s.dev.power != .on || decide (4 ≤ bay) || gone then .next s
  else
    match dueOf s (0x0F, bay) with
    | none => .next (startFence s bay whole code)
    | some e =>
      if whole && !e.whole then .next (startFence s bay true code)
      else if (gangsOnCores s fun c => bayOf c == bay).isEmpty || decide (e.since + 3200 ≤ s.gt) then
        let s := endFence s bay e
        .next ((cutOff s).foldl (fun s k => startFence s k true 0x06) s)
      else .next (askToLeave s fun c => bayOf c == bay)

/-! ## Links (R416) -/

/-- A link is retired (R416): the bays that are cut off are fenced. -/
def retireLink (s : State) (cls idx : Nat) (code : BitVec 8) : State :=
  if s.dev.retired.contains (cls, idx) then s
  else
    let t := dropLink s cls idx code
    if cls = 0x0C then (cutOff t).foldl (fun s k => startFence s k true 0x06) t else t

/-- A link that meets its threshold is retired (R408, R416). -/
def execBridgeRetire (cls idx : Nat) (s : State) : Host.Outcome State Fault Refusal :=
  if !running s || !isLink cls idx || !overThreshold s (cls, idx) then .next s else .next (retireLink s cls idx 0x01)

/-! ## Any unit (R408, R412) -/

/-- What follows for a unit that has met its threshold (R408). -/
def retireOver (s : State) (cls idx : Nat) : State :=
  if cls = 0x07 then (if unitCore (cls, idx) < 256 && coreUp s (unitCore (cls, idx)) then breakHalf s (cls, idx) 0x01 else s)
  else if cls = 0x0B then (if idx < 64 then retireLayer s (idx / 8) (idx % 8) 0x01 else s)
  else if isLink cls idx then retireLink s cls idx 0x01
  else s

/-- A unit that meets its threshold is retired or fenced (R408); a bay as R419 says. A mismatch of redundant executions on a core, which the
event names by the core or one of its lanes, retires a lane or the core, unless its rerun agrees (R322, R412). -/
def execUnitRetire (cls idx : Nat) (code : BitVec 8) (mismatch : Option Mismatch) (s : State) :
    Host.Outcome State Fault Refusal :=
  if s.dev.power != .on then .next s
  else
    match mismatch with
    | some m =>
      let here := (findTeam s (findGroup s m.gid).team).core
      .next (if (cls = 0x08 || cls = 0x09) && unitCore (cls, idx) == here && runsTwice s m then meetMismatch s (cls, idx) m else s)
    | none =>
      if cls = 0x0F then execBayFence idx false code s
      else .next (if code = 0x01 && overThreshold s (cls, idx) then retireOver s cls idx else s)

/-! ## Errors in the memories (R229, R405) -/

/-- An error of a unit is recorded (R382, R407): counted if it was corrected. -/
def eccAt (s : State) (u : UnitId) (addr : DWord) (corrected : Bool) : State :=
  if corrected then countErrorAt s u addr 0xFFFF (unitBay u) else uncorrectedAt s u addr

/-- The same, of a memory whose errors count toward no threshold of R408. -/
def eccOnly (s : State) (u : UnitId) (corrected : Bool) : State :=
  let t := eccAt s u (BitVec.ofNat 64 (unitAddr u)) corrected
  { t with dev := { t.dev with recent := s.dev.recent } }

/-- An error that is not corrected strikes a sector of a line that a unit holds (R405): a clean leased line is dropped, and another is
marked. -/
def strikeLine (cs : List CLine) (gt unit : Nat) (asid : BitVec 16) (line sector : Nat) : List CLine :=
  let hit := fun (c : CLine) => c.unit == unit && c.asid == asid && c.line == line
  updateWhere hit (fun c => { c with sick := addOnce sector c.sick }) (cs.filter fun c => !(hit c && !anyPinned c gt))

/-- Such an error strikes a sector of an L1 (R405): the line as above; an update-only line merges, and its sector is marked at the home. -/
def strikeL1 (s : State) (core : Nat) (asid : BitVec 16) (line sector : Nat) : State :=
  let held := s.mem.ulines.any fun u => u.core == core && u.asid == asid && u.line == line
  let t := mergeCore s fun u => u.core == core && u.asid == asid && u.line == line
  let t := { t with mem := { t.mem with l1 := strikeLine t.mem.l1 t.gt core asid line sector } }
  match (if held then translate s.mem asid (vaOfLine line) else none) with
  | some p => poisonSector t (physOf p (vaOfLine line) + 32 * sector)
  | none => t

/-- The VA of a byte of physical memory, if a page is there. -/
def vaOfPhys (s : State) (a : Nat) : Option Nat :=
  firstSome (fun p => firstSome (fun (r : Nat × Nat) => if r.2 ≤ a ∧ a < r.2 + 4096 then some (pageBase p + 4096 * r.1 + (a - r.2)) else none)
    ((List.range (pageRuns p).length).zip (pageRuns p))) (allPtes s)

/-- A port's TLB drops an entry (R405); one that an access uses is filled again at once. -/
def dropGrant (s : State) (port n : Nat) : State :=
  match (s.fab.grants.filter fun g => g.port == port)[n]? with
  | some g => if grantBusy s g then s else { s with fab := { s.fab with grants := s.fab.grants.filter fun x => x != g } }
  | none => s

/-- An error strikes a memory of the device (R382, R405, R407). What R407 does not name is of its unit's class (log 183): a core's page-attribute
cache of 0x09, a port's TLB of 0x0D, tags and lease state of an L2 slice of 0x05, the tile table and barrier state of a bay of 0x0F. -/
def strike (x : Struck) (corrected : Bool) (s : State) : State :=
  match x with
  | .register gid cell =>
    let core := (findTeam s (findGroup s gid).team).core
    let t := if cell < 8192 then eccAt s (0x01, core) (BitVec.ofNat 64 (cell / 32)) corrected
      else eccAt s (0x02, core) (BitVec.ofNat 64 (cell - 8192)) corrected
    if corrected then t else markFree (focus t { gid := gid, sp := 0 }) cell
  | .l1 core asid line sector =>
    let t := eccAt s (0x03, core) (BitVec.ofNat 64 (vaOfLine line)) corrected
    if corrected then t else strikeL1 t core asid line sector
  | .cache cluster bank asid line sector =>
    let t := eccAt s (0x04, 64 * cluster + bank) (BitVec.ofNat 64 bank) corrected
    if corrected then t else { t with mem := { t.mem with cc := strikeLine t.mem.cc t.gt cluster asid line sector } }
  | .scratch tid sector =>
    let y := findTeam s tid
    let bank := lclBank y (32 * sector)
    let t := eccAt s (0x04, 64 * clusterOf y.core + bank) (BitVec.ofNat 64 bank) corrected
    if corrected then t else updTeam t tid fun y => { y with lclPoison := addOnce sector y.lclPoison }
  | .fifo cluster bank sector =>
    let t := eccAt s (0x04, 64 * cluster + bank) (BitVec.ofNat 64 bank) corrected
    if corrected then t
    else updBank t cluster bank fun b => if sector < 4 * b.fifo.length then { b with sick := addOnce sector b.sick } else b
  | .l2 sector =>
    match vaOfPhys s (32 * sector) with
    | none => s
    | some va =>
      let t := eccAt s (0x05, 16 * homeBay va + homeSlice va) (BitVec.ofNat 64 (homeSlice va)) corrected
      if corrected then t else poisonSector t (32 * sector)
  | .store tid n =>
    let t := eccAt s (0x06, (findTeam s tid).core) (BitVec.ofNat 64 n) corrected
    if corrected then t
    else if n < 32 then updSlot t tid n fun o => { o with poison := true }
    else updTile t tid (n - 32) fun o => { o with poison := true }
  | .attr core asid page =>
    let t := eccOnly s (0x09, core) corrected
    if decide (256 ≤ core) then s
    else if corrected then t
    else { t with mem := { t.mem with pac := t.mem.pac.filter fun e => !(e.core == core && e.asid == asid && e.page == page) } }
  | .tlb port n =>
    let t := eccOnly s (0x0D, port) corrected
    if decide (16 ≤ port) then s else if corrected then t else dropGrant t port n
  | .tags bay slice =>
    let t := match slice with
      | some k => eccAt s (0x05, 16 * bay + k % 16) (BitVec.ofNat 64 (k % 16)) corrected
      | none => eccAt s (0x0F, bay) (BitVec.ofNat 64 bay) corrected
    if decide (4 ≤ bay) then s else if corrected || s.dev.power != .on then t else startFence t bay slice.isSome 0x01

/-! ## In-field tests (R420, R421) -/

/-- A little-endian field of a file. -/
def fieldAt (bs : List Byte) (at_ n : Nat) : Nat := ofBytes ((bs.drop at_).take n)

/-- A test package's body. -/
def packageBody (bs : List Byte) : List Byte := (bs.drop 128).take (fieldAt bs 0x28 8)

/-- A package passes the checks of R421 step 1. -/
def packageOk (bs : List Byte) : Bool :=
  decide (128 + fieldAt bs 0x28 8 ≤ bs.length) && fieldAt bs 0 4 == 0x5446564F && fieldAt bs 4 2 == 1 &&
    decide (fieldAt bs 6 1 ≤ 1) && fieldAt bs 7 1 == 0 && fieldAt bs 0x70 16 == 0 &&
    (fieldAt bs 6 1 == 0 || decide (fieldAt bs 8 32 < 16)) &&
    (bs.drop 0x30).take 64 == shake256 (packageBody bs) &&
    Config.falconOk Config.mufedunKey (bs.take (128 + fieldAt bs 0x28 8)) (bs.drop (128 + fieldAt bs 0x28 8))

/-- A target as a unit (R407). -/
def FieldTest.unit (t : FieldTest) (k : Nat) : UnitId := (if t.bays then 0x0F else 0x09, k)

/-- The targets are test-fenced (R421 step 2): they leave CAP1. A bay's L2, controllers and router run on, so that CAP0 and the pages
homed there stay (R83, R421 step 3). A bay that has been fenced wholly, or a core of a fenced bay, is no target. -/
def startTest (s : State) (bs : List Byte) : State :=
  let bays := fieldAt bs 6 1 == 1
  let l := (List.range (if bays then 4 else 256)).filter fun k =>
    (fieldAt bs 8 32).testBit k && (if bays then !s.dev.retired.contains (0x0A, 2 * k) else bayHealthy s (bayOf k))
  let t : FieldTest := { bays := bays, targets := l, digest := (bs.drop 0x30).take 64 }
  let s := l.foldl (fun s k => unitRecord (if bays then s else retire s (t.unit k)) (t.unit k) 0x06 false) s
  askToLeave (updDev s fun d => { d with test := some t }.setCaps) t.holds

/-- A core that passes comes back (R421 step 4), its fenced lanes with it; a half with a retired port keeps it at half width (R409), or out
if both hold one. -/
def restoreCore (d : Device) (core : Nat) : Device :=
  let retired := d.retired.filter fun u => !(u.1 == 0x08 && u.2 / 32 == core) && u != (0x09, core)
  let bad := fun (h : Nat) => retired.any (inHalf core h)
  if bad 0 && bad 1 then d
  else { d with
    retired := retired
    half := (d.half.filter fun e => e.1 != core) ++ ((List.range 2).filter bad).map fun h => (core, h) }

/-- A target has been tested (R421 step 4): it passes and is restored, with the cores and lanes of it that were fenced, or stays fenced. A
bay that fails is fenced as R419 says: its placement is unmapped (R83). -/
def endTarget (t : FieldTest) (failed : List Nat) (s : State) (k : Nat) : State :=
  if failed.contains k then
    if t.bays && !s.dev.retired.contains (0x0F, k) then
      endFence s k { unit := (0x0F, k), code := 0x04, since := s.gt, whole := false }
    else unitRecord s (t.unit k) 0x04 false
  else
    let s := updDev s fun d =>
      (if t.bays then (List.range 64).foldl (fun d c => restoreCore d (64 * k + c)) { d with retired := d.retired.filter fun u => u != (0x0F, k) }
       else restoreCore d k).setCaps
    if s.dev.retired.contains (t.unit k) then s else unitRecord s (t.unit k) 0x05 true

/-- A test package (R421): it is checked and its targets fenced; when their gangs have left, the vectors have been
applied and some targets have failed, the others come back. -/
def execTestPackage (bytes : List Byte) (failed : List Nat) (s : State) : Host.Outcome State Fault Refusal :=
  if s.dev.power != .on then .next s
  else
    match s.dev.test with
    | none => .next (if packageOk bytes then startTest s bytes else reply s [4])
    | some t =>
      if !(gangsOnCores s t.holds).isEmpty then .next (askToLeave s t.holds)
      else
        let s := updDev s fun d => { d with test := none, testDigest := t.digest }.setCaps
        .next (t.targets.foldl (endTarget t failed) s)

/-! ## Access tables and violation logs (R385 to R387) -/

/-- The bits of an access-table entry that are not reserved (R385). -/
def accMask : Quad := 0xFFFFFFFF_FFFFFFFF_00000000_FFFF0707

/-- Entries of one master: its kind and id. -/
def accMaster (w : Quad) : BitVec 3 × BitVec 16 := (w.extractLsb' 8 3, w.extractLsb' 16 16)

/-- A page's attributes came with the verdict of a target on a frame that an entry covers (R228). -/
def pacMeets (target : Nat) (w : Quad) (e : PacEntry) : Bool :=
  let a := physOf e.pte (e.page * 4096)
  a / 2 ^ 40 == target && decide ((w.extractLsb' 64 32).toNat ≤ a % 2 ^ 40 / 4096 ∧ a % 2 ^ 40 / 4096 ≤ (w.extractLsb' 96 32).toNat)

/-- The tables deny a context's group a load, by the port that has translated it (R385). -/
def loadDenied (s : State) (port : Nat) (asid : BitVec 16) (va : Nat) : Bool :=
  if isFar va then !farPermits s port mkContext asid va false
  else (translate s.mem asid va).any fun p => !physPermits s mkContext asid (physOf p va) false

/-- A target's access table changes at one tick, and page-attribute caches drop what the entries that go or come cover (R228, R385). Loads
that have issued and that the new table denies are performed before (log 180). -/
def setAcc (s : State) (gone : AccEntry → Bool) (new : List AccEntry) : State :=
  let acc := s.rel.acc.filter (fun e => !gone e) ++ new
  let meets := fun (x : PacEntry) => (s.rel.acc.filter gone ++ new).any fun e => pacMeets e.target e.word x
  let s := performBefore s (loadDenied { s with rel := { s.rel with acc := acc } })
  { s with
    rel := { s.rel with acc := acc }
    mem := { s.mem with pac := s.mem.pac.filter fun x => !meets x } }

/-- A target's table, but for the entry of an index, has room for one of an entry's master, which has at most 64 (R385). -/
def accRoom (s : State) (target idx : Nat) (w : Quad) : Bool :=
  decide ((s.rel.acc.filter fun e => e.target == target && e.idx != idx && e.word.getLsbD 0 && accMaster e.word == accMaster w).length < 64)

/-- The MP changes an entry of a target's access table, at one tick (R385); page-attribute caches drop what the old entry
and the new one cover (R228). A master has at most 64 entries, and its kind is not a reserved one. -/
def execAccessTableWrite (target idx : Nat) (entry : Quad) (s : State) : Host.Outcome State Fault Refusal :=
  let w := entry &&& accMask
  if s.dev.power != .on || decide (4 ≤ (w.extractLsb' 8 3).toNat) || (w.getLsbD 0 && !accRoom s target idx w) then .next s
  else .next (setAcc s (fun e => e.target == target && e.idx == idx) [{ target := target, idx := idx, word := w }])

/-- The bay of a target (R12, R385): of a memory controller or an L2 slice, of a fabric port; the others are on bay 0. -/
def targetBay (t : Nat) : Nat := if t < 8 then t / 2 else if t < portTarget 0 then (t - 8) / 16 else if t < controlTarget then (t - portTarget 0) / 4 else 0
/-- The hop id of a target: a fabric port has one (R21). -/
def targetHop (t : Nat) : BitVec 16 := if portTarget 0 ≤ t ∧ t < controlTarget then BitVec.ofNat 16 (0x0200 + (t - portTarget 0)) else 0xFFFF

/-- The ACCESS record of a violation (R378, R379, R387); LANES carries the count of those that were not logged. -/
def accessRcd (v : Violation) (lost : Nat) : Rcd :=
  { Rcd.blank 0x06 with
    hop := targetHop v.target
    asid := if v.mkind ≤ 1 then v.mid else 0, addr := v.addr, lanes := BitVec.ofNat 32 lost
    extra := BitVec.ofNat 32 (v.mkind * 256 + v.mid.toNat * 65536), bay := targetBay v.target, gt := some v.gt }

/-- The MP drains a target's violation log (R387). -/
def execViolationDrain (target : Nat) (s : State) : Host.Outcome State Fault Refusal :=
  if s.dev.power != .on then .next s
  else
    match s.rel.viol.filter fun v => v.target == target with
    | [] => .next s
    | v :: rest =>
      let lost := ((s.rel.violLost.find? fun e => e.1 == target).map Prod.snd).getD 0
      let s := { s with rel := { s.rel with
        viol := s.rel.viol.filter fun v => v.target != target
        violLost := s.rel.violLost.filter fun e => e.1 != target } }
      .next (rest.foldl (fun s v => writeRecord s (accessRcd v 0)) (writeRecord s (accessRcd v lost)))

end Sys2Proof.Machine
end

