-- ==== Sys2Proof/Machine/Start.lean ====
section
/-! DEFINITION. Power down and start (R22, R23, R31, R349 to R355). -/

namespace Sys2Proof.Machine

/-! ## Power down (R31, R349, R354) -/

/-- Units whose retirement was due are retired when the MP stops: no gang is left that would have to leave first (R31, R408, R410,
R419; log 182). -/
def Device.settleDue (d : Device) : Device :=
  let units := d.due.flatMap fun e => e.unit :: (if e.whole then bayStacks e.unit.2 ++ bayLinks e.unit.2 else [])
  let lanes := d.due.filter fun e => e.unit.1 == 0x07 || e.unit.1 == 0x08
  { d with
    due := [], retired := units.foldl (fun l u => addOnce u l) d.retired
    half := lanes.foldl (fun l e => addOnce (unitCore e.unit, unitHalf e.unit) l) d.half }

/-- What is left of the device when its domains are down (R31): what the MP's non-volatile storage and the fuses hold.
Memory of the host, of peers and of the safe tier is not of the device. -/
def Device.down (d : Device) (p : Power) : Device :=
  { d.settleDue with
    power := p, pool := 1024, tvec := 0, errors := [], recent := [], thermal := none, temps := [], checkpoint := none
    testDigest := List.replicate 64 0, test := none }

/-- The device powered down (R31, R349). -/
def powerDown (s : State) (p : Power) : State :=
  { State.reset with
    dev := s.dev.down p, agenda := s.agenda, fresh := s.fresh
    rel := { State.reset.rel with bb := [], bbNv := s.rel.bbNv, replies := s.rel.replies }
    fab := { State.reset.fab with host := s.fab.host, peer := s.fab.peer, images := s.fab.images } }

/-- The black boxes go to non-volatile storage, if the MP runs (R384). -/
def saveBlackBox (s : State) : State :=
  if s.dev.power == .on then { s with rel := { s.rel with bbNv := s.rel.bb } } else s

/-- The supply with one power domain fewer up: the last one raised goes first (R349). -/
def Power.lower (p : Power) : Power := if p.raised ≤ 1 then .off else .lowering (p.raised - 1)

/-- What the MP does first when it stops: the units whose retirement was due get their records, those of a whole fence's links too (R408,
R419), and the black boxes go to non-volatile storage (R384). -/
def closeMp (s : State) : State :=
  let due := if s.dev.power == .on then s.dev.due else []
  saveBlackBox (due.foldl (fun s e => (e.unit :: if e.whole then bayLinks e.unit.2 else []).foldl (fun s u =>
    if s.dev.retired.contains u then s else unitRecord s u e.code false) s) s)

/-- Stop (R354): no grid is waited for. The domains go down one by one, in the reverse of the order in which they came up (R349): once the
first has gone, asked again, the next one goes. -/
def execStop (s : State) : Host.Outcome State Fault Refusal :=
  .next (match s.dev.power with
    | .lowering _ => { s with dev := { s.dev with power := s.dev.power.lower } }
    | _ => powerDown (closeMp s) s.dev.power.lower)

/-- The supply is lost without a stop: events since the last copy are lost, and so are retirements that were due (R31, R384). -/
def execSupplyLoss (s : State) : Host.Outcome State Fault Refusal := .next (powerDown { s with dev := { s.dev with due := [] } } .off)

/-- Every 2^24 cycles the MP copies the black boxes (R384). -/
def execBlackBoxCopy (s : State) : Host.Outcome State Fault Refusal :=
  .next (if s.gt % 2 ^ 24 = 0 then saveBlackBox s else s)

/-- The MP fails (R23): the device accepts no launches until a cold start (R419). -/
def execMpFailure (s : State) : Host.Outcome State Fault Refusal :=
  .next (if s.dev.power == .on then { s with dev := { s.dev with power := .mpFailed, mpLost := true } } else s)

/-! ## Start (R351 to R355) -/

/-- A start adds 1 to the start number (R352). -/
def countStart (s : State) : State := { s with dev := { s.dev with startNo := s.dev.startNo + 1 } }

/-- A start requested of a device that runs powers it down first, as a stop does (R354). -/
def beginStart (s : State) : State := countStart (closeMp s)

/-- A domain is not ready in time (R349): the start stops, and the control node hears which domain and die. The device stays so until
the next request. -/
def execPowerDomainTimeout (domain die : Nat) (s : State) : Host.Outcome State Fault Refusal :=
  .next (if s.dev.power == .starting (.domain domain) then
    reply (powerDown s (.stuck domain die)) [3, BitVec.ofNat 64 domain, BitVec.ofNat 64 die] else s)

/-- A page stands where a fence that is due at a start takes it (R419). -/
def losesPage (d : Device) (p : Quad) : Bool :=
  d.due.any fun e => e.unit.1 == 0x0F && (placement (pageBase p) == e.unit.2 || (e.whole && (placement (pageBase p) == 4 || placement (pageBase p) == 7)))

/-- The pages of preserved contexts (R353). -/
def keptPages (s : State) (asids : List (BitVec 16)) : List PSlot :=
  s.mem.ptes.filter fun t => asids.contains (pteAsid t.pte)

/-- Memory after a start (R351, R353): the pages and frames of preserved contexts, and zero elsewhere. -/
def keptMem (s : State) (asids : List (BitVec 16)) : MemSys :=
  let pages := keptPages s asids
  let runs := pages.flatMap fun t => pageRuns t.pte
  let inside := fun (a : Nat) => runs.any fun r => decide (r ≤ a ∧ a < r + 4096)
  if pages.isEmpty then MemSys.reset
  else { MemSys.reset with
    phys := s.mem.phys.filter fun c => inside c.1
    poison := s.mem.poison.filter fun k => inside (32 * k)
    ways := s.mem.ways, ptes := pages, dir := s.mem.dir }

/-- A preserved context (R353): what was being terminated is over. -/
def keptCtx (c : Ctx) : Ctx := { c with debugger := false, gone := c.gone || c.closing.isSome }

/-- Scheduling after a start (R351, R353): every queue open and empty; preserved contexts keep their counters. -/
def keptSched (s : State) (asids : List (BitVec 16)) : Sched :=
  let owners := s.sched.owners.filter fun o => asids.contains o.2
  { Sched.reset with
    ctxs := (s.sched.ctxs.filter fun c => asids.contains c.asid).map keptCtx
    owners := owners
    counters := s.sched.counters.filter fun c => owners.any fun o => o.1 == c.1
    nextId := s.sched.nextId }

/-- The block store after a start (R353). -/
def keptKv (s : State) (asids : List (BitVec 16)) : BlockStore :=
  { names := s.kv.names.filter fun n => asids.contains n.asid
    blocks := s.kv.blocks.filter fun b => asids.contains b.asid
    freed := s.kv.freed.filter fun e => asids.contains e.1 }

/-- CAP3 as the training of the fabric ports sets it (R21, R25, R29). -/
def trainedCap3 (q : StartInput) : Word :=
  q.ports.setWidth 32 ||| match q.devid with
    | some d => (d.setWidth 32 <<< 16) ||| 0x10000000
    | none => 0

/-- The device after a start (R22, R25, R351, R408). A cold start tests every unit afresh; a warm start keeps those that are
retired, and a thermal clamp (R357). The MP's firmware runs and has installed its handler; an MP that has failed accepts no launches before
a cold start (R419). -/
def startedDev (d : Device) (cold : Bool) (thermal : Option Ring) (q : StartInput) : Device :=
  let d := { d.down (if !cold && d.mpLost then .mpFailed else .on) with
    mpLost := !cold && d.mpLost
    retired := if cold then [] else d.retired
    half := if cold then [] else d.half
    clamped := if cold then [] else d.clamped
    trained := Device.reset.trained, thermal := thermal, tvec := q.tvec
    fwDigest := shake256 q.image
    cap3 := trainedCap3 q }
  d.setCaps.sizeKv

/-- The start number stands in the headers of the rings that have been kept (R352). -/
def renumberRings (s : State) : State :=
  (s.sched.ctxs.filterMap (fun c => c.errq) ++ s.dev.thermal.toList).foldl
    (fun s r => mpWrite s r.asid (r.va.toNat + 12) (toBytes 4 s.dev.startNo.toNat)) s

/-- A bay is fenced at a start, where no gang has to leave first (R419). -/
def fenceAtStart (whole : Bool) (code : BitVec 8) (s : State) (k : Nat) : State :=
  if s.dev.retired.contains (if whole then (0x0A, 2 * k) else (0x0F, k)) then s
  else endFence s k { unit := (0x0F, k), code := code, since := s.gt, whole := whole }

/-- The bays that the bridges in service no longer join to bay 0 are fenced at a start (R416, R419). -/
def fenceCutOff (s : State) : State := (cutOff s).foldl (fenceAtStart true 0x06) s

/-- A unit fails the scan or the training of a start (R350, R351, R408, R416, R419): it is retired or fenced, and what it leaves cut
off with it. DEDUCED: the record of the bay has CODE 0x01, as step 2 of R419 says, where R408 has 0x02 for a unit that fails its training
(log 211). -/
def failUnit (s : State) (u : UnitId) : State :=
  if u.1 = 0x07 || u.1 = 0x08 then
    let core := unitCore u
    if s.dev.retired.contains u || !decide (core < 256) || !coreUp s core then s
    else if halfBroken s core (1 - unitHalf u) then fenceCore (retireUnit s u 2) core 2 false
    else updDev (retireUnit s u 2) fun d => { d with half := addOnce (core, unitHalf u) d.half }.setCaps
  else if u.1 = 0x09 then (if u.2 < 256 then fenceCore s u.2 2 false else s)
  else if u.1 = 0x0A then (if u.2 < 8 then fenceCutOff (fenceAtStart true 0x01 s (u.2 / 2)) else s)
  else if u.1 = 0x0B then (if u.2 < 64 then retireLayer s (u.2 / 8) (u.2 % 8) 2 else s)
  else if u.1 = 0x0F then (if u.2 < 4 then fenceAtStart false 0x01 s u.2 else s)
  else if isLink u.1 u.2 && !s.dev.retired.contains u then fenceCutOff (retireUnit s u 2)
  else s

/-- The black boxes as a warm start sends them to the control node (R351 step 7). -/
def upload (bb : List BBEvent) : List (List DWord) := bb.map fun e => (chunksOf 4 2 e.words).map fun w => w.getD 1 0 ++ w.getD 0 0

/-- A start completed (R351): cold, or warm with preserved contexts, of which those go that a fence takes a page from (R419); what fences due
at the stop have cut off is fenced too. -/
def started (s : State) (cold : Bool) (asids : List (BitVec 16)) (q : StartInput) : State :=
  let b := q.banks.getD (32, 0)
  let asids := if cold then [] else asids.filter fun a => !((allPtes s).any fun p => pteAsid p == a && losesPage s.dev p)
  let bb := if cold then [] else s.rel.bbNv
  let thermal := s.dev.thermal.filter fun r => asids.contains r.asid
  let t : State := { powerDown s .on with
    mem := keptMem s asids, sched := keptSched s asids, kv := keptKv s asids
    dev := startedDev s.dev cold thermal q
    eng := { banks := resetBanks b.1 b.2, cmds := [], overlaps := [], colls := [], chunks := [] }
    rel := { State.reset.rel with bb := bb, bbNv := bb, replies := s.rel.replies ++ upload bb }
    fab := { State.reset.fab with
      host := s.fab.host, peer := s.fab.peer, images := s.fab.images
      uranges := s.fab.uranges.filter fun r => asids.contains r.asid } }
  let t := ((if cold then q.scan else []) ++ q.train).foldl failUnit (renumberRings t)
  let t := if cold || s.dev.due.isEmpty then t else fenceCutOff t
  reply (bbEvent t 0 0x23 0xFF 0 0) [if cold then 0 else 1]

/-- The boot ROM verifies the signature over the digest of the firmware image (R355). -/
def verified (q : StartInput) : Bool := Config.falconOk Config.mufedunKey (shake256 q.image) q.signature

/-- A start stands before or at the firmware's verification, step 2 (R351). -/
def early : StartAt → Bool
  | .domain _ => true
  | .step k => decide (k ≤ 2)

/-- A step of the order of R351 is over where a start stands. -/
def pastStep (p : StartAt) (n : Nat) : Bool := match p with | .step k => decide (n < k) | .domain _ => false

/-- A start that another request overtakes stands where it was (R351, R354): past step 3 the units that failed the scan are retired, past
step 5 those that failed the training, and a cold start has found every other unit healthy and no clamp; past step 7 a cold one has
cleared the black box, and a warm one has sent it to the control node. -/
def standing (s : State) (cold : Bool) (p : StartAt) (q : StartInput) : State :=
  let t := powerDown s .on
  let t := if cold && pastStep p 5 then updDev t fun d => { d with retired := [], half := [], clamped := [] } else t
  let t := ((if cold && pastStep p 3 then q.scan else []) ++ if pastStep p 5 then q.train else []).foldl failUnit t
  let t := if pastStep p 7 then
      { t with rel := if cold then { t.rel with bbNv := [] } else { t.rel with replies := t.rel.replies ++ upload t.rel.bbNv } }
    else t
  { t with dev := { t.dev with power := .starting p } }

/-- A start is in progress (R354). -/
def inStart (s : State) : Bool := match s.dev.power with | .starting _ => true | _ => false

/-- A start request (R351, R354, R355). During a start it aborts that one, and the device is powered down and started cold. With
firmware that does not verify the MP does not run, and the control node hears of it. -/
def start (s : State) (cold : Bool) (asids : List (BitVec 16)) (q : StartInput) : State :=
  let cold := cold || inStart s
  let s := beginStart s
  match q.overtaken with
  | some p =>
    if early p then standing s cold p q
    else if verified q then standing s cold p q else reply (powerDown s .mpFailed) [2]
  | none => if verified q then started s cold asids q else reply (powerDown s .mpFailed) [2]

/-- A cold start (R351). -/
def execColdStart (q : StartInput) (s : State) : Host.Outcome State Fault Refusal := .next (start s true [] q)

/-- A warm start (R351, R353): with no stored parameters it is a cold one. It names at most 64 contexts. -/
def execWarmStart (asids : List (BitVec 16)) (q : StartInput) (s : State) : Host.Outcome State Fault Refusal :=
  .next (if 64 < asids.length then s else start s s.dev.trained.isEmpty asids q)

end Sys2Proof.Machine
end

