-- ==== Sys2Proof/Machine/Clock.lean ====
section
/-! DEFINITION. The passing of GT (R108): what happens of itself at ticks that pass, namely the tests of the watchdogs (R399), the copies of
the black boxes (R384), and how long a saved gang has fitted nowhere (R403). -/

namespace Sys2Proof.Machine

/-- A watchdog (R399): of a barrier of a team, of a wait on a FIFO bank, of a gang operation, of a gathering collective, of a command
that waits on a frozen bucket. -/
inductive Watch where
  | barrier (tid bar : Nat)
  | fifo (gid sp : Nat)
  | rendezvous (gang op : Nat)
  | join (coll : Nat)
  | frozen (cmd : Nat)
  deriving DecidableEq, Repr

/-- What a watchdog counts now, if it does: its period, and the tick it counts from. -/
def Watch.count (s : State) : Watch → Option (Nat × Nat)
  | .barrier tid n => barrierWatch s tid n
  | .fifo gid sp => (fifoWatch s (findGroup s gid) (findSplit s gid sp)).map Prod.snd
  | .rendezvous gang op => ((rdvWatch s gang).find? fun w => w.1.op == op).map Prod.snd
  | .join id => (findColl s id).bind (joinWatch s)
  | .frozen cmd => (findCmd s cmd).bind (frozenWatch s)

/-- The watchdogs that there are. -/
def watches (s : State) : List Watch :=
  (allTeams s).flatMap (fun t => (List.range t.barriers.length).map fun n => .barrier t.id n) ++
    s.gangs.flatMap (fun g => (((allTeams s).find? fun t => t.gang == g.id && t.id != 0).toList.map fun t => .barrier t.id gbarNo) ++
      g.rdvs.map fun r => .rendezvous g.id r.op) ++
    (allGroups s).flatMap (fun g => (splitsOf s g.id).map fun p => .fifo g.id p.num) ++
    s.eng.colls.map (fun c => .join c.id) ++ s.eng.cmds.map fun c => .frozen c.id

/-- The first test, now or later, at which a watchdog fires (R399). -/
def nextFiring (s : State) : Option Nat :=
  match (watches s).filterMap fun w => (w.count s).map fun c => firstTest s c.1 c.2 with
  | [] => none
  | t :: l => some (l.foldl min t)

/-- A watchdog fires, if this test is its first (R399). -/
def fireWatch (s : State) (w : Watch) : State :=
  if (w.count s).all (fun c => decide (s.gt < firstTest s c.1 c.2)) then s
  else
    match w with
    | .barrier tid n => fireBarrier s tid n
    | .fifo gid sp =>
      match fifoWatch s (findGroup s gid) (findSplit s gid sp) with
      | some c => trapWaiter 0x21 (0x100 + c.1) (fifoRecord (focus s { gid := gid, sp := sp }) c.1) { gid := gid, sp := sp }
      | none => s
    | .rendezvous gang op =>
      match (rdvWatch s gang).find? fun c => c.1.op == op with
      | some c => fireRdv s gang c.1
      | none => s
    | .join id => match findColl s id with | some c => refuseAll s c | none => s
    | .frozen cmd => match findCmd s cmd with | some c => fireFrozen s c | none => s

/-- A saved gang notes since when its shape has fitted no cluster of available cores (R403). -/
def noteUnfit (s : State) : State :=
  let note := fun (g : Gang) =>
    let stuck := g.away && !g.retired && !shapeFits s (findLaunch s g.launch).rcd
    { g with unfit := if stuck then some (g.unfit.getD s.gt) else none }
  { s with gangs := s.gangs.map note }

/-- Ticks pass in which no watchdog fires; every 2^24 cycles the MP copies the black boxes (R384). -/
def passTicks (s : State) (n : Nat) : State :=
  let t := noteCursors s (elapse (noteUnfit s) n)
  if s.gt / 2 ^ 24 < t.gt / 2 ^ 24 then saveBlackBox t else t

/-- Ticks pass: before GT leaves a tick at which watchdogs fire, they do (R399). Tests are 1,024 ticks apart, so that each round goes past
one. -/
def clock : Nat → State → Nat → State
  | 0, s, n => passTicks s n
  | f + 1, s, n =>
    match nextFiring s with
    | none => passTicks s n
    | some t =>
      if s.gt + n ≤ t then passTicks s n
      else
        let u := passTicks s (t - s.gt)
        let u := (watches u).foldl fireWatch u
        clock f (passTicks u 1) (n - (t - s.gt) - 1)

/-- GT rises by `n` (R108). While it does not count, nothing fires. -/
def tick (s : State) (n : Nat) : State := if counts s then clock (n / 1024 + 2) s n else elapse s n

end Sys2Proof.Machine
end

