-- ==== Sys2Proof/Machine/Loader.lean ====
section
/-! DEFINITION. The loader (R159 to R165) and the traps of words that are no instruction (R152). -/

namespace Sys2Proof.Machine

/-! ## Code objects (R159 to R163) -/

/-- A section of a code object (R159). -/
structure Section where
  ty : Nat
  align : Nat
  off : Nat
  size : Nat
  resv : Nat
  deriving DecidableEq, Repr

/-- The sections of a code object, by index (R159). -/
def sectionsOf (bs : List Byte) : List Section :=
  let n := fieldAt bs 6 2
  let t := fieldAt bs 8 8
  (List.range n).map fun i =>
    let f := fun (o k : Nat) => fieldAt bs (t + 32 * i + o) k
    { ty := f 0 4, align := f 4 4, off := f 8 8, size := f 16 8, resv := f 24 8 }

/-- The first section of a type. -/
def sectionOf (bs : List Byte) (ty : Nat) : Option Section := (sectionsOf bs).find? fun x => x.ty == ty

/-- The bytes of the section of a type; none are there without it. -/
def sectionBytes (bs : List Byte) (ty : Nat) : List Byte :=
  match sectionOf bs ty with
  | some x => (bs.drop x.off).take x.size
  | none => []

/-- The records of a section, each of `n` bytes. -/
def recordsOf (bs : List Byte) (ty n : Nat) : List (List Byte) :=
  let b := sectionBytes bs ty
  chunksOf (b.length / n) n b

/-- The lines of a text section as words. -/
def textLines (bs : List Byte) : List (List Word) :=
  (recordsOf bs 2 64).map fun l => (chunksOf 16 4 l).map fun b => BitVec.ofNat 32 (ofBytes b)

/-- How many symbol entries a symbols section has (R162): the names follow the entries, so the first name says. -/
def symbolCount (bs : List Byte) : Nat :=
  let b := sectionBytes bs 6
  if b.length < 24 then 0 else fieldAt b 0 4 / 24

/-! ## The loader's checks (R164) -/

/-- MAGIC, FVER and the reserved fields are as they must be. DESIGN CHOICE: NSEC outside 1 to 64, SECOFF that is no multiple of 8, a reserved
section TYPE and a reserved PROFNEED are refused with this first reason (log 176). -/
def headerOk (bs : List Byte) : Bool :=
  let notes := sectionBytes bs 1
  fieldAt bs 0 4 == 0x014F564F && fieldAt bs 4 2 == 1 && decide (1 ≤ fieldAt bs 6 2 ∧ fieldAt bs 6 2 ≤ 64) &&
    fieldAt bs 8 8 % 8 == 0 && fieldAt bs 0x10 48 == 0 &&
    (sectionsOf bs).all (fun x => x.resv == 0 && decide (1 ≤ x.ty ∧ x.ty ≤ 7)) &&
    fieldAt notes 4 12 == 0 && decide (fieldAt notes 2 1 ≤ 1) &&
    (recordsOf bs 7 64).all fun e => fieldAt e 0x13 45 == 0

/-- Sections are there as often as they must be, aligned, inside the file, and of whole records. -/
def sectionsOk (bs : List Byte) : Bool :=
  let l := sectionsOf bs
  let count := fun (t : Nat) => (l.filter fun x => x.ty == t).length
  [1, 2, 3, 7].all (fun t => count t == 1) && [4, 5, 6].all (fun t => decide (count t ≤ 1)) &&
    decide (64 ≤ bs.length ∧ fieldAt bs 8 8 + 32 * fieldAt bs 6 2 ≤ bs.length) &&
    l.all fun x => decide (x.off + x.size ≤ bs.length) && (match x.ty with
      | 1 => x.size == 16
      | 2 => decide (6 ≤ x.align) && x.size % 64 == 0
      | 3 => decide (7 ≤ x.align) && x.size % 128 == 0
      | 5 => x.size % 16 == 0
      | 7 => x.size % 64 == 0
      | _ => true)

/-- A relocation names what R161 allows and stays inside its section. -/
def relocationOk (bs : List Byte) (r : List Byte) : Bool :=
  let kind := fieldAt r 9 1
  let l := sectionsOf bs
  match l[fieldAt r 8 1]?, l[fieldAt r 0x0A 2]? with
  | some t, some b =>
    decide (1 ≤ kind ∧ kind ≤ 3) && (t.ty == 3 || t.ty == 4) &&
      (if kind = 3 then b.ty == 2 else b.ty == 2 || b.ty == 3 || b.ty == 4) &&
      decide (fieldAt r 0 8 + (if kind = 2 then 4 else 8) ≤ t.size)
  | _, _ => false

/-- An entry record's fields are in range (R163) and its UNIT is marked in its line's BTMASK. -/
def entryOk (bs : List Byte) (e : List Byte) : Bool :=
  let unit := fieldAt e 4 4
  let sym := fieldAt e 0 4
  let syms := sectionBytes bs 6
  let text := (sectionsOf bs).findIdx fun x => x.ty == 2
  decide (1 ≤ fieldAt e 8 1 ∧ fieldAt e 8 1 ≤ 16) && [1, 2, 4, 8, 16].contains (fieldAt e 9 1) &&
    decide (8 ≤ fieldAt e 0x0A 2 ∧ fieldAt e 0x0A 2 ≤ 256) && fieldAt e 0x0A 2 % 8 == 0 &&
    decide (fieldAt e 0x0C 4 ≤ 2 ^ 24 ∧ 1 ≤ fieldAt e 0x10 1 ∧ fieldAt e 0x10 1 ≤ 16) &&
    decide (fieldAt e 0x11 1 ≤ 32 ∧ fieldAt e 0x12 1 ≤ 8 ∧ fieldAt e 0x0A 2 * fieldAt e 8 1 ≤ 4096) &&
    ((sectionOf bs 6).isNone || (decide (sym < symbolCount bs) && fieldAt syms (24 * sym + 6) 2 == 2 &&
      fieldAt syms (24 * sym + 4) 2 == text)) &&
    match (textLines bs)[unit / 15]? with
    | some ws => (ws.getD 15 0).getLsbD (unit % 15)
    | none => false

/-- The file offset of the first item of a section that fails a test, of one that lies `at_` bytes into each `n`. -/
def failedAt {α : Type} (bs : List Byte) (ty n at_ : Nat) (l : List α) (ok : α → Bool) : Option Nat :=
  (l.findIdx? fun x => !ok x).map fun i => ((sectionOf bs ty).map fun x => x.off).getD 0 + n * i + at_

/-- Why the loader refuses an object: the first reason of R164's list, as the CODE of R422, with the file offset of the item that failed for
a line word (R136), a relocation or an entry record, else 0. None if it takes the object. -/
def refusalOf (s : State) (bs : List Byte) : Option (Nat × Nat) :=
  let notes := sectionBytes bs 1
  if !headerOk bs then some (0x10, 0)
  else if !sectionsOk bs then some (0x11, 0)
  else if decide ((s.dev.cap0.setWidth 8).toNat < fieldAt notes 0 1) then some (0x12, 0)
  else if fieldAt notes 2 1 == 1 && profileN s then some (0x13, 0)
  else
    match failedAt bs 2 64 60 (textLines bs) fun ws => lineVersionOk ws && lineParityOk ws with
    | some w => some (0x14, w)
    | none =>
      match failedAt bs 5 16 0 (recordsOf bs 5 16) (relocationOk bs) with
      | some w => some (0x15, w)
      | none => (failedAt bs 7 64 0 (recordsOf bs 7 64) (entryOk bs)).map fun w => (0x16, w)

/-- The loader's report of 16 bytes (R422). DEDUCED: the notes count as reached once the checks of R164 have come past the header and the
sections (log 135). -/
def loadReport (s : State) (bs : List Byte) (code where_ : Nat) : List DWord :=
  let notes := if code = 0x10 ∨ code = 0x11 then [] else sectionBytes bs 1
  [BitVec.ofNat 64 (code + fieldAt notes 0 1 * 2 ^ 8 + fieldAt notes 1 1 * 2 ^ 16 + fieldAt notes 3 1 * 2 ^ 24 +
     (s.dev.cap0.setWidth 8).toNat * 2 ^ 32), BitVec.ofNat 64 where_]

/-! ## Placing an object (R161, R165) -/

/-- Bytes written over those at an offset. -/
def patch (bs : List Byte) (at_ : Nat) (new : List Byte) : List Byte :=
  bs.take at_ ++ new ++ bs.drop (at_ + new.length)

/-- The bytes of the pool (type 3) or the data (type 4) with the relocations that target them applied (R161); `base`
gives the load VA of a section by type. -/
def relocated (bs : List Byte) (base : Nat → Nat) (ty : Nat) : List Byte :=
  let l := sectionsOf bs
  (recordsOf bs 5 16).foldl (fun b r =>
    match l[fieldAt r 8 1]?, l[fieldAt r 0x0A 2]? with
    | some t, some x =>
      if t.ty != ty then b
      else
        let add := (BitVec.ofNat 32 (fieldAt r 0x0C 4)).toInt
        let kind := fieldAt r 9 1
        let from_ : Int := if kind = 3 then 15 * (base x.ty / 64 : Nat) else (base x.ty : Nat)
        patch b (fieldAt r 0 8) (toBytes (if kind = 2 then 4 else 8) ((from_ + add) % 2 ^ 64).toNat)
    | _, _ => b) (sectionBytes bs ty)

/-- The pages of a span are mapped; those of text with X set and W clear. -/
def spanMapped (s : State) (asid : BitVec 16) (va size : Nat) (text : Bool) : Bool :=
  (List.range (size / 4096 + 2)).all fun k =>
    let a := va / 4096 * 4096 + 4096 * k
    decide (va + size ≤ a) || (match translate s.mem asid a with
      | some p => !text || (pteX p && !pteW p)
      | none => false)

/-- The MP writes a span, page by page. -/
def writeSpan (s : State) (asid : BitVec 16) (va : Nat) (bs : List Byte) : State :=
  (linePieces va bs.length).foldl (fun s x => mpWrite s asid x.1 ((bs.drop (x.1 - va)).take x.2)) s

/-- The largest W of the writes that are pending. -/
def lastPending (m : MemSys) : Nat := m.pend.foldl (fun n w => max n w.w) 0

/-- The object is placed, and the loader's `fence.rel.dev` passes (R165); the MP keeps the pool's VA and size. -/
def placeObject (s : State) (asid : BitVec 16) (base : Nat → Nat) (bs : List Byte) : State :=
  let pool := relocated bs base 3
  let s := writeSpan s asid (base 2) (sectionBytes bs 2)
  let s := writeSpan s asid (base 3) pool
  let s := writeSpan s asid (base 4) (relocated bs base 4)
  let s := tick s (lastPending s.mem - s.gt)
  updCtx s asid fun c => { c with
    pools := (c.pools.filter fun e => e.1 != BitVec.ofNat 64 (base 3)) ++ [(BitVec.ofNat 64 (base 3), pool.length / 128)] }

/-- An object is unloaded: the MP no longer keeps its pool (R165). -/
def unloadObject (s : State) (asid : BitVec 16) (pool : DWord) : State :=
  updCtx s asid fun c => { c with pools := c.pools.filter fun e => e.1 != pool }

/-- The loader loads an object at the VAs its pages are mapped at, which it chooses itself (R164, R165), and answers with its report (R422).
A context of which the MP has not heard is known from then on (log 135). With no bytes it unloads the object whose pool lies there. -/
def execLoadObject (asid : BitVec 16) (text pool data : DWord) (bytes : Option (List Byte)) (s : State) :
    Host.Outcome State Fault Refusal :=
  if s.dev.power != .on then .next s
  else
    match bytes.bind (refusalOf s), bytes with
    | _, none => .next (unloadObject s asid pool)
    | some r, some bytes => .next (reply s (loadReport s bytes r.1 r.2))
    | none, some bytes =>
      let t := if (findCtx s asid).isNone && asid != 0 then admitCtx s asid else s
      let base := fun (ty : Nat) => (if ty = 2 then text else if ty = 3 then pool else data).toNat
      let aligned := [2, 3, 4].all fun ty => (sectionOf bytes ty).all fun x => base ty % 2 ^ min x.align 64 == 0
      let mapped := [2, 3, 4].all fun ty => spanMapped t asid (base ty) (sectionBytes bytes ty).length (ty == 2)
      if !aligned || !mapped then .next s
      else
        let notes := sectionBytes bytes 1
        let level := (s.dev.cap0.setWidth 8).toNat
        let later := decide (level < fieldAt notes 1 1 ∨ level < fieldAt notes 3 1)
        .next (reply (placeObject t asid base bytes) (loadReport t bytes later.toNat 0))

/-! ## Words that are no instruction (R152, R153) -/

/-- Issuing a reserved opcode, 0xFF outside a pad, a unit with bits [1:0] = 11 that is no pad, or an ill-formed
instruction raises 0x01 or 0x02, and no other cause (R152, R153): TADDR holds the first unit, or the line word (R393). -/
def execIllegalInstruction (cause : BitVec 8) (first : DWord) (s : State) : Host.Outcome State Fault Refusal :=
  .next (if cause = 0x01 ∨ cause = 0x02 then takeTrap s { cause := cause, addr := first, lanes := s.exec } s.sp.chain.isSome s.sp.pc
    else s)

end Sys2Proof.Machine
end

