-- ==== Sys2Proof/Machine/Scribe.lean ====
section
/-! DEFINITION. The scribe instructions 0xD0 to 0xD3 (R306 to R309). -/

namespace Sys2Proof.Machine

/-- Two 64-bit values as a Block of four registers. -/
def scribeWords (r : Nat × Nat) : List Word := wordsOf (BitVec.ofNat 64 r.1) ++ wordsOf (BitVec.ofNat 64 r.2)

/-- The scribe that four registers hold. -/
def scribeAt (s : State) (n : Nat) : Nat × Nat := ((getPair s n).toNat, (getPair s (n + 2)).toNat)

/-- Reads the words of `scrb` or `scrchk` and goes on in `k` with their scribe (R307). -/
def withScribe (i : Shape) (x : Args) (s : State) (k : State → Nat × Nat → Res) : Res :=
  let n := (scalar32 s x x.b).toNat
  let lcl := x.fn.getLsbD 0
  let a := if lcl then (scalar32 s x x.a).toNat else (pairOf s x.a).toNat
  if n % 8 ≠ 0 ∨ n < 8 ∨ 4096 < n then raiseEncoding i s
  else if a % 8 ≠ 0 then raiseExec s 0x10 (BitVec.ofNat 64 a)
  else if lcl then
    lclRegion s a 8 n (lclRange s a n false) fun s =>
      match poisonedElem s a n 8 with
      | some e => raiseExec s 0x15 (BitVec.ofNat 64 e)
      | none => k s (scribeOf (dwordsOf (lclRead s s.tm.id a n)))
  else
    whenReady s (blockAccess a n) fun s =>
      let r := readAll s (blockAccess a n).elems 8 true
      if r.2.any fun e => e.2.2 then raisePoison r.1 (blockAccess a n) r.2
      else k r.1 (scribeOf (r.2.map fun e => ofBytes e.2.1))

/-- `scrchk` with the scribe of its range: the stored entry is read and compared (R307). -/
def checkScribe (x : Args) (r : Nat × Nat) (s : State) : Res :=
  let va := (pairOf s x.c).toNat
  if va % 16 ≠ 0 then raiseExec s 0x10 (BitVec.ofNat 64 va)
  else
    whenReady s (blockAccess va 16) fun s =>
      let e := readAll s (blockAccess va 16).elems 8 true
      if e.2.any fun e => e.2.2 then raisePoison e.1 (blockAccess va 16) e.2
      else .done (resultS e.1 x.d.toNat (if e.2.map (fun e => ofBytes e.2.1) = [r.1, r.2] then 0 else 1))

/-- `scrfold` (R308). -/
def foldBody (x : Args) (sub : Bool) (s : State) : Res :=
  let a := scribeAt s (fieldNum x.a)
  let b := scribeAt s (fieldNum x.b)
  .done (resultBlock s x.d.toNat (scribeWords (scribeFold sub a b)))

/-- The registers that `scrrd` writes (R309). -/
def faultWords (f : ScrFault) : List Word := wordsOf f.chunk ++ [f.count ++ f.hop, f.va.setWidth 32]

/-- `scrb` (R307). -/
def execScrb (x : Args) (s : State) : Host.Outcome State Fault Refusal :=
  run (.scrb x) (fun s => withScribe (.scrb x) x s fun s r => .done (resultBlock s x.d.toNat (scribeWords r))) s

/-- `scrchk` (R307). -/
def execScrchk (x : Args) (s : State) : Host.Outcome State Fault Refusal :=
  run (.scrchk x) (fun s => withScribe (.scrchk x) x s fun s r => checkScribe x r s) s

/-- `scrfold` (R308). -/
def execScrfold (x : Args) (s : State) : Host.Outcome State Fault Refusal := run (.scrfold x) (foldBody x false) s

/-- `scrfold.sub` (R308). -/
def execScrfoldSub (x : Args) (s : State) : Host.Outcome State Fault Refusal := run (.scrfoldSub x) (foldBody x true) s

/-- `scrrd` (R309). -/
def execScrrd (x : Args) (s : State) : Host.Outcome State Fault Refusal :=
  run (.scrrd x) (fun s =>
    .done { resultBlock s x.d.toNat (faultWords s.tm.scrFault) with tm := { s.tm with scrFault := ScrFault.none } }) s

end Sys2Proof.Machine
end

