-- ==== Sys2Proof/Machine/Dispatch.lean ====
section
/-! DEFINITION. The dispatcher: one arm per constructor of Instr. -/

namespace Sys2Proof.Machine

def exec (i : Instr) (s : State) : Host.Outcome State Fault Refusal :=
  match i with
  | .sadd x => Sys2Proof.Machine.execSadd x s
  | .saddC x => Sys2Proof.Machine.execSaddC x s
  | .ssub x => Sys2Proof.Machine.execSsub x s
  | .ssubC x => Sys2Proof.Machine.execSsubC x s
  | .smul x => Sys2Proof.Machine.execSmul x s
  | .smulC x => Sys2Proof.Machine.execSmulC x s
  | .smulh x => Sys2Proof.Machine.execSmulh x s
  | .smulhC x => Sys2Proof.Machine.execSmulhC x s
  | .smulhn x => Sys2Proof.Machine.execSmulhn x s
  | .smulhnC x => Sys2Proof.Machine.execSmulhnC x s
  | .sdiv x => Sys2Proof.Machine.execSdiv x s
  | .sdivC x => Sys2Proof.Machine.execSdivC x s
  | .sdivn x => Sys2Proof.Machine.execSdivn x s
  | .sdivnC x => Sys2Proof.Machine.execSdivnC x s
  | .srem x => Sys2Proof.Machine.execSrem x s
  | .sremC x => Sys2Proof.Machine.execSremC x s
  | .sremn x => Sys2Proof.Machine.execSremn x s
  | .sremnC x => Sys2Proof.Machine.execSremnC x s
  | .sand x => Sys2Proof.Machine.execSand x s
  | .sandC x => Sys2Proof.Machine.execSandC x s
  | .sor x => Sys2Proof.Machine.execSor x s
  | .sorC x => Sys2Proof.Machine.execSorC x s
  | .sxor x => Sys2Proof.Machine.execSxor x s
  | .sxorC x => Sys2Proof.Machine.execSxorC x s
  | .sandn x => Sys2Proof.Machine.execSandn x s
  | .sandnC x => Sys2Proof.Machine.execSandnC x s
  | .sshl x => Sys2Proof.Machine.execSshl x s
  | .sshlC x => Sys2Proof.Machine.execSshlC x s
  | .sshr x => Sys2Proof.Machine.execSshr x s
  | .sshrC x => Sys2Proof.Machine.execSshrC x s
  | .ssra x => Sys2Proof.Machine.execSsra x s
  | .ssraC x => Sys2Proof.Machine.execSsraC x s
  | .srot x => Sys2Proof.Machine.execSrot x s
  | .srotC x => Sys2Proof.Machine.execSrotC x s
  | .smin x => Sys2Proof.Machine.execSmin x s
  | .sminC x => Sys2Proof.Machine.execSminC x s
  | .smax x => Sys2Proof.Machine.execSmax x s
  | .smaxC x => Sys2Proof.Machine.execSmaxC x s
  | .sminn x => Sys2Proof.Machine.execSminn x s
  | .sminnC x => Sys2Proof.Machine.execSminnC x s
  | .smaxn x => Sys2Proof.Machine.execSmaxn x s
  | .smaxnC x => Sys2Proof.Machine.execSmaxnC x s
  | .scmp cc x => Sys2Proof.Machine.execScmp cc x s
  | .scmpC x => Sys2Proof.Machine.execScmpC x s
  | .ssel x => Sys2Proof.Machine.execSsel x s
  | .sselC x => Sys2Proof.Machine.execSselC x s
  | .smov x => Sys2Proof.Machine.execSmov x s
  | .smovC x => Sys2Proof.Machine.execSmovC x s
  | .sclz x => Sys2Proof.Machine.execSclz x s
  | .sclzC x => Sys2Proof.Machine.execSclzC x s
  | .spopc x => Sys2Proof.Machine.execSpopc x s
  | .spopcC x => Sys2Proof.Machine.execSpopcC x s
  | .sbrev x => Sys2Proof.Machine.execSbrev x s
  | .sbrevC x => Sys2Proof.Machine.execSbrevC x s
  | .sbfx x => Sys2Proof.Machine.execSbfx x s
  | .sbfxC x => Sys2Proof.Machine.execSbfxC x s
  | .sbfxSx x => Sys2Proof.Machine.execSbfxSx x s
  | .sbfxSxC x => Sys2Proof.Machine.execSbfxSxC x s
  | .sbfi x => Sys2Proof.Machine.execSbfi x s
  | .sbfiC x => Sys2Proof.Machine.execSbfiC x s
  | .sadd64 x => Sys2Proof.Machine.execSadd64 x s
  | .sadd64C x => Sys2Proof.Machine.execSadd64C x s
  | .ssub64 x => Sys2Proof.Machine.execSsub64 x s
  | .ssub64C x => Sys2Proof.Machine.execSsub64C x s
  | .smul64 x => Sys2Proof.Machine.execSmul64 x s
  | .smul64C x => Sys2Proof.Machine.execSmul64C x s
  | .br x => Sys2Proof.Machine.execBr x s
  | .brc x => Sys2Proof.Machine.execBrc x s
  | .brv x => Sys2Proof.Machine.execBrv x s
  | .brvNot x => Sys2Proof.Machine.execBrvNot x s
  | .jmp x => Sys2Proof.Machine.execJmp x s
  | .call x => Sys2Proof.Machine.execCall x s
  | .callIndirect x => Sys2Proof.Machine.execCallIndirect x s
  | .ret x => Sys2Proof.Machine.execRet x s
  | .join x => Sys2Proof.Machine.execJoin x s
  | .loop x => Sys2Proof.Machine.execLoop x s
  | .pushp x => Sys2Proof.Machine.execPushp x s
  | .invp x => Sys2Proof.Machine.execInvp x s
  | .popp x => Sys2Proof.Machine.execPopp x s
  | .exit x => Sys2Proof.Machine.execExit x s
  | .reconverge => Sys2Proof.Machine.execReconverge s
  | .spinfoState x => Sys2Proof.Machine.execSpinfoState x s
  | .spinfoActive x => Sys2Proof.Machine.execSpinfoActive x s
  | .spinfoExec x => Sys2Proof.Machine.execSpinfoExec x s
  | .yield x => Sys2Proof.Machine.execYield x s
  | .nop x => Sys2Proof.Machine.execNop x s
  | .brk x => Sys2Proof.Machine.execBrk x s
  | .brkCode x => Sys2Proof.Machine.execBrkCode x s
  | .trap x => Sys2Proof.Machine.execTrap x s
  | .rte x => Sys2Proof.Machine.execRte x s
  | .setfmt x => Sys2Proof.Machine.execSetfmt x s
  | .setrnd x => Sys2Proof.Machine.execSetrnd x s
  | .sget x => Sys2Proof.Machine.execSget x s
  | .sput x => Sys2Proof.Machine.execSput x s
  | .ltm x => Sys2Proof.Machine.execLtm x s
  | .ppoint x => Sys2Proof.Machine.execPpoint x s
  | .lnch x => Sys2Proof.Machine.execLnch x s
  | .sigDev x => Sys2Proof.Machine.execSigDev x s
  | .sigSys x => Sys2Proof.Machine.execSigSys x s
  | .wget x => Sys2Proof.Machine.execWget x s
  | .bmode x => Sys2Proof.Machine.execBmode x s
  | .xinv x => Sys2Proof.Machine.execXinv x s
  | .cmaintInv x => Sys2Proof.Machine.execCmaintInv x s
  | .cmaintMerge x => Sys2Proof.Machine.execCmaintMerge x s
  | .cmaintPurge x => Sys2Proof.Machine.execCmaintPurge x s
  | .cmaintPurgeasid x => Sys2Proof.Machine.execCmaintPurgeasid x s
  | .halt x => Sys2Proof.Machine.execHalt x s
  | .sysc x => Sys2Proof.Machine.execSysc x s
  | .syscReply gid sp value => Sys2Proof.Machine.execSyscReply gid sp value s
  | .vadd x => Sys2Proof.Machine.execVadd x s
  | .vsub x => Sys2Proof.Machine.execVsub x s
  | .vmul x => Sys2Proof.Machine.execVmul x s
  | .vmulh x => Sys2Proof.Machine.execVmulh x s
  | .vmad x => Sys2Proof.Machine.execVmad x s
  | .vmin x => Sys2Proof.Machine.execVmin x s
  | .vmax x => Sys2Proof.Machine.execVmax x s
  | .vabs x => Sys2Proof.Machine.execVabs x s
  | .vand x => Sys2Proof.Machine.execVand x s
  | .vor x => Sys2Proof.Machine.execVor x s
  | .vxor x => Sys2Proof.Machine.execVxor x s
  | .vandn x => Sys2Proof.Machine.execVandn x s
  | .vshl x => Sys2Proof.Machine.execVshl x s
  | .vshr x => Sys2Proof.Machine.execVshr x s
  | .vsra x => Sys2Proof.Machine.execVsra x s
  | .vclz x => Sys2Proof.Machine.execVclz x s
  | .vpopc x => Sys2Proof.Machine.execVpopc x s
  | .vbfx x => Sys2Proof.Machine.execVbfx x s
  | .vbfi x => Sys2Proof.Machine.execVbfi x s
  | .vcmp x => Sys2Proof.Machine.execVcmp x s
  | .vsel x => Sys2Proof.Machine.execVsel x s
  | .vmov x => Sys2Proof.Machine.execVmov x s
  | .vdot4 x => Sys2Proof.Machine.execVdot4 x s
  | .vdot4Mix x => Sys2Proof.Machine.execVdot4Mix x s
  | .vdot2 x => Sys2Proof.Machine.execVdot2 x s
  | .vdot2Mix x => Sys2Proof.Machine.execVdot2Mix x s
  | .vadd64 x => Sys2Proof.Machine.execVadd64 x s
  | .fadd x => Sys2Proof.Machine.execFadd x s
  | .fsub x => Sys2Proof.Machine.execFsub x s
  | .fmul x => Sys2Proof.Machine.execFmul x s
  | .ffma x => Sys2Proof.Machine.execFfma x s
  | .fmin x => Sys2Proof.Machine.execFmin x s
  | .fmax x => Sys2Proof.Machine.execFmax x s
  | .fcmp x => Sys2Proof.Machine.execFcmp x s
  | .fdiv x => Sys2Proof.Machine.execFdiv x s
  | .fsqrt x => Sys2Proof.Machine.execFsqrt x s
  | .frcp x => Sys2Proof.Machine.execFrcp x s
  | .frsq x => Sys2Proof.Machine.execFrsq x s
  | .fexp2 x => Sys2Proof.Machine.execFexp2 x s
  | .flog2 x => Sys2Proof.Machine.execFlog2 x s
  | .fsin x => Sys2Proof.Machine.execFsin x s
  | .fcos x => Sys2Proof.Machine.execFcos x s
  | .ftanh x => Sys2Proof.Machine.execFtanh x s
  | .fclass x => Sys2Proof.Machine.execFclass x s
  | .fscale x => Sys2Proof.Machine.execFscale x s
  | .fsgnCopy x => Sys2Proof.Machine.execFsgnCopy x s
  | .fsgnNcopy x => Sys2Proof.Machine.execFsgnNcopy x s
  | .fsgnXor x => Sys2Proof.Machine.execFsgnXor x s
  | .fxacc x => Sys2Proof.Machine.execFxacc x s
  | .fxcvt x => Sys2Proof.Machine.execFxcvt x s
  | .fxset x => Sys2Proof.Machine.execFxset x s
  | .fxadd x => Sys2Proof.Machine.execFxadd x s
  | .fxpkFx64 x => Sys2Proof.Machine.execFxpkFx64 x s
  | .fxpkFx128 x => Sys2Proof.Machine.execFxpkFx128 x s
  | .cvt x => Sys2Proof.Machine.execCvt x s
  | .cvtIns x => Sys2Proof.Machine.execCvtIns x s
  | .quant x => Sys2Proof.Machine.execQuant x s
  | .dequant x => Sys2Proof.Machine.execDequant x s
  | .lcvtTo x => Sys2Proof.Machine.execLcvtTo x s
  | .lcvtFrom x => Sys2Proof.Machine.execLcvtFrom x s
  | .lcvtProd x => Sys2Proof.Machine.execLcvtProd x s
  | .perm x => Sys2Proof.Machine.execPerm x s
  | .shfl x => Sys2Proof.Machine.execShfl x s
  | .bcast x => Sys2Proof.Machine.execBcast x s
  | .bcastFirst x => Sys2Proof.Machine.execBcastFirst x s
  | .redx x => Sys2Proof.Machine.execRedx x s
  | .scanx x => Sys2Proof.Machine.execScanx x s
  | .ballot x => Sys2Proof.Machine.execBallot x s
  | .voteAll x => Sys2Proof.Machine.execVoteAll x s
  | .voteAny x => Sys2Proof.Machine.execVoteAny x s
  | .voteUni x => Sys2Proof.Machine.execVoteUni x s
  | .rng x => Sys2Proof.Machine.execRng x s
  | .rngf x => Sys2Proof.Machine.execRngf x s
  | .vrd x => Sys2Proof.Machine.execVrd x s
  | .vwr x => Sys2Proof.Machine.execVwr x s
  | .ld x => Sys2Proof.Machine.execLd x s
  | .st x => Sys2Proof.Machine.execSt x s
  | .vld x => Sys2Proof.Machine.execVld x s
  | .vst x => Sys2Proof.Machine.execVst x s
  | .vldc x => Sys2Proof.Machine.execVldc x s
  | .vstc x => Sys2Proof.Machine.execVstc x s
  | .tld x => Sys2Proof.Machine.execTld x s
  | .tst x => Sys2Proof.Machine.execTst x s
  | .lld x => Sys2Proof.Machine.execLld x s
  | .lst x => Sys2Proof.Machine.execLst x s
  | .atxCas x => Sys2Proof.Machine.execAtxCas x s
  | .atxXchg x => Sys2Proof.Machine.execAtxXchg x s
  | .red x => Sys2Proof.Machine.execRed x s
  | .atf x => Sys2Proof.Machine.execAtf x s
  | .mcst x => Sys2Proof.Machine.execMcst x s
  | .mcstReduce x => Sys2Proof.Machine.execMcstReduce x s
  | .fenceRel x => Sys2Proof.Machine.execFenceRel x s
  | .fenceAcq x => Sys2Proof.Machine.execFenceAcq x s
  | .fenceAr x => Sys2Proof.Machine.execFenceAr x s
  | .ldacq x => Sys2Proof.Machine.execLdacq x s
  | .strel x => Sys2Proof.Machine.execStrel x s
  | .pfch x => Sys2Proof.Machine.execPfch x s
  | .hld x => Sys2Proof.Machine.execHld x s
  | .hldPool x => Sys2Proof.Machine.execHldPool x s
  | .hst x => Sys2Proof.Machine.execHst x s
  | .hset x => Sys2Proof.Machine.execHset x s
  | .fpush x => Sys2Proof.Machine.execFpush x s
  | .fpushTry x => Sys2Proof.Machine.execFpushTry x s
  | .fpop x => Sys2Proof.Machine.execFpop x s
  | .fpopTry x => Sys2Proof.Machine.execFpopTry x s
  | .bcopyIn x => Sys2Proof.Machine.execBcopyIn x s
  | .bcopyInSlot x => Sys2Proof.Machine.execBcopyInSlot x s
  | .bcopyOut x => Sys2Proof.Machine.execBcopyOut x s
  | .bfillLcl x => Sys2Proof.Machine.execBfillLcl x s
  | .bfillT x => Sys2Proof.Machine.execBfillT x s
  | .engineComplete cmd => Sys2Proof.Machine.execEngineComplete cmd s
  | .barInit x => Sys2Proof.Machine.execBarInit x s
  | .barArrive x => Sys2Proof.Machine.execBarArrive x s
  | .barSync x => Sys2Proof.Machine.execBarSync x s
  | .barSyncSt x => Sys2Proof.Machine.execBarSyncSt x s
  | .barInval x => Sys2Proof.Machine.execBarInval x s
  | .gbar x => Sys2Proof.Machine.execGbar x s
  | .gbarSt x => Sys2Proof.Machine.execGbarSt x s
  | .barWaitRelease gid sp => Sys2Proof.Machine.execBarWaitRelease gid sp s
  | .coll x => Sys2Proof.Machine.execColl x s
  | .kvalloc x => Sys2Proof.Machine.execKvalloc x s
  | .kvget x => Sys2Proof.Machine.execKvget x s
  | .kvshare x => Sys2Proof.Machine.execKvshare x s
  | .kvfree x => Sys2Proof.Machine.execKvfree x s
  | .kvReply gid sp => Sys2Proof.Machine.execKvReply gid sp s
  | .blockCopyOnWrite asid va => Sys2Proof.Machine.execBlockCopyOnWrite asid va s
  | .oclaim x => Sys2Proof.Machine.execOclaim x s
  | .orel x => Sys2Proof.Machine.execOrel x s
  | .ofill x => Sys2Proof.Machine.execOfill x s
  | .mma x => Sys2Proof.Machine.execMma x s
  | .mmag x => Sys2Proof.Machine.execMmag x s
  | .mmarow x => Sys2Proof.Machine.execMmarow x s
  | .passStart core => Sys2Proof.Machine.execPassStart core s
  | .passEnd pass => Sys2Proof.Machine.execPassEnd pass s
  | .aclr x => Sys2Proof.Machine.execAclr x s
  | .adrain x => Sys2Proof.Machine.execAdrain x s
  | .adrainRaw x => Sys2Proof.Machine.execAdrainRaw x s
  | .adrainRawSlot x => Sys2Proof.Machine.execAdrainRawSlot x s
  | .aload x => Sys2Proof.Machine.execAload x s
  | .aloadAdd x => Sys2Proof.Machine.execAloadAdd x s
  | .aloadRaw x => Sys2Proof.Machine.execAloadRaw x s
  | .tstateSlot x => Sys2Proof.Machine.execTstateSlot x s
  | .tstateTile x => Sys2Proof.Machine.execTstateTile x s
  | .tstateFlags x => Sys2Proof.Machine.execTstateFlags x s
  | .mchk x => Sys2Proof.Machine.execMchk x s
  | .mchkSt x => Sys2Proof.Machine.execMchkSt x s
  | .isect x => Sys2Proof.Machine.execIsect x s
  | .isdot x => Sys2Proof.Machine.execIsdot x s
  | .spmulo x => Sys2Proof.Machine.execSpmulo x s
  | .spmerge x => Sys2Proof.Machine.execSpmerge x s
  | .sptile x => Sys2Proof.Machine.execSptile x s
  | .lshfam x => Sys2Proof.Machine.execLshfam x s
  | .lshproj x => Sys2Proof.Machine.execLshproj x s
  | .lshprobe x => Sys2Proof.Machine.execLshprobe x s
  | .lshins x => Sys2Proof.Machine.execLshins x s
  | .lshdel x => Sys2Proof.Machine.execLshdel x s
  | .lshstep x => Sys2Proof.Machine.execLshstep x s
  | .lshstat x => Sys2Proof.Machine.execLshstat x s
  | .retrievalComplete cmd => Sys2Proof.Machine.execRetrievalComplete cmd s
  | .frozenBucketTimeout cmd => Sys2Proof.Machine.execFrozenBucketTimeout cmd s
  | .scrb x => Sys2Proof.Machine.execScrb x s
  | .scrchk x => Sys2Proof.Machine.execScrchk x s
  | .scrfold x => Sys2Proof.Machine.execScrfold x s
  | .scrfoldSub x => Sys2Proof.Machine.execScrfoldSub x s
  | .scrrd x => Sys2Proof.Machine.execScrrd x s
  | .fetchLine core asid va => Sys2Proof.Machine.execFetchLine core asid va s
  | .homeRead core asid va => Sys2Proof.Machine.execHomeRead core asid va s
  | .storeAtHome n => Sys2Proof.Machine.execStoreAtHome n s
  | .sectorUnpin core asid va => Sys2Proof.Machine.execSectorUnpin core asid va s
  | .pageMapReply asid va pte => Sys2Proof.Machine.execPageMapReply asid va pte s
  | .pacFill core asid va => Sys2Proof.Machine.execPacFill core asid va s
  | .launchMessage queue words => Sys2Proof.Machine.execLaunchMessage queue words s
  | .gangPlacement => Sys2Proof.Machine.execGangPlacement s
  | .priorityAging => Sys2Proof.Machine.execPriorityAging s
  | .reservation => Sys2Proof.Machine.execReservation s
  | .reservationPreempt queue => Sys2Proof.Machine.execReservationPreempt queue s
  | .groupRetire gid => Sys2Proof.Machine.execGroupRetire gid s
  | .teamRetire tid => Sys2Proof.Machine.execTeamRetire tid s
  | .gridComplete lid => Sys2Proof.Machine.execGridComplete lid s
  | .counterAssign ctr asid => Sys2Proof.Machine.execCounterAssign ctr asid s
  | .queueOpen queue asid => Sys2Proof.Machine.execQueueOpen queue asid s
  | .preemptRequest gang => Sys2Proof.Machine.execPreemptRequest gang s
  | .gangHalt gang => Sys2Proof.Machine.execGangHalt gang s
  | .saveComplete gang => Sys2Proof.Machine.execSaveComplete gang s
  | .gangResume gang => Sys2Proof.Machine.execGangResume gang s
  | .contextSwitch asid => Sys2Proof.Machine.execContextSwitch asid s
  | .unplaceableTerminate gang => Sys2Proof.Machine.execUnplaceableTerminate gang s
  | .barrierTimeout tid bar => Sys2Proof.Machine.execBarrierTimeout tid bar s
  | .fifoTimeout gid sp => Sys2Proof.Machine.execFifoTimeout gid sp s
  | .rendezvousTimeout gang => Sys2Proof.Machine.execRendezvousTimeout gang s
  | .collJoinTimeout cid => Sys2Proof.Machine.execCollJoinTimeout cid s
  | .chunkArrival n flips adder => Sys2Proof.Machine.execChunkArrival n flips adder s
  | .chunkResend n => Sys2Proof.Machine.execChunkResend n s
  | .collFailureNotice cid => Sys2Proof.Machine.execCollFailureNotice cid s
  | .remoteAtomicReply gid sp ok values => Sys2Proof.Machine.execRemoteAtomicReply gid sp ok values s
  | .fenceToken n => Sys2Proof.Machine.execFenceToken n s
  | .fenceAck n failed => Sys2Proof.Machine.execFenceAck n failed s
  | .windowGrant asid va grant => Sys2Proof.Machine.execWindowGrant asid va grant s
  | .windowRevoke dev asid va => Sys2Proof.Machine.execWindowRevoke dev asid va s
  | .destUnreachable dev => Sys2Proof.Machine.execDestUnreachable dev s
  | .hostAccess asid va len store => Sys2Proof.Machine.execHostAccess asid va len store s
  | .unifiedRangeChange asid base size writable => Sys2Proof.Machine.execUnifiedRangeChange asid base size writable s
  | .checkpointRequest asids to_ => Sys2Proof.Machine.execCheckpointRequest asids to_ s
  | .checkpointAbandon => Sys2Proof.Machine.execCheckpointAbandon s
  | .restoreRequest place places => Sys2Proof.Machine.execRestoreRequest place places s
  | .coldStart q => Sys2Proof.Machine.execColdStart q s
  | .warmStart asids q => Sys2Proof.Machine.execWarmStart asids q s
  | .stop => Sys2Proof.Machine.execStop s
  | .powerDomainTimeout domain die => Sys2Proof.Machine.execPowerDomainTimeout domain die s
  | .attestationRequest nonce => Sys2Proof.Machine.execAttestationRequest nonce s
  | .powerLoop r => Sys2Proof.Machine.execPowerLoop r s
  | .thermalClamp bay => Sys2Proof.Machine.execThermalClamp bay s
  | .blackBoxCopy => Sys2Proof.Machine.execBlackBoxCopy s
  | .hbmScrub stack errs => Sys2Proof.Machine.execHbmScrub stack errs s
  | .linkRetransmit cls idx ok => Sys2Proof.Machine.execLinkRetransmit cls idx ok s
  | .unitRetire cls idx code mismatch => Sys2Proof.Machine.execUnitRetire cls idx code mismatch s
  | .halfWidthSwitch core half => Sys2Proof.Machine.execHalfWidthSwitch core half s
  | .layerRetire stack layer => Sys2Proof.Machine.execLayerRetire stack layer s
  | .blockMove asid va pfn => Sys2Proof.Machine.execBlockMove asid va pfn s
  | .bridgeRetire cls idx => Sys2Proof.Machine.execBridgeRetire cls idx s
  | .bayFence bay whole code => Sys2Proof.Machine.execBayFence bay whole code s
  | .testPackage bytes failed => Sys2Proof.Machine.execTestPackage bytes failed s
  | .snapshotCopy lid va => Sys2Proof.Machine.execSnapshotCopy lid va s
  | .rollback lid => Sys2Proof.Machine.execRollback lid s
  | .contextTerminate asid code => Sys2Proof.Machine.execContextTerminate asid code s
  | .launchKill lid => Sys2Proof.Machine.execLaunchKill lid s
  | .debugResume gid terminate => Sys2Proof.Machine.execDebugResume gid terminate s
  | .accessTableWrite target idx entry => Sys2Proof.Machine.execAccessTableWrite target idx entry s
  | .violationDrain target => Sys2Proof.Machine.execViolationDrain target s
  | .loadObject asid text pool data bytes => Sys2Proof.Machine.execLoadObject asid text pool data bytes s
  | .illegalInstruction cause first => Sys2Proof.Machine.execIllegalInstruction cause first s
  | .fillDrainComplete tid idx => Sys2Proof.Machine.execFillDrainComplete tid idx s
  | .lineEviction level unit asid va => Sys2Proof.Machine.execLineEviction level unit asid va s
  | .supplyLoss => Sys2Proof.Machine.execSupplyLoss s
  | .mpFailure => Sys2Proof.Machine.execMpFailure s
  | .debuggerAttach asid attached => Sys2Proof.Machine.execDebuggerAttach asid attached s
  | .mappingChange c => Sys2Proof.Machine.execMappingChange c s
  | .releaseWaitEnd gid sp => Sys2Proof.Machine.execReleaseWaitEnd gid sp s

end Sys2Proof.Machine
end

