-- ==== Sys2Proof/Machine/Auto.lean ====
section
/-! DEFINITION. What the device does of itself when the agenda names nothing: the events whose time has come (log 1). -/

namespace Sys2Proof.Machine

/-- Events of the memory system and the fabric: stores and tokens on their way, replies, copies of shared blocks. -/
noncomputable def memoryEvents (s : State) : List Instr :=
  (s.mem.flight.map fun f => .storeAtHome f.id) ++
    (List.range s.fab.tokens.length).flatMap (fun n => [.fenceToken n, .fenceAck n []]) ++
    s.mem.asks.map fun a => .blockCopyOnWrite a.asid (BitVec.ofNat 64 (vaOfPage a.page))

/-- What a split of a group waits for: a barrier's release, the controller's answer, a reply from far. -/
noncomputable def splitEvents (s : State) (gid : Nat) (p : Split) : List Instr :=
  (if p.arrival.isSome then [.barWaitRelease gid p.num] else []) ++
    (match p.request with
      | some q => if isKv q then [.kvReply gid p.num]
                  else if (openLanes q).isEmpty then [] else [.remoteAtomicReply gid p.num true ((openLanes q).map fun y =>
                    BitVec.ofNat 64 (y.peek s (launchOfGroup s (findGroup s gid)).rcd.asid ((AtomOp.ofWord (q.words.getD 1 0)).ty.bits / 8)))]
      | none => [])

/-- Events of engines, arrays and collectives. -/
noncomputable def engineEvents (s : State) : List Instr :=
  s.eng.cmds.flatMap (fun c => if c.kind.retrieval then [.retrievalComplete c.id] else [.engineComplete c.id]) ++
    s.eng.chunks.flatMap (fun x => [.chunkArrival x.num [] [], .chunkResend x.num]) ++
    s.eng.colls.map (fun c => .collFailureNotice c.cid) ++
    s.mx.passes.map (fun p => .passEnd p.id) ++ s.mx.quarters.map (fun q => .passStart q.core)

/-- Events of a team: slots and tiles become ready, it retires. -/
noncomputable def teamEvents (t : Team) : List Instr :=
  ((List.range t.slots.length).zip t.slots).filterMap (fun e => if moving e.2.st then some (.fillDrainComplete t.id e.1) else none) ++
    ((List.range t.tiles.length).zip t.tiles).filterMap
      (fun e => if moving e.2.st then some (.fillDrainComplete t.id (32 + e.1)) else none) ++
    if t.freed then [] else [.teamRetire t.id]

/-- Events of groups, gangs, launches and contexts. -/
noncomputable def workEvents (s : State) : List Instr :=
  (allGroups s).flatMap (fun g => if g.retired then [] else
    .groupRetire g.id :: (splitsOf s g.id).flatMap (splitEvents s g.id)) ++
  (allTeams s).flatMap teamEvents ++
  s.gangs.flatMap (fun g => match g.st with
    | .halting _ => [.gangHalt g.id]
    | .halted _ => [.saveComplete g.id]
    | .saved _ => [.gangResume g.id, .unplaceableTerminate g.id]
    | _ => []) ++
  s.launches.flatMap (fun l => (if l.rollback then [.rollback l.id] else []) ++ (if l.killed || l.due then [.launchKill l.id] else []) ++
    [.gridComplete l.id]) ++
  s.sched.ctxs.filterMap fun c => if (c.closing.isSome || c.due) && !c.gone then some (.contextTerminate c.asid 1) else none

/-- Events of the dispatcher and the MP: placement, aging, reservations, units over their thresholds, what has been begun and goes on. -/
noncomputable def dispatchEvents (s : State) : List Instr :=
  [.gangPlacement, .priorityAging, .reservation] ++ s.sched.messages.map (fun m => .launchMessage m.1 m.2) ++
    s.sched.reserves.map (fun v => .reservationPreempt v.queue) ++
    (match s.dev.checkpoint with
      | some c => [.checkpointRequest c.asids { dest := c.dest, limit := 0 }, .checkpointAbandon]
      | none => []) ++
    (match s.dev.power with | .lowering _ => [.stop] | _ => []) ++
    ((s.dev.recent.map fun e => e.1.1).filter (overThreshold s)).map (fun u => .unitRetire u.1 u.2 0x01 none) ++
    (match nextMove s with
      | some p => [.blockMove (pteAsid p) (BitVec.ofNat 64 (pageBase p))
          (BitVec.ofNat 24 ((findFrames s (pageBase p) (pteSize p)).getD 0))]
      | none => []) ++
    s.dev.due.flatMap fun e =>
      if e.unit.1 = 0x0F then [.bayFence e.unit.2 e.whole e.code]
      else [.halfWidthSwitch (unitCore e.unit) (unitHalf e.unit)]

/-- An event would change the state now. -/
noncomputable def progresses (s : State) (i : Instr) : Bool :=
  match exec i s with
  | .next t => decide (t ≠ s)
  | _ => false

/-- The event that takes place of itself now: the first that changes the state, the search beginning elsewhere at each
tick. -/
noncomputable def autoEvent (s : State) : Option Instr :=
  let l := memoryEvents s ++ engineEvents s ++ workEvents s ++ dispatchEvents s
  let k := s.gt / 2 % (max 1 l.length)
  (l.drop k ++ l.take k).find? (progresses s)

end Sys2Proof.Machine
end

