-- ==== Sys2Proof/Machine/Remote.lean ====
section
/-! DEFINITION. What comes from other devices over the fabric: collectives that span devices, window grants and accesses to this device's
memory, checkpoint images (R128, R129, R334, R335, R339, R341, R345, R348, R386). -/

namespace Sys2Proof.Machine

/-! ## Collectives that span devices (R261, R339, R341) -/

/-- A participant on another device joins (R261); no engine of a device that does not run hears of it (R31). -/
def awayJoins (s : State) (r : CollRec) : State :=
  if !running s then s
  else
  match gatherColl s r with
  | (s, some c) => beginColl s { c with away := c.away ++ [{ rank := r.rank, agrees := agrees c r }], last := s.gt }
  | (s, none) => s

/-- A participant on another device has failed to read its source, and notifies the others (R261). -/
def awayStops (s : State) (cid : BitVec 16) : State :=
  { s with eng := { s.eng with colls := s.eng.colls.map fun c => if c.cid == cid && c.began then { c with stopped := true } else c } }

/-- A chunk for a participant of this device comes to a port (R331, R341): the port is its first hop, then the routers to its bay. -/
def awaySends (s : State) (port : Nat) (c : Coll) (x : Chunk) : State :=
  match partOf c x.dest with
  | some p =>
    if portLive s port then
      let n := newId s
      let x := { x with num := n.2, hops := portHop port :: hopsVia s (port / 4) p.bay (engineHop p.bay) }
      { n.1 with eng := { n.1.eng with chunks := n.1.eng.chunks ++ [x] } }
    else s
  | none => s

/-! ## Accesses by peers (R128, R129, R334, R335, R386) -/

/-- Answers a peer. -/
def answer (s : State) (dev : BitVec 12) (ws : List DWord) : State :=
  { s with fab := { s.fab with answers := s.fab.answers ++ [(dev, ws)] } }

/-- The error response to a peer (R386). -/
def peerError : List DWord := [0xFFFFFFFFFFFFFFFF]

/-- A window page may be granted: it is in placement 0 to 4 or 7, mapped, and writable if writes are asked for (R334). -/
def windowPage (s : State) (asid : BitVec 16) (va : Nat) (write : Bool) : Option Quad :=
  if isFarVa va then none else (translate s.mem asid va).filter fun p => !write || pteW p

/-- The access-table entry of a window page for a peer, at the memory controller of one of its stacks (R334, R385): the controller
addresses of the page's stripe there. -/
def windowEntry (dev : BitVec 12) (p : Quad) (stack : Nat) (write : Bool) : Quad :=
  let runs := (pageRuns p).filter fun r => r / 2 ^ 40 == stack
  let grain := runs.map fun r => r % 2 ^ 40 / 4096
  let first := grain.foldl min (grain.headD 0)
  let last := grain.foldl max 0
  BitVec.ofNat 128 (1 + 2 + (if write then 4 else 0) + mkPeer * 2 ^ 8 + dev.toNat * 2 ^ 16 + first * 2 ^ 64 + last * 2 ^ 96)

/-- The MP answers a peer's MP that asks for a window grant (R334): it installs the entries at an index of its access tables and grants
the page, or refuses, as it must where a table has no entry left for the peer (R385). A device that is not on answers nothing (R31), nor
does an MP that no path joins to the peer (R350). -/
def grantPeer (s : State) (dev : BitVec 12) (asid : BitVec 16) (va : DWord) (write : Bool) (idx : Option Nat) : State :=
  if s.dev.power != .on || !pathLive s 256 dev.toNat then s
  else
    match idx, windowPage s asid va.toNat write with
    | some k, some p =>
      let homes := ((pageRuns p).map fun r => r / 2 ^ 40).foldl (fun l x => addOnce x l) []
      let new := homes.map fun t => ({ target := t, idx := k, word := windowEntry dev p t write } : AccEntry)
      if new.all fun e => accRoom s e.target k e.word then
        answer (setAcc s (fun e => homes.contains e.target && e.idx == k) new) dev [0, va, BitVec.ofNat 64 (pteSize p)]
      else answer s dev [1]
    | _, _ => answer s dev [1]

/-- The MP revokes a grant that it gave a peer at an index of its access tables (R335): from then on the peer's accesses are denied. -/
def revokePeer (s : State) (dev : BitVec 12) (idx : Nat) : State :=
  if s.dev.power != .on then s
  else setAcc s (fun e => e.idx == idx && accMaster e.word == (BitVec.ofNat 3 mkPeer, dev.setWidth 16)) []

/-- What a peer's access meets at an address (R334, R386): the page, or none, with the place of a denial. -/
def peerSees (s : State) (dev : BitVec 12) (asid : BitVec 16) (va : Nat) (write : Bool) : Except (Option Nat) Quad :=
  match windowPage s asid va write with
  | none => .error none
  | some p =>
    if physPermits s mkPeer (dev.setWidth 16) (physOf p va) write then .ok p else .error (some (physOf p va))

/-- Bytes that a peer's access covers. -/
def PeerOp.size : PeerOp → Nat
  | .read n => n
  | .write bs => bs.length
  | .red _ t _ => t.bits / 8
  | .atomic _ _ _ t _ _ => t.bits / 8
/-- A peer's access writes. -/
def PeerOp.writes : PeerOp → Bool
  | .read _ => false
  | _ => true
/-- A peer's access is posted: what it counts at the port, no answer tells (R128, R130). -/
def PeerOp.posted : PeerOp → Bool
  | .write _ | .red _ _ _ => true
  | _ => false

/-- A peer's access of one kind within one line, at the home, never leased (R122, R128, R129): the state, the value read, and the W, which an
atomic that writes nothing has too (R124). -/
def peerAct (s : State) (p : Quad) (va : Nat) (op : PeerOp) : State × List DWord × Nat :=
  let s := recallLine s (pteAsid p) (lineOf va)
  let ph := physOf p va
  let put := fun (bs : List Byte) => homeWrite s (pteAsid p) (lineOf va)
    (writableBytes s (pteAsid p) (lineOf va) (((List.range bs.length).zip bs).map fun c => (ph + c.1, c.2)))
  match op with
  | .read n => (s, (chunksOf (ceilDiv n 8) 8 (currentBytes s.mem ph n)).map (fun b => BitVec.ofNat 64 (ofBytes b)), s.gt)
  | .write bs => ((put bs).1, [], (put bs).2)
  | .red k t v =>
    let r := put (toBytes (t.bits / 8) (reduceOp k.toNat t (ofBytes (latestBytes s.mem ph (t.bits / 8))) v).1)
    (r.1, [], r.2)
  | .atomic cas xchg k t d c =>
    let old := ofBytes (latestBytes s.mem ph (t.bits / 8))
    let a : AtomOp := { cas := cas, xchg := xchg, op := k, ty := t }
    let r := put (match a.value old d c with | some v => toBytes (t.bits / 8) v | none => [])
    (r.1, [BitVec.ofNat 64 old], r.2)

/-- The fence counter of a source at a port (R130). -/
def peerSrc (s : State) (port : Nat) (dev : BitVec 12) (src : Nat) : PeerSrc :=
  (s.fab.sources.find? fun x => x.port == port && x.dev == dev && x.src == src).getD { port := port, dev := dev, src := src, passed := 0, w := 0 }

/-- Replaces the fence counter of a source. -/
def setPeerSrc (s : State) (y : PeerSrc) : State :=
  { s with fab := { s.fab with
    sources := s.fab.sources.filter (fun x => !(x.port == y.port && x.dev == y.dev && x.src == y.src)) ++ [y] } }

/-- A posted write of a source has passed, with its W (R130). -/
def notePassed (s : State) (y : PeerSrc) (w : Nat) : State := setPeerSrc s { y with passed := y.passed + 1, w := max y.w w }

/-- A peer's access arrives at a port (R334, R345, R386): its access table is checked, and it is performed at the home, or answered with an
error. An atomic is answered at its W (R124); a posted write is counted for its source (R130). One to a page that a checkpoint holds, or to
a bay that the port's messages do not reach (R331, R350), is not performed yet, nor one that crosses a line. -/
def peerAccess (s : State) (port : Nat) (dev : BitVec 12) (src : Nat) (asid : BitVec 16) (va : DWord) (op : PeerOp) : State :=
  if !running s || !portLive s port || checkpointHolds s asid || decide (128 < va.toNat % 128 + op.size) then s
  else
    let y := peerSrc s port dev src
    let fail := fun (s : State) => let t := answer s dev peerError; if op.posted then notePassed t y 0 else t
    match peerSees s dev asid va.toNat op.writes with
    | .error none => fail s
    | .error (some ph) => fail (logViolation s ph mkPeer (dev.setWidth 16) op.writes)
    | .ok p =>
      if homeCut s (64 * (port / 4)) va.toNat then s
      else
        let r := peerAct s p va.toNat op
        if op.posted then notePassed r.1 y r.2.2
        else
          let f := { r.1.fab with gives := r.1.fab.gives ++ [(r.2.2, dev, r.2.1)] }
          { r.1 with fab := givePeers f r.1.gt }

/-- A release token of a source comes to a port, which is its last hop (R130): it waits there until the writes it counts have passed, and is
acknowledged once GT has come to their W. -/
def peerToken (s : State) (port : Nat) (dev : BitVec 12) (src count : Nat) : State :=
  let y := peerSrc s port dev src
  if !running s || !portLive s port || decide (y.passed < count) then s
  else
    let s := setPeerSrc s { y with passed := y.passed - count }
    { s with fab := givePeers { s.fab with gives := s.fab.gives ++ [(y.w, dev, [BitVec.ofNat 64 count])] } s.gt }

/-- The destination's access table comes to deny reads or writes of a window page, or denies them no more (R334). Loads that have issued are
performed before (log 180). -/
def setDenied (s : State) (asid : BitVec 16) (va : DWord) (write on : Bool) : State :=
  let e := (asid, va.toNat % 2 ^ 54 / 4096, write)
  let s := if on && !write then performBefore s fun _ a x => placement x == 5 && a == asid && x % 2 ^ 54 / 4096 == e.2.1 else s
  { s with fab := { s.fab with denied := if on then addOnce e s.fab.denied else s.fab.denied.filter fun x => x != e } }

/-! ## All of it -/

/-- Something comes from another device, or the control node takes a message (R382). -/
def remote (m : Remote) (s : State) : State :=
  match m with
  | .join cid kind efmt npart root anchor count rank =>
    awayJoins s { kind := kind, efmt := efmt, cid := cid, npart := npart, root := root, anchor := anchor, rank := rank
                  src := 0, dst := 0, count := count, plist := 0 }
  | .stop cid => awayStops s cid
  | .chunk port cid dest org chunk step src s0 s1 ovf rsnd hop payload =>
    match s.eng.colls.find? fun c => c.cid == cid && c.began with
    | none => s
    | some c =>
      let v : PVal := { org := org, chunk := chunk, slots := payload, ovf := ovf, step := step, final := false }
      awaySends s port c
        { num := 0, coll := c.id, dest := dest, org := org, chunk := chunk, step := step
          chunkId := chunkIdOf c step src (chunkIndex c step src v), s0 := s0, s1 := s1
          fmt := if reduces c.kind then 11 else BitVec.ofNat 4 c.efmt, ovf := ovf, rsnd := rsnd, anchor := c.anchor
          hop := hop, payload := payload, side := none, prev := hop, hops := [], tries := 0, rerouted := false
          waiting := false, out := false }
  | .image place x => { s with fab := { s.fab with images := s.fab.images.filter (fun e => e.1 != place) ++ [(place, x)] } }
  | .window dev asid va write idx => grantPeer s dev asid va write idx
  | .revoke dev idx => revokePeer s dev idx
  | .deny asid va write on => setDenied s asid va write on
  | .access port dev src asid va op => peerAccess s port dev src asid va op
  | .token port dev src count => peerToken s port dev src count
  | .resend num => resendSent s num
  | .verified num => verifySent s num
  | .lostChunk cid up rel org chunk chunkId hop =>
    match s.eng.colls.find? fun c => c.cid == cid && c.began with
    | some c => noteLost s c { up := up, rel := rel, org := org, chunk := chunk, chunkId := chunkId, hop := hop }
    | none => s
  | .control => if hostUp s then { s with rel := { s.rel with ctl := s.rel.ctl.drop 1 } } else s

end Sys2Proof.Machine
end

