-- ==== Sys2Proof/Machine/Turn.lean ====
section
/-! DEFINITION. Whose turn it is to issue (R46, R52, R318, R404), and what a split does in its turn (R44, R136, R138, R153). -/

namespace Sys2Proof.Machine

/-- What the split in focus does at its PC (R44, R136, R153, R318). Pads take no issue slot: it goes on at the unit behind them, over at
most `fuel` lines of them, and if it finds nothing but pads it has taken no turn, `turn` being the split that issued before it (R138). DESIGN
CHOICE: where a JPC names a pad, the split joins if its PC stands on that pad; a JPC further inside a run of pads it steps over (log 198). -/
noncomputable def issueOver (fuel turn : Nat) (s : State) : Host.Outcome State Fault Refusal :=
  if atJoin s then exec .reconverge s
  else
    match lookAtPc s with
    | (t, .instr i) => if bondClamped t i then .next (park .register t) else exec i t
    | (t, .illegal c a) => exec (.illegalInstruction c a) t
    | (t, .pads pc) =>
      let t := { t with sp := { t.sp with pc := pc } }
      match fuel with
      | 0 => .next { t with g := { t.g with turn := turn } }
      | f + 1 => issueOver f turn t
    | (t, .fail tr) => .next (takeTrap t tr t.sp.chain.isSome t.sp.pc)
    | (t, .asked) => .next (park .mapping t)

/-- What the split in focus does in its turn: it takes a cause that a watchdog has raised meanwhile (R52), or does what stands at its PC. -/
noncomputable def issueAt (turn : Nat) (s : State) : Host.Outcome State Fault Refusal :=
  match s.sp.event with
  | some e => .next (takeEvent s e)
  | none => issueOver 16 turn s

/-- A split that waits would wait on in the same way if it tried again: what it waits for has not come, and it is not ready (R318). -/
noncomputable def stillWaits (s : State) (g : Group) (p : Split) : Bool :=
  p.wait.isSome && (match issueAt g.turn (focus s { gid := g.id, sp := p.num }) with
    | .next t => t.sp.num == p.num && t.sp.wait == p.wait
    | _ => false)

/-- Nothing keeps a split from trying to issue: it is there, nothing holds its group, no chain of the core goes first, and no request
stops it (R52, R318, R326). -/
def unbarred (s : State) (g : Group) (p : Split) : Bool :=
  maySplit s g p && !groupHeld s g p && !chainFirst s g p && !haltStops s g p

/-- It is the split's turn (R46): no split of its group that is ready, and that nothing bars, stands before it. One whose wait goes on may
try, and changes nothing by it. -/
noncomputable def ownTurn (s : State) (g : Group) (p : Split) : Bool :=
  p.chain.isSome || stillWaits s g p || (splitsOf s g.id).all fun q =>
    !(unbarred s g q && !stillWaits s g q && decide (turnsBehind g q.num < turnsBehind g p.num))

/-- A split issues now (R46, R52, R318, R326): nothing bars it, and it is its turn. -/
noncomputable def takesTurn (s : State) (g : Group) (p : Split) : Bool := unbarred s g p && ownTurn s g p

/-- The split in focus has taken its turn, unless its wait goes on. -/
noncomputable def noteTurn (s : State) : State :=
  if stillWaits s s.g s.sp then s else { s with g := { s.g with turn := s.sp.num } }

/-- The next split in round-robin order (R46): groups in lists stand behind those that issued before them, the
split in focus is last, and an open latch chain goes on first (R52). -/
noncomputable def nextSplit (s : State) : Option Who :=
  let may := takesTurn s
  let cands := s.groups.flatMap (fun g => (g.others.filter (may g)).map fun p => (g.id, p.num)) ++
    (s.g.others.filter (may s.g)).map (fun p => (s.g.id, p.num)) ++
    (if may s.g s.sp then [(s.g.id, s.sp.num)] else [])
  match cands with
  | c :: _ => some { gid := c.1, sp := c.2 }
  | [] => none

/-- The split in focus raises a synchronous cause in its turn. -/
noncomputable def raisesNow (s : State) : Bool :=
  s.sp.event.isNone && (match issueAt s.g.turn s with
    | .next t => !s.g.inHandler && t.g.id == s.g.id && t.g.inHandler
    | _ => false)

/-- Among turns that follow in the same cycle one is a split of group `gid` below `n` that takes its turn and raises a synchronous cause;
the group's turns before it are noted in passing. -/
noncomputable def lowerRaises (gid n : Nat) : List Turn → State → Bool
  | [], _ => false
  | t :: rest, s =>
    match t.act with
    | .issue w | .late w =>
      let f := focus s w
      if w.gid == gid && takesTurn f f.g f.sp then
        decide (w.sp < n) && raisesNow f || lowerRaises gid n rest (noteTurn f)
      else lowerRaises gid n rest s
    | _ => lowerRaises gid n rest s

/-- The split in focus and a lower-numbered one of its group raise a synchronous cause in the same cycle, for the agenda's next turns come
without a tick between: the lower-numbered one traps, and the instruction of this one is not performed (R404). -/
noncomputable def yields (s : State) : Bool :=
  raisesNow s && lowerRaises s.g.id s.sp.num (s.agenda.takeWhile fun t => t.ticks == 0) (noteTurn s)

/-- The split in focus issues if it is its turn (R46, R52); where a lower-numbered one traps in its place, its turn has passed (R404). -/
noncomputable def issueHere (s : State) : Host.Outcome State Fault Refusal :=
  if takesTurn s s.g s.sp then
    if yields s then .next (noteTurn s) else issueAt s.g.turn (noteTurn s)
  else .next s

end Sys2Proof.Machine
end

