-- ==== Sys2Proof/Machine/Step.lean ====
section
/-! DEFINITION. One step of the device: the next turn of the agenda, or the default turn. -/

namespace Sys2Proof.Machine

/-- An element of a load of a group is performed, or a store of it into scratchpad (R114, R118). -/
def loadHere (s : State) (gid id k : Nat) : State :=
  if (findGroup s gid).late.any fun y => y.id == id then performLate (focusGroup s gid) id k else s

/-- The split in focus issues, and a load of its own is performed later (R114). -/
noncomputable def issueLate (s : State) : Host.Outcome State Fault Refusal :=
  match issueHere { s with sp := { s.sp with defer := true } } with
  | .next t => .next (settleDefer t)
  | r => r

/-- An event of the table that only the words at a split's PC bring about (R44, R153). -/
def ofWords : Instr → Bool
  | .reconverge | .illegalInstruction _ _ => true
  | _ => false

/-- What a turn's act does. -/
noncomputable def perform (a : Act) (s : State) : Host.Outcome State Fault Refusal :=
  match a with
  | .issue w => issueHere (focus s w)
  | .late w => issueLate (focus s w)
  | .load gid id k => .next (loadHere s gid id k)
  | .remote m => .next (remote m s)
  | .upset x corrected => .next (if running s then strike x corrected s else s)
  | .event i => if i.encodable || ofWords i then .next s else exec i s

/-- What waits for its turn otherwise: a load that is performed later (R114), a message of the control port (R382). -/
def waitingAct (s : State) : Option Act :=
  match (allGroups s).find? fun g => !g.late.isEmpty with
  | some g => g.late.head?.map fun y => .load g.id y.id 0
  | none => if !s.rel.ctl.isEmpty && hostUp s then some (.remote .control) else none

/-- The default turn's act: a split in round-robin order, or an event whose time has come or something else that waits; each has the first
choice at every other tick (log 1). -/
noncomputable def defaultAct (s : State) : Option Act :=
  let issue := (nextSplit s).map Act.issue
  let event := match waitingAct s with | some a => some a | none => (autoEvent s).map Act.event
  if s.gt % 2 = 0 then (match issue with | some a => some a | none => event)
  else match event with | some a => some a | none => issue

/-- One step: the first turn of the agenda, after its ticks have passed; with no turn left, one tick passes
and the default act takes place (log 1). -/
noncomputable def step (s : State) : Host.Outcome State Fault Refusal :=
  match s.agenda with
  | t :: rest => perform t.act (tick { s with agenda := rest } t.ticks)
  | [] =>
    match defaultAct (tick s 1) with
    | some a => perform a (tick s 1)
    | none => .next (tick s 1)

/-- `s` with one instruction placed where `step` issues next: the load and launch of a one-instruction program
(log 19). -/
def State.withFetchWord (s : State) (nbits w : Nat) : State :=
  placeUnits (placeProgram s 0xFFFFFFFF) (tableUnits nbits w)

end Sys2Proof.Machine
end

