-- ==== Sys2Proof/Safety.lean ====
section
/-! DEFINITION. What the statements speak of: the canonical form of every store, when an instruction may act, and what
an instruction of a shape changes and leaves alone. -/

namespace Sys2Proof.Machine

/-! ## The canonical form -/

/-- The memory of the stacks, of the host and of the peers is in canonical form: addresses strictly rising, no byte
that equals what an unlisted address reads as. -/
def Memory.wf (s : State) : Bool := cellsWf s.mem.phys && cellsWf s.fab.host && cellsWf s.fab.peer

/-- The registers of a group, and those kept while it is away, are in canonical form. -/
def Group.wf (g : Group) : Bool :=
  cellsWf g.sregs && cellsWf g.vregs && cellsWf g.masks && cellsWf g.latches &&
    g.image.all fun m => cellsWf m.sregs && cellsWf m.vregs && cellsWf m.masks && cellsWf m.latches

/-- The scratchpad, slots and tiles of a team, and those kept while it is away, are in canonical form. -/
def Team.wf (t : Team) : Bool :=
  cellsWf t.lcl && t.slots.all (fun o => cellsWf o.bytes) && t.tiles.all (fun o => cellsWf o.elems) &&
    t.image.all fun m =>
      cellsWf m.lcl && m.slots.all (fun o => cellsWf o.bytes) && m.tiles.all (fun o => cellsWf o.elems)

/-- Every store of the device is in canonical form. -/
def State.wf (s : State) : Bool :=
  Memory.wf s && cellsWf s.sched.counters && s.g.wf && s.groups.all Group.wf && s.tm.wf && s.teams.all Team.wf

/-! ## Issue and completion -/

/-- The instruction passes the checks made at issue, so that it may act. -/
def Ready (i : Instr) (s : State) : Prop := issueCheck i.shape s = .go

/-- The address of the instruction after one at the split's PC. -/
def pcAfter (i : Instr) (s : State) : DWord := s.sp.pc + BitVec.ofNat 64 i.length

/-- The split in focus has completed an instruction and stands at `pc`: it waits for nothing, and its latch chain is
what R50 makes of it. -/
def placed (i : Instr) (s t : State) (pc : DWord) : Prop :=
  t.sp.pc = pc ∧ t.sp.wait = none ∧ t.sp.since = t.gt ∧ t.sp.chain = chainAfter i.shape s

/-- Nothing changes but the scalar registers and poison marks of the group in focus, and the place of its split. -/
def OnlyScalars (s t : State) : Prop :=
  t = { s with
    g := { s.g with sregs := t.g.sregs, poison := t.g.poison }
    sp := { s.sp with pc := t.sp.pc, wait := t.sp.wait, since := t.sp.since, chain := t.sp.chain } }

/-- A Form A instruction has written a word to a scalar register, and nothing else. -/
def WroteScalar (i : Instr) (s t : State) (d : Nat) (v : Word) : Prop :=
  OnlyScalars s t ∧ placed i s t (pcAfter i s) ∧ getS t d = v ∧ ∀ n, n ≠ d → getS t n = getS s n

/-- A Form A instruction has written a pair of scalar registers, low word first, and nothing else. -/
def WrotePair (i : Instr) (s t : State) (d : Nat) (v : DWord) : Prop :=
  OnlyScalars s t ∧ placed i s t (pcAfter i s) ∧ getPair t d = v ∧ ∀ n, n ≠ d → n ≠ d + 1 → getS t n = getS s n

/-- The state has changed in nothing but the scalar registers, poison marks and latches of the group in focus, the place
of its split, and the model's counter of free values. -/
def OnlyScalarsAndLatches (s t : State) : Prop :=
  t = { s with
    g := { s.g with sregs := t.g.sregs, poison := t.g.poison, latches := t.g.latches, latchVec := t.g.latchVec }
    sp := { s.sp with pc := t.sp.pc, wait := t.sp.wait, since := t.sp.since, chain := t.sp.chain }
    fresh := t.fresh }

/-- A Form C scalar instruction has put its result into every lane of the latch of its place in the chain, and into
its register, or pair, unless it is suppressed (R50, R166). -/
def WroteChained (i : Instr) (s t : State) (x : Args) (pair : Bool) (v : DWord) : Prop :=
  OnlyScalarsAndLatches s t ∧ placed i s t (pcAfter i s) ∧
    (∀ k l, l < 32 → peek t.g.latches (32 * k + l) =
      if k = chainPos s % 4 then v.setWidth 128 else peek s.g.latches (32 * k + l)) ∧
    (∀ n, getS t n =
      if x.sup then getS s n
      else if n = x.d.toNat then v.setWidth 32
      else if pair ∧ n = x.d.toNat + 1 then (v >>> 32).setWidth 32 else getS s n)

/-- The conditions of R169, at a width. -/
def ccHolds {w : Nat} (cc : Nat) (a b : BitVec w) : Bool :=
  match cc with
  | 0 => a == b
  | 1 => a != b
  | 2 => a.slt b
  | 3 => a.sle b
  | 4 => b.slt a
  | 5 => b.sle a
  | 6 => a.ult b
  | 7 => a.ule b
  | 8 => b.ult a
  | _ => b.ule a

/-- The split in focus goes on at `pc` after an instruction whose effect has made `u` of `s`. -/
def goesTo (i : Instr) (s u : State) (pc : DWord) : State :=
  { u with sp := { u.sp with pc := pc, wait := none, since := u.gt, chain := chainAfter i.shape s } }

/-- The split in focus goes on at the next instruction after an effect that has made `u` of `s`. -/
def passes (i : Instr) (s u : State) : State := goesTo i s u (pcAfter i s)

/-- The instruction ends in a trap of the split in focus, in the state `u` that its effect had reached. DEDUCED: TCAUSE.CHAIN is 1 at the
instruction that opens a chain too (log 70). -/
def traps (i : Instr) (s u : State) (cause : BitVec 8) (addr : DWord) (lanes : Word) : State :=
  takeTrap u { cause := cause, addr := addr, lanes := lanes } (s.sp.chain.isSome || suppresses i.shape) (pcAfter i s)

/-- Some register that the instruction names is still to be written, by an engine (R318) or by a load of the group that is
performed later (R114). -/
def namesPending (i : Instr) (s : State) : Prop :=
  (∃ n, n ∈ (useOf i.shape).sread ++ (useOf i.shape).swrite ∧ n ∈ s.g.pending) ∨ lateReg i.shape s = true

/-- Some vector register that the instruction names lies at or above the group's allocation (R153). -/
def namesHigh (i : Instr) (s : State) : Prop :=
  ∃ r, r ∈ (useOf i.shape).vread ++ (useOf i.shape).vwrite ∧ s.g.nv < r.1 + r.2

/-- Nothing changes but what the instruction caches and the page-attribute caches hold. -/
def OnlyCodeCaches (s t : State) : Prop :=
  t = { s with mem := { s.mem with icache := t.mem.icache, pac := t.mem.pac } }

/-- L0 holds a scalar result in every lane, and the other latches are as before (R50). -/
def InL0 (s t : State) (v : Quad) : Prop :=
  ∀ k l, l < 32 → peek t.g.latches (32 * k + l) = if k = 0 then v else peek s.g.latches (32 * k + l)

/-- An instruction of Form B or C that stands in no chain has written a word to a scalar register, and to L0 (R50), and
nothing else. -/
def WroteWord (i : Instr) (s t : State) (d : Nat) (v : Word) : Prop :=
  OnlyScalarsAndLatches s t ∧ t.fresh = s.fresh ∧ placed i s t (pcAfter i s) ∧ InL0 s t (v.setWidth 128) ∧ getS t d = v ∧
    ∀ n, n ≠ d → getS t n = getS s n

/-- The same for a pair of registers, low word first. -/
def WroteDouble (i : Instr) (s t : State) (d : Nat) (v : DWord) : Prop :=
  OnlyScalarsAndLatches s t ∧ t.fresh = s.fresh ∧ placed i s t (pcAfter i s) ∧ InL0 s t (v.setWidth 128) ∧ getPair t d = v ∧
    ∀ n, n ≠ d → n ≠ d + 1 → getS t n = getS s n

/-! ## Vector results -/

/-- Nothing changes but the vector registers, poison marks, latches and FLAGS of the group in focus, the place of its
split, and the model's counter of free values. -/
def OnlyVectors (s t : State) : Prop :=
  t = { s with
    g := { s.g with
      vregs := t.g.vregs, poison := t.g.poison, latches := t.g.latches, latchVec := t.g.latchVec, flags := t.g.flags }
    sp := { s.sp with pc := t.sp.pc, wait := t.sp.wait, since := t.sp.since, chain := t.sp.chain }
    fresh := t.fresh }

/-- A vector instruction has put a result of `k` words per lane, in the lanes of the execution mask, into the latch of
its place in the chain and, unless it is suppressed, into the registers from d9 on; other lanes and registers are as
before; FLAGS has gained `fl` (R50, R77, R197, R198). That the latch holds zeros above the result is log 200 (DESIGN CHOICE). -/
def WroteVector (i : Instr) (s t : State) (x : Args) (k : Nat) (val : Nat → Nat) (fl : Flags) : Prop :=
  OnlyVectors s t ∧ placed i s t (pcAfter i s) ∧ t.g.flags = (s.g.flags ||| fl) ∧
    (∀ q l, l < 32 → peek t.g.latches (32 * q + l) =
      if q = chainPos s % 4 ∧ l ∈ activeLanes s then BitVec.ofNat 128 (val l) else peek s.g.latches (32 * q + l)) ∧
    ∀ r l, l < 32 → getV t r l =
      if x.sup = false ∧ l ∈ activeLanes s ∧ x.d.toNat ≤ r ∧ r < x.d.toNat + k then
        BitVec.ofNat 32 (val l / 2 ^ (32 * (r - x.d.toNat)))
      else getV s r l

/-- A vector instruction that sets no flag completes with a result per lane. -/
def WritesVector (i : Instr) (s : State) (x : Args) (k : Nat) (val : Nat → Nat) : Prop :=
  ∃ t, exec i s = .next t ∧ WroteVector i s t x k val 0

/-- A vector instruction whose lanes give a result and flags each: it completes if FTRAP enables none of the flags of
its active lanes, and otherwise raises 0x28, or 0x29 if FXO is the only such flag, over the lanes that set one, in the
state `u` it has reached, and writes nothing (R77, R78). -/
def Computes (i : Instr) (s u : State) (x : Args) (k : Nat) (r : Nat → Nat × Flags) : Prop :=
  let hit := allFlags s (fun l => (r l).2) &&& s.g.ftrap
  (hit = 0 → ∃ t, exec i s = .next t ∧ WroteVector i s t x k (fun l => (r l).1) (allFlags s fun l => (r l).2)) ∧
    (hit ≠ 0 → exec i s = .next (traps i s u (if hit = fFXO then 0x29 else 0x28) (hit.setWidth 64)
      (maskOf fun l => s.exec.getLsbD l && ((r l).2 &&& s.g.ftrap) != 0)))

/-- An instruction has written the bits of a mask register in the lanes of the execution mask, and FLAGS has gained
`fl`; m0 is not written (R49, R202, R208). -/
def WroteMask (i : Instr) (s t : State) (m : Nat) (p : Nat → Bool) (fl : Flags) : Prop :=
  t = { s with
      g := { s.g with masks := t.g.masks, flags := s.g.flags ||| fl }
      sp := { s.sp with pc := t.sp.pc, wait := t.sp.wait, since := t.sp.since, chain := t.sp.chain } } ∧
    placed i s t (pcAfter i s) ∧
    ∀ n l, l < 32 → (getM t n).getLsbD l =
      if n = m ∧ m ≠ 0 ∧ l ∈ activeLanes s then p l else (getM s n).getLsbD l

/-! ## Results that R211 bounds -/

/-- The real number of a finite value; a NaN and an infinity have none. -/
noncomputable def Val.real : Val → ℝ
  | .fin neg mag exp => (if neg then -1 else 1) * mag * 2 ^ exp
  | .inf _ | .nan _ => 0

/-- One unit in the last place of FP32 at a real number (R211). -/
noncomputable def ulp32 (y : ℝ) : ℝ := 2 ^ (max (Int.log 2 |y|) (-126) - 23)

/-- An FP32 result that is exact, with no flag. -/
def Exactly (r : Nat × Flags) (y : ℝ) : Prop :=
  r.2 = 0 ∧ ∃ neg mag exp, fmtF32.value r.1 = .fin neg mag exp ∧ (Val.fin neg mag exp).real = y

/-- An FP32 result that is not exact lies within an error of a real number, with the flags of its place; an infinity stands for 2^128, the
least magnitude beyond the format (R77, R211). -/
def Near (r : Nat × Flags) (y err : ℝ) : Prop :=
  r.2 = (fNX ||| (if r.1 % 2 ^ 31 < 0x00800000 then fUF else 0) ||| (if r.1 % 2 ^ 31 = 0x7F800000 then fOF else 0)) ∧
    match fmtF32.value r.1 with
    | .fin neg mag exp => |(Val.fin neg mag exp).real - y| ≤ err
    | .inf neg => if neg then y ≤ err - 2 ^ 128 else 2 ^ 128 - err ≤ y
    | .nan _ => False

/-! ## Accesses that may be performed at once -/

/-- Every element of a load is aligned and lies on a page that is translated and permits it, no logged store waits for its page, no own
write to an element is on its way past the L1 cache once the group's contributions to its lines have merged, and no load of the group that
is performed later reads its sector (R91, R92, R113, R228). -/
def Mapped (s : State) (x : Access) : Prop :=
  ∀ e ∈ x.elems, (∃ p, seeElem s x e = .page p) ∧
    (∀ i ∈ s.mem.side, i.page = pageOf e.va → i.asid ≠ s.asid ∧ i.asid ≠ 0) ∧
    (∀ p r w, pageAttr s s.agent e.va = some (p, r, w) →
      let m := mergeOwnAt s x.elems
      ownWriteBusy m m.g m.tm.core p e.va x.size = false) ∧
    lateMeets s e.va x.size = false

/-- The state in which an access acts: the group's contributions to its lines have merged (R113, R122), and the page-attribute cache holds
its pages (R228). -/
def attributed (s : State) (x : Access) : State := x.elems.foldl (fun s e => fillPac s s.agent e.va) (mergeOwnAt s x.elems)

/-- The elements of a store as an access. -/
def putAccess (l : List Put) (n : Nat) (scalar : Bool) : Access :=
  { elems := l.map Put.elem, size := n, write := true, scalar := scalar }

/-- Every element of a store is aligned and lies on a page that is translated and permits it, the group has no logged
stores to those pages, and no load of the group that is performed later reads their sectors (R92, R113, R228). -/
def MappedStore (s : State) (l : List Put) (n : Nat) (scalar : Bool) : Prop :=
  ∀ p ∈ l, (∃ e, seeElem s (putAccess l n scalar) p.elem = .page e) ∧ sidePending s.mem s.g.id (pageOf p.va) = false ∧
    lateMeets s p.va n = false

/-- No launch but this one holds a copy of a granule of a context, so that touching it entangles nothing (R389). -/
def Untangled (s : State) (lid : Nat) (asid : BitVec 16) (gran : Nat) : Prop :=
  ∀ l ∈ s.launches, l.id ≠ lid → l.rcd.asid = asid → ∀ e ∈ l.snap, e.gran ≠ gran

/-- No unit holds a line, not for reductions either. -/
def NotHeld (s : State) (asid : BitVec 16) (line : Nat) : Prop :=
  (∀ c ∈ s.mem.l1 ++ s.mem.cc, c.asid = asid → c.line ≠ line) ∧ ∀ u ∈ s.mem.ulines, u.asid = asid → u.line ≠ line

/-! ## Tiles, slots, scratchpad and commands that may be used at once -/

/-- A scratchpad region is aligned and lies in an allocation, its banks are in scratchpad role, no outstanding command or move
overlaps it, and no load of the group that is performed later reads it (R97, R101, R118). -/
def FreeRegion (s : State) (a align n : Nat) (write : Bool) : Prop :=
  a % align = 0 ∧ lclInRange s s.tm.id a n = true ∧ (0 < n → lclRole s s.tm.id a n = true) ∧
    overlapped s (lclRange s a n write) = false ∧ lateLocal s a n = false

/-- A slot of the team may be filled (R99, R101, R265, R270). -/
def FreeSlot (s : State) (n : Nat) : Prop :=
  (slotAt s.tm n).owned = true ∧ (slotAt s.tm n).st ≠ .filling ∧ (slotAt s.tm n).st ≠ .draining ∧
    overlapped s (slotRange s n true) = false ∧ slotBusy s s.tm.id n = false

/-- A slot of the team may be read, and its data are sound (R99, R101, R270, R406). -/
def ReadySlot (s : State) (n : Nat) : Prop :=
  (slotAt s.tm n).owned = true ∧ (slotAt s.tm n).st = .ready ∧ (slotAt s.tm n).poison = false ∧
    overlapped s (slotRange s n false) = false ∧ mmagFills s s.tm.id n = false

/-- A tile of the team may be written (R99, R270). -/
def FreeTile (s : State) (n : Nat) : Prop :=
  (tileAt s.tm n).owned = true ∧ (tileAt s.tm n).st ≠ .filling ∧ (tileAt s.tm n).st ≠ .draining ∧
    tileBusy s s.tm.id n = false

/-- A tile of the team may be read: no pass has yet to write it, and its data are sound (R99, R270, R406). -/
def QuietTile (s : State) (n : Nat) : Prop :=
  (tileAt s.tm n).owned = true ∧ (tileAt s.tm n).st = .ready ∧ (tileAt s.tm n).poison = false ∧ tileBusy s s.tm.id n = false

/-- A tile of the team may take a product: its MODE is FMT.ACC (R69, R99), and no gang operation has yet to write it (R270). -/
def TakesProducts (s : State) (n : Nat) : Prop :=
  (tileAt s.tm n).owned = true ∧ (tileAt s.tm n).st = .ready ∧ (tileAt s.tm n).poison = false ∧
    (tileAt s.tm n).mode.toNat = (mfmt s.sp.fmt).acc ∧ mmagTile s s.tm.id n = false

/-- A command may be accepted: nothing outstanding overlaps its ranges, no scratchpad load of the group is performed later, the
scoreboard has an entry and the command's queue a place (R101, R118, R249). -/
def MayAccept (s : State) (k : CmdKind) (ranges : List Range) : Prop :=
  overlapped s ranges = false ∧ (ranges ≠ [] → ∀ y ∈ s.g.late, y.lcl = false) ∧
    (s.eng.overlaps.filter fun o => o.core == s.tm.core && o.mover.isNone).length < 16 ∧
    (s.eng.cmds.filter fun c => queueOf c.core c.kind == queueOf s.tm.core k).length < queueDepth (queueOf s.tm.core k)

/-- A command has been accepted: it stands at the end of the queues with the operands of its issue, holds a scoreboard entry with
its ranges, and its `n` status registers are pending (R101, R249). -/
def accepted (x : Args) (s : State) (k : CmdKind) (f : EFlags) (ranges : List Range) (n : Nat) : State :=
  { s with
    sched := { s.sched with nextId := s.sched.nextId + 1 }
    eng := { s.eng with
      cmds := s.eng.cmds ++ [newCmd x s k f]
      overlaps := s.eng.overlaps ++ [{ core := s.tm.core, cmd := s.sched.nextId, ranges := ranges, mover := none }] }
    g := { s.g with pending := s.g.pending ++ if x.sup then [] else (List.range n).map (x.d.toNat + ·) } }

/-- A block of memory is read at once and none of its data are poisoned: `v` is the state after, `l` what was read (R228, R229). -/
def ReadsBlock (s : State) (va n : Nat) (v : State) (l : List (Elem × List Byte × Bool)) : Prop :=
  Mapped s (blockAccess va n) ∧ readAll (attributed s (blockAccess va n)) (blockAccess va n).elems 8 true = (v, l) ∧
    ∀ e ∈ l, e.2.2 = false

end Sys2Proof.Machine
end

