-- ==== Sys2Proof/Certificates/Slice0/Obligations.lean ====
section
/-! DEFINITION. The statements for the provers. Each docstring names the rules of the specification it formalises. -/

open Sys2Proof Sys2Proof.Machine

/-! ## Reset, decoding, one step -/

/-- R26, R27, R28, R29, R181: the capability registers, the token pool and the queues as a cold start of a device of
profile F with every unit healthy leaves them, and nothing resident, mapped or held; every byte of the stacks reads zero
(R351). That every unit is healthy, the profile F and the pool full at 1,024 tokens, of which R323 and R357 give the range and the loop but no
starting size, is the model's choice (log 4). -/
def Obligations.ResetValues : Prop :=
  let s := State.reset
  s.dev.cap0.extractLsb' 0 8 = 2 ∧ s.dev.cap0.extractLsb' 8 4 = 1 ∧ s.dev.cap0.extractLsb' 12 8 = 0x20 ∧
    s.dev.cap0.extractLsb' 20 4 = 0xF ∧ s.dev.cap1 = 0x40404040 ∧ (s.dev.cap2.extractLsb' 0 32).toNat = 125000000 ∧
    s.dev.cap3 = 0 ∧ s.dev.pool = 1024 ∧ s.dev.power = .on ∧ s.launches = [] ∧ s.gangs = [] ∧ allTeams s = [] ∧
    allGroups s = [] ∧ s.mem.ptes = [] ∧ s.mem.l1 = [] ∧ s.mem.pend = [] ∧ (∀ a, currentByte s.mem a = 0) ∧
    s.sched.queues.length = 64 ∧ (∀ q ∈ s.sched.queues, q.opened = true ∧ q.entries = [])

/-- Every store is in canonical form after reset. -/
def Obligations.ResetStoresCanonical : Prop := State.reset.wf = true

/-- R2, R39, R85: every step keeps every store in canonical form: memory of the stacks, the host and the peers, registers,
scratchpads, slots, tiles and counters. -/
def Obligations.StepKeepsStoresCanonical : Prop :=
  ∀ s t : State, s.wf = true → step s = .next t → t.wf = true

/-- R138, R143, R144, R145, R148, R149, R151, R152: decoding what the encoder makes of a well-formed instruction gives it
back, for every instruction that has an encoding and every value of its fields. -/
def Obligations.DecodeEncodeAgree : Prop :=
  ∀ i : Instr, i.wf = true → i.encodable = true → decode (encode i) = .ok i

/-- R138, R143: an instruction that decodes encodes to the units it was read from, and has passed every check of its
row. -/
def Obligations.EncodeDecodeAgree : Prop :=
  ∀ (us : List Word) (i : Instr), decode us = .ok i → i.wf = true ∧ i.encodable = true ∧ us.take i.length = encode i

/-- R138, R153, R175: words of the specification's worked encodings, decoded. -/
def Obligations.WorkedEncodings : Prop :=
  decode [0x22481C54] = .ok (.scmp 2 { d := 7, a := 8, b := 9 }) ∧
  decode [0x0C050002, 0x00000700, 0x12345678] = .ok (.saddC
    { sup := false, d := 5, a := .reg 6, b := .lit, c := .reg 0, fn := 0, ty := .i32, rnd := 0, hint := 0, r61 := false
      lit := some 0x12345678 }) ∧
  decode [0x0300016D, 0x00200008] = .ok (.fmul
    { sup := true, d := 0, a := .reg 1, b := .reg 2, c := .reg 0, fn := 0, ty := .f32, rnd := 0, hint := 0, r61 := false
      lit := none }) ∧
  decode [0x00040165, 0x0020060E] = .ok (.fadd
    { sup := false, d := 4, a := .latch 0, b := .bcast 3, c := .reg 0, fn := 0, ty := .f32, rnd := 0, hint := 0
      r61 := false, lit := none }) ∧
  decode [0x000000AD, 0x00000000] = .ok (.exit
    { sup := false, d := 0, a := .reg 0, b := .reg 0, c := .reg 0, fn := 0, ty := .i32, rnd := 0, hint := 0, r61 := false
      lit := none }) ∧
  decode [0x0600008A, 0x000000A0, 0x00000014] = .ok (.brv { m := 3, join := 40, off := 20, rnd := 0, hint := 0, r61 := false }) ∧
  decode [0xFFFFFFFF] = .error .pad

/-- R46, R52: when a split issues, because the next turn of the agenda says so or because it is the default turn's choice, nothing bars it
and it is its turn, no watchdog has raised a cause at it meanwhile, and what stands at its PC is an instruction, the step is that
instruction's meaning in that state: time has passed, the split has come into focus, its group has noted its turn, and the line has been
fetched. Where a watchdog has raised a cause, the split takes it. Where it and a lower-numbered split of the group raise a synchronous cause
in the same cycle (`yields`), its instruction is not performed and its turn has passed (R404). A turn may issue the same instruction with
its loads noted, and a later turn performs one element of a noted load, with those of the other lanes that name its address (R232): it is
read then, and lands in its register lane. The agenda and the default turn are the model's (log 1), and so are the noting and the late
performance (log 35). -/
def Obligations.StepRunsDecoded : Prop :=
  ∀ (s f v u : State) (n : Nat) (w : Who) (rest : List Turn) (i : Instr),
    (((s.agenda = { ticks := n, act := .issue w } :: rest ∧ f = focus (tick { s with agenda := rest } n) w) ∨
      (s.agenda = [] ∧ defaultAct (tick s 1) = some (.issue w) ∧ f = focus (tick s 1) w)) →
    takesTurn f f.g f.sp = true → v = noteTurn f → (yields f = true → step s = .next v) ∧ (yields f = false →
    (v.sp.event = none → atJoin v = false → lookAtPc v = (u, .instr i) → bondClamped u i = false → step s = exec i u) ∧
      ∀ e, v.sp.event = some e → step s = .next (takeEvent v e))) ∧
    (s.agenda = { ticks := n, act := .late w } :: rest →
      let f0 := focus (tick { s with agenda := rest } n) w
      f = { f0 with sp := { f0.sp with defer := true } } →
      takesTurn f f.g f.sp = true → v = noteTurn f → (yields f = true → step s = .next (settleDefer v)) ∧ (yields f = false →
      v.sp.event = none → atJoin v = false → lookAtPc v = (u, .instr i) → bondClamped u i = false →
      ∀ t, exec i u = .next t → step s = .next (settleDefer t))) ∧
    ∀ (gid id k : Nat) (y : Late) (e : Nat × Nat), s.agenda = { ticks := n, act := .load gid id k } :: rest →
      v = tick { s with agenda := rest } n →
      (((findGroup v gid).late.any fun z => z.id == id) = false → step s = .next v) ∧
      (((findGroup v gid).late.any fun z => z.id == id) = true → u = focusGroup v gid →
        u.g.late.find? (fun z => z.id == id) = some y → y.data = [] → y.elems[k % max 1 y.elems.length]? = some e →
        (lateReaches u y e.2 = false → step s = .next u) ∧
        (lateReaches u y e.2 = true →
          ∃ t, step s = .next t ∧
              t = leaveLate ((y.elems.filter fun o => o.2 == e.2).foldl (performElem y) u) id (y.elems.filter fun o => o.2 != e.2) ∧
            (u.wf = true → y.lcl = true → y.scalar = false → y.ty = .n32 →
              getV t y.dest e.1 = BitVec.ofNat 32 (ofBytes (lclRead u u.tm.id e.2 4)))))

/-- When the next turn of the agenda names an event of the device, or the default turn's choice is one, the step is that
event's meaning, after time has passed. What R44 and R153 tie to the words at a split's PC happens there and not by a turn's naming it. That
an event happens when the agenda or the default turn names it is the model's choice (DESIGN CHOICE, log 1). -/
def Obligations.StepRunsEvent : Prop :=
  ∀ (s v : State) (n : Nat) (rest : List Turn) (e : Instr), e.encodable = false →
    ((s.agenda = { ticks := n, act := .event e } :: rest ∧ v = tick { s with agenda := rest } n) ∨
      (s.agenda = [] ∧ defaultAct (tick s 1) = some (.event e) ∧ v = tick s 1)) →
    (ofWords e = false → step s = exec e v) ∧ (ofWords e = true → step s = .next v)

/-- R136, R137, R138: what stands at the PC is the instruction that decodes from the units of the fetched line, from the
unit the PC names on. -/
def Obligations.PcNamesDecodedUnits : Prop :=
  ∀ (s u : State) (i : Instr), lookAtPc s = (u, .instr i) →
    ∃ ws, (fetchLineAt s s.agent (lineVa s.sp.pc) (unitVa s.sp.pc)).2 = .line ws ∧
      decode ((ws.take 15).drop (unitIn s.sp.pc)) = .ok i

/-! ## Issue and traps -/

/-- R51, R53, R60, R153, R229, R318: what issue does before an instruction acts, in this order: it waits for a register that an engine or a
load has yet to write; then raises 0x02 for a vector register beyond the allocation, 0x04 for a privileged instruction in user mode, a purge
of another context there, or a `sput` of TVEC in any mode, 0x05 for FP64 on profile N, 0x06 for a broken latch rule, 0x15 for poisoned
register lanes that it reads, with the lowest address that poison came from; and otherwise it is ready. That the latch rules' 0x06 also
stands for write-back suppress at an instruction that may not stand in a chain is log 137, the order of the checks log 177. TCAUSE.CHAIN at
the instruction that opens a chain is log 70 (DEDUCED). -/
def Obligations.IssueChecksInOrder : Prop :=
  ∀ (i : Instr) (s : State), i.encodable = true →
    (namesPending i s → exec i s = .next (park .register s)) ∧
    (¬ namesPending i s → namesHigh i s → exec i s = .next (traps i s s 0x02 (firstUnit i.shape) s.exec)) ∧
    (¬ namesPending i s → ¬ namesHigh i s → lacksPrivilege i.shape s = true →
      exec i s = .next (traps i s s 0x04 (firstUnit i.shape) s.exec)) ∧
    (¬ namesPending i s → ¬ namesHigh i s → lacksPrivilege i.shape s = false →
      needsF64 i.shape = true → profileN s = true → exec i s = .next (traps i s s 0x05 (firstUnit i.shape) s.exec)) ∧
    (¬ namesPending i s → ¬ namesHigh i s → lacksPrivilege i.shape s = false →
      ¬ (needsF64 i.shape = true ∧ profileN s = true) → latchFault i.shape s = true →
      exec i s = .next (traps i s s 0x06 s.sp.pc s.exec)) ∧
    (¬ namesPending i s → ¬ namesHigh i s → lacksPrivilege i.shape s = false →
      ¬ (needsF64 i.shape = true ∧ profileN s = true) → latchFault i.shape s = false → poisonedReads i.shape s = [] →
      Ready i s) ∧
    (¬ namesPending i s → ¬ namesHigh i s → lacksPrivilege i.shape s = false →
      ¬ (needsF64 i.shape = true ∧ profileN s = true) → latchFault i.shape s = false → poisonedReads i.shape s ≠ [] →
      ∃ p ∈ poisonedReads i.shape s, (∀ q ∈ poisonedReads i.shape s, p.2.toNat ≤ q.2.toNat) ∧
        exec i s = .next (traps i s s 0x15 p.2
          (if ∀ q ∈ poisonedReads i.shape s, 8192 ≤ q.1 then s.exec
            else maskOf fun l => (poisonedReads i.shape s).any fun q => q.1 < 8192 && q.1 % 32 == l)))

/-- R53, R54, R191, R192, R376, R377: a trap outside a handler whose cause writes no record and does not roll the launch
back saves the cause, the PC, the address, the lanes, the mode and the split's number, keeps the split's masks and formats
in the shadow, and enters the handler at TVEC in supervisor mode with every live lane; registers, memory, other groups and the team are
as before. That the disposition R393 gives the cause is due from then on, and that the context's end is also due after `brk` or `trap`
without a debugger, is the model's choice (log 12): 0x28 and 0x29 make the end of the context due, and so do 0x0A and 0x0B without a
debugger; with one, the control port sends it the words of a TRAP record and nothing falls due; 0x38 asks for nothing. -/
def Obligations.TrapEntersHandler : Prop :=
  ∀ (s : State) (c : BitVec 8) (addr next : DWord) (lanes : Word) (chain : Bool),
    s.g.inHandler = false → c ∈ [0x0A, 0x0B, 0x28, 0x29, 0x38] →
    let t := takeTrap s { cause := c, addr := addr, lanes := lanes } chain next
    t.g.inHandler = true ∧ t.g.tcause = BitVec.ofBool chain ++ c ∧
      t.g.tpc = (if c = 0x0A ∨ c = 0x0B then next else match s.sp.chain with | some k => k.start | none => s.sp.pc) ∧
      t.g.taddr = addr ∧ t.g.tlanes = lanes ∧ t.g.tpmode = s.sp.super ∧ t.g.tsplit = BitVec.ofNat 2 s.sp.num ∧
      t.g.tpcw = false ∧
      t.g.shadow = some { mask := s.sp.mask, pred := s.sp.pred, recon := s.sp.recon, fmt := s.sp.fmt, rnd := s.sp.rnd
                          arrival := s.sp.arrival, request := s.sp.request } ∧
      t.sp.mask = (s.g.launched &&& ~~~s.g.exited) ∧ t.sp.pred = [0xFFFFFFFF] ∧ t.sp.recon = [] ∧ t.sp.fmt = 0 ∧
      t.sp.rnd = 0 ∧ t.sp.super = true ∧ t.sp.pc = s.dev.tvec ∧ t.sp.chain = none ∧
      (∀ n, getS t n = getS s n) ∧ (∀ r l, getV t r l = getV s r l) ∧ t.g.flags = s.g.flags ∧ t.g.masks = s.g.masks ∧
      t.mem = s.mem ∧ t.groups = s.groups ∧ t.tm = s.tm ∧
      (c ∈ [0x28, 0x29] → t.sched = (dueEnd s s.asid).sched ∧ t.launches = s.launches ∧ t.rel = s.rel) ∧
      (c ∈ [0x0A, 0x0B] →
        ((∀ k, findCtx s s.asid = some k → k.debugger = false) →
          t.sched = (dueEnd s s.asid).sched ∧ t.launches = s.launches ∧ t.rel = s.rel) ∧
        ∀ k, findCtx s s.asid = some k → k.debugger = true → t.sched = s.sched ∧ t.launches = s.launches ∧
          t.rel = (ctlSend s (rcdWords s (trapRcd s { cause := c, addr := addr, lanes := lanes } next false))).rel) ∧
      (c = 0x38 → t.sched = s.sched ∧ t.launches = s.launches ∧ t.rel = s.rel)

/-- R54, R376, R377, R390, R393, R394: how the other traps go. Outside a handler, a cause that writes a record and does not roll
the launch back enters the handler in the state that holds its TRAP record, with its disposition due (log 12): the end of the context, or,
for the causes that a rollback would meet, the kill of the launch; poisoned data and a mismatch in a launch that may
be replayed write their record, enter no handler and begin the rollback of the launch; inside a handler a trap writes its
record with INH set and begins the termination of the context. -/
def Obligations.TrapsWithRecords : Prop :=
  ∀ (s : State) (t : Trap) (next : DWord) (chain : Bool),
    let start := match s.sp.chain with | some k => k.start | none => s.sp.pc
    let recorded := trapRecord s t start false
    let dueKill := updLaunch recorded recorded.launch.id fun l => { l with due := true }
    (s.g.inHandler = false → unrecorded t.cause = false → (rollsBack t.cause = true → s.launch.rcd.report = true) →
      takeTrap s t chain next = enterHandler (if rollsBack t.cause then dueKill else dueEnd recorded recorded.asid) t start chain) ∧
    (s.g.inHandler = false → t.cause ∈ [0x15, 0x30, 0x31] → s.launch.rcd.report = false →
      takeTrap s t chain next = startRollback (trapRecord s t start false) s.launch.id) ∧
    (s.g.inHandler = true →
      takeTrap s t chain next =
        startTerminate (trapRecord s t (if t.cause = 0x0A ∨ t.cause = 0x0B then next else start) true) s.asid 1)

/-! ## Scalar instructions -/

/-- R167, R168, R169, R170, R171: what each Form A scalar instruction leaves in its destination; nothing else changes but
the place of the split. -/
def Obligations.ScalarFormAResults : Prop :=
  ∀ (s : State) (x : AArgs) (cc : BitVec 4), s.wf = true →
    let a := getS s x.a.toNat
    let b := getS s x.b.toNat
    let d := getS s x.d.toNat
    let a2 := getPair s x.a.toNat
    let b2 := getPair s x.b.toNat
    let pos := b.extractLsb' 0 5
    let width := min (b.extractLsb' 5 6).toNat 32
    let gives := fun (i : Instr) (v : Word) =>
      i.wf = true → Ready i s → ∃ t, exec i s = .next t ∧ WroteScalar i s t x.d.toNat v
    let gives2 := fun (i : Instr) (v : DWord) =>
      i.wf = true → Ready i s → ∃ t, exec i s = .next t ∧ WrotePair i s t x.d.toNat v
    gives (.sadd x) (a + b) ∧ gives (.ssub x) (a - b) ∧ gives (.smul x) (a * b) ∧
    gives (.smulh x) ((a.signExtend 64 * b.signExtend 64).extractLsb' 32 32) ∧
    gives (.smulhn x) ((a.setWidth 64 * b.setWidth 64).extractLsb' 32 32) ∧
    gives (.sdiv x) (if b = 0 then 0xFFFFFFFF else a.sdiv b) ∧ gives (.sdivn x) (if b = 0 then 0xFFFFFFFF else a / b) ∧
    gives (.srem x) (if b = 0 then a else a.srem b) ∧ gives (.sremn x) (if b = 0 then a else a % b) ∧
    gives (.sand x) (a &&& b) ∧ gives (.sor x) (a ||| b) ∧ gives (.sxor x) (a ^^^ b) ∧ gives (.sandn x) (a &&& ~~~b) ∧
    gives (.sshl x) (a <<< b) ∧ gives (.sshr x) (a >>> b) ∧ gives (.ssra x) (a.sshiftRight b.toNat) ∧
    gives (.srot x) (a.rotateLeft (b.toNat % 32)) ∧
    gives (.smin x) (if a.slt b then a else b) ∧ gives (.smax x) (if a.slt b then b else a) ∧
    gives (.sminn x) (if a.ult b then a else b) ∧ gives (.smaxn x) (if a.ult b then b else a) ∧
    gives (.scmp cc x) (if ccHolds cc.toNat a b then 1 else 0) ∧
    gives (.ssel x) (if d = 0 then b else a) ∧ gives (.smov x) a ∧ gives (.sclz x) a.clz ∧ gives (.spopc x) a.cpop ∧
    gives (.sbrev x) a.reverse ∧
    gives (.sbfx x) ((a >>> pos) &&& BitVec.ofNat 32 (2 ^ width - 1)) ∧
    gives (.sbfxSx x) (BitVec.sshiftRight ((a >>> pos) <<< (32 - width)) (32 - width)) ∧
    gives (.sbfi x) ((d &&& ~~~(BitVec.ofNat 32 (2 ^ width - 1) <<< pos)) |||
      ((a &&& BitVec.ofNat 32 (2 ^ width - 1)) <<< pos)) ∧
    gives2 (.sadd64 x) (a2 + b2) ∧ gives2 (.ssub64 x) (a2 - b2) ∧ gives2 (.smul64 x) (a2 * b2)

/-- R50, R166, R167, R168, R169, R170, R171: what each Form C scalar instruction computes from its sources; the result
goes into every lane of the chain's latch, and into the register or pair unless it is suppressed. That the latch takes a 32-bit result
zero-extended is the model's choice (log 140(k), DESIGN CHOICE, unsafe). -/
def Obligations.ScalarFormCResults : Prop :=
  ∀ (s : State) (x : Args), s.wf = true →
    let a := scalar32 s x x.a
    let b := scalar32 (afterScalar s x.a) x x.b
    let d := getS s x.d.toNat
    let a2 := scalar64 s x x.a
    let b2 := scalar64 (afterScalar s x.a) x x.b
    let pos := b.extractLsb' 0 5
    let width := min (b.extractLsb' 5 6).toNat 32
    let gives := fun (i : Instr) (v : Word) =>
      i.wf = true → Ready i s → ∃ t, exec i s = .next t ∧ WroteChained i s t x false (v.setWidth 64)
    let gives2 := fun (i : Instr) (v : DWord) =>
      i.wf = true → Ready i s → ∃ t, exec i s = .next t ∧ WroteChained i s t x true v
    gives (.saddC x) (a + b) ∧ gives (.ssubC x) (a - b) ∧ gives (.smulC x) (a * b) ∧
    gives (.smulhC x) ((a.signExtend 64 * b.signExtend 64).extractLsb' 32 32) ∧
    gives (.smulhnC x) ((a.setWidth 64 * b.setWidth 64).extractLsb' 32 32) ∧
    gives (.sdivC x) (if b = 0 then 0xFFFFFFFF else a.sdiv b) ∧ gives (.sdivnC x) (if b = 0 then 0xFFFFFFFF else a / b) ∧
    gives (.sremC x) (if b = 0 then a else a.srem b) ∧ gives (.sremnC x) (if b = 0 then a else a % b) ∧
    gives (.sandC x) (a &&& b) ∧ gives (.sorC x) (a ||| b) ∧ gives (.sxorC x) (a ^^^ b) ∧ gives (.sandnC x) (a &&& ~~~b) ∧
    gives (.sshlC x) (a <<< b) ∧ gives (.sshrC x) (a >>> b) ∧ gives (.ssraC x) (a.sshiftRight b.toNat) ∧
    gives (.srotC x) (a.rotateLeft (b.toNat % 32)) ∧
    gives (.sminC x) (if a.slt b then a else b) ∧ gives (.smaxC x) (if a.slt b then b else a) ∧
    gives (.sminnC x) (if a.ult b then a else b) ∧ gives (.smaxnC x) (if a.ult b then b else a) ∧
    gives (.scmpC x) (if ccHolds x.fn.toNat a b then 1 else 0) ∧
    gives (.sselC x) (if d = 0 then b else a) ∧ gives (.smovC x) a ∧ gives (.sclzC x) a.clz ∧ gives (.spopcC x) a.cpop ∧
    gives (.sbrevC x) a.reverse ∧
    gives (.sbfxC x) ((a >>> pos) &&& BitVec.ofNat 32 (2 ^ width - 1)) ∧
    gives (.sbfxSxC x) (BitVec.sshiftRight ((a >>> pos) <<< (32 - width)) (32 - width)) ∧
    gives (.sbfiC x) ((d &&& ~~~(BitVec.ofNat 32 (2 ^ width - 1) <<< pos)) |||
      ((a &&& BitVec.ofNat 32 (2 ^ width - 1)) <<< pos)) ∧
    gives2 (.sadd64C x) (a2 + b2) ∧ gives2 (.ssub64C x) (a2 - b2) ∧ gives2 (.smul64C x) (a2 * b2)

/-- R39, R50, R166: whatever a scalar instruction of opcodes 0x00 to 0x1F ends in, it either waits, changing nothing but
its split's place, or traps, or changes nothing but its destination registers, their poison marks, the latches and the
place of its split. TCAUSE.CHAIN at the instruction that opens a chain is log 70 (DEDUCED). -/
def Obligations.ScalarFrame : Prop :=
  ∀ (i : Instr) (s t : State), s.wf = true → opcodeOf i.shape < 0x20 → exec i s = .next t →
    (∃ w, t = park w s) ∨
    (∃ r, t = takeTrap s r (s.sp.chain.isSome || suppresses i.shape) (pcAfter i s)) ∨
    (OnlyScalarsAndLatches s t ∧ placed i s t (pcAfter i s) ∧
      ∀ n, n ∉ (useOf i.shape).swrite → getS t n = getS s n)

/-- R168: division by zero and the overflowing quotient are values, not traps. -/
def Obligations.DivisionCorners : Prop :=
  ∀ (s : State) (x : AArgs), s.wf = true →
    let a := getS s x.a.toNat
    let b := getS s x.b.toNat
    let reads := fun (i : Instr) (v : Word) =>
      i.wf = true → Ready i s → ∃ t, exec i s = .next t ∧ WroteScalar i s t x.d.toNat v
    (b = 0 → reads (.sdiv x) 0xFFFFFFFF ∧ reads (.sdivn x) 0xFFFFFFFF ∧ reads (.srem x) a ∧ reads (.sremn x) a) ∧
    (a = 0x80000000 → b = 0xFFFFFFFF → reads (.sdiv x) 0x80000000 ∧ reads (.srem x) 0) ∧
    (b ≠ 0 → ¬ (a = 0x80000000 ∧ b = 0xFFFFFFFF) →
      reads (.sdiv x) (BitVec.ofInt 32 (a.toInt.tdiv b.toInt)) ∧
      reads (.srem x) (BitVec.ofInt 32 (a.toInt - b.toInt * a.toInt.tdiv b.toInt))) ∧
    (b ≠ 0 → reads (.sdivn x) (BitVec.ofNat 32 (a.toNat / b.toNat)) ∧ reads (.sremn x) (BitVec.ofNat 32 (a.toNat % b.toNat)))

/-! ## Control -/

/-- R138, R141, R151, R169, R173, R175, R176: where each uniform transfer goes when its target passes the check, and what it
pushes or writes. The record of a call names the next instruction, beyond the pads that follow the call. -/
def Obligations.UniformTransfers : Prop :=
  ∀ (s u : State) (x : Args) (r : Rec),
    let tgt := s.sp.pc + x.literal.signExtend 64
    let pair := pairOf s x.a
    let n := getS s x.d.toNat - 1
    let called := fun (i : Instr) (v : State) => { v with
      g := { v.g with
        recs := v.g.recs ++ [{ id := v.g.nextRec, jpc := overPads s (pcAfter i s), fmt := v.sp.fmt, rnd := v.sp.rnd
                               pdep := v.sp.pred.length, exp := v.sp.mask, arr := 0, pend := 0, ppc := 0, held := []
                               pby := v.sp.num }]
        nextRec := v.g.nextRec + 1 }
      sp := { v.sp with recon := v.g.nextRec :: v.sp.recon } }
    (Ready (.br x) s → checkTransfer s tgt = .ok u → exec (.br x) s = .next (goesTo (.br x) s u tgt)) ∧
    (Ready (.brc x) s → ccHolds x.fn.toNat (scalar32 s x x.a) (scalar32 s x x.b) = true → checkTransfer s tgt = .ok u →
      exec (.brc x) s = .next (goesTo (.brc x) s u tgt)) ∧
    (Ready (.brc x) s → ccHolds x.fn.toNat (scalar32 s x x.a) (scalar32 s x x.b) = false →
      exec (.brc x) s = .next (passes (.brc x) s s)) ∧
    (Ready (.jmp x) s → checkTransfer s pair = .ok u → exec (.jmp x) s = .next (goesTo (.jmp x) s u pair)) ∧
    (Ready (.loop x) s → n ≠ 0 → checkTransfer s tgt = .ok u →
      exec (.loop x) s = .next (goesTo (.loop x) s (resultS u x.d.toNat n) tgt)) ∧
    (Ready (.loop x) s → n = 0 → exec (.loop x) s = .next (passes (.loop x) s (resultS s x.d.toNat 0))) ∧
    (Ready (.call x) s → checkTransfer s tgt = .ok u → u.sp.recon.length < 16 →
      exec (.call x) s = .next (goesTo (.call x) s (called (.call x) u) tgt)) ∧
    (Ready (.callIndirect x) s → checkTransfer s pair = .ok u → u.sp.recon.length < 16 →
      exec (.callIndirect x) s = .next (goesTo (.callIndirect x) s (called (.callIndirect x) u) pair)) ∧
    (Ready (.ret x) s → topRec s = some r → checkTransfer s r.jpc = .ok u →
      exec (.ret x) s = .next (goesTo (.ret x) s u r.jpc)) ∧
    (Ready (.join x) s → topRec s = some r → exec (.join x) s = .next (goesTo (.join x) s s r.jpc))

/-- R141, R153, R174, R175, R176: where the transfers trap instead: a target whose check fails raises what the check finds (0x03 by
Obligations.TargetCheck), at every transfer that is checked and goes there, and one whose line is not there yet makes the split wait; a full
reconvergence stack raises 0x09 at both forms of `call`, an empty one 0x09 at `ret` and `join`.
TCAUSE.CHAIN at the instruction that opens a chain is log 70 (DEDUCED). -/
def Obligations.TransferTraps : Prop :=
  ∀ (s u : State) (x : Args) (b : BrvArgs) (neg : Bool),
    let tgt := s.sp.pc + x.literal.signExtend 64
    let checked := fun (i : Instr) (target : DWord) =>
      (∀ tr, Ready i s → checkTransfer s target = .fail tr u → exec i s = .next (traps i s u tr.cause tr.addr tr.lanes)) ∧
        (Ready i s → checkTransfer s target = .hold u → exec i s = .next (park .mapping u))
    let taken := s.sp.mask &&& s.sp.pred.headD 0 &&& (if neg then ~~~(getM s b.m.toNat) else getM s b.m.toNat)
    checked (.br x) tgt ∧ checked (.jmp x) (pairOf s x.a) ∧ checked (.call x) tgt ∧ checked (.callIndirect x) (pairOf s x.a) ∧
    (ccHolds x.fn.toNat (scalar32 s x x.a) (scalar32 s x x.b) = true → checked (.brc x) tgt) ∧
    (getS s x.d.toNat - 1 ≠ 0 → checked (.loop x) tgt) ∧
    (∀ r, topRec s = some r → checked (.ret x) r.jpc) ∧
    (taken ≠ 0 → checked (if neg then .brvNot b else .brv b) (s.sp.pc + b.off.signExtend 64)) ∧
    (Ready (.call x) s → checkTransfer s tgt = .ok u → 16 ≤ u.sp.recon.length →
      exec (.call x) s = .next (traps (.call x) s u 0x09 16 u.sp.mask)) ∧
    (Ready (.callIndirect x) s → checkTransfer s (pairOf s x.a) = .ok u → 16 ≤ u.sp.recon.length →
      exec (.callIndirect x) s = .next (traps (.callIndirect x) s u 0x09 16 u.sp.mask)) ∧
    (Ready (.ret x) s → topRec s = none → exec (.ret x) s = .next (traps (.ret x) s s 0x09 16 s.sp.mask)) ∧
    (Ready (.join x) s → topRec s = none → exec (.join x) s = .next (traps (.join x) s s 0x09 16 s.sp.mask))

/-- R136, R139, R141, R228, R389: the check of a target that passes has changed nothing but what the instruction caches and the
page-attribute caches hold, and that a launch which reads the target's line at its home becomes entangled with those whose snapshots hold its
granule; where the target's line is there, the check passes exactly if an instruction begins at the unit
and its BTMASK bit is set, and else raises 0x03 with the target and the active mask. -/
def Obligations.TargetCheck : Prop :=
  ∀ (s u : State) (target : DWord),
    let here := lineVa target
    (checkTransfer s target = .ok u → (goodILine s s.tm.core s.asid here).isSome = true ∨ (∀ l ∈ s.launches, l.snap = []) → OnlyCodeCaches s u) ∧
    (checkTransfer s target = .ok u → goodILine s s.tm.core s.asid here = none → ∃ p r w, pageAttr s s.agent here = some (p, r, w) ∧
      OnlyCodeCaches (touchGranule s s.launch.id (pteAsid p) (granuleOf here)) u) ∧
    ∀ ws : List Word, fetchLineAt s s.agent (lineVa target) (unitVa target) = (u, .line ws) →
      checkTransfer s target =
        if beginsAt ws (unitIn target) = true ∧ (ws.getD 15 0).getLsbD (unitIn target) = true then .ok u
        else .fail { cause := 0x03, addr := target, lanes := u.sp.mask } u

/-- R48, R177: the predicate stack holds 1 to 8 entries: `pushp` pushes the top AND the mask, `invp` replaces the top by the
entry below AND NOT the top, `popp` pops; a full stack raises 0x07 and a stack of one entry 0x08, and a fault leaves the
stack unchanged. A ready instruction of these stands in no latch chain and opens none (R51), so that log 70 has no part in it. -/
def Obligations.PredicateStack : Prop :=
  ∀ (s : State) (x : Args) (top below : Word) (rest : List Word),
    (Ready (.pushp x) s → s.sp.pred.length < 8 →
      exec (.pushp x) s = .next (passes (.pushp x) s
        { s with sp := { s.sp with pred := (s.sp.pred.headD 0 &&& getM s (fieldNum x.a)) :: s.sp.pred } })) ∧
    (Ready (.pushp x) s → 8 ≤ s.sp.pred.length →
      exec (.pushp x) s = .next (traps (.pushp x) s s 0x07 (BitVec.ofNat 64 s.sp.pred.length) s.sp.mask)) ∧
    (Ready (.invp x) s → s.sp.pred = top :: below :: rest →
      exec (.invp x) s = .next (passes (.invp x) s
        { s with sp := { s.sp with pred := (below &&& ~~~top) :: below :: rest } })) ∧
    (Ready (.invp x) s → s.sp.pred = [top] → exec (.invp x) s = .next (traps (.invp x) s s 0x08 1 s.sp.mask)) ∧
    (Ready (.popp x) s → s.sp.pred = top :: below :: rest →
      exec (.popp x) s = .next (passes (.popp x) s { s with sp := { s.sp with pred := below :: rest } })) ∧
    (Ready (.popp x) s → s.sp.pred = [top] → exec (.popp x) s = .next (traps (.popp x) s s 0x08 1 s.sp.mask))

/-- R43, R174: a branch whose lanes all go one way changes no stack: it goes on at the next instruction if none branches, and to
its target if all do. A branch whose lanes divide, in the order of the cases: the top record of the same join with no deferred
lanes takes the second set; else, outside a handler, a new split of the lowest free number takes the lanes that do not
branch, with the parent's stacks and formats; else the split runs the first set and the new record defers the second. A
backward branch runs the lanes that do not branch first. TCAUSE.CHAIN at the instruction that opens a chain is log 70 (DEDUCED). -/
def Obligations.DivergentBranches : Prop :=
  ∀ (s u : State) (x : BrvArgs) (neg : Bool),
    let i : Instr := if neg then .brvNot x else .brv x
    let tgt := s.sp.pc + x.off.signExtend 64
    let next := pcAfter i s
    let jpc := u.sp.pc + x.join.signExtend 64
    let taken := s.sp.mask &&& s.sp.pred.headD 0 &&& (if neg then ~~~(getM s x.m.toNat) else getM s x.m.toNat)
    let rest := s.sp.mask &&& ~~~taken
    let back := x.off.msb
    let first := if back then rest else taken
    let second := if back then taken else rest
    let firstPc := if back then next else tgt
    let secondPc := if back then tgt else next
    Ready i s →
    (taken = 0 → exec i s = .next (passes i s s)) ∧
    (taken ≠ 0 → rest = 0 → checkTransfer s tgt = .ok u → exec i s = .next (goesTo i s u tgt)) ∧
    (taken ≠ 0 → rest ≠ 0 → checkTransfer s tgt = .ok u →
    (∀ r, topRec u = some r → r.jpc = jpc → r.pend = 0 →
      ∃ t, exec i s = .next t ∧ t.sp.mask = first ∧ t.sp.pc = firstPc ∧ t.sp.recon = u.sp.recon ∧ t.g.others = u.g.others ∧
        ∃ q, topRec t = some q ∧ q.pend = second ∧ q.ppc = secondPc ∧ q.jpc = jpc ∧ q.exp = r.exp ∧ q.arr = r.arr) ∧
    ((∀ r, topRec u = some r → ¬ (r.jpc = jpc ∧ r.pend = 0)) → u.sp.recon.length < 16 →
      ∃ t q, exec i s = .next t ∧ t.g.recs = u.g.recs ++ [q] ∧ t.sp.recon = q.id :: u.sp.recon ∧ q.jpc = jpc ∧
        q.exp = s.sp.mask ∧ q.arr = 0 ∧ q.fmt = u.sp.fmt ∧ q.rnd = u.sp.rnd ∧ q.pdep = u.sp.pred.length ∧
        (∀ n, u.g.inHandler = false → freeNumber u = some n →
          t.sp.mask = taken ∧ t.sp.pc = tgt ∧ q.pend = 0 ∧
          ∃ c, t.g.others = u.g.others ++ [c] ∧ c.num = n ∧ c.mask = rest ∧ c.pc = next ∧ c.pred = u.sp.pred ∧
            c.recon = t.sp.recon ∧ c.fmt = u.sp.fmt ∧ c.rnd = u.sp.rnd ∧ c.super = u.sp.super) ∧
        ((u.g.inHandler = true ∨ freeNumber u = none) →
          t.sp.mask = first ∧ t.sp.pc = firstPc ∧ q.pend = second ∧ q.ppc = secondPc ∧ t.g.others = u.g.others)) ∧
    ((∀ r, topRec u = some r → ¬ (r.jpc = jpc ∧ r.pend = 0)) → 16 ≤ u.sp.recon.length →
      exec i s = .next (traps i s u 0x09 16 u.sp.mask)))

/-- R44: a split that comes to the JPC of its top record takes up the lanes the record defers, at their PC and with the FMT
and RND of the branch; with none deferred and not all expected lanes there, it parks on the record with the lanes that have arrived; with
none deferred and every expected lane there, the splits parked on the record merge: the lowest-numbered one is kept, with those lanes, the
formats of the branch, each lane's predicate bits from the split that carried it, and the record popped, and the others are freed. A
predicate stack of another depth than the branch's raises 0x07 or 0x08 in the state in which the lanes have arrived, with TCAUSE.CHAIN as
the split's latch chain stands there (R192). At another PC nothing happens. That a chain still open at the JPC stays open through the switch,
the parking and the merge is log 140(a) (DESIGN CHOICE, unsafe); that a lane which no merging split carried takes the kept split's predicate
bits is log 78 (DEDUCED, unsafe). -/
def Obligations.Reconvergence : Prop :=
  ∀ (s : State) (r : Rec), topRec s = some r →
    let note := fun (q : Rec) =>
      { q with arr := q.arr ||| s.sp.mask, held := assocSet q.held s.sp.num (heldBy q s.sp.num ||| s.sp.mask) }
    let arrived := { s with g := { s.g with recs := updateWhere (fun q => q.id == r.id) note s.g.recs } }
    let others := s.g.others.filter fun p => p.parked == some r.id
    let carries := fun (p : Split) (l : Nat) => ∃ q ∈ arrived.g.recs, (q.id = r.id ∨ q.id ∈ p.recon) ∧
      ((heldBy q p.num).getLsbD l = true ∨ (q.pby = p.num ∧ q.pend.getLsbD l = true))
    let want := r.exp &&& ~~~s.g.exited
    let union := others.foldl (fun m p => m ||| p.mask) (r.arr ||| s.sp.mask)
    (s.sp.pc ≠ r.jpc → exec .reconverge s = .next s) ∧
    (s.sp.pc = r.jpc → r.pend ≠ 0 →
      ∃ t, exec .reconverge s = .next t ∧ t.sp.mask = r.pend ∧ t.sp.pc = r.ppc ∧ t.sp.fmt = r.fmt ∧ t.sp.rnd = r.rnd ∧
        t.sp.recon = s.sp.recon ∧ t.sp.pred = s.sp.pred ∧
        ∃ q, topRec t = some q ∧ q.pend = 0 ∧ q.arr = (r.arr ||| s.sp.mask) ∧ q.jpc = r.jpc ∧ q.exp = r.exp) ∧
    (s.sp.pc = r.jpc → r.pend = 0 → r.pdep = s.sp.pred.length → s.sp.live = true →
      (∀ p ∈ s.g.others, p.parked ≠ some r.id) → (r.arr ||| s.sp.mask) = (r.exp &&& ~~~s.g.exited) →
      ∃ t, exec .reconverge s = .next t ∧ t.sp.mask = (r.exp &&& ~~~s.g.exited) ∧ t.sp.pc = r.jpc ∧ t.sp.fmt = r.fmt ∧
        t.sp.rnd = r.rnd ∧ t.sp.recon = s.sp.recon.drop 1 ∧ t.sp.parked = none ∧ t.g.sregs = s.g.sregs ∧
        t.g.vregs = s.g.vregs) ∧
    (s.sp.pc = r.jpc → r.pend = 0 → r.pdep = s.sp.pred.length → s.sp.live = true → union ≠ want →
      exec .reconverge s = .next { arrived with
        sp := { s.sp with mask := r.arr ||| s.sp.mask, parked := some r.id, wait := none } }) ∧
    (s.sp.pc = r.jpc → r.pend = 0 → r.pdep = s.sp.pred.length → s.sp.live = true → union = want → want ≠ 0 →
      ∃ t k, exec .reconverge s = .next t ∧ k ∈ s.sp :: others ∧ (∀ p ∈ s.sp :: others, k.num ≤ p.num) ∧
        t.sp.num = k.num ∧ t.sp.mask = want ∧ t.sp.pc = r.jpc ∧ t.sp.fmt = r.fmt ∧ t.sp.rnd = r.rnd ∧ t.sp.parked = none ∧
        t.sp.live = true ∧ t.sp.recon = k.recon.drop 1 ∧ t.g.others = s.g.others.filter (fun p => p.parked != some r.id) ∧
        t.g.sregs = s.g.sregs ∧ t.g.vregs = s.g.vregs ∧ t.sp.pred.length = k.pred.length ∧
        ∀ n l, n < k.pred.length → l < 32 →
          (∀ p ∈ s.sp :: others, carries p l → (∀ q ∈ s.sp :: others, carries q l → q = p) →
            (t.sp.pred.getD n 0).getLsbD l = (p.pred.getD n 0).getLsbD l) ∧
          ((∀ p ∈ s.sp :: others, ¬ carries p l) → (t.sp.pred.getD n 0).getLsbD l = (k.pred.getD n 0).getLsbD l)) ∧
    (s.sp.pc = r.jpc → r.pend = 0 → r.pdep < s.sp.pred.length →
      exec .reconverge s = .next (takeTrap arrived
        { cause := 0x07, addr := BitVec.ofNat 64 s.sp.pred.length, lanes := s.sp.mask } s.sp.chain.isSome s.sp.pc)) ∧
    (s.sp.pc = r.jpc → r.pend = 0 → s.sp.pred.length < r.pdep →
      exec .reconverge s = .next (takeTrap arrived
        { cause := 0x08, addr := BitVec.ofNat 64 s.sp.pred.length, lanes := s.sp.mask } s.sp.chain.isSome s.sp.pc))

/-- R45, R55, R178: `exit` with an empty execution mask has no effect; else its lanes are exited from then on and no
register changes. They leave the active mask and the predicate entries of every split and the sets of every record. A split that keeps
lanes goes on at the next instruction; one that keeps none goes on with lanes that it deferred, or parks with lanes that it brought to a JPC
(log 21), or, with neither, is freed and its number becomes free. The last lanes of a group exit once its fence has completed and no
deferred fault is left (R397). The clauses on the masks and on the emptied split are of a group whose other splits keep lanes and are not
parked. -/
def Obligations.ExitRemovesLanes : Prop :=
  ∀ (s u : State) (x : Args), Ready (.exit x) s →
    let e := s.exec
    let without := fun (p : Split) => { p with mask := p.mask &&& ~~~e, pred := p.pred.map (· &&& ~~~e) }
    let cut := fun (r : Rec) => { r with exp := r.exp &&& ~~~e, arr := r.arr &&& ~~~e, pend := r.pend &&& ~~~e }
    let plain := s.exec ≠ 0 ∧ (s.g.launched &&& ~~~(s.g.exited ||| s.exec)) ≠ 0 ∧
      ∀ p ∈ s.g.others, p.parked = none ∧ p.mask &&& ~~~e ≠ 0
    (plain → s.sp.live = true → s.sp.parked = none → s.sp.mask &&& ~~~e ≠ 0 →
      ∃ t, exec (.exit x) s = .next t ∧ t.sp.mask = (s.sp.mask &&& ~~~e) ∧ t.sp.pred = s.sp.pred.map (· &&& ~~~e) ∧
        t.sp.pc = pcAfter (.exit x) s ∧ t.sp.recon = s.sp.recon ∧ t.g.others = s.g.others.map without ∧ t.g.recs = s.g.recs.map cut) ∧
    (plain → s.sp.live = true → s.sp.parked = none → s.sp.mask &&& ~~~e = 0 → topRec s = none →
      ∃ t, exec (.exit x) s = .next t ∧ t.sp.live = false ∧ t.g.others = s.g.others.map without ∧ t.g.recs = s.g.recs.map cut) ∧
    (∀ r, plain → s.sp.live = true → s.sp.parked = none → s.sp.mask &&& ~~~e = 0 → topRec s = some r →
      (r.pend &&& ~~~e ≠ 0 → r.pby = s.sp.num →
        ∃ t, exec (.exit x) s = .next t ∧ t.sp.live = true ∧ t.sp.mask = (r.pend &&& ~~~e) ∧ t.sp.pc = r.ppc ∧ t.sp.fmt = r.fmt ∧
          t.sp.rnd = r.rnd ∧ t.g.others = s.g.others.map without) ∧
      (¬ (r.pend &&& ~~~e ≠ 0 ∧ r.pby = s.sp.num) → heldBy r s.sp.num &&& (r.arr &&& ~~~e) ≠ 0 →
        (r.arr &&& ~~~e) ≠ (r.exp &&& ~~~e &&& ~~~(s.g.exited ||| e)) →
        ∃ t, exec (.exit x) s = .next t ∧ t.sp.live = true ∧ t.sp.mask = (r.arr &&& ~~~e) ∧ t.sp.parked = some r.id ∧ t.sp.pc = r.jpc ∧
          t.g.others = s.g.others.map without)) ∧
    (s.exec = 0 → exec (.exit x) s = .next (passes (.exit x) s s)) ∧
    (s.exec ≠ 0 → (s.g.launched &&& ~~~(s.g.exited ||| s.exec)) ≠ 0 →
      ∃ t, exec (.exit x) s = .next t ∧ t.g.exited = (s.g.exited ||| s.exec) ∧ t.g.sregs = s.g.sregs ∧
        t.g.vregs = s.g.vregs ∧ t.g.masks = s.g.masks ∧ t.mem = s.mem) ∧
    (s.exec ≠ 0 → (s.g.launched &&& ~~~(s.g.exited ||| s.exec)) = 0 → lastExitCheck s = .done u →
      ∃ t, exec (.exit x) s = .next t ∧ t.g.exited = (s.g.exited ||| s.exec) ∧ t.g.sregs = s.g.sregs ∧
        t.g.vregs = s.g.vregs ∧ t.g.lastExit = s.sp.pc)

/-- R179, R180: `spinfo` writes the state word, the active mask or the execution mask; `nop` and `yield` only pass. -/
def Obligations.SplitInformation : Prop :=
  ∀ (s : State) (x : Args), s.wf = true →
    let w : Word := BitVec.ofNat 32 (s.sp.num + 4 * (liveSplits s).length + 32 * s.sp.pred.length +
      512 * s.sp.recon.length + (if (topRec s).any (fun r => r.pend != 0) then 0x4000 else 0) +
      (if s.sp.super then 0x8000 else 0))
    (Ready (.spinfoState x) s → ∃ t, exec (.spinfoState x) s = .next t ∧ WroteWord (.spinfoState x) s t x.d.toNat w) ∧
    (Ready (.spinfoActive x) s →
      ∃ t, exec (.spinfoActive x) s = .next t ∧ WroteWord (.spinfoActive x) s t x.d.toNat s.sp.mask) ∧
    (Ready (.spinfoExec x) s →
      ∃ t, exec (.spinfoExec x) s = .next t ∧
        WroteWord (.spinfoExec x) s t x.d.toNat (s.sp.mask &&& s.sp.pred.headD 0)) ∧
    (Ready (.nop x) s → exec (.nop x) s = .next (passes (.nop x) s s)) ∧
    (Ready (.yield x) s → exec (.yield x) s = .next (passes (.yield x) s s))

/-- R180, R192, R194, R376, R396: `brk` and `trap` outside a handler enter the handler at once, with the code in TADDR and the next
instruction in TPC, and write no record; under a debugger the control port sends it the words of a TRAP record. -/
def Obligations.SoftwareTraps : Prop :=
  ∀ (s : State) (x : Args), s.g.inHandler = false →
    let entered := fun (i : Instr) (c : BitVec 8) (code : DWord) =>
      Ready i s → ∃ t, exec i s = .next t ∧ t.g.inHandler = true ∧ t.g.tcause = c.setWidth 9 ∧ t.g.taddr = code ∧
        t.g.tpc = pcAfter i s ∧ t.g.tlanes = s.exec ∧ t.sp.pc = s.dev.tvec ∧ t.sp.super = true ∧
        t.g.tpmode = s.sp.super ∧ t.mem = s.mem ∧ t.g.sregs = s.g.sregs ∧ t.g.vregs = s.g.vregs ∧
        t.rel.replies = s.rel.replies ∧ ((∀ k, findCtx s s.asid = some k → k.debugger = false) → t.rel = s.rel) ∧
        ∀ k, findCtx s s.asid = some k → k.debugger = true →
          t.rel = (ctlSend s (rcdWords s (trapRcd s { cause := c, addr := code, lanes := s.exec } (pcAfter i s) false))).rel
    entered (.brk x) 0x0B 0 ∧ entered (.brkCode x) 0x0B (x.literal.setWidth 64) ∧
    entered (.trap x) 0x0A ((scalar32 s x x.a).setWidth 64)

/-! ## Vector instructions -/

/-- R41, R59, R197, R198, R202, R204: what each lane-wise integer instruction writes in the lanes of the execution mask, at the
width of TYPE, with signed and unsigned reading by TYPE; narrow signed results are sign-extended to 32 bits, and of an L6 container `vmov`
and `vsel` copy the six bits of the code. No flag is set, and nothing else changes. -/
def Obligations.VectorIntegerResults : Prop :=
  ∀ (s : State) (x : Args), s.wf = true →
    let w := x.ty.bits
    let signed := isSigned x.ty
    let a := fun l => BitVec.ofNat w (vecA s x x.a l)
    let b := fun l => BitVec.ofNat w (vecA s x x.b l)
    let c := fun l => BitVec.ofNat w (vecA s x x.c l)
    let n := fun l => vec32 s x x.b l
    let code := fun (p : BitVec w) => if x.ty = .l6 then p &&& 63 else p
    let less := fun (p q : BitVec w) => if signed then p.slt q else p.ult q
    let wide := fun (p : BitVec w) => if signed then p.signExtend (2 * w) else p.setWidth (2 * w)
    let a32 := fun l => BitVec.ofNat 32 (vecA s x x.a l)
    let d32 := fun l => getV s x.d.toNat l
    let pos := fun l => n l % 32
    let size := fun l => min (n l / 32 % 64) 32
    let gives := fun (i : Instr) (f : Nat → BitVec w) =>
      i.wf = true → Ready i s → WritesVector i s x (Ty.regs x.ty) fun l =>
        if signed ∧ w < 32 then ((f l).signExtend 32).toNat else (f l).toNat
    let gives32 := fun (i : Instr) (f : Nat → Word) =>
      i.wf = true → Ready i s → WritesVector i s x 1 fun l => (f l).toNat
    gives (.vadd x) (fun l => a l + b l) ∧ gives (.vsub x) (fun l => a l - b l) ∧ gives (.vmul x) (fun l => a l * b l) ∧
    gives (.vmulh x) (fun l => (wide (a l) * wide (b l)).extractLsb' w w) ∧
    gives (.vmad x) (fun l => a l * b l + c l) ∧
    gives (.vmin x) (fun l => if less (b l) (a l) then b l else a l) ∧
    gives (.vmax x) (fun l => if less (b l) (a l) then a l else b l) ∧
    gives (.vabs x) (fun l => (a l).abs) ∧
    gives (.vand x) (fun l => a l &&& b l) ∧ gives (.vor x) (fun l => a l ||| b l) ∧
    gives (.vxor x) (fun l => a l ^^^ b l) ∧ gives (.vandn x) (fun l => a l &&& ~~~(b l)) ∧
    gives (.vshl x) (fun l => a l <<< n l) ∧ gives (.vshr x) (fun l => a l >>> n l) ∧
    gives (.vsra x) (fun l => (a l).sshiftRight (n l)) ∧
    gives (.vclz x) (fun l => (a l).clz) ∧ gives (.vpopc x) (fun l => (a l).cpop) ∧
    gives32 (.vbfx x) (fun l =>
      if x.ty = .i32 then BitVec.sshiftRight ((a32 l >>> pos l) <<< (32 - size l)) (32 - size l)
      else (a32 l >>> pos l) &&& BitVec.ofNat 32 (2 ^ size l - 1)) ∧
    gives32 (.vbfi x) (fun l => (d32 l &&& ~~~(BitVec.ofNat 32 (2 ^ size l - 1) <<< pos l)) |||
      ((a32 l &&& BitVec.ofNat 32 (2 ^ size l - 1)) <<< pos l)) ∧
    gives (.vsel x) (fun l => code (if (getM s (fieldNum x.c)).getLsbD l then a l else b l)) ∧ gives (.vmov x) (fun l => code (a l)) ∧
    ((Instr.vadd64 x).wf = true → Ready (.vadd64 x) s → WritesVector (.vadd64 x) s x 2 fun l =>
      (BitVec.ofNat 64 (vec64 s x x.a l) +
        (if x.ty = .i32 then (BitVec.ofNat 32 (n l)).signExtend 64 else (BitVec.ofNat 32 (n l)).setWidth 64)).toNat)

/-- R49, R169, R202: `vcmp` writes the bits of its mask register in the lanes of the execution mask, keeps the other bits,
and does not write m0. -/
def Obligations.VectorCompare : Prop :=
  ∀ (s : State) (x : Args), s.wf = true → (Instr.vcmp x).wf = true → Ready (.vcmp x) s →
    ∃ t, exec (.vcmp x) s = .next t ∧ WroteMask (.vcmp x) s t x.d.toNat (fun l =>
      ccHolds x.fn.toNat (BitVec.ofNat x.ty.bits (vecA s x x.a l)) (BitVec.ofNat x.ty.bits (vecA s x x.b l))) 0

/-- R78, R203: the dot products: the exact total of all products and c, saturated once, with FXO where it saturates; the
elements of b are read with the signedness of TYPE, or the other one under `.mix`.
TCAUSE.CHAIN at the instruction that opens a chain is log 70 (DEDUCED). -/
def Obligations.DotProducts : Prop :=
  ∀ (s : State) (x : Args), s.wf = true →
    let elem := fun (signed : Bool) (w v k : Nat) =>
      if signed then ((BitVec.ofNat 32 v).extractLsb' (w * k) w).toInt
      else (((BitVec.ofNat 32 v).extractLsb' (w * k) w).toNat : Int)
    let dot := fun (w n : Nat) (mix : Bool) (l : Nat) =>
      let sa := isSigned x.ty
      let sb := if mix then !sa else sa
      let c := BitVec.ofNat 32 (vec32 s x x.c l)
      let total := (if sa || sb then c.toInt else (c.toNat : Int)) +
        ((List.range n).map fun k => elem sa w (vec32 s x x.a l) k * elem sb w (vec32 s x x.b l) k).sum
      let lo : Int := if sa || sb then -(2 ^ 31) else 0
      let hi : Int := if sa || sb then 2 ^ 31 - 1 else 2 ^ 32 - 1
      ((BitVec.ofInt 32 (max lo (min hi total))).toNat, if total < lo ∨ hi < total then fFXO else 0)
    let gives := fun (i : Instr) (w n : Nat) (mix : Bool) => Ready i s → Computes i s s x 1 (dot w n mix)
    gives (.vdot4 x) 8 4 false ∧ gives (.vdot4Mix x) 8 4 true ∧ gives (.vdot2 x) 16 2 false ∧ gives (.vdot2Mix x) 16 2 true

/-! ## Floating point, fixed point and conversion -/

/-- R59, R61, R64, R70: a value of a type rounds to its own pattern under every mode and sets no flag, so that every
arithmetic result that TYPE can hold is exact. -/
def Obligations.RepresentableValuesAreExact : Prop :=
  ∀ (m : Mode) (t : Ty) (p : Nat), t ≠ .fx128 → p < (if t = .l6 then 64 else 2 ^ t.bits) → (tyValue t p).isNan = false →
    tyRound m t (tyValue t p) = (p, 0)

/-- R60, R71, R78, R206, R207, R209, R210: the floating-point instructions: the exact result of the lane's operands,
rounded once to TYPE under the lane's mode; the choice of the lesser or greater; the classes; the signs. Flags go to FLAGS
or trap. TCAUSE.CHAIN at the instruction that opens a chain is log 70 (DEDUCED). -/
def Obligations.FloatResults : Prop :=
  ∀ (s : State) (x : Args), s.wf = true →
    let pa := vecA s x x.a
    let pb := vecA s x x.b
    let va := fun l => tyValue x.ty (pa l)
    let vb := fun l => tyValue x.ty (pb l)
    let vc := fun l => tyValue x.ty (vecA s x x.c l)
    let mode := fun l => roundMode s x.rnd l 0
    let nan := (tyRound .rne x.ty (.nan false)).1
    let gives := fun (i : Instr) (r : Nat → Nat × Flags) =>
      Ready i s → Computes i s s x (Ty.regs x.ty) fun l => (laneValue x.ty (r l).1, (r l).2)
    let round := fun (i : Instr) (v : Nat → Val) => gives i fun l => tyRound (mode l) x.ty (v l)
    let less := fun l => Val.lt (va l) (vb l) || (Val.eq (va l) (vb l) && (va l).neg && !(vb l).neg)
    let picks := fun (i : Instr) (first : Nat → Bool) => gives i fun l =>
      (if (va l).isNan ∧ (vb l).isNan then nan else if (va l).isNan then pb l else if (vb l).isNan then pa l
        else if first l then pa l else pb l,
       if (va l).isSig ∨ (vb l).isSig then fNV else 0)
    let sign := fun (p : Nat) => (BitVec.ofNat x.ty.bits p).msb
    let signs := fun (i : Instr) (neg : Nat → Bool) => gives i fun l =>
      if (va l).isNan then (nan, if (va l).isSig then fNV else 0)
      else (pa l % 2 ^ (x.ty.bits - 1) + (if neg l then 2 ^ (x.ty.bits - 1) else 0), 0)
    round (.fadd x) (fun l => Val.add (mode l) (va l) (vb l)) ∧
    round (.fsub x) (fun l => Val.add (mode l) (va l) (vb l).negate) ∧
    round (.fmul x) (fun l => Val.mul (va l) (vb l)) ∧
    round (.ffma x) (fun l => Val.add (mode l) (Val.mul (va l) (vb l)) (vc l)) ∧
    gives (.fdiv x) (fun l =>
      let q := Val.div (va l) (vb l)
      ((tyRound (mode l) x.ty q.1).1, q.2 ||| (tyRound (mode l) x.ty q.1).2)) ∧
    round (.fsqrt x) (fun l => Val.sqrt (va l)) ∧
    round (.fscale x) (fun l =>
      (va l).scale (max (-5000) (min 5000 (BitVec.ofNat 32 (vec32 s x x.b l)).toInt))) ∧
    picks (.fmin x) less ∧ picks (.fmax x) (fun l => !less l) ∧
    signs (.fsgnCopy x) (fun l => sign (pb l)) ∧ signs (.fsgnNcopy x) (fun l => !sign (pb l)) ∧
    signs (.fsgnXor x) (fun l => sign (pa l) ^^ sign (pb l)) ∧
    (Ready (.fclass x) s → WritesVector (.fclass x) s x 1 fun l => 2 ^ classBit x.ty (pa l)) ∧
    (Ready (.fcmp x) s →
      let cond := fun l =>
        let un := (va l).isNan || (vb l).isNan
        match x.fn.toNat with
        | 0 => Val.eq (va l) (vb l)
        | 1 => un || !Val.eq (va l) (vb l)
        | 2 => Val.lt (va l) (vb l)
        | 3 => Val.lt (va l) (vb l) || Val.eq (va l) (vb l)
        | 4 => Val.lt (vb l) (va l)
        | 5 => Val.lt (vb l) (va l) || Val.eq (va l) (vb l)
        | 6 => un
        | _ => !un
      let fl := fun l =>
        if (2 ≤ x.fn.toNat ∧ x.fn.toNat ≤ 5 ∧ ((va l).isNan ∨ (vb l).isNan)) ∨ (va l).isSig ∨ (vb l).isSig then fNV else 0
      (allFlags s fl &&& s.g.ftrap = 0 →
        ∃ t, exec (.fcmp x) s = .next t ∧ WroteMask (.fcmp x) s t x.d.toNat cond (allFlags s fl)) ∧
      (allFlags s fl &&& s.g.ftrap ≠ 0 →
        exec (.fcmp x) s = .next (traps (.fcmp x) s s 0x28 ((allFlags s fl &&& s.g.ftrap).setWidth 64)
          (maskOf fun l => s.exec.getLsbD l && (fl l &&& s.g.ftrap) != 0))))

/-- R60, R211: the approximate functions. A NaN gives the default NaN, with NV if it signals, and with NX. Each row of R211's table, for
every finite input and for the infinities: the special inputs, with NX where their result is not called exact, the inputs whose results are,
and for every other finite input a result within the stated error of the real function, with NX, and with UF and OF as R77 gives them. Which
result within the bound it is, is a free value (log 8). That a tiny and inexact result sets UF, where R211 itself lists UF for `fexp2` below
-150 alone, is log 136 (DEDUCED, unsafe), and that `ftanh` of a zero counts as one that it calls exact is log 192 (DEDUCED). TCAUSE.CHAIN at
the instruction that opens a chain is log 70 (DEDUCED). -/
def Obligations.ApproximateResults : Prop :=
  ∀ (s : State) (x : Args), s.wf = true →
    let gives := fun (i : Instr) (f : Nat → Nat × Flags) =>
      Ready i s → Computes i s s x 1 fun l => ((f (vecA s x x.a l)).1 % 2 ^ 32, (f (vecA s x x.a l)).2)
    gives (.frcp x) approxRcp ∧ gives (.frsq x) approxRsq ∧ gives (.fexp2 x) approxExp2 ∧ gives (.flog2 x) approxLog2 ∧
    gives (.fsin x) approxSin ∧ gives (.fcos x) approxCos ∧ gives (.ftanh x) approxTanh ∧
    (∀ f ∈ [approxRcp, approxRsq, approxExp2, approxLog2, approxSin, approxCos, approxTanh], ∀ p : Nat, ∀ sig : Bool,
      fmtF32.value p = .nan sig → f p = (0x7FC00000, if sig then fNV ||| fNX else fNX)) ∧
    ∀ p : Nat, p < 2 ^ 32 → ∀ (neg : Bool) (mag : Nat) (exp : Int),
      let v := (Val.fin neg mag exp).real
      let sign := if neg then 0x80000000 else 0
      let none_ : Nat × Flags := (0x7FC00000, fNV ||| fNX)
      (fmtF32.value p = .inf neg →
        approxRcp p = (sign, fNX) ∧ approxRsq p = (if neg then none_ else (0, fNX)) ∧
        approxExp2 p = (if neg then 0 else 0x7F800000, fNX) ∧ approxLog2 p = (if neg then none_ else (0x7F800000, fNX)) ∧
        approxSin p = none_ ∧ approxCos p = none_ ∧ approxTanh p = (sign + 0x3F800000, 0)) ∧
      (fmtF32.value p = .fin neg mag exp → mag = 0 →
        approxRcp p = (sign + 0x7F800000, fDZ ||| fNX) ∧ approxRsq p = (sign + 0x7F800000, fDZ ||| fNX) ∧ approxExp2 p = (0x3F800000, 0) ∧
        approxLog2 p = (0xFF800000, fDZ ||| fNX) ∧ approxSin p = (sign, 0) ∧ approxCos p = (0x3F800000, 0) ∧ approxTanh p = (sign, 0)) ∧
      (fmtF32.value p = .fin neg mag exp → mag ≠ 0 →
        (∀ k : Int, |v| = 2 ^ k → -127 ≤ k → Exactly (approxRcp p) (1 / v)) ∧
        ((∀ k : Int, |v| = 2 ^ k → k < -127) → Near (approxRcp p) (1 / v) (ulp32 (1 / v))) ∧
        (v < 0 → approxRsq p = none_ ∧ approxLog2 p = none_) ∧
        (∀ n : Int, v = 4 ^ n → Exactly (approxRsq p) (2 ^ (-n))) ∧
        (0 < v → (∀ n : Int, v ≠ 4 ^ n) → Near (approxRsq p) (1 / Real.sqrt v) (ulp32 (1 / Real.sqrt v))) ∧
        (128 ≤ v → approxExp2 p = (0x7F800000, fOF ||| fNX)) ∧ (v < -150 → approxExp2 p = (0, fUF ||| fNX)) ∧
        (∀ k : Int, v = k → -149 ≤ k → k ≤ 127 → Exactly (approxExp2 p) (2 ^ k)) ∧
        (-150 ≤ v → v < 128 → (∀ k : Int, v = k → k < -149) →
          Near (approxExp2 p) (Real.rpow 2 v) (2 * ulp32 (Real.rpow 2 v))) ∧
        (∀ k : Int, v = 2 ^ k → Exactly (approxLog2 p) k) ∧
        (0 < v → (∀ k : Int, v ≠ 2 ^ k) →
          Near (approxLog2 p) (Real.logb 2 v) (if 3 / 4 ≤ v ∧ v ≤ 3 / 2 then 2 ^ (-22 : Int) else 2 * ulp32 (Real.logb 2 v))) ∧
        Near (approxSin p) (Real.sin v) (2 ^ (-22 : Int)) ∧ Near (approxCos p) (Real.cos v) (2 ^ (-22 : Int)) ∧
        (9 ≤ |v| → approxTanh p = (sign + 0x3F800000, 0)) ∧
        (|v| < 9 → Near (approxTanh p) (Real.tanh v) (2 * ulp32 (Real.tanh v)))) ∧
      (fmtF32.value p = .fin neg mag exp → v = 1 → approxLog2 p = (0, 0))

/-- R66, R67, R212, R213, R214: the fixed-point instructions at the anchor of the instruction or of FMT: setting, exact
accumulation with one saturation, addition, conversion to TYPE and repacking at another anchor. That an inexact result which saturates sets
NX beside FXO is log 27 (DEDUCED, unsafe).
TCAUSE.CHAIN at the instruction that opens a chain is log 70 (DEDUCED). -/
def Obligations.FixedPointResults : Prop :=
  ∀ (s : State) (x : Args), s.wf = true →
    let w := afterAnchor s x
    let anchor : Int :=
      if x.fn.getLsbD 5 then ((scalar32 s x x.c).setWidth 16).toInt else (s.sp.fmt.extractLsb' 16 16).toInt
    let mode := fun l => roundMode s x.rnd l 0
    let va := fun l => tyValue x.ty (vecA s x x.a l)
    let vb := fun l => tyValue x.ty (vecA s x x.b l)
    let qa := fun l => (BitVec.ofNat 128 (vecQ s x x.a l)).toInt
    let qb := fun l => (BitVec.ofNat 128 (vecQ s x x.b l)).toInt
    let d := fun l => (BitVec.ofNat 128 (getVs s x.d.toNat 4 l)).toInt
    let shift := max (-300) (min 300 (scalar32 s x x.b).toInt)
    let least : Int := -(2 ^ 127)
    let gives := fun (i : Instr) (u : State) (bits : Nat) (r : Nat → Int × Flags) =>
      Ready i s → Computes i s u x (bits / 32) fun l => ((BitVec.ofInt bits (r l).1).toNat, (r l).2)
    gives (.fxacc x) w 128 (fun l =>
      if d l = least then (d l, 0)
      else match Val.mul (va l) (vb l) with
        | .nan _ => (least, fNV)
        | .inf neg => (if neg then -(2 ^ 127 - 1) else 2 ^ 127 - 1, fFXO)
        | .fin neg mag exp =>
          let k := roundAt (mode l) neg mag exp anchor
          let q := d l + (if neg then -(k.1 : Int) else k.1)
          (max (-(2 ^ 127 - 1)) (min (2 ^ 127 - 1) q),
           (if q < -(2 ^ 127 - 1) ∨ 2 ^ 127 - 1 < q then fFXO else 0) ||| (if k.2 then fNX else 0))) ∧
    gives (.fxset x) w 128 (fun l => fxRound (mode l) 128 anchor (va l)) ∧
    gives (.fxadd x) s 128 (fun l =>
      if qa l = least ∨ qb l = least then (least, 0)
      else (max (-(2 ^ 127 - 1)) (min (2 ^ 127 - 1) (qa l + qb l)),
        if qa l + qb l < -(2 ^ 127 - 1) ∨ 2 ^ 127 - 1 < qa l + qb l then fFXO else 0)) ∧
    gives (.fxpkFx64 x) (afterScalar s x.b) 64 (fun l =>
      if qa l = least then (-(2 ^ 63), 0) else fxRound (mode l) 64 shift (Val.ofInt (qa l) 0)) ∧
    gives (.fxpkFx128 x) (afterScalar s x.b) 128 (fun l =>
      let q := (BitVec.ofNat 64 (vec64 s x x.a l)).toInt
      if q = -(2 ^ 63) then (least, 0) else fxRound (mode l) 128 shift (Val.ofInt q 0)) ∧
    (Ready (.fxcvt x) s → Computes (.fxcvt x) s w x (Ty.regs x.ty) fun l =>
      let r := tyRound (mode l) x.ty (if qa l = least then .nan false else Val.ofInt (qa l) anchor)
      (laneValue x.ty r.1, r.2))

/-- R76, R81, R213: two accumulations into one register give the same bits in either order, if none of them saturates. -/
def Obligations.AccumulationOrder : Prop :=
  ∀ (m n : Mode) (anchor d : Int) (a b a' b' : Val),
    let p := accumulate m anchor d a b
    let p' := accumulate n anchor p.1 a' b'
    let q := accumulate n anchor d a' b'
    let q' := accumulate m anchor q.1 a b
    p.2 &&& fFXO = 0 → p'.2 &&& fFXO = 0 → q.2 &&& fFXO = 0 → q'.2 &&& fFXO = 0 → p'.1 = q'.1

/-- R64, R74, R215, R216, R217, R218: the conversions: an element of one type rounded to another, alone or inserted into the destination
lane; the quantiser's codes with the scale byte of the block, under a format word that R69 lists; the value of a code and its scale; L6
codes, their values and products. The scale byte of a block: 255 with a NaN or an infinity in it, 127 for zeros, and else, of the smallest e
whose M·2^(e−127) reaches the largest magnitude and its two neighbours, the one with the least exact sum of squared errors, here in units of
2^-300, the larger at a tie; a lane outside the execution mask counts as +0. TCAUSE.CHAIN at the instruction that opens a chain is log 70
(DEDUCED); that the lanes which hold the NaN or the infinity set NV is log 26. What a constant source is: of `dequant` a 32-bit pattern is
log 172 (DESIGN CHOICE, unsafe), of `cvt` a converted number log 33 (DEDUCED), its elements above the lowest free values log 25 (DESIGN
CHOICE). -/
def Obligations.ConversionResults : Prop :=
  ∀ (s : State) (x : Args), s.wf = true →
    let src := Ty.ofCode (x.fn.setWidth 4)
    let mode := fun l => roundMode s x.rnd l 0
    let w := x.ty.bits
    let k := fieldNum x.b / 4 % 4
    let one := fun l => tyRound (mode l) x.ty (tyValue src (elementOf s x src x.a (fieldNum x.b % 4) l))
    let code := fun l => vec32 s x x.a l % 256
    let scale := fun l => vec32 s x x.a l / 256 % 256
    let l6 := fun (f : Src) (l : Nat) => vectorTy s x .l6 f l
    let gives := fun (i : Instr) (r : Nat → Nat × Flags) =>
      Ready i s → Computes i s s x (Ty.regs x.ty) fun l => (laneValue x.ty (r l).1, (r l).2)
    gives (.cvt x) one ∧
    (w < 32 → Ready (.cvtIns x) s → Computes (.cvtIns x) s s x 1 fun l =>
      let old := (getV s x.d.toNat l).toNat
      (old % 2 ^ (w * k) + (one l).1 % 2 ^ w * 2 ^ (w * k) + old / 2 ^ (w * (k + 1)) * 2 ^ (w * (k + 1)), (one l).2)) ∧
    (32 ≤ w → gives (.cvtIns x) one) ∧
    (Ready (.quant x) s → (mfmt s.sp.fmt).legal ≠ none → Computes (.quant x) s s x 1 fun l =>
      let q := quantBlock s x
      ((q.2.getD l (0, 0)).1 + 256 * q.1, (q.2.getD l (0, 0)).2)) ∧
    (Ready (.quant x) s → (mfmt s.sp.fmt).legal = none →
      exec (.quant x) s = .next (traps (.quant x) s s 0x02 (firstUnit (Instr.quant x).shape) s.exec)) ∧
    (let v := fun l => if s.exec.getLsbD l then tyValue src (vectorTy s x src x.a l) else Val.ofInt 0 0
     let scaleByte : Int := (quantBlock s x).1
     let codeOf := fun l => ((quantBlock s x).2.getD l (0, 0)).1
     ((∃ l, l < 32 ∧ ((v l).isNan || (v l).isInf) = true) → scaleByte = 255 ∧ ∀ l, l < 32 → codeOf l = 0) ∧
     ((∀ l, l < 32 → (v l).isZero = true) → scaleByte = 127 ∧ ∀ l, l < 32 → codeOf l = (tyRound .rne x.ty (Val.ofInt 0 0)).1) ∧
     ∀ (m : Val) (top : Nat) (e0 : Int),
       (x.ty, m) ∈ [(Ty.e4m3, Val.ofInt 448 0), (Ty.e5m2, Val.ofInt 57344 0), (Ty.i8, Val.ofInt 127 0), (Ty.l6, Val.fin false 55109 (-12))] →
       (∀ l, l < 32 → ((v l).isNan || (v l).isInf) = false) → top < 32 → (v top).isZero = false →
       (∀ l, l < 32 → Val.lt (v top).abs (v l).abs = false) →
       Val.lt (m.scale (e0 - 127)) (v top).abs = false → Val.lt (m.scale (e0 - 128)) (v top).abs = true →
       let code := fun (e : Int) (l : Nat) =>
         let y := (v l).scale (127 - e)
         if Val.lt m y.abs then (tyRound .rtz x.ty (if (v l).neg then m.negate else m)).1 else (tyRound (mode l) x.ty y).1
       let sse := fun (e : Int) => ((List.range 32).map fun l =>
         (units150 (v l) - units150 ((tyValue x.ty (code e l)).scale (e - 127))).natAbs ^ 2).sum
       let cand := fun (j : Int) => max 0 (min 254 (e0 + j))
       (∃ i ∈ [(-1 : Int), 0, 1], scaleByte = cand i ∧
         ∀ j ∈ [(-1 : Int), 0, 1], sse (cand i) < sse (cand j) ∨ (sse (cand i) = sse (cand j) ∧ cand j ≤ cand i)) ∧
       ∀ l, l < 32 → codeOf l = code scaleByte l) ∧
    gives (.dequant x) (fun l =>
      if scale l = 255 ∨ (src = .e4m3 ∧ (tyValue src (code l)).isNan) then tyRound .rne x.ty (.nan false)
      else tyRound (mode l) x.ty ((tyValue src (code l)).scale ((scale l : Int) - 127))) ∧
    (Ready (.lcvtTo x) s → Computes (.lcvtTo x) s s x 1 fun l =>
      ((tyRound (mode l) .l6 (tyValue x.ty (vecA s x x.a l))).1 % 256, (tyRound (mode l) .l6 (tyValue x.ty (vecA s x x.a l))).2)) ∧
    gives (.lcvtFrom x) (fun l => tyRound (mode l) x.ty (l6Value (l6 x.a l))) ∧
    gives (.lcvtProd x) (fun l => tyRound (mode l) x.ty (l6Product (l6 x.a l) (l6 x.b l)))

/-! ## Between lanes -/

/-- R50, R220, R222, R224, R229: the moves between lanes: each active lane receives the value of `a` in its source lane, active or
not, or its own fill if the source has exited, was never launched or lies outside; a poisoned lane among the sources raises
0x15. The votes and `ballot` write a scalar register also with an empty execution mask. `vrd` and `vwr` reach the register
that each lane names, and nothing at or above the allocation. TCAUSE.CHAIN at the instruction that opens a chain is log 70 (DEDUCED). -/
def Obligations.LaneMoves : Prop :=
  ∀ (s : State) (x : Args), s.wf = true →
    let a := vecA s x x.a
    let n := fun l => vec32 s x x.b l
    let there := fun k => (s.g.launched &&& ~~~s.g.exited).getLsbD k
    let seg := if 1 ≤ x.fn.toNat / 4 ∧ 2 ^ (x.fn.toNat / 4) < 32 then 2 ^ (x.fn.toNat / 4) else 32
    let so : Nat → Int := fun l =>
      match x.fn.toNat % 4 with
      | 0 => ((l % seg : Nat) : Int) - n l
      | 1 => ((l % seg : Nat) : Int) + n l
      | 2 => ((l % seg ^^^ n l : Nat) : Int)
      | _ => (((l % seg : Nat) : Int) - n l) % seg
    let first := (activeLanes s).headD 0
    let one := (scalar32 s x x.b).toNat % 32
    let moves := fun (i : Instr) (src : Nat → Option Nat) =>
      Ready i s →
        (poisonedSources s x src = [] → WritesVector i s x (Ty.regs x.ty) fun l =>
          laneValue x.ty (match src l with | some k => if there k then a k else vecA s x x.c l | none => vecA s x x.c l)) ∧
        (poisonedSources s x src ≠ [] → ∃ (u : State) (tr : Trap), tr.cause = 0x15 ∧ exec i s = .next (traps i s u tr.cause tr.addr tr.lanes))
    let writes := fun (i : Instr) (v : Word) => Ready i s → ∃ t, exec i s = .next t ∧ WroteWord i s t x.d.toNat v
    let all := fun (p : Nat → Prop) => ∀ l ∈ activeLanes s, p l
    moves (.perm x) (fun l => some (n l % 32)) ∧
    moves (.shfl x) (fun l => if 0 ≤ so l ∧ so l < seg then some (l - l % seg + (so l).toNat) else none) ∧
    moves (.bcast x) (fun _ => some one) ∧ moves (.bcastFirst x) (fun _ => some first) ∧
    (∃ v : Word, writes (.ballot x) v ∧ ∀ l, l < 32 → v.getLsbD l = (s.exec.getLsbD l && a l != 0)) ∧
    (all (fun l => a l ≠ 0) → writes (.voteAll x) 1) ∧ (¬ all (fun l => a l ≠ 0) → writes (.voteAll x) 0) ∧
    (all (fun l => a l = 0) → writes (.voteAny x) 0) ∧ (¬ all (fun l => a l = 0) → writes (.voteAny x) 1) ∧
    ((∀ k ∈ activeLanes s, ∀ l ∈ activeLanes s, a k = a l) → writes (.voteUni x) 1) ∧
    (¬ (∀ k ∈ activeLanes s, ∀ l ∈ activeLanes s, a k = a l) → writes (.voteUni x) 0) ∧
    (Ready (.vrd x) s → poisonedIndexed s x = [] → WritesVector (.vrd x) s x 1 fun l =>
      let r := fieldNum x.b + vec32 s x x.a l
      if s.g.nv ≤ r then 0 else (getV s r l).toNat) ∧
    (Ready (.vwr x) s → ∃ t, exec (.vwr x) s = .next t ∧ OnlyVectors s t ∧ placed (.vwr x) s t (pcAfter (.vwr x) s) ∧
      t.g.flags = s.g.flags ∧
      (∀ q l, l < 32 → peek t.g.latches (32 * q + l) =
        if q = 0 ∧ l ∈ activeLanes s then BitVec.ofNat 128 (a l) else peek s.g.latches (32 * q + l)) ∧
      ∀ r l, l < 32 → getV t r l =
        if l ∈ activeLanes s ∧ r = x.d.toNat + n l ∧ r < s.g.nv then BitVec.ofNat 32 (a l) else getV s r l)

/-- R71, R72, R221: `redx` combines the lanes of each segment in the fixed butterfly: at step n every lane l at once takes x[l] op
x[l xor 2^n]; `scanx` combines the lanes of the execution mask in rising order; other lanes contribute the identity of R221's table. The
flags of a segment's sums, or of a scan's, belong to the lane that receives the result (log 26, DEDUCED, unsafe: TLANES), and the draw of SRK at
a step is read literally from R71 and R221 (log 61, DEDUCED). TCAUSE.CHAIN at the instruction that opens a chain is log 70 (DEDUCED). -/
def Obligations.LaneCombinations : Prop :=
  ∀ (s : State) (x : Args), s.wf = true →
    let op := x.fn.toNat % 8
    let a := vecA s x x.a
    let k := x.fn.toNat / 8
    let seg := if 1 ≤ k ∧ 2 ^ k < 32 then 2 ^ k else 32
    let signed := fun (p : Nat) => if isSigned x.ty then (BitVec.ofNat x.ty.bits p).toInt else (p : Int)
    let fx := fun (p : Nat) => (BitVec.ofNat 128 p).toInt
    let least : Int := -(2 ^ 127)
    let excl := x.fn.getLsbD 3
    let one := fun (l acc : Nat) => combine op x.ty (roundMode s x.rnd l 0) acc (a l)
    let before := fun (l : Nat) =>
      ((activeLanes s).filter (fun k => k < l)).foldl (fun acc k => (one k acc).1) (identityOf op x.ty)
    (∀ (m : Mode) (p q : Nat), p < 2 ^ x.ty.bits → q < 2 ^ x.ty.bits →
      combine 0 x.ty m p q = ((p + q) % 2 ^ x.ty.bits, 0) ∧
      (x.ty ∈ [.i32, .n32, .i64, .n64] → combine 1 x.ty m p q = (if signed p ≤ signed q then p else q, 0) ∧
        combine 2 x.ty m p q = (if signed p ≤ signed q then q else p, 0)) ∧
      combine 3 x.ty m p q = (p &&& q, 0) ∧ combine 4 x.ty m p q = (p ||| q, 0) ∧ combine 5 x.ty m p q = (p ^^^ q, 0) ∧
      combine 6 x.ty m p q = tyRound m x.ty (Val.add m (tyValue x.ty p) (tyValue x.ty q)) ∧
      (x.ty = .fx128 → (fx (combine 7 x.ty m p q).1, (combine 7 x.ty m p q).2) =
        if fx p = least ∨ fx q = least then (least, 0)
        else (max (-(2 ^ 127 - 1)) (min (2 ^ 127 - 1) (fx p + fx q)),
          if fx p + fx q < -(2 ^ 127 - 1) ∨ 2 ^ 127 - 1 < fx p + fx q then fFXO else 0))) ∧
    (x.ty ∈ [.i32, .n32, .i64, .n64] →
      identityOf 0 x.ty = 0 ∧ identityOf 3 x.ty = 2 ^ x.ty.bits - 1 ∧ identityOf 4 x.ty = 0 ∧ identityOf 5 x.ty = 0 ∧
      ∀ p, p < 2 ^ x.ty.bits → signed p ≤ signed (identityOf 1 x.ty) ∧ signed (identityOf 2 x.ty) ≤ signed p) ∧
    identityOf 6 x.ty = 2 ^ (x.ty.bits - 1) ∧ identityOf 7 x.ty = 0 ∧
    (Ready (.redx x) s → ∃ at_ : Nat → Nat → Nat × Flags,
      (∀ l, l < 32 → at_ 0 l = (if s.exec.getLsbD l then a l else identityOf op x.ty, 0)) ∧
      (∀ n l, n < Nat.log2 seg → l < 32 →
        let c := combine op x.ty (roundMode s x.rnd (min l (l ^^^ 2 ^ n)) n) (at_ n l).1 (at_ n (l ^^^ 2 ^ n)).1
        at_ (n + 1) l = (c.1, (at_ n l).2 ||| c.2)) ∧
      Computes (.redx x) s s x (Ty.regs x.ty) fun l => (laneValue x.ty (at_ (Nat.log2 seg) l).1,
        (List.range 32).foldl (fun f k => if k / seg = l / seg then f ||| (at_ (Nat.log2 seg) k).2 else f) 0)) ∧
    (Ready (.scanx x) s → ∃ r : Nat → Nat × Flags, Computes (.scanx x) s s x (Ty.regs x.ty) r ∧
      ∀ l ∈ activeLanes s, r l =
        (laneValue x.ty (if excl then before l else (one l (before l)).1), (one l (before l)).2))

/-- R221: the butterfly of additions leaves in every active lane the sum, modulo 2^w, of the active lanes of its segment. -/
def Obligations.ButterflySums : Prop :=
  ∀ (s : State) (x : Args) (k l : Nat), 1 ≤ k → k ≤ 5 → l < 32 → x.ty ∈ [.i32, .n32, .i64, .n64] →
    ((treeSteps s x 0 k 0 (treeStart s x 0)).getD l (0, 0)).1 =
      (((List.range 32).filter fun j => j / 2 ^ k = l / 2 ^ k ∧ s.exec.getLsbD j = true).map (vecA s x x.a)).sum % 2 ^ x.ty.bits

/-- R79, R80, R223: `rng` writes the first words of Philox for the stream, draw and element of each lane; `rngf` the FP32
value of the word's upper 24 bits in units of 2^-24. -/
def Obligations.RandomWords : Prop :=
  ∀ (s : State) (x : Args), s.wf = true →
    (Ready (.rng x) s → WritesVector (.rng x) s x (x.fn.toNat + 1) fun l =>
      ofWords ((philox (BitVec.ofNat 64 (vec64 s x x.c l))
        (BitVec.ofNat 128 (vec64 s x x.a l + 2 ^ 64 * vec64 s x x.b l))).take (x.fn.toNat + 1))) ∧
    (Ready (.rngf x) s → WritesVector (.rngf x) s x 1 fun l =>
      laneValue .f32 (tyRound .rne .f32 (.fin false (vec32 s x x.a l / 2 ^ 8) (-24))).1)

/-! ## System instructions -/

/-- R73, R181, R182, R191: `sget` writes the register that its literal names, and nothing else; the save registers need supervisor mode
(R53). Reading CH merges the group's contributions first, when none of its stores is on its way; reading FLAGS merges its FX128 and FP32
reductions, which may set FXO or NV, when none of them is on its way or logged. That these reads merge first, and wait so, is log 23
(DEDUCED). -/
def Obligations.SpecialRegisterReads : Prop :=
  ∀ (s : State) (x : Args), s.wf = true → Ready (.sget x) s →
    let word := fun (n : Nat) (v : Word) => x.literal = BitVec.ofNat 32 n →
      ∃ t, exec (.sget x) s = .next t ∧ WroteWord (.sget x) s t x.d.toNat v
    let pair := fun (n : Nat) (v : DWord) => x.literal = BitVec.ofNat 32 n →
      ∃ t, exec (.sget x) s = .next t ∧ WroteDouble (.sget x) s t x.d.toNat v
    let merged := mergeGroup s s.g.id
    let flagged := mergeFlags s s.g.id
    word 0x00 s.sp.fmt ∧ word 0x01 (s.sp.rnd.setWidth 32) ∧ word 0x02 (s.g.rkey.extractLsb' 0 32) ∧
    word 0x03 (s.g.rkey.extractLsb' 32 32) ∧ word 0x04 (s.g.rkey.extractLsb' 64 32) ∧
    word 0x05 (s.g.rkey.extractLsb' 96 32) ∧ pair 0x06 (s.tm.ltm.setWidth 64) ∧
    (x.literal = 0x07 → storesOut s s.g.id = false →
      exec (.sget x) s = .next (passes (.sget x) s (resultPair merged x.d.toNat (BitVec.ofNat 64 merged.g.ch)))) ∧
    (x.literal = 0x07 → storesOut s s.g.id = true → exec (.sget x) s = .next (park .fence s)) ∧
    (x.literal = 0x08 → flagsOut s s.g.id = false →
      exec (.sget x) s = .next (passes (.sget x) s (resultS flagged x.d.toNat (flagged.g.flags.setWidth 32)))) ∧
    (x.literal = 0x08 → flagsOut s s.g.id = true → exec (.sget x) s = .next (park .fence s)) ∧
    word 0x09 (s.g.ftrap.setWidth 32) ∧ pair 0x0A (BitVec.ofNat 64 s.gt) ∧
    word 0x0B (BitVec.ofNat 32 s.dev.pool) ∧ word 0x10 s.dev.cap0 ∧ pair 0x11 s.dev.cap1 ∧ pair 0x12 s.dev.cap2 ∧
    word 0x13 s.dev.cap3 ∧ pair 0x20 s.dev.tvec ∧ word 0x21 (s.g.tcause.setWidth 32) ∧ pair 0x22 s.g.tpc ∧
    pair 0x23 s.g.taddr ∧ word 0x24 s.g.tlanes ∧
    word 0x25 (0#28 ++ BitVec.ofBool s.g.tpcw ++ s.g.tsplit ++ BitVec.ofBool s.g.tpmode)

/-- R68, R71, R73, R181, R182, R183, R184, R191: `setfmt`, `setrnd`, `ltm` and `sput` write their register and nothing
else; a reserved code raises 0x02, F64 on profile N 0x05, a mode of 6 or above 0x02, a write to TVEC 0x04, and then nothing is
written. A `sput` of CH, GT, PWRPOOL or a CAP register is no instruction: its words do not decode (0x02, R153). A write to TPC sets TPCW; of
TSAVE only PMODE is written.
TCAUSE.CHAIN at the instruction that opens a chain is log 70 (DEDUCED). -/
def Obligations.SpecialRegisterWrites : Prop :=
  ∀ (s : State) (x : Args),
    let reserved := fun (v : Word) =>
      [v.extractLsb' 0 4, v.extractLsb' 4 4, v.extractLsb' 12 4].any (fun c => c == 8 || 13 ≤ c.toNat) ∨
        v.extractLsb' 8 2 = 3
    let usesF64 := fun (v : Word) =>
      [v.extractLsb' 0 4, v.extractLsb' 4 4, v.extractLsb' 12 4].any (fun c => c == 9) ∨ v.extractLsb' 8 2 = 2
    let formats := fun (i : Instr) (v : Word) =>
      (¬ reserved v → ¬ (usesF64 v ∧ profileN s = true) →
        exec i s = .next (passes i s { s with sp := { s.sp with fmt := v } })) ∧
      (reserved v → exec i s = .next (traps i s s 0x02 (firstUnit i.shape) s.exec)) ∧
      (¬ reserved v → usesF64 v → profileN s = true → exec i s = .next (traps i s s 0x05 (firstUnit i.shape) s.exec))
    let rounds := fun (i : Instr) (v : Word) =>
      (v.toNat < 6 → exec i s = .next (passes i s { s with sp := { s.sp with rnd := v.setWidth 3 } })) ∧
      (6 ≤ v.toNat → exec i s = .next (traps i s s 0x02 (firstUnit i.shape) s.exec))
    let a := scalar32 s x x.a
    let a64 := scalar64 s x x.a
    let key := fun (n : Nat) => s.g.rkey.extractLsb' (32 * n) 32
    let puts := fun (n : Nat) (u : State) =>
      x.literal = BitVec.ofNat 32 n → exec (.sput x) s = .next (passes (.sput x) s u)
    (∀ n ∈ [0x07, 0x0A, 0x0B, 0x10, 0x11, 0x12, 0x13], x.literal = BitVec.ofNat 32 n →
      (Instr.sput x).wf = false ∧ decode (encode (.sput x)) ≠ .ok (.sput x)) ∧
    (Ready (.setfmt x) s → formats (.setfmt x) a) ∧ (Ready (.setrnd x) s → rounds (.setrnd x) a) ∧
    (Ready (.ltm x) s → exec (.ltm x) s = .next (passes (.ltm x) s
      { s with tm := { s.tm with ltm := (scalar32 s x x.b).extractLsb' 0 8 ++ a } })) ∧
    (Ready (.sput x) s →
      (x.literal = 0x00 → formats (.sput x) a) ∧ (x.literal = 0x01 → rounds (.sput x) a) ∧
      puts 0x02 { s with g := { s.g with rkey := key 3 ++ key 2 ++ key 1 ++ a } } ∧
      puts 0x03 { s with g := { s.g with rkey := key 3 ++ key 2 ++ a ++ key 0 } } ∧
      puts 0x04 { s with g := { s.g with rkey := key 3 ++ a ++ key 1 ++ key 0 } } ∧
      puts 0x05 { s with g := { s.g with rkey := a ++ key 2 ++ key 1 ++ key 0 } } ∧
      puts 0x06 { s with tm := { s.tm with ltm := a64.setWidth 40 } } ∧
      puts 0x08 { s with g := { s.g with flags := a.setWidth 6 } } ∧
      puts 0x09 { s with g := { s.g with ftrap := a.setWidth 6 } } ∧
      puts 0x21 { s with g := { s.g with tcause := a.setWidth 9 } } ∧
      puts 0x22 { s with g := { s.g with tpc := a64, tpcw := true } } ∧
      puts 0x23 { s with g := { s.g with taddr := a64 } } ∧ puts 0x24 { s with g := { s.g with tlanes := a } } ∧
      puts 0x25 { s with g := { s.g with tpmode := a.getLsbD 0 } }) ∧
    (¬ namesPending (.sput x) s → ¬ namesHigh (.sput x) s → x.literal = 0x20 →
      exec (.sput x) s = .next (traps (.sput x) s s 0x04 (firstUnit (Instr.sput x).shape) s.exec))

/-- R54, R185, R187, R188, R190, R193, R194, R313, R324, R326, R394: `rte` restores the split from the shadow without the
lanes that exited, the mode from TSAVE and the PC from TPC, which it checks if it was written; `ppoint` marks the group and
goes to the save entry if a request is pending; `sig` adds to a counter of the context after the release, and raises 0x13 for another's, with
the counter's number in TADDR (log 74, DEDUCED, unsafe); `wget` writes the
next work item; `halt` writes its record and begins the termination; `sysc` sends its request after the release, and its
reply writes the register and lets the split go on. That `rte` with no shadow keeps the split's masks is the model's choice
(log 139). TCAUSE.CHAIN at the instruction that opens a chain is log 70 (DEDUCED). -/
def Obligations.SystemCalls : Prop :=
  ∀ (s u : State) (x : Args) (h : Shadow) (gid n : Nat) (v : Word) (q : Request),
    let live := ~~~s.g.exited
    let back := fun (w : State) => settleSplits { w with
      g := { w.g with inHandler := false, entry := 0, shadow := none }
      sp := { w.sp with
        mask := h.mask &&& live, pred := h.pred.map (· &&& live), recon := h.recon, fmt := h.fmt, rnd := h.rnd
        super := s.g.tpmode, pc := s.g.tpc, chain := none, wait := none
        arrival := if s.g.tpcw then none else h.arrival, request := if s.g.tpcw then none else h.request } }
    let bare := settleSplits { s with
      g := { s.g with inHandler := false, entry := 0 }
      sp := { s.sp with super := s.g.tpmode, pc := s.g.tpc, chain := none, wait := none } }
    let signals := fun (i : Instr) (scope : Nat) =>
      Ready i s → ownsCounter s s.asid (scalar32 s x x.a).toNat = true → release s scope = .done u →
        mpReaches u u.tm.core = true →
        exec i s = .next (passes i s (addCounter u (scalar32 s x x.a).toNat (scalar32 s x x.b)))
    (Ready (.rte x) s → s.g.shadow = some h → s.g.entry ≠ 0x38 → s.g.tpcw = false →
      exec (.rte x) s = .next (goesTo (.rte x) s (back s) (back s).sp.pc)) ∧
    (Ready (.rte x) s → s.g.shadow = some h → s.g.entry ≠ 0x38 → s.g.tpcw = true → checkTransfer s s.g.tpc = .ok u →
      exec (.rte x) s = .next (goesTo (.rte x) s (back u) (back u).sp.pc)) ∧
    (Ready (.rte x) s → s.g.shadow = none → s.g.entry ≠ 0x38 → s.g.tpcw = false →
      exec (.rte x) s = .next (goesTo (.rte x) s bare bare.sp.pc)) ∧
    (Ready (.rte x) s → s.g.shadow = some h → s.g.entry = 0x38 → s.g.tpcw = false →
      exec (.rte x) s = .next (goesTo (.rte x) s { back s with g := { (back s).g with halted := true } } (back s).sp.pc)) ∧
    (Ready (.ppoint x) s → (∀ k, s.gang.st ≠ .halting k) →
      exec (.ppoint x) s = .next (passes (.ppoint x) s { s with g := { s.g with pointAware := true } })) ∧
    (Ready (.ppoint x) s → s.gang.st = .halting n →
      let w := saveEntry { s with
        g := { s.g with pointAware := true }, sp := { s.sp with pc := pcAfter (.ppoint x) s } }
      exec (.ppoint x) s = .next (goesTo (.ppoint x) s w w.sp.pc)) ∧
    signals (.sigDev x) 3 ∧ signals (.sigSys x) 4 ∧
    (Ready (.sigDev x) s → ownsCounter s s.asid (scalar32 s x x.a).toNat = false →
      exec (.sigDev x) s = .next (traps (.sigDev x) s s 0x13 ((scalar32 s x x.a).setWidth 64) s.exec)) ∧
    (Ready (.sigSys x) s → ownsCounter s s.asid (scalar32 s x x.a).toNat = false →
      exec (.sigSys x) s = .next (traps (.sigSys x) s s 0x13 ((scalar32 s x x.a).setWidth 64) s.exec)) ∧
    (Ready (.wget x) s →
      exec (.wget x) s = .next (passes (.wget x) s (resultBlock { s with g := { s.g with wgets := s.g.wgets + 1 } } x.d.toNat
        (workItem s.launch.rcd (s.gang.index * s.launch.rcd.teams + s.tm.member) s.g.wgets)))) ∧
    (Ready (.halt x) s → ∃ r, r.kind = 0x09 ∧ r.pc = s.sp.pc ∧ r.lanes = s.exec ∧ r.extra = scalar32 s x x.a ∧
      r.split = s.sp.num ∧
      exec (.halt x) s = .next (passes (.halt x) s (startTerminate (writeRecord s r) s.asid 1))) ∧
    (Ready (.sysc x) s → (∀ p, s.sp.request = some p → p.pc ≠ s.sp.pc) → release s 3 = .done u →
      exec (.sysc x) s = .next (park .reply { u with sp := { u.sp with
        request := some { pc := u.sp.pc, next := pcAfter (.sysc x) u, op := 0x3F, dest := x.d.toNat
                          words := [(scalar32 u x x.a).setWidth 64, (scalar32 u x x.b).setWidth 64] } } })) ∧
    (u = focus s { gid := gid, sp := n } → u.sp.request = some q → q.op = 0x3F → mayIssue u = true → chainOpen u gid = false → mpReaches u u.tm.core = true →
      exec (.syscReply gid n v) s = .next (
        let w := resultS u q.dest v
        { w with sp := { w.sp with pc := q.next, request := none, wait := none, since := w.gt } }))

/-- R95, R189: `bmode` gives a free bank of the cluster its role, raises 0x16 for a bank or role that is not and for a bank in use, and
waits, its group held, while an accepted command names the bank or stores held in its cluster's cache are not yet at their homes; that it
does nothing to a bank in use which has the role already is log 187 (DEDUCED); `xinv`, `cmaint.inv`, `cmaint.merge` and the purges drop or
merge the lines they name and no others; that `cmaint.merge` reaches lines of the issuer's ASID and of ASID 0 is log 199 (DESIGN CHOICE,
unsafe); a user-mode purge of another context raises 0x04 with no effect. TCAUSE.CHAIN at the instruction that opens a chain is log 70
(DEDUCED). -/
def Obligations.MemorySystemControl : Prop :=
  ∀ (s : State) (x : Args),
    let va := (pairOf s x.a).toNat
    let bytes := (scalar32 s x x.b).toNat
    let bank := (scalar32 s x x.a).toNat
    let cl := clusterOf s.tm.core
    let role : BankRole := match bytes with | 0 => .cache | 1 => .scratch | _ => .fifo
    let asid := scalar32 s x x.c
    let covers := fun (size line : Nat) => line * size < va % 2 ^ 57 + bytes ∧ va % 2 ^ 57 < line * size + size ∧ 0 < bytes
    let purges := fun (i : Instr) (hit : BitVec 16 → Nat → Bool) =>
      let m := mergeCore s fun y => hit y.asid y.line
      let keeps := fun (c : CLine) => !hit c.asid c.line
      Ready i s → (s.sp.super = true ∨ (asid = s.asid.setWidth 32 ∧ s.asid ≠ 0)) →
        ((m.mem.l1.any fun c => hit c.asid c.line && anyPinned c m.gt) = false →
          (m.mem.cc.any fun c => hit c.asid c.line && anyPinned c m.gt) = false →
          exec i s = .next (passes i s { m with mem := { m.mem with l1 := m.mem.l1.filter keeps, cc := m.mem.cc.filter keeps } }))
    (Ready (.bmode x) s → 64 ≤ bank ∨ 3 ≤ bytes →
      exec (.bmode x) s = .next (traps (.bmode x) s s 0x16 (BitVec.ofNat 64 bank) s.exec)) ∧
    (∀ b, Ready (.bmode x) s → bank < 64 → bytes < 3 →
      s.eng.banks.find? (fun b => b.cluster == cl && b.bank == bank) = some b → b.role = role →
      exec (.bmode x) s = .next (passes (.bmode x) s s)) ∧
    (Ready (.bmode x) s → bank < 64 → bytes < 3 →
      (∀ b, s.eng.banks.find? (fun b => b.cluster == cl && b.bank == bank) = some b → b.role ≠ role) →
      (bankInUse s cl bank = true → exec (.bmode x) s = .next (traps (.bmode x) s s 0x16 (BitVec.ofNat 64 bank) s.exec)) ∧
      (bankInUse s cl bank = false → bankBusy s cl bank = true → exec (.bmode x) s = .next (park .hold s))) ∧
    (Ready (.bmode x) s → bank < 64 → bytes < 3 → bankInUse s cl bank = false → bankBusy s cl bank = false →
      (∀ b, s.eng.banks.find? (fun b => b.cluster == cl && b.bank == bank) = some b → b.role ≠ role) →
      exec (.bmode x) s = .next (passes (.bmode x) s (setRole s cl bank role)) ∧
        ∀ b ∈ (setRole s cl bank role).eng.banks, b.cluster = cl → b.bank = bank → b.role = role ∧ b.fifo = []) ∧
    (Ready (.xinv x) s → ∃ t, exec (.xinv x) s = .next t ∧
      t = passes (.xinv x) s { s with mem := { s.mem with icache := t.mem.icache } } ∧
      ∀ c, c ∈ t.mem.icache ↔ c ∈ s.mem.icache ∧ ¬ (c.core = s.tm.core ∧ (bytes = 0 ∨ covers 64 c.line))) ∧
    (Ready (.cmaintInv x) s → ∃ t, exec (.cmaintInv x) s = .next t ∧
      t = passes (.cmaintInv x) s { s with mem := { s.mem with l1 := t.mem.l1 } } ∧
      ∀ c, c ∈ t.mem.l1 ↔ c ∈ s.mem.l1 ∧
        ¬ (c.unit = s.tm.core ∧ c.asid = s.asid ∧ covers 128 c.line ∧ anyPinned c s.gt = false)) ∧
    (Ready (.cmaintMerge x) s →
      exec (.cmaintMerge x) s = .next (passes (.cmaintMerge x) s (mergeCore s fun y =>
        y.core == s.tm.core && (y.asid == s.asid || y.asid == 0) && decide (covers 128 y.line)))) ∧
    purges (.cmaintPurge x) (fun a l => a.setWidth 32 == asid && decide (covers 128 l)) ∧
    purges (.cmaintPurgeasid x) (fun a _ => a.setWidth 32 == asid) ∧
    (¬ namesPending (.cmaintPurge x) s → ¬ namesHigh (.cmaintPurge x) s → (∀ k, x.c ≠ .latch k) → s.sp.super = false →
      ¬ (asid = s.asid.setWidth 32 ∧ s.asid ≠ 0) →
      exec (.cmaintPurge x) s =
        .next (traps (.cmaintPurge x) s s 0x04 (firstUnit (Instr.cmaintPurge x).shape) s.exec)) ∧
    (¬ namesPending (.cmaintPurgeasid x) s → ¬ namesHigh (.cmaintPurgeasid x) s → (∀ k, x.c ≠ .latch k) → s.sp.super = false →
      ¬ (asid = s.asid.setWidth 32 ∧ s.asid ≠ 0) →
      exec (.cmaintPurgeasid x) s =
        .next (traps (.cmaintPurgeasid x) s s 0x04 (firstUnit (Instr.cmaintPurgeasid x).shape) s.exec))

/-- R186, R310, R311, R312: `lnch`, after its release, reads the record as a load and writes the status: 2 for a reserved or out-of-range
field, an ENTRY that is not marked or a queue of 64 or above, 3 for a queue that is not open to the context or another context's record (and
on a device that takes no launches: whose MP has failed, R23, or whose bay 0 has retired or has lost both its bridges, R419, which is the
model's choice, logs 147 and 168; so are the order of the statuses, log 140, and that a queue counts as open to the context that owns it
also while it is closed to placement, log 189), 1 for a full queue, and 0 when the record has been queued at the end of the queue.
TCAUSE.CHAIN at the instruction that opens a chain is log 70 (DEDUCED). -/
def Obligations.DeviceLaunch : Prop :=
  ∀ (s u v : State) (x : Args) (l : List (Elem × List Byte × Bool)),
    let va := (pairOf u x.a).toNat
    let q := (scalar32 v x x.b).toNat
    let ws := (blockValues l).flatMap wordsOf
    let r := parseLaunch ws
    let legal := q < 64 ∧ launchReserved ws = true ∧ launchRanges r = true ∧ launchCounters v r = true ∧ shapeFits v r = true
    let status := fun (c : Word) (w : State) =>
      exec (.lnch x) s = .next (passes (.lnch x) s (resultS (dropAsk w (pageOf (lineVa r.entry))) x.d.toNat c))
    Ready (.lnch x) s → release s 3 = .done u →
    (va % 64 ≠ 0 → exec (.lnch x) s = .next (traps (.lnch x) s u 0x10 (BitVec.ofNat 64 va) u.exec)) ∧
    (va % 64 = 0 → Mapped u (blockAccess va 64) → (∀ e ∈ l, e.2.2 = false) →
      readAll (attributed u (blockAccess va 64)) (blockAccess va 64).elems 8 true = (v, l) → mpReaches v v.tm.core = true →
      (¬ legal → status 2 v) ∧ (legal → checkEntry v r = .bad → status 2 v) ∧
      (legal → checkEntry v r = .ok → takesLaunches v = false ∨ (queueAt v q).asid ≠ some r.asid ∨ r.asid ≠ v.asid → status 3 v) ∧
      (legal → checkEntry v r = .ok → takesLaunches v = true → (queueAt v q).asid = some r.asid → r.asid = v.asid →
        128 ≤ (queueAt v q).entries.length → status 1 v) ∧
      (legal → checkEntry v r = .ok → takesLaunches v = true → (queueAt v q).asid = some r.asid → r.asid = v.asid →
        (queueAt v q).entries.length < 128 → status 0 (enqueue v q r)))

/-! ## Memory -/

/-- R150, R225, R226, R227, R228, R231, R232, R234, R235, R236, R116: loads whose elements may be performed write what was read at base plus
offset, at each lane's base plus its signed offset, scaled if SCL is set, at the block's elements, at the coordinates of a tensor, at the
scratchpad address; lanes outside the execution mask keep their value. A load that issues now and is performed later (R114, R118) is noted
with its elements: that the agenda says which load is, and which of its elements when, and that the level arrays of a tensor are read at
issue, is the model's choice (log 35, DESIGN CHOICE, unsafe). `ldacq` loads, then acquires once the group's earlier loads are performed,
keeping what it has read until then; `pfch` changes nothing but what caches hold; a load from the scratchpad changes nothing but its
destination. -/
def Obligations.Loads : Prop :=
  ∀ (s u : State) (x : Args) (bs : List Byte) (l : List (Elem × List Byte × Bool)) (h : TRec) (w : Walks) (q : Request),
    let n := x.ty.bits / 8
    let base := (pairOf s x.a).toNat
    let scalarAt := (base + ((scalar32 s x x.b).signExtend 64).toNat) % 2 ^ 64
    let laneAt := fun (k : Nat) =>
      wrapInt 64 (base + (BitVec.ofNat 32 (vec32 s x x.b k)).toInt * if x.fn.getLsbD 5 then n else 1)
    let localAt := fun (k : Nat) => (vec32 s x x.a k + (scalar32 s x x.b).toNat) % 2 ^ 32
    let coords := fun (k : Nat) => (List.range h.rank).map fun d => (getV s (fieldNum x.b + d) k).toInt
    let elemAt := fun (k : Nat) => (resolve h (coords k)).map (denseVa h)
    let access := fun (es : List Elem) (one : Bool) => ({ elems := es, size := n, write := false, scalar := one } : Access)
    let later := fun (t : State) (lcl one : Bool) (es : List (Nat × Nat)) =>
      let y : Late :=
        { id := t.sched.nextId, lcl := lcl, scalar := one, dest := x.d.toNat, ty := x.ty, super := t.sp.super
          keep := x.hint != 1, elems := es, data := [], ports := if lcl then [] else portsOf t es }
      { t with g := { t.g with late := t.g.late ++ [y] }, sched := { t.sched with nextId := t.sched.nextId + 1 } }
    let one := access [{ lane := 0, va := scalarAt }] true
    let writes := fun (t : State) (v : Nat) =>
      if x.ty.bits = 64 then resultPair t x.d.toNat (BitVec.ofNat 64 v) else resultS t x.d.toNat (BitVec.ofNat 32 (laneValue x.ty v))
    let lanes := fun (i : Instr) (es : List Elem) (val : Nat → Nat) =>
      Ready i s → Mapped s (access es false) →
        readAll (attributed s (access es false)) es n (x.hint != 1) = (u, l) → (∀ e ∈ l, e.2.2 = false) →
        exec i s = .next (passes i s (writeTy u x x.ty val))
    let walks := s.exec ≠ 0 ∧ handleAt s (fieldNum x.a) = some h ∧ fmtBits h.efmt.toNat = x.ty.bits ∧
      fieldNum x.b + h.rank ≤ s.g.nv ∧
      ∀ p ∈ s.g.poison, p.1 < 8192 → s.exec.getLsbD (p.1 % 32) = true →
        p.1 / 32 < fieldNum x.b ∨ fieldNum x.b + h.rank ≤ p.1 / 32
    let now := s.sp.defer = false ∨ x.sup = true
    let inside := (activeLanes s).filterMap fun k => (elemAt k).map fun va => ({ lane := k, va := va } : Elem)
    let spread := fun (i : Instr) (addr : Nat → Nat) =>
      let es := (activeLanes s).map fun k => ({ lane := k, va := addr k } : Elem)
      (now → lanes i es (loadedAt l)) ∧
      (¬ now → Ready i s → Mapped s (access es false) →
        exec i s = .next (passes i s (later (attributed s (access es false)) false false
          ((activeLanes s).map fun k => (k, addr k)))))
    let found : List DWord := [BitVec.ofNat 64 (ofBytes bs), 0, BitVec.ofNat 64 scalarAt]
    (Ready (.ld x) s → Mapped s one →
      (s.sp.defer = true →
        exec (.ld x) s = .next (passes (.ld x) s (later (attributed s one) false true [(0, scalarAt)]))) ∧
      (s.sp.defer = false → readElem (attributed s one) scalarAt n (x.hint != 1) = (u, bs, false) →
        exec (.ld x) s = .next (passes (.ld x) s (writes u (ofBytes bs))))) ∧
    (Ready (.ldacq x) s → s.sp.request = none → Mapped s one → readElem (attributed s one) scalarAt n true = (u, bs, false) →
      (u.g.late = [] → exec (.ldacq x) s = .next (passes (.ldacq x) s
        (writes (acquire u (x.fn.toNat / 4)) (BitVec.ofNat 64 (ofBytes bs)).toNat))) ∧
      (u.g.late ≠ [] → exec (.ldacq x) s = .next (park .fence { u with sp := { u.sp with
        request := some { pc := s.sp.pc, next := pcAfter (.ldacq x) s, op := 0x8F, dest := x.d.toNat, words := found } } }))) ∧
    (Ready (.ldacq x) s → s.sp.request = some q → q.op = 0x8F → q.pc = s.sp.pc → q.words = found →
      (s.g.late = [] → exec (.ldacq x) s = .next (passes (.ldacq x) s
        (writes { acquire s (x.fn.toNat / 4) with sp := { s.sp with request := none } } (BitVec.ofNat 64 (ofBytes bs)).toNat))) ∧
      (s.g.late ≠ [] → exec (.ldacq x) s = .next (park .fence s))) ∧
    spread (.vld x) laneAt ∧ spread (.vldc x) (fun k => (scalarAt + k * n) % 2 ^ 64) ∧
    (walks → h.dense = true → now →
      lanes (.tld x) inside (fun k => if (elemAt k).isSome then loadedAt l k else h.fill.toNat % 2 ^ fmtBits h.efmt.toNat)) ∧
    (walks → h.dense = true → ¬ now → Ready (.tld x) s → Mapped s (access inside false) →
      exec (.tld x) s = .next (passes (.tld x) s
        (writeTy (later (attributed s (access inside false)) false false (inside.map fun e => (e.lane, e.va))) x x.ty fun k =>
          if (elemAt k).isSome then getVs s x.d.toNat (Ty.regs x.ty) k else h.fill.toNat % 2 ^ fmtBits h.efmt.toNat))) ∧
    (walks → h.dense = false → Ready (.tld x) s → walkLanes x h h.rank (activeLanes s) s = .ok w →
      let val := fun (k : Nat) => ((w.vals.find? fun e => e.1 == k).map Prod.snd).getD 0
      (w.late = [] → (∀ e ∈ w.loads, e.2.2 = false) →
        exec (.tld x) s = .next (passes (.tld x) s (writeTy w.s x x.ty val))) ∧
      (w.late ≠ [] → exec (.tld x) s = .next (passes (.tld x) s (writeTy (later w.s false false w.late) x x.ty fun k =>
        if w.late.any fun e => e.1 == k then getVs w.s x.d.toNat (Ty.regs x.ty) k else val k)))) ∧
    (Ready (.lld x) s →
      (∀ k ∈ activeLanes s, localAt k % n = 0 ∧ lclInRange s s.tm.id (localAt k) n = true ∧
        lclRole s s.tm.id (localAt k) n = true ∧ lclPoisoned s s.tm.id (localAt k) n = false) →
      overlapped s (lclSpans s ((activeLanes s).map localAt) n false) = false →
      (∀ k ∈ activeLanes s, lateLocal s (localAt k) n = false) →
      (now → ∃ f : Nat → Nat, (∀ k ∈ activeLanes s, f k = ofBytes (lclRead s s.tm.id (localAt k) n)) ∧
        exec (.lld x) s = .next (passes (.lld x) s (writeTy s x x.ty f))) ∧
      (¬ now → exec (.lld x) s = .next (passes (.lld x) s (later s true false
        ((activeLanes s).map fun k => (k, localAt k)))))) ∧
    (Ready (.pfch x) s → ∃ t, exec (.pfch x) s = .next (passes (.pfch x) s t) ∧
      ((∀ a, Untangled s s.launch.id a (scalarAt % 2 ^ 57 / 65536)) →
        t = { s with mem := { s.mem with l1 := t.mem.l1, cc := t.mem.cc, hlines := t.mem.hlines, pac := t.mem.pac } }))

/-- R109, R110, R128: what one element of a load reads. A line that nothing holds is read at the home: the bytes that are
current there, and only caches and leases change; a line that the core's L1 holds whole under a lease that runs, or pinned,
gives its own bytes and changes nothing; one for which update-only lines are held elsewhere is recalled first; a peer's
window and the host's memory are read there, at the place that the grant or the range gives (R334, R336). -/
def Obligations.LoadReads : Prop :=
  ∀ (s : State) (va n : Nat) (keep : Bool) (p : Quad) (r w : Bool) (c : CLine),
    let line := va % 2 ^ 57 / 128
    let at_ := physOf p (vaOfLine line) + va % 128
    let t := (readElem s va n keep).1
    let got := (readElem s va n keep).2.1
    (placement va = 5 → t = s ∧ got = peekAll s.fab.peer (peerCell s (myPort s va) s.asid va) n) ∧
    (placement va = 6 → t = s ∧ got = peekAll s.fab.host (hostCell s s.asid va) n) ∧
    (isFarVa va = false → pageAttr s s.agent va = some (p, r, w) → va % 128 + n ≤ 128 →
      (NotHeld s (pteAsid p) line → (∀ a, Untangled s s.launch.id a (va % 2 ^ 57 / 65536)) →
        got = peekAll s.mem.phys at_ n ∧
          t = { s with mem := { s.mem with l1 := t.mem.l1, cc := t.mem.cc, hlines := t.mem.hlines } } ∧
          ∀ h ∈ t.mem.l1, h ∈ s.mem.l1 ∨
            (h.unit = s.tm.core ∧ h.line = line ∧ h.asid = pteAsid p ∧ h.le ≤ s.gt + pteLease p ∧ s.gt < h.le)) ∧
      (cacheable p = true → (∀ u ∈ s.mem.ulines, u.asid = pteAsid p → u.line ≠ line) →
        heldLine s.mem.l1 s.tm.core (pteAsid p) line = some c →
        (∀ k, k < n → (heldByte c s.gt (va % 128 + k)).isSome = true) →
        t = s ∧ got = (List.range n).map fun k => (heldByte c s.gt (va % 128 + k)).getD 0) ∧
      (cacheable p = false → got = peekAll (recallLine s (pteAsid p) line).mem.phys at_ n))

/-- R92, R104, R116, R118, R225, R226, R228, R231, R232, R234, R236, R239, R240, R241: stores whose elements may be performed send, for each
lane of the execution mask, the low bytes of its value to its address; of lanes that name one address the highest writes; `strel` releases
first; `lst` writes the scratchpad; `tst` leaves out what lies out of bounds; `lst` may be performed later (R118; log 35); `red` combines
its lanes in rising order; `mcst` stores to the addresses of its table in order, and with a reduction to all of them. -/
def Obligations.Stores : Prop :=
  ∀ (s u v : State) (x : Args) (h : TRec) (l : List (Elem × List Byte × Bool)),
    let n := x.ty.bits / 8
    let at_ := fun (s : State) => ((pairOf s x.a).toNat + ((scalar32 s x x.b).signExtend 64).toNat) % 2 ^ 64
    let laneAt := fun (k : Nat) =>
      wrapInt 64 ((pairOf s x.a).toNat + (BitVec.ofNat 32 (vec32 s x x.b k)).toInt * if x.fn.getLsbD 5 then n else 1)
    let localAt := fun (k : Nat) => (vec32 s x x.a k + (scalar32 s x x.b).toNat) % 2 ^ 32
    let coords := fun (k : Nat) => (List.range h.rank).map fun d => (getV s (fieldNum x.b + d) k).toInt
    let put := fun (s : State) (f : Src) (k va : Nat) =>
      ({ lane := k, va := va, bytes := toBytes n (vecA s x f k), poison := lanePoison s x f k, keep := x.hint != 1 } : Put)
    let one := fun (s : State) (keep : Bool) =>
      [({ lane := 0, va := at_ s, bytes := toBytes n (scalarTy s x x.c), poison := scalarPoison s x x.c, keep := keep } : Put)]
    let all := fun (addr : Nat → Nat) => (activeLanes s).map fun k => put s x.c k (addr k)
    let highest := fun (ps : List Put) => ps.filter fun p => !(ps.any fun q => q.va == p.va && decide (p.lane < q.lane))
    let sends := fun (s : State) (ps : List Put) => (joinPuts ps).foldl putOne s
    let stores := fun (i : Instr) (s : State) (ps : List Put) (scalar : Bool) (t : State) =>
      Ready i t → MappedStore s ps n scalar → exec i t = .next (passes i t (sends s (highest ps)))
    let dests := l.map fun e => ofBytes e.2.1
    let block := fun (dest : Nat) => (activeLanes v).map fun k => { put v x.b k ((dest + k * n) % 2 ^ 64) with keep := true }
    let table : Access :=
      { elems := (List.range (fieldNum x.c)).map fun k => { lane := 0, va := ((pairOf s x.a).toNat + 8 * k) % 2 ^ 64 }
        size := 8, write := false, scalar := true }
    let reads := s.exec ≠ 0 ∧ (∃ m, x.c = .imm m) ∧ Mapped s table ∧
      readAll (attributed s table) table.elems 8 true = (v, l) ∧ ∀ e ∈ l, e.2.2 = false
    let rows : Access :=
      { elems := ((List.range dests.length).zip dests).flatMap fun e =>
          (block e.2).map fun p => { lane := e.1, va := p.va }
        size := n, write := true, scalar := false, first := true }
    stores (.st x) s (one s (x.hint != 1)) true s ∧
    stores (.vst x) s (all laneAt) false s ∧
    stores (.vstc x) s (all fun k => (at_ s + k * n) % 2 ^ 64) false s ∧
    (release s (x.fn.toNat / 4) = .done u → stores (.strel x) u (one u true) true s) ∧
    (s.exec ≠ 0 → handleAt s (fieldNum x.a) = some h → fmtBits h.efmt.toNat = x.ty.bits → h.dense = true →
      fieldNum x.b + h.rank ≤ s.g.nv → (∀ q ∈ s.g.poison, 8192 ≤ q.1) →
      stores (.tst x) s (((activeLanes s).filter fun k => inBounds h (coords k)).map fun k =>
        put s x.c k (denseVa h ((coords k).map Int.toNat))) false s) ∧
    (Ready (.lst x) s →
      (∀ k ∈ activeLanes s, localAt k % n = 0 ∧ lclInRange s s.tm.id (localAt k) n = true ∧
        lclRole s s.tm.id (localAt k) n = true) →
      overlapped s (lclSpans s ((activeLanes s).map localAt) n true) = false →
      (∀ k ∈ activeLanes s, lateLocal s (localAt k) n = false) →
      (s.sp.defer = false ∨ activeLanes s = [] →
        exec (.lst x) s = .next (passes (.lst x) s ((activeLanes s).foldl (fun t k =>
          lclWrite t t.tm.id (localAt k) (toBytes n (vecA s x x.c k)) (lanePoison s x x.c k)) s))) ∧
      (s.sp.defer = true → activeLanes s ≠ [] → exec (.lst x) s = .next (passes (.lst x) s { s with
        sched := { s.sched with nextId := s.sched.nextId + 1 }
        g := { s.g with late := s.g.late ++
          [{ id := s.sched.nextId, lcl := true, scalar := false, dest := x.d.toNat, ty := x.ty, super := s.sp.super, keep := x.hint != 1
             elems := (activeLanes s).map fun k => (k, localAt k)
             data := (activeLanes s).map fun k => (toBytes n (vecA s x x.c k), lanePoison s x x.c k)
             ports := [] }] } }))) ∧
    (Ready (.red x) s → MappedStore s (all laneAt) n false →
      exec (.red x) s = .next (passes (.red x) s ((all laneAt).foldl (reduceOne (x.fn.setWidth 3) x.ty) s))) ∧
    (Ready (.mcst x) s → reads → MappedStore v (dests.flatMap block) n false →
      exec (.mcst x) s = .next (passes (.mcst x) s (sends v (keepLast (dests.flatMap block))))) ∧
    (Ready (.mcstReduce x) s → reads → Mapped v rows →
      exec (.mcstReduce x) s = .next (passes (.mcstReduce x) s
        ((dests.flatMap block).foldl (reduceOne ((x.fn - 1).setWidth 3) x.ty) (attributed v rows))))

/-- R4, R108, R111, R112, R122, R378, R386: what becomes of a store. A plain store of an element leaves the core for its home, and nothing
else changes but what L1 and the cluster cache hold; at the home it gets the completion time of R111, and its bytes, which are those from
the address's place on, are current at once if that time has come, else pending; every other byte reads as before, and so do the bytes of
error records, which are read-only; the group's CH takes the time in. A denied store is dropped and its group faults later. A first
reduction into a line changes no byte: the line is held for updates, while L1 has room beside what is pinned. That a reduction into the line
of a ring's header merges at once is log 178, what L1 gives up where all its lines are pinned log 157. -/
def Obligations.StoreEffects : Prop :=
  ∀ (s : State) (e : Put) (f : Flight) (p : Quad) (r w : Bool) (op : BitVec 3) (ty : Ty),
    let line := e.va % 2 ^ 57 / 128
    let mem := fun (t : State) => { s with mem := t.mem }
    let t := putOne s e
    let q := reduceOne op ty s e
    let h := homeLine s.mem (pteAsid p) (lineOf f.va)
    let time := max s.gt (max (match h.mle with | some m => m + 1 | none => 0) (match h.wlast with | some m => m + 1 | none => 0))
    let bytes := writableBytes s (pteAsid p) (lineOf f.va)
      ((List.range f.bytes.length).zip f.bytes |>.map fun b => (physOf p f.va + b.1, b.2))
    (isFar e.va = false → pageAttr s s.agent e.va = some (p, r, w) →
      (∀ y ∈ s.mem.ulines, y.asid = pteAsid p → y.line = line → s.g.id ∉ y.gids) →
      t = mem t ∧ t.mem = { s.mem with
        flight := s.mem.flight ++ [{ id := s.mem.nextFlight, gid := s.g.id, core := s.tm.core, asid := pteAsid p, va := e.va
                                     bytes := e.bytes, red := none, poison := e.poison, port := 0 }]
        nextFlight := s.mem.nextFlight + 1, pac := t.mem.pac, l1 := t.mem.l1, cc := t.mem.cc } ∧
      (cacheable p = true →
        (∀ k, k < e.bytes.length → recordByte s (pteAsid p) (vaOfLine line + (e.va % 128 + k) % 128) = false) → ∀ c, heldLine t.mem.l1 s.tm.core (pteAsid p) line = some c →
        ∀ k b, e.bytes[k]? = some b → heldByte c s.gt (e.va % 128 + k) = some b)) ∧
    (isFar e.va = false → pageAttr s s.agent e.va = some (p, r, w) → cacheable p = true →
      (∀ y ∈ s.mem.ulines, y.asid = pteAsid p → y.line ≠ line) →
      (∀ y ∈ s.mem.flight, y.asid = pteAsid p → lineOf y.va ≠ line) → headLine s (pteAsid p) line = false →
      ((∃ y ∈ s.mem.l1, y.unit = s.tm.core ∧ anyPinned y s.gt = false ∧ ¬ (y.asid = pteAsid p ∧ y.line = line)) ∨
        (s.mem.l1.filter fun y => y.unit == s.tm.core).length + (s.mem.ulines.filter fun y => y.core == s.tm.core).length < 2048) →
      q = mem q ∧ q.mem = { s.mem with
        ulines := s.mem.ulines ++ [{ core := s.tm.core, asid := pteAsid p, line := line, op := op, ty := ty
                                     elems := [(e.va % 128, BitVec.ofNat 128 (ofBytes e.bytes % 2 ^ ty.bits))]
                                     gids := [s.g.id], flags := 0 }]
        pac := q.mem.pac, l1 := q.mem.l1 }) ∧
    (Memory.wf s = true → s.mem.flight.find? (fun y => y.id == f.id) = some f → mayArrive s f = true → isFar f.va = false →
      translate s.mem f.asid f.va = some p →
      let l := launchOfGroup s (findGroup s f.gid)
      (physPermits s mkContext l.rcd.asid (physOf p f.va) true = true → l.id = 0 ∨ (l.rcd.report = true ∧ pteAsid p ≠ 0) →
        (∀ a, Untangled s l.id a (f.va % 2 ^ 57 / 65536)) →
        ∃ t, exec (.storeAtHome f.id) s = .next t ∧
          t.mem.flight = s.mem.flight.filter (fun y => y.id != f.id) ∧
          (homeLine t.mem (pteAsid p) (lineOf f.va)).wlast = some time ∧
          (time ≤ s.gt → t.mem.pend = s.mem.pend ∧
            ∀ a, peek t.mem.phys a =
              match bytes.find? fun b => b.1 == a with | some b => b.2 | none => peek s.mem.phys a) ∧
          (s.gt < time → t.mem.phys = s.mem.phys ∧
            t.mem.pend = s.mem.pend ++ [{ asid := pteAsid p, line := lineOf f.va, w := time, bytes := bytes }]) ∧
          (f.gid = s.g.id → t.g = { s.g with ch := max s.g.ch time })) ∧
      (physPermits s mkContext l.rcd.asid (physOf p f.va) true = false →
        ∃ t, exec (.storeAtHome f.id) s = .next t ∧ t.mem.flight = s.mem.flight.filter (fun y => y.id != f.id) ∧
          t.mem.phys = s.mem.phys ∧ t.mem.pend = s.mem.pend ∧
          (f.gid = s.g.id → t.g = { s.g with deferred := { s.g.deferred with c13 := s.g.deferred.c13 ++ [f.va] } })))

/-- R113, R124, R129, R228, R239: `atx` and `atf` send their lanes once and wait; when the clock has reached the
largest completion time and every reply has come, the values read go to the lanes of the execution mask, and the request is
over. At its home a lane reads the latest value, and writes what its operation makes of it; it has a W of its own, also where
it writes nothing. -/
def Obligations.Atomics : Prop :=
  ∀ (s : State) (x : Args) (q : Request) (a : AtomOp) (va d c : Nat) (p : Quad) (r w : Bool),
    let n := x.ty.bits / 8
    let cas : AtomOp := { cas := true, xchg := false, op := 0, ty := x.ty }
    let xchg : AtomOp := { cas := false, xchg := true, op := 0, ty := x.ty }
    let fetch : AtomOp := { cas := false, xchg := false, op := x.fn.setWidth 3, ty := x.ty }
    let laneAt := fun (k : Nat) =>
      wrapInt 64 ((pairOf s x.a).toNat + (BitVec.ofNat 32 (vec32 s x x.b k)).toInt * if x.fn.getLsbD 5 then n else 1)
    let acc : Access :=
      { elems := (activeLanes s).map fun k => { lane := k, va := laneAt k }, size := n, write := true, scalar := false }
    let lanes := (activeLanes s).map fun k =>
      ({ lane := k, va := laneAt k, d := getVs s x.d.toNat (Ty.regs x.ty) k % 2 ^ x.ty.bits, c := vecA s x x.c k
         port := myPort s (laneAt k), got := none } : AtomLane)
    let back := unpackLanes (q.words.drop 2)
    let does := fun (i : Instr) (a : AtomOp) (op : Nat) =>
      (Ready i s → s.exec = 0 → s.sp.request = none → exec i s = .next (passes i s s)) ∧
      (Ready i s → s.exec ≠ 0 → s.sp.request = none → Mapped s acc →
        let o := atomLanes a lanes (attributed s acc) s.gt
        exec i s = .next (park .reply { o.1 with sp := { o.1.sp with
          request := some { pc := s.sp.pc, next := pcAfter i s, op := op, dest := x.d.toNat
                            words := BitVec.ofNat 64 o.2.1 :: a.word :: o.2.2.flatMap AtomLane.pack } } })) ∧
      (Ready i s → s.sp.request = some q → q.op = op → q.pc = s.sp.pc → (q.words.headD 0).toNat ≤ s.gt →
        (∀ y ∈ back, y.got.isSome = true) →
        exec i s = .next (passes i s (writeTy { s with sp := { s.sp with request := none } } x x.ty fun k =>
          ((back.find? fun y => y.lane == k).bind fun y => y.got).getD 0)))
    let o := atomOne s a va d c
    let line := lineOf va
    let old := ofBytes (latestBytes s.mem (physOf p va) (a.ty.bits / 8))
    does (.atxCas x) cas 0x8A ∧ does (.atxXchg x) xchg 0x8A ∧ does (.atf x) fetch 0x8C ∧
    (Memory.wf s = true → pageAttr s s.agent va = some (p, r, w) →
      (∀ y ∈ s.mem.ulines, y.asid = pteAsid p → y.line ≠ line) →
      (∀ y ∈ s.mem.flight, y.asid = pteAsid p → lineOf y.va ≠ line) →
      let h := homeLine s.mem (pteAsid p) line
      o.2.1 = old ∧
      o.2.2 = max s.gt (max (match h.mle with | some m => m + 1 | none => 0) (match h.wlast with | some m => m + 1 | none => 0)) ∧
      (a.cas = true → old ≠ d → (∀ y, Untangled s s.launch.id y (va % 2 ^ 57 / 65536)) → o.1 = { s with
        mem := setHomeLine s.mem { h with wlast := some o.2.2 }, g := { s.g with ch := max s.g.ch o.2.2 } }) ∧
      (∀ v, a.value old d c = some v →
        (∀ k, k < a.ty.bits / 8 → recordByte s (pteAsid p) (vaOfLine line + (physOf p va + k) % 128) = false) → s.launch.id = 0 ∨ (s.launch.rcd.report = true ∧ pteAsid p ≠ 0) →
        (∀ y, Untangled s s.launch.id y (va % 2 ^ 57 / 65536)) →
        (∀ y ∈ s.mem.pend, ∀ b ∈ y.bytes, b.1 < physOf p va ∨ physOf p va + a.ty.bits / 8 ≤ b.1) →
        latestBytes o.1.mem (physOf p va) (a.ty.bits / 8) = toBytes (a.ty.bits / 8) v ∧
          o.1.g = { s.g with ch := max s.g.ch o.2.2 } ∧
          (∀ k, (k < physOf p va ∨ physOf p va + a.ty.bits / 8 ≤ k) → latestByte o.1.mem k = latestByte s.mem k)))

/-! ## Fences, barriers and FIFO banks -/

/-- R92, R112, R115, R130, R132, R242, R397: a fence performs its release, or its acquire, or both, and nothing else. A release waits for
the group's side-log entries and for its loads; then it raises a deferred fault, whose TLANES is the execution mask (log 20, DEDUCED,
unsafe); above .grp it waits for the group's drains (R280); at .grp and .team, and at .gang beside a cluster cache, it is then complete,
since L1 and the cluster cache take stores as they issue (log 63, DESIGN CHOICE) and stores that neither takes are not waited for there (log
140, e); else it merges the group's contributions, raises what the merge has deferred, and is complete once no store of the group is on its
way, no retrieval command is outstanding and the clock has reached CH; at .sys, moreover, every path the group has posted to has
acknowledged, and a failed write raises 0x19. An acquire waits for the group's loads; at .gang it then drops the clean lines of the core's
L1. -/
def Obligations.Fences : Prop :=
  ∀ (s u : State) (x : Args) (c : BitVec 8) (l : List Nat) (gid n scope : Nat),
    let code := x.fn.toNat / 4
    let acquired := fun (t : State) =>
      if code = 2 then
        { t with mem := { t.mem with l1 := t.mem.l1.filter fun c => !(c.unit == t.tm.core && !anyPinned c t.gt) } }
      else t
    let merged := mergeGroup s s.g.id
    let clean := s.g.deferred.c11 = [] ∧ s.g.deferred.c18 = [] ∧ s.g.deferred.c12 = [] ∧ s.g.deferred.c13 = []
    let local_ := scope ≤ 1 ∨ (scope = 2 ∧ hasCache s (clusterOf s.tm.core) = true)
    let quiet := scope = 0 ∨ drainsOut s s.g.id = false
    let whole := fun (p : Path) => p.acked = true ∧ p.sent = p.posted
    let met := storesOut merged s.g.id = false ∧ retrievalOut merged s.g.id = false ∧ merged.g.ch ≤ merged.gt ∧
      merged.g.id = s.g.id ∧ s.g.id ≠ 0 ∧ firstDeferred merged.g.deferred = none
    let used := merged.g.paths.filter fun p => decide (0 < p.posted)
    let reset := { merged with g := { merged.g with
      paths := merged.g.paths.map fun p =>
        if p.acked then
          { p with posted := p.posted - p.sent, passed := p.passed - p.sent, sent := 0, token := false, acked := false, failed := [] }
        else p } }
    let past := (findGroup s gid).ch ≤ s.gt ∧ storesOut s gid = false ∧ retrievalOut s gid = false ∧ drainsOut s gid = false ∧
      (findGroup s gid).late = [] ∧ ∀ p ∈ (findGroup s gid).paths, p.token = true → p.acked = true
    (Ready (.fenceRel x) s → release s code = .done u → exec (.fenceRel x) s = .next (passes (.fenceRel x) s u)) ∧
    (Ready (.fenceAcq x) s → s.g.late = [] → exec (.fenceAcq x) s = .next (passes (.fenceAcq x) s (acquired s))) ∧
    (Ready (.fenceAcq x) s → s.g.late ≠ [] → exec (.fenceAcq x) s = .next (park .fence s)) ∧
    (Ready (.fenceAr x) s → release s code = .done u →
      exec (.fenceAr x) s = .next (passes (.fenceAr x) s (acquired u))) ∧
    (sideOut s s.g.id = true → release s scope = .wait .sideLog s) ∧
    (sideOut s s.g.id = false → s.g.late ≠ [] → release s scope = .wait .fence s) ∧
    (sideOut s s.g.id = false → s.g.late = [] →
      (firstDeferred s.g.deferred = some (c, l) → ∃ t, release s scope = .fail { cause := c, addr := BitVec.ofNat 64 (lowest l)
                                                                                 lanes := s.exec } t ∧
        t.g = { s.g with deferred := dropDeferred s.g.deferred c }) ∧
      (clean → ¬ quiet → release s scope = .wait .fence s) ∧
      (clean → quiet → local_ → release s scope = .done s) ∧
      (clean → quiet → ¬ local_ → scope ≤ 3 → met → release s scope = .done merged) ∧
      (clean → quiet → ¬ local_ → firstDeferred merged.g.deferred = some (c, l) →
        ∃ t, release s scope = .fail { cause := c, addr := BitVec.ofNat 64 (lowest l), lanes := merged.exec } t ∧
          t.g = { merged.g with deferred := dropDeferred merged.g.deferred c }) ∧
      (clean → quiet → ¬ local_ → firstDeferred merged.g.deferred = none → ¬ (storesOut merged merged.g.id = false ∧ retrievalOut merged merged.g.id = false ∧
        merged.g.ch ≤ merged.gt) → release s scope = .wait .fence merged) ∧
      (clean → quiet → scope = 4 → met → (∀ p ∈ used, whole p) →
        ((∀ p ∈ used, p.failed = []) → release s 4 = .done reset) ∧
        (∀ a, used.flatMap (fun p => p.failed) = a → a ≠ [] →
          ∃ t, release s 4 = .fail { cause := 0x19, addr := BitVec.ofNat 64 (lowest a), lanes := merged.exec } t)) ∧
      (clean → quiet → scope = 4 → met → (∃ p ∈ used, ¬ whole p) → ∃ t, release s 4 = .wait .fence t)) ∧
    (past → (∃ p, findSplit s gid n = p ∧ (p.wait = some .fence ∨ p.wait = some .l2Store)) →
      exec (.releaseWaitEnd gid n) s = .next (updSplit s gid n fun p =>
        if p.wait = some .fence ∨ p.wait = some .l2Store then { p with wait := none } else p)) ∧
    (¬ past → exec (.releaseWaitEnd gid n) s = .next (updSplit s gid n fun p => p))

/-- R119, R254 to R259, R399 to R401, R425, R426: an arrival of units that have not arrived in the present phase, after its
release, counts them; below EXPECT an arrival goes on and a `sync` waits; at EXPECT the phase completes: its waiters are
released, and the arriver goes on, a `sync` with its acquire and status 0. `bar.init` sets the barrier up, or raises 0x20 or 0x02
and leaves it; `bar.inval` leaves it uninitialised, and its team's waits for a phase that has not completed learn of it. A
wait whose phase has completed returns, outside a latch chain of its group; one that was invalidated returns 1 or raises 0x22. A watchdog
that fires writes its records and raises 0x21 in every waiter, once the group's chains and atomics are over; no waiter's handler issues before
the last of the TRAP records is performed (R426). What `bar.inval` does to
arrivals that are counted or in progress is log 59 (with 76), that `bar.init` keeps the count of phases log 60 (DEDUCED); which phase lanes
counted in several wait for is log 160. TCAUSE.CHAIN at the instruction that opens a chain is log 70 (DEDUCED). -/
def Obligations.TeamBarriers : Prop :=
  ∀ (s u t : State) (x : Args) (b : Barrier) (a : Arrival) (gid n tid : Nat),
    let k := (scalar32 s x x.a).toNat
    let count := (scalar32 s x x.b).toNat
    let named := k < 16 ∧ k < s.tm.nbars
    let units := if b.lanes then (activeLanes u).map fun l => (u.g.id, l) else [(u.g.id, 32)]
    let arrives := fun (i : Instr) (m : Nat) (sync : Bool) (dest : Option Nat) =>
      let scope := if m = 16 then 2 else 1
      let exits := if b.exitc then
        ((goneUnits u u.tm.id m b.lanes).filter fun y => !(b.cur ++ units).contains y).length else 0
      let total := (b.cur ++ units).length + b.engine + exits
      let early := { b with cur := b.cur ++ units, last := u.gt }
      let full := { b with
        cur := [], nxt := [], engine := 0, phase := b.phase + 1, last := u.gt
        waiters := b.waiters.filter fun w => w.2.2 != b.phase }
      let put := fun (b : Barrier) => setBar u u.tm.id m b
      let back := fun (v : State) =>
        let w := { v with sp := { v.sp with arrival := none } }
        let w := if sync ∧ scope = 2 then acquire w 2 else w
        match dest with | some d => resultS w d 0 | none => w
      Ready i s → s.exec ≠ 0 → s.sp.arrival = none → release s scope = .done u → getBar s s.tm.id m = b →
        getBar u u.tm.id m = b → u.tm.id ≠ 0 → u.g.late = [] → b.init = true → (∀ y ∈ units, y ∉ b.cur) → u.exec ≠ 0 →
        (total < b.expect → sync = false → exec i s = .next (passes i s (back (put early)))) ∧
        (total < b.expect → sync = true → ∃ v, exec i s = .next (park .barrier v) ∧
          getBar v v.tm.id m = { early with waiters := addOnce (u.g.id, u.sp.num, b.phase) b.waiters } ∧
          v.sp.pc = u.sp.pc ∧ ∃ y, v.sp.arrival = some y ∧ y.bar = m ∧ y.phase = b.phase ∧ y.todo = []) ∧
        (b.expect ≤ total → b.nxt = [] → exec i s = .next (passes i s (back (put full))))
    let lost := fun (m phase : Nat) (o : Option Arrival) => o.map fun y =>
      if y.bar = m ∧ (phase ≤ y.phase ∨ y.todo ≠ []) then { y with inval := true } else y
    let told := fun (g : Group) =>
      if g.team = s.tm.id ∧ g.id ≠ 0 then { g with
        others := g.others.map fun p => { p with arrival := lost k b.phase p.arrival }
        shadow := g.shadow.map fun h => { h with arrival := lost k b.phase h.arrival } }
      else g
    let quits := fun (v : State) (a : Arrival) =>
      let b := getBar v v.tm.id a.bar
      { setBar v v.tm.id a.bar { b with waiters := b.waiters.filter fun w => !(w.1 == v.g.id && w.2.1 == v.sp.num) } with
        sp := { v.sp with arrival := none } }
    let fires := let ga := findGang s (findTeam s tid).gang
      (getBar s tid n).idle s ≠ [] ∧ ga.st = .running ∧ s.gt % 1024 = 0 ∧ tickOver s = true ∧
      max (getBar s tid n).last (lowest (((getBar s tid n).idle s).map (waitBegan s))) +
        watchPeriod (findLaunch s ga.launch) ≤ s.gt
    (named → arrives (.barArrive x) k false none ∧ arrives (.barSync x) k true none ∧
      arrives (.barSyncSt x) k true (some x.d.toNat)) ∧
    arrives (.gbar x) 16 true none ∧ arrives (.gbarSt x) 16 true (some x.d.toNat) ∧
    (Ready (.barInit x) s → s.exec ≠ 0 → getBar s s.tm.id k = b →
      (named → k ≠ 0 → 1 ≤ count → count ≤ 65535 → b.waiters = [] →
        (∀ c ∈ s.eng.cmds, c.tid = s.tm.id → c.flags.bar ≠ some k) →
        exec (.barInit x) s = .next (passes (.barInit x) s (setBar s s.tm.id k
          { init := true, lanes := x.fn.getLsbD 0, exitc := x.fn.getLsbD 1, expect := count, cur := [], nxt := []
            engine := 0, waiters := [], phase := b.phase, last := s.gt }))) ∧
      (named → k ≠ 0 → 1 ≤ count → count ≤ 65535 → b.waiters ≠ [] →
        exec (.barInit x) s = .next (traps (.barInit x) s s 0x20 (BitVec.ofNat 64 k) s.exec)) ∧
      (¬ named ∨ k = 0 ∨ count = 0 ∨ 65535 < count →
        exec (.barInit x) s = .next (traps (.barInit x) s s 0x02 (firstUnit (Instr.barInit x).shape) s.exec))) ∧
    (Ready (.barInval x) s → s.exec ≠ 0 → named → k ≠ 0 → getBar s s.tm.id k = b →
      exec (.barInval x) s = .next (passes (.barInval x) s (setBar
        { s with
          g := told s.g
          groups := s.groups.map told
          sp := if s.g.team = s.tm.id then { s.sp with arrival := lost k b.phase s.sp.arrival } else s.sp }
        s.tm.id k { init := false, lanes := false, exitc := false, expect := 0, cur := [], nxt := [], engine := 0, waiters := []
                    phase := b.phase, last := Barrier.none.last }))) ∧
    (t = focus s { gid := gid, sp := n } → mayIssue t = true → t.sp.arrival = some a → a.sync = true → a.pc = t.sp.pc →
      a.todo = [] → a.inval = false → t.g.late = [] → t.sp.event = none → chainOpen t gid = false →
      (a.phase < (getBar t t.tm.id a.bar).phase →
        let w := quits t a
        let w := if a.bar = 16 then acquire w 2 else w
        let w := match a.dest with | some d => resultS w d 0 | none => w
        exec (.barWaitRelease gid n) s = .next { w with sp := { w.sp with pc := a.next, wait := none, since := w.gt } }) ∧
      ((getBar t t.tm.id a.bar).phase ≤ a.phase → exec (.barWaitRelease gid n) s = .next s)) ∧
    (Ready (.barSyncSt x) s → s.exec ≠ 0 → s.sp.arrival = some a → a.pc = s.sp.pc → a.inval = true →
      a.dest = some x.d.toNat →
      exec (.barSyncSt x) s = .next (passes (.barSyncSt x) s
        (resultS (quits s a) x.d.toNat 1))) ∧
    (Ready (.barSync x) s → s.exec ≠ 0 → s.sp.arrival = some a → a.pc = s.sp.pc → a.inval = true → a.dest = none →
      exec (.barSync x) s = .next (traps (.barSync x) s (quits s a) 0x22 (BitVec.ofNat 64 a.bar) s.exec)) ∧
    (¬ fires → exec (.barrierTimeout tid n) s = .next s) ∧
    (fires →
      let b := getBar s tid n
      let ws := sortBy (fun (w : Nat × Nat × Nat) => 4 * w.1 + w.2.1) (b.idle s)
      let v := (barTeams s tid n).foldl (fun s y => timeoutRecord s b n y) s
      let v := setBar v tid n { b with waiters := b.waiters.filter fun w => !ws.contains w }
      exec (.barrierTimeout tid n) s = .next (levelTraps (ws.foldl (fun s w =>
        let y := focus s { gid := w.1, sp := w.2.1 }
        if y.g.inHandler || y.g.halted || !y.sp.live then s
        else if chainOpen y w.1 then { y with sp := { y.sp with event := some (0x21, n) } }
        else takeTrap y { cause := 0x21, addr := BitVec.ofNat 64 n, lanes := y.exec } y.sp.chain.isSome y.sp.pc) v) (findTeam s tid).gang))

/-- R94, R96, R245, R246, R399: a push, after its release, appends one entry of 32 words at the end of its bank, zero in
the lanes outside the execution mask; a pop, once the group's loads are performed, removes the oldest entry, writes its words and acquires,
and marks the lanes of poisoned sectors (R405); on a full or an empty bank a blocking form waits and a `.try` form writes 1 and does nothing;
a bank that is not in FIFO role raises 0x16; a wait for the watchdog period raises 0x21, at once or when the group's latch chains are
over. That a `.try` form under an empty execution mask writes no status, on which R245 and R246 are silent, is log 193 (DESIGN CHOICE,
unsafe). TCAUSE.CHAIN at the instruction that opens a chain is log 70 (DEDUCED). -/
def Obligations.FifoBanks : Prop :=
  ∀ (s u t : State) (x : Args) (b : Bank) (e : List Word) (rest : List (List Word)) (gid n : Nat),
    let k := (scalar32 s x x.a).toNat
    let cl := clusterOf s.tm.core
    let entry := (List.range 32).map fun l => if u.exec.getLsbD l then BitVec.ofNat 32 (vec32 u x x.b l) else 0
    let setsBank := fun (t : State) (f : Bank → Bank) => { t with
      eng := { t.eng with banks := t.eng.banks.map fun y => if y.cluster = cl ∧ y.bank = k then f y else y } }
    let pushed := setsBank u fun y => { y with fifo := y.fifo ++ [entry], last := u.gt }
    let popped :=
      let v := acquire (setsBank s fun y =>
        { y with fifo := rest, sick := (y.sick.filter fun k => decide (4 ≤ k)).map fun k => k - 4, last := s.gt }) 2
      writeVec v x 32 fun l => (e.getD l 0).toNat
    let status := fun (t : State) (f : Nat) (v : Word) => setS t f v
    let bank := s.eng.banks.find? fun y => y.cluster == cl && y.bank == k
    let moves := bank = some b ∧ b.role = .fifo ∧ s.exec ≠ 0
    (∀ i ∈ [Instr.fpush x, .fpushTry x, .fpop x, .fpopTry x], Ready i s → s.exec = 0 → exec i s = .next (passes i s s)) ∧
    (∀ i ∈ [Instr.fpush x, .fpushTry x, .fpop x, .fpopTry x], Ready i s → s.exec ≠ 0 →
      (∀ y, bank = some y → y.role ≠ .fifo) →
      exec i s = .next (traps i s s 0x16 (BitVec.ofNat 64 k) s.exec)) ∧
    (moves → b.fifo.length < 2048 → release s 2 = .done u →
      (Ready (.fpush x) s → exec (.fpush x) s = .next (passes (.fpush x) s pushed)) ∧
      (Ready (.fpushTry x) s → exec (.fpushTry x) s = .next (passes (.fpushTry x) s (resultS pushed x.d.toNat 0)))) ∧
    (moves → 2048 ≤ b.fifo.length →
      (Ready (.fpush x) s → exec (.fpush x) s = .next (park (.fifo k) s)) ∧
      (Ready (.fpushTry x) s → exec (.fpushTry x) s = .next (passes (.fpushTry x) s (resultS s x.d.toNat 1)))) ∧
    (moves → b.fifo = e :: rest → s.g.late ≠ [] →
      (Ready (.fpop x) s → exec (.fpop x) s = .next (park .fence s)) ∧
      (Ready (.fpopTry x) s → exec (.fpopTry x) s = .next (park .fence s))) ∧
    (moves → b.fifo = e :: rest → s.g.late = [] → x.sup = false → Ready (.fpop x) s →
      ∃ t, exec (.fpop x) s = .next t ∧
        ∀ l ∈ activeLanes s, l / 8 ∈ b.sick → ∃ a, (32 * x.d.toNat + l, a) ∈ t.g.poison) ∧
    (moves → b.fifo = e :: rest → s.g.late = [] → (∀ k ∈ b.sick, 4 ≤ k) →
      (Ready (.fpop x) s → exec (.fpop x) s = .next (passes (.fpop x) s popped)) ∧
      (Ready (.fpopTry x) s → exec (.fpopTry x) s = .next (passes (.fpopTry x) s (status popped (fieldNum x.c) 0)))) ∧
    (moves → b.fifo = [] →
      (Ready (.fpop x) s → exec (.fpop x) s = .next (park (.fifo k) s)) ∧
      (Ready (.fpopTry x) s → exec (.fpopTry x) s = .next (passes (.fpopTry x) s (resultS s (fieldNum x.c) 1)))) ∧
    (∀ (v : State) (w : Who),
      let y := focus v w
      let stays := y.g.inHandler = true ∨ y.g.halted = true ∨ y.sp.live = false
      (stays → trapWaiter 0x21 n v w = v) ∧
      (¬ stays → chainOpen y w.gid = true → trapWaiter 0x21 n v w = { y with sp := { y.sp with event := some (0x21, n) } }) ∧
      (¬ stays → chainOpen y w.gid = false → trapWaiter 0x21 n v w =
        takeTrap y { cause := 0x21, addr := BitVec.ofNat 64 n, lanes := y.exec } y.sp.chain.isSome y.sp.pc)) ∧
    (t = focus s { gid := gid, sp := n } → t.sp.wait = some (.fifo k) → t.gang.st = .running → t.g.inHandler = false →
      t.g.halted = false → t.sp.live = true → t.sp.event = none → tickOver t = true →
      findBank t (clusterOf t.tm.core) k = some b → t.gt % 1024 = 0 →
      max b.last t.sp.since + watchPeriod t.launch ≤ t.gt →
      ∃ r, r.kind = 0x0A ∧ r.pc = t.sp.pc ∧ r.addr = BitVec.ofNat 64 (0x100 + k) ∧ r.lanes = t.exec ∧
        exec (.fifoTimeout gid n) s = .next (trapWaiter 0x21 (0x100 + k) (writeRecord t r) { gid := gid, sp := n }))

/-! ## Where the other instructions complete -/

/-- R44, R77, R211: with no exception enabled, every approximate function completes on every operand, with the result and the
flags of each lane; and a split that comes to its top record's JPC with lanes deferred goes on with them, the record keeping the
lanes that have arrived. -/
def Obligations.ApproximationsAndDeferredLanesComplete : Prop :=
  ∀ (s : State) (x : Args) (r : Rec), s.wf = true →
    let gives := fun (i : Instr) (f : Nat → Nat × Flags) =>
      Ready i s → s.g.ftrap = 0 → ∃ t, exec i s = .next t ∧
        WroteVector i s t x 1 (fun l => (f (vecA s x x.a l)).1 % 2 ^ 32) (allFlags s fun l => (f (vecA s x x.a l)).2)
    gives (.frcp x) approxRcp ∧ gives (.frsq x) approxRsq ∧ gives (.fexp2 x) approxExp2 ∧ gives (.flog2 x) approxLog2 ∧
    gives (.fsin x) approxSin ∧ gives (.fcos x) approxCos ∧ gives (.ftanh x) approxTanh ∧
    (topRec s = some r → s.sp.pc = r.jpc → r.pend ≠ 0 →
      ∃ t, exec .reconverge s = .next t ∧
        t = { s with
          g := { s.g with recs := t.g.recs }
          sp := { s.sp with mask := r.pend, pc := r.ppc, fmt := r.fmt, rnd := r.rnd, wait := none } } ∧
        (∀ y ∈ s.g.recs, y.id ≠ r.id → y ∈ t.g.recs) ∧
        ∃ y ∈ t.g.recs, y.id = r.id ∧ y.pend = 0 ∧ y.arr = (r.arr ||| s.sp.mask) ∧ y.exp = r.exp ∧ y.jpc = r.jpc)

/-- R102, R103, R243, R244, R284, R306 to R309: `hld` and `hld.pool` put the record of 128 bytes that they read into the
handle, `hst` stores the words of a handle, `hset` sets the field its code names; `tstate` writes the tile-table byte or the flag
word; `scrb` writes the two sums over the words of its range, from memory or scratchpad, `scrchk` writes 0 if they are the two
words stored, else 1, `scrfold` writes the sum or the difference of two scribes, and `scrrd` the scribe-fault register, which
it clears. -/
def Obligations.RecordsAndScribesComplete : Prop :=
  ∀ (s v w : State) (x : Args) (h : TRec) (l m : List (Elem × List Byte × Bool)), s.wf = true →
    let words := (blockValues l).flatMap wordsOf
    let holds := fun (u : State) (n : Nat) (h : TRec) =>
      { u with tm := { u.tm with handles := updateAt u.tm.handles n fun _ => some h } }
    let at_ := (pairOf s x.a + (scalar32 s x x.b).signExtend 64).toNat
    let index := (scalar32 s x x.b).toNat
    let pooled := (s.launch.rcd.pool.toNat + 128 * index) % 2 ^ 64
    let takes := fun (i : Instr) (va : Nat) =>
      Ready i s → va % 128 = 0 → ReadsBlock s va 128 v l → tensorOk words = true →
        exec i s = .next (passes i s (holds v x.d.toNat (parseTensor words)))
    let puts := fun (h : TRec) => (List.range 16).map fun k =>
      ({ lane := 0, va := (at_ + 8 * k) % 2 ^ 64, poison := false
         bytes := toBytes 8 (((tensorWords h).getD (2 * k + 1) 0).toNat * 2 ^ 32 + ((tensorWords h).getD (2 * k) 0).toNat) } : Put)
    let one := (scalar32 s x x.a)
    let two := pairOf s x.a
    let sets := fun (n : Nat) (y : TRec) => x.fn.toNat = n →
      exec (.hset x) s = .next (passes (.hset x) s (holds s x.d.toNat y))
    let o := slotAt s.tm (fieldNum x.a)
    let t := tileAt s.tm (fieldNum x.a)
    let byte := fun (owned : Bool) (st : TState) (mode : Nat) =>
      (match st with | .empty => 0 | .filling => 1 | .ready => 2 | .draining => 3) +
        (if owned then 4 + 8 * (s.tm.resid % 4) else 0) + 32 * mode
    let writes := fun (i : Instr) (n : Nat) =>
      Ready i s → ∃ u, exec i s = .next u ∧ WroteWord i s u x.d.toNat (BitVec.ofNat 32 n)
    let sums := fun (ws : List DWord) =>
      let at_ := (List.range ws.length).zip ws
      ((ws.map BitVec.toInt).sum % 2 ^ 64, (at_.map fun e => ((e.1 : Int) + 1) * e.2.toInt).sum % (2 ^ 61 - 1))
    let block := fun (p : Int × Int) => wordsOf (BitVec.ofInt 64 p.1) ++ wordsOf (BitVec.ofInt 64 p.2)
    let n := (scalar32 s x x.b).toNat
    let legal := n % 8 = 0 ∧ 8 ≤ n ∧ n ≤ 4096
    let local_ := (List.range (n / 8)).map fun k =>
      BitVec.ofNat 64 (ofBytes (((lclRead s s.tm.id one.toNat n).drop (8 * k)).take 8))
    let sound := lclPoisoned s s.tm.id one.toNat n = false ∧
      ∀ k, k < n / 8 → lclPoisoned s s.tm.id (one.toNat + 8 * k) 8 = false
    let scribe := fun (k : Nat) => ((getPair s k).toNat, (getPair s (k + 2)).toNat)
    let a := scribe (fieldNum x.a)
    let b := scribe (fieldNum x.b)
    let folds := fun (i : Instr) (sign : Int) =>
      Ready i s → exec i s = .next (passes i s (resultBlock s x.d.toNat
        (block (((a.1 : Int) + sign * b.1) % 2 ^ 64, ((a.2 : Int) + sign * b.2) % (2 ^ 61 - 1)))))
    let checks := fun (u : State) (p : Int × Int) =>
      let stored := (pairOf u x.c).toNat
      ReadsBlock u stored 16 w m → stored % 16 = 0 →
        exec (.scrchk x) s = .next (passes (.scrchk x) s (resultS w x.d.toNat
          (if m.map (fun e => ofBytes e.2.1) = [p.1.toNat, p.2.toNat] then 0 else 1)))
    let f := s.tm.scrFault
    takes (.hld x) at_ ∧ (index < s.launch.poolSize → takes (.hldPool x) pooled) ∧
    (Ready (.hst x) s → handleAt s (fieldNum x.c) = some h → at_ % 128 = 0 → MappedStore s (puts h) 8 true →
      exec (.hst x) s = .next (passes (.hst x) s ((joinPuts (puts h)).foldl putOne s))) ∧
    (Ready (.hset x) s → handleAt s x.d.toNat = some h →
      sets 0 { h with base := two } ∧ sets 1 { h with fill := one } ∧ sets 12 { h with sidecar := two } ∧
      sets 13 { h with budget := one } ∧
      (∀ d, d < 5 → (d < h.rank ↔ one ≠ 0) → sets (2 + d) { h with dim := updateAt h.dim d fun _ => one }) ∧
      ∀ d, d < 5 → sets (7 + d) { h with stride := updateAt h.stride d fun _ => two }) ∧
    writes (.tstateSlot x) (byte o.owned o.st 0) ∧ writes (.tstateTile x) (byte t.owned t.st t.mode.toNat) ∧
    writes (.tstateFlags x) (t.flags.toNat + 64 * t.mode.toNat + 65536 * t.anchor.toNat) ∧
    (Ready (.scrb x) s → legal → x.fn.getLsbD 0 = false → two.toNat % 8 = 0 → ReadsBlock s two.toNat n v l →
      exec (.scrb x) s = .next (passes (.scrb x) s (resultBlock v x.d.toNat (block (sums (blockValues l)))))) ∧
    (Ready (.scrb x) s → legal → x.fn.getLsbD 0 = true → FreeRegion s one.toNat 8 n false → sound →
      exec (.scrb x) s = .next (passes (.scrb x) s (resultBlock s x.d.toNat (block (sums local_))))) ∧
    (Ready (.scrchk x) s → legal → x.fn.getLsbD 0 = false → two.toNat % 8 = 0 → ReadsBlock s two.toNat n v l →
      checks v (sums (blockValues l))) ∧
    (Ready (.scrchk x) s → legal → x.fn.getLsbD 0 = true → FreeRegion s one.toNat 8 n false → sound → checks s (sums local_)) ∧
    folds (.scrfold x) 1 ∧ folds (.scrfoldSub x) (-1) ∧
    (Ready (.scrrd x) s → exec (.scrrd x) s = .next (passes (.scrrd x) s
      { resultBlock s x.d.toNat [f.chunk.extractLsb' 0 32, f.chunk.extractLsb' 32 32, f.count ++ f.hop, f.va.extractLsb' 0 32] with
        tm := { s.tm with scrFault := { chunk := 0, hop := 0, count := 0, va := 0 } } }))

/-- R101, R247 to R250, R253, R260, R292, R293, R299 to R301, R303, R304: an engine or retrieval command whose operands pass their
checks is accepted: it stands at the end of the commands with the operands of its issue, its ranges are held, its status register
is pending, and the split goes on; a slot that is to be filled is filling, with every byte zero. With an empty execution mask an
engine command has no effect. That a box without elements needs no scratchpad region is log 45 (DEDUCED, unsafe). -/
def Obligations.CommandsAreAccepted : Prop :=
  ∀ (s v : State) (x : Args) (h h' : TRec) (y : Fam) (l : List (Elem × List Byte × Bool)),
    let f := engineFlags x
    let flagged := ∀ b, f.bar = some b → b < s.tm.nbars
    let none_ : EFlags := { acq := none, rel := none, bar := none, pitch := 0 }
    let takes := fun (i : Instr) (u : State) (k : CmdKind) (f : EFlags) (rs : List Range) (n : Nat) =>
      MayAccept u k rs → exec i s = .next (passes i s (accepted x u k f rs n))
    let box := boxAt s (fieldNum x.b)
    let tiled := handleAt s (fieldNum x.a) = some h ∧ h.dense = true ∧ (h.rank = 1 → box.ext1 = 1) ∧
      ∀ c ∈ box.org.drop h.rank, c = 0
    let pitch := if f.pitch = 0 then box.ext0 * h.size else 16 * f.pitch
    let span := if box.ext0 = 0 ∨ box.ext1 = 0 then 0 else (box.ext1 - 1) * pitch + box.ext0 * h.size
    let c := scalar32 s x x.c
    let copies := fun (i : Instr) (out : Bool) =>
      Ready i s → s.exec ≠ 0 → flagged → tiled → (span ≠ 0 → lclInRange s s.tm.id c.toNat span = true) →
        (2 ≤ box.ext1 → box.ext0 * h.size ≤ pitch) →
        takes i s (if out then .copyOut h box c else .copyIn h box c) f (if span = 0 then [] else lclRange s c.toNat span (!out)) 1
    let n := fieldNum x.c
    let tr := x.fn.getLsbD 2
    let lines := 128 / h.size
    let a := scalar32 s x x.a
    let b := (scalar32 s x x.b).toNat
    let va := (pairOf s x.a).toNat
    let blk := fieldNum x.c
    let mul := fun (h : TRec) => h.rank = 2 ∧ h.kindOf 1 = 0 ∧ h.kindOf 0 = 2 ∧ h.efmt.toNat ∈ [0, 1, 2, 3, 4, 6, 7] ∧ h.bs = false
    let family := s.tm.fams.getD (fieldNum x.a) none = some y
    let keys := fun (r : Nat) => (List.range y.new.l).map fun k => getV s r k
    let kr := fieldNum x.b
    let clean := ∀ p ∈ s.g.poison, p.1 < 8192 → p.1 / 32 = kr ∨ p.1 / 32 = kr + 1 → y.new.l ≤ p.1 % 32
    let row := scalar32 s x x.c
    let list := (getS s blk).toNat
    let bits := (getS s (blk + 1)).toNat
    let cap := (getS s (blk + 2)).toNat
    let rest := match lclTeamOf s s.tm.id bits with | some k => (findTeam s k).lds - lclOff bits | none => 0
    let reaches := fun (a n : Nat) => lclInRange s s.tm.id a n = true ∧ lclRole s s.tm.id a n = true ∧ lateLocal s a n = false
    copies (.bcopyIn x) false ∧ copies (.bcopyOut x) true ∧
    (Ready (.bcopyInSlot x) s → s.exec ≠ 0 → flagged → tiled → (tr = true → h.bs = false) → FreeSlot s n →
      (if tr then box.ext0 ≤ 64 ∧ box.ext1 ≤ lines else box.ext1 ≤ 64 ∧ box.ext0 ≤ lines) →
      MayAccept s (.copySlot h box tr n) (slotRange s n true) →
      ∃ t, exec (.bcopyInSlot x) s = .next t ∧
        t = passes (.bcopyInSlot x) s { accepted x s (.copySlot h box tr n) f (slotRange s n true) 1 with
          tm := { s.tm with slots := t.tm.slots } } ∧
        (∀ k, k ≠ n → slotAt t.tm k = slotAt s.tm k) ∧
        slotAt t.tm n = { slotAt s.tm n with st := .filling, bytes := [] }) ∧
    (Ready (.bfillLcl x) s → s.exec ≠ 0 → flagged → a.toNat % 4 = 0 → b % 4 = 0 → lclInRange s s.tm.id a.toNat b = true →
      takes (.bfillLcl x) s (.fillLcl a b c) f (if b = 0 then [] else lclRange s a.toNat b true) 1) ∧
    (Ready (.bfillT x) s → s.exec ≠ 0 → flagged → tiled → takes (.bfillT x) s (.fillT h box c) f [] 1) ∧
    (∀ i ∈ [Instr.bcopyIn x, .bcopyInSlot x, .bcopyOut x, .bfillLcl x, .bfillT x, .coll x, .spmulo x, .spmerge x],
      Ready i s → s.exec = 0 → exec i s = .next (passes i s s)) ∧
    (Ready (.coll x) s → s.exec ≠ 0 → flagged → va % 64 = 0 → ReadsBlock s va 64 v l →
      takes (.coll x) v (.coll ((blockValues l).flatMap wordsOf) (bayOf s.tm.core) (pairOf s x.a)) f [] 1) ∧
    (Ready (.spmulo x) s → s.exec ≠ 0 → flagged → handleAt s (fieldNum x.a) = some h → handleAt s (fieldNum x.b) = some h' →
      mul h → mul h' → h'.dimOf 1 = h.dimOf 1 → (getPair s blk).toNat % 32 = 0 →
      takes (.spmulo x) s (.spmulo h h' (getPair s blk) (getS s (blk + 2)).toNat (getS s (blk + 3)).toNat
        (getS s (blk + 4)).toNat) f [] 1) ∧
    (Ready (.spmerge x) s → s.exec ≠ 0 → flagged → handleAt s (fieldNum x.b) = some h → h.rank = 2 → h.kindOf 1 = 0 →
      h.kindOf 0 = 2 → ¬ (h.efmt = 9 ∧ profileN s = true) → (getPair s (fieldNum x.a)).toNat % 32 = 0 →
      takes (.spmerge x) s (.spmerge (getPair s (fieldNum x.a)) (getS s (fieldNum x.a + 2)).toNat h) f [] 1) ∧
    (Ready (.lshprobe x) s → family → 1 ≤ cap → cap ≤ 1024 → clean → reaches list (4 * cap) → reaches bits 1 →
      takes (.lshprobe x) s (.probe y (keys kr) (keys (kr + 1)) (getS s blk) (getS s (blk + 1)) cap) none_
        (lclRange s list (4 * cap) true ++ lclRange s bits rest true) 1) ∧
    (Ready (.lshins x) s → family → row ≠ 0xFFFFFFFF → clean →
      takes (.lshins x) s (.insert y (keys kr) (keys (kr + 1)) row) none_ [] 1) ∧
    (Ready (.lshdel x) s → family → row ≠ 0xFFFFFFFF → clean →
      takes (.lshdel x) s (.delete y (keys kr) (keys (kr + 1)) row) none_ [] 1) ∧
    (Ready (.lshstep x) s → family → 1 ≤ b → b ≤ 4096 → takes (.lshstep x) s (.migrate y b) none_ [] 1) ∧
    (Ready (.lshstat x) s → family → b < y.new.l → takes (.lshstat x) s (.stat y b) none_ [] 4)

/-- R82, R83, R86 to R91, R105, R106, R110, R112, R136, R228, R262, R263, R336 to R338, R385, R387, R388, R405: a block-store instruction,
after its .dev release, sends its triples and is held; the controller's reply lets it go on, with status 0 and a zeroed page mapped at a new
name of a new block in free frames, the VA of a name, a second name on a block, or a name less; and otherwise with status 1 for no free
block, 2 for a name that exists, 3 for one that does not, 4 for an evicted block, 5 for a layer above 65535: the order in which these are
tested is log 91 (DEDUCED). A write to a shared block gives its name a copy in a free frame of the pool, or, with none, its logged stores
are discarded. Which free VA a new name gets is an open value (log 89), and which free frames a page gets the model's choice (log 29). The
events of the memory system take place: a line comes to an instruction cache or is served by its home, pins whose W has passed go, lines
that are not pinned leave, page attributes are kept; the MP maps a page or declines it, removes, inserts or changes a mapping and resizes a
way, changes an access-table entry and drains a violation log; a scrub corrects or poisons; a granule is copied before its first write; the
host agent reads and writes; unified ranges change. That the MP's answer and the home's read come as events that name their page is log 105
(DESIGN CHOICE), where an ACCESS record counts the violations that were lost log 133 (DEDUCED), and which tables the host agent's accesses
meet log 151 (DESIGN CHOICE). That the loads which a table's new entry comes to deny, and which have issued, are performed before it is log
180; for which launch a line that is read ahead of any instruction touches its granule, for that of the first group of the context on the
core and for none where none runs there, log 196 (DEDUCED, unsafe). -/
def Obligations.BlockStoreAndMemoryEventsComplete : Prop :=
  (∀ (s u : State) (x : Args) (gid n pfn : Nat) (q : Request) (e : KvName) (b : KvBlock) (asid : BitVec 16) (va : DWord),
    let t := focus s { gid := gid, sp := n }
    let word := fun (k : Nat) => (q.words.getD k 0).setWidth 32
    let first := [word 0, word 1, word 2]
    let second := [word 3, word 4, word 5]
    let low := fun (l : List Word) => (l.getD 1 0).toNat < 65536
    let triple := fun (u : State) (f : Src) => [0, 1, 2].map fun k => (getS u (fieldNum f + k)).setWidth 64
    let sends := fun (i : Instr) (op : Nat) (words : State → List DWord) =>
      (Ready i s → s.exec = 0 → exec i s = .next (passes i s s)) ∧
      (Ready i s → s.exec ≠ 0 → (∀ p, s.sp.request = some p → p.pc ≠ s.sp.pc) → release s 3 = .done u →
        exec i s = .next (park .reply { u with sp := { u.sp with
          request := some { pc := u.sp.pc, next := pcAfter i u, op := op, dest := x.d.toNat, words := words u } } }))
    let replies := fun (v : State) => exec (.kvReply gid n) s =
      .next { v with sp := { v.sp with pc := q.next, request := none, wait := none, since := v.gt } }
    let tells := fun (v : State) (c : Nat) =>
      replies (if q.op = 0xA9 then resultPair v q.dest (BitVec.ofNat 64 c) else resultS v q.dest (BitVec.ofNat 32 c))
    let named := fun (l : List Word) (block : Nat) (va : DWord) =>
      ({ asid := t.asid, seq := l.getD 0 0, layer := l.getD 1 0, blk := l.getD 2 0, block := block, va := va } : KvName)
    let made := named first t.sched.nextId (newKvVa t t.asid none)
    let grown := { t with
      fresh := t.fresh + 1
      sched := { t.sched with nextId := t.sched.nextId + 1 }
      kv := { t.kv with
        blocks := t.kv.blocks ++ [{ id := t.sched.nextId, asid := t.asid, pfn := BitVec.ofNat 24 pfn, evicted := false }]
        names := t.kv.names ++ [made] } }
    let shared := { t with
      fresh := t.fresh + 1, kv := { t.kv with names := t.kv.names ++ [named second e.block (newKvVa t t.asid (some e.va))] } }
    let there := findName t t.asid first = some e ∧ findBlock t e.block = some b
    sends (.kvalloc x) 0xA8 (fun u => triple u x.a) ∧ sends (.kvget x) 0xA9 (fun u => triple u x.a) ∧
    sends (.kvshare x) 0xAA (fun u => triple u x.a ++ triple u x.b) ∧ sends (.kvfree x) 0xAB (fun u => triple u x.a) ∧
    (t.sp.request = some q → mayIssue t = true → chainOpen t gid = false → t.dev.clamped.contains (bayOf t.tm.core) = false →
      q.words.length = (if q.op = 0xAA then 6 else 3) → 0xA8 ≤ q.op → q.op ≤ 0xAB →
      (¬ low first ∨ (q.op = 0xAA ∧ ¬ low second) → tells t 5) ∧
      (low first → (q.op = 0xAA → low second) →
        (q.op ≠ 0xA8 → findName t t.asid first = none → tells t 3) ∧
        (q.op = 0xA8 → there → tells t 2) ∧
        (q.op = 0xA8 → findName t t.asid first = none → poolOf t t.asid ≤ blocksOf t t.asid → tells t 1) ∧
        (q.op = 0xA8 → findName t t.asid first = none → blocksOf t t.asid < poolOf t t.asid →
          findFrames t made.va.toNat 2 = some pfn →
          tells (installPage (zeroPage grown (namePte grown made)) (namePte grown made)) 0) ∧
        (q.op = 0xA9 ∨ q.op = 0xAA → there → b.evicted = true → tells t 4) ∧
        (q.op = 0xA9 → there → b.evicted = false → replies (resultPair t q.dest e.va)) ∧
        (q.op = 0xAA → there → b.evicted = false → (findName t t.asid second).isSome = true → tells t 2) ∧
        (q.op = 0xAA → there → b.evicted = false → findName t t.asid second = none → blockIdle t e.block = true →
          tells (remapBlock shared e.block) 0) ∧
        (q.op = 0xAB → there → blockIdle t e.block = true → tells (removeName t e) 0))) ∧
    (nameAt s asid va.toNat = some e → (translate s.mem asid e.va.toNat).any pteShared = true → writeWanted s e = true →
      blockIdle s e.block = true →
      (blocksOf s asid < poolOf s asid → findFrames s e.va.toNat 2 = some pfn →
        exec (.blockCopyOnWrite asid va) s = .next (copyBlock s e pfn)) ∧
      (poolOf s asid ≤ blocksOf s asid → exec (.blockCopyOnWrite asid va) s = .next
        ((List.range 16).foldl (fun s k => declinePage s asid (pageOf e.va.toNat + k) true) s)))) ∧
  ∀ (s : State) (core n c w size lid stack at_ target idx len : Nat) (asid : BitVec 16) (va base : DWord) (p q entry : Quad) (g : Group)
      (f : Flight) (y : PWay) (viol : Violation) (rest : List Violation) (bs : List Byte) (level : CacheLevel),
    let page := pageOf va.toNat
    let line := lineOf va.toNat
    let fetches : Agent := { asid := asid, core := core, super := true, mkind := mkContext }
    let keeps : Agent := { asid := asid, core := core, super := false, mkind := mkContext }
    let at_line := fun (y : CLine) (unit : Nat) => y.unit = unit ∧ y.asid = asid ∧ y.line = line
    let wanted := (∃ a ∈ s.mem.asks, a.asid = asid ∧ a.page = page) ∨ ∃ e ∈ s.mem.side, e.asid = asid ∧ e.page = page
    let maps := mayMap s (allPtes s) p = true ∧ pageBusy s p = false ∧ tableRoom s.mem p = true
    let same := fun (q : Quad) => pteAsid q = pteAsid p ∧ pteTag q = pteTag p ∧ pteSize q = pteSize p
    let i := entry &&& accMask
    let others := s.rel.acc.filter fun e => !(e.target == target && e.idx == idx)
    let served := running s = true ∧ hostUp s = true ∧ checkpointHolds s asid = false
    let sees := fun (n : Nat) (write : Bool) =>
      ∀ z ∈ linePieces va.toNat n, (∃ p, hostSees s asid z.1 write = .ok p) ∧ homeCut s 256 z.1 = false
    let on := s.dev.power = .on
    let bus : UnitId := (0x0B, 8 * stack + min 7 (at_ % 2 ^ 40 / 4096 / 1953125))
    let lost := ((s.rel.violLost.find? fun e => e.1 == target).map Prod.snd).getD 0
    let drained := { s with rel := { s.rel with
      viol := s.rel.viol.filter fun v => v.target != target, violLost := s.rel.violLost.filter fun e => e.1 != target } }
    let b := base.toNat % 2 ^ 57
    let ranges := s.fab.uranges.filter fun r => !(r.asid == asid && r.base == b)
    let span := (s.fab.uranges.filter fun r => r.asid == asid && r.base == b).foldl (fun n r => max n r.size) size
    let free := on ∧ rangeBusy s asid b span = false ∧ checkpointHolds s asid = false
    (core < 256 → heldILine s core asid va.toNat = none → seeFetch s fetches va.toNat = .page p →
      (groupOn s core asid = none →
        exec (.fetchLine core asid va) s = .next (fillILine (fillPac s fetches va.toNat) core p (va.toNat / 64 * 64))) ∧
      (groupOn s core asid = some g → exec (.fetchLine core asid va) s =
        .next (fillILine (fillPac (touchGranule s (launchOfGroup s g).id (pteAsid p) (granuleOf va.toNat)) fetches va.toNat)
          core p (va.toNat / 64 * 64)))) ∧
    (groupOn s core asid = some g → seeAddr s fetches va.toNat false = .page p → cacheable p = true →
      holdersOf s.mem (pteAsid p) line = [] →
      exec (.homeRead core asid va) s = .next (homeServe s (launchOfGroup s g).id core p line true).1) ∧
    (∃ t, exec (.sectorUnpin core asid va) s = .next t ∧ t = { s with mem := { s.mem with l1 := t.mem.l1, cc := t.mem.cc } } ∧
      (∀ y ∈ t.mem.l1, at_line y core → ∀ z ∈ y.pins, z.sector = va.toNat % 128 / 32 → ∀ k, z.till = some k → s.gt < k) ∧
      ∀ y ∈ t.mem.cc, at_line y (clusterOf core) → ∀ z ∈ y.pins, z.sector = va.toNat % 128 / 32 → ∀ k, z.till = some k → s.gt < k) ∧
    (core < 256 → canonical va.toNat = true → exec (.pacFill core asid va) s = .next (fillPac s keeps va.toNat)) ∧
    (∃ t, exec (.lineEviction level core asid va) s = .next t ∧
      (level = .l1 → ∀ y ∈ t.mem.l1, at_line y core → anyPinned y t.gt = true) ∧
      (level = .cluster → t = { s with mem := { s.mem with cc := t.mem.cc } } ∧
        ∀ y, y ∈ t.mem.cc ↔ y ∈ s.mem.cc ∧ (at_line y core → anyPinned y s.gt = true)) ∧
      (level = .code → t = { s with mem := { s.mem with icache := t.mem.icache } } ∧
        ∀ y, y ∈ t.mem.icache ↔ y ∈ s.mem.icache ∧ ¬ (y.core = core ∧ y.asid = asid ∧ y.line = va.toNat % 2 ^ 57 / 64))) ∧
    (on → wanted → translate s.mem asid va.toNat = none →
      (pageIn p page = true → pageFor p asid = true → maps →
        exec (.pageMapReply asid va (some p)) s = .next (installPage (invalidatePage s p) p)) ∧
      exec (.pageMapReply asid va none) s = .next (declinePage s asid page (freedPage s asid page))) ∧
    (on → translate s.mem asid va.toNat = some p → pteKv p = false → pageBusy s p = false → savePage s p = false →
      exec (.mappingChange (.remove asid va)) s = .next (unmapPage s p)) ∧
    (on → maps → savePage s p = false → (∀ z ∈ allPtes s, ¬ same z) →
      exec (.mappingChange (.insert p)) s = .next (installPage (invalidatePage s p) p)) ∧
    (on → ((allPtes s).find? fun z => pteAsid z == pteAsid p && pteTag z == pteTag p && pteSize z == pteSize p) = some q →
      pteKv q = false → pageBusy s q = false → savePage s q = false → mayMap s ((allPtes s).filter (· != q)) p = true → exec (.mappingChange (.insert p)) s = .next (changePage s q p)) ∧
    (on → findWay s.mem c w = some y → exec (.mappingChange (.advance c w)) s = .next (advanceWay s y)) ∧
    (on → 0 < n → n ≤ 32 → ∃ t, exec (.mappingChange (.beginResize c w n)) s = .next t ∧
      t = { s with mem := { s.mem with ways := t.mem.ways } } ∧ t.mem.ways.length = s.mem.ways.length ∧
      ∀ (k : Nat) (a : PWay), s.mem.ways[k]? = some a → t.mem.ways[k]? = some
        (if a.c = c ∧ a.w = w ∧ a.mNew = none then { a with mNew := some n, cursor := 0 } else a)) ∧
    (on → (i.extractLsb' 8 3).toNat < 4 →
      (i.getLsbD 0 = true → (others.filter fun e => e.target == target && e.word.getLsbD 0 && accMaster e.word == accMaster i).length < 64) →
      let acc := others ++ [{ target := target, idx := idx, word := i }]
      let before := performBefore s (loadDenied { s with rel := { s.rel with acc := acc } })
      ∃ t, exec (.accessTableWrite target idx entry) s = .next t ∧ t.rel.acc = acc ∧
        t = { before with rel := { before.rel with acc := t.rel.acc }, mem := { before.mem with pac := t.mem.pac } } ∧
        ∀ e ∈ t.mem.pac, pacMeets target i e = false) ∧
    (on → s.rel.viol.filter (fun v => v.target == target) = viol :: rest →
      exec (.violationDrain target) s = .next
        (rest.foldl (fun s v => writeRecord s (accessRcd v 0)) (writeRecord drained (accessRcd viol lost)))) ∧
    (running s = true → stack < 8 → unitClamped s (0x0A, stack) = false →
      exec (.hbmScrub stack []) s = .next s ∧
      exec (.hbmScrub stack [(at_, false)]) s = .next (countError (noteErr s bus .corrected) (0x0A, stack) 0xFFFF (stack / 2)) ∧
      exec (.hbmScrub stack [(at_, true)]) s = .next (uncorrected { noteErr s bus .uncorrectable with mem := { s.mem with
        poison := addOnce ((stack * 2 ^ 40 + at_ % 2 ^ 40) / 32) s.mem.poison } } (0x0A, stack))) ∧
    ((s.mem.flight.find? fun f => (launchOfGroup s (findGroup s f.gid)).id == lid && !isFar f.va && granuleOf f.va == granuleOf va.toNat) =
        some f → translate s.mem f.asid f.va = some p → pteW p = true →
      exec (.snapshotCopy lid va) s = .next (snapGranule s lid (pteAsid p) va.toNat)) ∧
    (served → sees len false → ∃ t,
      exec (.hostAccess asid va len none) s = .next t ∧
      t = reply (hostRead s asid (linePieces va.toNat len)).1 ((chunksOf (ceilDiv len 8) 8
        (hostRead s asid (linePieces va.toNat len)).2).map fun b => BitVec.ofNat 64 (ofBytes b))) ∧
    (served → sees bs.length true → ∃ t,
      exec (.hostAccess asid va len (some bs)) s = .next t ∧ t.mem = (hostWrite s asid va.toNat bs (linePieces va.toNat bs.length)).1.mem) ∧
    (free → ∃ t, exec (.unifiedRangeChange asid base size none) s = .next t ∧ t.fab.uranges = ranges ∧
      ∀ z ∈ t.mem.l1, asidsMeet z.asid asid = true → lineInRange 128 z.line b span = false) ∧
    ∀ wr, free → 0 < size → size % 4096 = 0 → b % 4096 = 0 → placement b ≠ 5 →
      (∀ z ∈ ranges, asidsMeet z.asid asid = true → rangesOverlap z { asid := asid, base := b, size := size, writable := wr } = false) →
      ∃ t, exec (.unifiedRangeChange asid base size (some wr)) s = .next t ∧
        t.fab.uranges = ranges ++ [{ asid := asid, base := b, size := size, writable := wr }]

/-- R99, R126, R248, R249, R251, R253, R261, R280, R295, R299 to R304, R341: turns of the engines. The fill of a scratchpad range is done in
its turn, and so is a copy or a fill of a tensor without scribes whose elements lie in one chunk of memory: into scratchpad or a slot, what is
read goes to each element's place, and what lies out of bounds is FILL; out of scratchpad, or a pattern, the elements within bounds are
written in order. A command of the copy or the collective engine or of the intersect unit that has ended with code 0, with no release or
barrier to see to, writes its status word. Of the retrieval engine, for a family of one table and no old one: a probe whose bucket's ids are
all new writes its list and their count, an insert or a delete leaves the bucket that R301 gives and its code and count, where no spill entry
is needed; `lshstat` counts a bucket a turn and writes its words; `lshstep` without an old family ends with code 4, and with CURSOR at its
end, for a family without a matrix, with code 3. Not said here: commands of several chunks or tables, scribes, spill entries, the keys that a
migration moves, and the transfers of collectives and of the intersect unit. A bucket that stays frozen ends its command with code 8 and a
record; a collective that not all join, or one of whose sources failed, ends in every participant with code 0x0A; a collective chunk that is
whole goes on to its next hop, and one that waits is resent; and a fill or a drain ends with its slot or tile ready. A word that is written
later goes to L0 too (R50), but into no open chain (log 159). That a copy or a fill is done in one turn is log 38, that `lshstat` reads one
bucket a turn log 96, that a pattern fills a wider element with zeros above its 32 bits log 161, that the slots of ids from COUNT on are zero
after an update log 206 (DESIGN CHOICE, unsafe); code 8 of R299 is R302's frozen bucket, and of the other causes of a failure none gives it
(log 94). -/
def Obligations.EnginesComplete : Prop :=
  ∀ (s : State) (x : Work) (id k n1 n2 n3 most t bucket since cur n tid idx : Nat) (c : Cmd) (r : CmdRes) (f : Fam) (a p : Word)
      (bytes : Nat) (keys olds : List Word) (row : Word) (co : Coll) (ch : Chunk) (h h' : BitVec 16) (hops : List (BitVec 16)),
    let u := startCmd s c
    let gone := dropCmd s c.id
    let e := ({ c with started := true } : Cmd).engine u false
    let count := (doneResult c.done).2
    let place := (f.new.tbase.toNat + 64 * (t * 2 ^ f.new.k + k % 2 ^ f.new.k)) % 2 ^ 64
    let put := fun (s : State) (ws : List Word) =>
      latchLate (((List.range ws.length).zip ws).foldl (fun s y => settleReg s c.gid (c.dest + y.1) y.2) s) c.gid
        (BitVec.ofNat 128 (ofWords ws))
    let ga := gangOfGroup s (findGroup s c.gid)
    let refused := fun (v : State) => ∀ y ∈ co.parts, ∀ m m', findCmd s y.cmd = some m → findCmd v y.cmd = some m' →
      ∃ r, m'.res = some r ∧ (m.res = none → r.code = 0x0A)
    let moving := fun (st : TState) => st = .filling ∨ st = .draining
    (findCmd s id = some c → c.res = none → c.kind = .fillLcl a bytes p → c.flags.acq = none → mayStart s c = true →
      spanRole u c a.toNat bytes = true →
      exec (.engineComplete id) s = .next
        (updCmd (engineLcl u c.tid a.toNat ((List.range (bytes / 4)).flatMap fun _ => toBytes 4 p.toNat)) c.id fun m => { m with
          done := [], w := c.w
          res := some { code := 0, chunks := 0, addr := 0, chunk := 0xFFFFFFFFFFFFFFFF, va := 0
                        hop := BitVec.ofNat 16 (0x0400 + clusterOf c.core) } })) ∧
    (findCmd s id = some c → c.kind.retrieval = false → c.res = some r → r.code = 0 → c.flags.rel = none → c.flags.bar = none →
      exec (.engineComplete id) s = .next (put gone [BitVec.ofNat 32 (65536 * min r.chunks 65535)]) ∧
        ∀ y ∈ gone.eng.cmds, y.id ≠ c.id) ∧
    (findCmd s id = some c → c.kind = .stat f t → mayRetrieve s c = true → mayStart s c = true → ([0, 1, 2, 3, 4].map fun j => c.done.getD j 0) = [k, n1, n2, n3, most] →
      (Work.start u c.w).read e place 64 = (x, bucket) → x.stop = none →
      let now := [k + 1, n1 + bucket % 16, n2 + (if 0 < bucket % 16 then 1 else 0), n3 + bucket / 16 % 2, max most (bucket % 16)]
      (k + 1 < 2 ^ f.new.k →
        exec (.retrievalComplete id) s = .next (updCmd x.s c.id fun m => { m with done := now })) ∧
      (2 ^ f.new.k ≤ k + 1 →
        exec (.retrievalComplete id) s = .next (put (noteW (dropCmd x.s c.id) c.gid x.w)
          (((now.drop 1).take 3).map (BitVec.ofNat 32) ++ [BitVec.ofNat 32 (65536 * (now.getD 4 0 % 65536))])))) ∧
    (findCmd s id = some c → c.kind = .insert f keys olds row → c.frozen = some (since, cur) → ga.st = .running → s.gt % 1024 = 0 →
      tickOver s = true →
      since + watchPeriod (findLaunch s ga.launch) ≤ s.gt → (∀ m ∈ s.eng.cmds, ∀ z, m.frozen = some z → cursorNow s m ≤ z.2) →
      ∃ r, r.kind = 0x03 ∧ r.code = 8 ∧ r.pc = c.pc ∧ r.lanes = c.lanes ∧ r.split = c.split ∧
        r.addr = BitVec.ofNat 64 (frozenBucket c) ∧ r.extra = BitVec.ofNat 32 (count % 65536) ∧
        exec (.frozenBucketTimeout id) s = .next (writeRecord
          (put (noteW gone c.gid c.w) [BitVec.ofNat 32 (8 + 65536 * (count % 65536))]) r)) ∧
    (∀ cid, s.eng.colls.find? (fun y => y.cid == cid && !y.began) = some co → joinFires s co = true →
      ∃ v, exec (.collJoinTimeout cid) s = .next v ∧ refused v) ∧
    (∀ cid, s.eng.colls.find? (fun y => y.cid == cid && y.stopped) = some co →
      ∃ v, exec (.collFailureNotice cid) s = .next v ∧ refused v) ∧
    (s.eng.chunks.find? (fun y => y.num == n) = some ch → ch.waiting = false → findColl s ch.coll = some co →
      ch.hops = h :: h' :: hops → hopDown s ch.prev h = false → scribeOf (ch.payload.map BitVec.toNat) = (ch.s0, ch.s1) →
      exec (.chunkArrival n [] []) s = .next (updChunk s n fun _ =>
        { ch with hop := h, prev := h, hops := h' :: hops, tries := 0, rerouted := false, rsnd := false })) ∧
    (s.eng.chunks.find? (fun y => y.num == n) = some ch → ch.waiting = true →
      ∃ v, exec (.chunkResend n) s = .next v ∧ v = { s with eng := { s.eng with chunks := v.eng.chunks } } ∧
        v.eng.chunks.find? (fun y => y.num == n) = some { ch with waiting := false, rsnd := true }) ∧
    (tid ≠ 0 → idx < 32 → moving (slotAt (findTeam s tid) idx).st →
      (∀ m ∈ s.eng.cmds, m.tid = tid → ∀ h box tr, m.kind ≠ .copySlot h box tr idx) →
      ∃ v, exec (.fillDrainComplete tid idx) s = .next v ∧
        slotAt (findTeam v tid) idx = { slotAt (findTeam s tid) idx with st := .ready } ∧
        ∀ o ∈ v.eng.overlaps, ∀ g, o.mover ≠ some (g, tid, idx)) ∧
    (tid ≠ 0 → moving (tileAt (findTeam s tid) idx).st →
      ∃ v, exec (.fillDrainComplete tid (32 + idx)) s = .next v ∧
        tileAt (findTeam v tid) idx = { tileAt (findTeam s tid) idx with st := .ready } ∧
        ∀ o ∈ v.eng.overlaps, ∀ g, o.mover ≠ some (g, tid, 32 + idx)) ∧
    (findCmd s id = some c → c.flags.acq = none → c.res = none → c.done = [] → mayStart s c = true →
      ∀ (g : TRec) (b : Box) (tr : Bool) (key : Nat) (v : State) (got : List (Nat × List Byte)),
        let near := c.engine u true
        let ends := fun (v : State) (w : Nat) => updCmd v c.id fun m => { m with
          done := [key], w := w
          res := some { code := 0, chunks := 1, addr := 0, chunk := 0xFFFFFFFFFFFFFFFF, va := 0
                        hop := BitVec.ofNat 16 (0x0400 + clusterOf c.core) } }
        let span := spanRole u c a.toNat (tileSpan g b c.flags.pitch) = true
        let into := fun (l : List TileElem) (v : State) (put : State → Nat → List Byte → State) =>
          (l.filter fun y => y.va.isNone).foldl (fun s y => put s y.place (fillBytes g)) (got.foldl (fun s y => put s y.1 y.2) v)
        let out := fun (l : List TileElem) (bytesOf : TileElem → List Byte) =>
          let mine := (chunkElems l key).filter fun y => y.live
          let w := mine.foldl (fun (r : State × Nat) y => engineWrite near r.1 r.2 (y.va.getD 0) (bytesOf y)) (u, c.w)
          scribesOn u c g = false → chunkKeys l = [key] → engineMay u near (mine.map fun y => (y.va.getD 0, g.size)) = none →
            exec (.engineComplete id) s = .next (ends w.1 w.2)
        let lclElems := lclPlace g b c.flags.pitch a.toNat
        (let l := readElems g b lclElems
         c.kind = .copyIn g b a → span → chunkKeys l = [key] → readTile near g.size (chunkElems l key) u = .ok (v, got) →
          scribesOn v c g = false →
          exec (.engineComplete id) s = .next (ends (into l v fun s place bs => engineLcl s c.tid place bs) c.w)) ∧
        (let l := readElems g b (slotPlace g tr)
         c.kind = .copySlot g b tr idx → g.bs = false → chunkKeys l = [key] →
          readTile near g.size (chunkElems l key) (engineSlot u c.tid idx fun o => { o with bytes := [] }) = .ok (v, got) →
          scribesOn v c g = false →
          exec (.engineComplete id) s = .next (ends (engineSlot
            (into l v fun s place bs => engineSlot s c.tid idx fun o => { o with bytes := pokeAll o.bytes place bs })
            c.tid idx fun o => { o with st := .ready, poison := false }) c.w)) ∧
        (c.kind = .copyOut g b a → span →
          (∀ y ∈ chunkElems (writeElems g b lclElems) key, lclPoisoned u c.tid y.place g.size = false) →
          out (writeElems g b lclElems) fun y => lclRead u c.tid y.place g.size) ∧
        (c.kind = .fillT g b p → out (writeElems g b fun _ _ => 0) fun _ => toBytes g.size p.toNat)) ∧
    (findCmd s id = some c → mayRetrieve s c = true → mayStart s c = true →
      ∀ (y : Work × Nat) (la bm : Word) (cap : Nat) (o : FRec) (g : TRec),
        let key := (keys.getD 0 0).toNat % 2 ^ f.new.k
        let here := (f.new.tbase.toNat + 64 * key) % 2 ^ 64
        let ids := fun (b : Nat) => (List.range (b % 16)).map fun j => b / 2 ^ (32 + 32 * j) % 2 ^ 32
        let overflowed := fun (b : Nat) => b / 16 % 2 == 1
        let bucketOf := fun (b : Nat) (l : List Nat) (ovf : Bool) =>
          l.length + (if ovf then 16 else 0) + (if b / 32 % 2 == 1 then 32 else 0) + 2 ^ 8 * ((b / 2 ^ 8 + 1) % 2 ^ 24) +
            2 ^ 32 * l.foldr (fun i r => i + 2 ^ 32 * r) 0
        let ends := fun (v : State) (w n : Nat) =>
          exec (.retrievalComplete id) s = .next (put (noteW (dropCmd v c.id) c.gid w) [BitVec.ofNat 32 n])
        let work := Work.start u c.w
        let single := f.new.l = 1 ∧ f.old = none ∧ c.done = []
        (single → c.kind = .insert f keys olds row →
          y = work.atomic e here 64 (fun b => some (if (ids b).length < 15 then bucketOf b (ids b ++ [row.toNat]) (overflowed b)
            else bucketOf b (if f.new.policy = 1 then (ids b).drop 1 ++ [row.toNat] else ids b) true)) → y.1.stop = none →
          ((ids y.2).length < 15 → ends y.1.s y.1.w 65536) ∧
          (15 ≤ (ids y.2).length → f.new.policy = 1 → ends y.1.s y.1.w (2 + 65536)) ∧
          (15 ≤ (ids y.2).length → f.new.policy ≠ 1 → f.new.policy ≠ 2 → ends y.1.s y.1.w 1)) ∧
        (single → c.kind = .delete f keys olds row →
          y = work.atomic e here 64 (fun b =>
            let keep := (ids b).filter (· ≠ row.toNat)
            if keep.length = (ids b).length then none else some (bucketOf b keep (overflowed b))) → y.1.stop = none →
          let gone := (ids y.2).length - ((ids y.2).filter (· ≠ row.toNat)).length
          0 < gone ∨ overflowed y.2 = false ∨ f.new.policy ≠ 2 → ends y.1.s y.1.w (65536 * gone)) ∧
        (single → c.kind = .probe f keys olds la bm cap → y = work.read e here 64 → y.1.stop = none →
          overflowed y.2 = false ∨ f.new.policy ≠ 2 → (ids y.2).Nodup → (ids y.2).length ≤ cap →
          (∀ i ∈ ids y.2,
            let bit := (bm.toNat + i / 8) % 2 ^ 32
            lclInRange y.1.s c.tid bit 1 = true ∧ lclPoisoned y.1.s c.tid bit 1 = false ∧
              ((lclRead y.1.s c.tid bit 1).headD 0).getLsbD (i % 8) = false) →
          ends (engineLcl y.1.s c.tid la.toNat
            ((ids y.2 ++ List.replicate (cap - (ids y.2).length) 0xFFFFFFFF).flatMap (toBytes 4))) y.1.w (65536 * (ids y.2).length)) ∧
        (c.kind = .migrate f n → f.old = none → ends u c.w 4) ∧
        (c.kind = .migrate f n → f.old = some o → work.weight e f.new = (x, some g) → x.stop = none → matrixBytes f.new = 0 →
          x.read e ((f.new.va.toNat + 0x24) % 2 ^ 64) 4 = y → y.1.stop = none → 2 ^ o.k ≤ y.2 → ends y.1.s y.1.w 3))

/-- R69, R97 to R101, R265, R267 to R275, R277 to R282, R286: the matrix instructions complete. `oclaim` gives the team the slots and tiles
its bits name, empty, and `orel` takes them back; `ofill` puts the lines of a scratchpad region, as rows or transposed, and the scales, into
a slot; `mma` and `mmarow` queue the quarters that the execution mask takes part in, with what is sampled at issue; `aclr` and the loads
give a tile its elements, MODE, anchor and flags; `aload.add` adds to it; the drains write a tile or slot to scratchpad, mark it draining
and hold what they write; `mchk` without a finding passes, and `mchk.st` writes its status. `mmag`, after its .gang release, joins its
gang's operation and waits; with the last team that joins, the operation begins: the lines and scales of the A block of the gang row and of
the B block of the gang column stand in every team's four slots, which are ready, and the quarters of each team's next pass are queued (O58
says what their pass does); where words differ or a check fails, nothing is read or written and every team raises the cause; a team whose
four passes are over goes on. Under a format word that R69 does not list, or with an extent beyond its limits, `mma` and `mmarow` raise
0x02, also with an empty execution mask, which is log 186; with an empty execution mask none has an effect otherwise. The model's choices,
DESIGN CHOICE: data moves at issue, before the slot or tile is ready (log 47), MODE 0 after `oclaim` (51), 0x10 for a list address that is
no multiple of 4 (202), MODE 3 after `aload.raw` (205), status 3 for a NaN in a tile without NV (204); DEDUCED: the order of an `mmag`
member's own checks, 0x02, 0x16, 0x10, 0x23 (55, unsafe), the unsigned k0 of `mmarow` (52, unsafe), which forms test MODE (141), a literal's
limits at the rendezvous (144), the poison check of `mmag` (163), four bands in each of its passes (164), 0x23 and 0x15 by `mchk.st` (203).
TCAUSE.CHAIN at the instruction that opens a chain is log 70 (DEDUCED). -/
def Obligations.MatrixInstructionsComplete : Prop :=
  ∀ (s v : State) (x : Args) (c : MClass) (h : TRec) (rows : List (Option (List (Nat × Nat)))) (q : Request) (r : Rendezvous), s.wf = true →
    let f := mfmt s.sp.fmt
    let ready := fun (i : Instr) => Ready i s ∧ s.exec ≠ 0
    let a := scalar32 s x x.a
    let b := scalar32 s x x.b
    let shape := scalar32 s x x.c
    let addr := a.toNat
    let d := x.d.toNat
    let read := fun (p n : Nat) => lclRead s s.tm.id p n
    let slots := fun (t : State) (n : Nat) => slotAt t.tm n
    let tiles := fun (t : State) (n : Nat) => tileAt t.tm n
    let within := (∀ k, k < 32 → a.getLsbD k = true → k < s.tm.slots.length) ∧
      ∀ k, k < 8 → b.getLsbD k = true → k < s.tm.tiles.length
    let owned := fun (o : Bool) => (∀ k, k < 32 → a.getLsbD k = true → (slots s k).owned = o) ∧
      ∀ k, k < 8 → b.getLsbD k = true → (tiles s k).owned = o
    let given := fun (t : State) (o : Bool) =>
      t = { s with tm := { s.tm with slots := t.tm.slots, tiles := t.tm.tiles } } ∧
      (∀ k, slots t k = if k < 32 ∧ a.getLsbD k = true then { Slot.none with owned := o } else slots s k) ∧
      ∀ k, tiles t k = if k < 8 ∧ b.getLsbD k = true then { Tile.none with owned := o } else tiles s k
    let fillLines := (b.extractLsb' 0 7).toNat
    let fillPitch := if b.extractLsb' 16 16 = 0 then 128 else 16 * (b.extractLsb' 16 16).toNat
    let scaleAt := shape.toNat
    let goesAt := fun (i p : Nat) =>
      if x.fn.getLsbD 0 = false then 128 * i + p
      else if x.fn.getLsbD 1 then 128 * (p % 64) + i + 64 * (p / 64) else 128 * (p / 2) + 2 * i + p % 2
    let moved := fun (t : State) (name : Nat) (rs : List Range) =>
      t.eng = { s.eng with overlaps := s.eng.overlaps ++
        [{ core := s.tm.core, cmd := 0, ranges := rs, mover := some (s.g.id, s.tm.id, name) }] }
    let m := (shape.extractLsb' 0 8).toNat
    let n := (shape.extractLsb' 8 8).toNat
    let k := (shape.extractLsb' 16 8).toNat
    let quarters := fun (u : State) (rows : Nat) => (List.range 4).filter fun q => u.exec.extractLsb' (8 * q) 8 != 0 && 16 * q < rows
    let queues := fun (i : Instr) (u : State) (op : AOp) (ob m n k : Nat) =>
      queuedOn u u.tm.core + (quarters u m).length ≤ 16 →
      exec i s = .next (passes i s { u with
        sched := { u.sched with nextId := u.sched.nextId + 1 }
        mx := { u.mx with quarters := u.mx.quarters ++ (quarters u m).map fun q =>
          { id := u.sched.nextId, core := u.tm.core, tid := u.tm.id, q := q, tile := d, a := op, b := ob, m := m, n := n, k := k
            fmt := u.sp.fmt, rnd := if x.rnd = 7 then u.sp.rnd else x.rnd, rkey := u.g.rkey, since := u.gt, mmag := none } } })
    let lit := x.literal
    let rc := (lit.extractLsb' 0 7).toNat
    let rn := (lit.extractLsb' 8 7).toNat
    let rk := (lit.extractLsb' 16 8).toNat
    let la := (getS s (fieldNum x.b)).toNat
    let ids := (chunksOf rc 4 (read la (4 * rc))).map ofBytes
    let size := nativeBytes f.acc
    let pitch := fun (w : Nat) => if shape.extractLsb' 16 16 = 0 then w else 16 * (shape.extractLsb' 16 16).toNat
    let shaped := 1 ≤ m ∧ m ≤ 64 ∧ 1 ≤ n ∧ n ≤ 64
    let span := (m - 1) * pitch (n * size) + n * size
    let element := fun (e : Nat) =>
      if e / 64 < m ∧ e % 64 < n then BitVec.ofNat 128 (ofBytes (read (addr + e / 64 * pitch (n * size) + e % 64 * size) size)) else 0
    let inTile := fun (t : State) (o : Nat) (put : Tile → Tile → Prop) =>
      (∀ k, k ≠ o → tiles t k = tiles s k) ∧ put (tiles s o) (tiles t o)
    let onlyTeam := fun (t : State) => t = { s with tm := { s.tm with tiles := t.tm.tiles } , eng := t.eng }
    let out := fmtBytes f.out
    let outSpan := (m - 1) * pitch (n * out) + n * out
    let reads := fun (t : State) (p : Nat) (l : List Byte) => lclRead t t.tm.id p l.length = l
    let drained := fun (i : Instr) (name n : Nat) (marks writes : State → Prop) =>
      ∃ t, exec i s = .next (passes i s t) ∧ moved t name (lclRange s addr n true) ∧ t.g = s.g ∧ t.sp = s.sp ∧ t.mem = s.mem ∧
        marks t ∧ (s.tm.id ≠ 0 → lclOff addr + n ≤ 2 ^ 24 → writes t)
    let o := fieldNum x.b
    let drains := fun (t : State) => (tiles t o).st = .draining ∧ (tiles t o).elems = (tiles s o).elems ∧ (tiles t o).mode = (tiles s o).mode
    let code := fun (i j : Nat) =>
      (drainElem f.out (drainAnchor f (tiles s o)) (roundMode s x.rnd (64 * i + j) (2 ^ 32)) (elemVal (tiles s o) i j)).1
    let saving := s.g.inHandler = true ∧ s.g.entry = 0x38
    let sound := (slotAt s.tm o).poison = false ∨ saving
    let soundTile := (tileAt s.tm o).poison = false ∨ saving
    let op := s.tm.mmags
    let gid := v.gang.id
    let cols := (shapeOf v.gang.nteams).2
    let team := fun (k : Nat) => (memberTeam v gid k).id
    let me_ := v.tm.member
    let tm_ := (lit.extractLsb' 0 10).toNat
    let tn := (lit.extractLsb' 10 10).toNat
    let tk := (lit.extractLsb' 20 8).toNat
    let within4 := lit.extractLsb' 28 4 = 0 ∧ 1 ≤ tm_ ∧ tm_ ≤ 128 * (shapeOf s.gang.nteams).1 ∧ 1 ≤ tn ∧
      tn ≤ 128 * (shapeOf s.gang.nteams).2 ∧ 1 ≤ tk ∧ tk ≤ c.maxK
    let os := fieldNum x.c
    let addrA := (scalar32 v x x.a).toNat
    let addrB := (scalar32 v x x.b).toNat
    let words : List Word := [scalar32 v x x.a, scalar32 v x x.b, BitVec.ofNat 32 os, BitVec.ofNat 32 d, lit]
    let block := fun (t p : Nat) (scaled : Bool) =>
      let n := if scaled then 16896 else 16384
      lclInRange v t p n = true ∧ lclRole v t p n = true
    let okA := block (team (me_ / cols * cols)) addrA f.abs
    let okB := block (team (me_ % cols)) addrB f.bbs
    let okS := fun (n : Nat) => ∀ k, k < n → (slotAt v.tm (os + k)).owned = true
    let okT := ∀ k, k < 4 → let z := tileAt v.tm (d + k)
      z.owned = true ∧ z.st ≠ .empty ∧ z.mode.toNat = f.acc ∧ z.poison = false
    let allOk := within4 ∧ okA ∧ okB ∧ addrA % 16 = 0 ∧ addrB % 16 = 0 ∧ okS 4 ∧ okT
    let idle := overlapped v (mmagRanges v f addrA addrB os) = false ∧ queuedOn v v.tm.core + 4 ≤ 16 ∧
      ∀ k, k < 4 → nameBusy v (os + k) = false ∧ nameBusy v (32 + d + k) = false
    let old : Rendezvous := (findRdv v gid op).getD
      { op := op, joined := [], last := v.gt, began := false, fail := none, passes := [], left := [] }
    let mine := fun (bad : Option (BitVec 8 × DWord)) =>
      ({ member := me_, words := words, bad := bad, fmt := v.sp.fmt, rnd := if x.rnd = 7 then v.sp.rnd else x.rnd
         rkey := v.g.rkey } : Joined)
    let all := old.joined ++ [mine none]
    let formed := ∀ k, k < v.gang.nteams → old.ran k = 4 ∨ ∃ y ∈ all, y.member = k
    let agreed := ∀ y ∈ old.joined, y.words = words ∧ y.bad = none
    let issues := ready (.mmag x) ∧ f.legal = some c ∧ requestHere s 0xB4 = none ∧ release s 2 = .done v ∧ v.gang ∈ v.gangs ∧
      gid = v.tm.gang ∧ old.began = false
    let asks : Request := { pc := v.sp.pc, next := pcAfter (.mmag x) s, op := 0xB4, dest := 0, words := [BitVec.ofNat 64 op] }
    let joins := fun (bad : Option (BitVec 8 × DWord)) (p : State → Rendezvous → Prop) =>
      ∃ t y, exec (.mmag x) s = .next (park .rendezvous t) ∧
        t = { v with
          tm := { v.tm with mmags := v.tm.mmags + 1, slots := t.tm.slots }, teams := t.teams, gangs := t.gangs, mx := t.mx
          sched := t.sched
          sp := { v.sp with request := some asks } } ∧
        findRdv t gid op = some y ∧ y.joined = old.joined ++ [mine bad] ∧ y.last = v.gt ∧ p t y
    let untouched := fun (t : State) => t.teams = v.teams ∧ t.tm.slots = v.tm.slots ∧ t.mx = v.mx
    let fails := fun (bad : Option (BitVec 8 × DWord)) (e : BitVec 8 × DWord) =>
      joins bad fun t y => y.began = true ∧ y.fail = some e ∧ untouched t
    let refuses := fun (e : BitVec 8 × DWord) => fails (some e) e
    let delivered := fun (t : State) (y : Joined) => ∀ k, k < 4 →
      let z := slotAt (findTeam t (team y.member)) (os + k)
      let src := if k < 2 then team (y.member / cols * cols) else team (y.member % cols)
      let at_ := if k < 2 then addrA else addrB
      z.owned = true ∧ z.st = .ready ∧
        (∀ p, p < 8192 → peek z.bytes p = (lclRead v src (at_ + 8192 * (k % 2)) 8192).getD p 0) ∧
        ((if k < 2 then f.abs else f.bbs) = true →
          ∀ p, p < 256 → peek z.bytes (8192 + p) = (lclRead v src (at_ + 16384 + 256 * (k % 2)) 256).getD p 0)
    let queued := fun (t : State) (y : Joined) =>
      let u := old.ran y.member
      let rows := min 64 (tm_ - (128 * (y.member / cols) + 64 * (u / 2)))
      let width := min 64 (tn - (128 * (y.member % cols) + 64 * (u % 2)))
      u < 4 → ∀ q, q < 4 → ∃ z ∈ t.mx.quarters,
        z.tid = team y.member ∧ z.q = q ∧ z.tile = d + u ∧ z.a = .slot (os + u / 2) ∧ z.b = os + 2 + u % 2 ∧ z.m = rows ∧
          z.n = width ∧ z.k = tk ∧ z.fmt = y.fmt ∧ z.rnd = y.rnd ∧ z.mmag = some (op, u)
    let left := { s with
      sp := { s.sp with request := none }
      gangs := updateWhere (fun y => y.id == s.gang.id) (fun y => { y with
        rdvs := (updateWhere (fun (z : Rendezvous) => z.op == (q.words.headD 0).toNat)
          (fun z => { z with left := addOnce s.tm.member z.left }) s.gang.rdvs).filter fun z => z.left.length < y.nteams }) s.gangs }
    let checked := fun (i : Instr) (limits : Prop) => Ready i s →
      (f.legal = none → exec i s = .next (traps i s s 0x02 (firstUnit i.shape) s.exec)) ∧
      (f.legal = some c → ¬ limits → exec i s = .next (traps i s s 0x02 (firstUnit i.shape) s.exec)) ∧
      (f.legal = some c → limits → s.exec = 0 → exec i s = .next (passes i s s))
    (∀ i ∈ [Instr.oclaim x, .orel x, .ofill x, .mmag x, .aclr x, .adrain x, .adrainRaw x, .adrainRawSlot x,
      .aload x, .aloadAdd x, .aloadRaw x, .mchk x, .mchkSt x], Ready i s → s.exec = 0 → exec i s = .next (passes i s s)) ∧
    checked (.mma x) (shaped ∧ 1 ≤ k ∧ k ≤ c.maxK ∧ shape.extractLsb' 24 8 = 0) ∧
    checked (.mmarow x) (lit.getLsbD 7 = false ∧ lit.getLsbD 15 = false ∧ lit.extractLsb' 24 8 = 0 ∧ 1 ≤ rc ∧ rc ≤ 64 ∧ 1 ≤ rn ∧
      rn ≤ 64 ∧ 1 ≤ rk ∧ rk ≤ c.maxK) ∧
    (ready (.oclaim x) → within → owned false → ∃ t, exec (.oclaim x) s = .next (passes (.oclaim x) s t) ∧ given t true) ∧
    (ready (.orel x) → within → owned true → (∀ k, k < 40 → nameBusy s k = false) →
      overlapped s (namedRange s (namedStores a b)) = false → ∃ t, exec (.orel x) s = .next (passes (.orel x) s t) ∧ given t false) ∧
    (ready (.ofill x) → 1 ≤ fillLines → fillLines ≤ 64 → b.extractLsb' 7 9 = 0 → FreeSlot s d →
      FreeRegion s addr 16 ((fillLines - 1) * fillPitch + 128) false →
      (x.fn.getLsbD 2 = true → FreeRegion s scaleAt 16 256 false) →
      ∃ t, exec (.ofill x) s = .next (passes (.ofill x) s t) ∧ t = { s with tm := { s.tm with slots := t.tm.slots }, eng := t.eng } ∧
        moved t d (lclRange s addr ((fillLines - 1) * fillPitch + 128) false ++
          if x.fn.getLsbD 2 then lclRange s scaleAt 256 false else []) ∧
        (∀ k, k ≠ d → slots t k = slots s k) ∧ (slots t d).owned = true ∧ (slots t d).st = .filling ∧
        (∀ i p, i < fillLines → p < 128 →
          peek (slots t d).bytes (goesAt i p) = (read (addr + i * fillPitch) 128).getD p 0) ∧
        (x.fn.getLsbD 2 = true → ∀ p, p < 256 → peek (slots t d).bytes (8192 + p) = (read scaleAt 256).getD p 0)) ∧
    (ready (.mma x) → f.legal = some c → shaped → 1 ≤ k → k ≤ c.maxK → shape.extractLsb' 24 8 = 0 → ReadySlot s (fieldNum x.a) →
      ReadySlot s o → TakesProducts s d → queues (.mma x) s (.slot (fieldNum x.a)) o m n k) ∧
    (ready (.mmarow x) → f.legal = some c → lit.getLsbD 7 = false → lit.getLsbD 15 = false → lit.extractLsb' 24 8 = 0 →
      1 ≤ rc → rc ≤ 64 → 1 ≤ rn → rn ≤ 64 → 1 ≤ rk → rk ≤ c.maxK → handleAt s (fieldNum x.a) = some h → h.dense = true →
      h.rank = 2 → h.efmt.toNat = f.a → h.bs = f.abs → FreeRegion s la 4 (4 * rc) false → ReadySlot s (fieldNum x.c) →
      TakesProducts s d → (∀ k, k < rc → lclPoisoned s s.tm.id (la + 4 * k) 4 = false) →
      queuedOn s s.tm.core + (quarters s rc).length ≤ 16 →
      (∀ k : State → List (Option (List (Nat × Nat))) → Res,
        withRows s h f.abs (getS s (fieldNum x.b + 1)).toNat ids rk k = k v rows) →
      queues (.mmarow x) v (.rows rows) (fieldNum x.c) rc rn rk) ∧
    (ready (.aclr x) → FreeTile s d → ∃ t, exec (.aclr x) s = .next (passes (.aclr x) s t) ∧ onlyTeam t ∧ t.eng = s.eng ∧
      inTile t d fun _ z => z.owned = true ∧ z.st = .filling ∧ z.poison = false ∧ z.flags = 0 ∧
        z.mode = BitVec.ofNat 2 f.acc ∧
        z.anchor = (if f.acc = 1 then (if x.fn.getLsbD 5 then b.setWidth 16 else f.anchor) else 0) ∧
        ∀ e, e < 4096 → peek z.elems e =
          if f.acc = 2 then BitVec.ofNat 128 (fmtF64.round .rne (fmtF32.value a.toNat)).1
          else if f.acc = 1 then BitVec.ofInt 128 a.toInt else a.setWidth 128) ∧
    (ready (.aload x) → shaped → FreeRegion s addr 16 span false → FreeTile s d →
      ∃ t, exec (.aload x) s = .next (passes (.aload x) s t) ∧ onlyTeam t ∧ moved t (32 + d) (lclRange s addr span false) ∧
        inTile t d fun _ z => z.owned = true ∧ z.st = .filling ∧ z.mode = BitVec.ofNat 2 f.acc ∧
          (f.acc = 1 → z.anchor = f.anchor) ∧ ∀ e, e < 4096 → peek z.elems e = element e) ∧
    (ready (.aloadAdd x) → shaped → FreeRegion s addr 16 span false → QuietTile s d → (tiles s d).mode.toNat = f.acc →
      ∃ t, exec (.aloadAdd x) s = .next (passes (.aloadAdd x) s t) ∧ onlyTeam t ∧ moved t (32 + d) (lclRange s addr span false) ∧
        inTile t d fun y z => z.owned = true ∧ z.st = .filling ∧ z.mode = y.mode ∧ z.anchor = y.anchor ∧
          ∀ e, e < 4096 → peek z.elems e =
            if e / 64 < m ∧ e % 64 < n then peek (addElem f y e (element e).toNat).elems e else peek y.elems e) ∧
    (ready (.aloadRaw x) → FreeRegion s addr 16 65552 false → FreeTile s d →
      let w : Word := BitVec.ofNat 32 (ofBytes (read (addr + 65536) 4))
      let keep := if w.extractLsb' 6 2 = 0 then 32 else if w.extractLsb' 6 2 = 2 then 64 else 128
      ∃ t, exec (.aloadRaw x) s = .next (passes (.aloadRaw x) s t) ∧ onlyTeam t ∧ moved t (32 + d) (lclRange s addr 65552 false) ∧
        inTile t d fun _ z => z.owned = true ∧ z.st = .filling ∧ z.mode = w.extractLsb' 6 2 ∧ z.flags = w.extractLsb' 0 6 ∧
          z.anchor = w.extractLsb' 16 16 ∧
          ∀ e, e < 4096 → peek z.elems e = BitVec.ofNat 128 (ofBytes (read (addr + 16 * e) 16) % 2 ^ keep)) ∧
    (ready (.adrain x) → ¬ (f.out = 9 ∧ profileN s = true) → shaped → FreeRegion s addr 16 outSpan true → QuietTile s o →
      (tiles s o).mode.toNat = f.acc → drained (.adrain x) (32 + o) outSpan drains fun t =>
        (m = 1 ∨ n * out ≤ pitch (n * out)) → ∀ i j, i < m → j < n →
          reads t (addr + i * pitch (n * out) + j * out) (toBytes out (code i j))) ∧
    (ready (.adrainRaw x) → FreeRegion s addr 16 65552 true → (tiles s o).owned = true → (tiles s o).st = .ready →
      tileBusy s s.tm.id o = false → soundTile → drained (.adrainRaw x) (32 + o) 65552 drains fun t =>
        (∀ e, e < 4096 → reads t (addr + 16 * e) (toBytes 16 (peek (tiles s o).elems e).toNat)) ∧
        reads t (addr + 65536) (toBytes 16 ((tiles s o).flags.toNat + 64 * (tiles s o).mode.toNat + 65536 * (tiles s o).anchor.toNat))) ∧
    (ready (.adrainRawSlot x) → FreeRegion s addr 16 8448 true → (slots s o).owned = true → (slots s o).st = .ready →
      overlapped s (slotRange s o false) = false → mmagFills s s.tm.id o = false → sound → drained (.adrainRawSlot x) o 8448
        (fun t => slots t o = { slots s o with st := .draining }) fun t =>
          ∀ b, b < 8448 → reads t (addr + b) [peek (slots s o).bytes b]) ∧
    (ready (.mchk x) → QuietTile s (fieldNum x.a) → (tiles s (fieldNum x.a)).mode.toNat = f.acc →
      (checkTile (checksOn s) (tiles s (fieldNum x.a))).1 ∉ [1, 3] → exec (.mchk x) s = .next (passes (.mchk x) s s)) ∧
    (ready (.mchkSt x) → QuietTile s (fieldNum x.a) → (tiles s (fieldNum x.a)).mode.toNat = f.acc →
      exec (.mchkSt x) s = .next (passes (.mchkSt x) s
        (resultS s d (BitVec.ofNat 32 (checkTile (checksOn s) (tiles s (fieldNum x.a))).1)))) ∧
    (issues → allOk → idle → ¬ formed → joins none fun t y =>
      y = { old with joined := all, last := v.gt } ∧ untouched t) ∧
    (issues → allOk → idle → formed → agreed →
      (∀ y ∈ all, team y.member ≠ 0 ∧ (∀ k, k < 4 → (slotAt (findTeam v (team y.member)) (os + k)).owned = true) ∧
        ∀ z ∈ all, team y.member = team z.member → y.member = z.member) →
      joins none fun t y => y.began = true ∧ y.fail = none ∧ ∀ z ∈ all, delivered t z ∧ queued t z) ∧
    (issues → allOk → idle → formed → (∃ y ∈ old.joined, y.words ≠ words) → fails none (0x02, 0)) ∧
    (issues → formed → agreed →
      (¬ within4 → refuses (0x02, 0)) ∧
      (within4 → ¬ okA → refuses (0x16, BitVec.ofNat 64 addrA)) ∧
      (within4 → okA → ¬ okB → refuses (0x16, BitVec.ofNat 64 addrB)) ∧
      (within4 → okA → okB → addrA % 16 ≠ 0 → refuses (0x10, BitVec.ofNat 64 addrA)) ∧
      (within4 → okA → okB → addrA % 16 = 0 → addrB % 16 ≠ 0 → refuses (0x10, BitVec.ofNat 64 addrB)) ∧
      ∀ k, within4 → okA → okB → addrA % 16 = 0 → addrB % 16 = 0 → k < 4 → okS k → (slotAt v.tm (os + k)).owned = false →
        refuses (0x23, slotName (os + k))) ∧
    (ready (.mmag x) → s.sp.request = some q → q.op = 0xB4 → q.pc = s.sp.pc → findRdv s s.gang.id (q.words.headD 0).toNat = some r →
      (r.ran s.tm.member = 4 → exec (.mmag x) s = .next (passes (.mmag x) s left)) ∧
      (r.ran s.tm.member ≠ 4 → r.began = true →
        (r.fail = none → exec (.mmag x) s = .next (park .rendezvous s)) ∧
        ∀ cause addr, r.fail = some (cause, addr) → exec (.mmag x) s = .next (traps (.mmag x) s left cause
          (if cause = 2 then firstUnit (Instr.mmag x).shape else addr) s.exec)))

/-- R290, R291, R294, R296 to R298, R272 to R277, R323: `isect` gives each active lane the words' common bits and the running positions, and
its Block the sums; `isdot` adds the exact sum of the products of all matches; `sptile` stores a tile's converted elements and
writes their bytes' number; `lshfam` puts a family, and under a rehash the old one, into its register; `lshproj`, once a token and
a band are free, gives each lane below L its keys; the array starts the pass whose turn it is, and a pass whose cycles have passed
takes effect on its tiles: each element of its quarters' rows and columns accumulates the products of its row of A and its column of B,
scaled, and every other element stays; a pass of an `mmag` is over for its team once none of its quarters is left, and the quarters of the
next one are queued, unless the gang is halting. That a tile's elements change at the end of the pass is log 46 (DESIGN CHOICE), that each
lane of `lshproj` sets its own flags log 95 (DEDUCED). -/
def Obligations.SparseAndHashInstructionsComplete : Prop :=
  ∀ (s v w : State) (x : Args) (h : TRec) (f : Fam) (a m' : Nat) (l m : List (Elem × List Byte × Bool)) (core pass : Nat)
      (qs : List Quarter) (p : Pass), s.wf = true →
    let ready := fun (i : Instr) => Ready i s ∧ s.exec ≠ 0
    let blk := fieldNum x.c
    let d := x.d.toNat
    let wa := fun (k : Nat) => if k ∈ activeLanes s then BitVec.ofNat 32 (vec32 s x x.a k) else (0 : Word)
    let wb := fun (k : Nat) => if k ∈ activeLanes s then BitVec.ofNat 32 (vec32 s x x.b k) else (0 : Word)
    let upto := fun (g : Nat → Word) (k : Nat) => BitVec.ofNat 32 ((List.range k).map fun j => popCount (g j)).sum
    let none_ := fun (t : List Nat) => BitVec.ofNat 32 (t.filter fun k => decide (wa k &&& wb k = 0)).length
    let pos := fun (g : Nat → Word) (n k : Nat) => getS s (blk + n) + upto g k
    let walk := (bitmapWalk s x (getS s (blk + 4)).toNat (getS s (blk + 5)).toNat 0).1
    let at_ := fun (n i : Nat) => ((getPair s (blk + n)).toNat + i) % 2 ^ 64
    let acc : Access :=
      { elems := walk.flatMap fun e => (matchesOf e).flatMap fun y =>
          [{ lane := e.lane, va := at_ 0 y.1 }, { lane := e.lane, va := at_ 2 y.2 }]
        size := 1, write := false, scalar := false }
    let int := fun (e : Elem × List Byte × Bool) => intOf (if x.ty = .i8 then .i8 else .n8) (ofBytes e.2.1)
    let dot := ((chunksOf l.length 2 l).map fun c => (c.map int).foldl (· * ·) 1).sum
    let old := getPair v d
    let total : Int := (if x.ty = .i8 then old.toInt else (old.toNat : Int)) + dot
    let lo : Int := if x.ty = .i8 then -2 ^ 63 else 0
    let hi : Int := if x.ty = .i8 then 2 ^ 63 - 1 else 2 ^ 64 - 1
    let clamped := max lo (min hi total)
    let fm := mfmt s.sp.fmt
    let va := (pairOf s x.a).toNat
    let n := fieldNum x.b
    let codes := drainCodes s x (tileAt s.tm n) 64 64
    let bytes := tileBytes h.size h.budget.toNat (codes.map fun c => c.2.2.1)
    let pieces := chunksOf bytes.length 8 bytes
    let puts := ((List.range pieces.length).zip pieces).map fun y =>
      ({ lane := 0, va := (va + 8 * y.1) % 2 ^ 64, bytes := y.2, poison := false } : Put)
    let fva := (pairOf s x.a + (scalar32 s x x.b).signExtend 64).toNat
    let words := (blockValues l).flatMap wordsOf
    let olds := (blockValues m).flatMap wordsOf
    let r := parseFamily words (BitVec.ofNat 64 fva)
    let o := parseFamily olds r.oldfam
    let base := (scalar32 s x x.b).toNat
    let size := f.new.d * (x.ty.bits / 8)
    let xs := projInputs s x.ty base f.new.d
    let new := fun (k : Nat) => keyOfTable f.new a xs k
    let prior : Nat → Nat × Bool := fun k => match f.old with | some y => keyOfTable y m' xs k | none => new k
    let one := { s with sched := { s.sched with nextId := s.sched.nextId + 1 } }
    let tile := fun (t : State) (tid n : Nat) => tileAt (findTeam t tid) n
    let inside := fun (y : Quarter) (e : Nat) => 16 * y.q ≤ e / 64 ∧ e / 64 < 16 * y.q + 16 ∧ e / 64 < y.m ∧ e % 64 < y.n
    (∀ i ∈ [Instr.isect x, .isdot x, .sptile x, .lshproj x], Ready i s → s.exec = 0 → exec i s = .next (passes i s s)) ∧
    (ready (.isect x) → ∃ t, exec (.isect x) s = .next t ∧ placed (.isect x) s t (pcAfter (.isect x) s) ∧
      t = { s with
        g := { s.g with sregs := t.g.sregs, vregs := t.g.vregs, poison := t.g.poison, latches := t.g.latches, latchVec := t.g.latchVec }
        sp := { s.sp with pc := t.sp.pc, wait := t.sp.wait, since := t.sp.since, chain := t.sp.chain } } ∧
      (∀ q k, k < 32 → getV t q k = if x.sup = false ∧ k ∈ activeLanes s then
          (if q = d then wa k &&& wb k else if q = d + 1 then pos wa 0 k else if q = d + 2 then pos wb 1 k
           else if q = d + 3 then pos (fun j => wa j &&& wb j) 2 k else getV s q k)
        else getV s q k) ∧
      getS t blk = pos wa 0 32 ∧ getS t (blk + 1) = pos wb 1 32 ∧ getS t (blk + 2) = pos (fun j => wa j &&& wb j) 2 32 ∧
      getS t (blk + 3) = getS s (blk + 3) + none_ (activeLanes s) ∧
      ∀ k, k < blk ∨ blk + 4 ≤ k → getS t k = getS s k) ∧
    (ready (.isdot x) → Mapped s acc → readAll (attributed s acc) acc.elems 1 true = (v, l) → (∀ e ∈ l, e.2.2 = false) →
      v.g.ftrap = 0 → v.exec ≠ 0 →
      exec (.isdot x) s = .next (passes (.isdot x) s (orFlags (setBlock (resultPair v d (BitVec.ofInt 64 clamped)) (blk + 4)
        [pos wa 4 32, pos wb 5 32, getS v (blk + 6) + none_ (activeLanes s)]) (if clamped = total then 0 else fFXO)))) ∧
    (ready (.sptile x) → ¬ (fm.out = 9 ∧ profileN s = true) → va % 64 = 0 → handleAt s blk = some h → h.efmt.toNat = fm.out →
      QuietTile s n → (tileAt s.tm n).mode.toNat = fm.acc → MappedStore s puts 1 true →
      exec (.sptile x) s = .next (passes (.sptile x) s (resultS (startDrain ((joinPuts puts).foldl putOne s) n
        (codes.foldl (fun y c => y ||| c.2.2.2) 0)) d (BitVec.ofNat 32 bytes.length)))) ∧
    (Ready (.lshfam x) s → fva % 128 = 0 → ReadsBlock s fva 128 v l → familyOk words = true →
      (r.rehash = false → exec (.lshfam x) s = .next (passes (.lshfam x) s (setFamily v d { new := r, old := none }))) ∧
      (r.rehash = true → r.oldfam.toNat % 128 = 0 → ReadsBlock v r.oldfam.toNat 128 w m → familyOk olds = true → o.rehash = false →
        o.l = r.l → o.d = r.d → exec (.lshfam x) s = .next (passes (.lshfam x) s (setFamily w d { new := r, old := some o })))) ∧
    (ready (.lshproj x) → s.tm.fams.getD (fieldNum x.a) none = some f → FreeRegion s base 1 size false →
      (∀ k, k < size / (x.ty.bits / 8) → lclPoisoned s s.tm.id (base + x.ty.bits / 8 * k) (x.ty.bits / 8) = false) → tokenNow s = true → freeBands s s.tm.core ≠ [] →
      (∀ k : State → Nat → Res, withMatrix s f.new k = k v a) →
      (∀ k : State → Nat → Res, withMatrix v (f.old.getD f.new) k = k w m') → w.g.ftrap = 0 →
      exec (.lshproj x) s = .next (passes (.lshproj x) s (orFlags
        (writeVec (holdBand w ((freeBands w w.tm.core).headD 0) f.new.d) x 64 fun k =>
          if k < f.new.l then (new k).1 + 2 ^ 32 * (prior k).1 else 0)
        (allFlags w fun k => if k < f.new.l ∧ ((new k).2 = true ∨ (prior k).2 = true) then fNV else 0)))) ∧
    (passNow s core = some qs → ∃ t, exec (.passStart core) s = .next t ∧ t = { one with mx := t.mx } ∧
      (∀ q, q ∈ t.mx.quarters ↔ q ∈ s.mx.quarters ∧ q ∉ qs) ∧
      ∃ y, t.mx.passes = s.mx.passes ++ [y] ∧ y.quarters = qs ∧ y.core = core ∧ y.tokens = qs.length ∧
        y.till = s.gt + passCycles qs) ∧
    (s.mx.passes.find? (fun y => y.id == pass) = some p → p.till ≤ s.gt → ∃ t, exec (.passEnd pass) s = .next t ∧
      t.mx.passes = s.mx.passes.filter (fun y => y.id != pass) ∧
      (∀ q, p.quarters = [q] → q.mmag = none → teamChecks s q.tid = false → quarterSick s q = false →
        t = updTile { s with mx := { s.mx with passes := t.mx.passes } } q.tid q.tile fun y => runQuarter s q false y) ∧
      ((∀ y ∈ p.quarters, y.n ≤ 64 ∧ ∀ z ∈ p.quarters, y.tid = z.tid → y.tile = z.tile → y.q = z.q → y = z) →
        (∀ tid n e, tid ≠ 0 → (∀ y ∈ p.quarters, ¬ (y.tid = tid ∧ y.tile = n ∧ inside y e)) →
          peek (tile t tid n).elems e = peek (tile s tid n).elems e) ∧
        (∀ y ∈ p.quarters, y.tid ≠ 0 → y.tile < (findTeam s y.tid).tiles.length → ∀ e, inside y e →
          (y.aRow s (e / 64) = none → peek (tile t y.tid y.tile).elems e = peek (tile s y.tid y.tile).elems e) ∧
          ∀ row, y.aRow s (e / 64) = some row → peek (tile t y.tid y.tile).elems e =
            peek (accumElem (tile s y.tid y.tile) y (e / 64) (e % 64) (y.products row (y.bCol s (e % 64)))).elems e)) ∧
      (∀ tid n, tid ≠ 0 → (tile t tid n).st = (tile s tid n).st ∧ (tile t tid n).mode = (tile s tid n).mode ∧
        (tile t tid n).anchor = (tile s tid n).anchor ∧ (tile t tid n).owned = (tile s tid n).owned) ∧
      (∀ y z op u r, p.quarters = y :: z → y.mmag = some (op, u) → findRdv s (findTeam s y.tid).gang op = some r →
        let member := (findTeam s y.tid).member
        let past := fun (q : Quarter) => q.tid ≠ y.tid ∨ q.mmag ≠ some (op, u)
        (∀ q ∈ s.mx.quarters, past q) → (∀ o ∈ s.mx.passes, o.id ≠ pass → ∀ q ∈ o.quarters, past q) →
        ∃ r', findRdv t (findTeam s y.tid).gang op = some r' ∧ r'.ran member = u + 1 ∧
          ((∃ k, (findGang s (findTeam s y.tid).gang).st = .halting k) → t.mx.quarters = s.mx.quarters) ∧
          ∀ j, (∀ k, (findGang s (findTeam s y.tid).gang).st ≠ .halting k) → (r.joined.find? fun j => j.member == member) = some j →
            let cols := (shapeOf (findGang s (findTeam s y.tid).gang).nteams).2
            let lit := j.words.getD 4 0
            let rows := min 64 ((lit.extractLsb' 0 10).toNat - (128 * (member / cols) + 64 * ((u + 1) / 2)))
            let width := min 64 ((lit.extractLsb' 10 10).toNat - (128 * (member % cols) + 64 * ((u + 1) % 2)))
            u + 1 < 4 → ∀ q, q < 4 → ∃ z ∈ t.mx.quarters, z.q = q ∧ z.mmag = some (op, u + 1) ∧
              z.tid = (memberTeam s (findTeam s y.tid).gang member).id ∧ z.tile = (j.words.getD 3 0).toNat + (u + 1) ∧
              z.m = rows ∧ z.n = width))

/-- R56, R87, R164, R165, R185, R192, R276, R310 to R316, R326 to R330, R345, R390, R394 to R396, R403: the events of scheduling take place.
A launch message is checked, queued and answered; the head that is due is placed, with its teams and groups; priorities age, reservations
are made and, after their time, their residents are asked to halt; groups, teams and grids retire; counters are assigned and queues opened
or closed; a gang is asked to halt, halts, its handlers' registers and its teams' memories being kept as they then stand, is saved, and is
placed again with them; a context or a launch that is ended has its groups stop and its queue entries and logged stores go, and later
leaves; a launch is rolled back and replayed at its queue's head, or its context ended; a debugger holds, resumes or ends; a rendezvous
watchdog fires; an object is loaded or unloaded, and reported; and words that are no instruction raise their cause. The model's choices:
each bay's first gang leaves event 0x20 (log 99), which of a saved gang and a head of equal priority goes first (log 100), a context that
was ended begins anew (log 102), from when 2^22 cycles count (log 103), the words of a reply (log 106), what the loader needs (log 135), the
save area (log 171; a gang for which there is no room is not asked), the disposition a handler leaves due (log 12), which is due too once a
debugger that holds a group is detached; that a grid's end adds 1 to its counter whoever owns it by then (log 169), and that a reservation
stands although its queue is closed (log 170), both DESIGN CHOICE, unsafe; that a halted gang's registers and memories are captured as they
stand and restored at resumption (log 97, DEDUCED, unsafe), and what a termination, a kill and a rollback wait for (log 104, DEDUCED). -/
def Obligations.SchedulingEventsComplete : Prop :=
  ∀ (s u : State) (queue q c o gid tid lid gang ctr since : Nat) (words : List Word) (code n : BitVec 8) (page : Nat) (status : Word)
      (e : QEntry) (rest : List QEntry) (d : DueReserve) (b : Nat × Nat × Nat) (l : List (Nat × Nat × Nat)) (asid : BitVec 16) (r : Rendezvous)
      (x : Ctx) (attached : Bool) (text pool data first : DWord) (bytes : List Byte) (m at_ : Nat), s.wf = true →
    let on := s.dev.power = .on
    let rcd := parseLaunch words
    let declined := dispatcherDeclined s rcd.asid
    let standing := { s with sched := { s.sched with reserves := s.sched.reserves.filter (liveReserve s) } }
    let g := findGroup s gid
    let t := findTeam s tid
    let launch := findLaunch s lid
    let ga := findGang s gang
    let own := findLaunch s ga.launch
    let merged := mergeLaunches s [lid]
    let bays := merged.gangs.foldl (fun l y => if y.launch == lid then addOnce (y.cluster / 4) l else l) []
    let ended := bays.foldl (fun s bay => bbEvent s bay 0x21 0xFF launch.rcd.asid (launchField launch)) (removeLaunches merged [lid])
    let away := fun (t : State) (lids : List Nat) => (∀ y ∈ t.launches, y.id ∉ lids) ∧ ∀ y ∈ t.gangs, y.launch ∉ lids
    let stops := fun (t : State) (asid : BitVec 16) (code : BitVec 8) =>
      (∀ y, findCtx s asid = some y → y.closing = none → findCtx t asid = some { y with closing := some code }) ∧
      (∀ k, (queueAt s k).asid = some asid → (queueAt t k).opened = false ∧ (queueAt t k).entries = []) ∧
      t.mem.side = s.mem.side.filter (fun y => y.asid != asid) ∧
      ∀ id, id ≠ 0 → (findGroup s id).id = id → (launchOfGroup s (findGroup s id)).rcd.asid = asid → (findGroup t id).halted = true
    let alive := ending s launch = false ∧ doomed s launch = false
    let spared := (∀ y ∈ s.gangs, y.save.isSome = true)
    let admitted := admitCtx s asid
    let stays := ∀ y, findCtx admitted asid = some y → y.closing = none
    let runs := fun (id : Nat) => (findGang s id).st = .running ∧ (findGang s id).retired = false
    let asked := fun (t : State) (id : Nat) => (findGang t id).st = .halting s.gt ∨ (findGang t id).save = none
    let heldAny := (allGroups s).any fun y => (launchOfGroup s y).rcd.asid == asid && y.id != 0 && debugHeld s y
    let may := fun (y : Group) => !goesToPoint s y since && y.late.isEmpty && !(splitsOf s y.id).any mustFinish
    let entered := ((gangGroups s gang).filter stillRuns).foldl (fun t y => if may y then haltGroup t y else t) s
    let still := ((gangGroups entered gang).filter stillRuns).all fun y => (savesNow y || y.halted) && y.late.isEmpty
    let settled := (gangTeams entered gang).all fun y => y.freed || teamSettled entered y
    let drained := (gangGroups s gang).foldl (fun s g => mergeGroup s g.id) s
    let lids := ctxLaunches s asid
    let tangled := mergeLaunches s (tangledWith s.launches.length s [lid])
    let ids := tangledWith tangled.launches.length tangled [lid]
    let holder := (launchOfGroup s g).rcd.asid
    let held := g.id ≠ 0 ∧ g.inHandler = true ∧ (g.entry = 0x0A ∨ g.entry = 0x0B) ∧ g.halted = false
    let base := fun (ty : Nat) => (if ty = 2 then text else if ty = 3 then pool else data).toNat
    let notes := sectionBytes bytes 1
    let level := (s.dev.cap0.setWidth 8).toNat
    let report := fun (notes : List Byte) (code at_ : Nat) => [BitVec.ofNat 64 (code + fieldAt notes 0 1 * 2 ^ 8 +
      fieldAt notes 1 1 * 2 ^ 16 + fieldAt notes 3 1 * 2 ^ 24 + level * 2 ^ 32), BitVec.ofNat 64 at_]
    let known := on ∧ (findCtx s asid).isSome = true
    (on → hostUp s = true → submit s queue words none declined = .status status u → ∃ t, exec (.launchMessage queue words) s = .next t ∧
      t.rel.replies = u.rel.replies ++ [[status.setWidth 64]] ∧ (queue, words) ∉ t.sched.messages ∧ t.sched.queues = u.sched.queues) ∧
    (on → hostUp s = true → submit s queue words none declined = .ask page → ∃ t, exec (.launchMessage queue words) s = .next t ∧
      (queue, words) ∈ t.sched.messages ∧ ∃ a ∈ t.mem.asks, a.asid = rcd.asid ∧ a.page = page ∧ 0 ∈ a.gids) ∧
    (on → (0x0A, 0) ∉ s.dev.retired → ¬ ((0x0C, 1) ∈ s.dev.retired ∧ (0x0C, 2) ∈ s.dev.retired) → queue < 64 → launchReserved words = true → launchRanges rcd = true → launchCounters s rcd = true → shapeFits s rcd = true →
      checkEntry s rcd = .ok → (queueAt s queue).asid = some rcd.asid → (queueAt s queue).entries.length < 128 →
      submit s queue words none declined = .status 0 (enqueue s queue rcd)) ∧
    (running s = true → bestHead s = some (q, e, c, o) → ∃ t y, exec .gangPlacement s = .next t ∧ t.gangs = s.gangs ++ [y] ∧
      y.index = e.placed ∧ y.cluster = c ∧ y.origin = o ∧ y.nteams = e.rcd.teams ∧ y.retired = false ∧ y.st = .running ∧
      t.teams.length = s.teams.length + e.rcd.teams ∧ t.groups.length = s.groups.length + e.rcd.teams * e.rcd.groups) ∧
    (∃ t, exec .priorityAging s = .next t ∧ t = { s with sched := { s.sched with queues := t.sched.queues } } ∧
      ∀ since, (queueAt s q).entries = e :: rest → e.since = some since → e.prio7 = none →
        (queueAt t q).entries = (if sevenAt e.rcd.prio since ≤ s.gt then
          { e with prio7 := some (if e.placed = 0 then sevenAt e.rcd.prio since else s.gt) } else e) :: rest) ∧
    (∃ t, exec .reservation s = .next t ∧ t = { s with sched := { s.sched with reserves := t.sched.reserves } } ∧
      (∀ v ∈ standing.sched.reserves, v ∈ t.sched.reserves) ∧
      (reserveDue standing = [d] → sortBy (fun (y : Nat × Nat × Nat) => y.2.2) (reserveBlocks standing d.rcd) = b :: l →
        t.sched.reserves = standing.sched.reserves ++ [{ queue := d.queue, pos := d.pos, gang := d.gang, cluster := b.1, origin := b.2.1
                                                         teams := d.rcd.teams, since := s.gt }])) ∧
    (∃ t, exec (.reservationPreempt queue) s = .next t ∧ (spared → t = { s with gangs := t.gangs }) ∧
      ∀ v ∈ s.sched.reserves, v.queue = queue → liveReserve s v = true → v.since + 2 ^ 22 ≤ s.gt → ∀ core ∈ v.cores,
        ∀ y ∈ residents s core, runs y.gang → asked t y.gang) ∧
    (g.id ≠ 0 → g.retired = false → whollyExited g = true → sideOut s gid = false → g.late = [] →
      ending s (launchOfGroup s g) = false → (launchOfGroup s g).killed = false →
      exec (.groupRetire gid) s = .next (updGroup (mergeGroup s gid) gid fun y => { y with retired := true })) ∧
    (t.id ≠ 0 → t.freed = false → (runs t.gang ∨ ∃ k, (findGang s t.gang).st = .halting k) → teamBusy s t = false →
      ending s (findLaunch s (findGang s t.gang).launch) = false →
      (∀ y ∈ allGroups s, y.team = tid → y.id ≠ 0 → y.retired = true) →
      exec (.teamRetire tid) s = .next (retireGang (updTeam s tid freedTeam) t.gang)) ∧
    (launch.id ≠ 0 → launch.rollback = false → launch.killed = false → alive → launch.placed = launch.rcd.gangs →
      launch.retired = launch.rcd.gangs → writesDone merged [lid] = true →
      exec (.gridComplete lid) s = .next (if launch.rcd.sigen then addCounter ended launch.rcd.sigctr 1 else ended) ∧
      away (removeLaunches merged [lid]) [lid]) ∧
    (on → ctr < 4096 → asid ≠ 0 → stays → ∃ t, exec (.counterAssign ctr (some asid)) s = .next t ∧ counterOf t ctr = 0 ∧
      ∀ y, ownsCounter t y ctr = true ↔ y = asid) ∧
    (on → ctr < 4096 → ∃ t, exec (.counterAssign ctr none) s = .next t ∧ ∀ y k, ownsCounter t y k = true ↔
      ownsCounter s y k = true ∧ k ≠ ctr) ∧
    (on → queue < 64 → asid ≠ 0 → stays → heldQueue admitted queue = false →
      checkpointHolds admitted asid = false →
      ((queueAt s queue).asid = some asid ∨ (queueAt s queue).entries = []) →
      exec (.queueOpen queue (some asid)) s = .next (noteEligible (updQueue admitted queue fun y => { y with opened := true, asid := some asid }))) ∧
    (on → queue < 64 → ∃ t, exec (.queueOpen queue none) s = .next t ∧ (queueAt t queue).opened = false ∧
      (queueAt t queue).entries = (queueAt s queue).entries ∧ ∀ k, k ≠ queue → queueAt t k = queueAt s k) ∧
    (runs gang → ∃ t, exec (.preemptRequest gang) s = .next t ∧ asked t gang ∧
      (ga.save.isSome = true → t = { s with gangs := t.gangs }) ∧
      ∀ va, ga.save = none → freeVa s own.rcd.asid (Config.saveSize gang % 10) (Config.savePlace gang) = some va →
        (findFrames s va.toNat (Config.saveSize gang % 10)).isSome = true → (findGang t gang).save = some va) ∧
    (ga.st = .halting since → exec (.gangHalt gang) s = .next (if still && settled then haltedGang entered gang else entered) ∧
      (∀ y ∈ (gangGroups s gang).filter stillRuns, y = findGroup s y.id → may y = true →
        savesNow (findGroup entered y.id) = true ∨ (findGroup entered y.id).halted = true) ∧
      ∀ id, id ≠ 0 →
        ((findGang entered gang).id = gang → (findGang (haltedGang entered gang) gang).st = .halted entered.gt) ∧
        (let y := findGroup entered id
         y.id = id → savesNow y = true → (findTeam entered y.team).gang = gang →
          ∃ m, (findGroup (haltedGang entered gang) id).image = some m ∧ m.sregs = y.sregs ∧ m.vregs = y.vregs ∧ m.masks = y.masks ∧
            m.latches = y.latches ∧ m.poison = y.poison ∧ m.flags = y.flags ∧ m.ftrap = y.ftrap ∧ m.rkey = y.rkey) ∧
        let y := findTeam entered id
        y.id = id → y.gang = gang → y.freed = false →
          ∃ m, (findTeam (haltedGang entered gang) id).image = some m ∧ m.lcl = y.lcl ∧ m.lclPoison = y.lclPoison ∧
            m.slots = y.slots ∧ m.tiles = y.tiles ∧ m.ltm = y.ltm) ∧
    (ga.st = .halted since → (∀ y ∈ gangGroups s gang, stillRuns y = true → y.halted = true) →
      (∀ y ∈ gangGroups drained gang, storesOut drained y.id = false ∧ sideOut drained y.id = false ∧ y.ch ≤ drained.gt) →
      (∀ y ∈ gangTeams drained gang, ∀ z ∈ drained.eng.cmds, z.tid ≠ y.id) → mayHaveSeen drained gang = false →
      exec (.saveComplete gang) s = .next (updGang drained gang fun y => { y with st := .saved since })) ∧
    (running s = true → resumable s ga = some since → findPlace s own.rcd (gangReserve s gang) = some (c, o) →
      effPrio own.rcd.prio since s.gt = topPrio s → ∃ t, exec (.gangResume gang) s = .next t ∧
        (findGang t gang).st = .running ∧ (findGang t gang).cluster = c ∧ (findGang t gang).origin = o ∧
        (∀ id, let y := findTeam s id
          id ≠ 0 → y.id = id → y.gang = gang → y.freed = false → y.member < own.rcd.teams →
          (∀ z ∈ allTeams s, z.id = id ∨ (z.gang = gang ∧ z.member = y.member) → z = y) →
          let cols := (shapeOf own.rcd.teams).2
          (findTeam t id).core = 16 * c + o + y.member / cols * 4 + y.member % cols ∧ (findTeam t id).image = none ∧
            ∀ m, y.image = some m → (findTeam t id).lcl = m.lcl ∧ (findTeam t id).ltm = m.ltm) ∧
        ∀ id, let y := findGroup s id
          id ≠ 0 → y.id = id → y.retired = false → (findTeam s y.team).gang = gang →
          (findGroup t id).halted = false ∧ (findGroup t id).pointAware = false ∧
            ∀ m, y.image = some m → (findGroup t id).sregs = m.sregs ∧ (findGroup t id).vregs = m.vregs ∧
              (findGroup t id).masks = m.masks ∧ (findGroup t id).flags = m.flags) ∧
    (∃ t, exec (.contextSwitch asid) s = .next t ∧
      (∀ k, (queueAt s k).asid = some asid → (queueAt t k).opened = false ∧ (queueAt t k).entries = (queueAt s k).entries) ∧
      (∀ k, t.dev.checkpoint = some k → ∀ y ∈ k.closed, (queueAt s y).asid ≠ some asid) ∧
      ∀ id, runs id → (findLaunch s (findGang s id).launch).rcd.asid = asid → asked t id) ∧
    (ga.away = true → ga.retired = false → shapeFits s own.rcd = false → ga.unfit = some since → since + 2 ^ 22 ≤ s.gt →
      ∃ t, exec (.unplaceableTerminate gang) s = .next t ∧ stops t own.rcd.asid 3) ∧
    (rdvFires s gang = some r → ∃ t ws, exec (.rendezvousTimeout gang) s = .next (ws.foldl (fun t w => trapWaiter 0x21 17 t w) t) ∧
      (∀ y, findRdv s gang r.op = some y → findRdv t gang r.op = some { y with joined := [], last := s.gt }) ∧
      ws = r.joined.filterMap fun j => (rdvWaiters s (memberTeam s gang j.member).id r.op).head?) ∧
    (findCtx s asid = some x → x.gone = false →
      (x.closing = none → code = 1 → ∃ t, exec (.contextTerminate asid code) s = .next t ∧ stops t asid 1) ∧
      (x.closing = none → code ≠ 1 → exec (.contextTerminate asid code) s = .next s) ∧
      away (removeLaunches (mergeLaunches s lids) lids) lids ∧
      (x.closing = some n → workOver s lids = true → exec (.contextTerminate asid code) s = .next (terminateRecord
        (updCtx (removeLaunches (mergeLaunches s lids) lids) asid fun y => { y with gone := true, killedGangs := liveGangs s lids })
        asid n 0xFFFFFFFF (liveGangs s lids)))) ∧
    (launch.id ≠ 0 → (launch.killed = false → ∃ t, exec (.launchKill lid) s = .next t ∧ (findLaunch t lid).killed = true ∧
        (∀ y ∈ (queueAt t launch.queue).entries, y.running ≠ some lid) ∧
        t.mem.side = s.mem.side.filter (fun y => !((allGroups s).any fun z => z.id != 0 && (launchOfGroup s z).id == lid && z.id == y.gid)) ∧
        ∀ id, id ≠ 0 → (findGroup s id).id = id → (launchOfGroup s (findGroup s id)).id = lid → (findGroup t id).halted = true) ∧
      (launch.killed = true → workOver s [lid] = true → exec (.launchKill lid) s = .next (terminateRecord
        (removeLaunches merged [lid]) launch.rcd.asid 2 (launchField launch) (liveGangs s [lid])))) ∧
    (launch.id ≠ 0 → launch.rollback = true → (∀ y, findCtx s launch.rcd.asid = some y → y.closing = none) →
      workOver (startRollback tangled lid) ids = true → ∃ t, exec (.rollback lid) s = .next t ∧
        ((∃ y ∈ (startRollback tangled lid).launches, y.id ∈ ids ∧ y.unroll = true) →
          ∀ y ∈ (startRollback tangled lid).launches, y.id ∈ ids → ∀ z, findCtx t y.rcd.asid = some z → z.closing.isSome = true) ∧
        ((∀ y ∈ (startRollback tangled lid).launches, y.id ∈ ids → y.unroll = false) → away t ids ∧
          ∀ y, (startRollback tangled lid).launches.filter (fun z => ids.contains z.id) = [y] →
            ((∀ z, findCtx (startRollback tangled lid) y.rcd.asid = some z → z.errq = none) →
              t.mem.phys = (restoreSnaps (startRollback tangled lid).mem [y]).phys) ∧
            (3 ≤ y.replay → ∀ z, findCtx t y.rcd.asid = some z → z.closing.isSome = true) ∧
            (y.replay < 3 → y.queue < s.sched.queues.length → ∃ z rest, (queueAt t y.queue).entries = z :: rest ∧ z.pos = y.pos ∧
              z.rcd = y.rcd ∧ z.replay = y.replay + 1 ∧ z.placed = 0 ∧ z.running = none))) ∧
    (held → (∃ t, exec (.debugResume gid true) s = .next t ∧ stops t holder 1) ∧
      (debugHeld s g = true → exec (.debugResume gid false) s = .next (resumeHeld (focus s { gid := gid, sp := g.tsplit.toNat })) ∧
        (g.tpcw = false → (resumeHeld (focus s { gid := gid, sp := g.tsplit.toNat })).g.inHandler = false)) ∧
      (debugHeld s g = false → ∃ t, exec (.debugResume gid false) s = .next t ∧ stops t holder 1)) ∧
    (∃ t, exec (.debuggerAttach asid attached) s = .next t ∧ findCtx t asid = (findCtx s asid).map fun y =>
      { y with debugger := attached, due := y.due || (heldAny && !attached) }) ∧
    (code = 1 ∨ code = 2 → ∃ t, exec (.illegalInstruction code first) s = .next t ∧
      t = takeTrap s { cause := code, addr := first, lanes := s.exec } s.sp.chain.isSome s.sp.pc) ∧
    (on → exec (.loadObject asid text pool data none) s = .next (unloadObject s asid pool) ∧
      (refusalOf s bytes = some (m, at_) → exec (.loadObject asid text pool data (some bytes)) s = .next
        (reply s (report (if m = 0x10 ∨ m = 0x11 then [] else notes) m at_))) ∧
      (refusalOf s bytes = none → (∀ ty ∈ [2, 3, 4], ∀ y, sectionOf bytes ty = some y → base ty % 2 ^ min y.align 64 = 0) →
        let home := if known ∨ asid = 0 then s else admitCtx s asid
        (∀ ty ∈ [2, 3, 4], spanMapped home asid (base ty) (sectionBytes bytes ty).length (ty == 2) = true) →
        exec (.loadObject asid text pool data (some bytes)) s = .next (reply (placeObject home asid base bytes)
          (report notes (if level < fieldAt notes 1 1 ∨ level < fieldAt notes 3 1 then 1 else 0) 0))))

/-- R22, R23, R31, R33, R34, R129, R130, R132, R322, R334, R335, R345 to R359, R384, R405 to R421: the events of the fabric and of the
device take place. Replies, tokens and acknowledgements act as told, and a lost destination fails what waits for it; a grant, of a VA that a
window may yield, goes to the port that asked, a refusal to the groups that wait; a revocation takes every entry of the page; a checkpoint
begins, streams or is abandoned, and an image is restored or not; the device starts with firmware that verifies, and else only answers, and
an MP that has failed takes no launches before a cold start; a stop lowers the domains one by one; the supply is lost, a domain does not
come up; the MP attests, runs the power loop and copies the black boxes; hardware clamps a hot bay; transfers are resent; units, layers and
links that meet their thresholds retire; a mismatch of redundant executions is voted on, and a transient counts as a lane's; pages move to
free frames while one remains for any, then evictable blocks go, and then other contexts end; a bay is fenced with what stands in its
placement; targets are tested. The model's choices: how tokens and replies are named and what a token counts (log 109), a grant's page (17),
what a denial may follow (145), what a restore needs (107), replies to the control node (106, 115), a start and a stop as events, what they
do first and what they are told (113, 114, 118), a failed MP and bay 0 (110, 168), the power loop (123), which transfers are resent (125),
when a unit over its threshold goes (127), where a mismatch comes from (68), the lane of a transient and the records of units due at a stop
(182), that an atomic waits with its cause for a handler of its group (212), what a dead link ends (213), what a clamp cuts off (214), the
CODE of a bay's fence at a start (211), when a device is reached again (210), the halves of a core (126, 128), the pools (132, 146), the
order of moves and of evictions (29, 131), where snapshots stand (174), the bound of a fence and what it takes (129), the tests (149, 150).
-/
def Obligations.DeviceEventsComplete : Prop :=
  ∀ (s : State) (gid sp n k d cls idx stack layer bay core half place : Nat) (values failed : List DWord) (bad : List Nat) (q : Request)
      (tok : Token) (asid : BitVec 16) (va : DWord) (e : Asked) (w : WindowTarget) (dev : BitVec 12)
      (asids : List (BitVec 16)) (safe : SafePlace) (c : Checkpoint) (image : List ImageCtx) (places : List (Nat × Nat)) (u : State)
      (i : StartInput) (nonce bytes : List Byte) (r : PowerReading) (code : BitVec 8) (y : Mismatch) (p : Quad)
      (pfn : BitVec 24) (whole ok : Bool) (due : Due) (test : FieldTest),
    let on := s.dev.power = .on
    let t := focus s { gid := gid, sp := sp }
    let op := AtomOp.ofWord (q.words.getD 1 0)
    let a := answerLanes op values (unpackLanes (q.words.drop 2)) t
    let z := if a.2.any AtomLane.open then (a.1, (q.words.headD 0).toNat, a.2) else atomLanes op a.2 a.1 (q.words.headD 0).toNat
    let lost := (openLanes q).filter (laneLost t)
    let shut := if a.2.any AtomLane.open then [] else a.2.filter fun x => (laneDenied a.1 x).isSome
    let logged := (shut.filterMap (laneDenied a.1)).foldl (fun (v : State) ph => logViolation v ph mkContext a.1.asid true) a.1
    let fails := fun (t : State) (cause : BitVec 8) (l : List AtomLane) =>
      takeTrap { heard t t.g.id with sp := { t.sp with request := none } }
        { cause := cause, addr := BitVec.ofNat 64 (lowest (l.map fun x => x.va))
          lanes := l.foldl (fun (m : Word) x => m ||| BitVec.ofNat 32 (2 ^ x.lane)) 0 } t.sp.chain.isSome q.next
    let page := va.toNat % 2 ^ 54 / 4096
    let at_ := dev.toNat * 2 ^ 42 + va.toNat % 2 ^ 42
    let granted : Grant :=
      { port := e.port, asid := asid, dev := BitVec.ofNat 12 (peerOf va.toNat), size := w.size % 10
        page := va.toNat % 2 ^ 42 / (4096 * 4 ^ (w.size % 10)), tasid := w.asid, target := w.va }
    let closed := closeMp s
    let kept := { closed with dev := { closed.dev with startNo := closed.dev.startNo + 1 } }
    let running_ := running s = true
    let down := fun (v : State) (p : Power) => v.dev.power = p ∧ v.dev.pool = 1024 ∧ v.g.id = 0 ∧ v.groups = [] ∧ v.teams = [] ∧
      v.gangs = [] ∧ v.launches = [] ∧ v.mem = MemSys.reset ∧ v.dev.startNo = s.dev.startNo
    let window := fun (x : UnitId) (a : Nat) =>
      (recentErrs s x .corrected ++ recentErrs s x .uncorrectable).all fun b => decide (b < a + 2 ^ 24)
    let good := fun (x : UnitId) => (recentErrs s x .corrected).filter (window x)
    let worse := fun (x : UnitId) => (recentErrs s x .uncorrectable).filter (window x)
    let portOver := fun (x : UnitId) => 1 ≤ (worse x).length ∨ 64 ≤ (good x).length
    let busOver := fun (x : UnitId) => 64 ≤ (good x).length ∨ 2 ≤ (worse x).length
    let linkOver := fun (x : UnitId) => 256 ≤ (good x).length + (worse x).length ∨
      8 ≤ ((worse x).filter fun a => (good x).all fun b => decide (b < a)).length
    let out := fun (v : State) (x : UnitId) => x ∈ v.dev.retired
    let leaving := fun (v : State) (x : UnitId) => out v x ∨ ∃ b ∈ v.dev.due, b.unit = x
    let linkGone := fun (v : State) => out v (cls, idx) ∧ (cls = 0x0D → ¬ out s (cls, idx) →
      (∀ x ∈ v.fab.grants, x.port ≠ idx) ∧ ∀ x ∈ v.mem.flight, placement x.va = 5 → x.port ≠ idx)
    let who : Who := { gid := y.gid, sp := y.sp }
    let f := focus s who
    let mine := f.tm.core
    let differ := (activeLanes f).filter fun l => !(y.x0.getD l 0 == y.x1.getD l 0 && y.x1.getD l 0 == y.x2.getD l 0)
    let explains := fun (j : Nat) => ∀ l ∈ differ,
      (y.x1.getD l 0 = y.x2.getD l 0 ∧ l % 32 = j) ∨ (y.x0.getD l 0 = y.x2.getD l 0 ∧ (l + 1) % 32 = j) ∨
        (y.x0.getD l 0 = y.x1.getD l 0 ∧ (l + 2) % 32 = j)
    let narrow := ∃ b ∈ s.dev.half, b.1 = mine
    let sure := fun (j : Nat) => j < 32 ∧ ∀ b, b < 32 → (explains b ↔ b = j)
    let raised := fun (v : State) (lanes : Word) =>
      takeTrap (focus v who) { cause := 0x30, addr := 0, lanes := lanes } f.sp.chain.isSome f.sp.pc
    let lane : UnitId := if cls = 8 then (8, idx) else (8, 32 * unitCore (cls, idx) + (activeLanes f).headD 0)
    let counted := countError s lane 0xFFFF (unitBay lane)
    let halves := s.dev.due.filter fun e => inHalf core half e.unit
    let there := withPfn p pfn.toNat
    let moving := match nameOfPage s p with | some x => blockPages s x.block | none => [p]
    let before := performBefore s fun _ a va => !isFar va && moving.any fun x => pageFor x a && pageIn x (pageOf va)
    let room := findFrames s (pageBase p) (pteSize p)
    let gone := s.dev.retired.contains (0x0F, bay) && (!whole || s.dev.retired.contains (0x0A, 2 * bay))
    let fenced := endFence s bay due
    let halting := fun (v : State) (ids : List Nat) => ∀ b ∈ ids, (findGang s b).st = .running → (findGang s b).retired = false →
      (findGang v b).st = .halting s.gt ∨ (findGang v b).save = none
    let tested := updDev s fun d => { d with test := none, testDigest := test.digest }.setCaps
    let broken := fun (h : Nat) => ∃ x ∈ s.dev.retired, x.1 = 7 ∧ inHalf k h x = true
    (t.sp.request = some q → openLanes q ≠ [] →
      (lost = [] → shut = [] → exec (.remoteAtomicReply gid sp true values) s = .next { z.1 with sp := { z.1.sp with
        request := some { q with words := atomWords z.2.1 op z.2.2 } } }) ∧
      (lost = [] → shut ≠ [] → a.1.g.halted = false → a.1.g.inHandler = false →
        exec (.remoteAtomicReply gid sp true values) s = .next (fails logged 0x13 shut)) ∧
      (lost = [] → mayDeny t q = true → t.g.halted = false → t.g.inHandler = false →
        exec (.remoteAtomicReply gid sp false values) s = .next (fails t 0x13 (openLanes q))) ∧
      (lost ≠ [] → t.g.halted = false → t.g.inHandler = false → exec (.remoteAtomicReply gid sp ok values) s = .next (fails t 0x14 lost)) ∧
      (lost ≠ [] → t.g.halted = true → exec (.remoteAtomicReply gid sp ok values) s =
        .next { heard t t.g.id with sp := { t.sp with request := none } })) ∧
    (s.fab.tokens[n]? = some tok → pathClear s tok = true → ∃ v, exec (.fenceToken n) s = .next v ∧
      v = { s with fab := { s.fab with tokens := v.fab.tokens } } ∧
      (tok.auto = true → v.fab.tokens = s.fab.tokens.eraseIdx n) ∧
      (tok.auto = false → v.fab.tokens[n]? = some { tok with atEnd := true } ∧ v.fab.tokens.length = s.fab.tokens.length)) ∧
    (s.fab.tokens[n]? = some tok → tok.auto = false → tok.atEnd = true → ∃ v, exec (.fenceAck n failed) s = .next v ∧
      v.fab.tokens = s.fab.tokens.eraseIdx n ∧
      (s.g.id = tok.gid → ∀ x ∈ v.g.paths, x.dest = tok.dest → x.port = tok.port → x.acked = true)) ∧
    ((s.fab.asked.find? fun e => e.asid == asid && e.page == page) = some e →
      (canonical w.va.toNat = true → isFarVa w.va.toNat = false →
        ∃ v, exec (.windowGrant asid va (some w)) s = .next v ∧ granted ∈ v.fab.grants ∧ ∀ x ∈ v.fab.asked, x ≠ e) ∧
      (canonical w.va.toNat = false ∨ isFarVa w.va.toNat = true → exec (.windowGrant asid va (some w)) s = .next s) ∧
      ∃ v, exec (.windowGrant asid va none) s = .next v ∧ (∀ x ∈ e.gids, (x, page) ∈ v.fab.refused) ∧ (∀ x ∈ v.fab.asked, x ≠ e) ∧
        ∀ x ∈ v.mem.flight, placement x.va = 5 → x.port = e.port → x.asid = asid → x.va % 2 ^ 54 / 4096 ≠ page) ∧
    ((∀ x ∈ s.fab.grants, x.covers asid at_ = true → grantBusy s x = false) →
      ∃ v, exec (.windowRevoke dev asid va) s = .next v ∧ (∀ x ∈ v.fab.grants, x.covers asid at_ = false) ∧
        ∀ x ∈ s.fab.grants, x.covers asid at_ = true →
          (∀ b ∈ v.mem.flight, placement b.va = 5 → x.covers b.asid b.va = false) ∧
          ∀ b ∈ s.fab.asked, x.covers b.asid (b.page * 4096) = true → b ∉ v.fab.asked ∧ ∀ j ∈ b.gids, (j, b.page) ∈ v.fab.refused) ∧
    (¬ running_ → exec (.destUnreachable dev) s = .next s) ∧
    (running_ → ∃ v, exec (.destUnreachable dev) s = .next v ∧ dev.toNat ∈ v.fab.unreachable ∧ (∀ x ∈ v.fab.grants, x.dev ≠ dev) ∧
      ∀ x ∈ v.mem.flight, placement x.va = 5 → peerOf x.va ≠ dev.toNat) ∧
    (on → s.dev.checkpoint = none → quiesceLimit safe.limit = some n → ∃ v x, exec (.checkpointRequest asids safe) s = .next v ∧
      v.dev.checkpoint = some x ∧ x.asids = asids ∧ x.dest = safe.dest ∧ x.limit = s.gt + n ∧ x.closed = namedQueues s asids ∧
      ∀ k ∈ namedQueues s asids, (queueAt v k).opened = false) ∧
    (on → s.dev.checkpoint = some c → c.asids = asids → c.dest = safe.dest → c.quiet = true → (∃ k, k < 16 ∧ portLive s k = true) →
      ∃ v x, exec (.checkpointRequest asids safe) s = .next v ∧ v.dev.checkpoint = none ∧ (c.dest, x) ∈ v.fab.images ∧
        ∀ k ∈ c.closed, k < s.sched.queues.length → (queueAt v k).opened = true) ∧
    (s.dev.checkpoint = some c → c.quiet = false → c.limit ≤ s.gt → ∃ v, exec .checkpointAbandon s = .next v ∧ v.dev.checkpoint = none ∧
      v.rel.replies = s.rel.replies ++ [(gridsOf s (namedCtxs s c.asids)).map fun x => (launchField x).setWidth 64]) ∧
    ((s.fab.images.find? fun e => e.1 == place) = some (k, image) →
      (on → (∃ k, k < 4 ∧ bayHealthy s k = true) → (∀ x ∈ image, mayRestore s x = true) → image.foldl (restoreCtx places) (some s) = some u →
        exec (.restoreRequest place places) s = .next (reply u [0])) ∧
      (on → (∃ x ∈ image, mayRestore s x = false) → exec (.restoreRequest place places) s = .next (reply s [1])) ∧
      (¬ on → exec (.restoreRequest place places) s = .next s)) ∧
    (i.overtaken = none →
      (verified i = true → (exec (.coldStart i) s = .next (started kept true [] i) ∧
          (i.scan = [] → i.train = [] → ∃ v, exec (.coldStart i) s = .next v ∧ v.dev.power = .on ∧ v.dev.mpLost = false ∧
            v.dev.retired = [] ∧ v.dev.half = [] ∧ v.mem = MemSys.reset ∧ v.launches = [] ∧ v.gangs = [] ∧
            v.sched.queues = Sched.reset.queues ∧ v.dev.startNo = s.dev.startNo + 1)) ∧
        (asids.length ≤ 64 → exec (.warmStart asids i) s = .next (started kept (s.dev.trained.isEmpty || inStart s) asids i) ∧
          (s.dev.mpLost = true → s.dev.trained ≠ [] → inStart s = false → i.train = [] →
            ∃ v, exec (.warmStart asids i) s = .next v ∧ v.dev.power = .mpFailed))) ∧
      (verified i = false → ∃ v, exec (.coldStart i) s = .next v ∧ v.dev.power = .mpFailed ∧ v.dev.startNo = s.dev.startNo + 1 ∧
        v.rel.replies = s.rel.replies ++ [[2]])) ∧
    (∀ j, s.dev.power = .lowering j → exec .stop s = .next { s with dev := { s.dev with
      power := if j ≤ 1 then .off else .lowering (j - 1) } }) ∧
    ((∀ j, s.dev.power ≠ .lowering j) → ∃ v, exec .stop s = .next v ∧ down v s.dev.power.lower ∧ (on → down v (.lowering 3)) ∧
      v.rel.bbNv = closed.rel.bbNv ∧ (s.dev.due = [] → v.rel.bbNv = if s.dev.power = .on then s.rel.bb else s.rel.bbNv)) ∧
    (∃ v, exec .supplyLoss s = .next v ∧ down v .off ∧ v.rel.bbNv = s.rel.bbNv) ∧
    (on → exec .mpFailure s = .next { s with dev := { s.dev with power := .mpFailed, mpLost := true } }) ∧
    (s.dev.power = .starting (.domain d) → ∃ v, exec (.powerDomainTimeout d k) s = .next v ∧ down v (.stuck d k) ∧
      v.rel.replies = s.rel.replies ++ [[3, BitVec.ofNat 64 d, BitVec.ofNat 64 k]]) ∧
    (on → hostUp s = true → nonce.length = 32 → exec (.attestationRequest nonce) s =
      .next (replyBytes s (report s nonce ++ Config.falconSign (report s nonce)))) ∧
    (on → s.gt % 2 ^ 16 = 0 → ∃ v, exec (.powerLoop r) s = .next v ∧ v.dev.pool = loopPool s.dev.pool r) ∧
    (running_ → bay < 4 → ∃ v, exec (.thermalClamp bay) s = .next v ∧ bay ∈ v.dev.clamped ∧ ∀ k, k ∈ s.dev.clamped → k ∈ v.dev.clamped) ∧
    (on → s.gt % 2 ^ 24 = 0 → exec .blackBoxCopy s = .next { s with rel := { s.rel with bbNv := s.rel.bb } }) ∧
    (running_ → isResent cls = true → unitClamped s (cls, idx) = false →
      exec (.linkRetransmit cls idx true) s = .next (countError s (cls, idx) (unitHop (cls, idx)) (unitBay (cls, idx))) ∧
      exec (.linkRetransmit cls idx false) s = .next (uncorrected s (cls, idx))) ∧
    (on →
      (cls ≠ 0x0F → code ≠ 1 → exec (.unitRetire cls idx code none) s = .next s) ∧
      (cls = 7 → unitCore (cls, idx) < 256 → coreUp s (unitCore (cls, idx)) = true →
        (portOver (cls, idx) → ∃ v, exec (.unitRetire cls idx 1 none) s = .next v ∧ leaving v (cls, idx)) ∧
        (¬ portOver (cls, idx) → exec (.unitRetire cls idx 1 none) s = .next s)) ∧
      (cls = 0x0B → idx < 64 →
        (busOver (cls, idx) → ∃ v, exec (.unitRetire cls idx 1 none) s = .next v ∧ out v (cls, idx) ∧
          (¬ out s (cls, idx) → v.dev.cap2.extractLsb' 0 32 = BitVec.ofNat 32 v.dev.frames)) ∧
        (¬ busOver (cls, idx) → exec (.unitRetire cls idx 1 none) s = .next s)) ∧
      (isLink cls idx = true →
        (linkOver (cls, idx) → ∃ v, exec (.unitRetire cls idx 1 none) s = .next v ∧ linkGone v) ∧
        (¬ linkOver (cls, idx) → exec (.unitRetire cls idx 1 none) s = .next s)) ∧
      (runsTwice s y = true → cls = 8 ∨ cls = 9 → unitCore (cls, idx) = (findTeam s (findGroup s y.gid).team).core →
        (opcodeHere f = some n → n < 0x20 →
          (y.x0.getD 0 0 = y.x1.getD 0 0 → exec (.unitRetire cls idx code (some y)) s = .next counted) ∧
          (y.x0.getD 0 0 ≠ y.x1.getD 0 0 → ∃ v, exec (.unitRetire cls idx code (some y)) s = .next (raised v 0) ∧ out v (9, mine))) ∧
        (opcodeHere f = some n → 0x20 ≤ n →
          (differ = [] → exec (.unitRetire cls idx code (some y)) s = .next counted) ∧
          (differ ≠ [] → ∃ v, exec (.unitRetire cls idx code (some y)) s = .next (raised v (maskOf fun l => differ.contains l)) ∧
            (¬ narrow → ∀ j, sure j → leaving v (8, 32 * mine + j)) ∧
            (narrow ∨ (∀ j, ¬ sure j) → out v (9, mine)))))) ∧
    (on → halves ≠ [] → gangsOnCores s (· == core) = [] →
      ∃ v, exec (.halfWidthSwitch core half) s = .next v ∧ (core, half) ∈ v.dev.half ∧ ∀ x ∈ halves, out v x.unit ∧ x ∉ v.dev.due) ∧
    (on → stack < 8 → layer < 8 →
      (busOver (0x0B, 8 * stack + layer) → ∃ v, exec (.layerRetire stack layer) s = .next v ∧ out v (0x0B, 8 * stack + layer)) ∧
      (¬ busOver (0x0B, 8 * stack + layer) → exec (.layerRetire stack layer) s = .next s)) ∧
    (nextMove s = some p → running_ → pteAsid p = asid → pageIn p (pageOf va.toNat) = true →
      p ∈ toMove s ∧ (room = none → ∀ x ∈ toMove s, findFrames s (pageBase x) (pteSize x) = none) ∧
      (room = none → evictable s p = false → ∀ x ∈ toMove s, evictable s x = false) ∧
      (room.isSome = true → framesFree s (pageBase p) (pteSize p) pfn.toNat = true → pfn.toNat % frameSpan p = 0 →
        ∃ v, exec (.blockMove asid va pfn) s = .next v ∧
          (s.wf = true → (pageRuns p).Nodup → (pageRuns there).Nodup → ∀ j b, j < 4 ^ pteSize p → b < 4096 →
            peek v.mem.phys ((pageRuns there).getD j 0 + b) = peek before.mem.phys ((pageRuns p).getD j 0 + b)) ∧
          (nameOfPage s p = none → there ∈ allPtes v) ∧
          ∀ x, nameOfPage s p = some x → (∀ b ∈ v.kv.blocks, b.id = x.block → b.pfn = pfn) ∧
            ∀ b ∈ blockPages s x.block, withPfn b pfn.toNat ∈ allPtes v) ∧
      (room = none → evictable s p = true → (∀ x ∈ toMove s, evictable s x = true → pageBusy s x = false) →
        ∃ v, exec (.blockMove asid va pfn) s = .next v ∧ ∀ x ∈ toMove s, evictable s x = true → ∀ b, nameOfPage s x = some b →
          ∀ j ∈ v.kv.blocks, j.id = b.block → j.evicted = true) ∧
      (room = none → evictable s p = false → ∃ v, exec (.blockMove asid va pfn) s = .next v ∧
        ∀ x, findCtx s asid = some x → x.closing = none → findCtx v asid = some { x with closing := some 4 })) ∧
    (running_ → isLink cls idx = true →
      (linkOver (cls, idx) → ∃ v, exec (.bridgeRetire cls idx) s = .next v ∧ linkGone v) ∧
      (¬ linkOver (cls, idx) → exec (.bridgeRetire cls idx) s = .next s)) ∧
    (on → bay < 4 → gone = false →
      (dueOf s (0x0F, bay) = none → ∃ v, exec (.bayFence bay whole code) s = .next v ∧
        dueOf v (0x0F, bay) = some { unit := (0x0F, bay), code := if code = 1 then 1 else 6, since := s.gt, whole := whole } ∧
        halting v (gangsOnCores s fun x => bayOf x == bay)) ∧
      (dueOf s (0x0F, bay) = some due → whole = true → due.whole = false → ∃ v, exec (.bayFence bay whole code) s = .next v ∧
        dueOf v (0x0F, bay) = some { due with whole := true }) ∧
      (dueOf s (0x0F, bay) = some due → (whole = true → due.whole = true) → (gangsOnCores s (fun x => bayOf x == bay) = [] ∨ due.since + 3200 ≤ s.gt) →
        exec (.bayFence bay whole code) s = .next ((cutOff fenced).foldl (fun s k => startFence s k true 6) fenced) ∧
        out fenced (0x0F, bay) ∧ (∀ x ∈ allPtes fenced, placement (pageBase x) ≠ bay) ∧
        (∀ x ∈ allPtes s, placement (pageBase x) = bay → pteAsid x ≠ 0 → ∀ b, findCtx fenced (pteAsid x) = some b → b.closing.isSome = true) ∧
        (due.whole = true → (∀ x ∈ allPtes fenced, placement (pageBase x) ≠ 4 ∧ placement (pageBase x) ≠ 7) ∧
          out fenced (0x0A, 2 * bay) ∧ ∀ b ∈ fenced.kv.blocks, b.evicted = true))) ∧
    (on → s.dev.test = none →
      (packageOk bytes = true → ∃ v x, exec (.testPackage bytes bad) s = .next v ∧ v.dev.test = some x ∧
        x.bays = (fieldAt bytes 6 1 == 1) ∧ x.digest = (bytes.drop 0x30).take 64 ∧
        (∀ j, j ∈ x.targets ↔ j < (if x.bays then 4 else 256) ∧ (fieldAt bytes 8 32).testBit j = true ∧
          (if x.bays then (0x0A, 2 * j) ∉ s.dev.retired else bayHealthy s (bayOf j) = true)) ∧
        (x.bays = false → ∀ j ∈ x.targets, out v (9, j)) ∧ halting v (gangsOnCores s x.holds)) ∧
      (packageOk bytes = false → exec (.testPackage bytes bad) s = .next (reply s [4]))) ∧
    (on → s.dev.test = some test → gangsOnCores s test.holds = [] →
      exec (.testPackage bytes bad) s = .next (test.targets.foldl (endTarget test bad) tested) ∧
      (test.bays = false → test.targets = [k] → ∃ v, exec (.testPackage bytes bad) s = .next v ∧ v.dev.test = none ∧
        (k ∈ bad → v.dev.retired = s.dev.retired) ∧
        (k ∉ bad → ¬ (broken 0 ∧ broken 1) → ¬ out v (9, k) ∧ (∀ j, j < 32 → ¬ out v (8, 32 * k + j)) ∧
          ∀ h, h < 2 → ((k, h) ∈ v.dev.half ↔ broken h))))
end

