-- ==== Sys2Proof/Laws/Accesses.lean ====
section
/-! SUPPORT. Accesses that may be performed at once: the checks of a load and of a store, said once. -/

namespace Sys2Proof.Machine

/-- An address that leads to a page of the device is not beyond the device. -/
theorem seeAddr_near {s : State} {a : Agent} {va : Nat} {w : Bool} {p : Quad} (h : seeAddr s a va w = .page p) :
    isFar va = false := by
  unfold seeAddr at h
  unfold isFar isFarVa
  repeat' split at h
  all_goals try cases h
  all_goals simp_all

theorem seeElem_near {s : State} {x : Access} {e : Elem} {p : Quad} (h : seeElem s x e = .page p) :
    isFar e.va = false := by
  unfold seeElem at h
  split at h
  · cases h
  · exact seeAddr_near h

/-- An access whose elements all lead to pages fails no check. -/
theorem firstCause_none {s : State} {x : Access} (h : ∀ e ∈ x.elems, ∃ p, seeElem s x e = .page p) :
    firstCause s x = none := by
  have hf : ∀ c, (x.elems.filter fun e => seeElem s x e == .bad c) = [] := by
    intro c
    rw [List.filter_eq_nil_iff]
    intro e he
    obtain ⟨p, hp⟩ := h e he
    simp [hp]
  simp only [firstCause, firstSome, hf, List.isEmpty_nil, if_true]

/-- Where nobody holds an update-only line, a load merges nothing. -/
theorem mergeOwnAt_none {s : State} (h : s.mem.ulines = []) (l : List Elem) : mergeOwnAt s l = s := by
  have key : ∀ (t : State), t.mem.ulines = [] → ∀ a line, mergeOwn t a line = t := fun t ht a line => by simp [mergeOwn, ht]
  unfold mergeOwnAt
  induction l with
  | nil => rfl
  | cons e l ih =>
    rw [List.foldl_cons]
    cases pageAttr s s.agent e.va with
    | none => exact ih
    | some p => simp only [key s h]; exact ih

/-- A load whose elements may all be performed goes on. -/
theorem whenReady_mapped {s : State} {x : Access} (k : State → Res) (h : Mapped s x) :
    whenReady s x k = k (attributed s x) := by
  have hp := fun e he => (h e he).1
  have hn : ∀ e ∈ x.elems, isFar e.va = false := fun e he => by
    obtain ⟨p, hp⟩ := hp e he
    exact seeElem_near hp
  have hm : (x.elems.filter fun e => seeElem s x e == .miss) = [] := by
    rw [List.filter_eq_nil_iff]
    intro e he
    obtain ⟨p, hp⟩ := hp e he
    simp [hp]
  have hl : (x.elems.filter fun e => unreachable s e.va || pathLost s s.g.id e.va) = [] := by
    rw [List.filter_eq_nil_iff]
    intro e he
    have hf := hn e he
    have := hf
    simp only [isFar, isFarVa, Bool.or_eq_false_iff] at this
    simp [unreachable, unreachableBy, pathLost, hf, this.1]
  have hs : (x.elems.filter fun e => portDenies s x.write e.va) = [] := by
    rw [List.filter_eq_nil_iff]
    intro e he
    simp [portDenies, hn e he]
  have hd : (x.elems.filter fun e => destDenies s s.asid e.va x.write) = [] := by
    rw [List.filter_eq_nil_iff]
    intro e he
    have := hn e he
    simp only [isFar, isFarVa, Bool.or_eq_false_iff] at this
    simp [destDenies, this.1]
  have ha : (x.elems.filter fun e => needsGrant s e.va) = [] := by
    rw [List.filter_eq_nil_iff]
    intro e he
    have := hn e he
    simp only [isFar, isFarVa, Bool.or_eq_false_iff] at this
    simp [needsGrant, this.1]
  have hq : (x.elems.filter fun e => !isFar e.va) = x.elems := by
    rw [List.filter_eq_self]
    intro e he
    simp [hn e he]
  unfold whenReady
  rw [firstCause_none hp]
  simp only [hm, hl, ha, hq, hs, hd, Bool.and_false, List.filter_nil, List.isEmpty_nil, Bool.not_true, Bool.false_eq_true, if_false]
  have h1 : (x.elems.any fun e =>
      s.mem.side.any fun i => i.page == pageOf e.va && (i.asid == s.asid || i.asid == 0)) = false := by
    rw [List.any_eq_false]
    intro e he
    simp only [Bool.not_eq_true, List.any_eq_false]
    intro i hi
    by_cases hpg : i.page = pageOf e.va
    · have := (h e he).2.1 i hi hpg
      have h0 : ¬ i.asid = 0#16 := this.2
      simp [this.1, h0, hpg]
    · simp [hpg]
  rw [h1]
  simp only [Bool.false_eq_true, if_false]
  have h2 : (x.elems.any fun e => match pageAttr s s.agent e.va with
      | some (p, _, _) => ownWriteBusy (mergeOwnAt s x.elems) (mergeOwnAt s x.elems).g (mergeOwnAt s x.elems).tm.core p e.va x.size
      | none => false) = false := by
    rw [List.any_eq_false]
    intro e he
    rw [Bool.not_eq_true]
    split
    · rename_i p r w hpa
      exact (h e he).2.2.1 p r w hpa
    · rfl
  have h3 : (x.elems.any fun e => farOut s e.va x.size || lateMeets s e.va x.size) = false := by
    rw [List.any_eq_false]
    intro e he
    simp [farOut, hn e he, (h e he).2.2.2]
  refine (if_neg ?_).trans (if_neg ?_)
  · exact Bool.not_eq_true _ ▸ h2
  · exact Bool.not_eq_true _ ▸ h3

/-- A store whose elements may all be performed sends those that `last` keeps, and goes on. -/
theorem storeWith_mapped {s : State} {l : List Put} {n : Nat} {scalar : Bool} (red : Option (BitVec 3 × Ty))
    (last : List Put → List Put) (hlast : ∀ p ∈ last l, p ∈ l) (send : State → List Put → State) (k : State → Res)
    (h : MappedStore s l n scalar) :
    storeWith s l n scalar red last send k = k (send s (last l)) := by
  have hp : ∀ e ∈ (putAccess l n scalar).elems, ∃ p, seeElem s (putAccess l n scalar) e = .page p := by
    intro e he
    obtain ⟨p, hp, rfl⟩ := List.mem_map.1 he
    exact (h p hp).1
  have hg : ∀ p ∈ last l, goesToLog s (putAccess l n scalar) p.elem = false := by
    intro p hl
    obtain ⟨⟨e, he⟩, hs, -⟩ := h p (hlast p hl)
    unfold goesToLog
    rw [he]
    have : sidePending s.mem s.g.id (pageOf p.elem.va) = false := hs
    simp [this]
  have h1 : ((last l).filter fun (p : Put) => goesToLog s (putAccess l n scalar) p.elem) = [] := by
    rw [List.filter_eq_nil_iff]
    intro p hl
    simp [hg p hl]
  have h2 : ((last l).filter fun (p : Put) => !goesToLog s (putAccess l n scalar) p.elem) = last l := by
    rw [List.filter_eq_self]
    intro p hl
    simp [hg p hl]
  have h3 : ((last l).any fun p => lateMeets s p.va n) = false := by
    rw [List.any_eq_false]
    intro p hl
    simp [(h p (hlast p hl)).2.2]
  show (match firstCause s (putAccess l n scalar) with
    | some (c, bad) => raiseElems s (putAccess l n scalar) c bad
    | none =>
      let log := (last l).filter fun (p : Put) => goesToLog s (putAccess l n scalar) p.elem
      let direct := (last l).filter fun (p : Put) => !goesToLog s (putAccess l n scalar) p.elem
      let pages := pagesOf (log.map Put.elem)
      if (last l).any fun p => lateMeets s p.va n then .wait .l2Store s
      else if sideRoom s < pages.length then .wait .sideLog (pages.foldl askFor s)
      else k (send (pages.foldl (fun s g => logPage s red log g) s) direct)) = _
  rw [firstCause_none hp]
  simp only [h1, h2, h3, List.map_nil, pagesOf, List.foldl_nil, List.length_nil, Nat.not_lt_zero, if_false, Bool.false_eq_true]

end Sys2Proof.Machine
end

