-- ==== Sys2Proof/Laws/Encoding.lean ====
section
/-! SUPPORT. The encoder and the decoder field by field: each field comes back from the units it was put into
(R138, R143, R145, R149). -/

namespace Sys2Proof

/-- A TYPE code names the type it is the number of (R149). -/
@[simp] theorem Ty.ofCode_code (t : Ty) : Ty.ofCode (BitVec.ofNat 4 t.code) = t := by cases t <;> decide

theorem Ty.code_lt (t : Ty) : t.code < 16 := by cases t <;> decide

/-- A source field reads back as the operand it holds (R145). -/
@[simp] theorem Src.decode_encode (f : Src) : Src.decode f.encode = some f := by
  cases f with
  | reg n => revert n; decide
  | latch k => revert k; decide
  | imm n => revert n; decide
  | bcast n => revert n; decide
  | lit => decide
  | special x => cases x <;> decide

/-- A field in the lower part of two parts put together. -/
theorem extract_append_low {n m : Nat} (x : BitVec n) (y : BitVec m) (k w : Nat) :
    k + w ≤ m → BitVec.extractLsb' (n := no_index (n + m)) k w (no_index (x ++ y)) = y.extractLsb' k w := by
  intro h
  ext i hi
  simp [BitVec.getLsbD_append, show k + i < m by omega]

/-- A field in the upper part of two parts put together. -/
theorem extract_append_high {n m : Nat} (x : BitVec n) (y : BitVec m) (k w : Nat) :
    m ≤ k → BitVec.extractLsb' (n := no_index (n + m)) k w (no_index (x ++ y)) = x.extractLsb' (k - m) w := by
  intro h
  ext i hi
  simp [BitVec.getLsbD_append, show ¬ k + i < m by omega, show k + i - m = k - m + i by omega]

/-- All of a value. -/
theorem extract_all {n : Nat} (x : BitVec n) : x.extractLsb' 0 n = x := by ext i hi; simp

theorem Raw.ext_lit {r q : Raw} (h0 : r.op = q.op) (h1 : r.fn = q.fn) (h2 : r.d = q.d) (h3 : r.a = q.a)
    (h4 : r.b = q.b) (h5 : r.c = q.c) (h6 : r.ty = q.ty) (h7 : r.rnd = q.rnd) (h8 : r.hint = q.hint)
    (h9 : r.r61 = q.r61) (h10 : r.r62 = q.r62) (h11 : r.lit = q.lit) : r = q := by
  cases r; cases q; simp_all

/-- The first unit of the fields. -/
def Raw.unit0 (r : Raw) : Word := r.a.extractLsb' 0 7 ++ r.d ++ r.fn ++ r.op ++ formBits r.lit
/-- The second unit of the fields. -/
def Raw.unit1 (r : Raw) : Word := r.r62 ++ r.r61 ++ r.hint ++ r.rnd ++ r.ty ++ r.c ++ r.b ++ r.a.extractLsb' 7 2

/-- The fields come back from their units (R143). -/
theorem Raw.ofUnits_units (r : Raw) : Raw.ofUnits r.unit0 r.unit1 r.lit = r := by
  have join : r.a.extractLsb' 7 2 ++ r.a.extractLsb' 0 7 = r.a := by
    ext i hi
    simp only [BitVec.getElem_append, BitVec.getElem_extractLsb']
    split <;> simp_all [BitVec.getLsbD_eq_getElem]
  apply Raw.ext_lit <;> simp only [Raw.ofUnits, Raw.unit0, Raw.unit1] <;>
    (try simp (disch := decide) only [extract_append_high, extract_append_low, extract_all, Nat.sub_self, Nat.reduceSub, Nat.reduceAdd, join])

theorem Raw.units_eq (r : Raw) :
    r.units = match r.lit with | some l => [r.unit0, r.unit1, l] | none => [r.unit0, r.unit1] := by
  cases r with | mk op fn d a b c ty rnd hint r61 r62 lit => cases lit <;> rfl

/-- Bits [1:0] of the first unit give the form (R138). -/
theorem Raw.unit0_low (r : Raw) : r.unit0.extractLsb' 0 2 = formBits r.lit := by
  simp (disch := decide) only [Raw.unit0, extract_append_low, extract_all]

/-- The operands come back from their fields (R145, R148, R149). -/
@[simp] theorem Args.args_raw (x : Args) (op : BitVec 8) : (x.raw op).args = some x := by
  cases x with | mk sup d a b c fn ty rnd hint r61 lit =>
  have hd : ∀ b : BitVec 1, (b ++ d).extractLsb' 0 8 = d := fun b => by
    rw [extract_append_low _ _ _ _ (by decide), extract_all]
  have hs : ∀ b : Bool, (BitVec.ofBool b ++ d)[8] = b := by
    intro b
    cases b <;> exact (BitVec.getLsbD_append ..).trans rfl
  have hr : (BitVec.ofBool r61 == 1#1) = r61 := by cases r61 <;> rfl
  simp [Raw.args, Args.raw, hd, hs, hr]

/-- Decoding the units of Form B and Form C reads their fields back (R143, R152). -/
theorem decode_units (r : Raw) :
    decode r.units = if !opcodeDefined r.op then .error .opcode
      else if r.lit.isNone && r.op.toNat < 0x20 then .error .field else checked r.build := by
  have hr := r.ofUnits_units
  have hlow := r.unit0_low
  rw [Raw.units_eq]
  cases hl : r.lit with
  | none =>
    rw [hl] at hr hlow
    simp [decode, hlow, formBits, decodeBC, hr]
  | some l =>
    rw [hl] at hr hlow
    simp [decode, hlow, formBits, decodeBC, hr]

/-- Decoding the units of a Form B or C instruction gives what its opcode makes of its operands. -/
theorem decode_bc (r : Row) (x : Args) (hop : opcodeDefined r.op = true) (hb : r.op ≠ 0x22)
    (hl : x.lit.isSome = true ∨ 0x20 ≤ r.op.toNat) : decode (Shape.bc r x).units = checked (buildBC r.op x) := by
  have h1 : (x.raw r.op).op = r.op := rfl
  have h2 : (x.raw r.op).lit = x.lit := rfl
  have h3 : (x.lit.isNone && decide (r.op.toNat < 0x20)) = false := by
    rcases hl with hl | hl
    · cases hx : x.lit <;> simp_all
    · simp; omega
  rw [Shape.units, decode_units, h1, h2, hop, h3]
  simp only [Raw.build, h1, if_neg hb, Args.args_raw, Bool.not_true, Bool.false_eq_true, if_false]

/-- Decoding the unit of a Form A instruction gives what its opcode and fn4 make of its registers (R143, R144). -/
theorem decode_formA (op : BitVec 8) (fn : BitVec 4) (ok one pairs : Bool) (x : AArgs) (hop : opcodeDefined op = true) :
    decode (Shape.formA op fn ok one pairs x).units = checked (buildA op fn x) := by
  cases x with | mk d a b =>
  have e0 : (fn ++ b ++ a ++ d ++ op ++ 0#2).extractLsb' 0 2 = 0#2 := by
    simp (disch := decide) only [extract_append_low, extract_all]
  have e1 : (fn ++ b ++ a ++ d ++ op ++ 0#2).extractLsb' 2 8 = op := by
    simp (disch := decide) only [extract_append_high, extract_append_low, extract_all, Nat.sub_self]
  have e2 : (fn ++ b ++ a ++ d ++ op ++ 0#2).extractLsb' 10 6 = d := by
    simp (disch := decide) only [extract_append_high, extract_append_low, extract_all, Nat.sub_self, Nat.reduceSub]
  have e3 : (fn ++ b ++ a ++ d ++ op ++ 0#2).extractLsb' 16 6 = a := by
    simp (disch := decide) only [extract_append_high, extract_append_low, extract_all, Nat.sub_self, Nat.reduceSub]
  have e4 : (fn ++ b ++ a ++ d ++ op ++ 0#2).extractLsb' 22 6 = b := by
    simp (disch := decide) only [extract_append_high, extract_append_low, extract_all, Nat.sub_self, Nat.reduceSub]
  have e5 : (fn ++ b ++ a ++ d ++ op ++ 0#2).extractLsb' 28 4 = fn := by
    simp (disch := decide) only [extract_append_high, extract_all, Nat.sub_self, Nat.reduceSub]
  simp [Shape.units, decode, decodeA, e0, e1, e2, e3, e4, e5, hop]

end Sys2Proof
end

