-- ==== Sys2Proof/Laws/Sparse.lean ====
section
/-! SUPPORT. Sparse stores: reading after writing, and that every operation keeps the canonical form. -/

namespace Sys2Proof

/-! ## The canonical form -/

theorem cellsFrom_weaken {w : Nat} {lo lo' : Nat} (h : lo' ≤ lo) :
    ∀ {m : Sparse w}, cellsFrom lo m = true → cellsFrom lo' m = true
  | [], _ => rfl
  | (a, v) :: t, hm => by
    simp only [cellsFrom, Bool.and_eq_true, decide_eq_true_eq] at hm ⊢
    exact ⟨⟨by omega, hm.1.2⟩, hm.2⟩

theorem cellsFrom_poke {w : Nat} (k : Nat) (x : BitVec w) :
    ∀ (m : Sparse w) (lo : Nat), lo ≤ k → cellsFrom lo m = true → cellsFrom lo (poke m k x) = true
  | [], lo, hk, _ => by
    unfold poke
    split <;> simp_all [cellsFrom]
  | (a, v) :: t, lo, hk, hm => by
    simp only [cellsFrom, Bool.and_eq_true, decide_eq_true_eq] at hm
    obtain ⟨⟨hlo, hv⟩, ht⟩ := hm
    unfold poke
    split
    · split
      · simp_all [cellsFrom]
      · rename_i h1 h2
        simp_all [cellsFrom]
    · split
      · split
        · exact cellsFrom_weaken (by omega) ht
        · rename_i h1 h2 h3
          subst h2
          simp_all [cellsFrom]
      · rename_i h1 h2
        have := cellsFrom_poke k x t (a + 1) (by omega) ht
        simp_all [cellsFrom]

/-- Writing a cell keeps the canonical form. -/
theorem cellsWf_poke {w : Nat} {m : Sparse w} (k : Nat) (x : BitVec w) (h : cellsWf m = true) :
    cellsWf (poke m k x) = true := cellsFrom_poke k x m 0 (Nat.zero_le k) h

theorem cellsFrom_filter {w : Nat} (p : Nat × BitVec w → Bool) :
    ∀ (m : Sparse w) (lo : Nat), cellsFrom lo m = true → cellsFrom lo (m.filter p) = true
  | [], _, _ => rfl
  | (a, v) :: t, lo, hm => by
    simp only [cellsFrom, Bool.and_eq_true, decide_eq_true_eq] at hm
    have ih := cellsFrom_filter p t (a + 1) hm.2
    by_cases hp : p (a, v)
    · simp_all [cellsFrom]
    · simpa [List.filter_cons, hp] using cellsFrom_weaken (by omega) ih

/-- Dropping cells keeps the canonical form. -/
theorem cellsWf_filter {w : Nat} {m : Sparse w} (p : Nat × BitVec w → Bool) (h : cellsWf m = true) :
    cellsWf (m.filter p) = true := cellsFrom_filter p m 0 h

/-- Making a range zero keeps the canonical form. -/
theorem cellsWf_cellsOut {w : Nat} {m : Sparse w} (lo hi : Nat) (h : cellsWf m = true) :
    cellsWf (cellsOut m lo hi) = true := cellsWf_filter _ h

/-- Picking out a range keeps the canonical form. -/
theorem cellsWf_cellsIn {w : Nat} {m : Sparse w} (lo hi : Nat) (h : cellsWf m = true) :
    cellsWf (cellsIn m lo hi) = true := cellsWf_filter _ h

/-- Writing a run of cells keeps the canonical form. -/
theorem cellsWf_pokeAll {w : Nat} : ∀ (xs : List (BitVec w)) (m : Sparse w) (k : Nat),
    cellsWf m = true → cellsWf (pokeAll m k xs) = true
  | [], _, _, h => h
  | x :: xs, m, k, h => cellsWf_pokeAll xs (poke m k x) (k + 1) (cellsWf_poke k x h)

/-- The empty store is canonical. -/
@[simp] theorem cellsWf_nil {w : Nat} : cellsWf ([] : Sparse w) = true := rfl

/-! ## Reading after writing -/

theorem peek_below {w : Nat} (k : Nat) : ∀ (m : Sparse w) (lo : Nat), cellsFrom lo m = true → k < lo → peek m k = 0
  | [], _, _, _ => rfl
  | (a, v) :: t, lo, hm, hk => by
    simp only [cellsFrom, Bool.and_eq_true, decide_eq_true_eq] at hm
    have h1 : ¬ a = k := by omega
    have h2 : k < a := by omega
    simp [peek, h1, h2]

theorem peek_poke_from {w : Nat} (k j : Nat) (x : BitVec w) : ∀ (m : Sparse w) (lo : Nat), cellsFrom lo m = true →
    peek (poke m k x) j = if j = k then x else peek m j
  | [], _, _ => by
    unfold poke
    split
    · by_cases hj : j = k <;> simp_all [peek]
    · by_cases hj : j = k
      · simp [peek, hj]
      · have h1 : ¬ k = j := fun h => hj h.symm
        simp [peek, hj, h1]
  | (a, v) :: t, lo, hm => by
    simp only [cellsFrom, Bool.and_eq_true, decide_eq_true_eq] at hm
    have ih := peek_poke_from k j x t (a + 1) hm.2
    have hb := peek_below j t (a + 1) hm.2
    unfold poke
    split
    · rename_i h1
      split
      · rename_i hx
        by_cases hj : j = k
        · subst hj
          have h2 : ¬ a = j := by omega
          simp [peek, h2, h1, hx]
        · simp [hj]
      · by_cases hj : j = k
        · simp [peek, hj]
        · by_cases hlt : j < k
          · have h2 : ¬ k = j := by omega
            have h3 : ¬ a = j := by omega
            have h4 : j < a := by omega
            simp [peek, h2, h3, h4, hlt, hj]
          · have h2 : ¬ k = j := by omega
            simp only [peek, h2, hlt, hj, if_false]
    · rename_i h1
      split
      · rename_i h2
        subst h2
        by_cases hj : j = k
        · subst hj
          split
          · rename_i hx
            simp [hb (by omega), hx]
          · simp [peek]
        · split
          · by_cases hlt : j < k
            · have h3 : ¬ k = j := by omega
              simp [peek, h3, hlt, hb (by omega)]
            · have h3 : ¬ k = j := by omega
              simp [peek, h3, hlt]
          · have h3 : ¬ k = j := by omega
            simp [peek, h3]
      · rename_i h2
        by_cases hj : j = k
        · subst hj
          have h3 : ¬ a = j := by omega
          simp only [peek, h3, h1, if_false, ih]
        · simp only [peek, ih, hj, if_false]

/-- A cell reads as last written; every other cell reads as before. -/
theorem peek_poke {w : Nat} {m : Sparse w} (h : cellsWf m = true) (k j : Nat) (x : BitVec w) :
    peek (poke m k x) j = if j = k then x else peek m j := peek_poke_from k j x m 0 h

/-- Equal reads mean equal stores, for canonical stores. -/
theorem eq_of_peek_eq {w : Nat} : ∀ {m n : Sparse w} {lo : Nat}, cellsFrom lo m = true → cellsFrom lo n = true →
    (∀ k, peek m k = peek n k) → m = n
  | [], [], _, _, _, _ => rfl
  | [], (b, u) :: n, _, _, hn, h => by
    have := h b
    simp_all [peek, cellsFrom]
  | (a, v) :: m, [], _, hm, _, h => by
    have := h a
    simp_all [peek, cellsFrom]
  | (a, v) :: m, (b, u) :: n, lo, hm, hn, h => by
    simp only [cellsFrom, Bool.and_eq_true, decide_eq_true_eq, bne_iff_ne, ne_eq] at hm hn
    have hab : a = b := by
      rcases Nat.lt_trichotomy a b with hlt | he | hgt
      · have := h a
        have h1 : ¬ b = a := by omega
        simp [peek, h1, hlt] at this
        exact absurd this hm.1.2
      · exact he
      · have := h b
        have h1 : ¬ a = b := by omega
        simp [peek, h1, hgt] at this
        exact absurd this.symm hn.1.2
    subst hab
    have hv : v = u := by simpa [peek] using h a
    subst hv
    have ht : m = n := eq_of_peek_eq hm.2 hn.2 fun k => by
      rcases Nat.lt_or_ge a k with hk | hk
      · have := h k
        have h1 : ¬ a = k := by omega
        have h2 : ¬ k < a := by omega
        simpa [peek, h1, h2] using this
      · rw [peek_below k m (a + 1) hm.2 (by omega), peek_below k n (a + 1) hn.2 (by omega)]
    rw [ht]

end Sys2Proof
end

