-- ==== Sys2Proof/Laws/State.lean ====
section
/-! SUPPORT. One lemma per field of State for each of its updates. -/

namespace Sys2Proof.Machine

variable (s : State)

/-! ## setS -/

@[simp] theorem setS_sp (n : Nat) (v : Word) : (setS s n v).sp = s.sp := rfl
@[simp] theorem setS_g (n : Nat) (v : Word) :
    (setS s n v).g =
      { s.g with sregs := poke s.g.sregs n v, poison := s.g.poison.filter fun p => p.1 != 8192 + n } := rfl
@[simp] theorem setS_tm (n : Nat) (v : Word) : (setS s n v).tm = s.tm := rfl
@[simp] theorem setS_groups (n : Nat) (v : Word) : (setS s n v).groups = s.groups := rfl
@[simp] theorem setS_teams (n : Nat) (v : Word) : (setS s n v).teams = s.teams := rfl
@[simp] theorem setS_gangs (n : Nat) (v : Word) : (setS s n v).gangs = s.gangs := rfl
@[simp] theorem setS_launches (n : Nat) (v : Word) : (setS s n v).launches = s.launches := rfl
@[simp] theorem setS_gt (n : Nat) (v : Word) : (setS s n v).gt = s.gt := rfl
@[simp] theorem setS_mem (n : Nat) (v : Word) : (setS s n v).mem = s.mem := rfl
@[simp] theorem setS_sched (n : Nat) (v : Word) : (setS s n v).sched = s.sched := rfl
@[simp] theorem setS_eng (n : Nat) (v : Word) : (setS s n v).eng = s.eng := rfl
@[simp] theorem setS_mx (n : Nat) (v : Word) : (setS s n v).mx = s.mx := rfl
@[simp] theorem setS_kv (n : Nat) (v : Word) : (setS s n v).kv = s.kv := rfl
@[simp] theorem setS_rel (n : Nat) (v : Word) : (setS s n v).rel = s.rel := rfl
@[simp] theorem setS_fab (n : Nat) (v : Word) : (setS s n v).fab = s.fab := rfl
@[simp] theorem setS_dev (n : Nat) (v : Word) : (setS s n v).dev = s.dev := rfl
@[simp] theorem setS_agenda (n : Nat) (v : Word) : (setS s n v).agenda = s.agenda := rfl
@[simp] theorem setS_fresh (n : Nat) (v : Word) : (setS s n v).fresh = s.fresh := rfl

/-! ## setV -/

@[simp] theorem setV_sp (r l : Nat) (v : Word) : (setV s r l v).sp = s.sp := rfl
@[simp] theorem setV_g (r l : Nat) (v : Word) :
    (setV s r l v).g =
      { s.g with vregs := poke s.g.vregs (32 * r + l) v, poison := s.g.poison.filter fun p => p.1 != 32 * r + l } := rfl
@[simp] theorem setV_tm (r l : Nat) (v : Word) : (setV s r l v).tm = s.tm := rfl
@[simp] theorem setV_groups (r l : Nat) (v : Word) : (setV s r l v).groups = s.groups := rfl
@[simp] theorem setV_teams (r l : Nat) (v : Word) : (setV s r l v).teams = s.teams := rfl
@[simp] theorem setV_gangs (r l : Nat) (v : Word) : (setV s r l v).gangs = s.gangs := rfl
@[simp] theorem setV_launches (r l : Nat) (v : Word) : (setV s r l v).launches = s.launches := rfl
@[simp] theorem setV_gt (r l : Nat) (v : Word) : (setV s r l v).gt = s.gt := rfl
@[simp] theorem setV_mem (r l : Nat) (v : Word) : (setV s r l v).mem = s.mem := rfl
@[simp] theorem setV_sched (r l : Nat) (v : Word) : (setV s r l v).sched = s.sched := rfl
@[simp] theorem setV_eng (r l : Nat) (v : Word) : (setV s r l v).eng = s.eng := rfl
@[simp] theorem setV_mx (r l : Nat) (v : Word) : (setV s r l v).mx = s.mx := rfl
@[simp] theorem setV_kv (r l : Nat) (v : Word) : (setV s r l v).kv = s.kv := rfl
@[simp] theorem setV_rel (r l : Nat) (v : Word) : (setV s r l v).rel = s.rel := rfl
@[simp] theorem setV_fab (r l : Nat) (v : Word) : (setV s r l v).fab = s.fab := rfl
@[simp] theorem setV_dev (r l : Nat) (v : Word) : (setV s r l v).dev = s.dev := rfl
@[simp] theorem setV_agenda (r l : Nat) (v : Word) : (setV s r l v).agenda = s.agenda := rfl
@[simp] theorem setV_fresh (r l : Nat) (v : Word) : (setV s r l v).fresh = s.fresh := rfl

/-! ## orFlags -/

@[simp] theorem orFlags_sp (f : Flags) : (orFlags s f).sp = s.sp := rfl
@[simp] theorem orFlags_g (f : Flags) : (orFlags s f).g = { s.g with flags := s.g.flags ||| f } := rfl
@[simp] theorem orFlags_tm (f : Flags) : (orFlags s f).tm = s.tm := rfl
@[simp] theorem orFlags_groups (f : Flags) : (orFlags s f).groups = s.groups := rfl
@[simp] theorem orFlags_teams (f : Flags) : (orFlags s f).teams = s.teams := rfl
@[simp] theorem orFlags_gangs (f : Flags) : (orFlags s f).gangs = s.gangs := rfl
@[simp] theorem orFlags_launches (f : Flags) : (orFlags s f).launches = s.launches := rfl
@[simp] theorem orFlags_gt (f : Flags) : (orFlags s f).gt = s.gt := rfl
@[simp] theorem orFlags_mem (f : Flags) : (orFlags s f).mem = s.mem := rfl
@[simp] theorem orFlags_sched (f : Flags) : (orFlags s f).sched = s.sched := rfl
@[simp] theorem orFlags_eng (f : Flags) : (orFlags s f).eng = s.eng := rfl
@[simp] theorem orFlags_mx (f : Flags) : (orFlags s f).mx = s.mx := rfl
@[simp] theorem orFlags_kv (f : Flags) : (orFlags s f).kv = s.kv := rfl
@[simp] theorem orFlags_rel (f : Flags) : (orFlags s f).rel = s.rel := rfl
@[simp] theorem orFlags_fab (f : Flags) : (orFlags s f).fab = s.fab := rfl
@[simp] theorem orFlags_dev (f : Flags) : (orFlags s f).dev = s.dev := rfl
@[simp] theorem orFlags_agenda (f : Flags) : (orFlags s f).agenda = s.agenda := rfl
@[simp] theorem orFlags_fresh (f : Flags) : (orFlags s f).fresh = s.fresh := rfl

/-! ## markPoison -/

@[simp] theorem markPoison_sp (c va : Nat) : (markPoison s c va).sp = s.sp := rfl
@[simp] theorem markPoison_g (c va : Nat) :
    (markPoison s c va).g =
      { s.g with poison := s.g.poison ++ [(c, BitVec.ofNat 64 va)] } := rfl
@[simp] theorem markPoison_tm (c va : Nat) : (markPoison s c va).tm = s.tm := rfl
@[simp] theorem markPoison_groups (c va : Nat) : (markPoison s c va).groups = s.groups := rfl
@[simp] theorem markPoison_teams (c va : Nat) : (markPoison s c va).teams = s.teams := rfl
@[simp] theorem markPoison_gangs (c va : Nat) : (markPoison s c va).gangs = s.gangs := rfl
@[simp] theorem markPoison_launches (c va : Nat) : (markPoison s c va).launches = s.launches := rfl
@[simp] theorem markPoison_gt (c va : Nat) : (markPoison s c va).gt = s.gt := rfl
@[simp] theorem markPoison_mem (c va : Nat) : (markPoison s c va).mem = s.mem := rfl
@[simp] theorem markPoison_sched (c va : Nat) : (markPoison s c va).sched = s.sched := rfl
@[simp] theorem markPoison_eng (c va : Nat) : (markPoison s c va).eng = s.eng := rfl
@[simp] theorem markPoison_mx (c va : Nat) : (markPoison s c va).mx = s.mx := rfl
@[simp] theorem markPoison_kv (c va : Nat) : (markPoison s c va).kv = s.kv := rfl
@[simp] theorem markPoison_rel (c va : Nat) : (markPoison s c va).rel = s.rel := rfl
@[simp] theorem markPoison_fab (c va : Nat) : (markPoison s c va).fab = s.fab := rfl
@[simp] theorem markPoison_dev (c va : Nat) : (markPoison s c va).dev = s.dev := rfl
@[simp] theorem markPoison_agenda (c va : Nat) : (markPoison s c va).agenda = s.agenda := rfl
@[simp] theorem markPoison_fresh (c va : Nat) : (markPoison s c va).fresh = s.fresh := rfl

/-! ## setLatch -/

@[simp] theorem setLatch_sp (k l : Nat) (v : Quad) : (setLatch s k l v).sp = s.sp := rfl
@[simp] theorem setLatch_g (k l : Nat) (v : Quad) :
    (setLatch s k l v).g =
      { s.g with latches := poke s.g.latches (32 * k + l) v } := rfl
@[simp] theorem setLatch_tm (k l : Nat) (v : Quad) : (setLatch s k l v).tm = s.tm := rfl
@[simp] theorem setLatch_groups (k l : Nat) (v : Quad) : (setLatch s k l v).groups = s.groups := rfl
@[simp] theorem setLatch_teams (k l : Nat) (v : Quad) : (setLatch s k l v).teams = s.teams := rfl
@[simp] theorem setLatch_gangs (k l : Nat) (v : Quad) : (setLatch s k l v).gangs = s.gangs := rfl
@[simp] theorem setLatch_launches (k l : Nat) (v : Quad) : (setLatch s k l v).launches = s.launches := rfl
@[simp] theorem setLatch_gt (k l : Nat) (v : Quad) : (setLatch s k l v).gt = s.gt := rfl
@[simp] theorem setLatch_mem (k l : Nat) (v : Quad) : (setLatch s k l v).mem = s.mem := rfl
@[simp] theorem setLatch_sched (k l : Nat) (v : Quad) : (setLatch s k l v).sched = s.sched := rfl
@[simp] theorem setLatch_eng (k l : Nat) (v : Quad) : (setLatch s k l v).eng = s.eng := rfl
@[simp] theorem setLatch_mx (k l : Nat) (v : Quad) : (setLatch s k l v).mx = s.mx := rfl
@[simp] theorem setLatch_kv (k l : Nat) (v : Quad) : (setLatch s k l v).kv = s.kv := rfl
@[simp] theorem setLatch_rel (k l : Nat) (v : Quad) : (setLatch s k l v).rel = s.rel := rfl
@[simp] theorem setLatch_fab (k l : Nat) (v : Quad) : (setLatch s k l v).fab = s.fab := rfl
@[simp] theorem setLatch_dev (k l : Nat) (v : Quad) : (setLatch s k l v).dev = s.dev := rfl
@[simp] theorem setLatch_agenda (k l : Nat) (v : Quad) : (setLatch s k l v).agenda = s.agenda := rfl
@[simp] theorem setLatch_fresh (k l : Nat) (v : Quad) : (setLatch s k l v).fresh = s.fresh := rfl

/-! ## latchKind -/

@[simp] theorem latchKind_sp (k : Nat) (b : Bool) : (latchKind s k b).sp = s.sp := rfl
@[simp] theorem latchKind_g (k : Nat) (b : Bool) :
    (latchKind s k b).g =
      { s.g with latchVec := if b then addOnce k s.g.latchVec else s.g.latchVec.filter (· != k) } := rfl
@[simp] theorem latchKind_tm (k : Nat) (b : Bool) : (latchKind s k b).tm = s.tm := rfl
@[simp] theorem latchKind_groups (k : Nat) (b : Bool) : (latchKind s k b).groups = s.groups := rfl
@[simp] theorem latchKind_teams (k : Nat) (b : Bool) : (latchKind s k b).teams = s.teams := rfl
@[simp] theorem latchKind_gangs (k : Nat) (b : Bool) : (latchKind s k b).gangs = s.gangs := rfl
@[simp] theorem latchKind_launches (k : Nat) (b : Bool) : (latchKind s k b).launches = s.launches := rfl
@[simp] theorem latchKind_gt (k : Nat) (b : Bool) : (latchKind s k b).gt = s.gt := rfl
@[simp] theorem latchKind_mem (k : Nat) (b : Bool) : (latchKind s k b).mem = s.mem := rfl
@[simp] theorem latchKind_sched (k : Nat) (b : Bool) : (latchKind s k b).sched = s.sched := rfl
@[simp] theorem latchKind_eng (k : Nat) (b : Bool) : (latchKind s k b).eng = s.eng := rfl
@[simp] theorem latchKind_mx (k : Nat) (b : Bool) : (latchKind s k b).mx = s.mx := rfl
@[simp] theorem latchKind_kv (k : Nat) (b : Bool) : (latchKind s k b).kv = s.kv := rfl
@[simp] theorem latchKind_rel (k : Nat) (b : Bool) : (latchKind s k b).rel = s.rel := rfl
@[simp] theorem latchKind_fab (k : Nat) (b : Bool) : (latchKind s k b).fab = s.fab := rfl
@[simp] theorem latchKind_dev (k : Nat) (b : Bool) : (latchKind s k b).dev = s.dev := rfl
@[simp] theorem latchKind_agenda (k : Nat) (b : Bool) : (latchKind s k b).agenda = s.agenda := rfl
@[simp] theorem latchKind_fresh (k : Nat) (b : Bool) : (latchKind s k b).fresh = s.fresh := rfl

/-! ## drawFresh -/

@[simp] theorem drawFresh_sp : ((drawFresh s).1).sp = s.sp := rfl
@[simp] theorem drawFresh_g : ((drawFresh s).1).g = s.g := rfl
@[simp] theorem drawFresh_tm : ((drawFresh s).1).tm = s.tm := rfl
@[simp] theorem drawFresh_groups : ((drawFresh s).1).groups = s.groups := rfl
@[simp] theorem drawFresh_teams : ((drawFresh s).1).teams = s.teams := rfl
@[simp] theorem drawFresh_gangs : ((drawFresh s).1).gangs = s.gangs := rfl
@[simp] theorem drawFresh_launches : ((drawFresh s).1).launches = s.launches := rfl
@[simp] theorem drawFresh_gt : ((drawFresh s).1).gt = s.gt := rfl
@[simp] theorem drawFresh_mem : ((drawFresh s).1).mem = s.mem := rfl
@[simp] theorem drawFresh_sched : ((drawFresh s).1).sched = s.sched := rfl
@[simp] theorem drawFresh_eng : ((drawFresh s).1).eng = s.eng := rfl
@[simp] theorem drawFresh_mx : ((drawFresh s).1).mx = s.mx := rfl
@[simp] theorem drawFresh_kv : ((drawFresh s).1).kv = s.kv := rfl
@[simp] theorem drawFresh_rel : ((drawFresh s).1).rel = s.rel := rfl
@[simp] theorem drawFresh_fab : ((drawFresh s).1).fab = s.fab := rfl
@[simp] theorem drawFresh_dev : ((drawFresh s).1).dev = s.dev := rfl
@[simp] theorem drawFresh_agenda : ((drawFresh s).1).agenda = s.agenda := rfl
@[simp] theorem drawFresh_fresh : ((drawFresh s).1).fresh = s.fresh + 1 := rfl

/-! ## park -/

@[simp] theorem park_sp (w : Wait) :
    (park w s).sp =
      { s.sp with wait := some w, since := if s.sp.wait = some w then s.sp.since else s.gt } := rfl
@[simp] theorem park_g (w : Wait) : (park w s).g = s.g := rfl
@[simp] theorem park_tm (w : Wait) : (park w s).tm = s.tm := rfl
@[simp] theorem park_groups (w : Wait) : (park w s).groups = s.groups := rfl
@[simp] theorem park_teams (w : Wait) : (park w s).teams = s.teams := rfl
@[simp] theorem park_gangs (w : Wait) : (park w s).gangs = s.gangs := rfl
@[simp] theorem park_launches (w : Wait) : (park w s).launches = s.launches := rfl
@[simp] theorem park_gt (w : Wait) : (park w s).gt = s.gt := rfl
@[simp] theorem park_mem (w : Wait) : (park w s).mem = s.mem := rfl
@[simp] theorem park_sched (w : Wait) : (park w s).sched = s.sched := rfl
@[simp] theorem park_eng (w : Wait) : (park w s).eng = s.eng := rfl
@[simp] theorem park_mx (w : Wait) : (park w s).mx = s.mx := rfl
@[simp] theorem park_kv (w : Wait) : (park w s).kv = s.kv := rfl
@[simp] theorem park_rel (w : Wait) : (park w s).rel = s.rel := rfl
@[simp] theorem park_fab (w : Wait) : (park w s).fab = s.fab := rfl
@[simp] theorem park_dev (w : Wait) : (park w s).dev = s.dev := rfl
@[simp] theorem park_agenda (w : Wait) : (park w s).agenda = s.agenda := rfl
@[simp] theorem park_fresh (w : Wait) : (park w s).fresh = s.fresh := rfl

/-! ## complete -/

@[simp] theorem complete_sp (i : Shape) (s0 : State) (pc : DWord) :
    (complete i s0 s pc).sp =
      { s.sp with pc := pc, chain := chainAfter i s0, wait := none, since := s.gt } := rfl
@[simp] theorem complete_g (i : Shape) (s0 : State) (pc : DWord) : (complete i s0 s pc).g = s.g := rfl
@[simp] theorem complete_tm (i : Shape) (s0 : State) (pc : DWord) : (complete i s0 s pc).tm = s.tm := rfl
@[simp] theorem complete_groups (i : Shape) (s0 : State) (pc : DWord) : (complete i s0 s pc).groups = s.groups := rfl
@[simp] theorem complete_teams (i : Shape) (s0 : State) (pc : DWord) : (complete i s0 s pc).teams = s.teams := rfl
@[simp] theorem complete_gangs (i : Shape) (s0 : State) (pc : DWord) : (complete i s0 s pc).gangs = s.gangs := rfl
@[simp] theorem complete_launches (i : Shape) (s0 : State) (pc : DWord) :
    (complete i s0 s pc).launches =
      s.launches := rfl
@[simp] theorem complete_gt (i : Shape) (s0 : State) (pc : DWord) : (complete i s0 s pc).gt = s.gt := rfl
@[simp] theorem complete_mem (i : Shape) (s0 : State) (pc : DWord) : (complete i s0 s pc).mem = s.mem := rfl
@[simp] theorem complete_sched (i : Shape) (s0 : State) (pc : DWord) : (complete i s0 s pc).sched = s.sched := rfl
@[simp] theorem complete_eng (i : Shape) (s0 : State) (pc : DWord) : (complete i s0 s pc).eng = s.eng := rfl
@[simp] theorem complete_mx (i : Shape) (s0 : State) (pc : DWord) : (complete i s0 s pc).mx = s.mx := rfl
@[simp] theorem complete_kv (i : Shape) (s0 : State) (pc : DWord) : (complete i s0 s pc).kv = s.kv := rfl
@[simp] theorem complete_rel (i : Shape) (s0 : State) (pc : DWord) : (complete i s0 s pc).rel = s.rel := rfl
@[simp] theorem complete_fab (i : Shape) (s0 : State) (pc : DWord) : (complete i s0 s pc).fab = s.fab := rfl
@[simp] theorem complete_dev (i : Shape) (s0 : State) (pc : DWord) : (complete i s0 s pc).dev = s.dev := rfl
@[simp] theorem complete_agenda (i : Shape) (s0 : State) (pc : DWord) : (complete i s0 s pc).agenda = s.agenda := rfl
@[simp] theorem complete_fresh (i : Shape) (s0 : State) (pc : DWord) : (complete i s0 s pc).fresh = s.fresh := rfl

/-! ## updGang -/

@[simp] theorem updGang_sp (id : Nat) (f : Gang → Gang) : (updGang s id f).sp = s.sp := rfl
@[simp] theorem updGang_g (id : Nat) (f : Gang → Gang) : (updGang s id f).g = s.g := rfl
@[simp] theorem updGang_tm (id : Nat) (f : Gang → Gang) : (updGang s id f).tm = s.tm := rfl
@[simp] theorem updGang_groups (id : Nat) (f : Gang → Gang) : (updGang s id f).groups = s.groups := rfl
@[simp] theorem updGang_teams (id : Nat) (f : Gang → Gang) : (updGang s id f).teams = s.teams := rfl
@[simp] theorem updGang_gangs (id : Nat) (f : Gang → Gang) :
    (updGang s id f).gangs =
      updateWhere (fun g => g.id == id) f s.gangs := rfl
@[simp] theorem updGang_launches (id : Nat) (f : Gang → Gang) : (updGang s id f).launches = s.launches := rfl
@[simp] theorem updGang_gt (id : Nat) (f : Gang → Gang) : (updGang s id f).gt = s.gt := rfl
@[simp] theorem updGang_mem (id : Nat) (f : Gang → Gang) : (updGang s id f).mem = s.mem := rfl
@[simp] theorem updGang_sched (id : Nat) (f : Gang → Gang) : (updGang s id f).sched = s.sched := rfl
@[simp] theorem updGang_eng (id : Nat) (f : Gang → Gang) : (updGang s id f).eng = s.eng := rfl
@[simp] theorem updGang_mx (id : Nat) (f : Gang → Gang) : (updGang s id f).mx = s.mx := rfl
@[simp] theorem updGang_kv (id : Nat) (f : Gang → Gang) : (updGang s id f).kv = s.kv := rfl
@[simp] theorem updGang_rel (id : Nat) (f : Gang → Gang) : (updGang s id f).rel = s.rel := rfl
@[simp] theorem updGang_fab (id : Nat) (f : Gang → Gang) : (updGang s id f).fab = s.fab := rfl
@[simp] theorem updGang_dev (id : Nat) (f : Gang → Gang) : (updGang s id f).dev = s.dev := rfl
@[simp] theorem updGang_agenda (id : Nat) (f : Gang → Gang) : (updGang s id f).agenda = s.agenda := rfl
@[simp] theorem updGang_fresh (id : Nat) (f : Gang → Gang) : (updGang s id f).fresh = s.fresh := rfl

/-! ## updLaunch -/

@[simp] theorem updLaunch_sp (id : Nat) (f : Launch → Launch) : (updLaunch s id f).sp = s.sp := rfl
@[simp] theorem updLaunch_g (id : Nat) (f : Launch → Launch) : (updLaunch s id f).g = s.g := rfl
@[simp] theorem updLaunch_tm (id : Nat) (f : Launch → Launch) : (updLaunch s id f).tm = s.tm := rfl
@[simp] theorem updLaunch_groups (id : Nat) (f : Launch → Launch) : (updLaunch s id f).groups = s.groups := rfl
@[simp] theorem updLaunch_teams (id : Nat) (f : Launch → Launch) : (updLaunch s id f).teams = s.teams := rfl
@[simp] theorem updLaunch_gangs (id : Nat) (f : Launch → Launch) : (updLaunch s id f).gangs = s.gangs := rfl
@[simp] theorem updLaunch_launches (id : Nat) (f : Launch → Launch) :
    (updLaunch s id f).launches =
      updateWhere (fun l => l.id == id) f s.launches := rfl
@[simp] theorem updLaunch_gt (id : Nat) (f : Launch → Launch) : (updLaunch s id f).gt = s.gt := rfl
@[simp] theorem updLaunch_mem (id : Nat) (f : Launch → Launch) : (updLaunch s id f).mem = s.mem := rfl
@[simp] theorem updLaunch_sched (id : Nat) (f : Launch → Launch) : (updLaunch s id f).sched = s.sched := rfl
@[simp] theorem updLaunch_eng (id : Nat) (f : Launch → Launch) : (updLaunch s id f).eng = s.eng := rfl
@[simp] theorem updLaunch_mx (id : Nat) (f : Launch → Launch) : (updLaunch s id f).mx = s.mx := rfl
@[simp] theorem updLaunch_kv (id : Nat) (f : Launch → Launch) : (updLaunch s id f).kv = s.kv := rfl
@[simp] theorem updLaunch_rel (id : Nat) (f : Launch → Launch) : (updLaunch s id f).rel = s.rel := rfl
@[simp] theorem updLaunch_fab (id : Nat) (f : Launch → Launch) : (updLaunch s id f).fab = s.fab := rfl
@[simp] theorem updLaunch_dev (id : Nat) (f : Launch → Launch) : (updLaunch s id f).dev = s.dev := rfl
@[simp] theorem updLaunch_agenda (id : Nat) (f : Launch → Launch) : (updLaunch s id f).agenda = s.agenda := rfl
@[simp] theorem updLaunch_fresh (id : Nat) (f : Launch → Launch) : (updLaunch s id f).fresh = s.fresh := rfl

/-! ## updCtx -/

@[simp] theorem updCtx_sp (a : BitVec 16) (f : Ctx → Ctx) : (updCtx s a f).sp = s.sp := rfl
@[simp] theorem updCtx_g (a : BitVec 16) (f : Ctx → Ctx) : (updCtx s a f).g = s.g := rfl
@[simp] theorem updCtx_tm (a : BitVec 16) (f : Ctx → Ctx) : (updCtx s a f).tm = s.tm := rfl
@[simp] theorem updCtx_groups (a : BitVec 16) (f : Ctx → Ctx) : (updCtx s a f).groups = s.groups := rfl
@[simp] theorem updCtx_teams (a : BitVec 16) (f : Ctx → Ctx) : (updCtx s a f).teams = s.teams := rfl
@[simp] theorem updCtx_gangs (a : BitVec 16) (f : Ctx → Ctx) : (updCtx s a f).gangs = s.gangs := rfl
@[simp] theorem updCtx_launches (a : BitVec 16) (f : Ctx → Ctx) : (updCtx s a f).launches = s.launches := rfl
@[simp] theorem updCtx_gt (a : BitVec 16) (f : Ctx → Ctx) : (updCtx s a f).gt = s.gt := rfl
@[simp] theorem updCtx_mem (a : BitVec 16) (f : Ctx → Ctx) : (updCtx s a f).mem = s.mem := rfl
@[simp] theorem updCtx_sched (a : BitVec 16) (f : Ctx → Ctx) :
    (updCtx s a f).sched =
      { s.sched with ctxs := updateWhere (fun c => c.asid == a) f s.sched.ctxs } := rfl
@[simp] theorem updCtx_eng (a : BitVec 16) (f : Ctx → Ctx) : (updCtx s a f).eng = s.eng := rfl
@[simp] theorem updCtx_mx (a : BitVec 16) (f : Ctx → Ctx) : (updCtx s a f).mx = s.mx := rfl
@[simp] theorem updCtx_kv (a : BitVec 16) (f : Ctx → Ctx) : (updCtx s a f).kv = s.kv := rfl
@[simp] theorem updCtx_rel (a : BitVec 16) (f : Ctx → Ctx) : (updCtx s a f).rel = s.rel := rfl
@[simp] theorem updCtx_fab (a : BitVec 16) (f : Ctx → Ctx) : (updCtx s a f).fab = s.fab := rfl
@[simp] theorem updCtx_dev (a : BitVec 16) (f : Ctx → Ctx) : (updCtx s a f).dev = s.dev := rfl
@[simp] theorem updCtx_agenda (a : BitVec 16) (f : Ctx → Ctx) : (updCtx s a f).agenda = s.agenda := rfl
@[simp] theorem updCtx_fresh (a : BitVec 16) (f : Ctx → Ctx) : (updCtx s a f).fresh = s.fresh := rfl

/-! ## newId -/

@[simp] theorem newId_sp : ((newId s).1).sp = s.sp := rfl
@[simp] theorem newId_g : ((newId s).1).g = s.g := rfl
@[simp] theorem newId_tm : ((newId s).1).tm = s.tm := rfl
@[simp] theorem newId_groups : ((newId s).1).groups = s.groups := rfl
@[simp] theorem newId_teams : ((newId s).1).teams = s.teams := rfl
@[simp] theorem newId_gangs : ((newId s).1).gangs = s.gangs := rfl
@[simp] theorem newId_launches : ((newId s).1).launches = s.launches := rfl
@[simp] theorem newId_gt : ((newId s).1).gt = s.gt := rfl
@[simp] theorem newId_mem : ((newId s).1).mem = s.mem := rfl
@[simp] theorem newId_sched : ((newId s).1).sched = { s.sched with nextId := s.sched.nextId + 1 } := rfl
@[simp] theorem newId_eng : ((newId s).1).eng = s.eng := rfl
@[simp] theorem newId_mx : ((newId s).1).mx = s.mx := rfl
@[simp] theorem newId_kv : ((newId s).1).kv = s.kv := rfl
@[simp] theorem newId_rel : ((newId s).1).rel = s.rel := rfl
@[simp] theorem newId_fab : ((newId s).1).fab = s.fab := rfl
@[simp] theorem newId_dev : ((newId s).1).dev = s.dev := rfl
@[simp] theorem newId_agenda : ((newId s).1).agenda = s.agenda := rfl
@[simp] theorem newId_fresh : ((newId s).1).fresh = s.fresh := rfl

/-! ## elapse -/

@[simp] theorem elapse_sp (n : Nat) : (elapse s n).sp = s.sp := rfl
@[simp] theorem elapse_g (n : Nat) : (elapse s n).g = s.g := rfl
@[simp] theorem elapse_tm (n : Nat) : (elapse s n).tm = s.tm := rfl
@[simp] theorem elapse_groups (n : Nat) : (elapse s n).groups = s.groups := rfl
@[simp] theorem elapse_teams (n : Nat) : (elapse s n).teams = s.teams := rfl
@[simp] theorem elapse_gangs (n : Nat) : (elapse s n).gangs = s.gangs := rfl
@[simp] theorem elapse_launches (n : Nat) : (elapse s n).launches = s.launches := rfl
@[simp] theorem elapse_gt (n : Nat) : (elapse s n).gt = if counts s then s.gt + n else s.gt := rfl
@[simp] theorem elapse_mem (n : Nat) : (elapse s n).mem = applyPending s.mem (if counts s then s.gt + n else s.gt) := rfl
@[simp] theorem elapse_sched (n : Nat) : (elapse s n).sched = s.sched := rfl
@[simp] theorem elapse_eng (n : Nat) : (elapse s n).eng = s.eng := rfl
@[simp] theorem elapse_mx (n : Nat) : (elapse s n).mx = s.mx := rfl
@[simp] theorem elapse_kv (n : Nat) : (elapse s n).kv = s.kv := rfl
@[simp] theorem elapse_rel (n : Nat) : (elapse s n).rel = giveAnswers s.rel (if counts s then s.gt + n else s.gt) := rfl
@[simp] theorem elapse_fab (n : Nat) : (elapse s n).fab = givePeers s.fab (if counts s then s.gt + n else s.gt) := rfl
@[simp] theorem elapse_dev (n : Nat) : (elapse s n).dev = s.dev := rfl
@[simp] theorem elapse_agenda (n : Nat) : (elapse s n).agenda = s.agenda := rfl
@[simp] theorem elapse_fresh (n : Nat) : (elapse s n).fresh = s.fresh := rfl

end Sys2Proof.Machine
end

