-- ==== Sys2Proof/Laws/Operations.lean ====
section
/-! SUPPORT. What each shared operation does, said once: how an instruction ends, what a trap does, what registers read
after a write. -/

namespace Sys2Proof.Machine

/-! ## How an instruction ends -/

/-- An instruction that passes the checks of issue and completes. -/
theorem run_done {i : Shape} {body : State → Res} {s u : State} (h : issueCheck i s = .go) (hb : body s = .done u) :
    run i body s = .next (complete i s u (nextPc i s)) := by
  unfold run
  simp only [h, hb]

/-- An instruction that passes the checks of issue and goes elsewhere. -/
theorem run_jump {i : Shape} {body : State → Res} {s u : State} (h : issueCheck i s = .go) (hb : body s = .jump u) :
    run i body s = .next (complete i s u u.sp.pc) := by
  unfold run
  simp only [h, hb]

/-- An instruction that passes the checks of issue and raises a cause. -/
theorem run_raise {i : Shape} {body : State → Res} {s u : State} {t : Trap} (h : issueCheck i s = .go)
    (hb : body s = .raise t u) :
    run i body s = .next (takeTrap u t (s.sp.chain.isSome || suppresses i) (nextPc i s)) := by
  unfold run
  simp only [h, hb]

/-- An instruction that passes the checks of issue and waits. -/
theorem run_wait {i : Shape} {body : State → Res} {s u : State} {w : Wait} (h : issueCheck i s = .go)
    (hb : body s = .wait w u) : run i body s = .next (park w u) := by
  unfold run
  simp only [h, hb]

/-- Every way an instruction can end. -/
theorem run_cases {i : Shape} {body : State → Res} {s t : State} (h : run i body s = .next t) :
    (∃ w, issueCheck i s = .hold w ∧ t = park w s) ∨
    (∃ r, issueCheck i s = .stop r ∧ t = takeTrap s r (s.sp.chain.isSome || suppresses i) (nextPc i s)) ∨
    (issueCheck i s = .go ∧
      ((∃ u, body s = .done u ∧ t = complete i s u (nextPc i s)) ∨
       (∃ u, body s = .jump u ∧ t = complete i s u u.sp.pc) ∨
       (∃ r u, body s = .raise r u ∧ t = takeTrap u r (s.sp.chain.isSome || suppresses i) (nextPc i s)) ∨
       (∃ w u, body s = .wait w u ∧ t = park w u))) := by
  unfold run at h
  split at h
  · rename_i r hr
    exact .inr (.inl ⟨r, hr, by simpa using h.symm⟩)
  · rename_i w hw
    exact .inl ⟨w, hw, by simpa using h.symm⟩
  · rename_i hg
    refine .inr (.inr ⟨hg, ?_⟩)
    split at h
    · rename_i u hu
      exact .inl ⟨u, hu, by simpa using h.symm⟩
    · rename_i u hu
      exact .inr (.inl ⟨u, hu, by simpa using h.symm⟩)
    · rename_i r u hu
      exact .inr (.inr (.inl ⟨r, u, hu, by simpa using h.symm⟩))
    · rename_i w u hu
      exact .inr (.inr (.inr ⟨w, u, hu, by simpa using h.symm⟩))

/-- An instruction always has a next state. -/
theorem run_next (i : Shape) (body : State → Res) (s : State) : ∃ t, run i body s = .next t := by
  unfold run
  split
  · exact ⟨_, rfl⟩
  · exact ⟨_, rfl⟩
  · split <;> exact ⟨_, rfl⟩

/-! ## Registers -/

/-- The parts of the canonical form of the group in focus. -/
theorem State.wf_group {s : State} (h : s.wf = true) : s.g.wf = true := by
  simp only [State.wf, Bool.and_eq_true] at h
  exact h.1.1.1.2

theorem Group.wf_sregs {g : Group} (h : g.wf = true) : cellsWf g.sregs = true := by
  simp only [Group.wf, Bool.and_eq_true] at h
  exact h.1.1.1.1

theorem Group.wf_vregs {g : Group} (h : g.wf = true) : cellsWf g.vregs = true := by
  simp only [Group.wf, Bool.and_eq_true] at h
  exact h.1.1.1.2

theorem Group.wf_masks {g : Group} (h : g.wf = true) : cellsWf g.masks = true := by
  simp only [Group.wf, Bool.and_eq_true] at h
  exact h.1.1.2

theorem Group.wf_latches {g : Group} (h : g.wf = true) : cellsWf g.latches = true := by
  simp only [Group.wf, Bool.and_eq_true] at h
  exact h.1.2

/-- A scalar register reads as last written, and every other one as before. -/
theorem getS_setS {s : State} (h : cellsWf s.g.sregs = true) (n m : Nat) (v : Word) :
    getS (setS s n v) m = if m = n then v else getS s m := by
  simp only [getS, setS_g]
  exact peek_poke h n m v

/-- Writing a word into lanes of a latch changes nothing but that latch. -/
theorem foldl_setLatch (k : Nat) (v : Quad) : ∀ (l : List Nat) (s : State), l.foldl (fun t l => setLatch t k l v) s =
    { s with g := { s.g with latches := l.foldl (fun m l => poke m (32 * k + l) v) s.g.latches } }
  | [], _ => rfl
  | _ :: l, s => by rw [List.foldl_cons, foldl_setLatch k v l]; rfl

/-- What a scalar result in a latch does (R166). -/
theorem latchScalars_eq (s : State) (k : Nat) (v : Quad) : latchScalars s k v = { s with g := { s.g with
    latches := (List.range 32).foldl (fun m l => poke m (32 * k + l) v) s.g.latches
    latchVec := s.g.latchVec.filter (· != k) } } := by
  rw [latchScalars, foldl_setLatch]; rfl

/-- A scalar register of a state whose latch has taken a result reads as before. -/
theorem latchScalars_sregs (s : State) (k : Nat) (v : Quad) : (latchScalars s k v).g.sregs = s.g.sregs := by
  rw [latchScalars_eq]

/-- What a scalar result of an instruction outside chains does (R50): its register, its poison mark, and L0. -/
theorem resultS_eq (s : State) (n : Nat) (v : Word) : resultS s n v = setS { s with g := { s.g with
    latches := (List.range 32).foldl (fun m l => poke m (32 * 0 + l) (v.setWidth 128)) s.g.latches
    latchVec := s.g.latchVec.filter (· != 0) } } n v := by
  rw [resultS, latchScalars_eq]

/-- The same for a pair, low word first. -/
theorem resultPair_eq (s : State) (n : Nat) (v : DWord) : resultPair s n v = setPair { s with g := { s.g with
    latches := (List.range 32).foldl (fun m l => poke m (32 * 0 + l) (v.setWidth 128)) s.g.latches
    latchVec := s.g.latchVec.filter (· != 0) } } n v := by
  rw [resultPair, latchScalars_eq]

/-- A scalar register reads a result, and every other one as before. -/
theorem getS_resultS {s : State} (h : cellsWf s.g.sregs = true) (n m : Nat) (v : Word) :
    getS (resultS s n v) m = if m = n then v else getS s m := by
  rw [resultS, getS_setS (by rwa [latchScalars_sregs]), getS, latchScalars_sregs]; rfl

/-- A vector register lane reads as last written, and every other one as before. -/
theorem getV_setV {s : State} (h : cellsWf s.g.vregs = true) {l k : Nat} (hl : l < 32) (hk : k < 32) (r q : Nat)
    (v : Word) : getV (setV s r l v) q k = if q = r ∧ k = l then v else getV s q k := by
  simp only [getV, setV_g]
  rw [peek_poke h]
  have : (32 * q + k = 32 * r + l) ↔ (q = r ∧ k = l) := by omega
  simp only [this]

/-- Writing a register keeps the registers canonical. -/
theorem setS_wf {s : State} (h : cellsWf s.g.sregs = true) (n : Nat) (v : Word) : cellsWf (setS s n v).g.sregs = true := by
  simp only [setS_g]
  exact cellsWf_poke n v h

theorem setV_wf {s : State} (h : cellsWf s.g.vregs = true) (r l : Nat) (v : Word) :
    cellsWf (setV s r l v).g.vregs = true := by
  simp only [setV_g]
  exact cellsWf_poke (32 * r + l) v h

/-! ## Memory -/

/-- Writing bytes keeps a memory canonical. -/
theorem pokeBytes_wf : ∀ (bs : List (Nat × Byte)) {m : Sparse 8}, cellsWf m = true → cellsWf (pokeBytes m bs) = true
  | [], _, h => h
  | b :: bs, m, h => pokeBytes_wf bs (m := poke m b.1 b.2) (cellsWf_poke b.1 b.2 h)

/-- A byte that is not among those written reads as before. -/
theorem pokeBytes_other : ∀ (bs : List (Nat × Byte)) {m : Sparse 8}, cellsWf m = true → ∀ a, (∀ b ∈ bs, b.1 ≠ a) →
    peek (pokeBytes m bs) a = peek m a
  | [], _, _, _, _ => rfl
  | b :: bs, m, h, a, ha => by
    have ih := pokeBytes_other bs (m := poke m b.1 b.2) (cellsWf_poke b.1 b.2 h) a fun c hc =>
      ha c (List.mem_cons_of_mem _ hc)
    have hb : a ≠ b.1 := fun e => ha b (List.mem_cons_self ..) e.symm
    show peek (pokeBytes (poke m b.1 b.2) bs) a = _
    rw [ih, peek_poke h, if_neg hb]

theorem foldl_pokeBytes_wf {α : Type} (f : α → List (Nat × Byte)) : ∀ (l : List α) {m : Sparse 8}, cellsWf m = true →
    cellsWf (l.foldl (fun a p => pokeBytes a (f p)) m) = true
  | [], _, h => h
  | p :: l, m, h => foldl_pokeBytes_wf f l (m := pokeBytes m (f p)) (pokeBytes_wf (f p) h)

/-- Pending writes that become current keep memory canonical. -/
theorem applyPending_wf {m : MemSys} (h : cellsWf m.phys = true) (gt : Nat) : cellsWf (applyPending m gt).phys = true :=
  foldl_pokeBytes_wf (fun (p : PendW) => p.bytes) _ h

/-- Time passing keeps memory canonical. -/
theorem elapse_wf {s : State} (h : Memory.wf s = true) (n : Nat) : Memory.wf (elapse s n) = true := by
  simp only [Memory.wf, elapse_fab, elapse_mem, Bool.and_eq_true] at h ⊢
  exact ⟨⟨applyPending_wf h.1.1 _, h.1.2⟩, h.2⟩

/-- A write at its home keeps memory canonical, from whatever tick on it may complete. -/
theorem homeWriteFrom_wf {s : State} (h : Memory.wf s = true) (t : Nat) (asid : BitVec 16) (line : Nat) (bs : List (Nat × Byte)) :
    Memory.wf (homeWriteFrom t s asid line bs).1 = true := by
  simp only [Memory.wf, Bool.and_eq_true] at h ⊢
  refine ⟨⟨?_, h.1.2⟩, h.2⟩
  simp only [homeWriteFrom]
  split
  · exact pokeBytes_wf bs h.1.1
  · exact h.1.1

/-- A write at its home keeps memory canonical. -/
theorem homeWrite_wf {s : State} (h : Memory.wf s = true) (asid : BitVec 16) (line : Nat) (bs : List (Nat × Byte)) :
    Memory.wf (homeWrite s asid line bs).1 = true := homeWriteFrom_wf h s.gt asid line bs

end Sys2Proof.Machine
end

