-- ==== Sys2Proof/Laws/Memory.lean ====
section
/-! SUPPORT. Lines and homes, said once: when an access entangles nothing and recalls nothing, what a served line
reads, and what a write at the home leaves. -/

namespace Sys2Proof.Machine

/-- The granule of a line is that of its addresses. -/
theorem granuleOf_line (va : Nat) : granuleOf (vaOfLine (lineOf va)) = va % 2 ^ 57 / 65536 := by
  unfold granuleOf vaOfLine lineOf
  split <;> omega

/-- A launch that touches a granule of which no other launch holds a copy is entangled with none. -/
theorem touchGranule_untangled {s : State} {lid : Nat} {asid : BitVec 16} {g : Nat} (h : Untangled s lid asid g) :
    touchGranule s lid asid g = s := by
  have hf : (s.launches.filter fun l => l.id != lid && l.rcd.asid == asid && l.snap.any fun e => e.gran == g) = [] := by
    rw [List.filter_eq_nil_iff]
    intro l hl hc
    simp only [Bool.and_eq_true, bne_iff_ne, ne_eq, beq_iff_eq, List.any_eq_true] at hc
    obtain ⟨⟨h1, h2⟩, e, he, hg⟩ := hc
    exact h l hl h1 h2 e he hg
  simp only [touchGranule, hf, List.foldl_nil]

/-- A line for which no core collects contributions has no holders, and its recall changes nothing. -/
theorem holdersOf_none {m : MemSys} {asid : BitVec 16} {line : Nat} (h : ∀ u ∈ m.ulines, u.asid = asid → u.line ≠ line) :
    holdersOf m asid line = [] := by
  rw [holdersOf, List.filter_eq_nil_iff]
  intro u hu hc
  simp only [Bool.and_eq_true, beq_iff_eq] at hc
  exact h u hu hc.1 hc.2

theorem recallLine_none {s : State} {asid : BitVec 16} {line : Nat} (h : ∀ u ∈ s.mem.ulines, u.asid = asid → u.line ≠ line) :
    recallLine s asid line = s := by
  rw [recallLine, holdersOf_none h, List.foldl_nil]

/-- A line that no unit holds is not held. -/
theorem heldLine_none {cs : List CLine} {asid : BitVec 16} {line : Nat} (h : ∀ c ∈ cs, c.asid = asid → c.line ≠ line)
    (unit : Nat) : heldLine cs unit asid line = none := by
  rw [heldLine, List.find?_eq_none]
  intro c hc hx
  simp only [Bool.and_eq_true, beq_iff_eq] at hx
  exact h c hc hx.1.2 hx.2

/-- After a unit takes a line, it holds it. -/
theorem heldLine_putLine (cs : List CLine) (c : CLine) : heldLine (putLine cs c) c.unit c.asid c.line = some c := by
  have hn : ((cs.filter (fun x => !(x.unit == c.unit && x.asid == c.asid && x.line == c.line))).find?
      fun x => x.unit == c.unit && x.asid == c.asid && x.line == c.line) = none := by
    rw [List.find?_eq_none]
    intro x hx
    have := (List.mem_filter.1 hx).2
    simpa only [Bool.not_eq_true, Bool.not_eq_true'] using this
  rw [heldLine, putLine, List.find?_append, hn]
  simp

theorem length_peekAll {w : Nat} (m : Sparse w) : ∀ (n k : Nat), (peekAll m k n).length = n
  | 0, _ => rfl
  | n + 1, k => by simp [peekAll, length_peekAll m n]

theorem getD_peekAll {w : Nat} (m : Sparse w) : ∀ (n k i : Nat), i < n → (peekAll m k n).getD i 0 = peek m (k + i)
  | 0, _, _, h => absurd h (Nat.not_lt_zero _)
  | n + 1, k, 0, _ => by simp [peekAll]
  | n + 1, k, i + 1, h => by
    have := getD_peekAll m n (k + 1) i (by omega)
    simp only [peekAll, List.getD_cons_succ, this]
    congr 1
    omega

/-- A run of cells within a run of cells. -/
theorem take_drop_peekAll {w : Nat} (m : Sparse w) : ∀ (o k n j : Nat), o + j ≤ n →
    ((peekAll m k n).drop o).take j = peekAll m (k + o) j
  | 0, k, n, 0, _ => by simp [peekAll]
  | 0, k, 0, j + 1, h => by omega
  | 0, k, n + 1, j + 1, h => by
    have := take_drop_peekAll m 0 (k + 1) n j (by omega)
    simp only [Nat.add_zero, List.drop_zero] at this
    simp [peekAll, this]
  | o + 1, k, 0, j, h => by
    have : j = 0 := by omega
    subst this
    simp [peekAll]
  | o + 1, k, n + 1, j, h => by
    have := take_drop_peekAll m o (k + 1) n j (by omega)
    simp only [peekAll, List.drop_succ_cons, this]
    congr 1
    omega

/-- Nothing in the first list: the second stands. -/
theorem overlay_none : ∀ (b : List Byte) (n : Nat), b.length = n → overlay (List.replicate n none) b = b
  | [], 0, _ => rfl
  | x :: b, n + 1, h => by
    have := overlay_none b n (by simpa using h)
    simpa [overlay, List.replicate_succ] using this
  | [], n + 1, h => by simp at h
  | x :: b, 0, h => by simp at h

/-- What a unit gives of a line it does not hold. -/
theorem heldBytes_none {cs : List CLine} {unit : Nat} {asid : BitVec 16} {line : Nat}
    (h : heldLine cs unit asid line = none) (gt off n : Nat) :
    heldBytes cs gt unit asid line off n = List.replicate n none := by
  rw [heldBytes, h]

/-- A lease that is granted runs, and no longer than its class (R110). -/
theorem grantLease_bound {m : MemSys} {gt : Nat} {p : Quad} {line le : Nat} (h : grantLease m gt p line = some le) :
    gt < le ∧ le ≤ gt + pteLease p := by
  have key : ∀ (x : Nat), (if x ≤ gt then none else some x) = some le → gt < le ∧ x = le := by
    intro x hx
    split at hx
    · cases hx
    · cases hx
      exact ⟨by omega, rfl⟩
  obtain ⟨h1, h2⟩ := key _ h
  refine ⟨h1, ?_⟩
  rw [← h2]
  split
  · exact Nat.min_le_left _ _
  · exact Nat.le_refl _

/-- A line that held nothing keeps nothing when it is filled. -/
theorem filter_zip_new (l : List (Nat × Byte)) : l.filter (fun b => !(([] : List (Nat × Byte)).any fun k => k.1 == b.1)) = l := by
  simp

/-- What a line that has just been filled gives. -/
theorem heldByte_fresh {gt unit line le : Nat} {asid : BitVec 16} {bs : List Byte} (h : gt < le) (hl : bs.length = 128) :
    let c : CLine :=
      { unit := unit, asid := asid, line := line, le := le, bytes := (List.range bs.length).zip bs, pins := [], sick := [] }
    ((List.range 128).map fun i => (heldByte c gt i).getD (bs.getD i 0)) = bs := by
  intro c
  apply List.ext_getElem
  · simp [hl]
  · intro i h1 h2
    simp only [List.length_map, List.length_range] at h1
    have : ((List.range bs.length).zip bs).find? (fun b => b.1 == i) = some (i, bs[i]) := by
      rw [List.find?_eq_some_iff_getElem]
      refine ⟨by simp, i, by simpa using h2, by simp, ?_⟩
      intro j hj
      simp
      omega
    simp [c, heldByte, h, this]

/-- What is left where room has been made was there before. -/
theorem makeRoom_sub {cs l : List CLine} {gt unit line room : Nat} {asid : BitVec 16}
    (h : makeRoom cs gt unit asid line room = some l) : ∀ c ∈ l, c ∈ cs := by
  intro c hc
  simp only [makeRoom] at h
  split at h
  · cases h
    exact hc
  · obtain ⟨old, -, rfl⟩ := Option.map_eq_some_iff.1 h
    exact (List.mem_filter.1 hc).1

/-- A unit that fills a line holds what it held, and perhaps that line with the lease. -/
theorem fillLine_sub {cs : List CLine} {gt unit line le room : Nat} {asid : BitVec 16} {bs : List Byte} :
    ∀ h ∈ fillLine cs gt unit asid line le bs room, h ∈ cs ∨ (h.unit = unit ∧ h.line = line ∧ h.asid = asid ∧ h.le = le) := by
  intro h hh
  unfold fillLine at hh
  split at hh
  · exact .inl hh
  · rename_i l hl
    simp only [putLine, List.mem_append, List.mem_filter, List.mem_singleton] at hh
    rcases hh with hh | rfl
    · exact .inl (makeRoom_sub hl _ hh.1)
    · exact .inr ⟨rfl, rfl, rfl, rfl⟩

/-- A unit that did not hold a line holds it fresh after it fills it, if it has room. -/
theorem fillLine_held {cs : List CLine} {gt unit line le room : Nat} {asid : BitVec 16} {bs : List Byte}
    (h : ∀ c ∈ cs, c.asid = asid → c.line ≠ line) :
    heldLine (fillLine cs gt unit asid line le bs room) unit asid line = none ∨
      heldLine (fillLine cs gt unit asid line le bs room) unit asid line =
        some { unit := unit, asid := asid, line := line, le := le, bytes := (List.range bs.length).zip bs, pins := [], sick := [] } := by
  unfold fillLine
  split
  · exact .inl (heldLine_none h unit)
  · rename_i l hl
    refine .inr ?_
    rw [heldLine_none (fun c hc => h c (makeRoom_sub hl c hc)) unit]
    simp only [filter_zip_new, List.nil_append]
    exact heldLine_putLine _ _

/-- What the home serves of a line that no unit holds (R110): the bytes that are current, with a lease that the core's L1
and perhaps the cluster cache then hold. -/
theorem homeServe_spec {s : State} {lid core : Nat} {p : Quad} {line : Nat} (keep : Bool)
    (hc : ∀ c ∈ s.mem.cc, c.asid = pteAsid p → c.line ≠ line) (ht : Untangled s lid (pteAsid p) (granuleOf (vaOfLine line))) :
    let t := (homeServe s lid core p line keep).1
    (homeServe s lid core p line keep).2 = peekAll s.mem.phys (physOf p (vaOfLine line)) 128 ∧
      t = { s with mem := { s.mem with l1 := t.mem.l1, cc := t.mem.cc, hlines := t.mem.hlines } } ∧
      ∀ h ∈ t.mem.l1, h ∈ s.mem.l1 ∨
        (h.unit = core ∧ h.line = line ∧ h.asid = pteAsid p ∧ h.le ≤ s.gt + pteLease p ∧ s.gt < h.le) := by
  have hs := touchGranule_untangled ht
  unfold homeServe
  simp only [hs]
  split
  · split
    · exact ⟨rfl, rfl, fun h hh => .inl hh⟩
    · rename_i le hle
      have hb := grantLease_bound hle
      refine ⟨?_, rfl, ?_⟩
      · show (match heldLine _ _ _ _ with | some c => _ | none => _) = _
        split
        · rename_i c hx
          split at hx
          · rcases fillLine_held hc with hn | hn
            · exact absurd (hn.symm.trans hx) (by simp)
            · cases hn.symm.trans hx
              exact heldByte_fresh hb.1 (length_peekAll _ _ _)
          · exact absurd ((heldLine_none hc _).symm.trans hx) (by simp)
        · rfl
      · intro h hh
        rcases fillLine_sub h hh with hh | ⟨h1, h2, h3, h4⟩
        · exact .inl hh
        · exact .inr ⟨h1, h2, h3, h4 ▸ hb.2, h4 ▸ hb.1⟩
  · exact ⟨rfl, rfl, fun h hh => .inl hh⟩

end Sys2Proof.Machine
end

