-- ==== Sys2Proof/Laws/PerInstr.lean ====
section
/-! SUPPORT. Statements about every instruction as syntax, one lemma per constructor. -/

namespace Sys2Proof

theorem Raw.units_length (r : Raw) : r.units.length = if r.lit.isSome then 3 else 2 := by
  rw [Raw.units_eq]
  cases r.lit <;> rfl

theorem Raw.units_head (r : Raw) : r.units.headD 0 = r.unit0 := by
  rw [Raw.units_eq]
  cases r.lit <;> rfl

/-- An instruction has as many units as its form says. -/
theorem Shape.units_length (i : Shape) : i.units.length = i.length := by
  cases i with
  | formA op fn ok one pairs x => rfl
  | bc r x => exact (Raw.units_length _).trans rfl
  | brv neg x => rw [Shape.units, Raw.units_length]; rfl
  | event => rfl

theorem Raw.lengthOf_unit0 (r : Raw) : lengthOf r.unit0 = if r.lit.isSome then 3 else 2 := by
  unfold lengthOf
  rw [Raw.unit0_low]
  cases r.lit <;> rfl

/-- Bits [1:0] of the first unit give the number of units (R138). -/
theorem Shape.lengthOf_head (i : Shape) (h : i.units ≠ []) : lengthOf (i.units.headD 0) = i.length := by
  cases i with
  | formA op fn ok one pairs x =>
    have e0 : (fn ++ x.b ++ x.a ++ x.d ++ op ++ 0#2).extractLsb' 0 2 = 0#2 := by
      simp (disch := decide) only [extract_append_low, extract_all]
    simp [Shape.units, Shape.length, lengthOf, e0]
  | bc r x => rw [Shape.units, Raw.units_head, Raw.lengthOf_unit0]; rfl
  | brv neg x => rw [Shape.units, Raw.units_head, Raw.lengthOf_unit0]; rfl
  | event => exact absurd rfl h

end Sys2Proof

namespace Sys2Proof.Laws.Encoding

/-- The encoder gives an instruction as many units as it takes, none for an event of the device, and bits [1:0] of the
first unit say how many (R138). -/
def Statement (i : Instr) : Prop :=
  (encode i).length = i.length ∧ (encode i ≠ [] → lengthOf ((encode i).headD 0) = i.length)

/-- The statement holds of an instruction because it holds of its shape. -/
theorem statement_of_shape (i : Instr) : Statement i :=
  ⟨i.shape.units_length, i.shape.lengthOf_head⟩

theorem sadd (x : _) : Statement (.sadd x) := statement_of_shape _
theorem saddC (x : _) : Statement (.saddC x) := statement_of_shape _
theorem ssub (x : _) : Statement (.ssub x) := statement_of_shape _
theorem ssubC (x : _) : Statement (.ssubC x) := statement_of_shape _
theorem smul (x : _) : Statement (.smul x) := statement_of_shape _
theorem smulC (x : _) : Statement (.smulC x) := statement_of_shape _
theorem smulh (x : _) : Statement (.smulh x) := statement_of_shape _
theorem smulhC (x : _) : Statement (.smulhC x) := statement_of_shape _
theorem smulhn (x : _) : Statement (.smulhn x) := statement_of_shape _
theorem smulhnC (x : _) : Statement (.smulhnC x) := statement_of_shape _
theorem sdiv (x : _) : Statement (.sdiv x) := statement_of_shape _
theorem sdivC (x : _) : Statement (.sdivC x) := statement_of_shape _
theorem sdivn (x : _) : Statement (.sdivn x) := statement_of_shape _
theorem sdivnC (x : _) : Statement (.sdivnC x) := statement_of_shape _
theorem srem (x : _) : Statement (.srem x) := statement_of_shape _
theorem sremC (x : _) : Statement (.sremC x) := statement_of_shape _
theorem sremn (x : _) : Statement (.sremn x) := statement_of_shape _
theorem sremnC (x : _) : Statement (.sremnC x) := statement_of_shape _
theorem sand (x : _) : Statement (.sand x) := statement_of_shape _
theorem sandC (x : _) : Statement (.sandC x) := statement_of_shape _
theorem sor (x : _) : Statement (.sor x) := statement_of_shape _
theorem sorC (x : _) : Statement (.sorC x) := statement_of_shape _
theorem sxor (x : _) : Statement (.sxor x) := statement_of_shape _
theorem sxorC (x : _) : Statement (.sxorC x) := statement_of_shape _
theorem sandn (x : _) : Statement (.sandn x) := statement_of_shape _
theorem sandnC (x : _) : Statement (.sandnC x) := statement_of_shape _
theorem sshl (x : _) : Statement (.sshl x) := statement_of_shape _
theorem sshlC (x : _) : Statement (.sshlC x) := statement_of_shape _
theorem sshr (x : _) : Statement (.sshr x) := statement_of_shape _
theorem sshrC (x : _) : Statement (.sshrC x) := statement_of_shape _
theorem ssra (x : _) : Statement (.ssra x) := statement_of_shape _
theorem ssraC (x : _) : Statement (.ssraC x) := statement_of_shape _
theorem srot (x : _) : Statement (.srot x) := statement_of_shape _
theorem srotC (x : _) : Statement (.srotC x) := statement_of_shape _
theorem smin (x : _) : Statement (.smin x) := statement_of_shape _
theorem sminC (x : _) : Statement (.sminC x) := statement_of_shape _
theorem smax (x : _) : Statement (.smax x) := statement_of_shape _
theorem smaxC (x : _) : Statement (.smaxC x) := statement_of_shape _
theorem sminn (x : _) : Statement (.sminn x) := statement_of_shape _
theorem sminnC (x : _) : Statement (.sminnC x) := statement_of_shape _
theorem smaxn (x : _) : Statement (.smaxn x) := statement_of_shape _
theorem smaxnC (x : _) : Statement (.smaxnC x) := statement_of_shape _
theorem scmp (x : _) (y : _) : Statement (.scmp x y) := statement_of_shape _
theorem scmpC (x : _) : Statement (.scmpC x) := statement_of_shape _
theorem ssel (x : _) : Statement (.ssel x) := statement_of_shape _
theorem sselC (x : _) : Statement (.sselC x) := statement_of_shape _
theorem smov (x : _) : Statement (.smov x) := statement_of_shape _
theorem smovC (x : _) : Statement (.smovC x) := statement_of_shape _
theorem sclz (x : _) : Statement (.sclz x) := statement_of_shape _
theorem sclzC (x : _) : Statement (.sclzC x) := statement_of_shape _
theorem spopc (x : _) : Statement (.spopc x) := statement_of_shape _
theorem spopcC (x : _) : Statement (.spopcC x) := statement_of_shape _
theorem sbrev (x : _) : Statement (.sbrev x) := statement_of_shape _
theorem sbrevC (x : _) : Statement (.sbrevC x) := statement_of_shape _
theorem sbfx (x : _) : Statement (.sbfx x) := statement_of_shape _
theorem sbfxC (x : _) : Statement (.sbfxC x) := statement_of_shape _
theorem sbfxSx (x : _) : Statement (.sbfxSx x) := statement_of_shape _
theorem sbfxSxC (x : _) : Statement (.sbfxSxC x) := statement_of_shape _
theorem sbfi (x : _) : Statement (.sbfi x) := statement_of_shape _
theorem sbfiC (x : _) : Statement (.sbfiC x) := statement_of_shape _
theorem sadd64 (x : _) : Statement (.sadd64 x) := statement_of_shape _
theorem sadd64C (x : _) : Statement (.sadd64C x) := statement_of_shape _
theorem ssub64 (x : _) : Statement (.ssub64 x) := statement_of_shape _
theorem ssub64C (x : _) : Statement (.ssub64C x) := statement_of_shape _
theorem smul64 (x : _) : Statement (.smul64 x) := statement_of_shape _
theorem smul64C (x : _) : Statement (.smul64C x) := statement_of_shape _
theorem br (x : _) : Statement (.br x) := statement_of_shape _
theorem brc (x : _) : Statement (.brc x) := statement_of_shape _
theorem brv (x : _) : Statement (.brv x) := statement_of_shape _
theorem brvNot (x : _) : Statement (.brvNot x) := statement_of_shape _
theorem jmp (x : _) : Statement (.jmp x) := statement_of_shape _
theorem call (x : _) : Statement (.call x) := statement_of_shape _
theorem callIndirect (x : _) : Statement (.callIndirect x) := statement_of_shape _
theorem ret (x : _) : Statement (.ret x) := statement_of_shape _
theorem join (x : _) : Statement (.join x) := statement_of_shape _
theorem loop (x : _) : Statement (.loop x) := statement_of_shape _
theorem pushp (x : _) : Statement (.pushp x) := statement_of_shape _
theorem invp (x : _) : Statement (.invp x) := statement_of_shape _
theorem popp (x : _) : Statement (.popp x) := statement_of_shape _
theorem exit (x : _) : Statement (.exit x) := statement_of_shape _
theorem reconverge : Statement .reconverge := statement_of_shape _
theorem spinfoState (x : _) : Statement (.spinfoState x) := statement_of_shape _
theorem spinfoActive (x : _) : Statement (.spinfoActive x) := statement_of_shape _
theorem spinfoExec (x : _) : Statement (.spinfoExec x) := statement_of_shape _
theorem yield (x : _) : Statement (.yield x) := statement_of_shape _
theorem nop (x : _) : Statement (.nop x) := statement_of_shape _
theorem brk (x : _) : Statement (.brk x) := statement_of_shape _
theorem brkCode (x : _) : Statement (.brkCode x) := statement_of_shape _
theorem trap (x : _) : Statement (.trap x) := statement_of_shape _
theorem rte (x : _) : Statement (.rte x) := statement_of_shape _
theorem setfmt (x : _) : Statement (.setfmt x) := statement_of_shape _
theorem setrnd (x : _) : Statement (.setrnd x) := statement_of_shape _
theorem sget (x : _) : Statement (.sget x) := statement_of_shape _
theorem sput (x : _) : Statement (.sput x) := statement_of_shape _
theorem ltm (x : _) : Statement (.ltm x) := statement_of_shape _
theorem ppoint (x : _) : Statement (.ppoint x) := statement_of_shape _
theorem lnch (x : _) : Statement (.lnch x) := statement_of_shape _
theorem sigDev (x : _) : Statement (.sigDev x) := statement_of_shape _
theorem sigSys (x : _) : Statement (.sigSys x) := statement_of_shape _
theorem wget (x : _) : Statement (.wget x) := statement_of_shape _
theorem bmode (x : _) : Statement (.bmode x) := statement_of_shape _
theorem xinv (x : _) : Statement (.xinv x) := statement_of_shape _
theorem cmaintInv (x : _) : Statement (.cmaintInv x) := statement_of_shape _
theorem cmaintMerge (x : _) : Statement (.cmaintMerge x) := statement_of_shape _
theorem cmaintPurge (x : _) : Statement (.cmaintPurge x) := statement_of_shape _
theorem cmaintPurgeasid (x : _) : Statement (.cmaintPurgeasid x) := statement_of_shape _
theorem halt (x : _) : Statement (.halt x) := statement_of_shape _
theorem sysc (x : _) : Statement (.sysc x) := statement_of_shape _
theorem syscReply (x : _) (y : _) (z : _) : Statement (.syscReply x y z) := statement_of_shape _
theorem vadd (x : _) : Statement (.vadd x) := statement_of_shape _
theorem vsub (x : _) : Statement (.vsub x) := statement_of_shape _
theorem vmul (x : _) : Statement (.vmul x) := statement_of_shape _
theorem vmulh (x : _) : Statement (.vmulh x) := statement_of_shape _
theorem vmad (x : _) : Statement (.vmad x) := statement_of_shape _
theorem vmin (x : _) : Statement (.vmin x) := statement_of_shape _
theorem vmax (x : _) : Statement (.vmax x) := statement_of_shape _
theorem vabs (x : _) : Statement (.vabs x) := statement_of_shape _
theorem vand (x : _) : Statement (.vand x) := statement_of_shape _
theorem vor (x : _) : Statement (.vor x) := statement_of_shape _
theorem vxor (x : _) : Statement (.vxor x) := statement_of_shape _
theorem vandn (x : _) : Statement (.vandn x) := statement_of_shape _
theorem vshl (x : _) : Statement (.vshl x) := statement_of_shape _
theorem vshr (x : _) : Statement (.vshr x) := statement_of_shape _
theorem vsra (x : _) : Statement (.vsra x) := statement_of_shape _
theorem vclz (x : _) : Statement (.vclz x) := statement_of_shape _
theorem vpopc (x : _) : Statement (.vpopc x) := statement_of_shape _
theorem vbfx (x : _) : Statement (.vbfx x) := statement_of_shape _
theorem vbfi (x : _) : Statement (.vbfi x) := statement_of_shape _
theorem vcmp (x : _) : Statement (.vcmp x) := statement_of_shape _
theorem vsel (x : _) : Statement (.vsel x) := statement_of_shape _
theorem vmov (x : _) : Statement (.vmov x) := statement_of_shape _
theorem vdot4 (x : _) : Statement (.vdot4 x) := statement_of_shape _
theorem vdot4Mix (x : _) : Statement (.vdot4Mix x) := statement_of_shape _
theorem vdot2 (x : _) : Statement (.vdot2 x) := statement_of_shape _
theorem vdot2Mix (x : _) : Statement (.vdot2Mix x) := statement_of_shape _
theorem vadd64 (x : _) : Statement (.vadd64 x) := statement_of_shape _
theorem fadd (x : _) : Statement (.fadd x) := statement_of_shape _
theorem fsub (x : _) : Statement (.fsub x) := statement_of_shape _
theorem fmul (x : _) : Statement (.fmul x) := statement_of_shape _
theorem ffma (x : _) : Statement (.ffma x) := statement_of_shape _
theorem fmin (x : _) : Statement (.fmin x) := statement_of_shape _
theorem fmax (x : _) : Statement (.fmax x) := statement_of_shape _
theorem fcmp (x : _) : Statement (.fcmp x) := statement_of_shape _
theorem fdiv (x : _) : Statement (.fdiv x) := statement_of_shape _
theorem fsqrt (x : _) : Statement (.fsqrt x) := statement_of_shape _
theorem frcp (x : _) : Statement (.frcp x) := statement_of_shape _
theorem frsq (x : _) : Statement (.frsq x) := statement_of_shape _
theorem fexp2 (x : _) : Statement (.fexp2 x) := statement_of_shape _
theorem flog2 (x : _) : Statement (.flog2 x) := statement_of_shape _
theorem fsin (x : _) : Statement (.fsin x) := statement_of_shape _
theorem fcos (x : _) : Statement (.fcos x) := statement_of_shape _
theorem ftanh (x : _) : Statement (.ftanh x) := statement_of_shape _
theorem fclass (x : _) : Statement (.fclass x) := statement_of_shape _
theorem fscale (x : _) : Statement (.fscale x) := statement_of_shape _
theorem fsgnCopy (x : _) : Statement (.fsgnCopy x) := statement_of_shape _
theorem fsgnNcopy (x : _) : Statement (.fsgnNcopy x) := statement_of_shape _
theorem fsgnXor (x : _) : Statement (.fsgnXor x) := statement_of_shape _
theorem fxacc (x : _) : Statement (.fxacc x) := statement_of_shape _
theorem fxcvt (x : _) : Statement (.fxcvt x) := statement_of_shape _
theorem fxset (x : _) : Statement (.fxset x) := statement_of_shape _
theorem fxadd (x : _) : Statement (.fxadd x) := statement_of_shape _
theorem fxpkFx64 (x : _) : Statement (.fxpkFx64 x) := statement_of_shape _
theorem fxpkFx128 (x : _) : Statement (.fxpkFx128 x) := statement_of_shape _
theorem cvt (x : _) : Statement (.cvt x) := statement_of_shape _
theorem cvtIns (x : _) : Statement (.cvtIns x) := statement_of_shape _
theorem quant (x : _) : Statement (.quant x) := statement_of_shape _
theorem dequant (x : _) : Statement (.dequant x) := statement_of_shape _
theorem lcvtTo (x : _) : Statement (.lcvtTo x) := statement_of_shape _
theorem lcvtFrom (x : _) : Statement (.lcvtFrom x) := statement_of_shape _
theorem lcvtProd (x : _) : Statement (.lcvtProd x) := statement_of_shape _
theorem perm (x : _) : Statement (.perm x) := statement_of_shape _
theorem shfl (x : _) : Statement (.shfl x) := statement_of_shape _
theorem bcast (x : _) : Statement (.bcast x) := statement_of_shape _
theorem bcastFirst (x : _) : Statement (.bcastFirst x) := statement_of_shape _
theorem redx (x : _) : Statement (.redx x) := statement_of_shape _
theorem scanx (x : _) : Statement (.scanx x) := statement_of_shape _
theorem ballot (x : _) : Statement (.ballot x) := statement_of_shape _
theorem voteAll (x : _) : Statement (.voteAll x) := statement_of_shape _
theorem voteAny (x : _) : Statement (.voteAny x) := statement_of_shape _
theorem voteUni (x : _) : Statement (.voteUni x) := statement_of_shape _
theorem rng (x : _) : Statement (.rng x) := statement_of_shape _
theorem rngf (x : _) : Statement (.rngf x) := statement_of_shape _
theorem vrd (x : _) : Statement (.vrd x) := statement_of_shape _
theorem vwr (x : _) : Statement (.vwr x) := statement_of_shape _
theorem ld (x : _) : Statement (.ld x) := statement_of_shape _
theorem st (x : _) : Statement (.st x) := statement_of_shape _
theorem vld (x : _) : Statement (.vld x) := statement_of_shape _
theorem vst (x : _) : Statement (.vst x) := statement_of_shape _
theorem vldc (x : _) : Statement (.vldc x) := statement_of_shape _
theorem vstc (x : _) : Statement (.vstc x) := statement_of_shape _
theorem tld (x : _) : Statement (.tld x) := statement_of_shape _
theorem tst (x : _) : Statement (.tst x) := statement_of_shape _
theorem lld (x : _) : Statement (.lld x) := statement_of_shape _
theorem lst (x : _) : Statement (.lst x) := statement_of_shape _
theorem atxCas (x : _) : Statement (.atxCas x) := statement_of_shape _
theorem atxXchg (x : _) : Statement (.atxXchg x) := statement_of_shape _
theorem red (x : _) : Statement (.red x) := statement_of_shape _
theorem atf (x : _) : Statement (.atf x) := statement_of_shape _
theorem mcst (x : _) : Statement (.mcst x) := statement_of_shape _
theorem mcstReduce (x : _) : Statement (.mcstReduce x) := statement_of_shape _
theorem fenceRel (x : _) : Statement (.fenceRel x) := statement_of_shape _
theorem fenceAcq (x : _) : Statement (.fenceAcq x) := statement_of_shape _
theorem fenceAr (x : _) : Statement (.fenceAr x) := statement_of_shape _
theorem ldacq (x : _) : Statement (.ldacq x) := statement_of_shape _
theorem strel (x : _) : Statement (.strel x) := statement_of_shape _
theorem pfch (x : _) : Statement (.pfch x) := statement_of_shape _
theorem hld (x : _) : Statement (.hld x) := statement_of_shape _
theorem hldPool (x : _) : Statement (.hldPool x) := statement_of_shape _
theorem hst (x : _) : Statement (.hst x) := statement_of_shape _
theorem hset (x : _) : Statement (.hset x) := statement_of_shape _
theorem fpush (x : _) : Statement (.fpush x) := statement_of_shape _
theorem fpushTry (x : _) : Statement (.fpushTry x) := statement_of_shape _
theorem fpop (x : _) : Statement (.fpop x) := statement_of_shape _
theorem fpopTry (x : _) : Statement (.fpopTry x) := statement_of_shape _
theorem bcopyIn (x : _) : Statement (.bcopyIn x) := statement_of_shape _
theorem bcopyInSlot (x : _) : Statement (.bcopyInSlot x) := statement_of_shape _
theorem bcopyOut (x : _) : Statement (.bcopyOut x) := statement_of_shape _
theorem bfillLcl (x : _) : Statement (.bfillLcl x) := statement_of_shape _
theorem bfillT (x : _) : Statement (.bfillT x) := statement_of_shape _
theorem engineComplete (x : _) : Statement (.engineComplete x) := statement_of_shape _
theorem barInit (x : _) : Statement (.barInit x) := statement_of_shape _
theorem barArrive (x : _) : Statement (.barArrive x) := statement_of_shape _
theorem barSync (x : _) : Statement (.barSync x) := statement_of_shape _
theorem barSyncSt (x : _) : Statement (.barSyncSt x) := statement_of_shape _
theorem barInval (x : _) : Statement (.barInval x) := statement_of_shape _
theorem gbar (x : _) : Statement (.gbar x) := statement_of_shape _
theorem gbarSt (x : _) : Statement (.gbarSt x) := statement_of_shape _
theorem barWaitRelease (x : _) (y : _) : Statement (.barWaitRelease x y) := statement_of_shape _
theorem coll (x : _) : Statement (.coll x) := statement_of_shape _
theorem kvalloc (x : _) : Statement (.kvalloc x) := statement_of_shape _
theorem kvget (x : _) : Statement (.kvget x) := statement_of_shape _
theorem kvshare (x : _) : Statement (.kvshare x) := statement_of_shape _
theorem kvfree (x : _) : Statement (.kvfree x) := statement_of_shape _
theorem kvReply (x : _) (y : _) : Statement (.kvReply x y) := statement_of_shape _
theorem blockCopyOnWrite (x : _) (y : _) : Statement (.blockCopyOnWrite x y) := statement_of_shape _
theorem oclaim (x : _) : Statement (.oclaim x) := statement_of_shape _
theorem orel (x : _) : Statement (.orel x) := statement_of_shape _
theorem ofill (x : _) : Statement (.ofill x) := statement_of_shape _
theorem mma (x : _) : Statement (.mma x) := statement_of_shape _
theorem mmag (x : _) : Statement (.mmag x) := statement_of_shape _
theorem mmarow (x : _) : Statement (.mmarow x) := statement_of_shape _
theorem passStart (x : _) : Statement (.passStart x) := statement_of_shape _
theorem passEnd (x : _) : Statement (.passEnd x) := statement_of_shape _
theorem aclr (x : _) : Statement (.aclr x) := statement_of_shape _
theorem adrain (x : _) : Statement (.adrain x) := statement_of_shape _
theorem adrainRaw (x : _) : Statement (.adrainRaw x) := statement_of_shape _
theorem adrainRawSlot (x : _) : Statement (.adrainRawSlot x) := statement_of_shape _
theorem aload (x : _) : Statement (.aload x) := statement_of_shape _
theorem aloadAdd (x : _) : Statement (.aloadAdd x) := statement_of_shape _
theorem aloadRaw (x : _) : Statement (.aloadRaw x) := statement_of_shape _
theorem tstateSlot (x : _) : Statement (.tstateSlot x) := statement_of_shape _
theorem tstateTile (x : _) : Statement (.tstateTile x) := statement_of_shape _
theorem tstateFlags (x : _) : Statement (.tstateFlags x) := statement_of_shape _
theorem mchk (x : _) : Statement (.mchk x) := statement_of_shape _
theorem mchkSt (x : _) : Statement (.mchkSt x) := statement_of_shape _
theorem isect (x : _) : Statement (.isect x) := statement_of_shape _
theorem isdot (x : _) : Statement (.isdot x) := statement_of_shape _
theorem spmulo (x : _) : Statement (.spmulo x) := statement_of_shape _
theorem spmerge (x : _) : Statement (.spmerge x) := statement_of_shape _
theorem sptile (x : _) : Statement (.sptile x) := statement_of_shape _
theorem lshfam (x : _) : Statement (.lshfam x) := statement_of_shape _
theorem lshproj (x : _) : Statement (.lshproj x) := statement_of_shape _
theorem lshprobe (x : _) : Statement (.lshprobe x) := statement_of_shape _
theorem lshins (x : _) : Statement (.lshins x) := statement_of_shape _
theorem lshdel (x : _) : Statement (.lshdel x) := statement_of_shape _
theorem lshstep (x : _) : Statement (.lshstep x) := statement_of_shape _
theorem lshstat (x : _) : Statement (.lshstat x) := statement_of_shape _
theorem retrievalComplete (x : _) : Statement (.retrievalComplete x) := statement_of_shape _
theorem frozenBucketTimeout (x : _) : Statement (.frozenBucketTimeout x) := statement_of_shape _
theorem scrb (x : _) : Statement (.scrb x) := statement_of_shape _
theorem scrchk (x : _) : Statement (.scrchk x) := statement_of_shape _
theorem scrfold (x : _) : Statement (.scrfold x) := statement_of_shape _
theorem scrfoldSub (x : _) : Statement (.scrfoldSub x) := statement_of_shape _
theorem scrrd (x : _) : Statement (.scrrd x) := statement_of_shape _
theorem fetchLine (x : _) (y : _) (z : _) : Statement (.fetchLine x y z) := statement_of_shape _
theorem homeRead (x : _) (y : _) (z : _) : Statement (.homeRead x y z) := statement_of_shape _
theorem storeAtHome (x : _) : Statement (.storeAtHome x) := statement_of_shape _
theorem sectorUnpin (x : _) (y : _) (z : _) : Statement (.sectorUnpin x y z) := statement_of_shape _
theorem pageMapReply (x : _) (y : _) (z : _) : Statement (.pageMapReply x y z) := statement_of_shape _
theorem pacFill (x : _) (y : _) (z : _) : Statement (.pacFill x y z) := statement_of_shape _
theorem launchMessage (x : _) (y : _) : Statement (.launchMessage x y) := statement_of_shape _
theorem gangPlacement : Statement .gangPlacement := statement_of_shape _
theorem priorityAging : Statement .priorityAging := statement_of_shape _
theorem reservation : Statement .reservation := statement_of_shape _
theorem reservationPreempt (x : _) : Statement (.reservationPreempt x) := statement_of_shape _
theorem groupRetire (x : _) : Statement (.groupRetire x) := statement_of_shape _
theorem teamRetire (x : _) : Statement (.teamRetire x) := statement_of_shape _
theorem gridComplete (x : _) : Statement (.gridComplete x) := statement_of_shape _
theorem counterAssign (x : _) (y : _) : Statement (.counterAssign x y) := statement_of_shape _
theorem queueOpen (x : _) (y : _) : Statement (.queueOpen x y) := statement_of_shape _
theorem preemptRequest (x : _) : Statement (.preemptRequest x) := statement_of_shape _
theorem gangHalt (x : _) : Statement (.gangHalt x) := statement_of_shape _
theorem saveComplete (x : _) : Statement (.saveComplete x) := statement_of_shape _
theorem gangResume (x : _) : Statement (.gangResume x) := statement_of_shape _
theorem contextSwitch (x : _) : Statement (.contextSwitch x) := statement_of_shape _
theorem unplaceableTerminate (x : _) : Statement (.unplaceableTerminate x) := statement_of_shape _
theorem barrierTimeout (x : _) (y : _) : Statement (.barrierTimeout x y) := statement_of_shape _
theorem fifoTimeout (x : _) (y : _) : Statement (.fifoTimeout x y) := statement_of_shape _
theorem rendezvousTimeout (x : _) : Statement (.rendezvousTimeout x) := statement_of_shape _
theorem collJoinTimeout (x : _) : Statement (.collJoinTimeout x) := statement_of_shape _
theorem chunkArrival (x : _) (y : _) (z : _) : Statement (.chunkArrival x y z) := statement_of_shape _
theorem chunkResend (x : _) : Statement (.chunkResend x) := statement_of_shape _
theorem collFailureNotice (x : _) : Statement (.collFailureNotice x) := statement_of_shape _
theorem remoteAtomicReply (x : _) (y : _) (z : _) (u : _) : Statement (.remoteAtomicReply x y z u) := statement_of_shape _
theorem fenceToken (x : _) : Statement (.fenceToken x) := statement_of_shape _
theorem fenceAck (x : _) (y : _) : Statement (.fenceAck x y) := statement_of_shape _
theorem windowGrant (x : _) (y : _) (z : _) : Statement (.windowGrant x y z) := statement_of_shape _
theorem windowRevoke (x : _) (y : _) (z : _) : Statement (.windowRevoke x y z) := statement_of_shape _
theorem destUnreachable (x : _) : Statement (.destUnreachable x) := statement_of_shape _
theorem hostAccess (x : _) (y : _) (z : _) (u : _) : Statement (.hostAccess x y z u) := statement_of_shape _
theorem unifiedRangeChange (x : _) (y : _) (z : _) (u : _) : Statement (.unifiedRangeChange x y z u) := statement_of_shape _
theorem checkpointRequest (x : _) (y : _) : Statement (.checkpointRequest x y) := statement_of_shape _
theorem checkpointAbandon : Statement .checkpointAbandon := statement_of_shape _
theorem restoreRequest (x : _) (y : _) : Statement (.restoreRequest x y) := statement_of_shape _
theorem coldStart (x : _) : Statement (.coldStart x) := statement_of_shape _
theorem warmStart (x : _) (y : _) : Statement (.warmStart x y) := statement_of_shape _
theorem stop : Statement .stop := statement_of_shape _
theorem powerDomainTimeout (x : _) (y : _) : Statement (.powerDomainTimeout x y) := statement_of_shape _
theorem attestationRequest (x : _) : Statement (.attestationRequest x) := statement_of_shape _
theorem powerLoop (x : _) : Statement (.powerLoop x) := statement_of_shape _
theorem thermalClamp (x : _) : Statement (.thermalClamp x) := statement_of_shape _
theorem blackBoxCopy : Statement .blackBoxCopy := statement_of_shape _
theorem hbmScrub (x : _) (y : _) : Statement (.hbmScrub x y) := statement_of_shape _
theorem linkRetransmit (x : _) (y : _) (z : _) : Statement (.linkRetransmit x y z) := statement_of_shape _
theorem unitRetire (x : _) (y : _) (z : _) (u : _) : Statement (.unitRetire x y z u) := statement_of_shape _
theorem halfWidthSwitch (x : _) (y : _) : Statement (.halfWidthSwitch x y) := statement_of_shape _
theorem layerRetire (x : _) (y : _) : Statement (.layerRetire x y) := statement_of_shape _
theorem blockMove (x : _) (y : _) (z : _) : Statement (.blockMove x y z) := statement_of_shape _
theorem bridgeRetire (x : _) (y : _) : Statement (.bridgeRetire x y) := statement_of_shape _
theorem bayFence (x : _) (y : _) (z : _) : Statement (.bayFence x y z) := statement_of_shape _
theorem testPackage (x : _) (y : _) : Statement (.testPackage x y) := statement_of_shape _
theorem snapshotCopy (x : _) (y : _) : Statement (.snapshotCopy x y) := statement_of_shape _
theorem rollback (x : _) : Statement (.rollback x) := statement_of_shape _
theorem contextTerminate (x : _) (y : _) : Statement (.contextTerminate x y) := statement_of_shape _
theorem launchKill (x : _) : Statement (.launchKill x) := statement_of_shape _
theorem debugResume (x : _) (y : _) : Statement (.debugResume x y) := statement_of_shape _
theorem accessTableWrite (x : _) (y : _) (z : _) : Statement (.accessTableWrite x y z) := statement_of_shape _
theorem violationDrain (x : _) : Statement (.violationDrain x) := statement_of_shape _
theorem loadObject (x : _) (y : _) (z : _) (u : _) (v : _) : Statement (.loadObject x y z u v) := statement_of_shape _
theorem illegalInstruction (x : _) (y : _) : Statement (.illegalInstruction x y) := statement_of_shape _
theorem fillDrainComplete (x : _) (y : _) : Statement (.fillDrainComplete x y) := statement_of_shape _
theorem lineEviction (x : _) (y : _) (z : _) (u : _) : Statement (.lineEviction x y z u) := statement_of_shape _
theorem supplyLoss : Statement .supplyLoss := statement_of_shape _
theorem mpFailure : Statement .mpFailure := statement_of_shape _
theorem debuggerAttach (x : _) (y : _) : Statement (.debuggerAttach x y) := statement_of_shape _
theorem mappingChange (x : _) : Statement (.mappingChange x) := statement_of_shape _
theorem releaseWaitEnd (x : _) (y : _) : Statement (.releaseWaitEnd x y) := statement_of_shape _

end Sys2Proof.Laws.Encoding
end

