-- ==== Sys2Proof/Laws/Vectors.lean ====
section
/-! SUPPORT. Vector results, said once: what a vector instruction changes, and what latches and registers read after
it. -/

namespace Sys2Proof.Machine

/-! ## Vector registers and latches -/

/-- Nothing changes but vector registers, poison marks and latches. -/
def SameButVectors (s t : State) : Prop :=
  t = { s with g := { s.g with vregs := t.g.vregs, poison := t.g.poison, latches := t.g.latches } }

theorem SameButVectors.trans {s t u : State} (h : SameButVectors s t) (k : SameButVectors t u) : SameButVectors s u := by
  unfold SameButVectors at *
  rw [k, h]

theorem setVs_same (l : Nat) : ∀ (vs : List Word) (s : State) (r : Nat), SameButVectors s (setVs s r l vs)
  | [], _, _ => rfl
  | v :: vs, s, r => SameButVectors.trans (t := setV s r l v) rfl (setVs_same l vs (setV s r l v) (r + 1))

theorem setVs_latches (l : Nat) : ∀ (vs : List Word) (s : State) (r : Nat), (setVs s r l vs).g.latches = s.g.latches
  | [], _, _ => rfl
  | v :: vs, s, r => setVs_latches l vs (setV s r l v) (r + 1)

theorem setVs_wf (l : Nat) : ∀ (vs : List Word) {s : State} (r : Nat), cellsWf s.g.vregs = true →
    cellsWf (setVs s r l vs).g.vregs = true
  | [], _, _, h => h
  | v :: vs, s, r, h => setVs_wf l vs (s := setV s r l v) (r + 1) (setV_wf h r l v)

/-- What vector registers read after a run of words has been written in one lane. -/
theorem getV_setVs {l : Nat} (hl : l < 32) : ∀ (vs : List Word) {s : State} (r : Nat), cellsWf s.g.vregs = true →
    ∀ q k, k < 32 → getV (setVs s r l vs) q k =
      if k = l ∧ r ≤ q ∧ q < r + vs.length then vs.getD (q - r) 0 else getV s q k
  | [], s, r, _, q, k, _ => by
    have : ¬ (k = l ∧ r ≤ q ∧ q < r + 0) := by omega
    simp only [List.length_nil, this, if_false, setVs]
  | v :: vs, s, r, h, q, k, hk => by
    show getV (setVs (setV s r l v) (r + 1) l vs) q k = _
    rw [getV_setVs hl vs (r + 1) (setV_wf h r l v) q k hk, getV_setV h hl hk]
    simp only [List.length_cons]
    by_cases h1 : k = l ∧ r + 1 ≤ q ∧ q < r + 1 + vs.length
    · have h2 : k = l ∧ r ≤ q ∧ q < r + (vs.length + 1) := by omega
      rw [if_pos h1, if_pos h2]
      obtain ⟨n, hn⟩ : ∃ n, q - r = n + 1 := ⟨q - r - 1, by omega⟩
      have : q - (r + 1) = n := by omega
      rw [hn, this, List.getD_cons_succ]
    · rw [if_neg h1]
      by_cases h3 : q = r ∧ k = l
      · have h2 : k = l ∧ r ≤ q ∧ q < r + (vs.length + 1) := by omega
        rw [if_pos h3, if_pos h2, h3.1, Nat.sub_self, List.getD_cons_zero]
      · have h2 : ¬ (k = l ∧ r ≤ q ∧ q < r + (vs.length + 1)) := by omega
        rw [if_neg h3, if_neg h2]

theorem toWords_length : ∀ (n v : Nat), (toWords n v).length = n
  | 0, _ => rfl
  | n + 1, v => by rw [toWords, List.length_cons, toWords_length n]

theorem toWords_getD : ∀ (n v j : Nat), j < n → (toWords n v).getD j 0 = BitVec.ofNat 32 (v / 2 ^ (32 * j))
  | 0, _, _, h => absurd h (by omega)
  | n + 1, v, 0, _ => by simp [toWords]
  | n + 1, v, j + 1, h => by
    rw [toWords, List.getD_cons_succ, toWords_getD n (v / 2 ^ 32) j (by omega), Nat.div_div_eq_div_mul, ← Nat.pow_add]
    congr 3
    omega

/-- One lane of a vector result: its latch and its registers. -/
def writeLane (sup : Bool) (d k n : Nat) (val : Nat → Nat) (t : State) (l : Nat) : State :=
  if sup then setLatch t k l (BitVec.ofNat 128 (val l))
  else setVs (setLatch t k l (BitVec.ofNat 128 (val l))) d l (toWords n (val l))

theorem writeLane_spec (sup : Bool) (d k n : Nat) (val : Nat → Nat) {t : State} {l : Nat} (hl : l < 32)
    (hv : cellsWf t.g.vregs = true) (ht : cellsWf t.g.latches = true) :
    let u := writeLane sup d k n val t l
    SameButVectors t u ∧ cellsWf u.g.vregs = true ∧ cellsWf u.g.latches = true ∧
      (∀ q m, m < 32 → peek u.g.latches (32 * q + m) =
        if q = k ∧ m = l then BitVec.ofNat 128 (val l) else peek t.g.latches (32 * q + m)) ∧
      (∀ r m, m < 32 → getV u r m =
        if sup = false ∧ m = l ∧ d ≤ r ∧ r < d + n then BitVec.ofNat 32 (val l / 2 ^ (32 * (r - d))) else getV t r m) := by
  have hp : ∀ q m, m < 32 → peek (poke t.g.latches (32 * k + l) (BitVec.ofNat 128 (val l))) (32 * q + m) =
      if q = k ∧ m = l then BitVec.ofNat 128 (val l) else peek t.g.latches (32 * q + m) := by
    intro q m hm
    rw [peek_poke ht]
    have : (32 * q + m = 32 * k + l) ↔ (q = k ∧ m = l) := by omega
    simp only [this]
  cases sup with
  | true =>
    refine ⟨rfl, hv, cellsWf_poke _ _ ht, hp, fun r m _ => ?_⟩
    simp only [Bool.true_eq_false, false_and, if_false]
    rfl
  | false =>
    refine ⟨SameButVectors.trans (t := setLatch t k l (BitVec.ofNat 128 (val l))) rfl (setVs_same _ _ _ _),
      setVs_wf _ _ _ hv, ?_, ?_, ?_⟩
    · show cellsWf (setVs _ _ _ _).g.latches = true
      rw [setVs_latches]
      exact cellsWf_poke _ _ ht
    · intro q m hm
      show peek (setVs _ _ _ _).g.latches _ = _
      rw [setVs_latches]
      exact hp q m hm
    · intro r m hm
      show getV (setVs (setLatch t k l _) d l _) r m = _
      rw [getV_setVs hl (toWords n (val l)) (s := setLatch t k l (BitVec.ofNat 128 (val l))) d hv r m hm, toWords_length]
      by_cases h : m = l ∧ d ≤ r ∧ r < d + n
      · rw [if_pos h, if_pos ⟨rfl, h⟩, toWords_getD _ _ _ (by omega)]
      · rw [if_neg h, if_neg (fun c => h c.2)]
        rfl

theorem writeLanes_spec (sup : Bool) (d k n : Nat) (val : Nat → Nat) : ∀ (ls : List Nat), (∀ l ∈ ls, l < 32) →
    ∀ {t : State}, cellsWf t.g.vregs = true → cellsWf t.g.latches = true →
    let u := ls.foldl (writeLane sup d k n val) t
    SameButVectors t u ∧ cellsWf u.g.vregs = true ∧ cellsWf u.g.latches = true ∧
      (∀ q m, m < 32 → peek u.g.latches (32 * q + m) =
        if q = k ∧ m ∈ ls then BitVec.ofNat 128 (val m) else peek t.g.latches (32 * q + m)) ∧
      (∀ r m, m < 32 → getV u r m =
        if sup = false ∧ m ∈ ls ∧ d ≤ r ∧ r < d + n then BitVec.ofNat 32 (val m / 2 ^ (32 * (r - d))) else getV t r m)
  | [], _, t, hv, ht => by
    refine ⟨rfl, hv, ht, fun q m _ => ?_, fun r m _ => ?_⟩
    · simp
    · simp
  | l :: ls, hb, t, hv, ht => by
    obtain ⟨f1, v1, w1, p1, g1⟩ := writeLane_spec sup d k n val (hb l (List.mem_cons_self ..)) hv ht
    obtain ⟨f2, v2, w2, p2, g2⟩ :=
      writeLanes_spec sup d k n val ls (fun m hm => hb m (List.mem_cons_of_mem _ hm)) v1 w1
    refine ⟨f1.trans f2, v2, w2, fun q m hm => ?_, fun r m hm => ?_⟩
    · show peek (ls.foldl (writeLane sup d k n val) (writeLane sup d k n val t l)).g.latches _ = _
      rw [p2 q m hm, p1 q m hm]
      by_cases h1 : q = k ∧ m ∈ ls
      · rw [if_pos h1, if_pos ⟨h1.1, List.mem_cons_of_mem _ h1.2⟩]
      · rw [if_neg h1]
        by_cases h2 : q = k ∧ m = l
        · rw [if_pos h2, if_pos ⟨h2.1, by rw [h2.2]; exact List.mem_cons_self ..⟩, h2.2]
        · have h3 : ¬ (q = k ∧ m ∈ l :: ls) := fun c => by
            rcases List.mem_cons.1 c.2 with e | e
            · exact h2 ⟨c.1, e⟩
            · exact h1 ⟨c.1, e⟩
          rw [if_neg h2, if_neg h3]
    · show getV (ls.foldl (writeLane sup d k n val) (writeLane sup d k n val t l)) _ _ = _
      rw [g2 r m hm, g1 r m hm]
      by_cases h1 : sup = false ∧ m ∈ ls ∧ d ≤ r ∧ r < d + n
      · rw [if_pos h1, if_pos ⟨h1.1, List.mem_cons_of_mem _ h1.2.1, h1.2.2⟩]
      · rw [if_neg h1]
        by_cases h2 : sup = false ∧ m = l ∧ d ≤ r ∧ r < d + n
        · rw [if_pos h2, if_pos ⟨h2.1, by rw [h2.2.1]; exact List.mem_cons_self .., h2.2.2⟩, h2.2.1]
        · have h3 : ¬ (sup = false ∧ m ∈ l :: ls ∧ d ≤ r ∧ r < d + n) := fun c => by
            rcases List.mem_cons.1 c.2.1 with e | e
            · exact h2 ⟨c.1, e, c.2.2⟩
            · exact h1 ⟨c.1, e, c.2.2⟩
          rw [if_neg h2, if_neg h3]

theorem activeLanes_lt (s : State) : ∀ l ∈ activeLanes s, l < 32 := by
  intro l hl
  simp only [activeLanes, lanesOf, List.mem_filter, List.mem_range] at hl
  exact hl.1

/-- A vector result: what it changes, and what latches and registers read after it. -/
theorem writeVec_spec {s : State} (h : s.wf = true) (x : Args) (bits : Nat) (val : Nat → Nat) :
    let u := writeVec s x bits val
    let n := if bits ≤ 32 then 1 else bits / 32
    u = { s with g := { s.g with
        vregs := u.g.vregs, poison := u.g.poison, latches := u.g.latches, latchVec := u.g.latchVec } } ∧
      (∀ q l, l < 32 → peek u.g.latches (32 * q + l) =
        if q = chainPos s % 4 ∧ l ∈ activeLanes s then BitVec.ofNat 128 (val l) else peek s.g.latches (32 * q + l)) ∧
      (∀ r l, l < 32 → getV u r l =
        if x.sup = false ∧ l ∈ activeLanes s ∧ x.d.toNat ≤ r ∧ r < x.d.toNat + n then
          BitVec.ofNat 32 (val l / 2 ^ (32 * (r - x.d.toNat)))
        else getV s r l) := by
  have e : writeVec s x bits val = (activeLanes s).foldl
      (writeLane x.sup x.d.toNat (chainPos s % 4) (if bits ≤ 32 then 1 else bits / 32) val)
      (latchKind s (chainPos s % 4) true) := by
    unfold writeVec writeLane
    rfl
  have hg := State.wf_group h
  obtain ⟨f, -, -, p, g⟩ := writeLanes_spec x.sup x.d.toNat (chainPos s % 4) (if bits ≤ 32 then 1 else bits / 32) val
    (activeLanes s) (activeLanes_lt s) (t := latchKind s (chainPos s % 4) true) (Group.wf_vregs hg) (Group.wf_latches hg)
  simp only
  rw [e]
  refine ⟨?_, p, g⟩
  rw [f]
  rfl

/-- The registers a result of a type takes are the words it is written with. -/
theorem Ty.regs_eq (t : Ty) : Ty.regs t = if t.bits ≤ 32 then 1 else t.bits / 32 := by
  cases t <;> rfl

/-- A vector instruction that completes with a result of `bits` bits per lane and some flags, having changed nothing
before but the model's counter of free values. -/
theorem wroteVector_of {i : Instr} {s u : State} (hw : s.wf = true) (hu : ∃ n, u = { s with fresh := n }) (x : Args)
    (bits : Nat) (val : Nat → Nat) (fl : Flags) :
    WroteVector i s (passes i s (orFlags (writeVec u x bits val) fl)) x (if bits ≤ 32 then 1 else bits / 32) val fl := by
  obtain ⟨n, rfl⟩ := hu
  obtain ⟨f, p, g⟩ := writeVec_spec (s := { s with fresh := n }) hw x bits val
  refine ⟨?_, ⟨rfl, rfl, rfl, rfl⟩, ?_, p, g⟩
  · unfold OnlyVectors passes goesTo orFlags
    rw [f]
  · show (writeVec { s with fresh := n } x bits val).g.flags ||| fl = _
    rw [f]

/-- No flag changes nothing. -/
theorem orFlags_zero (s : State) : orFlags s 0 = s := by
  unfold orFlags
  rw [show s.g.flags ||| 0 = s.g.flags from BitVec.or_zero]

/-- A vector instruction that sets no flag, by its meaning. -/
theorem writesVector_of {i : Instr} {s : State} {body : State → Res} {bits : Nat} {val : Nat → Nat} (hw : s.wf = true)
    (hr : Ready i s) (x : Args) (he : exec i s = run i.shape body s) (hb : body s = .done (writeVec s x bits val)) :
    WritesVector i s x (if bits ≤ 32 then 1 else bits / 32) val := by
  refine ⟨passes i s (orFlags (writeVec s x bits val) 0), ?_, wroteVector_of hw ⟨s.fresh, rfl⟩ x bits val 0⟩
  rw [he, run_done hr hb]
  rw [orFlags_zero]
  rfl

/-- A vector instruction whose lanes give a result and flags each, by its meaning. -/
theorem computes_of {i : Instr} {s u : State} {body : State → Res} {bits : Nat} {r : Nat → Nat × Flags} (hw : s.wf = true)
    (hr : Ready i s) (hu : ∃ n, u = { s with fresh := n }) (x : Args) (he : exec i s = run i.shape body s)
    (hb : body s = withFlags u (fun l => (r l).2) (writeVec u x bits fun l => (r l).1)) :
    Computes i s u x (if bits ≤ 32 then 1 else bits / 32) r := by
  have ha : allFlags u (fun l => (r l).2) = allFlags s fun l => (r l).2 := by
    obtain ⟨n, rfl⟩ := hu
    rfl
  have hf : u.g.ftrap = s.g.ftrap := by
    obtain ⟨n, rfl⟩ := hu
    rfl
  have hx : u.exec = s.exec := by
    obtain ⟨n, rfl⟩ := hu
    rfl
  refine ⟨fun h0 => ?_, fun h0 => ?_⟩
  · refine ⟨passes i s (orFlags (writeVec u x bits fun l => (r l).1) (allFlags s fun l => (r l).2)), ?_,
      wroteVector_of hw hu x bits _ _⟩
    have hb' : body s = .done (orFlags (writeVec u x bits fun l => (r l).1) (allFlags s fun l => (r l).2)) := by
      rw [hb]
      simp only [withFlags, ha, hf, h0, if_true]
    rw [he, run_done hr hb']
    rfl
  · rw [he]
    by_cases h1 : allFlags s (fun l => (r l).2) &&& s.g.ftrap = fFXO
    · refine (run_raise hr (u := u) (t := ?_) ?_).trans ?_
      rotate_left
      · rw [hb]
        simp only [withFlags, ha, hf, h1, if_true, raiseLanes]
        rfl
      · simp only [traps, h1, if_true, hx]
        rfl
    · refine (run_raise hr (u := u) (t := ?_) ?_).trans ?_
      rotate_left
      · rw [hb]
        simp only [withFlags, ha, hf, h0, h1, if_false, raiseLanes]
        rfl
      · simp only [traps, h1, if_false, hx]
        rfl

end Sys2Proof.Machine
end

