-- ==== Sys2Proof/Tests/Slice0.lean ====
section
/-! SUPPORT. Tests: the checks of WellFormed refuse, words of the specification decode, and the hypotheses of the statements can
be met. A witness names the statement whose hypotheses it meets; an expected word comes from the specification's encoding tables or
worked programs. -/

namespace Sys2Proof.Tests

-- One test at a time: each that the kernel evaluates would otherwise hold a thread of its own while it waits.
set_option Elab.async false

open Sys2Proof Sys2Proof.Machine

/-- Operands with every field zero. -/
def plain : Args :=
  { sup := false, d := 0, a := .reg 0, b := .reg 0, c := .reg 0, fn := 0, ty := .i32, rnd := 0, hint := 0, r61 := false
    lit := none }

/-! ## The checks of WellFormed -/

/-- A reserved condition (R169). -/
theorem test_wf_refuses_condition : Instr.wf (.scmp 10 { d := 0, a := 0, b := 0 }) = false := by decide
/-- A second source of a one-source instruction (R167). -/
theorem test_wf_refuses_second_source : Instr.wf (.smov { d := 0, a := 0, b := 1 }) = false := by decide
/-- An odd register of a pair (R144). -/
theorem test_wf_refuses_odd_pair : Instr.wf (.sadd64 { d := 1, a := 0, b := 0 }) = false := by decide
/-- A scalar instruction in Form B (R152). -/
theorem test_wf_refuses_missing_literal : Instr.wf (.saddC plain) = false := by decide
/-- A field that must be zero (R148). -/
theorem test_wf_refuses_nonzero_field : Instr.wf (.nop { plain with d := 1 }) = false := by decide
/-- Round field 6 (R71). -/
theorem test_wf_refuses_round_six : Instr.wf (.nop { plain with rnd := 6 }) = false := by decide
/-- A type the instruction does not take (R201). -/
theorem test_wf_refuses_type : Instr.wf (.vadd { plain with ty := .f32 }) = false := by decide
/-- An fn6 value that is not listed (R172). -/
theorem test_wf_refuses_fn : Instr.wf (.brc { plain with fn := 10, lit := some 0 }) = false := by decide
/-- A literal source in Form B (R145). -/
theorem test_wf_refuses_literal_in_form_b : Instr.wf (.vadd { plain with a := .lit }) = false := by decide
/-- A `loop` forward (R172). -/
theorem test_wf_refuses_forward_loop : Instr.wf (.loop { plain with lit := some 1 }) = false := by decide
/-- A scalar register above 63 (R145). -/
theorem test_wf_refuses_scalar_64 : Instr.wf (.trap { plain with a := .reg 64 }) = false := by decide
/-- Well-formed operands pass. -/
theorem test_wf_takes_plain : Instr.wf (.nop plain) = true := by decide

/-! ## Decoding -/

/-- Control (R153, 24_prog_barrier_timeout): `brc.ne %group, 0` five units on; a0 is a special source. -/
theorem test_decode_control : decode [0x84000486, 0x00000503, 0x00000005] =
    .ok (.brc { plain with a := .special .group, b := .imm 0, fn := 1, lit := some 5 }) := rfl
/-- System (R181): `sget sd4, CAP1` and `sput FTRAP, s5`; `setfmt 17` (15_prog_matmul). -/
theorem test_decode_system : decode [0x000400D2, 0x00000000, 0x00000011] = .ok (.sget { plain with d := 4, lit := some 0x11 }) ∧
    decode [0x0A0000D6, 0x00000000, 0x00000009] = .ok (.sput { plain with a := .reg 5, lit := some 9 }) ∧
    decode [0xA20000C9, 0x00000002] = .ok (.setfmt { plain with a := .imm 17 }) := ⟨rfl, rfl, rfl⟩
/-- Vector integer (15_prog_matmul): `vadd.n32 v1, %lane, 1`. -/
theorem test_decode_vector : decode [0x82010101, 0x00100507] =
    .ok (.vadd { plain with d := 1, a := .special .lane, b := .imm 1, ty := .n32 }) := rfl
/-- Fixed point (R143, R212): 01, 0x6F, d 8, a 4, b 0, TYPE 15 is `fxadd v8, v4, v0`. -/
theorem test_decode_fixed : decode [0x080801BD, 0x00F00000] = .ok (.fxadd { plain with d := 8, a := .reg 4, ty := .fx128 }) := rfl
/-- Conversion (R143, R215): 01, 0x70, fn 0, d 2, a 1, b immediate 0, TYPE 2 is `cvt.f32.xi32 v2, v1`. -/
theorem test_decode_convert : decode [0x020201C1, 0x00200500] =
    .ok (.cvt { plain with d := 2, a := .reg 1, b := .imm 0, ty := .f32 }) := rfl
/-- Between lanes (R143, R219): 01, 0x75, fn 0, d 3, a 1, b immediate 1, c immediate 0, TYPE 1 is `shfl.up.n32 v3, v1, 1, 0`. -/
theorem test_decode_cross_lane : decode [0x020301D5, 0x001A0504] =
    .ok (.shfl { plain with d := 3, a := .reg 1, b := .imm 1, c := .imm 0, ty := .n32 }) := rfl
/-- Memory: `st.n32 [sd0 + s6], 1` (24_prog_barrier_timeout), `hld.pool h0, 0` (15_prog_matmul), `fence.rel.dev` (R242). -/
theorem test_decode_memory :
    decode [0x00000205, 0x001A0818] = .ok (.st { plain with b := .reg 6, c := .imm 1, ty := .n32 }) ∧
    decode [0x00000649, 0x00000500] = .ok (.hldPool { plain with b := .imm 0, fn := 1 }) ∧
    decode [0x00003239, 0x00000000] = .ok (.fenceRel { plain with fn := 12 }) := ⟨rfl, rfl, rfl⟩
/-- Engines and barriers: `bcopy.in.slot` into o0 with .acq flags (15_prog_matmul), `coll s11, sd20` (19_prog_catloss), `bar.init 1, 4`
(24_prog_barrier_timeout). -/
theorem test_decode_engines :
    decode [0x000A0A82, 0x00000050, 0x00000090] =
      .ok (.bcopyInSlot { plain with d := 10, b := .reg 20, fn := 2, lit := some 0x90 }) ∧
    decode [0x280B029E, 0x00000000, 0x00000000] = .ok (.coll { plain with d := 11, a := .reg 20, lit := some 0 }) ∧
    decode [0x82000289, 0x00000512] = .ok (.barInit { plain with a := .imm 1, b := .imm 4 }) := ⟨rfl, rfl, rfl⟩
/-- Matrix (15_prog_matmul): `oclaim 3, 1`, `aclr a0, 7.0`, `mma a0, o0, o1, 0x00201010`, its RND field 7. -/
theorem test_decode_matrix :
    decode [0x860002C1, 0x00000506] = .ok (.oclaim { plain with a := .imm 3, b := .imm 1 }) ∧
    decode [0x800002DA, 0x00000003, 0x40E00000] = .ok (.aclr { plain with a := .lit, lit := some 0x40E00000 }) ∧
    decode [0x000002CE, 0x070E0004, 0x00201010] =
      .ok (.mma { plain with b := .reg 1, c := .lit, rnd := 7, lit := some 0x00201010 }) := ⟨rfl, rfl, rfl⟩
/-- Sparse, retrieval, scribes (R143, R288): 0xC0 is `isect v4, v1, v2, s8`; 0xC7 `lshprobe s3, f1, v2, s6`; 0xD0 `scrb s4, sd2, 8`. -/
theorem test_decode_sparse :
    decode [0x02040301, 0x00004008] = .ok (.isect { plain with d := 4, a := .reg 1, b := .reg 2, c := .reg 8 }) ∧
    decode [0x0203031D, 0x00003008] = .ok (.lshprobe { plain with d := 3, a := .reg 1, b := .reg 2, c := .reg 6 }) ∧
    decode [0x04040341, 0x00000520] = .ok (.scrb { plain with d := 4, a := .reg 2, b := .imm 8 }) := ⟨rfl, rfl, rfl⟩

/-! ## The hypotheses of statements can be met -/

/-- A group of 32 lanes on a device just started, with nothing held or on its way, and one bank of its cluster, in
cache role. -/
def placed : State :=
  let s := placeProgram State.reset 0xFFFFFFFF
  { s with eng := { s.eng with banks := [{ cluster := 0, bank := 32, role := .cache, fifo := [], sick := [], last := 0 }] } }
/-- The same with barrier 1 of its team set up. -/
def atBarrier (b : Barrier) : State :=
  { placed with tm := { placed.tm with barriers := [Barrier.none, b] } }
/-- A barrier in group mode that expects some groups. -/
def expects (n : Nat) : Barrier := { Barrier.none with init := true, expect := n }
/-- The same with one bank of its cluster, in FIFO role, that holds some entries. -/
def atFifo (l : List (List Word)) : State :=
  { placed with eng := { placed.eng with banks := [{ cluster := 0, bank := 63, role := .fifo, fifo := l, sick := [], last := 0 }] } }
/-- The same with a path that has posted a write. -/
def onPath (acked : Bool) (failed : List Nat) : State :=
  { placed with g := { placed.g with
      paths := [{ dest := some 1, port := 0, posted := 1, sent := 1, passed := 0, failed := failed, token := true, acked := acked }] } }
/-- The same with the split in focus waiting at barrier 1. -/
def arrived (b : Barrier) (dest : Option Nat) (inval : Bool) : State :=
  let a : Arrival :=
    { bar := 1, pc := placed.sp.pc, next := placed.sp.pc + 2, sync := true, dest := dest, todo := [], phase := 0
      inval := inval, since := 0 }
  { atBarrier b with sp := { placed.sp with arrival := some a } }

/-- A scalar source field that is a small number. -/
def one : Args := { plain with a := .imm 1 }

/-- Fences: the instructions act and a release is complete (R115). -/
theorem test_meets_fence_releases :
    Ready (.fenceRel plain) placed ∧ Ready (.fenceAcq plain) placed ∧ Ready (.fenceAr plain) placed ∧
      release placed 0 = .done placed := ⟨rfl, rfl, rfl, rfl⟩
/-- Fences: an entry in the side log (R92). -/
theorem test_meets_fence_side_log : sideOut { placed with mem := { placed.mem with
    side := [{ core := 0, gid := 1, asid := 1, super := false, page := 0, red := none, keep := true, sick := [], elems := [] }] } } 1 = true := rfl
/-- Fences: a deferred fault (R397). -/
theorem test_meets_fence_deferred : sideOut placed 1 = false ∧
    firstDeferred { placed.g.deferred with c13 := [64, 32] } = some (0x13, [64, 32]) := ⟨rfl, rfl⟩
/-- Fences: no deferred fault, with and without a cluster cache (R115, R117). -/
theorem test_meets_fence_local : placed.g.deferred = { c11 := [], c18 := [], c12 := [], c13 := [] } ∧
    hasCache placed (clusterOf placed.tm.core) = true ∧ hasCache (atFifo []) 0 = false := ⟨rfl, rfl, rfl⟩
/-- Fences: the .dev condition holds (R115). -/
theorem test_meets_fence_device : storesOut (mergeGroup placed 1) 1 = false ∧
    retrievalOut (mergeGroup placed 1) 1 = false ∧ (mergeGroup placed 1).g.ch ≤ (mergeGroup placed 1).gt ∧
    (mergeGroup placed 1).g.id = placed.g.id := ⟨rfl, rfl, Nat.le_refl 0, rfl⟩
/-- Fences: CH has not been reached (R115). -/
theorem test_meets_fence_device_wait :
    (mergeGroup { placed with g := { placed.g with ch := 1 } } 1).gt <
      (mergeGroup { placed with g := { placed.g with ch := 1 } } 1).g.ch := Nat.lt_succ_self 0
/-- Fences: paths that have acknowledged, with and without a failed write, and one that has not (R130, R132). -/
theorem test_meets_fence_system : (mergeGroup (onPath true []) 1).g.paths.map (fun p => (p.acked, p.failed)) = [(true, [])] ∧
    (mergeGroup (onPath true [8]) 1).g.paths.flatMap (fun p => p.failed) = [8] ∧
    (mergeGroup (onPath false []) 1).g.paths.map (fun p => p.acked) = [false] := ⟨rfl, rfl, rfl⟩
/-- Fences: a wait that ends (R112, R115). -/
theorem test_meets_fence_wait_end :
    (findSplit { placed with sp := { placed.sp with wait := some .fence } } 1 0).wait = some .fence ∧
      (findGroup placed 1).ch ≤ placed.gt ∧ storesOut placed 1 = false := ⟨rfl, Nat.le_refl 0, rfl⟩

/-- TeamBarriers: an arrival at a barrier of the team (R256). -/
theorem test_meets_barrier_arrival : let s := atBarrier (expects 2)
    Ready (.barArrive one) s ∧ Ready (.barSync one) s ∧ Ready (.barSyncSt one) s ∧ s.exec ≠ 0 ∧ s.sp.arrival = none ∧
      release s 1 = .done s ∧ getBar s s.tm.id 1 = expects 2 ∧ s.tm.id ≠ 0 ∧ (scalar32 s one one.a).toNat = 1 ∧ 1 < s.tm.nbars :=
  ⟨rfl, rfl, rfl, by decide, rfl, rfl, rfl, by decide, rfl, by decide⟩
/-- TeamBarriers: an arrival at `gbar` (R258). -/
theorem test_meets_gang_barrier : Ready (.gbar plain) placed ∧ Ready (.gbarSt plain) placed ∧
    release placed 2 = .done placed ∧ getBar placed 1 16 = barrierZero 1 ∧ goneUnits placed 1 16 false = [] :=
  ⟨rfl, rfl, rfl, rfl, rfl⟩
/-- TeamBarriers: a barrier that may be set up (R255). -/
theorem test_meets_barrier_init : let x := { one with b := .imm 1 }
    Ready (.barInit x) placed ∧ (scalar32 placed x x.a).toNat = 1 ∧ (scalar32 placed x x.b).toNat = 1 ∧
      (getBar placed placed.tm.id 1).waiters = [] ∧ placed.eng.cmds = [] := ⟨rfl, rfl, rfl, rfl, rfl⟩
/-- TeamBarriers: a barrier with a waiter, and barrier 0 (R254, R255). -/
theorem test_meets_barrier_init_traps :
    (getBar (atBarrier { expects 2 with waiters := [(1, 0, 0)] }) 1 1).waiters ≠ [] ∧
      (scalar32 placed plain plain.a).toNat = 0 ∧ Ready (.barInit plain) placed := ⟨by decide, rfl, rfl⟩
/-- TeamBarriers: a barrier that is invalidated under a waiter (R257). -/
theorem test_meets_barrier_inval : Ready (.barInval one) (arrived (expects 2) none false) ∧
    (arrived (expects 2) none false).exec ≠ 0 ∧ getBar (arrived (expects 2) none false) 1 1 = expects 2 := ⟨rfl, by decide, rfl⟩
/-- TeamBarriers: a wait whose phase has completed (R256, R401). -/
theorem test_meets_barrier_return : let s := arrived { expects 2 with phase := 1 } none false
    focus s { gid := 1, sp := 0 } = s ∧ mayIssue s = true ∧ (getBar s s.tm.id 1).phase = 1 := ⟨rfl, rfl, rfl⟩
/-- TeamBarriers: a wait that was invalidated (R257). -/
theorem test_meets_barrier_invalidated : Ready (.barSyncSt one) (arrived Barrier.none (some 0) true) ∧
    Ready (.barSync one) (arrived Barrier.none none true) ∧ (arrived Barrier.none none true).exec ≠ 0 := ⟨rfl, rfl, by decide⟩
/-- TeamBarriers: a watchdog at the tick it fires (R259, R399). -/
theorem test_meets_barrier_timeout :
    let s := { arrived { expects 2 with waiters := [(1, 0, 0)] } none false with gt := 4194304 }
    (getBar s 1 1).idle s = [(1, 0, 0)] ∧ (findGang s (findTeam s 1).gang).st = .running ∧ s.gt % 1024 = 0 ∧
      watchPeriod (findLaunch s 1) = 4194304 ∧ waitBegan s (1, 0, 0) = 0 := ⟨rfl, rfl, rfl, rfl, rfl⟩

/-- Bank 63 named by the literal. -/
def last : Args := { plain with a := .lit, lit := some 63 }

/-- FifoBanks: the instructions may act on bank 63 (R245). -/
theorem test_meets_fifo_instructions : let s := atFifo []
    Ready (.fpush last) s ∧ Ready (.fpushTry last) s ∧ Ready (.fpop last) s ∧ Ready (.fpopTry last) s ∧ s.exec ≠ 0 ∧
      (scalar32 s last last.a).toNat = 63 := ⟨rfl, rfl, rfl, rfl, by decide, rfl⟩
/-- FifoBanks: an empty execution mask (R245). -/
theorem test_meets_fifo_no_lane : Ready (.fpush last) { placed with sp := { placed.sp with mask := 0 } } ∧
    State.exec { placed with sp := { placed.sp with mask := 0 } } = 0 := ⟨rfl, rfl⟩
/-- FifoBanks: a bank that is not there and one in another role (R96). -/
theorem test_meets_fifo_role : findBank placed 0 63 = none ∧ (findBank placed 0 32).map (fun b => b.role) = some .cache :=
  ⟨rfl, rfl⟩
/-- FifoBanks: a bank with room (R246). -/
theorem test_meets_fifo_room : (findBank (atFifo []) 0 63).map (fun b => (b.role, b.fifo)) = some (.fifo, []) ∧
    ∃ u, release (atFifo []) 2 = .done u := ⟨rfl, _, rfl⟩
/-- FifoBanks: a full bank (R94, R246). -/
theorem test_meets_fifo_full : 2048 ≤ (List.replicate 2048 ([] : List Word)).length ∧
    (findBank (atFifo (List.replicate 2048 [])) 0 63).map (fun b => b.fifo) = some (List.replicate 2048 []) :=
  ⟨by rw [List.length_replicate], rfl⟩
/-- FifoBanks: a bank with an entry (R246). -/
theorem test_meets_fifo_entry : (findBank (atFifo [[7]]) 0 63).map (fun b => b.fifo) = some [[7]] := rfl
/-- FifoBanks: a watchdog at the tick it fires (R246, R399). -/
theorem test_meets_fifo_timeout :
    let s := { atFifo [] with gt := 4194304, sp := { placed.sp with wait := some (.fifo 63) } }
    focus s { gid := 1, sp := 0 } = s ∧ s.gang.st = .running ∧ s.g.inHandler = false ∧
      (findBank s (clusterOf s.tm.core) 63).map (fun b => b.last) = some 0 ∧ s.sp.since = 0 ∧ s.gt % 1024 = 0 ∧
      watchPeriod s.launch = s.gt := ⟨rfl, rfl, rfl, rfl, rfl, rfl, rfl⟩

/-- A state with a `nop` in the first unit of its page (R180): 01, 0x2E. -/
def withNop : State := placeUnits placed [0xB9, 0]
/-- s4 and s5 hold the address of the placed page. -/
def onPage : State := { placed with g := { placed.g with sregs := [(4, 0x1000), (5, 0xFF000000)] } }
/-- Operands whose address is in s4 and s5. -/
def paged : Args := { plain with a := .reg 4, b := .imm 0 }

/-- StepKeepsStoresCanonical: a state in canonical form that has a step. -/
theorem test_meets_step : placed.wf = true ∧ ∃ t, step placed = .next t := ⟨by decide, _, rfl⟩
/-- DecodeEncodeAgree: a well-formed instruction with an encoding. -/
theorem test_meets_encoding : Instr.wf (.nop plain) = true ∧ Instr.encodable (.nop plain) = true := ⟨rfl, rfl⟩
/-- StepRunsDecoded, PcNamesDecodedUnits: the turn of a split that stands at an instruction, named or by default. -/
theorem test_meets_step_runs :
    let s := withNop
    let f := focus (tick { s with agenda := [] } 1) { gid := 1, sp := 0 }
    s.agenda = [{ ticks := 1, act := .issue { gid := 1, sp := 0 } }] ∧
      defaultAct (tick { s with agenda := [] } 1) = some (.issue { gid := 1, sp := 0 }) ∧ mayIssue f = true ∧
      takesTurn f f.g f.sp = true ∧ yields f = false ∧ atJoin (noteTurn f) = false ∧
      ∃ u, lookAtPc (noteTurn f) = (u, .instr (.nop plain)) ∧ bondClamped u (.nop plain) = false :=
  ⟨rfl, by decide +kernel, rfl, rfl, rfl, rfl, _, rfl, rfl⟩
/-- StepRunsEvent: an event that a turn names, and one whose time has come. -/
theorem test_meets_step_event : Instr.encodable .stop = false ∧ ({ placed with agenda := [{ ticks := 0, act := .event .stop }] } :
    State).agenda = [{ ticks := 0, act := .event .stop }] ∧
    defaultAct (tick { placed with agenda := [], g := { placed.g with exited := 0xFFFFFFFF } } 1) = some (.event (.groupRetire 1)) :=
  ⟨rfl, rfl, by decide +kernel⟩
/-- IssueChecksInOrder: a register that is awaited, one beyond the allocation. -/
theorem test_meets_issue_registers :
    namesPending (.sadd { d := 0, a := 0, b := 0 }) { placed with g := { placed.g with pending := [0] } } ∧
    namesHigh (.vadd { plain with d := 8 }) { placed with g := { placed.g with nv := 8 } } ∧
    ¬ namesPending (.vadd { plain with d := 8 }) { placed with g := { placed.g with nv := 8 } } :=
  ⟨.inl ⟨0, by decide, by decide⟩, ⟨(8, 1), by decide, by decide⟩, by rintro (⟨n, -, h⟩ | h) <;> cases h⟩
/-- IssueChecksInOrder: user mode, profile N, a latch that nothing wrote, and nothing of these. -/
theorem test_meets_issue_checks : let s := placed
    (¬ namesPending (.rte plain) s ∧ ¬ namesHigh (.rte plain) s ∧ lacksPrivilege (Instr.rte plain).shape s = true) ∧
    (needsF64 (Instr.fadd { plain with ty := .f64 }).shape = true ∧ profileN { s with dev := { s.dev with cap0 := 0x00F20202 } } = true) ∧
    latchFault (Instr.vadd { plain with a := .latch 0 }).shape s = true ∧
    latchFault (Instr.nop plain).shape s = false ∧ poisonedReads (Instr.nop plain).shape s = [] := by
  refine ⟨⟨?_, ?_, rfl⟩, ⟨rfl, rfl⟩, rfl, rfl, rfl⟩
  · rintro (⟨n, h, -⟩ | h) <;> cases h
  · rintro ⟨r, h, -⟩; cases h
/-- TrapEntersHandler, TrapsWithRecords: outside a handler under REPORT and REPLAY, and inside one. -/
theorem test_meets_traps : placed.g.inHandler = false ∧ placed.launch.rcd.report = true ∧ unrecorded 0x02 = false ∧
    ({ placed with launches := placed.launches.map fun l => { l with rcd := { l.rcd with report := false } } } :
      State).launch.rcd.report = false ∧ ({ placed with g := { placed.g with inHandler := true } } : State).g.inHandler = true :=
  ⟨rfl, rfl, rfl, rfl, rfl⟩
/-- ScalarFormAResults, ScalarFormCResults, ScalarFrame: scalar instructions that may act. -/
theorem test_meets_scalar : placed.wf = true ∧ Instr.wf (.sadd { d := 2, a := 0, b := 0 }) = true ∧
    Ready (.sadd { d := 2, a := 0, b := 0 }) placed ∧ Instr.wf (.sadd64C { plain with d := 2, a := .imm 1, b := .imm 1, lit := some 0 }) = true ∧
    Ready (.sadd64C { plain with d := 2, a := .imm 1, b := .imm 1, lit := some 0 }) placed ∧
    opcodeOf (Instr.sadd { d := 2, a := 0, b := 0 }).shape < 0x20 :=
  ⟨by decide, rfl, rfl, rfl, rfl, by decide⟩
/-- DivisionCorners: a zero divisor, the overflowing quotient, and neither. -/
theorem test_meets_division : let s : State := { placed with g := { placed.g with sregs := [(1, 0x80000000), (2, 0xFFFFFFFF), (3, 7)] } }
    s.wf = true ∧ getS s 0 = 0 ∧ getS s 1 = 0x80000000 ∧ getS s 2 = 0xFFFFFFFF ∧ getS s 3 ≠ 0 ∧
      Instr.wf (.sdiv { d := 4, a := 1, b := 2 }) = true ∧ Ready (.sdiv { d := 4, a := 1, b := 2 }) s :=
  ⟨by decide, rfl, rfl, rfl, by decide, rfl, rfl⟩
/-- A record whose join is the placed program's first unit. -/
def joinAtStart : Rec :=
  { id := 3, jpc := placedPc, fmt := 0, rnd := 0, pdep := 1, exp := 0xFFFFFFFF, arr := 0, pend := 0, ppc := 0, held := [], pby := 0 }
/-- A split whose top record is this one. -/
def joining (r : Rec) : State :=
  { withNop with g := { withNop.g with recs := [r] }, sp := { withNop.sp with recon := [3] } }
/-- UniformTransfers: transfers to the first unit, which is marked. -/
theorem test_meets_transfers : let s := joining joinAtStart
    let x := { plain with lit := some 0 }
    Ready (.br x) s ∧ Ready (.brc { x with fn := 0 }) s ∧ Ready (.jmp plain) s ∧ Ready (.loop { x with d := 0 }) s ∧ Ready (.call x) s ∧
      Ready (.callIndirect plain) s ∧ Ready (.ret plain) s ∧ Ready (.join plain) s ∧ (∃ u, checkTransfer s s.sp.pc = .ok u) ∧
      topRec s = some joinAtStart ∧ getS s 0 - 1 ≠ 0 ∧
      ccHolds 0 (scalar32 s x x.a) (scalar32 s x x.b) = true ∧ ccHolds 1 (scalar32 s x x.a) (scalar32 s x x.b) = false :=
  ⟨rfl, rfl, rfl, rfl, rfl, rfl, rfl, rfl, ⟨_, rfl⟩, rfl, by decide, rfl, rfl⟩
/-- UniformTransfers: a counter that comes to 0. -/
theorem test_meets_transfers_count : let s := { withNop with g := { withNop.g with sregs := [(2, 1)] } }
    Ready (.loop { plain with d := 2, lit := some 0 }) s ∧ getS s 2 - 1 = 0 := ⟨rfl, rfl⟩
/-- TransferTraps: a unit that is not marked, a full stack of records, an empty one. -/
theorem test_meets_transfer_traps : let s := { joining joinAtStart with sp := { (joining joinAtStart).sp with recon := List.replicate 16 3 } }
    (∃ tr u, checkTransfer withNop (withNop.sp.pc + 2) = .fail tr u) ∧ Ready (.br { plain with lit := some 2 }) withNop ∧
      (∃ u, checkTransfer s s.sp.pc = .ok u ∧ 16 ≤ u.sp.recon.length) ∧ Ready (.call { plain with lit := some 0 }) s ∧
      topRec withNop = none ∧ Ready (.ret plain) withNop ∧ Ready (.join plain) withNop :=
  ⟨⟨_, _, rfl⟩, rfl, ⟨_, rfl, by decide⟩, rfl, rfl, rfl, rfl⟩
/-- TargetCheck: a line that is there. -/
theorem test_meets_target : let s := withNop
    (∃ u ws, fetchLineAt s s.agent (lineVa s.sp.pc) (unitVa s.sp.pc) = (u, .line ws)) ∧ ∃ u, checkTransfer s s.sp.pc = .ok u :=
  ⟨⟨_, _, rfl⟩, _, rfl⟩
/-- PredicateStack: one entry, two, and eight. -/
theorem test_meets_predicates : let s := fun (n : Nat) => { placed with sp := { placed.sp with pred := List.replicate n 0xFFFFFFFF } }
    Ready (.pushp plain) (s 1) ∧ (s 1).sp.pred.length < 8 ∧ Ready (.pushp plain) (s 8) ∧ 8 ≤ (s 8).sp.pred.length ∧
      Ready (.invp plain) (s 2) ∧ (s 2).sp.pred = 0xFFFFFFFF :: 0xFFFFFFFF :: [] ∧ Ready (.popp plain) (s 2) ∧
      Ready (.invp plain) (s 1) ∧ (s 1).sp.pred = [0xFFFFFFFF] ∧ Ready (.popp plain) (s 1) :=
  ⟨rfl, by decide, rfl, by decide, rfl, rfl, rfl, rfl, rfl, rfl⟩

/-- Operands of a divergent branch to the first unit, whose join it is too. -/
def branch : BrvArgs := { m := 1, join := 0, off := 0, rnd := 0, hint := 0, r61 := false }
/-- A branch under a mask register that holds some lanes, with a stack of records. -/
def divides (m : Word) (recs : List Rec) (recon : List Nat) : State :=
  { withNop with g := { withNop.g with masks := [(1, m)], recs := recs }, sp := { withNop.sp with recon := recon } }
/-- DivergentBranches: no lane branches, all do, some do with an empty, a matching and a full stack, in and outside a handler. -/
theorem test_meets_branches : let w := fun (s : State) => ∃ u, checkTransfer s s.sp.pc = .ok u
    let s := divides 15 [] []
    Ready (.brv branch) s ∧ Ready (.brvNot branch) s ∧ Ready (.brv branch) (divides 0 [] []) ∧ w (divides 0xFFFFFFFF [] []) ∧
      (∃ u, checkTransfer s s.sp.pc = .ok u ∧ topRec u = none ∧ freeNumber u = some 1 ∧ u.g.inHandler = false) ∧
      (∃ u, checkTransfer (divides 15 [joinAtStart] [3]) s.sp.pc = .ok u ∧ topRec u = some joinAtStart) ∧
      (∃ u, checkTransfer (divides 15 [] (List.replicate 16 3)) s.sp.pc = .ok u ∧ 16 ≤ u.sp.recon.length ∧ topRec u = none) ∧
      ({ s with g := { s.g with inHandler := true } } : State).g.inHandler = true :=
  ⟨rfl, rfl, rfl, ⟨_, rfl⟩, ⟨_, rfl, rfl, rfl, rfl⟩, ⟨_, rfl, rfl⟩, ⟨_, rfl, by decide, rfl⟩, rfl⟩
/-- Reconvergence: away from the join, at it with deferred lanes, complete, and with a predicate stack too deep and too low. -/
theorem test_meets_reconvergence : let s := joining joinAtStart
    topRec (joining { joinAtStart with jpc := 0 }) = some { joinAtStart with jpc := 0 } ∧ s.sp.pc ≠ 0 ∧
      topRec s = some joinAtStart ∧ s.sp.pc = joinAtStart.jpc ∧ joinAtStart.pend = 0 ∧ joinAtStart.pdep = s.sp.pred.length ∧
      s.sp.live = true ∧ s.g.others = [] ∧ (joinAtStart.arr ||| s.sp.mask) = (joinAtStart.exp &&& ~~~s.g.exited) ∧
      topRec (joining { joinAtStart with pend := 1 }) = some { joinAtStart with pend := 1 } ∧
      (0 : Nat) < s.sp.pred.length ∧ s.sp.pred.length < 2 :=
  ⟨rfl, by decide, rfl, rfl, rfl, rfl, rfl, rfl, rfl, rfl, by decide, by decide⟩
/-- ExitRemovesLanes: no active lane, some of the lanes, and the last ones. -/
theorem test_meets_exit : let s := placed
    let some_ : State := { s with sp := { s.sp with mask := 15 } }
    Ready (.exit plain) s ∧ Ready (.exit plain) { s with sp := { s.sp with mask := 0 } } ∧ Ready (.exit plain) some_ ∧
      some_.exec ≠ 0 ∧ (some_.g.launched &&& ~~~(some_.g.exited ||| some_.exec)) ≠ 0 ∧
      (s.g.launched &&& ~~~(s.g.exited ||| s.exec)) = 0 ∧ ∃ u, lastExitCheck s = .done u :=
  ⟨rfl, rfl, rfl, by decide, by decide, rfl, _, rfl⟩
/-- SplitInformation, SoftwareTraps: the instructions may act. -/
theorem test_meets_plain : let s := placed
    Ready (.spinfoState plain) s ∧ Ready (.spinfoActive plain) s ∧ Ready (.spinfoExec plain) s ∧ Ready (.nop plain) s ∧
      Ready (.yield plain) s ∧ Ready (.brk plain) s ∧ Ready (.brkCode plain) s ∧ Ready (.trap plain) s ∧ s.g.inHandler = false :=
  ⟨rfl, rfl, rfl, rfl, rfl, rfl, rfl, rfl, rfl⟩

/-- Vector, floating-point, fixed-point, conversion and lane statements: instructions of each that may act. -/
theorem test_meets_vectors : let s := placed
    let f := { plain with ty := Ty.f32 }
    s.wf = true ∧ Instr.wf (.vadd plain) = true ∧ Ready (.vadd plain) s ∧ Ready (.vbfi plain) s ∧ Instr.wf (.vadd64 plain) = true ∧
      Ready (.vadd64 plain) s ∧ Instr.wf (.vcmp plain) = true ∧ Ready (.vcmp plain) s ∧ Ready (.vdot4 plain) s ∧ Ready (.vdot2Mix plain) s ∧
      Ready (.fadd f) s ∧ Ready (.fmin f) s ∧ Ready (.fclass f) s ∧ Ready (.fcmp f) s ∧ Ready (.frcp f) s ∧ Ready (.fxacc f) s ∧
      Ready (.fxadd f) s ∧ Ready (.fxpkFx64 f) s ∧ Ready (.fxcvt f) s ∧ Ready (.cvt f) s ∧ Ready (.cvtIns { f with ty := .f16 }) s ∧
      Ready (.dequant f) s ∧ Ready (.lcvtTo f) s :=
  ⟨by decide, rfl, rfl, rfl, rfl, rfl, rfl, rfl, rfl, rfl, rfl, rfl, rfl, rfl, rfl, rfl, rfl, rfl, rfl, rfl, rfl, rfl, rfl⟩
/-- Computes: a flag that FTRAP enables, and none. -/
theorem test_meets_flags : let s : State := { placed with g := { placed.g with ftrap := 63 } }
    allFlags placed (fun _ => fNX) &&& placed.g.ftrap = 0 ∧ allFlags s (fun _ => fNX) &&& s.g.ftrap ≠ 0 := by decide
/-- ConversionResults: `quant` under a format word that R69 lists, and under another. -/
theorem test_meets_quant : let s : State := { placed with sp := { placed.sp with fmt := 0x133 } }
    Ready (.quant plain) s ∧ (mfmt s.sp.fmt).legal ≠ none ∧ Ready (.quant plain) placed ∧ (mfmt placed.sp.fmt).legal = none :=
  ⟨rfl, by decide, rfl, by decide⟩
/-- RepresentableValuesAreExact, AccumulationOrder: a pattern that is no NaN, and sums that do not saturate. -/
theorem test_meets_values : (tyValue .f32 0x3F800000).isNan = false ∧
    (accumulate .rne 0 1 (.fin false 1 0) (.fin false 1 0)).2 &&& fFXO = 0 := ⟨by decide, by decide⟩
/-- LaneMoves, LaneCombinations, ButterflySums, RandomWords: instructions that may act, without poison and with a poisoned source. -/
theorem test_meets_lanes : let s := placed
    let p : State := { s with g := { s.g with poison := [(5, 64)] } }
    Ready (.perm plain) s ∧ Ready (.shfl plain) s ∧ Ready (.bcast plain) s ∧ Ready (.bcastFirst plain) s ∧ Ready (.ballot plain) s ∧
      Ready (.voteAll plain) s ∧ Ready (.voteUni plain) s ∧ Ready (.vrd plain) s ∧ poisonedIndexed s plain = [] ∧ Ready (.vwr plain) s ∧
      Ready (.redx plain) s ∧ Ready (.scanx plain) s ∧ Ready (.rng plain) s ∧ Ready (.rngf plain) s ∧
      poisonedSources s plain (fun _ => some 5) = [] ∧ poisonedSources p plain (fun _ => some 5) ≠ [] ∧
      plain.ty ∈ [Ty.i32, .n32, .i64, .n64] :=
  ⟨rfl, rfl, rfl, rfl, rfl, rfl, rfl, rfl, rfl, rfl, rfl, rfl, rfl, rfl, by decide, by decide, by decide⟩
/-- Operands that name a register by a literal. -/
def special (n : Word) : Args := { plain with lit := some n }
/-- The same in supervisor mode. -/
def supervised : State := { placed with sp := { placed.sp with super := true } }
/-- SpecialRegisterReads, SpecialRegisterWrites: user mode, supervisor mode, stores on the way, formats and modes of each kind. -/
theorem test_meets_special : Ready (.sget (special 7)) placed ∧ Ready (.sget (special 0x21)) supervised ∧
    Ready (.sput (special 0x22)) supervised ∧ Ready (.setfmt plain) placed ∧ Ready (.setrnd plain) placed ∧ Ready (.ltm plain) placed ∧
    storesOut placed 1 = false ∧ flagsOut placed 1 = false ∧
    storesOut { placed with mem := { placed.mem with flight :=
      [{ id := 0, gid := 1, core := 0, asid := 1, va := 0, bytes := [0], red := some (0, .fx128), poison := false, port := 0 }] } } 1 = true ∧
    flagsOut { placed with mem := { placed.mem with flight :=
      [{ id := 0, gid := 1, core := 0, asid := 1, va := 0, bytes := [0], red := some (0, .fx128), poison := false, port := 0 }] } } 1 = true :=
  ⟨rfl, rfl, rfl, rfl, rfl, rfl, rfl, rfl, rfl, rfl⟩
/-- What a group keeps when it enters a handler. -/
def kept : Shadow := { mask := 15, pred := [15], recon := [], fmt := 0, rnd := 0, arrival := none, request := none }
/-- In a handler that was entered for a cause, with TPC written or not. -/
def handling (cause : BitVec 8) (written : Bool) (h : Option Shadow) : State :=
  { withNop with
    g := { withNop.g with inHandler := true, entry := cause, tpc := placedPc, tpcw := written, shadow := h }
    sp := { withNop.sp with super := true } }
/-- SystemCalls: each return from a handler. -/
theorem test_meets_returns : Ready (.rte plain) (handling 0x0B false (some kept)) ∧ Ready (.rte plain) (handling 0x38 false (some kept)) ∧
    Ready (.rte plain) (handling 0x0B false none) ∧ (handling 0x0B true (some kept)).g.entry ≠ 0x38 ∧
    ∃ u, checkTransfer (handling 0x0B true (some kept)) placedPc = .ok u := ⟨rfl, rfl, rfl, by decide, _, rfl⟩
/-- SystemCalls, DeviceEventsComplete: a running and a halting gang, a counter of the context and another's, a request that is sent and one
that waits; nothing is clamped. -/
theorem test_meets_calls : let s := { placed with gangs := placed.gangs.map fun g => { g with st := .halting 0 } }
    let c := { placed with sched := { placed.sched with owners := [(0, placed.asid)] } }
    Ready (.ppoint plain) placed ∧ placed.gang.st = .running ∧ Ready (.ppoint plain) s ∧ s.gang.st = .halting 0 ∧
      Ready (.sigDev plain) c ∧ ownsCounter c c.asid 0 = true ∧ ownsCounter placed placed.asid 0 = false ∧ Ready (.wget plain) placed ∧
      Ready (.halt plain) supervised ∧ Ready (.sysc plain) placed ∧ placed.sp.request = none ∧ (∃ u, release c 3 = .done u) ∧
      (∃ u, release c 4 = .done u ∧ mpReaches u u.tm.core = true) ∧ hostUp placed = true ∧ unitClamped placed (0x0A, 1) = false ∧
      unitClamped placed (7, 1) = false := ⟨rfl, rfl, rfl, rfl, rfl, rfl, rfl, rfl, rfl, rfl, rfl, ⟨_, rfl⟩, ⟨_, rfl, rfl⟩, rfl, rfl, rfl⟩
/-- SystemCalls: a split that waits for a reply. -/
theorem test_meets_reply : let u := focus { placed with sp := { placed.sp with
      request := some { pc := placedPc, next := placedPc + 2, op := 0x3F, dest := 0, words := [] } } } { gid := 1, sp := 0 }
    mayIssue u = true ∧ u.sp.request.map (fun q => q.op) = some 0x3F ∧ mpReaches u u.tm.core = true := ⟨rfl, rfl, rfl⟩

/-- MemorySystemControl: a bank whose role may change, one that is not, lines that may be purged in user mode and one of another context. -/
theorem test_meets_maintenance : let s := supervised
    let s1 : State := { s with g := { s.g with sregs := [(2, 32), (3, 1)] } }
    let x := { plain with a := .reg 2, b := .reg 3 }
    let purge := { plain with c := .imm 1 }
    Ready (.bmode x) s1 ∧ (scalar32 s1 x x.a).toNat < 64 ∧ (scalar32 s1 x x.b).toNat < 3 ∧ bankInUse s1 0 32 = false ∧
      (findBank s1 0 32).map (fun b => b.role) = some .cache ∧ 3 ≤ (scalar32 s1 x x.a).toNat ∧
      Ready (.xinv plain) s ∧ Ready (.cmaintInv plain) placed ∧ Ready (.cmaintMerge plain) placed ∧ Ready (.cmaintPurge purge) placed ∧
      Ready (.cmaintPurgeasid purge) placed ∧ scalar32 placed purge purge.c = placed.asid.setWidth 32 ∧ placed.asid ≠ 0 ∧
      scalar32 placed plain plain.c ≠ placed.asid.setWidth 32 ∧ (mergeCore placed fun _ => true).mem.l1 = [] :=
  ⟨rfl, by decide, by decide, rfl, rfl, by decide, rfl, rfl, rfl, rfl, rfl, rfl, by decide, by decide, rfl⟩

/-- A load is mapped where nothing is on its way and each element's page is found. -/
theorem mapped_of {s : State} {x : Access} (hs : s.mem.side = []) (hf : s.mem.flight = []) (hp : s.mem.pend = [])
    (hu : s.mem.ulines = []) (hl : s.g.late = []) (h : (x.elems.all fun e => match seeElem s x e with | .page _ => true | _ => false) = true) :
    Mapped s x := by
  intro e he
  have := List.all_eq_true.mp h e he
  have hm : mergeOwnAt s x.elems = s := mergeOwnAt_none hu _
  refine ⟨?_, by simp [hs], fun p r w _ => by simp [hm, ownWriteBusy, hf, hp], by simp [lateMeets, hl]⟩
  split at this
  · exact ⟨_, ‹_›⟩
  · cases this
/-- The same for a store. -/
theorem mappedStore_of {s : State} {l : List Put} {n : Nat} {one : Bool} (hs : s.mem.side = []) (hl : s.g.late = [])
    (h : (l.all fun p => match seeElem s (putAccess l n one) p.elem with | .page _ => true | _ => false) = true) :
    MappedStore s l n one := by
  intro e he
  have := List.all_eq_true.mp h e he
  refine ⟨?_, by simp [sidePending, hs], by simp [lateMeets, hl]⟩
  split at this
  · exact ⟨_, ‹_›⟩
  · cases this

/-- The VA of the placed page. -/
def pageVa : Nat := 0xFF00000000001000
/-- Each of the 32 lanes at its word of the placed page. -/
def laneWords : List Elem := (List.range 32).map fun k => { lane := k, va := pageVa + 4 * k }
/-- A store to a word of the placed page. -/
def storeWord (lane : Nat) : Put := { lane := lane, va := pageVa + 4 * lane, bytes := [1, 2, 3, 4], poison := false, keep := true }
/-- A record of a dense vector of FP32 elements, or of another kind of its first dimension. -/
def vector (kind : BitVec 2) : TRec :=
  { efmt := 0, bs := false, rank := 1, kind := [kind], scr := false, fill := 0, base := BitVec.ofNat 64 pageVa, dim := [32], border := [0]
    stride := [4], sidecar := 0, budget := 0, lvl := [] }
/-- The group on the placed page with a record in handle 0. -/
def handled (h : TRec) : State := { onPage with tm := { onPage.tm with handles := updateAt onPage.tm.handles 0 fun _ => some h } }
/-- The group on the placed page with the banks of its scratchpad in their role. -/
def local_ : State := { onPage with eng := { onPage.eng with
  banks := (List.range 4).map fun k => { cluster := 0, bank := k, role := .scratch, fifo := [], sick := [], last := 0 } } }

/-- DeviceLaunch: a record that is mapped and not poisoned, and an address that is not aligned. -/
theorem test_meets_launch : let s := onPage
    let r := readAll (attributed s (blockAccess pageVa 64)) (blockAccess pageVa 64).elems 8 true
    Ready (.lnch paged) s ∧ release s 3 = .done s ∧ (pairOf s paged.a).toNat % 64 = 0 ∧ Mapped s (blockAccess pageVa 64) ∧
      (r.2.all fun e => !e.2.2) = true ∧ mpReaches r.1 r.1.tm.core = true ∧
      (pairOf { s with g := { s.g with sregs := [(4, 1)] } } paged.a).toNat % 64 ≠ 0 :=
  ⟨rfl, rfl, rfl, mapped_of rfl rfl rfl rfl rfl rfl, by decide +kernel, by decide +kernel, by decide⟩
/-- Loads: scalar, vector, coordinate and scratchpad loads that are mapped, now and later. -/
theorem test_meets_loads : let s := onPage
    let later : State := { s with sp := { s.sp with defer := true } }
    let lanes : Access := { elems := laneWords, size := 4, write := false, scalar := false }
    Ready (.ld paged) s ∧ Ready (.ldacq paged) s ∧ Mapped s { elems := [{ lane := 0, va := pageVa }], size := 4, write := false, scalar := true } ∧
      (readElem s pageVa 4 true).2.2 = false ∧ Ready (.vld paged) s ∧ Ready (.vldc paged) s ∧ Mapped s lanes ∧
      ((readAll (attributed s lanes) laneWords 4 true).2.all fun e => !e.2.2) = true ∧ s.sp.defer = false ∧
      Ready (.vld paged) later ∧ later.sp.defer = true ∧ Ready (.pfch paged) s :=
  ⟨rfl, rfl, mapped_of rfl rfl rfl rfl rfl rfl, rfl, rfl, rfl, mapped_of rfl rfl rfl rfl rfl (by decide +kernel), by decide +kernel, rfl, rfl, rfl, rfl⟩
/-- Loads: a tensor in a handle, dense or not, and the scratchpad. -/
theorem test_meets_tensor_loads : let s := handled (vector 0)
    s.exec ≠ 0 ∧ handleAt s 0 = some (vector 0) ∧ fmtBits (vector 0).efmt.toNat = 32 ∧ 0 + (vector 0).rank ≤ s.g.nv ∧ s.g.poison = [] ∧
      (vector 0).dense = true ∧ (vector 1).dense = false ∧ Ready (.tld plain) s ∧ Ready (.lld plain) local_ ∧
      lclInRange local_ 1 0 4 = true ∧ lclRole local_ 1 0 4 = true ∧ lclPoisoned local_ 1 0 4 = false ∧
      overlapped local_ (lclSpans local_ [0] 4 false) = false ∧ lateLocal local_ 0 4 = false :=
  ⟨by decide, rfl, rfl, by decide, rfl, rfl, rfl, rfl, rfl, rfl, rfl, rfl, rfl, rfl⟩
/-- LoadReads: far addresses, a line that nothing holds, and one that the core holds. -/
theorem test_meets_reads : let s := onPage
    let far := fun (n : Nat) => n * 2 ^ 54
    let c : CLine := { unit := 0, asid := 1, line := lineOf pageVa, le := 9, bytes := [(0, 7)], pins := [], sick := [] }
    placement (far 5) = 5 ∧ placement (far 6) = 6 ∧ isFarVa pageVa = false ∧ pageAttr s s.agent pageVa = some (placedPte, true, true) ∧
      pteAsid placedPte = 1 ∧ s.mem.l1 = [] ∧ s.mem.cc = [] ∧ s.mem.ulines = [] ∧ (∀ l ∈ s.launches, l.snap = []) ∧
      cacheable placedPte = true ∧ heldLine [c] 0 1 (lineOf pageVa) = some c ∧ (heldByte c 0 0).isSome = true :=
  ⟨rfl, rfl, rfl, by decide +kernel, rfl, rfl, rfl, rfl, by decide, rfl, by decide +kernel, rfl⟩
/-- Stores: each form, to the placed page, with a table for `mcst`. -/
theorem test_meets_stores : let s := onPage
    let m := { paged with c := .imm 2 }
    Ready (.st paged) s ∧ Ready (.vst paged) s ∧ Ready (.vstc paged) s ∧ Ready (.strel paged) s ∧ Ready (.tst plain) s ∧
      Ready (.lst plain) s ∧ Ready (.red paged) s ∧ Ready (.mcst m) s ∧ Ready (.mcstReduce { m with fn := 1 }) s ∧
      (∃ u, release s (paged.fn.toNat / 4) = .done u) ∧ MappedStore s ((List.range 32).map storeWord) 4 false ∧
      MappedStore s [storeWord 0] 4 true ∧ overlapped s (lclSpans s [0] 4 true) = false :=
  ⟨rfl, rfl, rfl, rfl, rfl, rfl, rfl, rfl, rfl, ⟨_, rfl⟩, mappedStore_of rfl rfl (by decide +kernel), mappedStore_of rfl rfl rfl, rfl⟩
/-- StoreEffects: a store on its way to the home of the placed page, permitted and denied. -/
theorem test_meets_store_arrival :
    let f : Flight := { id := 5, gid := 1, core := 0, asid := 1, va := pageVa, bytes := [1], red := none, poison := false, port := 0 }
    let s : State := { onPage with mem := { onPage.mem with flight := [f] } }
    let denied : State := { s with rel := { s.rel with acc := [] } }
    Memory.wf s = true ∧ mayArrive s f = true ∧ isFar f.va = false ∧ translate s.mem 1 pageVa = some placedPte ∧
      (launchOfGroup s (findGroup s 1)).rcd.report = true ∧ physPermits s mkContext 1 (physOf placedPte pageVa) true = true ∧
      physPermits denied mkContext 1 (physOf placedPte pageVa) true = false :=
  ⟨by decide, by decide +kernel, rfl, by decide +kernel, rfl, by decide +kernel, by decide +kernel⟩
/-- Atomics: no active lane, lanes that are sent, replies that are there, and a lane at its home. -/
theorem test_meets_atomics : let s := onPage
    let acc : Access := { elems := laneWords, size := 4, write := true, scalar := false }
    Ready (.atxCas paged) s ∧ Ready (.atxXchg paged) s ∧ Ready (.atf paged) s ∧ s.sp.request = none ∧ s.exec ≠ 0 ∧ Mapped s acc ∧
      Ready (.atf paged) { s with sp := { s.sp with mask := 0 } } ∧
      Ready (.atf paged) { s with sp := { s.sp with
        request := some { pc := s.sp.pc, next := s.sp.pc + 2, op := 0x8C, dest := 0, words := [0, 0] } } } ∧
      unpackLanes [] = [] ∧ Memory.wf s = true ∧ recordByte s 1 pageVa = false :=
  ⟨rfl, rfl, rfl, rfl, by decide, mapped_of rfl rfl rfl rfl rfl (by decide +kernel), rfl, rfl, rfl, by decide, rfl⟩

/-- The placed page begins with these words. -/
def withWords (ws : List Word) : State :=
  { onPage with mem := { onPage.mem with phys := pokeAll [] (physOf placedPte pageVa) (bytesOfWords ws) } }
/-- A block of the page that is mapped, with data that are not poisoned. -/
def readsPage (s : State) (n : Nat) : Bool :=
  (readAll (attributed s (blockAccess pageVa n)) (blockAccess pageVa n).elems 8 true).2.all fun e => !e.2.2
theorem reads_page {s : State} {n : Nat} (h : Mapped s (blockAccess pageVa n)) (hr : readsPage s n = true) :
    ∃ v l, ReadsBlock s pageVa n v l :=
  ⟨_, _, h, rfl, fun e he => by simpa [readsPage] using List.all_eq_true.mp hr e he⟩
/-- A record of a tensor that passes every check, of one dimension of 32 elements. -/
def record : TRec :=
  { vector 0 with kind := [0, 0, 0, 0, 0], dim := [32, 0, 0, 0, 0], border := [0, 0, 0, 0, 0], stride := [4, 0, 0, 0, 0] }

/-- RecordsAndScribesComplete: a record at the page, a pool, a handle that is set, and blocks to sum. -/
theorem test_meets_records : let s := withWords (tensorWords record)
    Ready (.hld paged) s ∧ (∃ v l, ReadsBlock s pageVa 128 v l) ∧ tensorOk (tensorWords record) = true ∧ s.wf = true ∧
      Ready (.hldPool plain) s ∧ Ready (.hst paged) (handled record) ∧ handleAt (handled record) 0 = some record ∧
      MappedStore (handled record) [{ storeWord 0 with bytes := [0, 0, 0, 0, 0, 0, 0, 0] }] 8 true ∧ Ready (.hset plain) (handled record) ∧
      Ready (.tstateSlot plain) s ∧ Ready (.tstateTile plain) s ∧ Ready (.tstateFlags plain) s ∧ Ready (.scrb paged) s ∧
      Ready (.scrchk paged) s ∧ (∃ v l, ReadsBlock s pageVa 16 v l) ∧ Ready (.scrfold plain) s ∧ Ready (.scrfoldSub plain) s ∧
      Ready (.scrrd plain) s :=
  ⟨rfl, reads_page (mapped_of rfl rfl rfl rfl rfl rfl) (by decide +kernel), by decide, by decide, rfl, rfl, rfl, mappedStore_of rfl rfl rfl, rfl, rfl,
    rfl, rfl, rfl, rfl, reads_page (mapped_of rfl rfl rfl rfl rfl rfl) (by decide +kernel), rfl, rfl, rfl⟩

/-- The scratchpad group with slots and tiles of its own in a state. -/
def holding (st : TState) : State :=
  { local_ with tm := { local_.tm with
      slots := List.replicate 32 { Slot.none with owned := true, st := st }
      tiles := List.replicate 8 { Tile.none with owned := true, st := st }
      handles := updateAt local_.tm.handles 0 fun _ => some record } }
/-- CommandsAreAccepted: regions, slots and queues that are free, and a tile of a dense tensor. -/
theorem test_meets_commands : let s := holding .empty
    s.exec ≠ 0 ∧ FreeRegion s 0 16 128 true ∧ FreeSlot s 0 ∧ handleAt s 0 = some record ∧ record.dense = true ∧
      MayAccept s (.fillLcl 0 128 0) (lclRange s 0 128 true) ∧ MayAccept s (.copySlot record (boxAt s 0) false 0) (slotRange s 0 true) ∧
      Ready (.bcopyIn plain) s ∧ Ready (.bcopyInSlot plain) s ∧ Ready (.bcopyOut plain) s ∧ Ready (.bfillLcl plain) s ∧
      Ready (.bfillT plain) s ∧ Ready (.coll plain) s ∧ Ready (.spmulo plain) s ∧ Ready (.spmerge plain) s ∧ engineFlags plain =
        { acq := none, rel := none, bar := none, pitch := 0 } :=
  ⟨by decide, ⟨rfl, rfl, fun _ => rfl, rfl, rfl⟩, ⟨rfl, by decide, by decide, rfl, rfl⟩, rfl, rfl,
    ⟨rfl, fun _ y h => (List.not_mem_nil h).elim, by decide, by decide⟩, ⟨rfl, fun _ y h => (List.not_mem_nil h).elim, by decide, by decide⟩,
    rfl, rfl, rfl, rfl, rfl, rfl, rfl, rfl, rfl⟩
/-- A family of one table of eight buckets. -/
def family : Fam :=
  { new := { explicit := false, k := 3, l := 1, policy := 0, d := 1, seed := 0, tbase := BitVec.ofNat 64 pageVa, spillv := 0, spillcap := 0
             rehash := false, oldfam := 0, weight := 0, va := 0 }
    old := none }
/-- CommandsAreAccepted, SparseAndHashInstructionsComplete: a family in its register. -/
theorem test_meets_families : let s : State := { local_ with tm := { local_.tm with fams := updateAt local_.tm.fams 0 fun _ => some family } }
    s.tm.fams.getD 0 none = some family ∧ Ready (.lshprobe plain) s ∧ Ready (.lshins plain) s ∧ Ready (.lshdel plain) s ∧
      Ready (.lshstep plain) s ∧ Ready (.lshstat plain) s ∧ Ready (.lshproj plain) s ∧ FreeRegion s 0 1 4 false ∧ tokenNow s = true ∧
      freeBands s s.tm.core ≠ [] ∧ s.g.ftrap = 0 :=
  ⟨rfl, rfl, rfl, rfl, rfl, rfl, rfl, ⟨rfl, rfl, fun _ => rfl, rfl, rfl⟩, by decide +kernel, by decide, rfl⟩
/-- SparseAndHashInstructionsComplete: a tile that may be stored, and instructions that may act. -/
theorem test_meets_sparse : let s := holding .ready
    Ready (.isect plain) s ∧ Ready (.isdot paged) s ∧ Ready (.sptile paged) s ∧ Ready (.lshfam paged) s ∧ QuietTile s 0 ∧
      (tileAt s.tm 0).mode.toNat = (mfmt s.sp.fmt).acc ∧ passNow s 0 = none :=
  ⟨rfl, rfl, rfl, rfl, ⟨rfl, rfl, rfl, rfl⟩, rfl, rfl⟩
/-- A quarter of a product. -/
def quarter : Quarter :=
  { id := 2, core := 0, tid := 1, q := 0, tile := 0, a := .slot 0, b := 0, m := 1, n := 1, k := 1, fmt := 0x11, rnd := 0, rkey := 0
    since := 0, mmag := none }
/-- SparseAndHashInstructionsComplete: a pass that may start, and one that ends. -/
theorem test_meets_passes : let s := { holding .ready with gt := 8, mx := { quarters := [quarter], passes := [] } }
    let p : Pass := { id := 3, core := 0, stream := 0, quarters := [quarter], tokens := 1, till := 8, band := none }
    passNow s 0 = some [quarter] ∧ ([p].find? fun y => y.id == 3) = some p ∧ teamChecks s 1 = false := ⟨by decide +kernel, rfl, rfl⟩
/-- MatrixInstructionsComplete: slots and tiles that may be read, written and taken, under a format word that R69 lists. -/
theorem test_meets_matrix : let s : State := { holding .ready with sp := { (holding .ready).sp with fmt := 0x11 } }
    let e := holding .empty
    s.exec ≠ 0 ∧ (mfmt s.sp.fmt).legal = some .half ∧ ReadySlot s 0 ∧ TakesProducts s 0 ∧ QuietTile s 0 ∧ FreeTile s 0 ∧ FreeSlot e 0 ∧
      queuedOn s s.tm.core = 0 ∧ FreeRegion s 0 16 8448 true ∧ FreeRegion s 0 16 128 false ∧ nameBusy s 0 = false ∧
      (placed.tm.slots.all fun o => !o.owned) = true ∧ (checkTile (checksOn s) (tileAt s.tm 0)).1 ∉ [1, 3] :=
  ⟨by decide, by decide, ⟨rfl, rfl, rfl, rfl, rfl⟩, ⟨rfl, rfl, rfl, rfl, rfl⟩, ⟨rfl, rfl, rfl, rfl⟩, ⟨rfl, by decide, by decide, rfl⟩,
    ⟨rfl, by decide, by decide, rfl, rfl⟩, rfl, ⟨rfl, rfl, fun _ => rfl, rfl, rfl⟩, ⟨rfl, rfl, fun _ => rfl, rfl, rfl⟩, rfl, rfl, by decide⟩
/-- MatrixInstructionsComplete: every instruction may act. -/
theorem test_meets_matrix_issue : let s := holding .ready
    let x := { plain with ty := Ty.i32 }
    Ready (.oclaim x) s ∧ Ready (.orel x) s ∧ Ready (.ofill x) s ∧ Ready (.mma x) s ∧ Ready (.mmarow x) s ∧ Ready (.mmag x) s ∧
      Ready (.aclr x) s ∧ Ready (.aload x) s ∧ Ready (.aloadAdd x) s ∧ Ready (.aloadRaw x) s ∧ Ready (.adrain x) s ∧
      Ready (.adrainRaw x) s ∧ Ready (.adrainRawSlot x) s ∧ Ready (.mchk x) s ∧ Ready (.mchkSt x) s :=
  ⟨rfl, rfl, rfl, rfl, rfl, rfl, rfl, rfl, rfl, rfl, rfl, rfl, rfl, rfl, rfl⟩

/-- Words of a request that names a block. -/
def asks (op : Nat) (l : List DWord) : State :=
  { placed with sp := { placed.sp with request := some { pc := placedPc, next := placedPc + 2, op := op, dest := 0, words := l } } }
/-- BlockStoreAndMemoryEventsComplete: the instructions may act, and the controller answers a request for a new name. -/
theorem test_meets_block_store : let t := focus (asks 0xA8 [0, 0, 0]) { gid := 1, sp := 0 }
    Ready (.kvalloc plain) placed ∧ Ready (.kvget plain) placed ∧ Ready (.kvshare plain) placed ∧ Ready (.kvfree plain) placed ∧
      release placed 3 = .done placed ∧ mayIssue t = true ∧ findName t t.asid [0, 0, 0] = none ∧ poolOf t t.asid = 0 ∧
      (findFrames t pageVa 2).isSome = true := ⟨rfl, rfl, rfl, rfl, rfl, rfl, rfl, rfl, by decide +kernel⟩
/-- BlockStoreAndMemoryEventsComplete: a name whose block has a page, and a way that may be resized. -/
theorem test_meets_names : let e : KvName := { asid := 1, seq := 0, layer := 0, blk := 0, block := 7, va := BitVec.ofNat 64 pageVa }
    let b : KvBlock := { id := 7, asid := 1, pfn := 16, evicted := false }
    let s : State := { placed with kv := { names := [e], blocks := [b], freed := [] } }
    findName s 1 [0, 0, 0] = some e ∧ findBlock s 7 = some b ∧ blockIdle s 7 = true ∧ nameAt s 1 pageVa = some e ∧
      (findWay placed.mem 0 0).isSome = true := ⟨rfl, rfl, by decide +kernel, by decide +kernel, rfl⟩
/-- A page beside the placed one. -/
def beside : Quad := mkPte 0 true true true 0 0 false 1 (pageOf placedVa + 1) 32
/-- BlockStoreAndMemoryEventsComplete: lines, pages, ranges and violations that its events find. -/
theorem test_meets_memory_events : let s := placed
    let v : Violation := { target := 0, mkind := 1, mid := 1, addr := 0, write := true, gt := 0 }
    running s = true ∧ heldILine s 0 1 pageVa = none ∧ seeFetch s { asid := 1, core := 0, super := true, mkind := mkContext } pageVa = .page placedPte ∧
      (groupOn s 0 1).isSome = true ∧ canonical pageVa = true ∧ translate s.mem 1 pageVa = some placedPte ∧ pteKv placedPte = false ∧
      pageBusy s placedPte = false ∧ mayMap s (allPtes s) beside = true ∧ pageBusy s beside = false ∧ tableRoom s.mem beside = true ∧
      translate s.mem 1 (pageVa + 4096) = none ∧ pageIn beside (pageOf (pageVa + 4096)) = true ∧ pageFor beside 1 = true ∧
      rangeBusy s 1 0 4096 = false ∧ checkpointHolds s 1 = false ∧ hostUp s = true ∧
      ({ s with rel := { s.rel with viol := [v] } } : State).rel.viol.filter (fun y => y.target == 0) = [v] := by decide +kernel
/-- A command of the placed group that fills its scratchpad, with a result or not. -/
def fillCmd (r : Option CmdRes) : Cmd := { newCmd plain local_ (.fillLcl 0 128 0) { acq := none, rel := none, bar := none, pitch := 0 } with res := r }
/-- The group with this command accepted. -/
def commanded (c : Cmd) : State := { local_ with eng := { local_.eng with cmds := [c] } }
/-- EnginesComplete: a command whose turn has come, one that has ended, and a slot and a tile that move. -/
theorem test_meets_engines : let c := fillCmd none
    let d := fillCmd (some { code := 0, chunks := 0, addr := 0, chunk := 0, hop := 0, va := 0 })
    findCmd (commanded c) c.id = some c ∧ mayStart (commanded c) c = true ∧ spanRole (startCmd (commanded c) c) c 0 128 = true ∧
      findCmd (commanded d) d.id = some d ∧ d.kind.retrieval = false ∧ (slotAt (findTeam (holding .filling) 1) 0).st = .filling ∧
      (tileAt (findTeam (holding .draining) 1) 0).st = .draining ∧ (holding .filling).eng.cmds = [] :=
  ⟨rfl, rfl, rfl, rfl, rfl, rfl, rfl, rfl⟩
/-- EnginesComplete: a retrieval command whose turn has come, where the engines of its context may access memory. -/
theorem test_meets_retrieval :
    let c := { fillCmd none with kind := .stat family 0, core := 0 }
    let commanded := fun (c : Cmd) =>
      let s := commanded c
      { s with rel := { s.rel with acc := s.rel.acc.map fun e => { e with word := e.word ||| 0x100 } } }
    findCmd (commanded c) c.id = some c ∧ mayRetrieve (commanded c) c = true ∧ mayStart (commanded c) c = true ∧
      ((Work.start (startCmd (commanded c) c) c.w).read (({ c with started := true } : Cmd).engine (startCmd (commanded c) c) false)
        pageVa 64).1.stop = none := by decide +kernel
/-- A chunk of a collective on its way between two hops. -/
def onWay (waiting : Bool) : Chunk :=
  { num := 1, coll := 2, dest := 0, org := 0, chunk := 0, step := 0, chunkId := 0, s0 := 0, s1 := 0, fmt := 0, ovf := false, rsnd := false
    anchor := 0, hop := 0, payload := [0], side := none, prev := 0, hops := [0, 0], tries := 0, rerouted := false, waiting := waiting, out := false }
/-- EnginesComplete: chunks that are whole and that wait. -/
theorem test_meets_chunks :
    let s := fun (b : Bool) => { placed with eng := { placed.eng with chunks := [onWay b] } }
    (s true).eng.chunks.find? (fun y => y.num == 1) = some (onWay true) ∧ (s false).eng.chunks.find? (fun y => y.num == 1) = some (onWay false) ∧
      hopDown (s false) 0 0 = false ∧ scribeOf [0] = (0, 0) := ⟨rfl, rfl, rfl, rfl⟩

/-- The placed gang in another place of pre-emption. -/
def gangAt (st : GangSt) : State := { placed with gangs := placed.gangs.map fun g => { g with st := st } }
/-- The placed group wholly exited, and retired or not. -/
def exited_ (r : Bool) : State := { placed with g := { placed.g with exited := 0xFFFFFFFF, retired := r } }
/-- A device with a queue of context 1 whose head is the placed record. -/
def queued : State :=
  let e : QEntry := { pos := 0, rcd := placedRec, poolSize := 0, replay := 0, since := some 0, prio7 := some 0, placed := 0, running := none }
  { State.reset with sched := { State.reset.sched with
      ctxs := placed.sched.ctxs
      queues := { asid := some 1, opened := true, entries := [e], nextPos := 1 } :: State.reset.sched.queues.drop 1 } }
/-- SchedulingEventsComplete: a head that may be placed, and one whose reservation is due. -/
theorem test_meets_placement : running queued = true ∧ (bestHead queued).isSome = true ∧
    (reserveDue { queued with gt := 2 ^ 18 }).length = 1 ∧ (reserveBlocks queued placedRec).isEmpty = false := by decide +kernel
/-- SchedulingEventsComplete: groups, teams and grids that retire, and gangs that halt, are saved and placed again. -/
theorem test_meets_scheduling : let s := placed
    whollyExited (exited_ false).g = true ∧ (exited_ false).g.retired = false ∧ sideOut (exited_ false) 1 = false ∧
      teamBusy (exited_ true) (exited_ true).tm = false ∧ (exited_ true).tm.freed = false ∧
      writesDone (mergeLaunches s [1]) [1] = true ∧ (gangAt (.halting 0)).gang.st = .halting 0 ∧ (gangAt (.halted 0)).gang.st = .halted 0 ∧
      mayHaveSeen (mergeLaunches (gangAt (.halted 0)) [1]) 1 = false ∧
      (findGang s 1).st = .running ∧ (findGang s 1).retired = false ∧ (findCtx s 1).isSome = true ∧ workOver s (ctxLaunches s 1) = true ∧
      heldQueue (admitCtx s 1) 0 = false ∧ (findLaunch s 1).rollback = false ∧ (findLaunch s 1).killed = false := by decide +kernel
/-- SchedulingEventsComplete: a rendezvous whose watchdog fires, a group that a debugger may go on with, an object that is refused. -/
theorem test_meets_scheduling_rest :
    let j : Joined := { member := 0, words := [], bad := none, fmt := 0, rnd := 0, rkey := 0 }
    let r : Rendezvous := { op := 0, joined := [j], last := 0, began := false, fail := none, passes := [], left := [] }
    let s := { placed with gt := 4194304, gangs := placed.gangs.map fun g => { g with rdvs := [r] } }
    rdvFires s 1 = some r ∧ (handling 0x0B false (some kept)).g.entry = 0x0B ∧ (handling 0x0B false (some kept)).g.halted = false ∧
      (refusalOf placed []).isSome = true := by decide +kernel

/-- DeviceEventsComplete: what its events find on a device that runs. -/
theorem test_meets_device : let s := placed
    running s = true ∧ s.dev.checkpoint = none ∧ quiesceLimit 0 = some (2 ^ 32) ∧ portLive { s with dev := { s.dev with cap3 := 1 } } 0 = true ∧
      (∃ k, k < 4 ∧ bayHealthy s k = true) ∧ dueOf s (0x0F, 0) = none ∧ s.dev.test = none ∧ isLink 0x0D 3 = true ∧ isResent 7 = true ∧
      coreUp s 5 = true ∧ gangsOnCores State.reset (· == 5) = [] ∧ packageOk [] = false ∧
      (∃ t, focus (asks 0x8C [0, 0]) { gid := 1, sp := 0 } = t ∧ t.sp.request.isSome = true) :=
  ⟨rfl, rfl, rfl, rfl, ⟨0, by decide, by decide⟩, rfl, rfl, rfl, rfl, by decide, rfl, rfl, _, rfl, rfl⟩
/-- DeviceEventsComplete: a token, a grant and a page that is asked for. -/
theorem test_meets_fabric :
    let t : Token := { gid := 1, dest := some 1, port := 0, count := 1, upto := 0, atEnd := true, auto := false }
    let g : Grant := { port := 0, asid := 1, dev := 1, size := 0, page := 0, tasid := 1, target := 0 }
    let e : Asked := { port := 0, asid := 1, page := 0, gids := [1] }
    let s : State := { placed with fab := { placed.fab with tokens := [t], grants := [g], asked := [e] } }
    s.fab.tokens[0]? = some t ∧ pathClear s t = true ∧ (s.fab.grants.find? fun x => x.covers 1 (2 ^ 42)) = some g ∧ grantBusy s g = false ∧
      (s.fab.asked.find? fun e => e.asid == 1 && e.page == 0) = some e := by decide +kernel
/-- DeviceEventsComplete: a checkpoint that streams, one that is abandoned, an image that is restored, a start at a power domain. -/
theorem test_meets_checkpoints :
    let c : Checkpoint := { asids := [], dest := 0, limit := 0, closed := [], quiet := true }
    let x : ImageCtx := { asid := 1, errq := none, ctrPage := none, queues := [], counters := [], pages := [], names := [], blocks := [], uranges := [] }
    let s : State := { State.reset with fab := { State.reset.fab with images := [(0, [x])] } }
    ({ placed with dev := { placed.dev with checkpoint := some c } } : State).dev.checkpoint = some c ∧ c.limit ≤ placed.gt ∧
      (s.fab.images.find? fun e => e.1 == 0) = some (0, [x]) ∧ mayRestore s x = true ∧ ([x].foldl (restoreCtx []) (some s)).isSome = true ∧
      mayRestore placed x = false ∧ ({ placed with dev := { placed.dev with power := .starting (.domain 2) } } : State).dev.power =
        .starting (.domain 2) := by decide +kernel

/-! ### Clauses with conditions of their own -/

/-- StepRunsDecoded: a split at which a watchdog has raised a cause. -/
theorem test_meets_step_event_raised : let s : State := { withNop with sp := { withNop.sp with event := some (0x21, 16) } }
    let f := focus (tick { s with agenda := [] } 1) { gid := 1, sp := 0 }
    s.agenda = [{ ticks := 1, act := .issue { gid := 1, sp := 0 } }] ∧ mayIssue f = true ∧ takesTurn f f.g f.sp = true ∧
      (noteTurn f).sp.event = some (0x21, 16) := by decide +kernel
/-- StepRunsDecoded: splits 1 and 0, which both stand at a `trap`, one after the other in one cycle (R404). -/
theorem test_meets_step_yields : let p := placeUnits placed (encode (.trap plain))
    let f : State := { p with
      agenda := [{ ticks := 0, act := .issue { gid := 1, sp := 0 } }]
      sp := { p.sp with num := 1, mask := 1 }, g := { p.g with turn := 0, others := [{ p.sp with mask := 2 }] } }
    takesTurn f f.g f.sp = true ∧ yields f = true := by decide +kernel
/-- TransferTraps: a target that is not mapped, a branch that is taken, a counter that goes on, a full stack at an indirect call. -/
theorem test_meets_transfer_traps_rest : let s := joining joinAtStart
    let full := { s with sp := { s.sp with recon := List.replicate 16 3 }, g := { s.g with sregs := [(0, placedPc.setWidth 32), (1, (placedPc >>> 32).setWidth 32)] } }
    (∃ u, checkTransfer s 0 = .hold u) ∧ Ready (.jmp plain) s ∧ pairOf s plain.a = 0 ∧ Ready (.brc { plain with lit := some 2 }) s ∧
      Ready (.loop { plain with lit := some 2 }) s ∧ getS s 0 - 1 ≠ 0 ∧
      (∃ tr u, checkTransfer (joining { joinAtStart with jpc := placedPc + 2 }) (placedPc + 2) = .fail tr u) ∧
      Ready (.ret plain) (joining { joinAtStart with jpc := placedPc + 2 }) ∧ pairOf full plain.a = placedPc ∧
      Ready (.callIndirect plain) full ∧ ∃ u, checkTransfer full placedPc = .ok u ∧ 16 ≤ u.sp.recon.length :=
  ⟨⟨_, rfl⟩, rfl, rfl, rfl, rfl, by decide, ⟨_, _, rfl⟩, rfl, by decide, rfl, _, rfl, by decide⟩
/-- Another split of the placed group with some lanes, parked or not. -/
def beside_ (m : Word) (at_ : Option Nat) : Split :=
  { placed.sp with num := 1, mask := m, parked := at_, recon := [3] }
/-- Reconvergence: a split that arrives while lanes are still missing, and one with which two parked splits merge. -/
theorem test_meets_reconvergence_rest : let r := joinAtStart
    let some_ := { joining r with sp := { (joining r).sp with mask := 15 } }
    let rest := { some_ with g := { some_.g with recs := [{ r with arr := 0xFFFFFFF0, held := [(1, 0xFFFFFFF0)] }], others := [beside_ 0xFFFFFFF0 (some 3)] } }
    topRec some_ = some r ∧ some_.sp.pc = r.jpc ∧ r.pdep = some_.sp.pred.length ∧ some_.sp.live = true ∧
      (some_.g.others.filter fun p => p.parked == some 3) = [] ∧ r.arr ||| some_.sp.mask ≠ r.exp &&& ~~~some_.g.exited ∧
      (topRec rest).map (fun q => (q.jpc, q.pend, q.arr)) = some (rest.sp.pc, 0, 0xFFFFFFF0) ∧
      (rest.g.others.filter fun p => p.parked == some 3).foldl (fun m p => m ||| p.mask) (0xFFFFFFF0 ||| rest.sp.mask) =
        r.exp &&& ~~~rest.g.exited ∧ r.exp &&& ~~~rest.g.exited ≠ 0 := by decide +kernel
/-- ExitRemovesLanes: a split that keeps lanes, one that loses them all with no record, with deferred lanes, with lanes at a JPC. -/
theorem test_meets_exit_rest :
    let s := { placed with sp := { placed.sp with mask := 15 }, g := { placed.g with others := [beside_ 0xFFFFFFF0 none] } }
    let kept := { s with sp := { s.sp with pred := [3] } }
    let under := fun (r : Rec) => { s with sp := { s.sp with recon := [3] }, g := { s.g with recs := [r] } }
    let deferred := { joinAtStart with pend := 0xFF00, ppc := placedPc, exp := 0xFF0F }
    let brought := { joinAtStart with arr := 0xFF00, held := [(0, 0xFF00)] }
    Ready (.exit plain) s ∧ s.exec ≠ 0 ∧ s.g.launched &&& ~~~(s.g.exited ||| s.exec) ≠ 0 ∧
      (s.g.others.all fun p => p.parked.isNone && p.mask &&& ~~~s.exec != 0) = true ∧ s.sp.live = true ∧ s.sp.parked = none ∧
      kept.sp.mask &&& ~~~kept.exec ≠ 0 ∧ s.sp.mask &&& ~~~s.exec = 0 ∧ topRec s = none ∧
      topRec (under deferred) = some deferred ∧ deferred.pend &&& ~~~s.exec ≠ 0 ∧ deferred.pby = s.sp.num ∧
      topRec (under brought) = some brought ∧ brought.pend = 0 ∧ heldBy brought s.sp.num &&& (brought.arr &&& ~~~s.exec) ≠ 0 ∧
      brought.arr &&& ~~~s.exec ≠ brought.exp &&& ~~~s.exec &&& ~~~(s.g.exited ||| s.exec) := ⟨rfl, by decide +kernel⟩
/-- ApproximateResults: each kind of FP32 pattern that its clauses name. -/
theorem test_meets_approximations : fmtF32.value 0x7FC00000 = .nan false ∧ fmtF32.value 0x7F800000 = .inf false ∧
    fmtF32.value 0x80000000 = .fin true 0 (-149) ∧ fmtF32.value 0x3F800000 = .fin false 8388608 (-23) ∧
    fmtF32.value 0x00000001 = .fin false 1 (-149) := by decide +kernel

/-- The placed team with slots and tiles that are its own, tiles in MODE 0, under a legal format word whose ACC is I32 (R69). -/
def product : State := { holding .ready with sp := { (holding .ready).sp with fmt := 0x11 } }
/-- Operands of an `mmag` of one element of each dimension, in blocks at 0 and 0x8000. -/
def joinArgs : Args := { plain with d := 0, a := .imm 0, b := .reg 6, c := .reg 0, lit := some 0x00100401 }
/-- The same with the address of B in s6. -/
def gathered (ad : Word) : State := { product with g := { product.g with sregs := [(6, ad)] } }
/-- MatrixInstructionsComplete: an `mmag` of a gang of one team that forms, and one whose B block is not aligned. -/
theorem test_meets_gang_product : let s := gathered 0x8000
    let f := mfmt s.sp.fmt
    let lit := joinArgs.literal
    Ready (.mmag joinArgs) s ∧ s.exec ≠ 0 ∧ f.legal = some .half ∧ requestHere s 0xB4 = none ∧ release s 2 = .done s ∧ s.gang ∈ s.gangs ∧
      s.gang.id = s.tm.gang ∧ findRdv s s.gang.id s.tm.mmags = none ∧ lit.extractLsb' 28 4 = 0 ∧ (lit.extractLsb' 0 10).toNat = 1 ∧
      (lit.extractLsb' 10 10).toNat = 1 ∧ (lit.extractLsb' 20 8).toNat = 1 ∧ shapeOf s.gang.nteams = (1, 1) ∧ s.tm.member = 0 ∧
      (memberTeam s 1 0).id = 1 ∧ (scalar32 s joinArgs joinArgs.a).toNat = 0 ∧ (scalar32 s joinArgs joinArgs.b).toNat = 0x8000 ∧
      lclInRange s 1 0 16384 = true ∧ lclRole s 1 0x8000 16384 = true ∧ (tileAt s.tm 3).mode.toNat = f.acc ∧
      overlapped s (mmagRanges s f 0 0x8000 0) = false ∧ queuedOn s s.tm.core + 4 ≤ 16 ∧ nameBusy s 35 = false ∧
      (scalar32 (gathered 0x8001) joinArgs joinArgs.b).toNat % 16 ≠ 0 ∧ lclInRange s 1 0x10000 16384 = false := by
  refine ⟨rfl, by decide +kernel, by decide +kernel, rfl, rfl, by decide +kernel, ?_⟩
  decide +kernel
/-- A gang's operation whose first pass has been queued, and one that has come to its end. -/
def rendezvous (ran : Nat) (fail : Option (BitVec 8 × DWord)) : Rendezvous :=
  { op := 0, joined := [{ member := 0, words := [0, 0x8000, 0, 0, 0x00114065], bad := none, fmt := 0x11, rnd := 0, rkey := 0 }], last := 0
    began := true, fail := fail, passes := [(0, ran)], left := [] }
/-- The team waits in it. -/
def inGang (r : Rendezvous) : State :=
  { product with
    gangs := product.gangs.map fun g => { g with rdvs := [r] }
    sp := { product.sp with request := some { pc := placedPc, next := placedPc + 3, op := 0xB4, dest := 0, words := [0] } } }
/-- MatrixInstructionsComplete: a team whose passes are over, one that waits, one whose operation has failed. -/
theorem test_meets_gang_product_end : Ready (.mmag joinArgs) (inGang (rendezvous 4 none)) ∧
    (rendezvous 4 none).ran 0 = 4 ∧ findRdv (inGang (rendezvous 4 none)) 1 0 = some (rendezvous 4 none) ∧ (rendezvous 1 none).ran 0 ≠ 4 ∧
    (inGang (rendezvous 1 (some (2, 0)))).sp.request.map (fun q => (q.op, q.pc)) = some (0xB4, placedPc) := by
  refine ⟨rfl, ?_⟩
  decide +kernel
/-- SparseAndHashInstructionsComplete: the pass of an `mmag` that ends, in a gang that runs and in one that halts. -/
theorem test_meets_gang_pass : let q := { quarter with mmag := some (0, 0) }
    let p : Pass := { id := 3, core := 0, stream := 0, quarters := [q], tokens := 1, till := 8, band := none }
    let s := { inGang (rendezvous 0 none) with gt := 8, mx := { quarters := [], passes := [p] } }
    let halts := { s with gangs := s.gangs.map fun g => { g with st := .halting 0 } }
    (s.mx.passes.find? fun y => y.id == 3) = some p ∧ p.till ≤ s.gt ∧ findRdv s (findTeam s q.tid).gang 0 = some (rendezvous 0 none) ∧
      ((rendezvous 0 none).joined.find? fun j => j.member == 0).isSome = true ∧ (findGang halts 1).st = .halting 0 ∧
      quarterSick s q = false ∧ (q.aRow s 0).isSome = true := by decide +kernel
/-- The placed context or launch in some state of its ending. -/
def endingCtx (c : Option (BitVec 8)) : State :=
  { placed with sched := { placed.sched with ctxs := placed.sched.ctxs.map fun x => { x with closing := c } } }
/-- The placed launch under a change. -/
def launched (f : Launch → Launch) : State := { placed with launches := placed.launches.map f }
/-- SchedulingEventsComplete: a context and a launch that are being ended, their work over; a launch that is rolled back, for the last time
or not; a gang that has fitted nowhere; one that is placed again. -/
theorem test_meets_endings :
    (findCtx (endingCtx none) 1).map (fun x => (x.gone, x.closing)) = some (false, none) ∧
      (findCtx (endingCtx (some 1)) 1).map (fun x => (x.gone, x.closing)) = some (false, some 1) ∧
      workOver (endingCtx (some 1)) (ctxLaunches (endingCtx (some 1)) 1) = true ∧
      (findLaunch (launched fun l => { l with killed := true }) 1).killed = true ∧ workOver (launched fun l => { l with killed := true }) [1] = true ∧
      (findLaunch (launched fun l => { l with rollback := true, replay := 3 }) 1).replay = 3 ∧
      (let s := launched fun l => { l with rollback := true }
       workOver (startRollback (mergeLaunches s [1]) 1) (tangledWith 1 (mergeLaunches s [1]) [1]) = true) ∧
      shapeFits { placed with dev := { placed.dev with cap0 := 0x00020102 } } placedRec = false ∧
      (let s := { gangAt (.saved 0) with
         gt := 2 ^ 22, gangs := (gangAt (.saved 0)).gangs.map (fun g => { g with unfit := some 0 })
         sched := { queued.sched with ctxs := placed.sched.ctxs } }
       (findGang s 1).away = true ∧ (findGang s 1).unfit = some 0 ∧ resumable s (findGang s 1) = some 0 ∧
         (findPlace s placedRec (gangReserve s 1)).isSome = true) := by decide +kernel
/-- SchedulingEventsComplete: a grid whose gangs have retired, a gang asked to halt with no save area, a debugger's hold, a counter and a
queue that may be given. -/
theorem test_meets_grid : let s := launched fun l => { l with retired := 1 }
    let d := { handling 0x0B false (some kept) with sched := { placed.sched with ctxs := placed.sched.ctxs.map fun x => { x with debugger := true } } }
    (findLaunch s 1).placed = (findLaunch s 1).rcd.gangs ∧ (findLaunch s 1).retired = (findLaunch s 1).rcd.gangs ∧
      ending s (findLaunch s 1) = false ∧ doomed s (findLaunch s 1) = false ∧ writesDone (mergeLaunches s [1]) [1] = true ∧
      (findGang s 1).save = none ∧ debugHeld d d.g = true ∧ debugHeld (handling 0x0B false (some kept)) (handling 0x0B false (some kept)).g = false ∧
      (admitCtx s 1).sched.ctxs.map (fun x => x.closing) = [none] ∧ heldQueue (admitCtx s 1) 0 = false ∧
      checkpointHolds (admitCtx s 1) 1 = false ∧ (queueAt s 0).entries = [] := by decide +kernel
/-- The placed device with units retired, about to be, or with errors of late. -/
def withDev (f : Device → Device) : State := { placed with dev := f placed.dev }
/-- DeviceEventsComplete: units over and under their thresholds (R408). -/
theorem test_meets_thresholds :
    let s := fun (u : UnitId) (k : ErrKind) (n : Nat) => withDev fun d => { d with recent := [((u, k), List.range n)] }
    (recentErrs (s (7, 0) .uncorrectable 1) (7, 0) .uncorrectable).length = 1 ∧ (recentErrs (s (7, 0) .corrected 63) (7, 0) .corrected).length = 63 ∧
      (recentErrs (s (0x0B, 9) .uncorrectable 2) (0x0B, 9) .uncorrectable).length = 2 ∧
      (recentErrs (s (0x0D, 3) .uncorrectable 8) (0x0D, 3) .uncorrectable).length = 8 ∧ recentErrs placed (0x0C, 1) .corrected = [] ∧
      unitCore (7, 0) = 0 ∧ coreUp placed 0 = true ∧ isLink 0x0C 1 = true := by decide +kernel
/-- The placed program under RED at a `vadd` in its instruction cache, with what its executions gave. -/
def redundant (us : List Word) : State :=
  let s := placeUnits (launched fun l => { l with rcd := { l.rcd with red := true } }) us
  fillILine s 0 placedPte placedVa
/-- DeviceEventsComplete: a mismatch that a rerun does not bear out, one that names a lane, one that names none, and a scalar one (R412). -/
theorem test_meets_mismatch : let v := redundant [0x00000101, 0]
    let c := redundant [0x00000001, 0]
    let y := fun (x0 x1 x2 : List Nat) => ({ gid := 1, sp := 0, x0 := x0, x1 := x1, x2 := x2 } : Mismatch)
    runsTwice v (y [] [] []) = true ∧ opcodeHere (focus v { gid := 1, sp := 0 }) = some 0x40 ∧
      runsTwice c (y [] [] []) = true ∧ opcodeHere (focus c { gid := 1, sp := 0 }) = some 0 ∧
      (findTeam v (findGroup v 1).team).core = 0 ∧ unitCore (9, 0) = 0 ∧ (activeLanes (focus v { gid := 1, sp := 0 })).filter
        (rerunDiffers (y [5] [0] [0])) = [0] ∧ suspects (y [5] [0] [0]) 32 [0] = [0] ∧ suspects (y [5] [6] [7]) 32 [0] = [] ∧
      v.dev.half = [] := by decide +kernel
/-- DeviceEventsComplete: a half of a core, a bay and a test that wait for their gangs, a device that stops, a failed MP. -/
theorem test_meets_waiting : let due : Due := { unit := (8, 0), code := 3, since := 0, whole := false }
    let bay : Due := { unit := (0x0F, 2), code := 6, since := 0, whole := true }
    let s := withDev fun d => { d with due := [due, bay], mpLost := true }
    (s.dev.due.filter fun e => inHalf 0 0 e.unit) = [due] ∧ gangsOnCores { s with gangs := [] } (· == 0) = [] ∧
      dueOf s (0x0F, 2) = some bay ∧ gangsOnCores s (fun x => bayOf x == 2) = [] ∧ bay.since + 3200 ≤ ({ s with gt := 3200 } : State).gt ∧
      s.dev.retired.contains (0x0F, 2) = false ∧ s.dev.trained ≠ [] ∧ inStart s = false ∧
      (withDev fun d => { d with power := .lowering 2 }).dev.power = .lowering 2 ∧
      ({ bays := false, targets := [5], digest := [] } : FieldTest).targets = [5] ∧
      gangsOnCores s (({ bays := false, targets := [5], digest := [] } : FieldTest).holds) = [] := by decide +kernel
/-- DeviceEventsComplete: a page of a retired layer, that may move or finds no frame, and one of an evictable block. -/
theorem test_meets_moves : let s := withDev fun d => { d with retired := [(0x0B, 8 * homeStack pageVa)] }
    let full := withDev fun d => { d with retired := (List.range 8).map fun k => (0x0B, 8 * homeStack pageVa + k) }
    let e : KvName := { asid := 1, seq := 0x80000000, layer := 0, blk := 0, block := 7, va := BitVec.ofNat 64 pageVa }
    let kv := { full with kv := { names := [e], blocks := [{ id := 7, asid := 1, pfn := 16, evicted := false }], freed := [] } }
    toMove s = [placedPte] ∧ pteAsid placedPte = 1 ∧ pageIn placedPte (pageOf pageVa) = true ∧
      framesFree s (pageBase placedPte) (pteSize placedPte) 1953125 = true ∧ (findFrames s (pageBase placedPte) (pteSize placedPte)).isSome = true ∧
      (pageRuns placedPte).Nodup ∧ nameOfPage s placedPte = none ∧
      findFrames full (pageBase placedPte) (pteSize placedPte) = none ∧ evictable full placedPte = false ∧ pageBusy kv placedPte = false := by
  decide +kernel
/-- DeviceEventsComplete: a far address whose destination is there and one that is not, for a split that awaits replies. -/
theorem test_meets_replies : let lane : AtomLane := { lane := 0, va := 5 * 2 ^ 54 + 2 ^ 42, d := 1, c := 0, port := 3, got := none }
    let words : List DWord := lane.pack
    let s := asks 0x8C (0 :: 0 :: words)
    let t := focus s { gid := 1, sp := 0 }
    (t.sp.request.map fun q => openLanes q) = some [lane] ∧ laneLost { t with fab := { t.fab with unreachable := [1] } } lane = true := by
  decide +kernel

/-- DeviceEventsComplete: the reply to the lane at the host comes when the table has come to deny the lane on the device. -/
theorem test_meets_reply_denied :
    let far : AtomLane := { lane := 0, va := 6 * 2 ^ 54, d := 1, c := 0, port := 16, got := none }
    let s := asks 0x8C (0 :: 0 :: (far.pack ++ { far with lane := 1, va := pageVa }.pack))
    let t := focus { s with rel := { s.rel with acc := [] } } { gid := 1, sp := 0 }
    let a := answerLanes (AtomOp.ofWord 0) [5] [far, { far with lane := 1, va := pageVa }] t
    (t.sp.request.map fun q => openLanes q) = some [far] ∧ laneLost t far = false ∧
      (a.2.map fun x => (x.open, (laneDenied a.1 x).isSome)) = [(false, false), (false, true)] ∧ a.1.g.halted = false ∧ a.1.g.inHandler = false := by
  decide +kernel

/-- StepRunsDecoded: a turn that issues a load to be performed later, and one that performs its element. -/
theorem test_meets_step_late :
    let f0 := focus (tick { withNop with agenda := [] } 0) { gid := 1, sp := 0 }
    let f := { f0 with sp := { f0.sp with defer := true } }
    let y : Late := { id := 7, lcl := true, scalar := false, dest := 0, ty := .n32, super := false, keep := false, elems := [(0, 0)], data := [], ports := [] }
    let v := tick { local_ with agenda := [], g := { local_.g with late := [y] } } 0
    mayIssue f = true ∧ takesTurn f f.g f.sp = true ∧ yields f = false ∧ (noteTurn f).sp.event = none ∧ atJoin (noteTurn f) = false ∧
      (∃ u, lookAtPc (noteTurn f) = (u, .instr (.nop plain)) ∧ bondClamped u (.nop plain) = false ∧ ∃ t, exec (.nop plain) u = .next t) ∧
      ((findGroup v 1).late.any fun z => z.id == 7) = true ∧ (focusGroup v 1).g.late.find? (fun z => z.id == 7) = some y ∧
      lateReaches (focusGroup v 1) y 0 = true ∧ State.wf (focusGroup v 1) = true :=
  ⟨rfl, rfl, rfl, rfl, rfl, ⟨_, rfl, rfl, _, rfl⟩, rfl, rfl, rfl, by decide +kernel⟩
/-- IssueChecksInOrder: a poisoned source register. -/
theorem test_meets_issue_poison :
    let s : State := { placed with g := { placed.g with poison := [(5, 64)] } }
    poisonedReads (Instr.vadd plain).shape s ≠ [] ∧ latchFault (Instr.vadd plain).shape s = false := by decide +kernel
/-- ConversionResults: lane 0 holds 1.0, of which 448·2^(e−127) is not below from e = 119 on; blocks of zeros and with an infinity. -/
theorem test_meets_quant_block :
    let v := fun (p : Nat) => tyValue .f32 p
    (v 0x7F800000).isInf = true ∧ (v 0).isZero = true ∧ (v 0x3F800000).isZero = false ∧ Val.lt (v 0x3F800000).abs (v 0).abs = false ∧
      Val.lt ((Val.ofInt 448 0).scale (119 - 127)) (v 0x3F800000).abs = false ∧
      Val.lt ((Val.ofInt 448 0).scale (119 - 128)) (v 0x3F800000).abs = true := by decide +kernel
/-- SystemCalls, MemorySystemControl, SpecialRegisterWrites: a counter of another context, a purge of another context in user mode, and a
`sput` of TVEC in supervisor mode (R153, R181, R189: check 8). -/
theorem test_meets_denials : let tvec := Instr.sput (special 0x20)
    Ready (.sigSys plain) placed ∧ ownsCounter placed placed.asid 0 = false ∧
    (¬ namesPending (.cmaintPurgeasid plain) placed ∧ ¬ namesHigh (.cmaintPurgeasid plain) placed ∧ plain.c = .reg 0) ∧
    placed.sp.super = false ∧ scalar32 placed plain plain.c ≠ placed.asid.setWidth 32 ∧
    (¬ namesPending tvec supervised ∧ ¬ namesHigh tvec supervised ∧ lacksPrivilege tvec.shape supervised = true) :=
  ⟨rfl, rfl, ⟨(by rintro (⟨n, -, h⟩ | h) <;> cases h), (by rintro ⟨r, h, -⟩; cases h), rfl⟩, rfl, by decide,
    ⟨(by rintro (⟨n, -, h⟩ | h) <;> cases h), (by rintro ⟨r, h, -⟩; cases h), rfl⟩⟩
/-- MemorySystemControl: a bank in which the team's scratchpad lies, and a bank of cache role with a write that is not yet at its home. -/
theorem test_meets_bank_use : let c : CLine :=
      { unit := 0, asid := 1, line := lineOf pageVa, le := 9, bytes := []
        pins := [{ sector := 0, offs := [0], flight := 5, till := some 9 }], sick := [] }
    bankInUse local_ 0 0 = true ∧ bankBusy { supervised with mem := { supervised.mem with cc := [c] } } 0 32 = true := by decide +kernel
/-- Fences: contributions to a line of the placed page, which a table denies when they merge. -/
theorem test_meets_fence_merge :
    let y : ULine := { core := 0, asid := 1, line := lineOf pageVa, op := 0, ty := .i32, elems := [(0, 1)], gids := [1], flags := 0 }
    let s : State := { onPage with mem := { onPage.mem with ulines := [y] }, rel := { onPage.rel with acc := [] } }
    firstDeferred s.g.deferred = none ∧ sideOut s 1 = false ∧ firstDeferred (mergeGroup s 1).g.deferred = some (0x13, [pageVa]) ∧
      firstDeferred (mergeGroup placed 1).g.deferred = none := by decide +kernel
/-- StoreEffects: a line that no ring's header lies in, in an L1 that has room. -/
theorem test_meets_update_room : headLine onPage 1 (lineOf pageVa) = false ∧
    (onPage.mem.l1.filter fun y => y.unit == onPage.tm.core).length +
      (onPage.mem.ulines.filter fun y => y.core == onPage.tm.core).length < 2048 := by decide +kernel
/-- SparseAndHashInstructionsComplete: sums that are not poisoned. -/
theorem test_meets_projection : ((List.range 4).all fun k => !lclPoisoned local_ local_.tm.id (4 * k) 4) = true ∧
   placed.dev.clamped.contains (bayOf placed.tm.core) = false := by decide +kernel
/-- MatrixInstructionsComplete: a format word that R69 does not list, a shape within the limits and one beyond, an empty mask. -/
theorem test_meets_product_checks : Ready (.mma plain) placed ∧ Ready (.mmarow plain) placed ∧ (mfmt placed.sp.fmt).legal = none ∧
    (mfmt product.sp.fmt).legal = some .half ∧ Ready (.mma plain) product ∧ (0 : Nat) < 1 ∧
    State.exec { product with sp := { product.sp with mask := 0 } } = 0 := ⟨rfl, rfl, by decide, by decide +kernel, rfl, by decide, rfl⟩
/-- The group whose context's engines may access memory, with this command accepted. -/
def allowed (c : Cmd) : State :=
  { commanded c with rel := { (commanded c).rel with acc := (commanded c).rel.acc.map fun e => { e with word := e.word ||| 0x100 } } }
/-- EnginesComplete: copies between scratchpad, slot and four elements of the placed page, which lie in one chunk of memory. -/
theorem test_meets_transfers_of_engines :
    let b : Box := { org := [0], ext0 := 4, ext1 := 1 }
    let cmd := fun (k : CmdKind) => { fillCmd none with kind := k, started := false }
    let l := readElems record b (lclPlace record b 0 0)
    let c := cmd (.copyIn record b 0)
    let o := cmd (.copyOut record b 0)
    findCmd (allowed c) c.id = some c ∧ mayStart (allowed c) c = true ∧ chunkKeys l = [pageVa / 4096] ∧ record.bs = false ∧
      spanRole (startCmd (allowed c) c) c 0 (tileSpan record b 0) = true ∧
      (readTile (c.engine (startCmd (allowed c) c) true) record.size (chunkElems l (pageVa / 4096)) (startCmd (allowed c) c)).isOk = true ∧
      scribesOn (allowed c) c record = false ∧ mayStart (allowed o) o = true ∧
      engineMay (startCmd (allowed o) o) (o.engine (startCmd (allowed o) o) true)
        ((((chunkElems (writeElems record b (lclPlace record b 0 0)) (pageVa / 4096)).filter fun y => y.live).map fun y =>
          (y.va.getD 0, record.size))) = none := by decide +kernel
/-- EnginesComplete: a probe, an insert and a delete at an empty bucket of a family of one table, which the engines may read and write. -/
theorem test_meets_buckets :
    let cmd := fun (k : CmdKind) => { fillCmd none with kind := k, core := 0 }
    let c := cmd (.insert family [0] [] 5)
    let u := startCmd (allowed c) c
    let e := ({ c with started := true } : Cmd).engine u false
    findCmd (allowed c) c.id = some c ∧ mayRetrieve (allowed c) c = true ∧ mayStart (allowed c) c = true ∧ family.new.l = 1 ∧ family.old = none ∧
      ((Work.start u c.w).atomic e pageVa 64 fun _ => some 0).1.stop = none ∧
      (let y := (Work.start u c.w).atomic e pageVa 64 fun _ => none; y.1.stop = none ∧ y.2 = 0) ∧
      (let y := (Work.start u c.w).read e pageVa 64; y.1.stop = none ∧ y.2 = 0) ∧
      mayRetrieve (allowed (cmd (.migrate family 1))) (cmd (.migrate family 1)) = true ∧
      mayStart (allowed (cmd (.migrate family 1))) (cmd (.migrate family 1)) = true := by decide +kernel
/-- EnginesComplete: a migration whose CURSOR, read at byte 0x24 of the record of the family, stands at its end, of families without a matrix. -/
theorem test_meets_migration_end :
    let old : FRec := { family.new with k := 0 }
    let f : Fam := { new := { family.new with va := BitVec.ofNat 64 pageVa, weight := BitVec.ofNat 64 (pageVa + 128) }, old := some old }
    let h : TRec := { record with rank := 2, dim := [1, 1, 0, 0, 0], stride := [4, 4, 0, 0, 0] }
    let at_ := physOf placedPte pageVa
    let c := { fillCmd none with kind := .migrate f 1, core := 0 }
    let s0 := allowed c
    let s := { s0 with mem := { s0.mem with phys := pokeAll (pokeAll [] (at_ + 0x24) [1]) (at_ + 128) (bytesOfWords (tensorWords h)) } }
    let u := startCmd s c
    let e := ({ c with started := true } : Cmd).engine u false
    let x := (Work.start u c.w).weight e f.new
    let y := x.1.read e ((f.new.va.toNat + 0x24) % 2 ^ 64) 4
    x.2.isSome = true ∧ x.1.stop = none ∧ matrixBytes f.new = 0 ∧ y.1.stop = none ∧ 2 ^ old.k ≤ y.2 := by decide +kernel
/-- DeviceEventsComplete: a page that moves next, for which there is a frame, and one whose context ends, for which there is none. -/
theorem test_meets_next_move : let s := withDev fun d => { d with retired := [(0x0B, 8 * homeStack pageVa)] }
    let full := withDev fun d => { d with retired := (List.range 8).map fun k => (0x0B, 8 * homeStack pageVa + k) }
    nextMove s = some placedPte ∧ nextMove full = some placedPte ∧ evictable full placedPte = false := by decide +kernel
/-- DeviceEventsComplete: a page of an evictable block, for which there is no frame. -/
theorem test_meets_eviction :
    let p := mkPte 0 true true true 0 0 true 1 (pageOf (pageVa + 7 * 2 ^ 54)) 16
    let e : KvName := { asid := 1, seq := 0x80000000, layer := 0, blk := 0, block := 7, va := BitVec.ofNat 64 (pageBase p) }
    let s := withDev fun d => { d with retired := (List.range 64).map fun k => (0x0B, k) }
    let s := { s with mem := insertPte s.mem p, kv := { names := [e], blocks := [{ id := 7, asid := 1, pfn := 16, evicted := false }], freed := [] } }
    nameOfPage s p = some e ∧ nextMove s = some p := by decide +kernel
/-- DeviceEventsComplete: a fence of a bay that is due without its placement, and a halted group that awaits replies. -/
theorem test_meets_waiting_rest : let due : Due := { unit := (0x0F, 2), code := 6, since := 0, whole := false }
    dueOf (withDev fun d => { d with due := [due] }) (0x0F, 2) = some due ∧
      ({ asks 0x8C [0, 0] with g := { (asks 0x8C [0, 0]).g with halted := true } } : State).g.halted = true ∧
      running placed = true ∧ running (withDev fun d => { d with power := .off }) = false := by decide +kernel
/-- SchedulingEventsComplete: a group that a debugger holds. -/
theorem test_meets_held : let d := { handling 0x0B false (some kept) with
      sched := { placed.sched with ctxs := placed.sched.ctxs.map fun x => { x with debugger := true } } }
    ((allGroups d).any fun y => (launchOfGroup d y).rcd.asid == 1 && y.id != 0 && debugHeld d y) = true := by decide +kernel
/-- BlockStoreAndMemoryEventsComplete: a page that is new, away from save areas, and an entry whose target has room. -/
theorem test_meets_new_page : savePage placed beside = false ∧
    ((allPtes placed).all fun z => !(pteAsid z == pteAsid beside && pteTag z == pteTag beside && pteSize z == pteSize beside)) = true ∧
    placed.dev.clamped.contains (bayOf placed.tm.core) = false := by decide +kernel

/-- SHAKE256 of the empty message begins 46 B9 DD 2B and its 64th byte is BE: the test vector of FIPS 202. -/
theorem test_shake256 : (shake256 []).take 4 = [0x46, 0xB9, 0xDD, 0x2B] ∧ (shake256 []).drop 63 = [0xBE] := by
  unfold shake256
  decide +kernel

end Sys2Proof.Tests
end

section

/-! ## The stores stay canonical (O3)

`State.Canonical` is `State.wf` with its parts under names. For each function of the model that answers a state,
one lemma `<function>_canonical` says that it keeps the stores canonical; it cites the lemmas of the functions called,
in the order of the model's modules. `State.canonical_iff` turns `State.wf` into it and back. -/

namespace Sys2Proof.Machine
open Sys2Proof

/-! ### What is kept, by name -/

structure Image.Canonical (m : Image) : Prop where
  sregs : cellsWf m.sregs = true
  vregs : cellsWf m.vregs = true
  masks : cellsWf m.masks = true
  latches : cellsWf m.latches = true

structure Group.Canonical (g : Group) : Prop where
  sregs : cellsWf g.sregs = true
  vregs : cellsWf g.vregs = true
  masks : cellsWf g.masks = true
  latches : cellsWf g.latches = true
  image : ∀ m ∈ g.image, m.Canonical

structure Slot.Canonical (o : Slot) : Prop where
  bytes : cellsWf o.bytes = true

structure Tile.Canonical (t : Tile) : Prop where
  elems : cellsWf t.elems = true

structure TeamImage.Canonical (m : TeamImage) : Prop where
  lcl : cellsWf m.lcl = true
  slots : ∀ o ∈ m.slots, o.Canonical
  tiles : ∀ t ∈ m.tiles, t.Canonical

structure Team.Canonical (t : Team) : Prop where
  lcl : cellsWf t.lcl = true
  slots : ∀ o ∈ t.slots, o.Canonical
  tiles : ∀ x ∈ t.tiles, x.Canonical
  image : ∀ m ∈ t.image, m.Canonical

structure State.Canonical (s : State) : Prop where
  phys : cellsWf s.mem.phys = true
  host : cellsWf s.fab.host = true
  peer : cellsWf s.fab.peer = true
  counters : cellsWf s.sched.counters = true
  g : s.g.Canonical
  groups : ∀ g ∈ s.groups, g.Canonical
  tm : s.tm.Canonical
  teams : ∀ t ∈ s.teams, t.Canonical

inductive Res.Canonical : Res → Prop
  | done {s : State} (h : s.Canonical) : Res.Canonical (.done s)
  | jump {s : State} (h : s.Canonical) : Res.Canonical (.jump s)
  | raise {s : State} {t : Trap} (h : s.Canonical) : Res.Canonical (.raise t s)
  | wait {s : State} {w : Wait} (h : s.Canonical) : Res.Canonical (.wait w s)

inductive EndsCanonical : Host.Outcome State Fault Refusal → Prop
  | next {s : State} (h : s.Canonical) : EndsCanonical (.next s)
  | fault {r : Fault} : EndsCanonical (.fault r)
  | refused {r : Refusal} : EndsCanonical (.refused r)

inductive ExceptAll {ε α : Type} (p : ε → Prop) (q : α → Prop) : Except ε α → Prop
  | error {e : ε} (h : p e) : ExceptAll p q (.error e)
  | ok {a : α} (h : q a) : ExceptAll p q (.ok a)

inductive EStop.Canonical : EStop → Prop
  | code {c : BitVec 8} {a : Nat} {w : Bool} : EStop.Canonical (.code c a w)
  | ask {s : State} (h : s.Canonical) : EStop.Canonical (.ask s)

inductive Turned.Canonical : Turned → Prop
  | ok {s : State} {w : Nat} (h : s.Canonical) : Turned.Canonical (.ok s w)
  | stop {e : EStop} (h : e.Canonical) : Turned.Canonical (.stop e)
  | mismatch {va : Nat} : Turned.Canonical (.mismatch va)

inductive Walked.Canonical : Walked → Prop
  | all {s : State} {w : Nat} {l : List Nat} (h : s.Canonical) : Walked.Canonical (.all s w l)
  | later {s : State} {w : Nat} {l : List Nat} (h : s.Canonical) : Walked.Canonical (.later s w l)
  | fail {s : State} {w : Nat} {l : List Nat} {r : CmdRes} (h : s.Canonical) : Walked.Canonical (.fail s w l r)

inductive Transfer.Canonical : Transfer → Prop
  | ok {s : State} (h : s.Canonical) : Transfer.Canonical (.ok s)
  | fail {s : State} {t : Trap} (h : s.Canonical) : Transfer.Canonical (.fail t s)
  | hold {s : State} (h : s.Canonical) : Transfer.Canonical (.hold s)

inductive Released.Canonical : Released → Prop
  | done {s : State} (h : s.Canonical) : Released.Canonical (.done s)
  | wait {s : State} {w : Wait} (h : s.Canonical) : Released.Canonical (.wait w s)
  | fail {s : State} {t : Trap} (h : s.Canonical) : Released.Canonical (.fail t s)

inductive Queued.Canonical : Queued → Prop
  | status {s : State} {c : Word} (h : s.Canonical) : Queued.Canonical (.status c s)
  | ask {p : Nat} : Queued.Canonical (.ask p)

inductive KvAnswer.Canonical : KvAnswer → Prop
  | status {s : State} {c : Nat} (h : s.Canonical) : KvAnswer.Canonical (.status c s)
  | found {va : DWord} : KvAnswer.Canonical (.found va)
  | later : KvAnswer.Canonical .later

structure Work.Canonical (x : Work) : Prop where
  s : x.s.Canonical
  stop : ∀ k ∈ x.stop, k.Canonical

structure Walks.Canonical (x : Walks) : Prop where
  s : x.s.Canonical

structure LaneWalk.Canonical (x : LaneWalk) : Prop where
  s : x.s.Canonical

inductive Updated.Canonical : Updated → Prop
  | did {x : Work} {n c : Nat} (h : x.Canonical) : Updated.Canonical (.did x n c)
  | frozen {x : Work} (h : x.Canonical) : Updated.Canonical (.frozen x)

structure Migration.Canonical (y : Migration) : Prop where
  x : y.x.Canonical

theorem Res.Canonical.of_done {r : Res} {s : State} (h : r.Canonical) (e : r = .done s) : s.Canonical := by subst e; cases h; assumption
theorem Res.Canonical.of_jump {r : Res} {s : State} (h : r.Canonical) (e : r = .jump s) : s.Canonical := by subst e; cases h; assumption
theorem Res.Canonical.of_raise {r : Res} {s : State} {t : Trap} (h : r.Canonical) (e : r = .raise t s) : s.Canonical := by
  subst e; cases h; assumption
theorem Res.Canonical.of_wait {r : Res} {s : State} {w : Wait} (h : r.Canonical) (e : r = .wait w s) : s.Canonical := by
  subst e; cases h; assumption
theorem EndsCanonical.of_next {r : Host.Outcome State Fault Refusal} {s : State} (h : EndsCanonical r) (e : r = .next s) : s.Canonical := by
  subst e; cases h; assumption
theorem ExceptAll.of_error {ε α : Type} {p : ε → Prop} {q : α → Prop} {r : Except ε α} {e : ε} (h : ExceptAll p q r) (he : r = .error e) : p e := by
  subst he; cases h; assumption
theorem ExceptAll.of_ok {ε α : Type} {p : ε → Prop} {q : α → Prop} {r : Except ε α} {a : α} (h : ExceptAll p q r) (he : r = .ok a) : q a := by
  subst he; cases h; assumption
theorem EStop.Canonical.of_ask {r : EStop} {s : State} (h : r.Canonical) (e : r = .ask s) : s.Canonical := by subst e; cases h; assumption
theorem Turned.Canonical.of_ok {r : Turned} {s : State} {w : Nat} (h : r.Canonical) (e : r = .ok s w) : s.Canonical := by
  subst e; cases h; assumption
theorem Turned.Canonical.of_stop {r : Turned} {k : EStop} (h : r.Canonical) (e : r = .stop k) : k.Canonical := by
  subst e; cases h; assumption
theorem Walked.Canonical.of_all {r : Walked} {s : State} {w : Nat} {l : List Nat} (h : r.Canonical) (e : r = .all s w l) : s.Canonical := by
  subst e; cases h; assumption
theorem Walked.Canonical.of_later {r : Walked} {s : State} {w : Nat} {l : List Nat} (h : r.Canonical) (e : r = .later s w l) :
    s.Canonical := by subst e; cases h; assumption
theorem Walked.Canonical.of_fail {r : Walked} {s : State} {w : Nat} {l : List Nat} {c : CmdRes} (h : r.Canonical)
    (e : r = .fail s w l c) : s.Canonical := by subst e; cases h; assumption
theorem Transfer.Canonical.of_ok {r : Transfer} {s : State} (h : r.Canonical) (e : r = .ok s) : s.Canonical := by
  subst e; cases h; assumption
theorem Transfer.Canonical.of_fail {r : Transfer} {s : State} {t : Trap} (h : r.Canonical) (e : r = .fail t s) : s.Canonical := by
  subst e; cases h; assumption
theorem Transfer.Canonical.of_hold {r : Transfer} {s : State} (h : r.Canonical) (e : r = .hold s) : s.Canonical := by
  subst e; cases h; assumption
theorem Released.Canonical.of_done {r : Released} {s : State} (h : r.Canonical) (e : r = .done s) : s.Canonical := by
  subst e; cases h; assumption
theorem Released.Canonical.of_wait {r : Released} {s : State} {w : Wait} (h : r.Canonical) (e : r = .wait w s) : s.Canonical := by
  subst e; cases h; assumption
theorem Released.Canonical.of_fail {r : Released} {s : State} {t : Trap} (h : r.Canonical) (e : r = .fail t s) : s.Canonical := by
  subst e; cases h; assumption
theorem Queued.Canonical.of_status {r : Queued} {s : State} {c : Word} (h : r.Canonical) (e : r = .status c s) : s.Canonical := by
  subst e; cases h; assumption
theorem KvAnswer.Canonical.of_status {r : KvAnswer} {s : State} {c : Nat} (h : r.Canonical) (e : r = .status c s) : s.Canonical := by
  subst e; cases h; assumption
theorem Updated.Canonical.of_did {r : Updated} {x : Work} {n c : Nat} (h : r.Canonical) (e : r = .did x n c) : x.Canonical := by
  subst e; cases h; assumption
theorem Updated.Canonical.of_frozen {r : Updated} {x : Work} (h : r.Canonical) (e : r = .frozen x) : x.Canonical := by
  subst e; cases h; assumption
theorem fst_canonical {α : Type} {p : State × α} {s : State} {x : α} (h : p.1.Canonical) (e : p = (s, x)) : s.Canonical := by
  subst e; exact h

theorem ite_keeps {α : Type} {p : α → Prop} {c : Prop} [Decidable c] {a b : α} (ha : p a) (hb : p b) :
    p (if c then a else b) := by split <;> assumption

theorem ite_fst_canonical {α : Type} {c : Prop} [Decidable c] {a b : State × α} (ha : a.1.Canonical) (hb : b.1.Canonical) :
    (if c then a else b).1.Canonical := by split <;> assumption

theorem ite_cellsWf {w : Nat} {c : Prop} [Decidable c] {a b : Sparse w} (ha : cellsWf a = true) (hb : cellsWf b = true) :
    cellsWf (if c then a else b) = true := by split <;> assumption

theorem foldl_keeps {α β : Type} {p : β → Prop} {f : β → α → β} {l : List α} {b : β} (h : p b) (hf : ∀ b x, p b → p (f b x)) :
    p (l.foldl f b) := List.foldlRecOn l f h fun b hb x _ => hf b x hb

theorem foldl_fst_canonical {α β : Type} {f : State × β → α → State × β} {l : List α} {b : State × β} (h : b.1.Canonical)
    (hf : ∀ (b : State × β) (x : α), b.1.Canonical → (f b x).1.Canonical) : (l.foldl f b).1.Canonical :=
  foldl_keeps (p := fun b : State × β => b.1.Canonical) h hf

theorem foldl_cellsWf {α : Type} {w : Nat} {f : Sparse w → α → Sparse w} {l : List α} {m : Sparse w} (h : cellsWf m = true)
    (hf : ∀ (m : Sparse w) (x : α), cellsWf m = true → cellsWf (f m x) = true) : cellsWf (l.foldl f m) = true :=
  foldl_keeps (p := fun m : Sparse w => cellsWf m = true) h hf

theorem ite_phys {c : Prop} [Decidable c] {a b : MemSys} (ha : cellsWf a.phys = true) (hb : cellsWf b.phys = true) :
    cellsWf (if c then a else b).phys = true := by split <;> assumption

theorem foldl_phys {α : Type} {f : MemSys → α → MemSys} {l : List α} {m : MemSys} (h : cellsWf m.phys = true)
    (hf : ∀ (m : MemSys) (x : α), cellsWf m.phys = true → cellsWf (f m x).phys = true) : cellsWf (l.foldl f m).phys = true :=
  foldl_keeps (p := fun m : MemSys => cellsWf m.phys = true) h hf

theorem updateWhere_keeps {α : Type} {q : α → Prop} {p : α → Bool} {f : α → α} {l : List α} (h : ∀ x ∈ l, q x)
    (hf : ∀ x, q x → q (f x)) : ∀ x ∈ updateWhere p f l, q x := by
  intro x hx
  obtain ⟨y, hy, rfl⟩ := List.mem_map.1 hx
  exact ite_keeps (hf y (h y hy)) (h y hy)

theorem updateAt_keeps {α : Type} {q : α → Prop} {f : α → α} (hf : ∀ x, q x → q (f x)) :
    ∀ {l : List α} {n : Nat}, (∀ x ∈ l, q x) → ∀ x ∈ updateAt l n f, q x
  | [], _, _ => by simp [updateAt]
  | y :: l, 0, h => by
    simp only [updateAt, List.forall_mem_cons] at h ⊢
    exact ⟨hf y h.1, h.2⟩
  | y :: l, n + 1, h => by
    simp only [updateAt, List.forall_mem_cons] at h ⊢
    exact ⟨h.1, updateAt_keeps hf h.2⟩

theorem find?_getD_keeps {α : Type} {q : α → Prop} {p : α → Bool} {l : List α} {d : α} (h : ∀ x ∈ l, q x) (hd : q d) :
    q ((l.find? p).getD d) := by
  cases hf : l.find? p with
  | none => exact hd
  | some x => exact h x (List.mem_of_find?_eq_some hf)

theorem filter_keeps {α : Type} {q : α → Prop} {p : α → Bool} {l : List α} (h : ∀ x ∈ l, q x) : ∀ x ∈ l.filter p, q x :=
  fun x hx => h x (List.mem_filter.1 hx).1

theorem append_keeps {α : Type} {q : α → Prop} {l k : List α} (h : ∀ x ∈ l, q x) (hk : ∀ x ∈ k, q x) : ∀ x ∈ l ++ k, q x :=
  fun x hx => (List.mem_append.1 hx).elim (h x) (hk x)

theorem option_map_keeps {α β : Type} {p : α → Prop} {q : β → Prop} {f : α → β} {o : Option α} (h : ∀ x ∈ o, p x)
    (hf : ∀ x, p x → q (f x)) : ∀ y ∈ o.map f, q y := by
  intro y hy
  obtain ⟨x, hx, rfl⟩ := Option.map_eq_some_iff.1 hy
  exact hf x (h x hx)

theorem option_bind_keeps {α β : Type} {p : α → Prop} {q : β → Prop} {f : α → Option β} {o : Option α} (h : ∀ x ∈ o, p x)
    (hf : ∀ x, p x → ∀ y ∈ f x, q y) : ∀ y ∈ o.bind f, q y := by
  intro y hy
  obtain ⟨x, hx, hy⟩ := Option.bind_eq_some_iff.1 hy
  exact hf x (h x hx) y hy

theorem map_keeps {α β : Type} {q : β → Prop} {f : α → β} {l : List α} (h : ∀ x ∈ l, q (f x)) : ∀ y ∈ l.map f, q y :=
  List.forall_mem_map.2 h

theorem getD_keeps {α : Type} {q : α → Prop} {l : List α} {n : Nat} {d : α} (h : ∀ x ∈ l, q x) (hd : q d) : q (l.getD n d) := by
  rw [List.getD_eq_getElem?_getD]
  cases hl : l[n]? with
  | none => exact hd
  | some x => exact h x (List.mem_of_getElem? hl)

theorem option_getD_keeps {α : Type} {q : α → Prop} {o : Option α} {d : α} (h : ∀ x ∈ o, q x) (hd : q d) : q (o.getD d) := by
  cases o with
  | none => exact hd
  | some x => exact h x rfl

/-- Reads by a loader keep a property of what they read from; what they fail with has another. -/
def Loader.Keeps {σ ε : Type} (p : ε → Prop) (q : σ → Prop) (load : Loader σ ε) : Prop :=
  ∀ st va n, q st → ExceptAll p (fun r => q r.1) (load st va n)

theorem some_keeps {α : Type} {q : α → Prop} {x : α} (h : q x) : ∀ y ∈ some x, q y := fun _ e => Option.some.inj e ▸ h

theorem none_keeps {α : Type} {q : α → Prop} : ∀ y ∈ (none : Option α), q y := nofun

theorem with_mem_canonical {s : State} {m : MemSys} (h : s.Canonical) (hm : cellsWf m.phys = true) :
    ({ s with mem := m } : State).Canonical := { h with phys := hm }

theorem bind_keeps {ε α β : Type} {p : ε → Prop} {q : α → Prop} {r : β → Prop} {x : Except ε α} {f : α → Except ε β}
    (hx : ExceptAll p q x) (hf : ∀ a, q a → ExceptAll p r (f a)) : ExceptAll p r (x >>= f) := by
  cases hx with
  | error h => exact .error h
  | ok h => exact hf _ h

theorem firstSome_keeps {α β : Type} {q : β → Prop} {f : α → Option β} (hf : ∀ x, ∀ y ∈ f x, q y) :
    ∀ {l : List α}, ∀ y ∈ firstSome f l, q y
  | [] => by simp [firstSome]
  | x :: l => by
    unfold firstSome
    split
    · rename_i hx
      exact fun z hz => by cases hz; exact hf x _ hx
    · exact firstSome_keeps hf

theorem map_ok_keeps {ε α β : Type} {p : ε → Prop} {q : α → Prop} {r : β → Prop} {x : Except ε α} {f : α → β}
    (hx : ExceptAll p q x) (hf : ∀ a, q a → r (f a)) : ExceptAll p r (x.map f) := by
  cases hx with
  | error h => exact .error h
  | ok h => exact .ok (hf _ h)

theorem foldl_mem_keeps {α β : Type} {p : β → Prop} {f : β → α → β} {l : List α} {b : β} (h : p b)
    (hf : ∀ b, ∀ x ∈ l, p b → p (f b x)) : p (l.foldl f b) := List.foldlRecOn l f h fun b hb x hx => hf b x hx hb

theorem foldl_fst_keeps {α β γ : Type} {p : β → Prop} {f : β × γ → α → β × γ} {l : List α} {b : β × γ} (h : p b.1)
    (hf : ∀ (b : β × γ) (x : α), p b.1 → p (f b x).1) : p (l.foldl f b).1 :=
  foldl_keeps (p := fun b : β × γ => p b.1) h hf

/-! ### Space.lean -/

theorem withRoom_canonical {p : Quad} : ∀ {fuel : Nat} {m : MemSys}, cellsWf m.phys = true → cellsWf (withRoom fuel m p).phys = true
  | 0, _, h => h
  | fuel + 1, m, h => by
    have grown : ∀ {m : MemSys} (w : Nat), cellsWf m.phys = true → cellsWf (match findWay m (pteSize p) w with
        | some y => rebuildWay m (pteSize p) w (1 + max y.m (y.mNew.getD 0))
        | none => m).phys = true := fun w h => by split <;> exact h
    exact ite_phys h (withRoom_canonical (grown 1 (grown 0 h)))

theorem fillPac_canonical {s : State} {a : Agent} {va : Nat} (h : s.Canonical) : (fillPac s a va).Canonical := by
  unfold fillPac
  refine ite_keeps h (ite_keeps h ?_)
  split
  · exact h
  · exact { h with }

/-! ### Home.lean -/

theorem homeWriteFrom_canonical {t : Nat} {s : State} {asid : BitVec 16} {line : Nat} {bs : List (Nat × Byte)} (h : s.Canonical) :
    (homeWriteFrom t s asid line bs).1.Canonical :=
  { h with phys := ite_phys (pokeBytes_wf bs h.phys) h.phys }

theorem homeWrite_canonical {s : State} {asid : BitVec 16} {line : Nat} {bs : List (Nat × Byte)} (h : s.Canonical) :
    (homeWrite s asid line bs).1.Canonical := homeWriteFrom_canonical h

theorem elapse_canonical {s : State} {n : Nat} (h : s.Canonical) : (elapse s n).Canonical :=
  { h with phys := foldl_cellsWf h.phys (fun _ _ h1 => pokeBytes_wf _ h1) }

/-! ### Lookup.lean -/

theorem Slot.none_canonical : (Slot.none).Canonical := { bytes := cellsWf_nil }

theorem Tile.none_canonical : (Tile.none).Canonical := { elems := cellsWf_nil }

theorem updGang_canonical {s : State} {id : Nat} {f : Gang → Gang} (h : s.Canonical) : (updGang s id f).Canonical := { h with }

theorem updLaunch_canonical {s : State} {id : Nat} {f : Launch → Launch} (h : s.Canonical) : (updLaunch s id f).Canonical := { h with }

/-! ### State.lean -/

theorem Group.blank_canonical : Group.blank.Canonical := ⟨rfl, rfl, rfl, rfl, by simp [Group.blank]⟩

theorem Team.blank_canonical : Team.blank.Canonical := ⟨rfl, by simp [Team.blank], by simp [Team.blank], by simp [Team.blank]⟩

/-! ### Lookup.lean -/

theorem allTeams_canonical {s : State} (h : s.Canonical) : ∀ t ∈ allTeams s, t.Canonical :=
  ite_keeps (p := fun l : List Team => ∀ t ∈ l, t.Canonical) h.teams (List.forall_mem_cons.2 ⟨h.tm, h.teams⟩)

theorem allGroups_canonical {s : State} (h : s.Canonical) : ∀ g ∈ allGroups s, g.Canonical :=
  ite_keeps (p := fun l : List Group => ∀ g ∈ l, g.Canonical) h.groups (List.forall_mem_cons.2 ⟨h.g, h.groups⟩)

theorem findTeam_canonical {s : State} {id : Nat} (h : s.Canonical) : (findTeam s id).Canonical :=
  find?_getD_keeps (allTeams_canonical h) Team.blank_canonical

theorem findGroup_canonical {s : State} {id : Nat} (h : s.Canonical) : (findGroup s id).Canonical :=
  find?_getD_keeps (allGroups_canonical h) Group.blank_canonical

theorem updTeam_canonical {s : State} {id : Nat} {f : Team → Team} (h : s.Canonical) (hf : ∀ t, t.Canonical → (f t).Canonical) :
    (updTeam s id f).Canonical :=
  ite_keeps { h with tm := hf _ h.tm } { h with teams := updateWhere_keeps h.teams hf }

theorem updGroup_canonical {s : State} {id : Nat} {f : Group → Group} (h : s.Canonical) (hf : ∀ g, g.Canonical → (f g).Canonical) :
    (updGroup s id f).Canonical :=
  ite_keeps { h with g := hf _ h.g } { h with groups := updateWhere_keeps h.groups hf }

theorem updGroups_canonical {s : State} {p : Group → Bool} {f : Group → Group} (h : s.Canonical)
    (hf : ∀ g, g.Canonical → (f g).Canonical) : (updGroups s p f).Canonical :=
  { h with g := ite_keeps (hf _ h.g) h.g, groups := updateWhere_keeps h.groups hf }

theorem updSplit_canonical {s : State} {gid num : Nat} {f : Split → Split} (h : s.Canonical) : (updSplit s gid num f).Canonical :=
  ite_keeps (ite_keeps { h with } { h with g := { h.g with } }) (updGroup_canonical h (fun _ h1 => { h1 with }))

theorem updSplits_canonical {s : State} {gid : Nat} {f : Split → Split} (h : s.Canonical) : (updSplits s gid f).Canonical :=
  ite_keeps { h with g := { h.g with } } (updGroup_canonical h (fun _ h1 => { h1 with }))

theorem unfocus_canonical {s : State} (h : s.Canonical) : (unfocus s).Canonical :=
  { h with
    g := Group.blank_canonical
    tm := Team.blank_canonical
    groups := ite_keeps (p := fun l : List Group => ∀ g ∈ l, g.Canonical) h.groups
      (append_keeps h.groups (List.forall_mem_singleton.2 (ite_keeps { h.g with } h.g)))
    teams := ite_keeps (p := fun l : List Team => ∀ t ∈ l, t.Canonical) h.teams
      (append_keeps h.teams (List.forall_mem_singleton.2 h.tm)) }

theorem focus_canonical {s : State} {w : Who} (h : s.Canonical) : (focus s w).Canonical := by
  have hu := unfocus_canonical h
  have hg : (findGroup (unfocus s) w.gid).Canonical := findGroup_canonical hu
  exact ite_keeps h { hu with
    g := { hg with }, tm := findTeam_canonical hu, groups := filter_keeps hu.groups, teams := filter_keeps hu.teams }

theorem focusGroup_canonical {s : State} {gid : Nat} (h : s.Canonical) : (focusGroup s gid).Canonical := focus_canonical h

theorem updCtx_canonical {s : State} {asid : BitVec 16} {f : Ctx → Ctx} (h : s.Canonical) : (updCtx s asid f).Canonical := { h with }

theorem newId_canonical {s : State} (h : s.Canonical) : (newId s).1.Canonical := { h with }

/-! ### Records.lean -/

theorem bbAdd_canonical {s : State} {bay : Nat} {w : List Word} (h : s.Canonical) : (bbAdd s bay w).Canonical := { h with }

theorem bbEvent_canonical {s : State} {bay kind core : Nat} {asid : BitVec 16} {addr : Word} (h : s.Canonical) :
    (bbEvent s bay kind core asid addr).Canonical := bbAdd_canonical h

theorem ctlSend_canonical {s : State} {w : List Word} (h : s.Canonical) : (ctlSend s w).Canonical :=
  ite_keeps h (ite_keeps { h with } { h with })

theorem mpWriteFrom_canonical {t : Nat} {s : State} {asid : BitVec 16} {va : Nat} {bs : List Byte} (h : s.Canonical) :
    (mpWriteFrom t s asid va bs).1.Canonical := by
  unfold mpWriteFrom
  split
  · exact h
  · exact foldl_fst_canonical h (fun _ _ h1 => ite_fst_canonical h1 (homeWriteFrom_canonical h1))

theorem mpWrite_canonical {s : State} {asid : BitVec 16} {va : Nat} {bs : List Byte} (h : s.Canonical) :
    (mpWrite s asid va bs).Canonical := mpWriteFrom_canonical h

theorem ringPut_canonical {s : State} {r : Ring} {size : Nat} {recs : List (List Word)} (h : s.Canonical) :
    (ringPut s r size recs).1.Canonical :=
  ite_fst_canonical h (ite_fst_canonical (mpWriteFrom_canonical (foldl_fst_canonical h (fun _ _ h1 => mpWriteFrom_canonical h1)))
    (mpWrite_canonical h))

theorem recordAt_canonical {s : State} {r : Rcd} (h : s.Canonical) : (recordAt s r).1.Canonical := by
  unfold recordAt
  refine bbAdd_canonical (ctlSend_canonical ?_)
  split
  · exact ringPut_canonical h
  · exact h

theorem writeRecord_canonical {s : State} {r : Rcd} (h : s.Canonical) : (writeRecord s r).Canonical := recordAt_canonical h

theorem noteErr_canonical {s : State} {u : UnitId} {k : ErrKind} (h : s.Canonical) : (noteErr s u k).Canonical := { h with }

theorem setErrCount_canonical {s : State} {u : UnitId} {n : Nat} {last : Option Nat} (h : s.Canonical) :
    (setErrCount s u n last).Canonical := { h with }

theorem eccRecord_canonical {s : State} {u : UnitId} {addr : DWord} {hop : BitVec 16} {bay : Nat} {bad : Bool} {n : Nat}
    (h : s.Canonical) : (eccRecord s u addr hop bay bad n).Canonical := setErrCount_canonical (writeRecord_canonical h)

theorem uncorrectedAt_canonical {s : State} {u : UnitId} {addr : DWord} (h : s.Canonical) : (uncorrectedAt s u addr).Canonical :=
  eccRecord_canonical (noteErr_canonical h)

theorem uncorrected_canonical {s : State} {u : UnitId} (h : s.Canonical) : (uncorrected s u).Canonical := uncorrectedAt_canonical h

theorem countErrorAt_canonical {s : State} {u : UnitId} {addr : DWord} {hop : BitVec 16} {bay : Nat} (h : s.Canonical) :
    (countErrorAt s u addr hop bay).Canonical :=
  ite_keeps (eccRecord_canonical (noteErr_canonical h)) (setErrCount_canonical (noteErr_canonical h))

theorem countError_canonical {s : State} {u : UnitId} {hop : BitVec 16} {bay : Nat} (h : s.Canonical) :
    (countError s u hop bay).Canonical := countErrorAt_canonical h

theorem addrList_canonical {s : State} {g : Group} {code : BitVec 8} {taddr : Nat} {addrs : List Nat} (h : s.Canonical) :
    (addrList s g code taddr addrs).Canonical := ite_keeps h (writeRecord_canonical h)

theorem logAt_canonical {s : State} {t addr mkind : Nat} {mid : BitVec 16} {write : Bool} (h : s.Canonical) :
    (logAt s t addr mkind mid write).Canonical := ite_keeps { h with } { h with }

theorem logViolation_canonical {s : State} {phys mkind : Nat} {mid : BitVec 16} {write : Bool} (h : s.Canonical) :
    (logViolation s phys mkind mid write).Canonical := logAt_canonical h

/-! ### Snapshot.lean -/

theorem nameUnroll_canonical {s : State} {l : Launch} (h : s.Canonical) : (nameUnroll s l).Canonical := writeRecord_canonical h

theorem markUnroll_canonical : ∀ {fuel : Nat} {s : State} {lid : Nat}, s.Canonical → (markUnroll fuel s lid).Canonical
  | 0, _, _, h => h
  | _ + 1, _, _, h => ite_keeps h (foldl_keeps (nameUnroll_canonical (updLaunch_canonical h)) fun _ _ => markUnroll_canonical)

theorem entangle_canonical {s : State} {a b : Nat} (h : s.Canonical) : (entangle s a b).Canonical := by
  unfold entangle
  extract_lets s1 s2 n s3
  have h2 : s2.Canonical := updLaunch_canonical (updLaunch_canonical h)
  have h3 : s3.Canonical := ite_keeps (markUnroll_canonical h2) h2
  exact ite_keeps h (ite_keeps (markUnroll_canonical h3) h3)

theorem touchGranule_canonical {s : State} {lid : Nat} {asid : BitVec 16} {g : Nat} (h : s.Canonical) :
    (touchGranule s lid asid g).Canonical := foldl_keeps h (fun _ _ h1 => entangle_canonical h1)

theorem snapGranule_canonical {s : State} {lid : Nat} {pageAsid : BitVec 16} {va : Nat} (h : s.Canonical) :
    (snapGranule s lid pageAsid va).Canonical :=
  ite_keeps h (ite_keeps (markUnroll_canonical h) (ite_keeps h (ite_keeps (updLaunch_canonical (newId_canonical h))
    (markUnroll_canonical h))))

theorem launchWrite_canonical {s : State} {lid : Option Nat} {pageAsid : BitVec 16} {line : Nat} {bs : List (Nat × Byte)}
    (h : s.Canonical) : (launchWrite s lid pageAsid line bs).1.Canonical := by
  unfold launchWrite
  split
  · exact homeWrite_canonical h
  · exact updLaunch_canonical (homeWrite_canonical (touchGranule_canonical (snapGranule_canonical h)))

theorem restoreSnaps_canonical {m : MemSys} {ls : List Launch} (hm : cellsWf m.phys = true) : cellsWf (restoreSnaps m ls).phys = true :=
  foldl_phys hm (fun _ _ h1 => pokeBytes_wf _ (foldl_cellsWf h1 (fun _ _ h2 => cellsWf_cellsOut _ _ h2)))

/-! ### Reduce.lean -/

theorem noteW_canonical {s : State} {gid w : Nat} (h : s.Canonical) : (noteW s gid w).Canonical :=
  updGroup_canonical h (fun _ h1 => { h1 with })

theorem setFlags_canonical {f : Flags} {g : Group} (h : g.Canonical) : (setFlags f g).Canonical :=
  { h with
    image := by
      intro m hm
      obtain ⟨i, hi, rfl⟩ := Option.map_eq_some_iff.1 hm
      exact { h.image i hi with } }

theorem mergeAt_canonical {s : State} {u : ULine} {base : Nat} (h : s.Canonical) : (mergeAt s u base).Canonical :=
  foldl_keeps (launchWrite_canonical (foldl_keeps h (fun _ _ h1 => touchGranule_canonical (snapGranule_canonical h1))))
    (fun _ _ h2 => updGroup_canonical (noteW_canonical h2) (fun _ h3 => setFlags_canonical h3))

theorem dropLine_canonical {s : State} {u : ULine} {base : Nat} (h : s.Canonical) : (dropLine s u base).Canonical :=
  foldl_keeps (foldl_keeps h (fun _ _ h1 => logViolation_canonical h1)) (fun _ _ h2 => updGroup_canonical h2 (fun _ h3 => { h3 with }))

theorem mergeLine_canonical {s : State} {u : ULine} (h : s.Canonical) : (mergeLine s u).Canonical := by
  unfold mergeLine
  refine ite_keeps h ?_
  dsimp only
  split
  · exact { h with }
  · exact ite_keeps (mergeAt_canonical { h with }) (dropLine_canonical { h with })

theorem recallLine_canonical {s : State} {asid : BitVec 16} {line : Nat} (h : s.Canonical) : (recallLine s asid line).Canonical :=
  foldl_keeps h (fun _ _ h1 => mergeLine_canonical h1)

theorem mergeGroup_canonical {s : State} {gid : Nat} (h : s.Canonical) : (mergeGroup s gid).Canonical :=
  foldl_keeps h (fun _ _ h1 => mergeLine_canonical h1)

theorem mergeCore_canonical {s : State} {p : ULine → Bool} (h : s.Canonical) : (mergeCore s p).Canonical :=
  foldl_keeps h (fun _ _ h1 => mergeLine_canonical h1)

theorem l1Fit_canonical {s : State} {core : Nat} (h : s.Canonical) : (l1Fit s core).Canonical := by
  unfold l1Fit
  refine ite_keeps h ?_
  split
  · exact { h with }
  · exact foldl_keeps h (fun _ _ h1 => mergeLine_canonical h1)

theorem reduceInto_canonical {s : State} {core gid : Nat} {asid : BitVec 16} {line off op : Nat} {t : Ty} {v : Nat}
    (h : s.Canonical) : (reduceInto s core gid asid line off op t v).Canonical := by
  unfold reduceInto
  have hm : (match s.mem.ulines.find? fun (u : ULine) => u.core == core && u.asid == asid && u.line == line with
      | some u => if u.op.toNat = op ∧ u.ty = t then s else mergeLine s u
      | none => s).Canonical := by
    split
    · exact ite_keeps h (mergeLine_canonical h)
    · exact h
  exact l1Fit_canonical { hm with }

/-! ### Cache.lean -/

theorem pinUnits_canonical {s : State} {keepL1 keepCc : Bool} {core : Nat} {p : Quad} {va : Nat} {bs : List Byte} {flight : Nat}
    {till : Option Nat} (h : s.Canonical) :
    (pinUnits s keepL1 keepCc core p va bs flight till).Canonical := ite_keeps h { h with }

theorem pinBoth_canonical {s : State} {keep : Bool} {core : Nat} {p : Quad} {va : Nat} {bs : List Byte} {flight : Nat}
    {till : Option Nat} (h : s.Canonical) :
    (pinBoth s keep core p va bs flight till).Canonical := pinUnits_canonical h

theorem homeServe_canonical {s : State} {lid core : Nat} {p : Quad} {line : Nat} {keep : Bool} (h : s.Canonical) :
    (homeServe s lid core p line keep).1.Canonical := by
  unfold homeServe
  refine ite_fst_canonical ?_ (touchGranule_canonical h)
  split
  · exact touchGranule_canonical h
  · exact { touchGranule_canonical h with }

theorem coreRead_canonical {s : State} {core : Nat} {p : Quad} {va n : Nat} {keep : Bool} (h : s.Canonical) :
    (coreRead s core p va n keep).1.Canonical := by
  unfold coreRead
  refine ite_fst_canonical (homeServe_canonical (recallLine_canonical h)) (ite_fst_canonical (homeServe_canonical
      (recallLine_canonical h)) ?_)
  refine ite_fst_canonical h (ite_fst_canonical ?_ (homeServe_canonical h))
  split
  · exact ite_keeps (ite_keeps { h with } h) h
  · exact h

theorem notePost_canonical {s : State} {gid : Nat} {dest : Option Nat} (h : s.Canonical) : (notePost s gid dest).Canonical :=
  ite_keeps { updGroup_canonical h (by exact fun _ h1 => { h1 with }) with } (updGroup_canonical h (fun _ h2 => { h2 with }))

theorem sendStore_canonical {s : State} {gid core : Nat} {asid : BitVec 16} {page : Option Quad} {va : Nat} {bs : List Byte}
    {red : Option (BitVec 3 × Ty)} {poison keep : Bool} (h : s.Canonical) :
    (sendStore s gid core asid page va bs red poison keep).Canonical := by
  unfold sendStore
  dsimp only
  split
  · exact markUnroll_canonical (notePost_canonical { h with })
  · exact pinBoth_canonical { h with }

theorem failPosted_canonical {s : State} {gid : Nat} {dest : Option Nat} {port va : Nat} (h : s.Canonical) :
    (failPosted s gid dest port va).Canonical := updGroup_canonical h (fun _ h1 => { h1 with })

theorem passPosted_canonical {s : State} {gid : Nat} {dest : Option Nat} {port : Nat} (h : s.Canonical) :
    (passPosted s gid dest port).Canonical := updGroup_canonical h (fun _ h1 => { h1 with })

theorem farPoke_canonical {s : State} {port : Nat} {asid : BitVec 16} {va : Nat} {bs : List Byte} (h : s.Canonical) :
    (farPoke s port asid va bs).Canonical :=
  ite_keeps { h with peer := cellsWf_pokeAll _ _ _ h.peer } { h with host := cellsWf_pokeAll _ _ _ h.host }

theorem farCells_canonical {m : Sparse 8} {k : Nat} {f : Flight} (hm : cellsWf m = true) : cellsWf (farCells m k f) = true := by
  unfold farCells
  split
  · exact cellsWf_pokeAll _ _ _ hm
  · exact cellsWf_pokeAll _ _ _ hm

theorem farArrive_canonical {s : State} {f : Flight} (h : s.Canonical) : (farArrive s f).Canonical := by
  unfold farArrive
  extract_lets mem t dest bad
  have ht : t.Canonical := { h with }
  have hbad : ∀ {t : State}, t.Canonical → (bad t).Canonical := fun h => failPosted_canonical h
  refine ite_keeps (hbad ht) (ite_keeps (hbad (logAt_canonical ht)) (ite_keeps ?_ ?_))
  · exact ite_keeps { h with }
      (ite_keeps (hbad ht) (passPosted_canonical { ht with peer := farCells_canonical ht.peer }))
  · split
    · exact ite_keeps (passPosted_canonical { ht with host := farCells_canonical ht.host }) (hbad ht)
    · exact hbad ht

theorem storeArrive_canonical {s : State} {f : Flight} (h : s.Canonical) : (storeArrive s f).Canonical := by
  unfold storeArrive
  with_reducible refine ite_keeps (farArrive_canonical h) ?_
  split
  · with_reducible exact { h with }
  · with_reducible
      exact ite_keeps (updGroup_canonical (logViolation_canonical { h with }) (fun _ h1 => { h1 with })) { noteW_canonical
          (launchWrite_canonical h) with }

theorem poisonSector_canonical {s : State} {a : Nat} (h : s.Canonical) : (poisonSector s a).Canonical := { h with }

/-- The causes with which the checks of an address may end (R228). -/
theorem seeAddr_bad {s : State} {a : Agent} {va : Nat} {write : Bool} :
    ∀ c, seeAddr s a va write = .bad c → c = 0x11 ∨ c = 0x12 ∨ c = 0x13 ∨ c = 0x14 := by
  have hbad : ∀ {b : BitVec 8}, b = 0x11 ∨ b = 0x12 ∨ b = 0x13 ∨ b = 0x14 →
      ∀ c, Seen.bad b = .bad c → c = 0x11 ∨ c = 0x12 ∨ c = 0x13 ∨ c = 0x14 := fun h _ e => Seen.bad.inj e ▸ h
  have keeps := @ite_keeps Seen fun x => ∀ c, x = .bad c → c = 0x11 ∨ c = 0x12 ∨ c = 0x13 ∨ c = 0x14
  unfold seeAddr
  refine keeps (hbad (by simp)) (keeps (hbad (by simp)) (keeps ?_ (keeps ?_ ?_)))
  · exact keeps (hbad (by simp)) (keeps (hbad (by simp)) (keeps (hbad (by simp)) nofun))
  · split
    · nofun
    · exact keeps (hbad (by simp)) nofun
  · split
    · nofun
    · exact keeps nofun (keeps (hbad (by simp)) (keeps (hbad (by simp)) (keeps (hbad (by simp)) nofun)))

theorem replayEntry_canonical {s : State} {e : SideEntry} (h : s.Canonical) : (replayEntry s e).Canonical := by
  unfold replayEntry
  refine foldl_keeps (p := State.Canonical) h fun s el h => ?_
  dsimp only
  generalize hx : seeAddr s { asid := e.asid, core := e.core, super := e.super, mkind := mkContext } el.1 true = x
  cases x with
  | page p =>
    cases e.red with
    | none =>
      with_reducible exact pinBoth_canonical (noteW_canonical
        (ite_keeps (poisonSector_canonical (launchWrite_canonical h)) (launchWrite_canonical h)))
    | some r => exact recallLine_canonical (reduceInto_canonical h)
  | far => exact sendStore_canonical h
  | bad c =>
    obtain rfl | rfl | rfl | rfl := seeAddr_bad c hx
    · exact updGroup_canonical h fun _ h => { h with }
    · exact updGroup_canonical h fun _ h => { h with }
    · refine updGroup_canonical ?_ fun _ h => { h with }
      split
      · exact logViolation_canonical h
      · exact h
    · exact updGroup_canonical h fun _ h => { h with }
  | miss => exact updGroup_canonical h fun _ h => { h with }

theorem replayPage_canonical {s : State} {asid : BitVec 16} {page : Nat} (h : s.Canonical) : (replayPage s asid page).Canonical := by
  unfold replayPage
  exact foldl_fst_canonical { h with } fun acc e h => ite_fst_canonical (updGroup_canonical h fun _ h => { h with }) (ite_fst_canonical
      (replayEntry_canonical h) (replayEntry_canonical h))

theorem discardPage_canonical {s : State} {asid : BitVec 16} {page : Nat} {block : Bool} (h : s.Canonical) :
    (discardPage s asid page block).Canonical :=
  foldl_keeps { h with } (fun _ _ h1 => updGroup_canonical h1 (fun _ h2 => ite_keeps { h2 with } { h2 with }))

/-! ### Ops.lean -/

theorem setS_canonical {s : State} {n : Nat} {v : Word} (h : s.Canonical) : (setS s n v).Canonical :=
  { h with g := { h.g with sregs := cellsWf_poke _ _ h.g.sregs } }

theorem setPair_canonical {s : State} {n : Nat} {v : DWord} (h : s.Canonical) : (setPair s n v).Canonical :=
  setS_canonical (setS_canonical h)

theorem setBlock_canonical : ∀ {vs : List Word} {s : State} {n : Nat}, s.Canonical → (setBlock s n vs).Canonical
  | [], _, _, h => h
  | v :: vs, s, n, h => setBlock_canonical (vs := vs) (s := setS s n v) (setS_canonical h)

theorem setV_canonical {s : State} {r l : Nat} {v : Word} (h : s.Canonical) : (setV s r l v).Canonical :=
  { h with g := { h.g with vregs := cellsWf_poke _ _ h.g.vregs } }

theorem setVs_canonical : ∀ {vs : List Word} {s : State} {r l : Nat}, s.Canonical → (setVs s r l vs).Canonical
  | [], _, _, _, h => h
  | v :: vs, s, r, l, h => setVs_canonical (vs := vs) (s := setV s r l v) (setV_canonical h)

theorem setLatch_canonical {s : State} {k l : Nat} {v : Quad} (h : s.Canonical) : (setLatch s k l v).Canonical :=
  { h with g := { h.g with latches := cellsWf_poke _ _ h.g.latches } }

theorem latchKind_canonical {s : State} {k : Nat} {vec : Bool} (h : s.Canonical) : (latchKind s k vec).Canonical :=
  { h with g := { h.g with } }

theorem latchScalars_canonical {s : State} {k : Nat} {v : Quad} (h : s.Canonical) : (latchScalars s k v).Canonical :=
  foldl_keeps (latchKind_canonical h) (fun _ _ h1 => setLatch_canonical h1)

theorem latchLate_canonical {s : State} {gid : Nat} {v : Quad} (h : s.Canonical) : (latchLate s gid v).Canonical := by
  unfold latchLate
  with_reducible
    exact ite_keeps h (updGroup_canonical h (fun _ h1 => { h1 with latches := foldl_cellsWf h1.latches (fun _ _ h2 => cellsWf_poke _ _
        h2) }))

theorem latchLane_canonical {s : State} {gid l : Nat} {v : Quad} (h : s.Canonical) : (latchLane s gid l v).Canonical :=
  ite_keeps h (updGroup_canonical h (fun _ h1 => { h1 with latches := cellsWf_poke _ _ h1.latches }))

theorem resultS_canonical {s : State} {n : Nat} {v : Word} (h : s.Canonical) : (resultS s n v).Canonical :=
  setS_canonical (latchScalars_canonical h)

theorem resultPair_canonical {s : State} {n : Nat} {v : DWord} (h : s.Canonical) : (resultPair s n v).Canonical :=
  setPair_canonical (latchScalars_canonical h)

theorem resultBlock_canonical {s : State} {n : Nat} {vs : List Word} (h : s.Canonical) : (resultBlock s n vs).Canonical :=
  setBlock_canonical (latchScalars_canonical h)

theorem setM_canonical {s : State} {m : Nat} {lanes v : Word} (h : s.Canonical) : (setM s m lanes v).Canonical :=
  ite_keeps h { h with g := { h.g with masks := cellsWf_poke _ _ h.g.masks } }

theorem orFlags_canonical {s : State} {f : Flags} (h : s.Canonical) : (orFlags s f).Canonical := { h with g := { h.g with } }

theorem markPoison_canonical {s : State} {cell va : Nat} (h : s.Canonical) : (markPoison s cell va).Canonical :=
  { h with g := { h.g with } }

theorem drawFresh_canonical {s : State} (h : s.Canonical) : (drawFresh s).1.Canonical := { h with }

theorem startTerminate_canonical {s : State} {asid : BitVec 16} {code : BitVec 8} (h : s.Canonical) :
    (startTerminate s asid code).Canonical := by
  unfold startTerminate
  exact updGroups_canonical { h with } (fun _ h1 => { h1 with })

theorem startRollback_canonical {s : State} {lid : Nat} (h : s.Canonical) : (startRollback s lid).Canonical := by
  unfold startRollback
  exact updGroups_canonical { h with } (fun _ h1 => { h1 with })

theorem trapRecord_canonical {s : State} {t : Trap} {tpc : DWord} {inh : Bool} (h : s.Canonical) :
    (trapRecord s t tpc inh).Canonical := by
  unfold trapRecord
  with_reducible exact { recordAt_canonical h with g := { (recordAt_canonical h).g with } }

theorem dueEnd_canonical {s : State} {asid : BitVec 16} (h : s.Canonical) : (dueEnd s asid).Canonical := updCtx_canonical h

theorem dispose_canonical {s : State} {t : Trap} {tpc : DWord} (h : s.Canonical) : (dispose s t tpc).Canonical := by
  unfold dispose
  split
  · exact dueEnd_canonical h
  · exact updLaunch_canonical h
  · exact ite_keeps (ctlSend_canonical h) (dueEnd_canonical h)
  · exact h

theorem enterHandler_canonical {s : State} {t : Trap} {tpc : DWord} {chain : Bool} (h : s.Canonical) :
    (enterHandler s t tpc chain).Canonical := { h with g := { h.g with } }

theorem takeTrap_canonical {s : State} {t : Trap} {chain : Bool} {next : DWord} (h : s.Canonical) :
    (takeTrap s t chain next).Canonical :=
  ite_keeps (startTerminate_canonical (trapRecord_canonical h)) (ite_keeps (startRollback_canonical (trapRecord_canonical h))
    (enterHandler_canonical (dispose_canonical (ite_keeps h (trapRecord_canonical h)))))

theorem leaveHandler_canonical {s : State} (h : s.Canonical) : (leaveHandler s).Canonical := by
  unfold leaveHandler
  split
  · exact { h with g := { h.g with } }
  · exact { h with g := { h.g with } }

theorem complete_canonical {i : Shape} {s0 s : State} {pc : DWord} (h : s.Canonical) : (complete i s0 s pc).Canonical := { h with }

theorem park_canonical {w : Wait} {s : State} (h : s.Canonical) : (park w s).Canonical := { h with }

theorem run_canonical {i : Shape} {body : State → Res} {s : State} (hbody : ∀ t, t.Canonical → (body t).Canonical) (h : s.Canonical) :
    EndsCanonical (run i body s) := by
  unfold run
  split
  · exact .next (takeTrap_canonical h)
  · exact .next (park_canonical h)
  · split
    · rename_i hr1
      have h1 := (hbody _ h).of_done hr1
      exact .next (complete_canonical h1)
    · rename_i hr2
      have h2 := (hbody _ h).of_jump hr2
      exact .next (complete_canonical h2)
    · rename_i hr3
      have h3 := (hbody _ h).of_raise hr3
      exact .next (takeTrap_canonical h3)
    · rename_i hr4
      have h4 := (hbody _ h).of_wait hr4
      exact .next (park_canonical h4)

theorem raiseExec_canonical {s : State} {cause : BitVec 8} {addr : DWord} (h : s.Canonical) : (raiseExec s cause addr).Canonical :=
  .raise h

theorem raiseActive_canonical {s : State} {cause : BitVec 8} {addr : DWord} (h : s.Canonical) : (raiseActive s cause addr).Canonical :=
  .raise h

theorem raiseLanes_canonical {s : State} {cause : BitVec 8} {addr : DWord} {lanes : Word} (h : s.Canonical) :
    (raiseLanes s cause addr lanes).Canonical := .raise h

theorem raiseEncoding_canonical {i : Shape} {s : State} (h : s.Canonical) : (raiseEncoding i s).Canonical := raiseExec_canonical h

theorem raisePrivilege_canonical {i : Shape} {s : State} (h : s.Canonical) : (raisePrivilege i s).Canonical := raiseExec_canonical h

/-! ### Fetch.lean -/

theorem askPage_canonical {s : State} {page : Nat} (h : s.Canonical) : (askPage s page).Canonical := ite_keeps { h with } { h with }

theorem dropAsk_canonical {s : State} {page : Nat} (h : s.Canonical) : (dropAsk s page).Canonical := { h with }

theorem dropILine_canonical {s : State} {core : Nat} {asid : BitVec 16} {line : Nat} (h : s.Canonical) :
    (dropILine s core asid line).Canonical := { h with }

theorem keepILine_canonical {s : State} {c : ILine} (h : s.Canonical) : (keepILine s c).Canonical := { h with }

theorem fillILine_canonical {s : State} {core : Nat} {p : Quad} {va : Nat} (h : s.Canonical) : (fillILine s core p va).Canonical :=
  keepILine_canonical h

theorem fetchFromHome_canonical {s : State} {core : Nat} {p : Quad} {va : Nat} (h : s.Canonical) :
    (fetchFromHome s core p va).1.Canonical := ite_fst_canonical (dropILine_canonical h) (keepILine_canonical h)

theorem readForCode_canonical {s : State} {lid : Nat} {p : Quad} {va : Nat} (h : s.Canonical) : (readForCode s lid p va).Canonical :=
  touchGranule_canonical h

theorem fetchLineAt_canonical {s : State} {a : Agent} {va addr : Nat} (h : s.Canonical) : (fetchLineAt s a va addr).1.Canonical := by
  unfold fetchLineAt
  split
  · exact h
  · exact h
  · exact h
  · exact h
  · exact fetchFromHome_canonical (fillPac_canonical (readForCode_canonical h))

theorem lineRecord_canonical {s : State} {va : Nat} (h : s.Canonical) : (lineRecord s va).Canonical := writeRecord_canonical h

theorem checkTransfer_canonical {s : State} {target : DWord} (h : s.Canonical) : (checkTransfer s target).Canonical := by
  unfold checkTransfer
  dsimp only
  split
  · rename_i hr1
    have h1 := fst_canonical (fetchLineAt_canonical h) hr1
    exact .fail (ite_keeps (lineRecord_canonical h1) h1)
  · rename_i hr2
    have h2 := fst_canonical (fetchLineAt_canonical h) hr2
    exact ite_keeps (.fail (dropAsk_canonical h2)) (.hold (askPage_canonical h2))
  · rename_i hr3
    have h3 := fst_canonical (fetchLineAt_canonical h) hr3
    exact ite_keeps (.ok h3) (.fail h3)

theorem transferTo_canonical {s : State} {target : DWord} {f : State → State} (h : s.Canonical) (hf : ∀ t, t.Canonical →
    (f t).Canonical) : (transferTo s target f).Canonical := by
  unfold transferTo
  split
  · rename_i hr1
    have h1 := (checkTransfer_canonical h).of_ok hr1
    exact .jump { hf _ h1 with }
  · rename_i hr2
    have h2 := (checkTransfer_canonical h).of_fail hr2
    exact .raise h2
  · rename_i hr3
    have h3 := (checkTransfer_canonical h).of_hold hr3
    exact .wait h3

/-! ### Operands.lean -/

theorem afterScalar_canonical {s : State} {f : Src} (h : s.Canonical) : (afterScalar s f).Canonical := by
  unfold afterScalar
  split
  · exact ite_keeps (drawFresh_canonical h) h
  · exact h

theorem writeVec_canonical {s : State} {x : Args} {bits : Nat} {val : Nat → Nat} (h : s.Canonical) :
    (writeVec s x bits val).Canonical :=
  foldl_keeps (latchKind_canonical h) (fun _ _ h1 => ite_keeps (setLatch_canonical h1) (setVs_canonical (setLatch_canonical h1)))

theorem writeTy_canonical {s : State} {x : Args} {t : Ty} {val : Nat → Nat} (h : s.Canonical) : (writeTy s x t val).Canonical :=
  writeVec_canonical h

theorem writeScalar_canonical {s : State} {x : Args} {pair : Bool} {v : DWord} (h : s.Canonical) : (writeScalar s x pair v).Canonical :=
  ite_keeps (latchScalars_canonical h) (ite_keeps (setPair_canonical (latchScalars_canonical h)) (setS_canonical
    (latchScalars_canonical h)))

/-! ### Flags.lean -/

theorem withFlags_canonical {s : State} {fl : Nat → Flags} {t : State} (h : s.Canonical) (ht : t.Canonical) :
    (withFlags s fl t).Canonical :=
  ite_keeps (.done (orFlags_canonical ht)) (ite_keeps (raiseLanes_canonical h) (raiseLanes_canonical h))

/-! ### Scalar.lean -/

theorem scalarA_canonical {x : AArgs} {f : Word → Word → Word → Word} {s : State} (h : s.Canonical) : (scalarA x f s).Canonical :=
  .done (setS_canonical h)

theorem scalarA64_canonical {x : AArgs} {f : DWord → DWord → DWord} {s : State} (h : s.Canonical) : (scalarA64 x f s).Canonical :=
  .done (setPair_canonical h)

theorem scalarC_canonical {x : Args} {f : Word → Word → Word → Word} {s : State} (h : s.Canonical) : (scalarC x f s).Canonical :=
  .done (writeScalar_canonical (afterScalar_canonical (afterScalar_canonical h)))

theorem scalarC64_canonical {x : Args} {f : DWord → DWord → DWord} {s : State} (h : s.Canonical) : (scalarC64 x f s).Canonical :=
  .done (writeScalar_canonical (afterScalar_canonical (afterScalar_canonical h)))

/-! ### Sync.lean -/

theorem raiseCovered_canonical {s : State} {c : BitVec 8} {addrs : List Nat} (h : s.Canonical) : (raiseCovered s c addrs).Canonical :=
  .fail (addrList_canonical h)

theorem raiseDeferred_canonical {s : State} {c : BitVec 8} {addrs : List Nat} (h : s.Canonical) : (raiseDeferred s c addrs).Canonical :=
  raiseCovered_canonical { h with g := { h.g with } }

theorem sendToken_canonical {s : State} {gid : Nat} {p : Path} (h : s.Canonical) : (sendToken s gid p).Canonical :=
  ite_keeps h { updGroup_canonical h (by exact fun _ h1 => { h1 with }) with }

theorem sysFence_canonical {s : State} (h : s.Canonical) : (sysFence s).Canonical :=
  ite_keeps (ite_keeps (.done { h with g := { h.g with } }) (raiseCovered_canonical { h with g := { h.g with } }))
    (.wait (foldl_keeps h (fun _ _ h1 => sendToken_canonical h1)))

theorem devRelease_canonical {s : State} (h : s.Canonical) : (devRelease s).Canonical := by
  unfold devRelease
  dsimp only
  split
  · exact raiseDeferred_canonical (mergeGroup_canonical h)
  · exact ite_keeps (.wait (mergeGroup_canonical h)) (.done (mergeGroup_canonical h))

theorem release_canonical {s : State} {scope : Nat} (h : s.Canonical) : (release s scope).Canonical := by
  unfold release
  refine ite_keeps (.wait h) (ite_keeps (.wait h) ?_)
  split
  · exact raiseDeferred_canonical h
  · refine ite_keeps (.wait h) (ite_keeps (.done h) ?_)
    split
    · rename_i hr1
      have h1 := (devRelease_canonical h).of_done hr1
      exact ite_keeps (sysFence_canonical h1) (.done h1)
    · exact devRelease_canonical h

theorem withRelease_canonical {s : State} {scope : Nat} {f : State → Res} (h : s.Canonical) (hf : ∀ t, t.Canonical → (f t).Canonical) :
    (withRelease s scope f).Canonical := by
  unfold withRelease
  split
  · rename_i hr1
    have h1 := (release_canonical h).of_done hr1
    exact hf _ h1
  · rename_i hr2
    have h2 := (release_canonical h).of_wait hr2
    exact .wait h2
  · rename_i hr3
    have h3 := (release_canonical h).of_fail hr3
    exact .raise h3

theorem acquire_canonical {s : State} {scope : Nat} (h : s.Canonical) : (acquire s scope).Canonical := ite_keeps { h with } h

theorem withAcquire_canonical {s : State} {scope : Nat} {k : State → Res} (h : s.Canonical) (hk : ∀ t, t.Canonical → (k t).Canonical) :
    (withAcquire s scope k).Canonical := ite_keeps (hk _ (acquire_canonical h)) (.wait h)

theorem setBar_canonical {s : State} {tid n : Nat} {b : Barrier} (h : s.Canonical) : (setBar s tid n b).Canonical :=
  ite_keeps (updGang_canonical h) (updTeam_canonical h (fun _ h1 => { h1 with }))

theorem settleBar_canonical {s : State} {tid n : Nat} {b : Barrier} (h : s.Canonical) : (settleBar s tid n b).Canonical :=
  setBar_canonical h

theorem engineArrive_canonical {s : State} {tid n : Nat} (h : s.Canonical) : (engineArrive s tid n).Canonical := settleBar_canonical h

theorem waitAt_canonical {s : State} {a : Arrival} {phase : Nat} (h : s.Canonical) : (waitAt s a phase).Canonical := by
  unfold waitAt
  exact .wait { setBar_canonical h with }

theorem endArrival_canonical {s : State} (h : s.Canonical) : (endArrival s).Canonical := by
  unfold endArrival
  extract_lets t
  have ht : t.Canonical := by
    unfold t
    split
    · exact setBar_canonical h
    · exact h
  exact { ht with }

theorem returnFrom_canonical {s : State} {a : Arrival} (h : s.Canonical) : (returnFrom s a).Canonical := by
  unfold returnFrom
  dsimp only
  split
  · exact resultS_canonical (ite_keeps (acquire_canonical (endArrival_canonical h)) (endArrival_canonical h))
  · exact ite_keeps (acquire_canonical (endArrival_canonical h)) (endArrival_canonical h)

theorem passBarrier_canonical {s : State} {a : Arrival} (h : s.Canonical) : (passBarrier s a).Canonical :=
  ite_keeps (.wait { h with }) (.done (returnFrom_canonical h))

theorem countArrival_canonical {s : State} {a : Arrival} (h : s.Canonical) : (countArrival s a).Canonical :=
  ite_keeps (waitAt_canonical (ite_keeps (settleBar_canonical h) h)) (ite_keeps (passBarrier_canonical
    (ite_keeps (settleBar_canonical h) h)) (waitAt_canonical (ite_keeps (settleBar_canonical h) h)))

theorem invalidated_canonical {s : State} {a : Arrival} (h : s.Canonical) : (invalidated s a).Canonical := by
  unfold invalidated
  split
  · exact .done (resultS_canonical (endArrival_canonical h))
  · exact raiseExec_canonical (endArrival_canonical h)

theorem resumeArrival_canonical {s : State} {a : Arrival} (h : s.Canonical) : (resumeArrival s a).Canonical :=
  ite_keeps (invalidated_canonical h) (ite_keeps (ite_keeps (countArrival_canonical h) (raiseExec_canonical (endArrival_canonical h)))
    (ite_keeps (passBarrier_canonical h) (waitAt_canonical h)))

theorem arriveAt_canonical {n : Nat} {sync : Bool} {dest : Option Nat} {next : DWord} {s : State} (h : s.Canonical) :
    (arriveAt n sync dest next s).Canonical := by
  unfold arriveAt
  split
  · exact resumeArrival_canonical h
  · exact ite_keeps (raiseExec_canonical h) (withRelease_canonical h (fun _ h1 => ite_keeps (.done (returnFrom_canonical h1))
      (countArrival_canonical h1)))

theorem exitBarriers_canonical {s : State} {g : Group} (h : s.Canonical) : (exitBarriers s g).Canonical :=
  ite_keeps (settleBar_canonical (foldl_keeps h (fun _ _ h1 => ite_keeps (settleBar_canonical h1) h1))) (foldl_keeps h
    (fun _ _ h2 => ite_keeps (settleBar_canonical h2) h2))

/-! ### Control.lean -/

theorem updRec_canonical {s : State} {id : Nat} {f : Rec → Rec} (h : s.Canonical) : (updRec s id f).Canonical :=
  { h with g := { h.g with } }

theorem pushRec_canonical {s : State} {jpc : DWord} {pend : Word} {ppc : DWord} (h : s.Canonical) :
    (pushRec s jpc pend ppc).Canonical := { h with g := { h.g with } }

theorem dropRecs_canonical {s : State} (h : s.Canonical) : (dropRecs s).Canonical := { h with g := { h.g with } }

theorem popRec_canonical {s : State} (h : s.Canonical) : (popRec s).Canonical := dropRecs_canonical { h with }

theorem tryMerge_canonical {s : State} {rid : Nat} {away : optParam (List Split) []} (h : s.Canonical) :
    (tryMerge s rid away).Canonical := by
  unfold tryMerge
  dsimp only
  split
  · exact ite_keeps (dropRecs_canonical (ite_keeps { h with g := { h.g with } } { h with g := { h.g with } })) h
  · exact h

theorem reachRec_canonical {s : State} {r : Rec} (h : s.Canonical) : (reachRec s r).Canonical := updRec_canonical h

theorem takePending_canonical {s : State} {r : Rec} (h : s.Canonical) : (takePending s r).Canonical := { updRec_canonical h with }

theorem parkOn_canonical {s : State} {r : Rec} (h : s.Canonical) : (parkOn s r).Canonical := tryMerge_canonical { h with }

theorem joinHere_canonical {s : State} (h : s.Canonical) : (joinHere s).Canonical := by
  unfold joinHere
  split
  · exact h
  · exact ite_keeps (ite_keeps (takePending_canonical (reachRec_canonical h)) (ite_keeps (takeTrap_canonical (reachRec_canonical h))
      (ite_keeps (takeTrap_canonical (reachRec_canonical h)) (parkOn_canonical (reachRec_canonical h))))) h

theorem runFirst_canonical {s : State} {p : Paths} (h : s.Canonical) : (runFirst s p).Canonical := { h with }

theorem reuseRec_canonical {s : State} {r : Rec} {p : Paths} (h : s.Canonical) : (reuseRec s r p).Canonical :=
  runFirst_canonical (updRec_canonical h)

theorem newSplit_canonical {s : State} {num : Nat} {jpc : DWord} {t n : Word} {target next : DWord} (h : s.Canonical) :
    (newSplit s num jpc t n target next).Canonical := by
  unfold newSplit
  with_reducible exact { pushRec_canonical h with g := { (pushRec_canonical h).g with } }

theorem serialize_canonical {s : State} {jpc : DWord} {p : Paths} (h : s.Canonical) : (serialize s jpc p).Canonical :=
  runFirst_canonical (pushRec_canonical h)

theorem diverge_canonical {s : State} {x : BrvArgs} {t n : Word} {target next : DWord} (h : s.Canonical) :
    (diverge s x t n target next).Canonical := by
  unfold diverge
  dsimp only
  split
  · exact .jump (reuseRec_canonical h)
  · refine ite_keeps (raiseActive_canonical h) ?_
    split
    · exact .jump (newSplit_canonical h)
    · exact .jump (serialize_canonical h)

theorem divergent_canonical {i : Shape} {x : BrvArgs} {inv : Bool} {s : State} (h : s.Canonical) : (divergent i x inv s).Canonical := by
  unfold divergent
  refine ite_keeps (.done h) (ite_keeps (transferTo_canonical h (fun _ h1 => h1)) ?_)
  split
  · rename_i hr1
    have h2 := (checkTransfer_canonical h).of_ok hr1
    exact diverge_canonical h2
  · rename_i hr2
    have h3 := (checkTransfer_canonical h).of_fail hr2
    exact .raise h3
  · rename_i hr3
    have h4 := (checkTransfer_canonical h).of_hold hr3
    exact .wait h4

theorem callTo_canonical {i : Shape} {target : DWord} {s : State} (h : s.Canonical) : (callTo i target s).Canonical := by
  unfold callTo
  split
  · rename_i hr1
    have h1 := (checkTransfer_canonical h).of_ok hr1
    exact ite_keeps (raiseActive_canonical h1) (.jump { pushRec_canonical h1 with })
  · rename_i hr2
    have h2 := (checkTransfer_canonical h).of_fail hr2
    exact .raise h2
  · rename_i hr3
    have h3 := (checkTransfer_canonical h).of_hold hr3
    exact .wait h3

theorem dropFromRecs_canonical {s : State} {e : Word} (h : s.Canonical) : (dropFromRecs s e).Canonical := { h with g := { h.g with } }

theorem afterEmpty_canonical : ∀ {fuel : Nat} {s : State}, s.Canonical → (afterEmpty fuel s).Canonical
  | 0, _, h => { h with }
  | fuel + 1, s, h => by
    unfold afterEmpty
    split
    · exact { h with }
    · exact ite_keeps (takePending_canonical { h with }) (ite_keeps { h with } (afterEmpty_canonical (popRec_canonical h)))

theorem emptyOther_canonical {s : State} {p : Split} (h : s.Canonical) : (emptyOther s p).Canonical := by
  unfold emptyOther
  extract_lets rest cur g t
  have ht : t.Canonical := afterEmpty_canonical { h with g := { h.g with } }
  exact { ht with g := { ht.g with } }

theorem settleSplits_canonical {s : State} (h : s.Canonical) : (settleSplits s).Canonical :=
  foldl_keeps (ite_keeps (afterEmpty_canonical (foldl_keeps h (fun _ _ h1 => emptyOther_canonical h1))) (foldl_keeps h
    (fun _ _ h2 => emptyOther_canonical h2))) (fun _ _ h3 => tryMerge_canonical h3)

theorem exitLanes_canonical {s : State} {e : Word} {next : DWord} (h : s.Canonical) : (exitLanes s e next).Canonical :=
  exitBarriers_canonical (settleSplits_canonical (dropFromRecs_canonical { h with g := { h.g with } }))

theorem lastExitCheck_canonical {s : State} (h : s.Canonical) : (lastExitCheck s).Canonical := by
  unfold lastExitCheck
  dsimp only
  split
  · exact raiseDeferred_canonical (mergeGroup_canonical h)
  · exact sysFence_canonical (mergeGroup_canonical h)

theorem exitBody_canonical {i : Shape} {s : State} (h : s.Canonical) : (exitBody i s).Canonical := by
  unfold exitBody
  refine ite_keeps (.done h) (ite_keeps ?_ (.jump (exitLanes_canonical h)))
  split
  · rename_i hr1
    have h1 := (lastExitCheck_canonical h).of_done hr1
    exact .jump (exitLanes_canonical h1)
  · rename_i hr2
    have h2 := (lastExitCheck_canonical h).of_wait hr2
    exact .wait h2
  · rename_i hr3
    have h3 := (lastExitCheck_canonical h).of_fail hr3
    exact .raise h3

theorem execRet_canonical {x : Args} {s : State} (h : s.Canonical) : EndsCanonical (execRet x s) := by
  unfold execRet
  refine run_canonical ?_ h
  intro _ h1
  split
  · exact transferTo_canonical h1 (fun _ h2 => h2)
  · exact raiseActive_canonical h1

theorem execJoin_canonical {x : Args} {s : State} (h : s.Canonical) : EndsCanonical (execJoin x s) := by
  unfold execJoin
  refine run_canonical ?_ h
  intro _ h1
  split
  · exact .jump { h1 with }
  · exact raiseActive_canonical h1

theorem execPushp_canonical {x : Args} {s : State} (h : s.Canonical) : EndsCanonical (execPushp x s) :=
  run_canonical (fun _ h1 => ite_keeps (raiseActive_canonical h1) (.done { h1 with })) h

theorem execInvp_canonical {x : Args} {s : State} (h : s.Canonical) : EndsCanonical (execInvp x s) := by
  unfold execInvp
  refine run_canonical ?_ h
  intro _ h1
  split
  · exact .done { h1 with }
  · exact raiseActive_canonical h1

theorem execPopp_canonical {x : Args} {s : State} (h : s.Canonical) : EndsCanonical (execPopp x s) := by
  unfold execPopp
  refine run_canonical ?_ h
  intro _ h1
  split
  · exact .done { h1 with }
  · exact raiseActive_canonical h1

/-! ### Access.lean -/

theorem raiseElems_canonical {s : State} {x : Access} {c : BitVec 8} {l : List Elem} (h : s.Canonical) :
    (raiseElems s x c l).Canonical := raiseLanes_canonical (ite_keeps (addrList_canonical h) h)

theorem askFor_canonical {s : State} {page : Nat} (h : s.Canonical) : (askFor s page).Canonical := ite_keeps h { h with }

theorem askGrant_canonical {s : State} {va : Nat} (h : s.Canonical) : (askGrant s va).Canonical := { h with }

theorem heard_canonical {s : State} {who : Nat} (h : s.Canonical) : (heard s who).Canonical := { h with }

theorem logPort_canonical {s : State} {write : Bool} {va : Nat} (h : s.Canonical) : (logPort s write va).Canonical := logAt_canonical h

theorem raiseGone_canonical {s : State} {x : Access} {gone : List Elem} (h : s.Canonical) : (raiseGone s x gone).Canonical :=
  ite_keeps (raiseElems_canonical (foldl_keeps h (fun _ _ h1 => dropAsk_canonical h1))) (raiseElems_canonical (foldl_keeps h
    (fun _ _ h2 => dropAsk_canonical h2)))

theorem mergeOwn_canonical {s : State} {asid : BitVec 16} {line : Nat} (h : s.Canonical) : (mergeOwn s asid line).Canonical :=
  foldl_keeps h (fun _ _ h1 => mergeLine_canonical h1)

theorem mergeOwnAt_canonical {s : State} {l : List Elem} (h : s.Canonical) : (mergeOwnAt s l).Canonical := by
  unfold mergeOwnAt
  refine foldl_keeps h fun _ _ h1 => ?_
  split
  · exact mergeOwn_canonical h1
  · exact h1

theorem whenReady_canonical {s : State} {x : Access} {k : State → Res} (h : s.Canonical) (hk : ∀ t, t.Canonical → (k t).Canonical) :
    (whenReady s x k).Canonical := by
  unfold whenReady
  split
  · exact raiseElems_canonical h
  · extract_lets miss gone lost shut ask refused denied near m
    have hm : m.Canonical := mergeOwnAt_canonical h
    have asked : ∀ {α : Type} {f : State → α → State} {l : List α}, (∀ t a, t.Canonical → (f t a).Canonical) →
        (l.foldl f s).Canonical := fun hf => foldl_keeps (p := State.Canonical) h hf
    refine ite_keeps (raiseGone_canonical h) (ite_keeps (raiseElems_canonical (heard_canonical h)) ?_)
    refine ite_keeps (raiseElems_canonical (asked fun _ _ h => logPort_canonical h)) ?_
    refine ite_keeps (raiseElems_canonical (heard_canonical h)) (ite_keeps (raiseElems_canonical h) ?_)
    refine ite_keeps (.wait (asked fun _ _ h => askPage_canonical h)) ?_
    refine ite_keeps (.wait (asked fun _ _ h => askGrant_canonical h)) (ite_keeps (.wait h) ?_)
    refine ite_keeps (.wait hm) (ite_keeps (.wait hm) (hk _ ?_))
    exact foldl_keeps (p := State.Canonical) hm fun _ _ h => fillPac_canonical h

theorem readElem_canonical {s : State} {va n : Nat} {keep : Bool} (h : s.Canonical) : (readElem s va n keep).1.Canonical := by
  unfold readElem
  refine ite_fst_canonical h ?_
  split
  · exact h
  · exact coreRead_canonical h

theorem readAll_canonical {s : State} {l : List Elem} {n : Nat} {keep : Bool} (h : s.Canonical) : (readAll s l n keep).1.Canonical :=
  foldl_fst_canonical h (fun _ _ h1 => readElem_canonical h1)

theorem tryLoad_canonical {s : State} {x : Access} {keep : Bool} (h : s.Canonical) :
    ExceptAll Res.Canonical (fun r => r.1.Canonical) (tryLoad s x keep) := by
  unfold tryLoad
  split
  · rename_i hr1
    have h1 := (whenReady_canonical h (fun _ h2 => .done h2)).of_done hr1
    exact .ok (readAll_canonical h1)
  · exact .error (whenReady_canonical h (fun _ h3 => .done h3))

theorem raisePoison_canonical {s : State} {x : Access} {l : List (Elem × List Byte × Bool)} (h : s.Canonical) :
    (raisePoison s x l).Canonical := raiseElems_canonical h

theorem arriveOwn_canonical {s : State} {p : Quad} {line : Nat} (h : s.Canonical) : (arriveOwn s p line).Canonical :=
  foldl_keeps h (fun _ _ h1 => storeArrive_canonical h1)

theorem putOne_canonical {s : State} {p : Put} (h : s.Canonical) : (putOne s p).Canonical := by
  unfold putOne
  refine ite_keeps (sendStore_canonical h) ?_
  split
  · exact h
  · exact sendStore_canonical (mergeOwn_canonical (fillPac_canonical h))

theorem logPage_canonical {s : State} {red : Option (BitVec 3 × Ty)} {l : List Put} {page : Nat} (h : s.Canonical) :
    (logPage s red l page).Canonical := askFor_canonical { h with }

theorem storeWith_canonical {s : State} {l : List Put} {n : Nat} {scalar : Bool} {red : Option (BitVec 3 × Ty)}
    {last : List Put → List Put} {send : State → List Put → State} {k : State → Res} {list : optParam Bool false} (h : s.Canonical)
    (hsend : ∀ t a, t.Canonical → (send t a).Canonical) (hk : ∀ t, t.Canonical → (k t).Canonical) :
    (storeWith s l n scalar red last send k list).Canonical := by
  unfold storeWith
  dsimp only
  split
  · exact raiseElems_canonical h
  · exact ite_keeps (.wait h) (ite_keeps (.wait (foldl_keeps h (fun _ _ h1 => askFor_canonical h1)))
      (hk _ (hsend _ _ (foldl_keeps h (fun _ _ h2 => logPage_canonical h2)))))

theorem storeElems_canonical {s : State} {l : List Put} {n : Nat} {scalar : Bool} {k : State → Res} (h : s.Canonical)
    (hk : ∀ t, t.Canonical → (k t).Canonical) : (storeElems s l n scalar k).Canonical :=
  storeWith_canonical h (fun _ _ h1 => foldl_keeps h1 (fun _ _ h2 => putOne_canonical h2)) (fun _ h3 => hk _ h3)

theorem reduceOne_canonical {op : BitVec 3} {t : Ty} {s : State} {p : Put} (h : s.Canonical) : (reduceOne op t s p).Canonical := by
  unfold reduceOne
  refine ite_keeps (sendStore_canonical h) ?_
  split
  · exact h
  · exact ite_keeps (recallLine_canonical (reduceInto_canonical (arriveOwn_canonical (fillPac_canonical h)))) (reduceInto_canonical
      (arriveOwn_canonical (fillPac_canonical h)))

theorem reduceElems_canonical {s : State} {op : BitVec 3} {t : Ty} {l : List Put} {scalar : Bool} {k : State → Res} (h : s.Canonical)
    (hk : ∀ t, t.Canonical → (k t).Canonical) : (reduceElems s op t l scalar k).Canonical :=
  storeWith_canonical h (fun _ _ h1 => foldl_keeps h1 (fun _ _ h2 => reduceOne_canonical h2)) (fun _ h3 => hk _ h3)

theorem atomOne_canonical {s : State} {a : AtomOp} {va d c : Nat} (h : s.Canonical) : (atomOne s a va d c).1.Canonical := by
  unfold atomOne
  split
  · with_reducible exact h
  · dsimp only
    split
    · with_reducible exact noteW_canonical { touchGranule_canonical (recallLine_canonical (arriveOwn_canonical h)) with }
    · with_reducible exact pinBoth_canonical (noteW_canonical (launchWrite_canonical (recallLine_canonical (arriveOwn_canonical h))))

/-! ### Scratch.lean -/

theorem lclWrite_canonical {s : State} {tid a : Nat} {bs : List Byte} {poison : Bool} (h : s.Canonical) :
    (lclWrite s tid a bs poison).Canonical := by
  unfold lclWrite
  split
  · exact h
  · exact updTeam_canonical h (fun _ h1 => { h1 with lcl := cellsWf_pokeAll _ _ _ h1.lcl })

theorem updImage_canonical {s : State} {tid : Nat} {f : TeamImage → TeamImage} (h : s.Canonical)
    (hf : ∀ m, m.Canonical → (f m).Canonical) : (updImage s tid f).Canonical :=
  updTeam_canonical h fun _ ht => { ht with image := option_map_keeps ht.image hf }

theorem engineLcl_canonical {s : State} {tid a : Nat} {bs : List Byte} (h : s.Canonical) : (engineLcl s tid a bs).Canonical := by
  unfold engineLcl
  split
  · exact h
  · exact updImage_canonical (lclWrite_canonical h) (fun _ h1 => { h1 with lcl := cellsWf_pokeAll _ _ _ h1.lcl })

theorem trackMove_canonical {s : State} {name : Nat} {ranges : List Range} (h : s.Canonical) : (trackMove s name ranges).Canonical :=
  { h with }

theorem endMove_canonical {s : State} {tid name : Nat} (h : s.Canonical) : (endMove s tid name).Canonical := { h with }

theorem lclChecked_canonical {s : State} {l : List (Nat × Nat)} {n : Nat} {write : Bool} {k : State → Res} (h : s.Canonical)
    (hk : ∀ t, t.Canonical → (k t).Canonical) : (lclChecked s l n write k).Canonical :=
  ite_keeps (raiseLanes_canonical h) (ite_keeps (raiseLanes_canonical h) (ite_keeps (raiseLanes_canonical h) (ite_keeps (.wait h)
    (hk _ h))))

theorem lclRegion_canonical {s : State} {a align n : Nat} {ranges : List Range} {k : State → Res} (h : s.Canonical)
    (hk : ∀ t, t.Canonical → (k t).Canonical) : (lclRegion s a align n ranges k).Canonical :=
  ite_keeps (raiseExec_canonical h) (ite_keeps (raiseExec_canonical h) (ite_keeps (raiseExec_canonical h) (ite_keeps (.wait h)
    (hk _ h))))

theorem updBank_canonical {s : State} {cluster bank : Nat} {f : Bank → Bank} (h : s.Canonical) : (updBank s cluster bank f).Canonical :=
  { h with }

theorem withFifo_canonical {s : State} {bank : Nat} {k : Bank → Res} (h : s.Canonical) (hk : ∀ t, (k t).Canonical) :
    (withFifo s bank k).Canonical := by
  unfold withFifo
  split
  · exact ite_keeps (hk _) (raiseExec_canonical h)
  · exact raiseExec_canonical h

theorem statusTo_canonical {s : State} {d : Option Nat} {v : Word} (h : s.Canonical) : (statusTo s d v).Canonical := by
  unfold statusTo
  split
  · exact setS_canonical h
  · exact h

theorem pushFifo_canonical {s : State} {x : Args} {dest : Option Nat} (h : s.Canonical) : (pushFifo s x dest).Canonical := by
  unfold pushFifo
  refine ite_keeps (.done h) (withFifo_canonical h ?_)
  intro _
  refine ite_keeps ?_ ?_
  · split
    · exact .done (resultS_canonical h)
    · exact .wait h
  · refine withRelease_canonical h fun _ h1 => .done ?_
    split
    · exact resultS_canonical (updBank_canonical h1)
    · exact updBank_canonical h1

theorem markFree_canonical {s : State} {cell : Nat} (h : s.Canonical) : (markFree s cell).Canonical :=
  markPoison_canonical (drawFresh_canonical h)

theorem markEntry_canonical {s : State} {x : Args} {sick : List Nat} (h : s.Canonical) : (markEntry s x sick).Canonical :=
  ite_keeps h (foldl_keeps h (fun _ _ h1 => ite_keeps (markFree_canonical h1) h1))

theorem popFifo_canonical {s : State} {x : Args} {dest : Option Nat} (h : s.Canonical) : (popFifo s x dest).Canonical := by
  unfold popFifo
  refine ite_keeps (.done h) (withFifo_canonical h ?_)
  intro _
  split
  · split
    · exact .done (resultS_canonical h)
    · exact .wait h
  · exact ite_keeps (.wait h) (.done (statusTo_canonical (markEntry_canonical (writeVec_canonical (acquire_canonical
      (updBank_canonical h))))))

/-! ### Tensor.lean -/

theorem setHandle_canonical {s : State} {n : Nat} {h' : TRec} (h : s.Canonical) : (setHandle s n h').Canonical :=
  { h with tm := { h.tm with } }

theorem withHandle_canonical {s : State} {f : Src} {k : TRec → Res} (h : s.Canonical) (hk : ∀ t, (k t).Canonical) :
    (withHandle s f k).Canonical := by
  unfold withHandle
  split
  · exact hk _
  · exact raiseExec_canonical h

theorem raiseHandle_canonical {s : State} {f : Src} (h : s.Canonical) : (raiseHandle s f).Canonical := raiseExec_canonical h

theorem findCrd_keeps {σ ε : Type} {p : ε → Prop} {q : σ → Prop} {load : Loader σ ε} {crd c : Nat} (hl : load.Keeps p q) :
    ∀ {n k : Nat} {st : σ}, q st → ExceptAll p (fun r => q r.1) (findCrd load crd c n k st)
  | 0, _, _, h => .ok h
  | n + 1, k, st, h => by
    have h1 := hl st ((crd + 4 * k) % 2 ^ 64) 4 h
    unfold findCrd
    split
    · rename_i hr
      exact .error (h1.of_error hr)
    · rename_i hr
      have h2 := h1.of_ok hr
      exact ite_keeps (.ok h2) (ite_keeps (.ok h2) (findCrd_keeps hl h2))

theorem stepBitmap_keeps {σ ε : Type} {p : ε → Prop} {q : σ → Prop} {load : Loader σ ε} {lvl n c k : Nat} {st : σ}
    (hl : load.Keeps p q) (h : q st) : ExceptAll p (fun r => q r.1) (stepBitmap load lvl n c k st) := by
  have h1 := hl st ((lvl + 8 * (k * ceilDiv n 32 + c / 32)) % 2 ^ 64) 8 h
  unfold stepBitmap
  split
  · rename_i hr
    exact .error (h1.of_error hr)
  · rename_i hr
    exact ite_keeps (.ok (h1.of_ok hr)) (.ok (h1.of_ok hr))

theorem stepCompressed_keeps {σ ε : Type} {p : ε → Prop} {q : σ → Prop} {load : Loader σ ε} {lvl c k : Nat} {st : σ}
    (hl : load.Keeps p q) (h : q st) : ExceptAll p (fun r => q r.1) (stepCompressed load lvl c k st) :=
  bind_keeps (hl _ _ _ h) fun _ h1 => bind_keeps (hl _ _ _ h1) fun _ h2 => bind_keeps (hl _ _ _ h2) fun _ h3 =>
    bind_keeps (hl _ _ _ h3) fun _ h4 => findCrd_keeps hl h4

theorem walk_keeps {σ ε : Type} {p : ε → Prop} {q : σ → Prop} {load : Loader σ ε} (hl : load.Keeps p q) :
    ∀ {ds : List (Nat × Nat × Nat)} {lv : List DWord} {k : Nat} {st : σ}, q st →
      ExceptAll p (fun r => q r.1) (walk load ds lv k st)
  | [], _, _, _, h => .ok h
  | (0, _, _) :: t, _, _, _, h => walk_keeps (ds := t) hl h
  | (_ + 1, _, _) :: _, [], _, _, h => .ok h
  | (_ + 1, _, _) :: t, _ :: _, _, _, h => by
    unfold walk
    split
    · rename_i hr
      exact .error ((ite_keeps (stepBitmap_keeps hl h) (stepCompressed_keeps hl h)).of_error hr)
    · rename_i hr
      exact .ok ((ite_keeps (stepBitmap_keeps hl h) (stepCompressed_keeps hl h)).of_ok hr)
    · rename_i hr
      exact walk_keeps (ds := t) hl ((ite_keeps (stepBitmap_keeps hl h) (stepCompressed_keeps hl h)).of_ok hr)

theorem scaleVa_keeps {σ ε : Type} {p : ε → Prop} {q : σ → Prop} {load : Loader σ ε} {r : TRec} {cs : List Nat} {st : σ}
    (hl : load.Keeps p q) (h : q st) : ExceptAll p (fun r => q r.1) (scaleVa load r cs st) := by
  have walked : ∀ {ds : List (Nat × Nat × Nat)} (f : Nat → Option Nat), ExceptAll p (fun r => q r.1)
      (match walk load ds (levelsOf r) 0 st with
      | .error e => .error e
      | .ok (st, none) => .ok (st, none)
      | .ok (st, some k) => .ok (st, f k)) := by
    intro ds f
    have h1 := walk_keeps (ds := ds) (lv := levelsOf r) (k := 0) hl h
    split
    · rename_i hr
      exact .error (h1.of_error hr)
    · rename_i hr
      exact .ok (h1.of_ok hr)
    · rename_i hr
      have h2 := h1.of_ok hr
      exact .ok h2
  exact ite_keeps (walked _) (walked _)

theorem laneLoad_keeps {keep : Bool} {lane : Nat} : (laneLoad keep lane).Keeps Res.Canonical State.Canonical := by
  intro s va n h
  unfold laneLoad
  split
  · rename_i hr
    exact .error ((tryLoad_canonical h).of_error hr)
  · rename_i hr
    have h1 := (tryLoad_canonical h).of_ok hr
    exact ite_keeps (.error (raisePoison_canonical h1)) (.ok h1)

/-! ### Engine.lean -/

theorem askAs_canonical {s : State} {asid : BitVec 16} {page who : Nat} (h : s.Canonical) : (askAs s asid page who).Canonical :=
  ite_keeps { h with } { h with }

theorem grantAs_canonical {s : State} {port : Nat} {asid : BitVec 16} {va who : Nat} (h : s.Canonical) :
    (grantAs s port asid va who).Canonical := { h with }

theorem logEngine_canonical {s : State} {e : Engine} {va : Nat} {write : Bool} (h : s.Canonical) :
    (logEngine s e va write).Canonical := by
  unfold logEngine
  refine ite_keeps (ite_keeps h (logAt_canonical h)) ?_
  split
  · exact logViolation_canonical h
  · exact h

theorem engineSee_canonical {s : State} {e : Engine} {va : Nat} {write : Bool} (h : s.Canonical) :
    ExceptAll EStop.Canonical (fun _ => True) (engineSee s e va write) := by
  unfold engineSee
  split
  · exact .ok trivial
  · exact .error .code
  · exact ite_keeps (.error .code) (.error (.ask (askAs_canonical h)))
  · exact ite_keeps (.error .code) (ite_keeps (.error .code) (ite_keeps (ite_keeps (.error .code)
      (.error (.ask (grantAs_canonical h)))) (ite_keeps (.error .code) (.ok trivial))))

theorem noteDenied_canonical {s : State} {e : Engine} {code : BitVec 8} {va : Nat} {write : Bool} (h : s.Canonical) :
    (noteDenied s e code va write).Canonical := ite_keeps (logEngine_canonical h) h

theorem enginePiece_canonical {s : State} {e : Engine} {va n : Nat} (h : s.Canonical) :
    ExceptAll EStop.Canonical (fun r => r.1.Canonical) (enginePiece s e va n) := by
  unfold enginePiece
  split
  · rename_i hr
    exact .error ((engineSee_canonical h).of_error hr)
  · exact .ok h
  · exact ite_keeps (.error .code) (.ok (touchGranule_canonical (recallLine_canonical h)))

theorem enginePieces_canonical {e : Engine} : ∀ {l : List (Nat × Nat)} {s : State}, s.Canonical →
    ExceptAll EStop.Canonical (fun r => r.1.Canonical) (enginePieces e l s)
  | [], _, h => .ok h
  | _ :: _, _, h => by
    unfold enginePieces
    split
    · rename_i hr
      exact .error ((enginePiece_canonical h).of_error hr)
    · rename_i hr
      have h1 := (enginePiece_canonical h).of_ok hr
      split
      · rename_i hr
        exact .error ((enginePieces_canonical h1).of_error hr)
      · rename_i hr
        have h2 := (enginePieces_canonical h1).of_ok hr
        exact .ok h2

theorem engineRead_canonical {e : Engine} {s : State} {va n : Nat} (h : s.Canonical) :
    ExceptAll EStop.Canonical (fun r => r.1.Canonical) (engineRead e s va n) := enginePieces_canonical h

theorem engineLoad_keeps {e : Engine} : (engineLoad e).Keeps EStop.Canonical State.Canonical := by
  intro s va n h
  unfold engineLoad
  split
  · rename_i hr
    exact .error ((engineRead_canonical h).of_error hr)
  · rename_i hr
    exact .ok ((engineRead_canonical h).of_ok hr)

theorem engineMay_canonical {s : State} {e : Engine} {l : List (Nat × Nat)} (h : s.Canonical) : ∀ k ∈ engineMay s e l, k.Canonical := by
  refine firstSome_keeps fun x => ?_
  split
  · rename_i hr
    exact fun k hk => by cases hk; exact (engineSee_canonical h).of_error hr
  · simp

theorem engineTake_canonical {s : State} {e : Engine} {p : Quad} {va : Nat} {bs : List Byte} {w : Nat} (h : s.Canonical) :
    (engineTake s e p va bs w).Canonical := ite_keeps (pinUnits_canonical h) h

theorem enginePut_canonical {e : Engine} {acc : State × Nat} {va : Nat} {bs : List Byte} (hacc : acc.1.Canonical) :
    (enginePut e acc va bs).1.Canonical := by
  unfold enginePut
  refine ite_fst_canonical (ite_keeps (farPoke_canonical hacc) (markUnroll_canonical (farPoke_canonical hacc))) ?_
  split
  · exact hacc
  · exact ite_keeps (engineTake_canonical (launchWrite_canonical hacc)) (launchWrite_canonical hacc)

theorem engineWrite_canonical {e : Engine} {s : State} {w va : Nat} {bs : List Byte} (h : s.Canonical) :
    (engineWrite e s w va bs).1.Canonical := foldl_fst_canonical h (fun _ _ h1 => enginePut_canonical h1)

theorem accept_canonical {x : Args} {s : State} {k : CmdKind} {f : EFlags} {ranges : List Range} (h : s.Canonical) :
    (accept x s k f ranges).Canonical := ite_keeps (.wait h) (ite_keeps (.wait h) (.done { newId_canonical h with g := { h.g with } }))

theorem updCmd_canonical {s : State} {id : Nat} {f : Cmd → Cmd} (h : s.Canonical) : (updCmd s id f).Canonical := { h with }

theorem startCmd_canonical {s : State} {c : Cmd} (h : s.Canonical) : (startCmd s c).Canonical := updCmd_canonical h

theorem sendTokens_canonical {s : State} {gid : Nat} (h : s.Canonical) : (sendTokens s gid).Canonical :=
  foldl_keeps h (fun _ _ h1 => sendToken_canonical h1)

theorem engineAcquire_canonical {s : State} {c : Cmd} {scope : Option Nat} (h : s.Canonical) :
    (engineAcquire s c scope).1.Canonical := by
  unfold engineAcquire
  split
  · exact h
  · exact ite_keeps { ite_keeps (sendTokens_canonical (ite_keeps (mergeGroup_canonical h) h)) (ite_keeps (mergeGroup_canonical h) h)
      with } (ite_keeps (sendTokens_canonical (ite_keeps (mergeGroup_canonical h) h)) (ite_keeps (mergeGroup_canonical h) h))

theorem settleReg_canonical {s : State} {gid n : Nat} {v : Word} (h : s.Canonical) : (settleReg s gid n v).Canonical :=
  updGroup_canonical h fun _ hg => { hg with
    sregs := cellsWf_poke _ _ hg.sregs
    image := option_map_keeps hg.image fun _ hm => { hm with sregs := cellsWf_poke _ _ hm.sregs } }

theorem settleRegs_canonical {s : State} {gid n : Nat} {words : List Word} (h : s.Canonical) : (settleRegs s gid n words).Canonical :=
  latchLate_canonical (foldl_keeps h (fun _ _ h1 => settleReg_canonical h1))

theorem dropCmd_canonical {s : State} {id : Nat} (h : s.Canonical) : (dropCmd s id).Canonical := { h with }

theorem noteScribe_canonical {s : State} {tid : Nat} {r : CmdRes} (h : s.Canonical) : (noteScribe s tid r).Canonical :=
  updTeam_canonical h (fun _ h1 => { h1 with })

theorem finishCmd_canonical {s : State} {c : Cmd} {r : CmdRes} (h : s.Canonical) : (finishCmd s c r).Canonical := by
  unfold finishCmd
  extract_lets live gone code addr settled arrived noted
  have hs : settled.Canonical := settleRegs_canonical (dropCmd_canonical h)
  have ha : arrived.Canonical := by
    unfold arrived
    split
    · exact ite_keeps (engineArrive_canonical hs) hs
    · exact hs
  have hn : noted.Canonical := ite_keeps (noteScribe_canonical ha) ha
  refine ite_keeps (startRollback_canonical ?_) ?_ <;> exact ite_keeps hn (writeRecord_canonical hn)

/-! ### Copy.lean -/

theorem withTile_canonical {s : State} {x : Args} {tr : Bool} {k : TRec → Box → Res} (h : s.Canonical) (hk : ∀ t a, (k t a).Canonical) :
    (withTile s x tr k).Canonical :=
  withHandle_canonical h (fun _ => ite_keeps (raiseHandle_canonical h) (ite_keeps (raiseHandle_canonical h) (hk _ _)))

theorem copyLocal_canonical {i : Shape} {x : Args} {out : Bool} {s : State} (h : s.Canonical) : (copyLocal i x out s).Canonical :=
  ite_keeps (.done h) (ite_keeps (raiseEncoding_canonical h) (withTile_canonical h (fun _ _ => ite_keeps (raiseExec_canonical h)
    (ite_keeps (raiseEncoding_canonical h) (accept_canonical h)))))

theorem slotAt_canonical {t : Team} {n : Nat} (h : t.Canonical) : (slotAt t n).Canonical := getD_keeps h.slots Slot.none_canonical

theorem updSlot_canonical {s : State} {tid n : Nat} {f : Slot → Slot} (h : s.Canonical) (hf : ∀ o, o.Canonical → (f o).Canonical) :
    (updSlot s tid n f).Canonical := updTeam_canonical h fun _ ht => { ht with slots := updateAt_keeps hf ht.slots }

theorem engineSlot_canonical {s : State} {tid n : Nat} {f : Slot → Slot} (h : s.Canonical) (hf : ∀ o, o.Canonical → (f o).Canonical) :
    (engineSlot s tid n f).Canonical :=
  updImage_canonical (updSlot_canonical h hf) fun _ hm => { hm with slots := updateAt_keeps hf hm.slots }

theorem tileAt_canonical {t : Team} {n : Nat} (h : t.Canonical) : (tileAt t n).Canonical := getD_keeps h.tiles Tile.none_canonical

theorem updTile_canonical {s : State} {tid n : Nat} {f : Tile → Tile} (h : s.Canonical) (hf : ∀ t, t.Canonical → (f t).Canonical) :
    (updTile s tid n f).Canonical := updTeam_canonical h fun _ ht => { ht with tiles := updateAt_keeps hf ht.tiles }

theorem withFreeSlot_canonical {s : State} {n : Nat} {k : Res} (h : s.Canonical) (hk : k.Canonical) : (withFreeSlot s n k).Canonical :=
  ite_keeps (raiseExec_canonical h) (ite_keeps (.wait h) (ite_keeps (.wait h) hk))

theorem copySlotBody_canonical {i : Shape} {x : Args} {s : State} (h : s.Canonical) : (copySlotBody i x s).Canonical := by
  unfold copySlotBody
  refine ite_keeps (.done h) (ite_keeps (raiseEncoding_canonical h) ?_)
  refine withTile_canonical h fun _ _ => withFreeSlot_canonical h (ite_keeps (raiseEncoding_canonical h) ?_)
  split
  · rename_i hr1
    have h1 := (accept_canonical h).of_done hr1
    exact .done (updSlot_canonical h1 (fun _ _ => { bytes := cellsWf_nil }))
  · exact accept_canonical h

theorem fillLocal_canonical {i : Shape} {x : Args} {s : State} (h : s.Canonical) : (fillLocal i x s).Canonical :=
  ite_keeps (.done h) (ite_keeps (raiseEncoding_canonical h) (ite_keeps (raiseExec_canonical h) (ite_keeps (raiseExec_canonical h)
    (accept_canonical h))))

theorem fillTensor_canonical {i : Shape} {x : Args} {s : State} (h : s.Canonical) : (fillTensor i x s).Canonical :=
  ite_keeps (.done h) (ite_keeps (raiseEncoding_canonical h) (withTile_canonical h (fun _ _ => accept_canonical h)))

theorem walkChunks_canonical {c : Cmd} {e : Engine} {turn : State → Nat → Nat → Turned}
    (hturn : ∀ s w k, s.Canonical → (turn s w k).Canonical) :
    ∀ {l : List Nat} {s : State} {w : Nat} {done : List Nat}, s.Canonical → (walkChunks c e turn l s w done).Canonical
  | [], _, _, _, h => .all h
  | k :: t, s, w, done, h => by
    unfold walkChunks
    refine ite_keeps (walkChunks_canonical hturn h) ?_
    split
    · rename_i hr
      exact walkChunks_canonical hturn ((hturn s w k h).of_ok hr)
    · rename_i hr
      exact .later (((hturn s w k h).of_stop hr).of_ask rfl)
    · exact .fail (noteDenied_canonical h)
    · exact .fail h

theorem verifyScribes_canonical {e : Engine} {r : TRec} : ∀ {l : List Nat} {s : State}, s.Canonical →
    ExceptAll Turned.Canonical (fun r => r.1.Canonical) (verifyScribes e r l s)
  | [], _, h => .ok h
  | _ :: _, _, h => by
    unfold verifyScribes
    dsimp only
    split
    · rename_i hr
      exact .error (.stop ((engineRead_canonical h).of_error hr))
    · rename_i hr
      have h1 := (engineRead_canonical h).of_ok hr
      split
      · rename_i hr
        exact .error (.stop ((engineRead_canonical h1).of_error hr))
      · rename_i hr
        have h2 := (engineRead_canonical h1).of_ok hr
        refine ite_keeps (verifyScribes_canonical h2) ?_
        split
        · rename_i hr
          exact .error (.stop ((engineRead_canonical h2).of_error hr))
        · rename_i hr
          have h3 := (engineRead_canonical h2).of_ok hr
          exact ite_keeps (map_ok_keeps (verifyScribes_canonical h3) fun _ h => h) (.error .mismatch)

theorem writeScribes_canonical {e : Engine} {r : TRec} : ∀ {l : List Nat} {s : State} {w : Nat}, s.Canonical →
    (writeScribes e r l s w).Canonical
  | [], _, _, h => .ok h
  | _ :: _, _, _, h => by
    unfold writeScribes
    dsimp only
    split
    · rename_i hr
      exact .stop ((engineRead_canonical h).of_error hr)
    · rename_i hr _
      exact .stop (engineMay_canonical h _ hr)
    · rename_i hr _
      exact writeScribes_canonical (engineWrite_canonical ((engineRead_canonical h).of_ok hr))

theorem readTile_canonical {e : Engine} {size : Nat} : ∀ {l : List TileElem} {s : State}, s.Canonical →
    ExceptAll EStop.Canonical (fun r => r.1.Canonical) (readTile e size l s)
  | [], _, h => .ok h
  | _ :: _, _, h => by
    unfold readTile
    split
    · exact readTile_canonical h
    · split
      · rename_i hr
        exact .error ((engineRead_canonical h).of_error hr)
      · rename_i hr
        have h1 := (engineRead_canonical h).of_ok hr
        split
        · rename_i hr
          exact .error ((readTile_canonical h1).of_error hr)
        · rename_i hr
          have h2 := (readTile_canonical h1).of_ok hr
          exact .ok h2

theorem turnIn_canonical {c : Cmd} {e : Engine} {r : TRec} {l : List TileElem} {put : State → Nat → List Byte → State} {s : State}
    {w key : Nat} (hput : ∀ s a b, s.Canonical → (put s a b).Canonical) (h : s.Canonical) :
    (turnIn c e r l put s w key).Canonical := by
  unfold turnIn
  dsimp only
  split
  · rename_i hr
    exact .stop ((readTile_canonical h).of_error hr)
  · rename_i hr
    have h1 := (readTile_canonical h).of_ok hr
    have checked : ∀ {b : Bool} {ks : List Nat}, ExceptAll Turned.Canonical (fun x => x.1.Canonical)
        (if b then verifyScribes e r ks _ else .ok (_, [])) := ite_keeps (verifyScribes_canonical h1) (.ok h1)
    split
    · rename_i hr
      exact .ok (foldl_keeps (p := State.Canonical) (checked.of_ok hr) fun _ _ h => hput _ _ _ h)
    · rename_i hr
      exact checked.of_error hr

theorem turnOut_canonical {c : Cmd} {e : Engine} {r : TRec} {l : List TileElem} {src : State → Nat → Option (List Byte)} {s : State}
    {w key : Nat} (h : s.Canonical) : (turnOut c e r l src s w key).Canonical := by
  unfold turnOut
  dsimp only
  split
  · exact .stop .code
  · split
    · rename_i hr
      exact .stop (engineMay_canonical h _ hr)
    · have written : (((chunkElems l key).filter fun y => y.live).foldl (fun (a : State × Nat) y =>
          engineWrite e a.1 a.2 (y.va.getD 0) ((src s y.place).getD [])) (s, w)).1.Canonical :=
        foldl_fst_canonical h fun _ _ h => engineWrite_canonical h
      exact ite_keeps (writeScribes_canonical written) (.ok written)

theorem putSlot_canonical {tid n : Nat} {s : State} {place : Nat} {bs : List Byte} (h : s.Canonical) :
    (putSlot tid n s place bs).Canonical := engineSlot_canonical h fun _ ho => { ho with bytes := cellsWf_pokeAll _ _ _ ho.bytes }

theorem readScales_canonical {e : Engine} {r : TRec} {b : Box} {tid n : Nat} : ∀ {l : List (Nat × Nat)} {s : State}, s.Canonical →
    ExceptAll EStop.Canonical State.Canonical (readScales e r b tid n l s)
  | [], _, h => .ok h
  | _ :: _, _, h => by
    unfold readScales
    split
    · exact readScales_canonical h
    · have h1 := fun cs => scaleVa_keeps (r := r) (cs := cs) (engineLoad_keeps (e := e)) h
      split
      · rename_i hr
        exact .error ((h1 _).of_error hr)
      · rename_i hr
        exact readScales_canonical ((h1 _).of_ok hr)
      · rename_i hr
        have h2 := (h1 _).of_ok hr
        split
        · rename_i hr
          exact .error ((engineRead_canonical h2).of_error hr)
        · rename_i hr
          exact readScales_canonical (putSlot_canonical ((engineRead_canonical h2).of_ok hr))

theorem putFills_canonical {h' : TRec} {l : List TileElem} {put : State → Nat → List Byte → State} {s : State}
    (hput : ∀ t a b, t.Canonical → (put t a b).Canonical) (h : s.Canonical) :
    (putFills h' l put s).Canonical := foldl_keeps h (fun _ _ h1 => hput _ _ _ h1)

theorem saveCmd_canonical {s : State} {c : Cmd} {w : Nat} {keys : List Nat} {r : Option CmdRes} (h : s.Canonical) :
    (saveCmd s c w keys r).Canonical := updCmd_canonical h

theorem endFill_canonical {s : State} {tid n : Nat} {ok : Bool} (h : s.Canonical) : (endFill s tid n ok).Canonical :=
  engineSlot_canonical h fun _ ho => ite_keeps { ho with } { ho with bytes := cellsWf_nil }

theorem moveOut_canonical {c : Cmd} {e : Engine} {r : TRec} {l : List TileElem} {src : State → Nat → Option (List Byte)}
    {s : State} (h : s.Canonical) : (moveOut c e r l src s).Canonical := by
  have walked := walkChunks_canonical (c := c) (e := e) (turn := turnOut c e r l src) (l := chunkKeys l) (w := c.w) (done := c.done)
    (fun _ _ _ h => turnOut_canonical h) h
  unfold moveOut
  split
  · rename_i hr
    exact saveCmd_canonical (walked.of_all hr)
  · rename_i hr
    exact saveCmd_canonical (walked.of_later hr)
  · rename_i hr
    exact saveCmd_canonical (walked.of_fail hr)

theorem moveIn_canonical {c : Cmd} {e : Engine} {h' : TRec} {b : Box} {a : Nat} {s : State} (h : s.Canonical) :
    (moveIn c e h' b a s).Canonical := by
  unfold moveIn
  dsimp only
  split
  · rename_i hr1
    have h1 := (walkChunks_canonical (fun _ _ _ h2 => turnIn_canonical (fun _ _ _ h3 => engineLcl_canonical h3) h2) h).of_all hr1
    exact saveCmd_canonical (putFills_canonical (fun _ _ _ h4 => engineLcl_canonical h4) h1)
  · rename_i hr2
    have h5 := (walkChunks_canonical (fun _ _ _ h6 => turnIn_canonical (fun _ _ _ h7 => engineLcl_canonical h7) h6) h).of_later hr2
    exact saveCmd_canonical h5
  · rename_i hr3
    have h8 := (walkChunks_canonical (fun _ _ _ h9 => turnIn_canonical (fun _ _ _ h10 => engineLcl_canonical h10) h9) h).of_fail hr3
    exact saveCmd_canonical h8

theorem moveSlot_canonical {c : Cmd} {e : Engine} {r : TRec} {b : Box} {tr : Bool} {n : Nat} {s : State} (h : s.Canonical) :
    (moveSlot c e r b tr n s).Canonical := by
  unfold moveSlot
  extract_lets l put t
  have hput : ∀ s a b, s.Canonical → (put s a b).Canonical := fun _ _ _ h => putSlot_canonical h
  have ht : t.Canonical := ite_keeps (engineSlot_canonical h fun _ ho => { ho with bytes := cellsWf_nil }) h
  have walked := walkChunks_canonical (c := c) (e := e) (turn := turnIn c e r l put) (l := chunkKeys l) (w := c.w) (done := c.done)
    (fun _ _ _ h => turnIn_canonical hput h) ht
  split
  · rename_i hr
    have h1 := walked.of_all hr
    split
    · rename_i hr
      exact saveCmd_canonical (endFill_canonical (putFills_canonical hput ((readScales_canonical h1).of_ok hr)))
    · rename_i hr
      exact saveCmd_canonical (((readScales_canonical h1).of_error hr).of_ask rfl)
    · exact saveCmd_canonical (endFill_canonical (noteDenied_canonical h1))
  · rename_i hr
    exact saveCmd_canonical (walked.of_later hr)
  · rename_i hr
    exact saveCmd_canonical (endFill_canonical (walked.of_fail hr))

theorem copyTransfer_canonical {c : Cmd} {s : State} (h : s.Canonical) : (copyTransfer c s).Canonical := by
  unfold copyTransfer
  split
  · exact ite_keeps (moveIn_canonical h) (saveCmd_canonical h)
  · exact moveSlot_canonical h
  · exact ite_keeps (moveOut_canonical h) (saveCmd_canonical h)
  · exact ite_keeps (saveCmd_canonical (engineLcl_canonical h)) (saveCmd_canonical h)
  · exact moveOut_canonical h
  · exact h

/-! ### Sched.lean -/

theorem settleDefer_canonical {s : State} (h : s.Canonical) : (settleDefer s).Canonical := { h with g := { h.g with } }

theorem lookAtPc_canonical {s : State} (h : s.Canonical) : (lookAtPc s).1.Canonical := by
  unfold lookAtPc
  dsimp only
  split
  · rename_i hr1
    have h1 := fst_canonical (fetchLineAt_canonical h) hr1
    exact ite_keeps (lineRecord_canonical h1) h1
  · rename_i hr2
    have h2 := fst_canonical (fetchLineAt_canonical h) hr2
    exact ite_fst_canonical (dropAsk_canonical h2) (askPage_canonical h2)
  · rename_i hr3
    have h3 := fst_canonical (fetchLineAt_canonical h) hr3
    exact ite_fst_canonical h3 h3

/-! ### Barrier.lean -/

theorem initBarrier_canonical {i : Shape} {x : Args} {s : State} (h : s.Canonical) : (initBarrier i x s).Canonical :=
  ite_keeps (.done h) (ite_keeps (raiseEncoding_canonical h) (ite_keeps (raiseExec_canonical h) (.done (setBar_canonical h))))

theorem arriveNumbered_canonical {i : Shape} {x : Args} {sync : Bool} {dest : Option Nat} {s : State} (h : s.Canonical) :
    (arriveNumbered i x sync dest s).Canonical := ite_keeps (.done h) (ite_keeps (raiseEncoding_canonical h) (arriveAt_canonical h))

theorem invalWaiters_canonical {s : State} {tid n phase : Nat} (h : s.Canonical) : (invalWaiters s tid n phase).Canonical :=
  ite_keeps { updGroups_canonical h (by exact fun _ h1 => { h1 with }) with } (updGroups_canonical h (fun _ h2 => { h2 with }))

theorem invalBarrier_canonical {i : Shape} {x : Args} {s : State} (h : s.Canonical) : (invalBarrier i x s).Canonical :=
  ite_keeps (.done h) (ite_keeps (raiseEncoding_canonical h) (.done (setBar_canonical (invalWaiters_canonical h))))

theorem gangArrival_canonical {i : Shape} {dest : Option Nat} {s : State} (h : s.Canonical) : (gangArrival i dest s).Canonical :=
  ite_keeps (.done h) (arriveAt_canonical h)

theorem leaveBarrier_canonical {s : State} (h : s.Canonical) : (leaveBarrier s).Canonical := by
  unfold leaveBarrier
  split
  · exact { returnFrom_canonical h with }
  · exact h

theorem timeoutRecord_canonical {s : State} {b : Barrier} {n : Nat} {t : Team} (h : s.Canonical) :
    (timeoutRecord s b n t).Canonical := by
  unfold timeoutRecord
  dsimp only
  split
  · exact writeRecord_canonical h
  · exact writeRecord_canonical h

theorem trapWaiter_canonical {cause : BitVec 8} {addr : Nat} {s : State} {w : Who} (h : s.Canonical) :
    (trapWaiter cause addr s w).Canonical := ite_keeps h (ite_keeps { focus_canonical h with } (takeTrap_canonical (focus_canonical h)))

theorem levelTraps_canonical {s : State} {gang : Nat} (h : s.Canonical) : (levelTraps s gang).Canonical := by
  unfold levelTraps
  exact updGroups_canonical h (fun _ h1 => { h1 with })

theorem takeEvent_canonical {s : State} {e : BitVec 8 × Nat} (h : s.Canonical) : (takeEvent s e).Canonical :=
  ite_keeps (park_canonical h) (levelTraps_canonical (takeTrap_canonical { h with }))

theorem fireBarrier_canonical {s : State} {tid n : Nat} (h : s.Canonical) : (fireBarrier s tid n).Canonical :=
  levelTraps_canonical (foldl_keeps (setBar_canonical (foldl_keeps h (fun _ _ h1 => timeoutRecord_canonical h1)))
    (fun _ _ h2 => trapWaiter_canonical h2))

theorem fifoRecord_canonical {s : State} {n : Nat} (h : s.Canonical) : (fifoRecord s n).Canonical := writeRecord_canonical h

theorem execFifoTimeout_canonical {gid sp : Nat} {s : State} (h : s.Canonical) : EndsCanonical (execFifoTimeout gid sp s) := by
  unfold execFifoTimeout
  dsimp only
  split
  · exact .next (trapWaiter_canonical (fifoRecord_canonical (focus_canonical h)))
  · exact .next h

/-! ### Launching.lean -/

theorem noteEligible_canonical {s : State} (h : s.Canonical) : (noteEligible s).Canonical := { h with }

theorem showCounter_canonical {s : State} {c : Nat} (h : s.Canonical) : (showCounter s c).Canonical := by
  unfold showCounter
  split
  · exact h
  · split
    · exact mpWrite_canonical h
    · exact h

theorem addCounter_canonical {s : State} {c : Nat} {n : Word} (h : s.Canonical) : (addCounter s c n).Canonical :=
  noteEligible_canonical (showCounter_canonical { h with counters := cellsWf_poke _ _ h.counters })

theorem updQueue_canonical {s : State} {q : Nat} {f : LQueue → LQueue} (h : s.Canonical) : (updQueue s q f).Canonical := { h with }

theorem enqueue_canonical {s : State} {q : Nat} {r : LaunchRec} (h : s.Canonical) : (enqueue s q r).Canonical :=
  noteEligible_canonical (updQueue_canonical h)

theorem submit_canonical {s : State} {q : Nat} {ws : List Word} {own : Option (BitVec 16)} {declined : Nat → Bool} (h : s.Canonical) :
    (submit s q ws own declined).Canonical := by
  unfold submit
  refine ite_keeps (.status h) ?_
  split
  · exact ite_keeps (.status h) (ite_keeps (.status h) (.status (enqueue_canonical h)))
  · exact .status h
  · exact ite_keeps (.status h) .ask

/-! ### Mapping.lean -/

theorem invalidatePage_canonical {s : State} {p : Quad} (h : s.Canonical) : (invalidatePage s p).Canonical := by
  unfold invalidatePage
  exact { mergeCore_canonical h with }

theorem unmapPage_canonical {s : State} {p : Quad} (h : s.Canonical) : (unmapPage s p).Canonical := by
  have h1 := invalidatePage_canonical (p := p) h
  unfold unmapPage
  exact { h1 with }

theorem answerPage_canonical {s : State} {p : Quad} (h : s.Canonical) : (answerPage s p).Canonical :=
  { foldl_keeps h (by exact fun _ _ h1 => replayPage_canonical h1) with }

theorem installPage_canonical {s : State} {p : Quad} (h : s.Canonical) : (installPage s p).Canonical :=
  answerPage_canonical { h with phys := withRoom_canonical h.phys }

theorem changePage_canonical {s : State} {p q : Quad} (h : s.Canonical) : (changePage s p q).Canonical :=
  installPage_canonical (unmapPage_canonical h)

theorem declinePage_canonical {s : State} {asid : BitVec 16} {page : Nat} {block : Bool} (h : s.Canonical) :
    (declinePage s asid page block).Canonical := { discardPage_canonical h with }

theorem copyPage_canonical {s : State} {p q : Quad} (h : s.Canonical) : (copyPage s p q).Canonical :=
  { h with phys := foldl_cellsWf h.phys (fun _ _ h1 => pokeBytes_wf _ (cellsWf_cellsOut _ _ h1)) }

theorem zeroPage_canonical {s : State} {p : Quad} (h : s.Canonical) : (zeroPage s p).Canonical :=
  { h with phys := foldl_cellsWf h.phys (fun _ _ h1 => cellsWf_cellsOut _ _ h1) }

/-! ### System.lean -/

theorem saveEntry_canonical {s : State} (h : s.Canonical) : (saveEntry s).Canonical :=
  ite_keeps { h with g := { h.g with } } (takeTrap_canonical h)

theorem returnBody_canonical {s : State} (h : s.Canonical) : (returnBody s).Canonical := by
  unfold returnBody
  extract_lets back
  have hback : ∀ {s : State}, s.Canonical → (back s).Canonical := fun h =>
    have hl := settleSplits_canonical (leaveHandler_canonical h)
    ite_keeps { hl with g := { hl.g with } } hl
  refine ite_keeps ?_ (.jump (hback h))
  split
  · rename_i hr
    exact .jump (hback ((checkTransfer_canonical h).of_ok hr))
  · rename_i hr
    exact .raise ((checkTransfer_canonical h).of_fail hr)
  · rename_i hr
    exact .wait ((checkTransfer_canonical h).of_hold hr)

theorem writeFmt_canonical {i : Shape} {v : Word} {s : State} (h : s.Canonical) : (writeFmt i v s).Canonical :=
  ite_keeps (raiseEncoding_canonical h) (ite_keeps (raiseExec_canonical h) (.done { h with }))

theorem writeRnd_canonical {i : Shape} {v : Word} {s : State} (h : s.Canonical) : (writeRnd i v s).Canonical :=
  ite_keeps (raiseEncoding_canonical h) (.done { h with })

theorem mergeFlags_canonical {s : State} {gid : Nat} (h : s.Canonical) : (mergeFlags s gid).Canonical :=
  foldl_keeps h (fun _ _ h1 => mergeLine_canonical h1)

theorem readSpecial_canonical {x : Args} {s : State} (h : s.Canonical) : (readSpecial x s).Canonical :=
  ite_keeps (.wait h) (ite_keeps (.wait h) (.done (ite_keeps (resultPair_canonical (ite_keeps (mergeGroup_canonical h)
    (ite_keeps (mergeFlags_canonical h) h))) (resultS_canonical (ite_keeps (mergeGroup_canonical h) (ite_keeps (mergeFlags_canonical h)
    h))))))

theorem writeSpecial_canonical {x : Args} {s : State} (h : s.Canonical) : (writeSpecial x s).Canonical := by
  unfold writeSpecial
  dsimp only
  split
  · exact writeFmt_canonical h
  · exact writeRnd_canonical h
  · exact .done { h with g := { h.g with } }
  · exact .done { h with g := { h.g with } }
  · exact .done { h with g := { h.g with } }
  · exact .done { h with g := { h.g with } }
  · exact .done { h with tm := { h.tm with } }
  · exact .done { h with g := { h.g with } }
  · exact .done { h with g := { h.g with } }
  · exact .done { h with g := { h.g with } }
  · exact .done { h with g := { h.g with } }
  · exact .done { h with g := { h.g with } }
  · exact .done { h with g := { h.g with } }
  · exact .done { h with g := { h.g with } }
  · exact raisePrivilege_canonical h

theorem launchFrom_canonical {x : Args} {s : State} {ws : List Word} (h : s.Canonical) : (launchFrom x s ws).Canonical := by
  unfold launchFrom
  refine ite_keeps (.wait h) ?_
  split
  · rename_i hr1
    have h1 := (submit_canonical h).of_status hr1
    exact .done (resultS_canonical (dropAsk_canonical h1))
  · exact .wait (askPage_canonical h)

theorem launchBody_canonical {x : Args} {s : State} (h : s.Canonical) : (launchBody x s).Canonical :=
  withRelease_canonical h (fun _ h1 => ite_keeps (raiseExec_canonical h1) (whenReady_canonical h1 (fun _ h2 => ite_keeps
    (raisePoison_canonical (readAll_canonical h2)) (launchFrom_canonical (readAll_canonical h2)))))

theorem signalBody_canonical {x : Args} {scope : Nat} {s : State} (h : s.Canonical) : (signalBody x scope s).Canonical :=
  ite_keeps (raiseExec_canonical h) (withRelease_canonical h (fun _ h1 => ite_keeps (.done (addCounter_canonical h1)) (.wait h1)))

theorem setRole_canonical {s : State} {cluster bank : Nat} {r : BankRole} (h : s.Canonical) : (setRole s cluster bank r).Canonical :=
  { h with }

theorem bankBody_canonical {x : Args} {s : State} (h : s.Canonical) : (bankBody x s).Canonical :=
  ite_keeps (raiseExec_canonical h) (ite_keeps (.done h) (ite_keeps (raiseExec_canonical h) (ite_keeps (.wait h)
    (.done (setRole_canonical h)))))

theorem dropCode_canonical {s : State} {core va bytes : Nat} (h : s.Canonical) : (dropCode s core va bytes).Canonical := { h with }

theorem dropLeases_canonical {s : State} {core : Nat} {asid : BitVec 16} {va bytes : Nat} (h : s.Canonical) :
    (dropLeases s core asid va bytes).Canonical := { h with }

theorem purgeLines_canonical {s : State} {hit : BitVec 16 → Nat → Bool} (h : s.Canonical) : (purgeLines s hit).Canonical :=
  ite_keeps (.wait (mergeCore_canonical h)) (.done { mergeCore_canonical h with })

theorem execLtm_canonical {x : Args} {s : State} (h : s.Canonical) : EndsCanonical (execLtm x s) :=
  run_canonical (fun _ h1 => .done { h1 with tm := { h1.tm with } }) h

theorem execPpoint_canonical {x : Args} {s : State} (h : s.Canonical) : EndsCanonical (execPpoint x s) := by
  unfold execPpoint
  refine run_canonical ?_ h
  intro _ h1
  dsimp only
  split
  · exact .jump (saveEntry_canonical { h1 with g := { h1.g with } })
  · exact .done { h1 with g := { h1.g with } }

theorem execWget_canonical {x : Args} {s : State} (h : s.Canonical) : EndsCanonical (execWget x s) :=
  run_canonical (fun _ h1 => .done (resultBlock_canonical { h1 with g := { h1.g with } })) h

theorem execSysc_canonical {x : Args} {s : State} (h : s.Canonical) : EndsCanonical (execSysc x s) :=
  run_canonical (fun _ h1 => ite_keeps (.wait h1) (withRelease_canonical h1 (fun _ h2 => .wait { h2 with }))) h

theorem answered_canonical {s : State} {q : Request} (h : s.Canonical) : (answered s q).Canonical := { h with }

theorem execSyscReply_canonical {gid sp : Nat} {value : Word} {s : State} (h : s.Canonical) :
    EndsCanonical (execSyscReply gid sp value s) := by
  unfold execSyscReply
  dsimp only
  split
  · exact ite_keeps (.next (answered_canonical (resultS_canonical (focus_canonical h)))) (.next h)
  · exact .next h

/-! ### BlockStore.lean -/

theorem remapBlock_canonical {s : State} {id : Nat} (h : s.Canonical) : (remapBlock s id).Canonical := by
  unfold remapBlock
  refine foldl_keeps h fun _ _ h1 => ?_
  split
  · exact ite_keeps h1 (changePage_canonical h1)
  · exact installPage_canonical h1

theorem addName_canonical {s : State} {asid : BitVec 16} {n : List Word} {block : Nat} {va : DWord} (h : s.Canonical) :
    (addName s asid n block va).Canonical := { h with }

theorem kvCreate_canonical {s : State} {asid : BitVec 16} {n : List Word} (h : s.Canonical) : (kvCreate s asid n).Canonical := by
  unfold kvCreate
  refine ite_keeps (.status h) (ite_keeps (.status h) ?_)
  refine ite_keeps (.status h) ?_
  dsimp only
  split
  · exact .status h
  · split
    · exact .status (installPage_canonical (zeroPage_canonical (addName_canonical { newId_canonical (drawFresh_canonical h) with })))
    · exact .status (addName_canonical { newId_canonical (drawFresh_canonical h) with })

theorem kvLookup_canonical {s : State} {asid : BitVec 16} {n : List Word} (h : s.Canonical) : (kvLookup s asid n).Canonical := by
  unfold kvLookup
  refine ite_keeps (.status h) ?_
  split
  · exact .status h
  · exact ite_keeps (.status h) .found

theorem kvSecond_canonical {s : State} {asid : BitVec 16} {old new : List Word} (h : s.Canonical) :
    (kvSecond s asid old new).Canonical := by
  unfold kvSecond
  refine ite_keeps (.status h) ?_
  split
  · exact .status h
  · exact ite_keeps (.status h) (ite_keeps (.status h) (ite_keeps .later (.status (remapBlock_canonical (addName_canonical
      (drawFresh_canonical h))))))

theorem removeName_canonical {s : State} {x : KvName} (h : s.Canonical) : (removeName s x).Canonical := by
  unfold removeName
  extract_lets pages unmapped kv named
  have hu : unmapped.Canonical := foldl_keeps (p := State.Canonical) h fun _ _ h => unmapPage_canonical h
  have hn : named.Canonical := { hu with }
  exact ite_keeps { hn with } (ite_keeps hn (remapBlock_canonical hn))

theorem kvRemove_canonical {s : State} {asid : BitVec 16} {n : List Word} (h : s.Canonical) : (kvRemove s asid n).Canonical := by
  unfold kvRemove
  refine ite_keeps (.status h) ?_
  split
  · exact .status h
  · exact ite_keeps (.status (removeName_canonical h)) .later

theorem kvAct_canonical {s : State} {q : Request} (h : s.Canonical) : (kvAct s q).Canonical :=
  ite_keeps (kvCreate_canonical h) (ite_keeps (kvLookup_canonical h) (ite_keeps (kvSecond_canonical h) (kvRemove_canonical h)))

theorem kvWrite_canonical {q : Request} {a : KvAnswer} {s : State} (ha : a.Canonical) (h : s.Canonical) :
    (kvWrite q a s).Canonical := by
  unfold kvWrite
  cases ha with
  | status hs => exact answered_canonical (ite_keeps (resultPair_canonical hs) (resultS_canonical hs))
  | found => exact answered_canonical (resultPair_canonical h)
  | later => exact h

theorem kvBody_canonical {i : Shape} {op : Nat} {x : Args} {two : Bool} {s : State} (h : s.Canonical) :
    (kvBody i op x two s).Canonical :=
  ite_keeps (.done h) (ite_keeps (.wait h) (withRelease_canonical h (fun _ h1 => .wait { h1 with })))

theorem execKvReply_canonical {gid sp : Nat} {s : State} (h : s.Canonical) : EndsCanonical (execKvReply gid sp s) := by
  unfold execKvReply
  dsimp only
  split
  · exact ite_keeps (.next (kvWrite_canonical (kvAct_canonical (focus_canonical h)) (focus_canonical h))) (.next h)
  · exact .next h

theorem copyBlock_canonical {s : State} {n : KvName} {pfn : Nat} (h : s.Canonical) : (copyBlock s n pfn).Canonical := by
  unfold copyBlock
  extract_lets old t r u x v
  have ht : t.Canonical := by
    unfold t
    split
    · exact unmapPage_canonical h
    · exact h
  have hr : r.1.Canonical := newId_canonical ht
  exact remapBlock_canonical (installPage_canonical (copyPage_canonical { hr with }))

theorem execBlockCopyOnWrite_canonical {asid : BitVec 16} {va : DWord} {s : State} (h : s.Canonical) :
    EndsCanonical (execBlockCopyOnWrite asid va s) := by
  unfold execBlockCopyOnWrite
  split
  · exact .next h
  · refine ite_keeps (.next h) ?_
    split
    · exact .next (copyBlock_canonical h)
    · exact .next (foldl_keeps h (fun _ _ h1 => declinePage_canonical h1))

/-! ### VectorInt.lean -/

theorem laneWise_canonical {x : Args} {f : Nat → Nat → Nat → Nat} {s : State} (h : s.Canonical) : (laneWise x f s).Canonical :=
  .done (writeTy_canonical h)

theorem laneWord_canonical {x : Args} {f : Nat → Nat → Nat} {s : State} (h : s.Canonical) : (laneWord x f s).Canonical :=
  .done (writeTy_canonical h)

theorem laneMask_canonical {s : State} {x : Args} {p : Nat → Bool} (h : s.Canonical) : (laneMask s x p).Canonical := setM_canonical h

theorem laneDot_canonical {x : Args} {w n : Nat} {mix : Bool} {s : State} (h : s.Canonical) : (laneDot x w n mix s).Canonical :=
  withFlags_canonical h (writeVec_canonical h)

/-! ### Float.lean -/

theorem laneResult_canonical {x : Args} {t : Ty} {f : Nat → Nat × Flags} {s : State} (h : s.Canonical) :
    (laneResult x t f s).Canonical := withFlags_canonical h (writeTy_canonical h)

theorem rounded_canonical {x : Args} {f : Mode → Val → Val → Val → Val} {s : State} (h : s.Canonical) : (rounded x f s).Canonical :=
  laneResult_canonical h

theorem approximate_canonical {x : Args} {f : Nat → Nat × Flags} {s : State} (h : s.Canonical) : (approximate x f s).Canonical :=
  laneResult_canonical h

/-! ### Fixed.lean -/

theorem afterAnchor_canonical {s : State} {x : Args} (h : s.Canonical) : (afterAnchor s x).Canonical :=
  ite_keeps (afterScalar_canonical h) h

theorem fxResult_canonical {x : Args} {w : Nat} {f : Nat → Int × Flags} {s : State} (h : s.Canonical) : (fxResult x w f s).Canonical :=
  withFlags_canonical h (writeVec_canonical h)

/-! ### Collective.lean -/

theorem collBody_canonical {x : Args} {s : State} (h : s.Canonical) : (collBody x s).Canonical :=
  ite_keeps (.done h) (ite_keeps (raiseEncoding_canonical h) (ite_keeps (raiseExec_canonical h) (whenReady_canonical h
    (fun _ h1 => ite_keeps (raisePoison_canonical (readAll_canonical h1)) (accept_canonical (readAll_canonical h1))))))

theorem updColl_canonical {s : State} {id : Nat} {f : Coll → Coll} (h : s.Canonical) : (updColl s id f).Canonical := { h with }

theorem updPart_canonical {s : State} {id rel : Nat} {f : Part → Part} (h : s.Canonical) : (updPart s id rel f).Canonical :=
  updColl_canonical h

theorem putVal_canonical {s : State} {id rel : Nat} {v : PVal} (h : s.Canonical) : (putVal s id rel v).Canonical := updPart_canonical h

theorem sendChunk_canonical {c : Coll} {src dest step : Nat} {v : PVal} {s : State} (h : s.Canonical) :
    (sendChunk c src dest step v s).Canonical := by
  unfold sendChunk
  split
  · exact { newId_canonical h with }
  · exact h

theorem settleFinal_canonical {c : Coll} {rel : Nat} {v : PVal} {s : State} (h : s.Canonical) : (settleFinal c rel v s).Canonical :=
  foldl_keeps (putVal_canonical h) (fun _ _ h1 => ite_keeps (sendChunk_canonical h1) h1)

theorem settlePartial_canonical {c : Coll} {rel : Nat} {v : PVal} {s : State} (h : s.Canonical) : (settlePartial c rel v s).Canonical :=
  ite_keeps (putVal_canonical h) (ite_keeps (settleFinal_canonical h) (sendChunk_canonical (putVal_canonical h)))

theorem chunkRecord_canonical {s : State} {p : Part} {id : DWord} {hop : BitVec 16} {extra : Word} (h : s.Canonical) :
    (chunkRecord s p id hop extra).Canonical := writeRecord_canonical h

theorem recordLoss_canonical {s : State} {c : Coll} {rel : Nat} {id : DWord} {hop : BitVec 16} {extra : Word} (h : s.Canonical) :
    (recordLoss s c rel id hop extra).Canonical := by
  unfold recordLoss
  split
  · exact chunkRecord_canonical h
  · exact h

theorem closeColl_canonical {s : State} {id : Nat} (h : s.Canonical) : (closeColl s id).Canonical := by
  unfold closeColl
  split
  · exact h
  · exact ite_keeps { h with } h

theorem noteLost_canonical {s : State} {c : Coll} {e : Lost} (h : s.Canonical) : (noteLost s c e).Canonical := by
  unfold noteLost
  refine closeColl_canonical (foldl_keeps (updColl_canonical h) ?_)
  intro _ _ h1
  split
  · exact ite_keeps h1 (startRollback_canonical h1)
  · exact h1

theorem loseChunk_canonical {s : State} {c : Coll} {x : Chunk} {hop : BitVec 16} {extra : Word} (h : s.Canonical) :
    (loseChunk s c x hop extra).Canonical := noteLost_canonical { recordLoss_canonical h with }

theorem updChunk_canonical {s : State} {n : Nat} {f : Chunk → Chunk} (h : s.Canonical) : (updChunk s n f).Canonical := { h with }

theorem dropChunk_canonical {s : State} {n : Nat} (h : s.Canonical) : (dropChunk s n).Canonical := { h with }

theorem badArrival_canonical {s : State} {c : Coll} {x : Chunk} {h' : BitVec 16} (h : s.Canonical) :
    (badArrival s c x h').Canonical := by
  unfold badArrival
  refine ite_keeps ?_ ?_
  · refine updChunk_canonical ?_
    split
    · exact countError_canonical h
    · exact h
  · dsimp only
    split
    · refine updChunk_canonical ?_
      split
      · exact uncorrected_canonical (countError_canonical h)
      · exact h
    · refine loseChunk_canonical ?_
      split
      · exact uncorrected_canonical (countError_canonical h)
      · exact h

theorem reduceArrival_canonical {s : State} {c : Coll} {x : Chunk} {p : Part} {v : PVal} {h' : BitVec 16} {adder : List (Nat × DWord)}
    (h : s.Canonical) : (reduceArrival s c x p v h' adder).Canonical :=
  ite_keeps (settlePartial_canonical (dropChunk_canonical (ite_keeps (chunkRecord_canonical h) h))) (ite_keeps (updChunk_canonical h)
    (loseChunk_canonical h))

theorem takeChunk_canonical {s : State} {c : Coll} {x : Chunk} {h' : BitVec 16} {adder : List (Nat × DWord)} (h : s.Canonical) :
    (takeChunk s c x h' adder).Canonical := by
  unfold takeChunk
  split
  · exact dropChunk_canonical h
  · refine ite_keeps (dropChunk_canonical h) (ite_keeps (settleFinal_canonical (dropChunk_canonical h)) ?_)
    refine ite_keeps (settlePartial_canonical (dropChunk_canonical h)) ?_
    split
    · exact ite_keeps (reduceArrival_canonical h) h
    · exact h

theorem leaveChunk_canonical {s : State} {x : Chunk} {h' : BitVec 16} (h : s.Canonical) : (leaveChunk s x h').Canonical := { h with }

theorem resendSent_canonical {s : State} {n : Nat} (h : s.Canonical) : (resendSent s n).Canonical := by
  unfold resendSent
  split
  · exact h
  · refine ite_keeps { h with } ?_
    split
    · exact loseChunk_canonical h
    · exact { h with }

theorem verifySent_canonical {s : State} {n : Nat} (h : s.Canonical) : (verifySent s n).Canonical :=
  foldl_keeps { h with } (fun _ _ h1 => closeColl_canonical h1)

theorem rerouteChunk_canonical {s : State} {c : Coll} {x : Chunk} {h' : BitVec 16} (h : s.Canonical) :
    (rerouteChunk s c x h').Canonical := ite_keeps (ite_keeps (updChunk_canonical h) (loseChunk_canonical h)) h

theorem goOn_canonical {s : State} {c : Coll} {x : Chunk} (h : s.Canonical) : (goOn s c x).Canonical := by
  unfold goOn
  refine ite_keeps (loseChunk_canonical h) ?_
  split
  · exact updChunk_canonical h
  · exact dropChunk_canonical h

theorem arriveChunk_canonical {s : State} {x : Chunk} {flips adder : List (Nat × DWord)} (h : s.Canonical) :
    (arriveChunk s x flips adder).Canonical := by
  unfold arriveChunk
  split
  · exact dropChunk_canonical h
  · exact goOn_canonical h
  · exact ite_keeps (rerouteChunk_canonical h) (ite_keeps (badArrival_canonical h) (ite_keeps (leaveChunk_canonical h)
      (ite_keeps (closeColl_canonical (takeChunk_canonical h)) (updChunk_canonical h))))

theorem execChunkArrival_canonical {n : Nat} {flips adder : List (Nat × DWord)} {s : State} (h : s.Canonical) :
    EndsCanonical (execChunkArrival n flips adder s) := by
  unfold execChunkArrival
  split
  · exact .next (ite_keeps h (arriveChunk_canonical h))
  · exact .next h

theorem endCmd_canonical {s : State} {id : Nat} {r : CmdRes} (h : s.Canonical) : (endCmd s id r).Canonical := updCmd_canonical h

theorem refuseAll_canonical {s : State} {c : Coll} (h : s.Canonical) : (refuseAll s c).Canonical := by
  unfold refuseAll
  refine closeColl_canonical (foldl_keeps h ?_)
  intro _ _ h1
  split
  · exact endCmd_canonical h1
  · exact h1

theorem gatherColl_canonical {s : State} {r : CollRec} (h : s.Canonical) : (gatherColl s r).1.Canonical := by
  unfold gatherColl
  split
  · exact h
  · exact { newId_canonical h with }

theorem beginColl_canonical {s : State} {c : Coll} (h : s.Canonical) : (beginColl s c).Canonical :=
  ite_keeps (updColl_canonical h) (ite_keeps (updColl_canonical (updColl_canonical h)) (refuseAll_canonical (updColl_canonical h)))

theorem joinColl_canonical {s : State} {cmd : Cmd} {r : CollRec} {es : List Nat} (h : s.Canonical) :
    (joinColl s cmd r es).Canonical := by
  unfold joinColl
  split
  · rename_i hr1
    have h1 := fst_canonical (gatherColl_canonical h) hr1
    exact beginColl_canonical h1
  · rename_i hr2
    have h2 := fst_canonical (gatherColl_canonical h) hr2
    exact h2

theorem startColl_canonical {c : Cmd} {ws : List Word} {va : DWord} {s : State} (h : s.Canonical) :
    (startColl c ws va s).Canonical := by
  unfold startColl
  refine ite_keeps (endCmd_canonical h) ?_
  split
  · rename_i hr
    exact ((engineRead_canonical h).of_error hr).of_ask rfl
  · exact endCmd_canonical (noteDenied_canonical h)
  · rename_i hr
    have h1 := (engineRead_canonical h).of_ok hr
    exact ite_keeps (joinColl_canonical h1) (endCmd_canonical h1)

theorem failSource_canonical {s : State} {c : Coll} {p : Part} {m : Cmd} {code : BitVec 8} {addr : Nat} (h : s.Canonical) :
    (failSource s c p m code addr).Canonical := closeColl_canonical (updColl_canonical (endCmd_canonical h))

theorem readSource_canonical {m : Cmd} {id rel : Nat} {r : CollRec} : ∀ {fuel : Nat} {s : State}, s.Canonical →
    (readSource m id rel r fuel s).Canonical
  | 0, _, h => h
  | fuel + 1, s, h => by
    unfold readSource
    split
    · exact h
    · split
      · exact h
      · refine ite_keeps h ?_
        dsimp only
        split
        · rename_i hr
          exact ((engineRead_canonical h).of_error hr).of_ask rfl
        · exact failSource_canonical (noteDenied_canonical h)
        · rename_i hr
          have h1 := (engineRead_canonical h).of_ok hr
          refine readSource_canonical (ite_keeps ?_ (settlePartial_canonical ?_))
          · exact updPart_canonical (ite_keeps (chunkRecord_canonical h1) h1)
          · exact updPart_canonical (ite_keeps (chunkRecord_canonical h1) h1)

theorem writeResults_canonical {m : Cmd} {id rel : Nat} {r : CollRec} : ∀ {l : List (Nat × Nat)} {s : State}, s.Canonical →
    (writeResults m id rel r l s).Canonical
  | [], _, h => h
  | _ :: _, _, h => by
    unfold writeResults
    split
    · exact h
    · split
      · exact h
      · split
        · exact writeResults_canonical h
        · extract_lets y
          split
          · rename_i hr
            exact (engineMay_canonical h _ hr).of_ask rfl
          · exact endCmd_canonical (noteDenied_canonical h)
          · refine writeResults_canonical (updPart_canonical (ite_keeps (chunkRecord_canonical ?_) ?_))
            · exact updCmd_canonical (engineWrite_canonical h)
            · exact updCmd_canonical (engineWrite_canonical h)

theorem endPart_canonical {m : Cmd} {id rel : Nat} {r : CollRec} {va : DWord} {s : State} (h : s.Canonical) :
    (endPart m id rel r va s).Canonical := by
  unfold endPart
  split
  · exact h
  · split
    · exact h
    · exact ite_keeps (closeColl_canonical (endCmd_canonical h)) h

theorem collTransfer_canonical {m : Cmd} {ws : List Word} {va : DWord} {s : State} (h : s.Canonical) :
    (collTransfer m ws va s).Canonical := by
  unfold collTransfer
  dsimp only
  split
  · exact ite_keeps h (startColl_canonical h)
  · refine ite_keeps (ite_keeps h (startColl_canonical h)) ?_
    split
    · exact readSource_canonical (ite_keeps h (startColl_canonical h))
    · exact endPart_canonical (writeResults_canonical (readSource_canonical (ite_keeps h (startColl_canonical h))))

theorem execCollJoinTimeout_canonical {cid : BitVec 16} {s : State} (h : s.Canonical) : EndsCanonical (execCollJoinTimeout cid s) := by
  unfold execCollJoinTimeout
  split
  · exact .next (ite_keeps (refuseAll_canonical h) h)
  · exact .next h

theorem execCollFailureNotice_canonical {cid : BitVec 16} {s : State} (h : s.Canonical) :
    EndsCanonical (execCollFailureNotice cid s) := by
  unfold execCollFailureNotice
  split
  · exact .next (refuseAll_canonical h)
  · exact .next h

/-! ### CrossLane.lean -/

theorem moveLanes_canonical {x : Args} {src : Nat → Option Nat} {s : State} (h : s.Canonical) : (moveLanes x src s).Canonical :=
  ite_keeps (.raise h) (.done (writeTy_canonical h))

theorem writeWords_canonical {s : State} {x : Args} {n : Nat} {words : Nat → List Word} (h : s.Canonical) :
    (writeWords s x n words).Canonical := foldl_keeps (latchKind_canonical h) (fun _ _ h1 => setVs_canonical (setLatch_canonical h1))

/-! ### Memory.lean -/

theorem markLoaded_canonical {s : State} {x : Args} {l : List (Elem × List Byte × Bool)} (h : s.Canonical) :
    (markLoaded s x l).Canonical := foldl_keeps h (fun _ _ h1 => foldl_keeps h1 (fun _ _ h2 => markPoison_canonical h2))

theorem writeLoaded_canonical {s : State} {x : Args} {l : List (Elem × List Byte × Bool)} (h : s.Canonical) :
    (writeLoaded s x l).Canonical := markLoaded_canonical (writeTy_canonical h)

theorem writeScalarTy_canonical {s : State} {x : Args} {v : Nat} (h : s.Canonical) : (writeScalarTy s x v).Canonical :=
  ite_keeps (resultPair_canonical h) (resultS_canonical h)

theorem deferMem_canonical {s : State} {x : Args} {lcl scalar : Bool} {elems : List (Nat × Nat)} {data : List (List Byte × Bool)}
    (h : s.Canonical) : (deferMem s x lcl scalar elems data).Canonical := { newId_canonical h with g := { h.g with } }

theorem deferLoad_canonical {s : State} {x : Args} {lcl scalar : Bool} {elems : List (Nat × Nat)} (h : s.Canonical) :
    (deferLoad s x lcl scalar elems).Canonical := deferMem_canonical h

theorem takeScalar_canonical {s : State} {x : Args} {v : Nat} {sick : Bool} {va : Nat} (h : s.Canonical) :
    (takeScalar s x v sick va).Canonical :=
  ite_keeps (foldl_keeps (writeScalarTy_canonical h) (fun _ _ h1 => markPoison_canonical h1)) (writeScalarTy_canonical h)

theorem loadScalar_canonical {s : State} {x : Args} (h : s.Canonical) : (loadScalar s x).Canonical :=
  whenReady_canonical h (fun _ h1 => ite_keeps (.done (deferLoad_canonical h1)) (.done (takeScalar_canonical (readElem_canonical h1))))

theorem storeScalar_canonical {s : State} {x : Args} {keep : Bool} (h : s.Canonical) : (storeScalar s x keep).Canonical :=
  storeElems_canonical h (fun _ h1 => .done h1)

theorem loadLanes_canonical {s : State} {x : Args} {addr : Nat → Nat} (h : s.Canonical) : (loadLanes s x addr).Canonical := by
  unfold loadLanes
  exact whenReady_canonical h (fun _ h1 => ite_keeps (.done (deferLoad_canonical h1)) (.done (writeLoaded_canonical
      (readAll_canonical h1))))

theorem storeLanes_canonical {s : State} {x : Args} {addr : Nat → Nat} (h : s.Canonical) : (storeLanes s x addr).Canonical :=
  storeElems_canonical h (fun _ h1 => .done h1)

theorem prefetch_canonical {s : State} {x : Args} (h : s.Canonical) : (prefetch s x).Canonical := by
  unfold prefetch
  dsimp only
  split
  · exact ite_keeps h (coreRead_canonical (fillPac_canonical h))
  · exact h

theorem loadLocal_canonical {s : State} {x : Args} (h : s.Canonical) : (loadLocal s x).Canonical := by
  unfold loadLocal
  exact lclChecked_canonical h (fun _ h1 => ite_keeps (.done (deferLoad_canonical h1)) (.done (writeLoaded_canonical h1)))

theorem writeLate_canonical {s : State} {y : Late} {lane v : Nat} (h : s.Canonical) : (writeLate s y lane v).Canonical :=
  ite_keeps (ite_keeps (setPair_canonical (latchLate_canonical h)) (setS_canonical (latchLate_canonical h))) (setVs_canonical
    (latchLane_canonical h))

theorem performElem_canonical {y : Late} {s : State} {e : Nat × Nat} (h : s.Canonical) : (performElem y s e).Canonical :=
  ite_keeps (foldl_keeps (writeLate_canonical (ite_fst_canonical h (ite_fst_canonical h (readElem_canonical h))))
    (fun _ _ h1 => markPoison_canonical h1)) (writeLate_canonical (ite_fst_canonical h (ite_fst_canonical h (readElem_canonical h))))

theorem leaveLate_canonical {s : State} {id : Nat} {elems : List (Nat × Nat)} (h : s.Canonical) : (leaveLate s id elems).Canonical :=
  { h with g := { h.g with } }

theorem performLate_canonical {s : State} {id k : Nat} (h : s.Canonical) : (performLate s id k).Canonical := by
  unfold performLate
  split
  · exact h
  · refine ite_keeps ?_ (leaveLate_canonical (foldl_keeps h (fun _ _ h1 => lclWrite_canonical h1)))
    split
    · exact ite_keeps (leaveLate_canonical (foldl_keeps h (fun _ _ h2 => performElem_canonical h2))) h
    · exact leaveLate_canonical h

theorem performHits_canonical {hit : Nat → Nat → Bool} {s : State} (h : s.Canonical) : (performHits hit s).Canonical :=
  foldl_keeps h (fun _ _ h1 => leaveLate_canonical (foldl_keeps h1 (fun _ _ h2 => performElem_canonical h2)))

theorem performBefore_canonical {s : State} {hit : Nat → BitVec 16 → Nat → Bool} (h : s.Canonical) : (performBefore s hit).Canonical :=
  ite_keeps h (focus_canonical (foldl_keeps h (fun _ _ h1 => performHits_canonical (focusGroup_canonical h1))))

theorem storeLocal_canonical {s : State} {x : Args} (h : s.Canonical) : (storeLocal s x).Canonical := by
  unfold storeLocal
  exact lclChecked_canonical h (fun _ h1 => ite_keeps (.done (deferMem_canonical h1))
      (.done (foldl_keeps h1 (fun _ _ h2 => lclWrite_canonical h2))))

theorem walkChecked_canonical {i : Shape} {s : State} {x : Args} {store : Bool} {k : TRec → Res} (h : s.Canonical)
    (hk : ∀ t, (k t).Canonical) : (walkChecked i s x store k).Canonical :=
  ite_keeps (.done h) (withHandle_canonical h (fun _ => ite_keeps (raiseHandle_canonical h) (ite_keeps (raiseEncoding_canonical h)
    (ite_keeps (raiseHandle_canonical h) (ite_keeps (.raise h) (hk _))))))

theorem walkLater_canonical {s : State} {x : Args} {late : List (Nat × Nat)} {val : Nat → Nat} (h : s.Canonical) :
    (walkLater s x late val).Canonical := writeTy_canonical (deferLoad_canonical h)

theorem walkDense_canonical {s : State} {x : Args} {h' : TRec} (h : s.Canonical) : (walkDense s x h').Canonical := by
  unfold walkDense
  exact whenReady_canonical h (fun _ h1 => ite_keeps (.done (walkLater_canonical h1)) (.done (markLoaded_canonical (writeTy_canonical
      (readAll_canonical h1)))))

theorem walkLane_canonical {x : Args} {r : TRec} {s : State} {cs : List Int} {l : Nat} (h : s.Canonical) :
    ExceptAll Res.Canonical LaneWalk.Canonical (walkLane x r s cs l) := by
  unfold walkLane
  split
  · exact .ok ⟨h⟩
  · have h1 := fun ds lv => walk_keeps (laneLoad_keeps (keep := keepHint x) (lane := l)) (ds := ds) (lv := lv) (k := 0) h
    split
    · rename_i hr
      exact .error ((h1 _ _).of_error hr)
    · rename_i hr
      exact .ok ⟨(h1 _ _).of_ok hr⟩
    · rename_i hr
      have h2 := (h1 _ _).of_ok hr
      dsimp only
      split
      · have h3 := fun a => whenReady_canonical (x := a) (k := fun t => .done t) h2 fun _ h => .done h
        split
        · rename_i hr
          exact .ok ⟨(h3 _).of_done hr⟩
        · exact .error (h3 _)
      · split
        · rename_i hr
          exact .error ((tryLoad_canonical h2).of_error hr)
        · rename_i hr
          exact .ok ⟨(tryLoad_canonical h2).of_ok hr⟩

theorem walkMore_canonical {x : Args} {r : TRec} {rank : Nat} {a : Walks} {l : Nat} (h : a.Canonical) :
    (walkMore x r rank a l).Canonical := by
  unfold walkMore
  split
  · rename_i hr
    exact ⟨((walkLane_canonical h.s).of_ok hr).s⟩
  · rename_i hr
    exact ⟨((walkLane_canonical h.s).of_error hr).of_raise rfl⟩
  · rename_i hr
    exact ⟨((walkLane_canonical h.s).of_error hr).of_wait rfl⟩
  · exact h

theorem walkLanes_canonical {x : Args} {h' : TRec} {rank : Nat} {lanes : List Nat} {s : State} (h : s.Canonical) :
    ExceptAll Res.Canonical Walks.Canonical (walkLanes x h' rank lanes s) := by
  unfold walkLanes
  dsimp only
  split
  · exact .error (.raise { h with })
  · exact .error (.wait { h with })
  · exact .ok (foldl_keeps { s := h } (fun _ _ h1 => walkMore_canonical h1))

theorem loadWalk_canonical {i : Shape} {s : State} {x : Args} (h : s.Canonical) : (loadWalk i s x).Canonical := by
  unfold loadWalk
  refine walkChecked_canonical h fun _ => ite_keeps (walkDense_canonical h) ?_
  split
  · rename_i hr1
    have h1 := (walkLanes_canonical h).of_error hr1
    exact h1
  · rename_i hr2
    have h2 := (walkLanes_canonical h).of_ok hr2
    exact ite_keeps (.done (markLoaded_canonical (writeTy_canonical h2.s))) (.done (walkLater_canonical h2.s))

theorem storeWalk_canonical {i : Shape} {s : State} {x : Args} (h : s.Canonical) : (storeWalk i s x).Canonical :=
  walkChecked_canonical h (fun _ => storeElems_canonical h (fun _ h1 => .done h1))

theorem atomLanes_canonical {a : AtomOp} : ∀ {l : List AtomLane} {s : State} {w : Nat}, s.Canonical → (atomLanes a l s w).1.Canonical
  | [], _, _, h => h
  | _ :: t, _, _, h => ite_keeps (p := fun r : State × Nat × List AtomLane => r.1.Canonical) (atomLanes_canonical (l := t) h)
      (atomLanes_canonical (l := t) (atomOne_canonical h))

theorem atomStart_canonical {s : State} {x : Args} {a : AtomOp} {op : Nat} {next : DWord} (h : s.Canonical) :
    (atomStart s x a op next).Canonical := by
  unfold atomStart
  exact whenReady_canonical h (fun _ h1 => .wait { ite_fst_canonical (ite_keeps (markUnroll_canonical h1) h1) (atomLanes_canonical
      (ite_keeps (markUnroll_canonical h1) h1)) with })

theorem atomBody_canonical {s : State} {x : Args} {a : AtomOp} {op : Nat} {next : DWord} (h : s.Canonical) :
    (atomBody s x a op next).Canonical := by
  unfold atomBody
  split
  · exact ite_keeps (.done h) (atomStart_canonical h)
  · exact ite_keeps (.wait h) (.done (writeTy_canonical { h with }))

theorem loadAcquire_canonical {s : State} {x : Args} {next : DWord} (h : s.Canonical) : (loadAcquire s x next).Canonical := by
  unfold loadAcquire
  split
  · exact withAcquire_canonical h (fun _ h1 => .done (takeScalar_canonical { h1 with }))
  · exact whenReady_canonical h (fun _ h2 => ite_keeps (.done (takeScalar_canonical (acquire_canonical (readElem_canonical h2))))
      (.wait { readElem_canonical h2 with }))

theorem reduceLanes_canonical {s : State} {x : Args} (h : s.Canonical) : (reduceLanes s x).Canonical :=
  reduceElems_canonical h (fun _ h1 => .done h1)

theorem withTable_canonical {s : State} {x : Args} {k : State → List Nat → Res} (h : s.Canonical) (hk : ∀ t a, t.Canonical →
    (k t a).Canonical) : (withTable s x k).Canonical := by
  unfold withTable
  refine ite_keeps (.done h) ?_
  split
  · rename_i hr1
    have h1 := (tryLoad_canonical h).of_error hr1
    exact h1
  · rename_i hr2
    have h2 := (tryLoad_canonical h).of_ok hr2
    exact ite_keeps (raisePoison_canonical h2) (hk _ _ h2)

theorem multicast_canonical {s : State} {x : Args} (h : s.Canonical) : (multicast s x).Canonical :=
  withTable_canonical h (fun _ _ h1 => storeWith_canonical h1 (fun _ _ h2 => foldl_keeps h2 (fun _ _ h3 => putOne_canonical h3))
    (fun _ h4 => .done h4))

theorem multicastReduce_canonical {s : State} {x : Args} (h : s.Canonical) : (multicastReduce s x).Canonical := by
  unfold multicastReduce
  exact withTable_canonical h (fun _ _ h1 => whenReady_canonical h1 (fun _ h2 => .done (foldl_keeps h2
      (fun _ _ h3 => reduceOne_canonical h3))))

theorem loadRecord_canonical {s : State} {va : Nat} {k : State → List Word → Res} (h : s.Canonical) (hk : ∀ t a, t.Canonical →
    (k t a).Canonical) : (loadRecord s va k).Canonical := by
  unfold loadRecord
  refine ite_keeps (raiseExec_canonical h) ?_
  split
  · rename_i hr1
    have h1 := (tryLoad_canonical h).of_error hr1
    exact h1
  · rename_i hr2
    have h2 := (tryLoad_canonical h).of_ok hr2
    exact ite_keeps (raisePoison_canonical h2) (hk _ _ h2)

theorem takeRecord_canonical {s : State} {x : Args} {addr : DWord} {ws : List Word} (h : s.Canonical) :
    (takeRecord s x addr ws).Canonical := ite_keeps (.done (setHandle_canonical h)) (raiseExec_canonical h)

theorem execHset_canonical {x : Args} {s : State} (h : s.Canonical) : EndsCanonical (execHset x s) := by
  unfold execHset
  refine run_canonical ?_ h
  intro _ h1
  dsimp only
  split
  · exact raiseExec_canonical h1
  · split
    · exact .done (setHandle_canonical h1)
    · exact raiseExec_canonical h1

/-! ### Product.lean -/

theorem setElem_canonical {t : Tile} {i j v : Nat} (ht : t.Canonical) : (setElem t i j v).Canonical :=
  { elems := cellsWf_poke _ _ ht.elems }

theorem accumElem_canonical {t : Tile} {q : Quarter} {i j : Nat} {ps : List Val} (ht : t.Canonical) :
    (accumElem t q i j ps).Canonical := ite_keeps { setElem_canonical ht with } { setElem_canonical ht with }

theorem addCheck_canonical {t : Tile} {j : Nat} {ps : List Val} (ht : t.Canonical) : (addCheck t j ps).Canonical := by
  unfold addCheck
  split
  · exact { ht with }
  · exact { ht with }

theorem quarterElem_canonical {q : Quarter} {checks : Bool} {t : Tile} {i j : Nat} {a b : List (Nat × Nat)} (ht : t.Canonical) :
    (quarterElem q checks t i j a b).Canonical :=
  ite_keeps (addCheck_canonical (accumElem_canonical ht)) { accumElem_canonical ht with }

theorem runQuarter_canonical {s : State} {q : Quarter} {checks : Bool} {t : Tile} (ht : t.Canonical) :
    (runQuarter s q checks t).Canonical := by
  unfold runQuarter
  refine foldl_keeps ht fun _ _ h1 => ?_
  split
  · exact h1
  · exact foldl_keeps h1 (fun _ _ h2 => quarterElem_canonical h2)

theorem countPass_canonical {acc k : Nat} {t : Tile} (ht : t.Canonical) : (countPass acc k t).Canonical :=
  ite_keeps { ht with } { ht with }

theorem resetCheck_canonical {checks : Bool} {t : Tile} (ht : t.Canonical) : (resetCheck checks t).Canonical :=
  ite_keeps { ht with } { ht with }

/-! ### Matrix.lean -/

theorem withReadySlot_canonical {s : State} {n : Nat} {k : Slot → Res} (h : s.Canonical) (hk : ∀ t, t.Canonical → (k t).Canonical) :
    (withReadySlot s n k).Canonical :=
  ite_keeps (raiseExec_canonical h) (ite_keeps (.wait h) (ite_keeps (raiseExec_canonical h) (ite_keeps (.wait h)
    (hk _ (slotAt_canonical h.tm)))))

theorem withReadyTile_canonical {s : State} {n : Nat} {k : Tile → Res} (h : s.Canonical) (hk : ∀ t, t.Canonical → (k t).Canonical) :
    (withReadyTile s n k).Canonical := ite_keeps (raiseExec_canonical h) (ite_keeps (.wait h) (hk _ (tileAt_canonical h.tm)))

theorem withQuietTile_canonical {s : State} {n : Nat} {k : Tile → Res} (h : s.Canonical) (hk : ∀ t, t.Canonical → (k t).Canonical) :
    (withQuietTile s n k).Canonical := withReadyTile_canonical h (fun _ h1 => ite_keeps (.wait h) (hk _ h1))

theorem withFreeTile_canonical {s : State} {n : Nat} {k : Tile → Res} (h : s.Canonical) (hk : ∀ t, t.Canonical → (k t).Canonical) :
    (withFreeTile s n k).Canonical := ite_keeps (raiseExec_canonical h) (ite_keeps (.wait h) (hk _ (tileAt_canonical h.tm)))

theorem withModeTile_canonical {s : State} {n : Nat} {k : Tile → Res} (h : s.Canonical) (hk : ∀ t, t.Canonical → (k t).Canonical) :
    (withModeTile s n k).Canonical :=
  withReadyTile_canonical h (fun _ h1 => ite_keeps (raiseExec_canonical h) (ite_keeps (.wait h) (hk _ h1)))

theorem withQuietModeTile_canonical {s : State} {n : Nat} {k : Tile → Res} (h : s.Canonical) (hk : ∀ t, t.Canonical → (k t).Canonical) :
    (withQuietModeTile s n k).Canonical :=
  withReadyTile_canonical h (fun _ h1 => ite_keeps (raiseExec_canonical h) (ite_keeps (.wait h) (hk _ h1)))

theorem cleanSlot_canonical {s : State} {n : Nat} {o : Slot} {k : Res} (h : s.Canonical) (hk : k.Canonical) :
    (cleanSlot s n o k).Canonical := ite_keeps (raiseExec_canonical h) hk

theorem cleanTile_canonical {s : State} {n : Nat} {t : Tile} {k : Res} (h : s.Canonical) (hk : k.Canonical) :
    (cleanTile s n t k).Canonical := ite_keeps (raiseExec_canonical h) hk

theorem setName_canonical {owned : Bool} {s : State} {n : Nat} (h : s.Canonical) : (setName owned s n).Canonical :=
  ite_keeps (updSlot_canonical h (fun _ _ => { Slot.none_canonical with })) (updTile_canonical h (fun _ _ =>
    { Tile.none_canonical with }))

theorem claimBody_canonical {x : Args} {s : State} (h : s.Canonical) : (claimBody x s).Canonical := by
  unfold claimBody
  refine ite_keeps (.done h) ?_
  split
  · exact raiseExec_canonical h
  · exact .done (foldl_keeps h (fun _ _ h1 => setName_canonical h1))

theorem releaseBody_canonical {x : Args} {s : State} (h : s.Canonical) : (releaseBody x s).Canonical := by
  unfold releaseBody
  refine ite_keeps (.done h) ?_
  split
  · exact raiseExec_canonical h
  · exact ite_keeps (.wait h) (.done (foldl_keeps h (fun _ _ h1 => setName_canonical h1)))

theorem fillBytesOf_canonical {s : State} {tr b8 : Bool} {addr pitch lines : Nat} {sc : Option Nat} :
    cellsWf (fillBytesOf s tr b8 addr pitch lines sc) = true := by
  unfold fillBytesOf
  split
  · exact cellsWf_pokeAll _ _ _ (foldl_cellsWf cellsWf_nil (fun _ _ h1 => foldl_cellsWf h1 (fun _ _ h2 => cellsWf_poke _ _ h2)))
  · exact foldl_cellsWf cellsWf_nil (fun _ _ h3 => foldl_cellsWf h3 (fun _ _ h4 => cellsWf_poke _ _ h4))

theorem fillSlotBody_canonical {i : Shape} {x : Args} {s : State} (h : s.Canonical) : (fillSlotBody i x s).Canonical := by
  unfold fillSlotBody
  extract_lets n addr shape lines pitch span sc put
  have hput : ∀ s, s.Canonical → (put s).Canonical := fun _ h =>
    withFreeSlot_canonical h (.done (trackMove_canonical (updSlot_canonical h fun _ _ => { bytes := fillBytesOf_canonical })))
  refine ite_keeps (.done h) (ite_keeps (raiseEncoding_canonical h) ?_)
  cases sc with
  | none => exact lclRegion_canonical h hput
  | some _ => exact ite_keeps (raiseExec_canonical h) (lclRegion_canonical h fun _ h => lclRegion_canonical h hput)

theorem enqueueQuarters_canonical {s : State} {x : Args} {a : AOp} {b m n k : Nat} (h : s.Canonical) :
    (enqueueQuarters s x a b m n k).Canonical := ite_keeps (.wait h) (.done { newId_canonical h with })

theorem productBody_canonical {i : Shape} {x : Args} {s : State} (h : s.Canonical) : (productBody i x s).Canonical := by
  unfold productBody
  split
  · exact raiseEncoding_canonical h
  · exact ite_keeps (raiseEncoding_canonical h) (ite_keeps (.done h) (withReadySlot_canonical h (fun _ _ => withReadySlot_canonical h
      (fun _ _ => withModeTile_canonical h (fun _ _ => cleanSlot_canonical h (cleanSlot_canonical h (cleanTile_canonical h
      (enqueueQuarters_canonical h))))))))

theorem withRows_canonical {s : State} {r : TRec} {scaled : Bool} {k0 : Nat} {ids : List Nat} {kk : Nat}
    {k : State → List (Option (List (Nat × Nat))) → Res} (h : s.Canonical) (hk : ∀ t a, t.Canonical → (k t a).Canonical) :
    (withRows s r scaled k0 ids kk k).Canonical := by
  unfold withRows
  extract_lets rows
  split
  · rename_i hr
    exact (tryLoad_canonical h).of_error hr
  · rename_i hr
    have hl := (tryLoad_canonical h).of_ok hr
    split
    · rename_i hr
      exact (tryLoad_canonical hl).of_error hr
    · rename_i hr
      have hs := (tryLoad_canonical hl).of_ok hr
      exact ite_keeps (raisePoison_canonical hs) (ite_keeps (raisePoison_canonical hs) (hk _ _ hs))

theorem rowProductBody_canonical {i : Shape} {x : Args} {s : State} (h : s.Canonical) : (rowProductBody i x s).Canonical := by
  unfold rowProductBody
  dsimp only
  split
  · exact raiseEncoding_canonical h
  · refine ite_keeps (raiseEncoding_canonical h) (ite_keeps (.done h) ?_)
    refine withHandle_canonical h fun _ => ite_keeps (raiseHandle_canonical h) (lclRegion_canonical h ?_)
    intro _ h1
    refine withReadySlot_canonical h1 fun _ _ => withModeTile_canonical h1 fun _ _ => cleanSlot_canonical h1 (cleanTile_canonical h1 ?_)
    split
    · exact raiseExec_canonical h1
    · exact ite_keeps (.wait h1) (withRows_canonical h1 (fun _ _ h2 => enqueueQuarters_canonical h2))

theorem filledTile_canonical {t : Tile} {acc v : Nat} {anchor : BitVec 16} : (filledTile t acc v anchor).Canonical := by
  unfold filledTile
  with_reducible exact { elems := cellsWf_pokeAll _ _ _ cellsWf_nil }

theorem clearBody_canonical {x : Args} {s : State} (h : s.Canonical) : (clearBody x s).Canonical :=
  ite_keeps (.done h) (withFreeTile_canonical h (fun _ _ => .done (updTile_canonical h (fun _ _ => resetCheck_canonical
    filledTile_canonical))))

theorem startDrain_canonical {s : State} {n : Nat} {fl : Flags} (h : s.Canonical) : (startDrain s n fl).Canonical :=
  updTile_canonical h (fun _ h1 => { h1 with })

theorem drainBody_canonical {i : Shape} {x : Args} {s : State} (h : s.Canonical) : (drainBody i x s).Canonical :=
  ite_keeps (.done h) (ite_keeps (raiseExec_canonical h) (ite_keeps (raiseEncoding_canonical h) (lclRegion_canonical h
    (fun _ h1 => withQuietModeTile_canonical h1 (fun _ _ => cleanTile_canonical h1 (.done (trackMove_canonical (startDrain_canonical
    (foldl_keeps h1 (fun _ _ h2 => lclWrite_canonical h2))))))))))

theorem drainRawBody_canonical {x : Args} {s : State} (h : s.Canonical) : (drainRawBody x s).Canonical :=
  ite_keeps (.done h) (lclRegion_canonical h (fun _ h1 => withQuietTile_canonical h1 (fun _ _ => ite_keeps
    (.done (trackMove_canonical (startDrain_canonical (lclWrite_canonical (foldl_keeps h1 (fun _ _ h2 => lclWrite_canonical h2))))))
    (cleanTile_canonical h1 (.done (trackMove_canonical (startDrain_canonical (lclWrite_canonical (foldl_keeps h1
    (fun _ _ h3 => lclWrite_canonical h3))))))))))

theorem drainSlotBody_canonical {x : Args} {s : State} (h : s.Canonical) : (drainSlotBody x s).Canonical :=
  ite_keeps (.done h) (lclRegion_canonical h (fun _ h1 => withReadySlot_canonical h1 (fun _ _ => ite_keeps
    (.done (trackMove_canonical (updSlot_canonical (foldl_keeps h1 (fun _ _ h2 => lclWrite_canonical h2)) (fun _ h3 => { h3 with }))))
    (cleanSlot_canonical h1 (.done (trackMove_canonical (updSlot_canonical (foldl_keeps h1 (fun _ _ h4 => lclWrite_canonical h4))
    (fun _ h5 => { h5 with }))))))))

theorem setTile_canonical {f : MFmt} {vals : List (Nat × Nat)} {sick : Bool} {t : Tile} : (setTile f vals sick t).Canonical :=
  { elems := foldl_cellsWf cellsWf_nil (fun _ _ h1 => cellsWf_poke _ _ h1) }

theorem addElem_canonical {f : MFmt} {t : Tile} {e v : Nat} (ht : t.Canonical) : (addElem f t e v).Canonical :=
  ite_keeps { elems := cellsWf_poke _ _ ht.elems } { elems := cellsWf_poke _ _ ht.elems }

theorem addLoaded_canonical {f : MFmt} {vals : List (Nat × Nat)} {t : Tile} (ht : t.Canonical) : (addLoaded f vals t).Canonical := by
  unfold addLoaded
  refine foldl_keeps { foldl_keeps ht (by exact fun _ _ h1 => addCheck_canonical h1) with } fun _ _ h2 => ?_
  split
  · exact { h2 with }
  · exact { h2 with }

theorem loadTileBody_canonical {i : Shape} {x : Args} {add : Bool} {s : State} (h : s.Canonical) :
    (loadTileBody i x add s).Canonical := by
  unfold loadTileBody
  refine ite_keeps (.done h) (ite_keeps (raiseEncoding_canonical h) (lclRegion_canonical h fun s h => ite_keeps ?_ ?_))
  · refine withReadyTile_canonical h fun t _ => ite_keeps (raiseExec_canonical h) (ite_keeps (.wait h) ?_)
    refine cleanTile_canonical h (.done (trackMove_canonical (updTile_canonical h fun t ht => ?_)))
    extract_lets u u'
    have hu : u.Canonical := foldl_keeps (p := Tile.Canonical) ht fun _ _ h => addElem_canonical h
    have hu' : u'.Canonical := ite_keeps (addLoaded_canonical hu) hu
    exact { hu' with }
  · exact withFreeTile_canonical h fun _ _ =>
      .done (trackMove_canonical (updTile_canonical h fun _ _ => resetCheck_canonical setTile_canonical))

theorem loadRawBody_canonical {x : Args} {s : State} (h : s.Canonical) : (loadRawBody x s).Canonical := by
  unfold loadRawBody
  with_reducible
    exact ite_keeps (.done h) (lclRegion_canonical h (fun _ h1 => withFreeTile_canonical h1 (fun _ _ => .done (trackMove_canonical
        (updTile_canonical h1 (fun _ _ => resetCheck_canonical { elems := foldl_cellsWf cellsWf_nil (fun _ _ h2 => cellsWf_poke _ _ h2)
        }))))))

theorem checkBody_canonical {x : Args} {dest : Option Nat} {s : State} (h : s.Canonical) : (checkBody x dest s).Canonical := by
  unfold checkBody
  refine ite_keeps (.done h) (withQuietModeTile_canonical h ?_)
  intro _ _
  refine cleanTile_canonical h ?_
  split
  · exact .done (resultS_canonical h)
  · exact ite_keeps (raiseExec_canonical h) (ite_keeps (raiseExec_canonical h) (.done h))

theorem execFillDrainComplete_canonical {tid idx : Nat} {s : State} (h : s.Canonical) :
    EndsCanonical (execFillDrainComplete tid idx s) :=
  ite_keeps (ite_keeps (.next h) (.next (endMove_canonical (updSlot_canonical h (fun _ h1 => ite_keeps { h1 with } h1)))))
    (.next (endMove_canonical (updTile_canonical h (fun _ h2 => ite_keeps { h2 with } h2))))

/-! ### GangProduct.lean -/

theorem updRdv_canonical {s : State} {gang op : Nat} {f : Rendezvous → Rendezvous} (h : s.Canonical) : (updRdv s gang op f).Canonical :=
  updGang_canonical h

theorem blockSlots_canonical {s : State} {tid addr : Nat} {scaled : Bool} : ∀ m ∈ blockSlots s tid addr scaled, cellsWf m = true :=
  map_keeps fun _ _ => ite_cellsWf (cellsWf_pokeAll _ _ _ (cellsWf_pokeAll _ _ _ cellsWf_nil)) (cellsWf_pokeAll _ _ _ cellsWf_nil)

theorem deliverTo_canonical {s : State} {gang : Nat} {words : List Word} {j : Joined} (h : s.Canonical) :
    (deliverTo s gang words j).Canonical := by
  unfold deliverTo
  extract_lets teams f src w ta tb lines sick
  have hl : ∀ m ∈ lines, cellsWf m = true := append_keeps blockSlots_canonical blockSlots_canonical
  refine foldl_mem_keeps (p := State.Canonical) h fun s e he h => updSlot_canonical h fun _ _ => ⟨hl _ ?_⟩
  exact (List.of_mem_zip (List.of_mem_zip he).2).1

theorem nextPass_canonical {s : State} {gang op : Nat} {words : List Word} {j : Joined} (h : s.Canonical) :
    (nextPass s gang op words j).Canonical := by
  unfold nextPass
  split
  · exact h
  · exact ite_keeps h { newId_canonical h with }

theorem beginRdv_canonical {s : State} {gang op : Nat} (h : s.Canonical) : (beginRdv s gang op).Canonical := by
  unfold beginRdv
  split
  · exact h
  · exact ite_keeps h (ite_keeps (updRdv_canonical h) (foldl_keeps (foldl_keeps (updRdv_canonical h) (fun _ _ h1 => deliverTo_canonical
      h1)) (fun _ _ h2 => nextPass_canonical h2)))

theorem joinRdv_canonical {s : State} {op : Nat} {j : Joined} (h : s.Canonical) : (joinRdv s op j).Canonical :=
  beginRdv_canonical (updRdv_canonical (ite_keeps h (updGang_canonical h)))

theorem leaveRdv_canonical {s : State} {op : Nat} (h : s.Canonical) : (leaveRdv s op).Canonical := updGang_canonical { h with }

theorem mmagJoin_canonical {x : Args} {next : DWord} {op : Nat} {first lit : Bool} {s : State} (h : s.Canonical) :
    (mmagJoin x next op first lit s).Canonical :=
  withRelease_canonical h (fun _ h1 => ite_keeps (.wait h1) (ite_keeps (.wait h1) (ite_keeps (.wait h1)
    (.wait (joinRdv_canonical { ite_keeps { h1 with tm := { h1.tm with } } h1 with })))))

theorem mmagBody_canonical {i : Shape} {x : Args} {s : State} (h : s.Canonical) : (mmagBody i x s).Canonical := by
  unfold mmagBody
  refine ite_keeps (.done h) ?_
  split
  · dsimp only
    split
    · exact .done { h with }
    · refine ite_keeps (.done (leaveRdv_canonical h)) (ite_keeps (ite_keeps (.wait h) (mmagJoin_canonical h)) ?_)
      split
      · exact ite_keeps (raiseEncoding_canonical (leaveRdv_canonical h)) (raiseExec_canonical (leaveRdv_canonical h))
      · exact .wait h
  · split
    · exact raiseEncoding_canonical h
    · exact mmagJoin_canonical h

theorem startPass_canonical {s : State} {core : Nat} {l : List Quarter} (h : s.Canonical) : (startPass s core l).Canonical :=
  { newId_canonical h with }

theorem execPassStart_canonical {core : Nat} {s : State} (h : s.Canonical) : EndsCanonical (execPassStart core s) := by
  unfold execPassStart
  split
  · exact .next (startPass_canonical h)
  · exact .next h

theorem applyPass_canonical {s : State} {p : Pass} (h : s.Canonical) : (applyPass s p).Canonical :=
  foldl_keeps (foldl_keeps h (fun _ _ h1 => updTile_canonical h1 (fun _ h2 => ite_keeps { runQuarter_canonical h2 with }
    (runQuarter_canonical h2)))) (fun _ _ h3 => ite_keeps (updTile_canonical h3 (fun _ h4 => countPass_canonical h4)) h3)

theorem endMmag_canonical {s : State} {p : Pass} (h : s.Canonical) : (endMmag s p).Canonical := by
  unfold endMmag
  split
  · split
    · exact h
    · refine ite_keeps h (ite_keeps (updRdv_canonical h) ?_)
      split
      · exact nextPass_canonical (updRdv_canonical h)
      · exact updRdv_canonical h
  · exact h

theorem endPass_canonical {s : State} {p : Pass} (h : s.Canonical) : (endPass s p).Canonical :=
  endMmag_canonical { applyPass_canonical h with }

theorem execPassEnd_canonical {pass : Nat} {s : State} (h : s.Canonical) : EndsCanonical (execPassEnd pass s) := by
  unfold execPassEnd
  split
  · exact ite_keeps (.next (endPass_canonical h)) (.next h)
  · exact .next h

theorem rdvRecord_canonical {s : State} {tid op : Nat} {w : Who} (h : s.Canonical) : (rdvRecord s tid op w).Canonical :=
  writeRecord_canonical h

theorem fireRdv_canonical {s : State} {gang : Nat} {r : Rendezvous} (h : s.Canonical) : (fireRdv s gang r).Canonical :=
  foldl_keeps (updRdv_canonical (foldl_keeps h (fun _ _ h1 => rdvRecord_canonical h1))) (fun _ _ h2 => trapWaiter_canonical h2)

theorem execRendezvousTimeout_canonical {gang : Nat} {s : State} (h : s.Canonical) : EndsCanonical (execRendezvousTimeout gang s) := by
  unfold execRendezvousTimeout
  split
  · exact .next (fireRdv_canonical h)
  · exact .next h

/-! ### Dispatcher.lean -/

theorem newGroup_canonical {r : LaunchRec} {id team idx : Nat} : (newGroup r id team idx).Canonical :=
  { Group.blank_canonical with sregs := cellsWf_poke _ _ (cellsWf_poke _ _ cellsWf_nil) }

theorem newTeam_canonical {r : LaunchRec} {id gang member core resid : Nat} {granules : List (Nat × Nat)} :
    (newTeam r id gang member core resid granules).Canonical :=
  { Team.blank_canonical with
    slots := fun _ ho => List.eq_of_mem_replicate ho ▸ Slot.none_canonical
    tiles := fun _ ht => List.eq_of_mem_replicate ht ▸ Tile.none_canonical }

theorem startTeam_canonical {r : LaunchRec} {gang : Nat} {s : State} {m core : Nat} (h : s.Canonical) :
    (startTeam r gang s m core).Canonical := by
  have added : ∀ {s : State} {t : Team}, s.Canonical → t.Canonical → ({ s with teams := s.teams ++ [t] } : State).Canonical :=
    fun h ht => { h with teams := append_keeps h.teams (List.forall_mem_singleton.2 ht) }
  refine foldl_keeps (p := State.Canonical) (added (newId_canonical h) newTeam_canonical) fun s k h => ?_
  have h1 := newId_canonical h
  exact { h1 with groups := append_keeps h1.groups (List.forall_mem_singleton.2 newGroup_canonical) }

theorem beginLaunch_canonical {s : State} {q : Nat} {e : QEntry} (h : s.Canonical) : (beginLaunch s q e).1.Canonical := by
  unfold beginLaunch
  split
  · exact h
  · exact { newId_canonical h with }

theorem afterPlaced_canonical {s : State} {q lid : Nat} (h : s.Canonical) : (afterPlaced s q lid).Canonical :=
  noteEligible_canonical (updQueue_canonical h)

theorem noteServed_canonical {s : State} {level q cluster : Nat} {own : Option Reserve} (h : s.Canonical) :
    (noteServed s level q cluster own).Canonical := { h with }

theorem placeGang_canonical {s : State} {q : Nat} {e : QEntry} {cluster origin : Nat} (h : s.Canonical) :
    (placeGang s q e cluster origin).Canonical :=
  afterPlaced_canonical (ite_keeps (bbEvent_canonical (updLaunch_canonical (foldl_keeps { newId_canonical (beginLaunch_canonical
    (noteServed_canonical h)) with } (fun _ _ h1 => startTeam_canonical h1)))) (updLaunch_canonical (foldl_keeps { newId_canonical
    (beginLaunch_canonical (noteServed_canonical h)) with } (fun _ _ h2 => startTeam_canonical h2))))

theorem execGangPlacement_canonical {s : State} (h : s.Canonical) : EndsCanonical (execGangPlacement s) := by
  unfold execGangPlacement
  refine ite_keeps (.next h) ?_
  split
  · exact .next (placeGang_canonical h)
  · exact .next h

theorem resumeGroup_canonical {g : Group} (h : g.Canonical) : (resumeGroup g).Canonical := by
  unfold resumeGroup
  extract_lets t
  have ht : t.Canonical := by
    unfold t
    split
    · rename_i hm
      have h1 := h.image _ hm
      exact { h with sregs := h1.sregs, vregs := h1.vregs, masks := h1.masks, latches := h1.latches, image := nofun }
    · exact h
  exact { ht with }

theorem resumeTeam_canonical {checks : Bool} {t : Team} (h : t.Canonical) : (resumeTeam checks t).Canonical := by
  unfold resumeTeam
  split
  · exact h
  · rename_i hm
    have h1 := h.image _ hm
    exact { h with
      lcl := h1.lcl
      image := nofun
      slots := map_keeps fun e he => ite_keeps (h1.slots _ (List.of_mem_zip he).2) { Slot.none_canonical with }
      tiles := map_keeps fun e he =>
        have ht := h1.tiles _ (List.of_mem_zip he).2
        ite_keeps (ite_keeps { resetCheck_canonical ht with } ht) { Tile.none_canonical with } }

theorem resumeClocks_canonical {s : State} {id : Nat} (h : s.Canonical) : (resumeClocks s id).Canonical :=
  foldl_keeps (foldl_keeps (updGang_canonical h) (fun _ _ h1 => updTeam_canonical h1 (fun _ h2 => { h2 with })))
    (fun _ _ h3 => updSplits_canonical h3)

theorem placeAgain_canonical {s : State} {g : Gang} {cluster origin : Nat} (h : s.Canonical) :
    (placeAgain s g cluster origin).Canonical := by
  unfold placeAgain
  refine resumeClocks_canonical (updGroups_canonical ?_ (fun _ h1 => resumeGroup_canonical h1))
  refine foldl_keeps (foldl_keeps (updGang_canonical (noteServed_canonical h)) (fun _ _ h2 => updTeam_canonical h2 (fun _ h3 =>
      { h3 with }))) fun _ _ h4 => ?_
  split
  · exact h4
  · exact updTeam_canonical h4 (fun _ h5 => ite_keeps h5 (resumeTeam_canonical { h5 with }))

theorem execGangResume_canonical {gang : Nat} {s : State} (h : s.Canonical) : EndsCanonical (execGangResume gang s) := by
  unfold execGangResume
  dsimp only
  split
  · exact .next h
  · split
    · exact .next (ite_keeps (placeAgain_canonical h) h)
    · exact .next h

theorem mapFresh_canonical {s : State} {asid : BitVec 16} {size start : Nat} {w u : Bool} (h : s.Canonical) :
    (mapFresh s asid size start w u).1.Canonical := by
  unfold mapFresh
  split
  · exact installPage_canonical (zeroPage_canonical h)
  · exact h

theorem provideSave_canonical {s : State} {id : Nat} (h : s.Canonical) : (provideSave s id).Canonical :=
  ite_keeps h (updGang_canonical (mapFresh_canonical h))

theorem requestHalt_canonical {s : State} {id : Nat} (h : s.Canonical) : (requestHalt s id).Canonical :=
  ite_keeps (updGang_canonical (provideSave_canonical h)) h

theorem execPriorityAging_canonical {s : State} (h : s.Canonical) : EndsCanonical (execPriorityAging s) := .next { h with }

theorem reserveOne_canonical {s : State} {d : DueReserve} (h : s.Canonical) : (reserveOne s d).Canonical := by
  unfold reserveOne
  split
  · exact h
  · exact { h with }

theorem execReservation_canonical {s : State} (h : s.Canonical) : EndsCanonical (execReservation s) :=
  .next (foldl_keeps { h with } (fun _ _ h1 => reserveOne_canonical h1))

theorem dispatcherAsk_canonical {s : State} {asid : BitVec 16} {page : Nat} (h : s.Canonical) : (dispatcherAsk s asid page).Canonical :=
  { h with }

theorem holdMessage_canonical {s : State} {m : Nat × List Word} {held : Bool} (h : s.Canonical) : (holdMessage s m held).Canonical :=
  { h with }

theorem execLaunchMessage_canonical {queue : Nat} {words : List Word} {s : State} (h : s.Canonical) :
    EndsCanonical (execLaunchMessage queue words s) := by
  unfold execLaunchMessage
  refine ite_keeps (.next h) ?_
  dsimp only
  split
  · exact .next (holdMessage_canonical (dispatcherAsk_canonical h))
  · rename_i hr1
    have h1 := (submit_canonical h).of_status hr1
    exact .next { h1 with }

theorem provideRing_canonical {s : State} {asid : BitVec 16} {start logn size : Nat} (h : s.Canonical) :
    (provideRing s asid start logn size).1.Canonical := by
  unfold provideRing
  dsimp only
  split
  · exact mpWrite_canonical (mapFresh_canonical h)
  · exact h

theorem provideRings_canonical {s : State} {asid : BitVec 16} (h : s.Canonical) : (provideRings s asid).Canonical := by
  unfold provideRings
  with_reducible
    exact ite_keeps { provideRing_canonical (ite_keeps h (updCtx_canonical (provideRing_canonical h))) with }
        (ite_keeps h (updCtx_canonical (provideRing_canonical h)))

theorem admitCtx_canonical {s : State} {asid : BitVec 16} (h : s.Canonical) : (admitCtx s asid).Canonical := by
  unfold admitCtx
  split
  · exact provideRings_canonical { h with }
  · exact ite_keeps (provideRings_canonical (updCtx_canonical h)) h

theorem execQueueOpen_canonical {queue : Nat} {asid : Option (BitVec 16)} {s : State} (h : s.Canonical) :
    EndsCanonical (execQueueOpen queue asid s) := by
  unfold execQueueOpen
  refine ite_keeps (.next h) ?_
  split
  · exact .next (updQueue_canonical h)
  · exact ite_keeps (.next (admitCtx_canonical h)) (.next (noteEligible_canonical (updQueue_canonical (admitCtx_canonical h))))

theorem mapCounters_canonical {s : State} {asid : BitVec 16} (h : s.Canonical) : (mapCounters s asid).Canonical :=
  ite_keeps (foldl_keeps (updCtx_canonical (mapFresh_canonical h)) (fun _ _ h1 => showCounter_canonical h1)) h

theorem disown_canonical {s : State} {ctr : Nat} (h : s.Canonical) : (disown s ctr).Canonical := { h with }

theorem execCounterAssign_canonical {ctr : Nat} {asid : Option (BitVec 16)} {s : State} (h : s.Canonical) :
    EndsCanonical (execCounterAssign ctr asid s) := by
  unfold execCounterAssign
  refine ite_keeps (.next h) ?_
  split
  · exact .next (disown_canonical h)
  · extract_lets t u
    have hu : u.Canonical := disown_canonical (mapCounters_canonical (admitCtx_canonical h))
    exact ite_keeps (.next h) (.next (noteEligible_canonical (showCounter_canonical
      { hu with counters := cellsWf_poke _ _ hu.counters })))

/-! ### Worker.lean -/

theorem Work.start_canonical {s : State} {w : Nat} (h : s.Canonical) : (Work.start s w).Canonical :=
  ⟨h, by simp [Work.start]⟩

theorem Work.halt_canonical {x : Work} {e : Engine} {k : EStop} (h : x.Canonical) (hk : k.Canonical) : (x.halt e k).Canonical := by
  unfold Work.halt
  refine ite_keeps h ⟨?_, some_keeps hk⟩
  cases hk with
  | code => exact noteDenied_canonical h.s
  | ask => exact h.s

theorem Work.read_canonical {x : Work} {e : Engine} {va n : Nat} (h : x.Canonical) : (x.read e va n).1.Canonical := by
  unfold Work.read
  split
  · exact h
  · split
    · rename_i hr
      exact Work.halt_canonical h ((engineRead_canonical h.s).of_error hr)
    · rename_i hr
      exact ⟨(engineRead_canonical h.s).of_ok hr, h.stop⟩

theorem Work.write_canonical {x : Work} {e : Engine} {va : Nat} {bs : List Byte} (h : x.Canonical) : (x.write e va bs).Canonical := by
  unfold Work.write
  refine ite_keeps h ?_
  dsimp only
  split
  · rename_i hr
    exact Work.halt_canonical h (engineMay_canonical h.s _ hr)
  · exact ⟨engineWrite_canonical h.s, h.stop⟩

theorem Work.atomic_canonical {x : Work} {e : Engine} {va n : Nat} {f : Nat → Option Nat} (h : x.Canonical) :
    (x.atomic e va n f).1.Canonical := by
  have h1 : ∀ {va : Nat}, (x.read e va n).1.Canonical := Work.read_canonical h
  unfold Work.atomic
  dsimp only
  split
  · exact h1
  · split
    · rename_i hr
      exact Work.halt_canonical h1 (engineMay_canonical h1.s _ hr)
    · split
      · exact h1
      · exact Work.write_canonical h1

theorem askOnly_canonical {s t : State} (h : s.Canonical) : (askOnly s t).Canonical := { h with }

/-! ### Sparse.lean -/

theorem isectBody_canonical {x : Args} {s : State} (h : s.Canonical) : (isectBody x s).Canonical :=
  ite_keeps (.done h) (.done (setBlock_canonical (writeVec_canonical h)))

theorem isdotBody_canonical {x : Args} {s : State} (h : s.Canonical) : (isdotBody x s).Canonical := by
  unfold isdotBody
  refine ite_keeps (.done h) ?_
  dsimp only
  split
  · rename_i hr1
    have h1 := (tryLoad_canonical h).of_error hr1
    exact h1
  · rename_i hr2
    have h2 := (tryLoad_canonical h).of_ok hr2
    exact ite_keeps (raisePoison_canonical h2) (withFlags_canonical h2 (setBlock_canonical (resultPair_canonical h2)))

theorem withBuffer_canonical {s : State} {va : DWord} {k : Res} (h : s.Canonical) (hk : k.Canonical) : (withBuffer s va k).Canonical :=
  ite_keeps (raiseExec_canonical h) hk

theorem spmuloBody_canonical {x : Args} {s : State} (h : s.Canonical) : (spmuloBody x s).Canonical :=
  ite_keeps (.done h) (ite_keeps (raiseEncoding_canonical h) (withHandle_canonical h (fun _ => withHandle_canonical h
    (fun _ => ite_keeps (raiseHandle_canonical h) (ite_keeps (raiseHandle_canonical h) (withBuffer_canonical h
    (accept_canonical h)))))))

theorem spmergeBody_canonical {x : Args} {s : State} (h : s.Canonical) : (spmergeBody x s).Canonical :=
  ite_keeps (.done h) (ite_keeps (raiseEncoding_canonical h) (withHandle_canonical h (fun _ => ite_keeps (raiseHandle_canonical h)
    (ite_keeps (raiseExec_canonical h) (withBuffer_canonical h (accept_canonical h))))))

theorem Work.level_canonical {x : Work} {e : Engine} {r : TRec} (h : x.Canonical) : (x.level e r).1.Canonical :=
  Work.read_canonical (Work.read_canonical h)

theorem Work.column_canonical {x : Work} {e : Engine} {r : TRec} {pos crd k : Nat} (h : x.Canonical) :
    (x.column e r pos crd k).1.Canonical :=
  foldl_fst_keeps (p := Work.Canonical) (Work.read_canonical (Work.read_canonical h)) fun _ _ h =>
    Work.read_canonical (Work.read_canonical h)

theorem Work.triple_canonical {x : Work} {e : Engine} {buf cap row col : Nat} {q : Int} (h : x.Canonical) :
    (x.triple e buf cap row col q).Canonical :=
  ite_keeps (Work.write_canonical (Work.atomic_canonical h)) (Work.atomic_canonical (Work.atomic_canonical h))

theorem Work.products_canonical {x : Work} {m : Cmd} {e : Engine} {a b : TRec} {pa pb : Nat × Nat} {buf cap k : Nat}
    (hx : x.Canonical) : (Work.products x m e a b pa pb buf cap k).Canonical :=
  foldl_keeps (Work.column_canonical (Work.column_canonical hx)) (fun _ _ h1 => Work.triple_canonical h1)

theorem multiply_canonical {m : Cmd} {e : Engine} {a b : TRec} {buf cap k0 k1 : Nat} {x : Work} (hx : x.Canonical) :
    (multiply m e a b buf cap k0 k1 x).Canonical :=
  foldl_keeps (Work.level_canonical (Work.level_canonical hx)) (fun _ _ h1 => Work.products_canonical h1)

theorem mergeTriples_canonical {m : Cmd} {e : Engine} {buf cap : Nat} {c : TRec} {x : Work} (h : x.Canonical) :
    (mergeTriples m e buf cap c x).Canonical := by
  unfold mergeTriples
  extract_lets head count r sums sat kept lv anchor code x1 x2
  have hr : r.1.Canonical := foldl_fst_keeps (p := Work.Canonical) (Work.read_canonical h) fun _ _ h => Work.read_canonical h
  have h1 : x1.Canonical := foldl_keeps (p := Work.Canonical) (Work.level_canonical hr) fun _ _ h =>
    Work.write_canonical (Work.write_canonical h)
  have h2 : x2.Canonical := foldl_keeps (p := Work.Canonical) h1 fun _ _ h => Work.write_canonical h
  exact ite_keeps (Work.atomic_canonical h2) h2

theorem sparseTransfer_canonical {c : Cmd} {s : State} (h : s.Canonical) : (sparseTransfer c s).Canonical := by
  unfold sparseTransfer
  extract_lets e x plain
  have hx : x.s.Canonical := by
    unfold x
    split
    · exact (multiply_canonical (Work.start_canonical h)).s
    · exact (mergeTriples_canonical (Work.start_canonical h)).s
    · exact (Work.start_canonical h).s
  split
  · exact saveCmd_canonical hx
  · exact saveCmd_canonical hx
  · exact askOnly_canonical h

theorem sptileBody_canonical {x : Args} {s : State} (h : s.Canonical) : (sptileBody x s).Canonical :=
  ite_keeps (.done h) (ite_keeps (raiseExec_canonical h) (ite_keeps (raiseExec_canonical h) (withHandle_canonical h (fun _ => ite_keeps
    (raiseHandle_canonical h) (withQuietModeTile_canonical h (fun _ _ => cleanTile_canonical h (storeElems_canonical h
    (fun _ h1 => .done (resultS_canonical (startDrain_canonical h1))))))))))

/-! ### Events.lean -/

theorem transfer_canonical {c : Cmd} {s : State} (h : s.Canonical) : (transfer c s).Canonical := by
  unfold transfer
  split
  · exact collTransfer_canonical h
  · exact sparseTransfer_canonical h
  · exact sparseTransfer_canonical h
  · exact copyTransfer_canonical h

theorem execEngineComplete_canonical {cmd : Nat} {s : State} (h : s.Canonical) : EndsCanonical (execEngineComplete cmd s) := by
  unfold execEngineComplete
  split
  · exact .next h
  · refine ite_keeps (.next h) ?_
    split
    · exact .next (ite_keeps (finishCmd_canonical (ite_keeps (sendTokens_canonical h) h)) (ite_keeps (sendTokens_canonical h) h))
    · exact ite_keeps (.next h) (.next (ite_keeps (transfer_canonical (engineAcquire_canonical (startCmd_canonical h)))
        (engineAcquire_canonical (startCmd_canonical h))))

theorem execFetchLine_canonical {core : Nat} {asid : BitVec 16} {va : DWord} {s : State} (h : s.Canonical) :
    EndsCanonical (execFetchLine core asid va s) := by
  unfold execFetchLine
  refine ite_keeps ?_ (.next h)
  split
  · refine .next (fillILine_canonical ?_)
    refine fillPac_canonical ?_
    split
    · exact readForCode_canonical h
    · exact h
  · exact .next h

theorem execHomeRead_canonical {core : Nat} {asid : BitVec 16} {va : DWord} {s : State} (h : s.Canonical) :
    EndsCanonical (execHomeRead core asid va s) := by
  unfold execHomeRead
  split
  · exact .next h
  · split
    · exact ite_keeps (.next (homeServe_canonical h)) (.next h)
    · exact .next h

theorem execStoreAtHome_canonical {n : Nat} {s : State} (h : s.Canonical) : EndsCanonical (execStoreAtHome n s) := by
  unfold execStoreAtHome
  split
  · exact .next (ite_keeps (storeArrive_canonical h) h)
  · exact .next h

theorem execSectorUnpin_canonical {core : Nat} {asid : BitVec 16} {va : DWord} {s : State} (h : s.Canonical) :
    EndsCanonical (execSectorUnpin core asid va s) := .next { h with }

theorem execLineEviction_canonical {level : CacheLevel} {unit : Nat} {asid : BitVec 16} {va : DWord} {s : State} (h : s.Canonical) :
    EndsCanonical (execLineEviction level unit asid va s) := by
  unfold execLineEviction
  split
  · exact .next { mergeCore_canonical h with }
  · exact .next { h with }
  · exact .next (dropILine_canonical h)

theorem logMalformed_canonical {s : State} {p : Quad} (h : s.Canonical) : (logMalformed s p).Canonical := ite_keeps { h with } h

theorem mapPage_canonical {s : State} {p : Quad} (h : s.Canonical) : (mapPage s p).Canonical :=
  ite_keeps (installPage_canonical (invalidatePage_canonical h)) h

theorem execPageMapReply_canonical {asid : BitVec 16} {va : DWord} {pte : Option Quad} {s : State} (h : s.Canonical) :
    EndsCanonical (execPageMapReply asid va pte s) := by
  unfold execPageMapReply
  refine ite_keeps (.next h) ?_
  split
  · exact .next (ite_keeps (mapPage_canonical (logMalformed_canonical h)) h)
  · exact .next (declinePage_canonical h)

theorem advanceWay_canonical {s : State} {y : PWay} (h : s.Canonical) : (advanceWay s y).Canonical := by
  unfold advanceWay
  split
  · exact h
  · exact ite_keeps h { h with }

theorem execMappingChange_canonical {c : MapChange} {s : State} (h : s.Canonical) : EndsCanonical (execMappingChange c s) := by
  unfold execMappingChange
  refine ite_keeps (.next h) ?_
  split
  · split
    · exact .next (ite_keeps h (unmapPage_canonical h))
    · exact .next h
  · dsimp only
    split
    · exact .next (ite_keeps (logMalformed_canonical h) (changePage_canonical (logMalformed_canonical h)))
    · exact .next (ite_keeps (logMalformed_canonical h) (mapPage_canonical (logMalformed_canonical h)))
  · exact .next { h with }
  · split
    · exact .next (advanceWay_canonical h)
    · exact .next h

/-! ### Lifecycle.lean -/

theorem execGroupRetire_canonical {gid : Nat} {s : State} (h : s.Canonical) : EndsCanonical (execGroupRetire gid s) :=
  ite_keeps (.next h) (.next (updGroup_canonical (mergeGroup_canonical h) (fun _ h1 => { h1 with })))

theorem freedTeam_canonical {t : Team} : (freedTeam t).Canonical := by
  constructor <;> simp [freedTeam, cellsWf_nil]

theorem retireGang_canonical {s : State} {id : Nat} (h : s.Canonical) : (retireGang s id).Canonical :=
  ite_keeps h (updLaunch_canonical (updGang_canonical h))

theorem mergeLaunches_canonical {s : State} {lids : List Nat} (h : s.Canonical) : (mergeLaunches s lids).Canonical :=
  foldl_keeps h (fun _ _ h1 => mergeGroup_canonical h1)

theorem noteQuiet_canonical {s : State} (h : s.Canonical) : (noteQuiet s).Canonical := by
  unfold noteQuiet
  split
  · exact ite_keeps { h with } h
  · exact h

theorem removeLaunches_canonical {s : State} {lids : List Nat} (h : s.Canonical) : (removeLaunches s lids).Canonical := by
  have hu := unfocus_canonical h
  unfold removeLaunches
  exact noteQuiet_canonical { hu with groups := filter_keeps hu.groups, teams := filter_keeps hu.teams }

theorem haltGroup_canonical {s : State} {g : Group} (h : s.Canonical) : (haltGroup s g).Canonical := by
  unfold haltGroup
  refine ite_keeps h ?_
  dsimp only
  split
  · exact saveEntry_canonical (focus_canonical h)
  · exact updGroup_canonical h (fun _ h1 => { h1 with })

theorem imageOf_canonical {g : Group} (hg : g.Canonical) : (imageOf g).Canonical :=
  { sregs := hg.sregs, vregs := hg.vregs, masks := hg.masks, latches := hg.latches }

theorem teamImageOf_canonical {t : Team} (h : t.Canonical) : (teamImageOf t).Canonical := { h with }

theorem haltedGang_canonical {s : State} {id : Nat} (h : s.Canonical) : (haltedGang s id).Canonical :=
  bbEvent_canonical (updGang_canonical (foldl_keeps (p := State.Canonical)
    (updGroups_canonical h fun _ hg => { hg with image := some_keeps (imageOf_canonical hg) })
    fun _ _ h => updTeam_canonical h fun _ ht =>
      ite_keeps ht { ht with image := some_keeps (teamImageOf_canonical ht) }))

theorem execGangHalt_canonical {gang : Nat} {s : State} (h : s.Canonical) : EndsCanonical (execGangHalt gang s) := by
  unfold execGangHalt
  split
  · exact .next (ite_keeps (haltedGang_canonical (foldl_keeps h (fun _ _ h1 => ite_keeps (haltGroup_canonical h1) h1))) (foldl_keeps h
      (fun _ _ h2 => ite_keeps (haltGroup_canonical h2) h2)))
  · exact .next h

theorem execSaveComplete_canonical {gang : Nat} {s : State} (h : s.Canonical) : EndsCanonical (execSaveComplete gang s) := by
  unfold execSaveComplete
  split
  · exact ite_keeps (.next h) (.next (ite_keeps (updGang_canonical (foldl_keeps h (fun _ _ h1 => mergeGroup_canonical h1)))
      (foldl_keeps h (fun _ _ h2 => mergeGroup_canonical h2))))
  · exact .next h

theorem keepClosed_canonical {s : State} {mine : Nat → Bool} (h : s.Canonical) : (keepClosed s mine).Canonical := by
  unfold keepClosed
  split
  · exact { h with }
  · exact h

theorem execContextSwitch_canonical {asid : BitVec 16} {s : State} (h : s.Canonical) : EndsCanonical (execContextSwitch asid s) :=
  .next (foldl_keeps (keepClosed_canonical { h with }) (fun _ _ h1 => ite_keeps (requestHalt_canonical h1) h1))

theorem terminateRecord_canonical {s : State} {asid : BitVec 16} {code : BitVec 8} {launch : Word} {n : Nat} (h : s.Canonical) :
    (terminateRecord s asid code launch n).Canonical := writeRecord_canonical h

theorem endTerminate_canonical {s : State} {asid : BitVec 16} {code : BitVec 8} (h : s.Canonical) :
    (endTerminate s asid code).Canonical :=
  ite_keeps h (terminateRecord_canonical (updCtx_canonical (removeLaunches_canonical (mergeLaunches_canonical h))))

theorem execContextTerminate_canonical {asid : BitVec 16} {code : BitVec 8} {s : State} (h : s.Canonical) :
    EndsCanonical (execContextTerminate asid code s) := by
  unfold execContextTerminate
  split
  · exact .next h
  · refine ite_keeps (.next h) ?_
    split
    · exact .next (ite_keeps (startTerminate_canonical h) h)
    · exact .next (endTerminate_canonical h)

theorem startKill_canonical {s : State} {lid : Nat} (h : s.Canonical) : (startKill s lid).Canonical :=
  noteEligible_canonical (updGroups_canonical { h with } (fun _ h1 => { h1 with }))

theorem endKill_canonical {s : State} {lid : Nat} (h : s.Canonical) : (endKill s lid).Canonical :=
  ite_keeps h (terminateRecord_canonical (removeLaunches_canonical (mergeLaunches_canonical h)))

theorem execSnapshotCopy_canonical {lid : Nat} {va : DWord} {s : State} (h : s.Canonical) :
    EndsCanonical (execSnapshotCopy lid va s) := by
  unfold execSnapshotCopy
  dsimp only
  split
  · exact .next (ite_keeps (snapGranule_canonical h) h)
  · exact .next h

theorem requeue_canonical {s : State} {l : Launch} (h : s.Canonical) : (requeue s l).Canonical :=
  noteEligible_canonical (updQueue_canonical h)

theorem replayOne_canonical {bay : Nat} {s : State} {l : Launch} (h : s.Canonical) : (replayOne bay s l).Canonical :=
  ite_keeps (startTerminate_canonical (writeRecord_canonical h)) (writeRecord_canonical (requeue_canonical h))

theorem rollBack_canonical {s : State} {ids : List Nat} (h : s.Canonical) : (rollBack s ids).Canonical :=
  ite_keeps (foldl_keeps h (fun _ _ h1 => startTerminate_canonical (writeRecord_canonical h1))) (foldl_keeps (removeLaunches_canonical
    { h with phys := restoreSnaps_canonical h.phys }) (fun _ _ h2 => replayOne_canonical h2))

theorem resumeHeld_canonical {s : State} (h : s.Canonical) : (resumeHeld s).Canonical := by
  unfold resumeHeld
  split
  · rename_i hr1
    have h1 := (returnBody_canonical h).of_done hr1
    exact { h1 with }
  · rename_i hr2
    have h2 := (returnBody_canonical h).of_jump hr2
    exact { h2 with }
  · rename_i hr3
    have h3 := (returnBody_canonical h).of_raise hr3
    exact takeTrap_canonical h3
  · rename_i hr4
    have h4 := (returnBody_canonical h).of_wait hr4
    exact park_canonical h4

/-! ### Fabric.lean -/

theorem answerLanes_canonical {a : AtomOp} : ∀ {vs : List DWord} {l : List AtomLane} {s : State}, s.Canonical →
    (answerLanes a vs l s).1.Canonical
  | [], _, _, h => by rwa [answerLanes]
  | _ :: _, [], _, h => by rwa [answerLanes]; nofun
  | v :: vs, y :: t, s, h => by
    unfold answerLanes
    split
    · dsimp only
      refine answerLanes_canonical (l := t) ?_
      split
      · exact farPoke_canonical h
      · exact farPoke_canonical h
    · exact answerLanes_canonical (l := t) h

theorem endAtomic_canonical {s : State} {q : Request} {cause : BitVec 8} {bad : List AtomLane} (h : s.Canonical) :
    (endAtomic s q cause bad).Canonical := ite_keeps { h with } (takeTrap_canonical { h with })

theorem failAtomic_canonical {s : State} {q : Request} {l : List AtomLane} (h : s.Canonical) : (failAtomic s q l).Canonical :=
  ite_keeps (endAtomic_canonical h) (endAtomic_canonical h)

theorem lastReply_canonical {s : State} {q : Request} {a : AtomOp} {l : List AtomLane} (h : s.Canonical) :
    ∀ t ∈ lastReply s q a l, t.Canonical := by
  unfold lastReply
  extract_lets shut z
  split
  · have hz : z.1.Canonical := atomLanes_canonical h
    exact some_keeps { hz with }
  · refine ite_keeps (p := fun o : Option State => ∀ t ∈ o, t.Canonical) none_keeps (some_keeps (endAtomic_canonical ?_))
    exact foldl_keeps (p := State.Canonical) h fun _ _ h => logViolation_canonical h

theorem execRemoteAtomicReply_canonical {gid sp : Nat} {ok : Bool} {values : List DWord} {s : State} (h : s.Canonical) :
    EndsCanonical (execRemoteAtomicReply gid sp ok values s) := by
  have hf : ∀ {w : Who}, (focus s w).Canonical := focus_canonical h
  unfold execRemoteAtomicReply
  dsimp only
  split
  · exact .next h
  · refine ite_keeps (.next h) (ite_keeps (.next (ite_keeps (failAtomic_canonical hf) h)) ?_)
    exact ite_keeps (.next { answerLanes_canonical hf with })
      (.next (option_getD_keeps (lastReply_canonical (answerLanes_canonical hf)) h))

theorem setToken_canonical {s : State} {n : Nat} {t : Option Token} (h : s.Canonical) : (setToken s n t).Canonical := { h with }

theorem execFenceToken_canonical {n : Nat} {s : State} (h : s.Canonical) : EndsCanonical (execFenceToken n s) := by
  unfold execFenceToken
  split
  · exact .next h
  · exact ite_keeps (.next h) (.next (setToken_canonical h))

theorem execFenceAck_canonical {n : Nat} {_failed : List DWord} {s : State} (h : s.Canonical) :
    EndsCanonical (execFenceAck n _failed s) := by
  unfold execFenceAck
  split
  · exact .next h
  · exact ite_keeps (.next h) (.next (updGroup_canonical (setToken_canonical h) (fun _ h1 => { h1 with })))

theorem keepGrant_canonical {s : State} {g : Grant} (h : s.Canonical) : (keepGrant s g).Canonical := { h with }

theorem failWindow_canonical {s : State} {bad : Flight → Bool} (h : s.Canonical) : (failWindow s bad).Canonical := by
  unfold failWindow
  have h1 := fun l : List Flight => foldl_keeps (p := State.Canonical) (l := l) h fun _ f h =>
    failPosted_canonical (gid := f.gid) (dest := farDest f.va) (port := f.port) (va := f.va) h
  exact { h1 _ with }

theorem execWindowGrant_canonical {asid : BitVec 16} {va : DWord} {grant : Option WindowTarget} {s : State} (h : s.Canonical) :
    EndsCanonical (execWindowGrant asid va grant s) := by
  unfold execWindowGrant
  extract_lets page
  split
  · exact .next h
  · extract_lets t u
    have ht : t.Canonical := { h with }
    have hu : u.Canonical := failWindow_canonical ht
    split
    · exact .next (ite_keeps (keepGrant_canonical ht) h)
    · exact .next { hu with }

theorem forgetDevice_canonical {s : State} {d : Nat} (h : s.Canonical) : (forgetDevice s d).Canonical := by
  unfold forgetDevice
  with_reducible exact { performBefore_canonical h with }

theorem execDestUnreachable_canonical {dev : BitVec 12} {s : State} (h : s.Canonical) : EndsCanonical (execDestUnreachable dev s) := by
  unfold execDestUnreachable
  have h1 := fun bad d => forgetDevice_canonical (d := d) (failWindow_canonical (bad := bad) h)
  exact ite_keeps (.next h) (.next { h1 _ _ with })

theorem reply_canonical {s : State} {ws : List DWord} (h : s.Canonical) : (reply s ws).Canonical := { h with }

theorem hostRead_canonical {s : State} {asid : BitVec 16} {l : List (Nat × Nat)} (h : s.Canonical) :
    (hostRead s asid l).1.Canonical := by
  unfold hostRead
  refine foldl_fst_canonical h fun _ _ h1 => ?_
  split
  · exact recallLine_canonical h1
  · exact h1

theorem hostWrite_canonical {s : State} {asid : BitVec 16} {va : Nat} {bs : List Byte} {l : List (Nat × Nat)} (h : s.Canonical) :
    (hostWrite s asid va bs l).1.Canonical := by
  unfold hostWrite
  refine foldl_fst_canonical h fun _ _ h1 => ?_
  split
  · exact homeWrite_canonical (recallLine_canonical h1)
  · exact h1

theorem execHostAccess_canonical {asid : BitVec 16} {va : DWord} {len : Nat} {store : Option (List Byte)} {s : State}
    (h : s.Canonical) : EndsCanonical (execHostAccess asid va len store s) := by
  unfold execHostAccess
  refine ite_keeps (.next h) (ite_keeps (.next h) ?_)
  split
  · refine .next (reply_canonical ?_)
    split
    · exact logViolation_canonical h
    · exact h
  · exact .next { hostWrite_canonical h with }
  · exact .next (reply_canonical (hostRead_canonical h))

theorem answerRange_canonical {s : State} {r : URange} (h : s.Canonical) : (answerRange s r).Canonical :=
  { foldl_keeps h (by exact fun _ _ h1 => replayPage_canonical h1) with }

theorem execUnifiedRangeChange_canonical {asid : BitVec 16} {base : DWord} {size : Nat} {writable : Option Bool} {s : State}
    (h : s.Canonical) : EndsCanonical (execUnifiedRangeChange asid base size writable s) := by
  unfold execUnifiedRangeChange
  refine ite_keeps (.next h) ?_
  split
  · exact .next { mergeCore_canonical h with }
  · exact ite_keeps (.next h) (.next (answerRange_canonical { mergeCore_canonical h with }))

theorem setQueues_canonical {s : State} {qs : List Nat} {open_ : Bool} (h : s.Canonical) : (setQueues s qs open_).Canonical :=
  noteEligible_canonical (foldl_keeps h (fun _ _ h1 => updQueue_canonical h1))

theorem streamImage_canonical {s : State} {c : Checkpoint} (h : s.Canonical) : (streamImage s c).Canonical :=
  ite_keeps (setQueues_canonical { h with }) h

theorem stepCheckpoint_canonical {s : State} {c : Checkpoint} (h : s.Canonical) : (stepCheckpoint s c).Canonical :=
  ite_keeps (streamImage_canonical h) h

theorem execCheckpointRequest_canonical {asids : List (BitVec 16)} {to_ : SafePlace} {s : State} (h : s.Canonical) :
    EndsCanonical (execCheckpointRequest asids to_ s) := by
  unfold execCheckpointRequest
  refine ite_keeps (.next h) ?_
  split
  · exact .next (ite_keeps (stepCheckpoint_canonical h) h)
  · exact .next (noteQuiet_canonical { foldl_keeps h (by exact fun _ _ h1 => updQueue_canonical h1) with })
  · exact .next h

theorem execCheckpointAbandon_canonical {s : State} (h : s.Canonical) : EndsCanonical (execCheckpointAbandon s) := by
  unfold execCheckpointAbandon
  split
  · exact .next h
  · exact ite_keeps (.next h) (.next (reply_canonical (setQueues_canonical { h with })))

theorem restorePage_canonical {places : List (Nat × Nat)} {acc : Option State} {e : Quad × List (Nat × Byte)}
    (h : ∀ s ∈ acc, s.Canonical) : ∀ s ∈ restorePage places acc e, s.Canonical :=
  option_bind_keeps h fun _ h => option_bind_keeps (p := fun _ => True) (fun _ _ => trivial) fun _ _ =>
    option_map_keeps (p := fun _ => True) (fun _ _ => trivial) fun _ _ =>
      installPage_canonical (with_mem_canonical (zeroPage_canonical h) (pokeBytes_wf _ (zeroPage_canonical h).phys))

theorem restoreBlocks_canonical {s : State} {x : ImageCtx} (h : s.Canonical) : (restoreBlocks s x).Canonical :=
  foldl_keeps { h with } (fun _ _ h1 => remapBlock_canonical h1)

theorem restoreRings_canonical {s : State} {x : ImageCtx} (h : s.Canonical) : (restoreRings s x).Canonical := by
  unfold restoreRings
  split
  · exact admitCtx_canonical h
  · exact mpWrite_canonical (updCtx_canonical (ite_keeps h { h with }))

theorem restoreCtx_canonical {places : List (Nat × Nat)} {acc : Option State} {x : ImageCtx} (h : ∀ s ∈ acc, s.Canonical) :
    ∀ s ∈ restoreCtx places acc x, s.Canonical := by
  unfold restoreCtx
  refine option_map_keeps (foldl_keeps (p := fun o : Option State => ∀ s ∈ o, s.Canonical) h fun _ _ h => restorePage_canonical h)
    fun s h => ?_
  extract_lets s1 s2 s3
  have h1 : s1.Canonical := ite_keeps h (restoreBlocks_canonical (restoreRings_canonical h))
  have h2 : s2.Canonical := foldl_keeps (p := State.Canonical) h1 fun _ _ h => updQueue_canonical h
  have h3 : s3.Canonical := foldl_keeps (p := State.Canonical) h2 fun _ _ h => { h with counters := cellsWf_poke _ _ h.counters }
  exact noteEligible_canonical { h3 with }

theorem execRestoreRequest_canonical {place : Nat} {places : List (Nat × Nat)} {s : State} (h : s.Canonical) :
    EndsCanonical (execRestoreRequest place places s) := by
  unfold execRestoreRequest
  split
  · exact .next h
  · refine ite_keeps (.next h) (ite_keeps (.next (reply_canonical h)) ?_)
    split
    · rename_i hr
      exact .next (reply_canonical (foldl_keeps (p := fun o : Option State => ∀ s ∈ o, s.Canonical)
        (some_keeps h) (fun _ _ h => restoreCtx_canonical h) _ hr))
    · exact .next (reply_canonical h)

/-! ### Retrieval.lean -/

theorem withFamilyRecord_canonical {s : State} {va : Nat} {k : State → List Word → Res} (h : s.Canonical) (hk : ∀ t a, t.Canonical →
    (k t a).Canonical) : (withFamilyRecord s va k).Canonical :=
  ite_keeps (raiseExec_canonical h) (whenReady_canonical h (fun _ h1 => ite_keeps (raisePoison_canonical (readAll_canonical h1))
    (hk _ _ (readAll_canonical h1))))

theorem setFamily_canonical {s : State} {n : Nat} {f : Fam} (h : s.Canonical) : (setFamily s n f).Canonical :=
  { h with tm := { h.tm with } }

theorem loadFamily_canonical {x : Args} {s : State} (h : s.Canonical) : (loadFamily x s).Canonical := by
  unfold loadFamily
  exact withFamilyRecord_canonical h (fun _ _ h1 => ite_keeps (raiseExec_canonical h1) (ite_keeps (.done (setFamily_canonical h1))
      (withFamilyRecord_canonical h1 (fun _ _ h2 => ite_keeps (raiseExec_canonical h2) (.done (setFamily_canonical h2))))))

theorem withFamily_canonical {s : State} {f : Src} {k : Fam → Res} (h : s.Canonical) (hk : ∀ t, (k t).Canonical) :
    (withFamily s f k).Canonical := by
  unfold withFamily
  split
  · exact hk _
  · exact raiseExec_canonical h

theorem withMatrix_canonical {s : State} {f : FRec} {k : State → Nat → Res} (h : s.Canonical) (hk : ∀ t a, t.Canonical →
    (k t a).Canonical) : (withMatrix s f k).Canonical := by
  unfold withMatrix
  dsimp only
  split
  · rename_i hr1
    have h1 := (tryLoad_canonical h).of_error hr1
    exact h1
  · rename_i hr2
    have h2 := (tryLoad_canonical h).of_ok hr2
    exact ite_keeps (raisePoison_canonical h2) (hk _ _ h2)

theorem holdBand_canonical {s : State} {band d : Nat} (h : s.Canonical) : (holdBand s band d).Canonical := { newId_canonical h with }

theorem projectBody_canonical {x : Args} {s : State} (h : s.Canonical) : (projectBody x s).Canonical := by
  unfold projectBody
  refine ite_keeps (.done h) (withFamily_canonical h ?_)
  intro _
  refine lclRegion_canonical h fun _ h1 => ?_
  split
  · exact raiseExec_canonical h1
  · exact withMatrix_canonical h1 (fun _ _ h2 => withMatrix_canonical h2 (fun _ _ h3 => ite_keeps (.wait h1) (withFlags_canonical h3
      (writeVec_canonical (holdBand_canonical h3)))))

theorem cleanKeys_canonical {s : State} {r l : Nat} {k : Res} (h : s.Canonical) (hk : k.Canonical) : (cleanKeys s r l k).Canonical :=
  ite_keeps hk (.raise h)

theorem probeBody_canonical {x : Args} {s : State} (h : s.Canonical) : (probeBody x s).Canonical :=
  withFamily_canonical h (fun _ => ite_keeps (raiseEncoding_canonical h) (cleanKeys_canonical h (lclRegion_canonical h
    (fun _ h1 => lclRegion_canonical h1 (fun _ h2 => accept_canonical h2)))))

theorem updateBody_canonical {i : Shape} {x : Args} {ins : Bool} {s : State} (h : s.Canonical) : (updateBody i x ins s).Canonical :=
  withFamily_canonical h (fun _ => ite_keeps (raiseEncoding_canonical h) (cleanKeys_canonical h (accept_canonical h)))

theorem stepBody_canonical {x : Args} {s : State} (h : s.Canonical) : (stepBody x s).Canonical :=
  withFamily_canonical h (fun _ => ite_keeps (raiseEncoding_canonical h) (accept_canonical h))

theorem statBody_canonical {x : Args} {s : State} (h : s.Canonical) : (statBody x s).Canonical :=
  withFamily_canonical h (fun _ => ite_keeps (raiseEncoding_canonical h) (accept_canonical h))

theorem Work.spilled_canonical {x : Work} {e : Engine} {f : FRec} {t key : Nat} (h : x.Canonical) : (x.spilled e f t key).1.Canonical :=
  foldl_fst_keeps (p := Work.Canonical) (Work.read_canonical h) fun _ _ h =>
    ite_keeps (p := fun b : Work × List (Nat × Nat) => b.1.Canonical) (Work.read_canonical h) (Work.read_canonical h)

theorem Work.allIds_canonical {x : Work} {e : Engine} {f : FRec} {t key b : Nat} (h : x.Canonical) :
    (x.allIds e f t key b).1.Canonical :=
  ite_keeps (p := fun b : Work × List Nat => b.1.Canonical) (Work.spilled_canonical h) h

theorem Work.useOld_canonical {x : Work} {e : Engine} {f : Fam} {old : Nat} (hx : x.Canonical) :
    (Work.useOld x e f old).1.Canonical := by
  unfold Work.useOld
  split
  · exact hx
  · exact Work.read_canonical hx

theorem Work.insert_canonical {x : Work} {e : Engine} {f : FRec} {old : Bool} {t key row : Nat} (hx : x.Canonical) :
    (Work.insert x e f old t key row).Canonical :=
  ite_keeps (.did (Work.atomic_canonical hx)) (ite_keeps (.frozen (Work.atomic_canonical hx))
    (ite_keeps (.did (Work.atomic_canonical hx)) (ite_keeps (.did (Work.atomic_canonical hx))
    (ite_keeps (ite_keeps (.did (Work.atomic_canonical (Work.atomic_canonical (Work.atomic_canonical hx))))
    (.did (Work.atomic_canonical (Work.atomic_canonical hx)))) (.did (Work.atomic_canonical hx))))))

theorem Work.delete_canonical {x : Work} {e : Engine} {f : FRec} {old : Bool} {t key row : Nat} (hx : x.Canonical) :
    (Work.delete x e f old t key row).Canonical :=
  ite_keeps (.did (Work.atomic_canonical hx)) (ite_keeps (.frozen (Work.atomic_canonical hx))
    (ite_keeps (.did (Work.atomic_canonical hx)) (ite_keeps (.did (foldl_keeps (Work.spilled_canonical (Work.atomic_canonical hx))
    (fun _ _ h1 => Work.atomic_canonical h1))) (.did (Work.atomic_canonical hx)))))

theorem finishRetrieval_canonical {s : State} {c : Cmd} {w code count : Nat} {words : List Word} {addr : Nat} (h : s.Canonical) :
    (finishRetrieval s c w code count words addr).Canonical :=
  ite_keeps (startRollback_canonical (ite_keeps (settleRegs_canonical (noteW_canonical (dropCmd_canonical h))) (writeRecord_canonical
    (settleRegs_canonical (noteW_canonical (dropCmd_canonical h)))))) (ite_keeps (settleRegs_canonical (noteW_canonical
    (dropCmd_canonical h))) (writeRecord_canonical (settleRegs_canonical (noteW_canonical (dropCmd_canonical h)))))

theorem endRetrieval_canonical {s : State} {c : Cmd} {x : Work} {code : Nat} {more inv : Bool} {count : Nat} {before : List Word}
    (h : s.Canonical) (hx : x.Canonical) : (endRetrieval s c x code more inv count before).Canonical := by
  unfold endRetrieval
  split
  · exact askOnly_canonical h
  · exact finishRetrieval_canonical hx.s

theorem spillTake_canonical {c : Cmd} {e : Engine} {r : FRec} {bm cap t key : Nat} {x : Work} {y : Found} (h : x.Canonical) :
    (spillTake c e r bm cap t key x y).1.Canonical :=
  foldl_fst_keeps (p := Work.Canonical) (Work.read_canonical h) fun _ _ h =>
    ite_keeps (p := fun b : Work × Found => b.1.Canonical) h (Work.read_canonical h)

theorem probeTable_canonical {c : Cmd} {e : Engine} {f : Fam} {keys olds : List Word} {bm cap t : Nat} {x : Work} {y : Found}
    (h : x.Canonical) : (probeTable c e f keys olds bm cap t x y).1.Canonical := by
  unfold probeTable
  extract_lets u r key b z
  have hb : b.1.Canonical := Work.read_canonical (Work.useOld_canonical h)
  have keeps := @ite_keeps (Work × Found) fun b => b.1.Canonical
  exact keeps hb (keeps hb (spillTake_canonical hb))

theorem runProbe_canonical {c : Cmd} {e : Engine} {f : Fam} {keys olds : List Word} {la bm cap : Nat} {s : State} (h : s.Canonical) :
    (runProbe c e f keys olds la bm cap s).Canonical := by
  unfold runProbe
  extract_lets p r0 r
  have h0 : r0.1.Canonical := probeTable_canonical (Work.start_canonical h)
  have hr : r.1.Canonical := by
    unfold r
    split
    · exact Work.halt_canonical h0 .code
    · exact h0
  split
  · exact askOnly_canonical h
  · have hs := fun a bs => engineLcl_canonical (tid := c.tid) (a := a) (bs := bs) hr.s
    exact ite_keeps (updCmd_canonical hr.s) (endRetrieval_canonical (hs _ _) ⟨hs _ _, hr.stop⟩)

theorem updateTables_canonical {c : Cmd} {e : Engine} {f : Fam} {keys olds : List Word} {row : Nat} {ins : Bool} :
    ∀ {l : List Nat} {s : State} {w : Nat} {done : List Nat}, s.Canonical →
      (updateTables c e f keys olds row ins l s w done).Canonical
  | [], _, _, _, h => endRetrieval_canonical h (Work.start_canonical h)
  | t :: l, s, w, done, h => by
    unfold updateTables
    refine ite_keeps (updateTables_canonical h) ?_
    extract_lets u r old key
    have hu : u.1.Canonical := Work.useOld_canonical (Work.start_canonical h)
    split
    · rename_i hr
      have hx := (ite_keeps (Work.insert_canonical hu) (Work.delete_canonical hu)).of_did hr
      split
      · exact updCmd_canonical (askOnly_canonical h)
      · exact endRetrieval_canonical h hx
      · exact updateTables_canonical hx.s
    · rename_i hr
      exact updCmd_canonical ((ite_keeps (Work.insert_canonical hu) (Work.delete_canonical hu)).of_frozen hr).s

theorem noteCursors_canonical {s s' : State} (hs' : s'.Canonical) : (noteCursors s s').Canonical := ite_keeps hs' { hs' with }

theorem Work.weight_canonical {x : Work} {e : Engine} {f : FRec} (h : x.Canonical) : (x.weight e f).1.Canonical := by
  have keeps := @ite_keeps (Work × Option TRec) fun b => b.1.Canonical
  exact keeps h (keeps (Work.read_canonical h) (Work.read_canonical h))

theorem Work.row_canonical {x : Work} {e : Engine} {r : TRec} {d id : Nat} (h : x.Canonical) : (x.row e r d id).1.Canonical := by
  refine foldl_fst_keeps (p := Work.Canonical) h fun b i h => ?_
  split
  · exact h
  · exact Work.read_canonical h

theorem Migration.row_canonical {y : Migration} {e : Engine} {f : FRec} {h' : TRec} {m t id : Nat} (hy : y.Canonical) :
    (Migration.row y e f h' m t id).Canonical := by
  unfold Migration.row
  refine ite_keeps hy ?_
  dsimp only
  split
  · rename_i hr1
    have h1 := (Work.insert_canonical (Work.row_canonical hy.x)).of_did hr1
    exact { x := h1 }
  · rename_i hr2
    have h2 := (Work.insert_canonical (Work.row_canonical hy.x)).of_frozen hr2
    exact { x := h2 }

theorem Work.advance_canonical {x : Work} {e : Engine} {f : FRec} {v : Nat} (hx : x.Canonical) : (Work.advance x e f v).Canonical := by
  unfold Work.advance
  dsimp only
  split
  · exact Work.write_canonical hx
  · exact Work.write_canonical { hx with s := ite_keeps hx.s { hx.s with } }

theorem Migration.key_canonical {y : Migration} {e : Engine} {f o : FRec} {r : TRec} {m c : Nat} (h : y.Canonical) :
    (y.key e f o r m c).Canonical := by
  unfold Migration.key
  extract_lets r z x
  have hr : r.1.Canonical := foldl_fst_keeps (p := Work.Canonical) h.x fun _ _ h => Work.atomic_canonical h
  have hz : z.Canonical := foldl_keeps (p := Migration.Canonical) ⟨hr⟩ fun _ _ h =>
    foldl_keeps (p := Migration.Canonical) ⟨Work.allIds_canonical h.x⟩ fun _ _ h => Migration.row_canonical h
  exact ⟨Work.advance_canonical hz.x⟩

theorem runStep_canonical {c : Cmd} {e : Engine} {f : Fam} {n : Nat} {s : State} (h : s.Canonical) : (runStep c e f n s).Canonical := by
  unfold runStep
  split
  · exact endRetrieval_canonical h (Work.start_canonical h)
  · extract_lets w
    have hw : w.1.Canonical := Work.weight_canonical (Work.start_canonical h)
    split
    · exact finishRetrieval_canonical hw.s
    · exact endRetrieval_canonical h hw
    · refine endRetrieval_canonical h (Migration.Canonical.x ?_)
      refine foldl_keeps (p := Migration.Canonical) ⟨Work.read_canonical ?_⟩ fun _ _ h => ite_keeps h (Migration.key_canonical h)
      exact ite_keeps (p := fun b : Work × Nat => b.1.Canonical) hw (Work.read_canonical hw)

theorem runStat_canonical {c : Cmd} {e : Engine} {f : Fam} {t : Nat} {s : State} (h : s.Canonical) : (runStat c e f t s).Canonical :=
  ite_keeps (updCmd_canonical ((Work.read_canonical (Work.start_canonical h)).s)) (endRetrieval_canonical h (Work.read_canonical
    (Work.start_canonical h)))

theorem runRetrieval_canonical {s : State} {c : Cmd} (h : s.Canonical) : (runRetrieval s c).Canonical := by
  unfold runRetrieval
  split
  · exact runProbe_canonical h
  · exact updateTables_canonical h
  · exact updateTables_canonical h
  · exact runStep_canonical h
  · exact runStat_canonical h
  · exact h

theorem execRetrievalComplete_canonical {cmd : Nat} {s : State} (h : s.Canonical) : EndsCanonical (execRetrievalComplete cmd s) := by
  unfold execRetrievalComplete
  split
  · exact .next (ite_keeps (runRetrieval_canonical (startCmd_canonical h)) h)
  · exact .next h

theorem fireFrozen_canonical {s : State} {c : Cmd} (h : s.Canonical) : (fireFrozen s c).Canonical := by
  unfold fireFrozen
  exact finishRetrieval_canonical h

theorem execFrozenBucketTimeout_canonical {cmd : Nat} {s : State} (h : s.Canonical) :
    EndsCanonical (execFrozenBucketTimeout cmd s) := by
  unfold execFrozenBucketTimeout
  dsimp only
  split
  · exact .next (ite_keeps (fireFrozen_canonical (noteCursors_canonical h)) (noteCursors_canonical h))
  · exact .next (noteCursors_canonical h)

/-! ### Power.lean -/

theorem replyBytes_canonical {s : State} {bs : List Byte} (h : s.Canonical) : (replyBytes s bs).Canonical := reply_canonical h

theorem thermalPut_canonical {s : State} {ws : List Word} (h : s.Canonical) : (thermalPut s ws).Canonical := by
  unfold thermalPut
  split
  · exact ringPut_canonical h
  · exact h

theorem clampBay_canonical {s : State} {bay : Nat} (h : s.Canonical) : (clampBay s bay).Canonical := { h with }

theorem sensorRecords_canonical {s : State} {y : Sensor} (h : s.Canonical) : (sensorRecords s y).Canonical := by
  unfold sensorRecords
  extract_lets put old dev noted hot cooled top
  have hn : noted.Canonical := { h with }
  have hh : hot.Canonical := ite_keeps (thermalPut_canonical hn) hn
  have hc : cooled.Canonical := ite_keeps (thermalPut_canonical hh) hh
  have ht : top.Canonical := ite_keeps (ctlSend_canonical (thermalPut_canonical hc)) hc
  exact ite_keeps (clampBay_canonical ht) ht

theorem execPowerLoop_canonical {r : PowerReading} {s : State} (h : s.Canonical) : EndsCanonical (execPowerLoop r s) := by
  unfold execPowerLoop
  refine ite_keeps (.next h) ?_
  extract_lets old dev pooled sensed cooled drawn
  have hs : sensed.Canonical := foldl_keeps (p := State.Canonical) { h with } fun _ _ h => sensorRecords_canonical h
  have hc : cooled.Canonical := ite_keeps hs (thermalPut_canonical hs)
  have hd : drawn.Canonical := ite_keeps (thermalPut_canonical hc) hc
  exact .next (ite_keeps hd (thermalPut_canonical hd))

/-! ### Reliability.lean -/

theorem unitRecord_canonical {s : State} {u : UnitId} {code : BitVec 8} {restored : Bool} (h : s.Canonical) :
    (unitRecord s u code restored).Canonical := writeRecord_canonical h

theorem execHbmScrub_canonical {stack : Nat} {errs : List (Nat × Bool)} {s : State} (h : s.Canonical) :
    EndsCanonical (execHbmScrub stack errs s) :=
  ite_keeps (.next h) (.next (foldl_keeps h (fun _ _ h1 => ite_keeps (uncorrected_canonical { h1 with }) (countError_canonical
    (noteErr_canonical h1)))))

theorem updDev_canonical {s : State} {f : Device → Device} (h : s.Canonical) : (updDev s f).Canonical := { h with }

theorem retire_canonical {s : State} {u : UnitId} (h : s.Canonical) : (retire s u).Canonical := updDev_canonical h

theorem askToLeave_canonical {s : State} {cores : Nat → Bool} (h : s.Canonical) : (askToLeave s cores).Canonical :=
  foldl_keeps h (fun _ _ h1 => requestHalt_canonical h1)

theorem loseLaunch_canonical {s : State} {gang : Nat} (h : s.Canonical) : (loseLaunch s gang).Canonical :=
  ite_keeps h (ite_keeps (startKill_canonical h) (startRollback_canonical h))

theorem defer_canonical {s : State} {u : UnitId} {code : BitVec 8} {whole : Bool} (h : s.Canonical) :
    (defer s u code whole).Canonical := updDev_canonical h

theorem retireUnit_canonical {s : State} {u : UnitId} {code : BitVec 8} (h : s.Canonical) : (retireUnit s u code).Canonical :=
  unitRecord_canonical (retire_canonical h)

theorem fenceCore_canonical {s : State} {core : Nat} {code : BitVec 8} {cut : Bool} (h : s.Canonical) :
    (fenceCore s core code cut).Canonical :=
  ite_keeps h (foldl_keeps (retireUnit_canonical (foldl_keeps h (fun _ _ h1 => retireUnit_canonical h1))) (fun _ _ h2 => ite_keeps
    (loseLaunch_canonical h2) (requestHalt_canonical h2)))

theorem breakHalf_canonical {s : State} {u : UnitId} {code : BitVec 8} (h : s.Canonical) : (breakHalf s u code).Canonical :=
  ite_keeps h (ite_keeps (fenceCore_canonical (retireUnit_canonical h)) (ite_keeps (retireUnit_canonical h) (askToLeave_canonical
    (defer_canonical h))))

theorem blame_canonical {m : Mismatch} {s : State} {core : Nat} {lanes : List Nat} (h : s.Canonical) :
    (blame m s core lanes).Canonical := by
  unfold blame
  split
  · exact breakHalf_canonical h
  · exact fenceCore_canonical h

theorem meetMismatch_canonical {s : State} {u : UnitId} {m : Mismatch} (h : s.Canonical) : (meetMismatch s u m).Canonical :=
  ite_keeps (ite_keeps (countError_canonical h) (takeTrap_canonical (focus_canonical (fenceCore_canonical h))))
    (ite_keeps (countError_canonical h) (takeTrap_canonical (focus_canonical (blame_canonical h))))

theorem cutPools_canonical {s : State} (h : s.Canonical) : (cutPools s).Canonical := { h with }

theorem retireLayer_canonical {s : State} {stack layer : Nat} {code : BitVec 8} (h : s.Canonical) :
    (retireLayer s stack layer code).Canonical :=
  ite_keeps h (unitRecord_canonical (cutPools_canonical (updDev_canonical (retire_canonical h))))

theorem moveBytes_canonical {m : MemSys} {p q : Quad} (hm : cellsWf m.phys = true) : cellsWf (moveBytes m p q).phys = true :=
  pokeBytes_wf _ (foldl_cellsWf hm (fun _ _ h1 => cellsWf_cellsOut _ _ (cellsWf_cellsOut _ _ h1)))

theorem reframe_canonical {m : MemSys} {p : Quad} {pfn : Nat} (hm : cellsWf m.phys = true) : cellsWf (reframe m p pfn).phys = true := hm

theorem moveTo_canonical {s : State} {p : Quad} {pfn : Nat} (h : s.Canonical) : (moveTo s p pfn).Canonical := by
  unfold moveTo
  extract_lets l t u
  have ht : t.Canonical := performBefore_canonical h
  have hu : u.Canonical := { ht with phys := moveBytes_canonical ht.phys }
  split
  · exact { hu with phys := foldl_phys hu.phys fun _ _ h => reframe_canonical h }
  · exact { hu with phys := reframe_canonical hu.phys }

theorem evictBlock_canonical {s : State} {p : Quad} (h : s.Canonical) : (evictBlock s p).Canonical := by
  unfold evictBlock
  split
  · exact h
  · exact { foldl_keeps h (by exact fun _ _ h1 => unmapPage_canonical h1) with }

theorem loseSnaps_canonical {s : State} (h : s.Canonical) : (loseSnaps s).Canonical :=
  foldl_keeps h (fun _ _ h1 => ite_keeps (markUnroll_canonical h1) h1)

theorem evictRest_canonical {s : State} {l : List Quad} (h : s.Canonical) : (evictRest s l).Canonical :=
  foldl_keeps (foldl_keeps h (fun _ _ h1 => evictBlock_canonical h1)) (fun _ _ h2 => writeRecord_canonical h2)

theorem execBlockMove_canonical {asid : BitVec 16} {va : DWord} {pfn : BitVec 24} {s : State} (h : s.Canonical) :
    EndsCanonical (execBlockMove asid va pfn s) := by
  unfold execBlockMove
  split
  · exact .next h
  · exact ite_keeps (.next h) (ite_keeps (.next (ite_keeps (moveTo_canonical h) h))
      (ite_keeps (.next (ite_keeps h (evictRest_canonical (loseSnaps_canonical h)))) (.next (startTerminate_canonical
      (loseSnaps_canonical h)))))

theorem startFence_canonical {s : State} {bay : Nat} {whole : Bool} {code : BitVec 8} (h : s.Canonical) :
    (startFence s bay whole code).Canonical := by
  unfold startFence
  split
  · exact ite_keeps (updDev_canonical h) h
  · exact askToLeave_canonical (defer_canonical h)

theorem rerouteChunks_canonical {s : State} (h : s.Canonical) : (rerouteChunks s).Canonical := { h with }

theorem dropLink_canonical {s : State} {cls idx : Nat} {code : BitVec 8} (h : s.Canonical) : (dropLink s cls idx code).Canonical :=
  ite_keeps h (ite_keeps (retireUnit_canonical (foldl_keeps (failWindow_canonical h) (fun _ _ h1 => forgetDevice_canonical h1)))
    (ite_keeps (rerouteChunks_canonical (retireUnit_canonical h)) (retireUnit_canonical h)))

theorem dropPlacement_canonical {s : State} {k : Nat} (h : s.Canonical) : (dropPlacement s k).Canonical :=
  foldl_keeps (foldl_keeps (performBefore_canonical h) (fun _ _ h1 => unmapPage_canonical h1)) (fun _ _ h2 => startTerminate_canonical
    h2)

theorem loseBay_canonical {s : State} {bay : Nat} {code : BitVec 8} (h : s.Canonical) : (loseBay s bay code).Canonical := by
  unfold loseBay
  with_reducible
    exact { dropPlacement_canonical (dropPlacement_canonical (updDev_canonical
        (foldl_keeps (foldl_keeps h (by exact fun _ _ h1 => retire_canonical h1)) (by exact fun _ _ h2 => dropLink_canonical h2))))
        with }

theorem endFence_canonical {s : State} {bay : Nat} {e : Due} (h : s.Canonical) : (endFence s bay e).Canonical := by
  unfold endFence
  extract_lets lost recorded dropped
  have hl : lost.Canonical := foldl_keeps (p := State.Canonical) h fun _ _ h => loseLaunch_canonical h
  have hd : dropped.Canonical := dropPlacement_canonical (unitRecord_canonical (retire_canonical hl))
  exact ite_keeps (loseBay_canonical hd) hd

theorem execBayFence_canonical {bay : Nat} {whole : Bool} {code : BitVec 8} {s : State} (h : s.Canonical) :
    EndsCanonical (execBayFence bay whole code s) := by
  unfold execBayFence
  refine ite_keeps (.next h) ?_
  split
  · exact .next (startFence_canonical h)
  · exact ite_keeps (.next (startFence_canonical h)) (ite_keeps (.next (foldl_keeps (endFence_canonical h)
      (fun _ _ h1 => startFence_canonical h1))) (.next (askToLeave_canonical h)))

theorem retireLink_canonical {s : State} {cls idx : Nat} {code : BitVec 8} (h : s.Canonical) : (retireLink s cls idx code).Canonical :=
  ite_keeps h (ite_keeps (foldl_keeps (dropLink_canonical h) (fun _ _ h1 => startFence_canonical h1)) (dropLink_canonical h))

theorem retireOver_canonical {s : State} {cls idx : Nat} (h : s.Canonical) : (retireOver s cls idx).Canonical :=
  ite_keeps (ite_keeps (breakHalf_canonical h) h) (ite_keeps (ite_keeps (retireLayer_canonical h) h)
    (ite_keeps (retireLink_canonical h) h))

theorem execUnitRetire_canonical {cls idx : Nat} {code : BitVec 8} {mismatch : Option Mismatch} {s : State} (h : s.Canonical) :
    EndsCanonical (execUnitRetire cls idx code mismatch s) := by
  unfold execUnitRetire
  refine ite_keeps (.next h) ?_
  split
  · exact .next (ite_keeps (meetMismatch_canonical h) h)
  · exact ite_keeps (execBayFence_canonical h) (.next (ite_keeps (retireOver_canonical h) h))

theorem eccAt_canonical {s : State} {u : UnitId} {addr : DWord} {corrected : Bool} (h : s.Canonical) :
    (eccAt s u addr corrected).Canonical := ite_keeps (countErrorAt_canonical h) (uncorrectedAt_canonical h)

theorem eccOnly_canonical {s : State} {u : UnitId} {corrected : Bool} (h : s.Canonical) : (eccOnly s u corrected).Canonical :=
  { eccAt_canonical h with }

theorem strikeL1_canonical {s : State} {core : Nat} {asid : BitVec 16} {line sector : Nat} (h : s.Canonical) :
    (strikeL1 s core asid line sector).Canonical := by
  unfold strikeL1
  dsimp only
  split
  · exact poisonSector_canonical { mergeCore_canonical h with }
  · exact { mergeCore_canonical h with }

theorem dropGrant_canonical {s : State} {port n : Nat} (h : s.Canonical) : (dropGrant s port n).Canonical := by
  unfold dropGrant
  split
  · exact ite_keeps h { h with }
  · exact h

theorem strike_canonical {x : Struck} {corrected : Bool} {s : State} (h : s.Canonical) : (strike x corrected s).Canonical := by
  have ecc : ∀ u w, (eccAt s u w corrected).Canonical := fun _ _ => eccAt_canonical h
  have only : ∀ u, (eccOnly s u corrected).Canonical := fun _ => eccOnly_canonical h
  unfold strike
  cases x with
  | register gid cell =>
    dsimp -zeta only
    extract_lets core t
    have ht : t.Canonical := ite_keeps (ecc _ _) (ecc _ _)
    exact ite_keeps ht (markFree_canonical (focus_canonical ht))
  | l1 _ _ _ _ => exact ite_keeps (ecc _ _) (strikeL1_canonical (ecc _ _))
  | cache _ _ _ _ _ => exact ite_keeps (ecc _ _) { ecc _ _ with }
  | scratch _ _ => exact ite_keeps (ecc _ _) (updTeam_canonical (ecc _ _) fun _ h => { h with })
  | fifo _ _ _ => exact ite_keeps (ecc _ _) (updBank_canonical (ecc _ _))
  | l2 sector =>
    dsimp only
    split
    · exact h
    · exact ite_keeps (ecc _ _) (poisonSector_canonical (ecc _ _))
  | store _ _ =>
    exact ite_keeps (ecc _ _) (ite_keeps (updSlot_canonical (ecc _ _) fun _ h => { h with })
      (updTile_canonical (ecc _ _) fun _ h => { h with }))
  | attr _ _ _ => exact ite_keeps h (ite_keeps (only _) { only _ with })
  | tlb _ _ => exact ite_keeps h (ite_keeps (only _) (dropGrant_canonical (only _)))
  | tags _ slice =>
    cases slice with
    | none => exact ite_keeps h (ite_keeps (ecc _ _) (startFence_canonical (ecc _ _)))
    | some _ => exact ite_keeps h (ite_keeps (ecc _ _) (startFence_canonical (ecc _ _)))

theorem startTest_canonical {s : State} {bs : List Byte} (h : s.Canonical) : (startTest s bs).Canonical :=
  askToLeave_canonical (updDev_canonical (foldl_keeps h (fun _ _ h1 => unitRecord_canonical (ite_keeps h1 (retire_canonical h1)))))

theorem endTarget_canonical {t : FieldTest} {failed : List Nat} {s : State} {k : Nat} (h : s.Canonical) :
    (endTarget t failed s k).Canonical :=
  ite_keeps (ite_keeps (endFence_canonical h) (unitRecord_canonical h)) (ite_keeps (updDev_canonical h) (unitRecord_canonical
    (updDev_canonical h)))

theorem execTestPackage_canonical {bytes : List Byte} {failed : List Nat} {s : State} (h : s.Canonical) :
    EndsCanonical (execTestPackage bytes failed s) := by
  unfold execTestPackage
  refine ite_keeps (.next h) ?_
  split
  · exact .next (ite_keeps (startTest_canonical h) (reply_canonical h))
  · exact ite_keeps (.next (askToLeave_canonical h)) (.next (foldl_keeps (updDev_canonical h) (fun _ _ h1 => endTarget_canonical h1)))

theorem setAcc_canonical {s : State} {gone : AccEntry → Bool} {new : List AccEntry} (h : s.Canonical) : (setAcc s gone new).Canonical :=
  { performBefore_canonical h with }

theorem execViolationDrain_canonical {target : Nat} {s : State} (h : s.Canonical) : EndsCanonical (execViolationDrain target s) := by
  unfold execViolationDrain
  refine ite_keeps (.next h) ?_
  split
  · exact .next h
  · exact .next (foldl_keeps (writeRecord_canonical { h with }) (fun _ _ h1 => writeRecord_canonical h1))

/-! ### State.lean -/

theorem State.reset_canonical : State.reset.Canonical where
  phys := cellsWf_nil
  host := cellsWf_nil
  peer := cellsWf_nil
  counters := cellsWf_nil
  g := Group.blank_canonical
  groups := List.forall_mem_nil _
  tm := Team.blank_canonical
  teams := List.forall_mem_nil _

/-! ### Start.lean -/

theorem powerDown_canonical {s : State} {p : Power} (h : s.Canonical) : (powerDown s p).Canonical :=
  { State.reset_canonical with host := h.host, peer := h.peer }

theorem saveBlackBox_canonical {s : State} (h : s.Canonical) : (saveBlackBox s).Canonical := ite_keeps { h with } h

theorem closeMp_canonical {s : State} (h : s.Canonical) : (closeMp s).Canonical :=
  saveBlackBox_canonical (foldl_keeps h (fun _ _ h1 => foldl_keeps h1 (fun _ _ h2 => ite_keeps h2 (unitRecord_canonical h2))))

theorem execStop_canonical {s : State} (h : s.Canonical) : EndsCanonical (execStop s) := by
  unfold execStop
  refine .next ?_
  split
  · exact { h with }
  · exact powerDown_canonical (closeMp_canonical h)

theorem execSupplyLoss_canonical {s : State} (h : s.Canonical) : EndsCanonical (execSupplyLoss s) :=
  .next (powerDown_canonical { h with })

theorem execMpFailure_canonical {s : State} (h : s.Canonical) : EndsCanonical (execMpFailure s) := .next (ite_keeps { h with } h)

theorem countStart_canonical {s : State} (h : s.Canonical) : (countStart s).Canonical := { h with }

theorem beginStart_canonical {s : State} (h : s.Canonical) : (beginStart s).Canonical := countStart_canonical (closeMp_canonical h)

theorem keptMem_canonical {s : State} {asids : List (BitVec 16)} (h : s.Canonical) : cellsWf (keptMem s asids).phys = true :=
  ite_phys cellsWf_nil (cellsWf_filter _ h.phys)

theorem keptSched_canonical {s : State} {asids : List (BitVec 16)} (h : s.Canonical) : cellsWf (keptSched s asids).counters = true :=
  cellsWf_filter _ h.counters

theorem renumberRings_canonical {s : State} (h : s.Canonical) : (renumberRings s).Canonical :=
  foldl_keeps h (fun _ _ h1 => mpWrite_canonical h1)

theorem fenceAtStart_canonical {whole : Bool} {code : BitVec 8} {s : State} {k : Nat} (h : s.Canonical) :
    (fenceAtStart whole code s k).Canonical := ite_keeps h (endFence_canonical h)

theorem fenceCutOff_canonical {s : State} (h : s.Canonical) : (fenceCutOff s).Canonical :=
  foldl_keeps h (fun _ _ h1 => fenceAtStart_canonical h1)

theorem failUnit_canonical {s : State} {u : UnitId} (h : s.Canonical) : (failUnit s u).Canonical :=
  ite_keeps (ite_keeps h (ite_keeps (fenceCore_canonical (retireUnit_canonical h)) (updDev_canonical (retireUnit_canonical h))))
    (ite_keeps (ite_keeps (fenceCore_canonical h) h) (ite_keeps (ite_keeps (fenceCutOff_canonical (fenceAtStart_canonical h)) h)
    (ite_keeps (ite_keeps (retireLayer_canonical h) h) (ite_keeps (ite_keeps (fenceAtStart_canonical h) h)
    (ite_keeps (fenceCutOff_canonical (retireUnit_canonical h)) h)))))

theorem started_canonical {s : State} {cold : Bool} {asids : List (BitVec 16)} {q : StartInput} (h : s.Canonical) :
    (started s cold asids q).Canonical := by
  unfold started
  extract_lets b kept bb thermal off rel fab t t1 t2
  have ht : t.Canonical := { powerDown_canonical h (p := .on) with
    phys := keptMem_canonical h, host := h.host, peer := h.peer, counters := keptSched_canonical h }
  have h1 : t1.Canonical := foldl_keeps (p := State.Canonical) (renumberRings_canonical ht) fun _ _ h => failUnit_canonical h
  have h2 : t2.Canonical := ite_keeps h1 (fenceCutOff_canonical h1)
  exact reply_canonical (bbEvent_canonical h2)

theorem standing_canonical {s : State} {cold : Bool} {p : StartAt} {q : StartInput} (h : s.Canonical) :
    (standing s cold p q).Canonical :=
  { ite_keeps { foldl_keeps (ite_keeps (updDev_canonical (powerDown_canonical h)) (powerDown_canonical h))
    (by exact fun _ _ h1 => failUnit_canonical h1) with } (foldl_keeps (ite_keeps (updDev_canonical (powerDown_canonical h))
    (powerDown_canonical h)) (by exact fun _ _ h2 => failUnit_canonical h2)) with }

theorem start_canonical {s : State} {cold : Bool} {asids : List (BitVec 16)} {q : StartInput} (h : s.Canonical) :
    (start s cold asids q).Canonical := by
  unfold start
  split
  · exact ite_keeps (standing_canonical (beginStart_canonical h)) (ite_keeps (standing_canonical (beginStart_canonical h))
      (reply_canonical (powerDown_canonical (beginStart_canonical h))))
  · exact ite_keeps (started_canonical (beginStart_canonical h)) (reply_canonical (powerDown_canonical (beginStart_canonical h)))

/-! ### Clock.lean -/

theorem fireWatch_canonical {s : State} {w : Watch} (h : s.Canonical) : (fireWatch s w).Canonical := by
  unfold fireWatch
  refine ite_keeps h ?_
  split
  · exact fireBarrier_canonical h
  · split
    · exact trapWaiter_canonical (fifoRecord_canonical (focus_canonical h))
    · exact h
  · split
    · exact fireRdv_canonical h
    · exact h
  · split
    · exact refuseAll_canonical h
    · exact h
  · split
    · exact fireFrozen_canonical h
    · exact h

theorem noteUnfit_canonical {s : State} (h : s.Canonical) : (noteUnfit s).Canonical := { h with }

theorem passTicks_canonical {s : State} {n : Nat} (h : s.Canonical) : (passTicks s n).Canonical :=
  ite_keeps (saveBlackBox_canonical (noteCursors_canonical (elapse_canonical (noteUnfit_canonical h)))) (noteCursors_canonical
    (elapse_canonical (noteUnfit_canonical h)))

theorem clock_canonical : ∀ {fuel : Nat} {s : State} {n : Nat}, s.Canonical → (clock fuel s n).Canonical
  | 0, _, _, h => passTicks_canonical h
  | fuel + 1, s, n, h => by
    unfold clock
    split
    · exact passTicks_canonical h
    · exact ite_keeps (passTicks_canonical h) (clock_canonical (passTicks_canonical
        (foldl_keeps (p := State.Canonical) (passTicks_canonical h) fun _ _ h => fireWatch_canonical h)))

theorem tick_canonical {s : State} {n : Nat} (h : s.Canonical) : (tick s n).Canonical :=
  ite_keeps (clock_canonical h) (elapse_canonical h)

/-! ### Loader.lean -/

theorem writeSpan_canonical {s : State} {asid : BitVec 16} {va : Nat} {bs : List Byte} (h : s.Canonical) :
    (writeSpan s asid va bs).Canonical := foldl_keeps h (fun _ _ h1 => mpWrite_canonical h1)

theorem placeObject_canonical {s : State} {asid : BitVec 16} {base : Nat → Nat} {bs : List Byte} (h : s.Canonical) :
    (placeObject s asid base bs).Canonical :=
  updCtx_canonical (tick_canonical (writeSpan_canonical (writeSpan_canonical (writeSpan_canonical h))))

theorem unloadObject_canonical {s : State} {asid : BitVec 16} {pool : DWord} (h : s.Canonical) : (unloadObject s asid pool).Canonical :=
  updCtx_canonical h

theorem execLoadObject_canonical {asid : BitVec 16} {text pool data : DWord} {bytes : Option (List Byte)} {s : State}
    (h : s.Canonical) : EndsCanonical (execLoadObject asid text pool data bytes s) := by
  unfold execLoadObject
  refine ite_keeps (.next h) ?_
  split
  · exact .next (unloadObject_canonical h)
  · exact .next (reply_canonical h)
  · exact ite_keeps (.next h) (.next (reply_canonical (placeObject_canonical (ite_keeps (admitCtx_canonical h) h))))

/-! ### Scribe.lean -/

theorem withScribe_canonical {i : Shape} {x : Args} {s : State} {k : State → Nat × Nat → Res} (h : s.Canonical)
    (hk : ∀ t a, t.Canonical → (k t a).Canonical) : (withScribe i x s k).Canonical := by
  unfold withScribe
  refine ite_keeps (raiseEncoding_canonical h) (ite_keeps (raiseExec_canonical h) ?_)
  refine ite_keeps ?_ (whenReady_canonical h (fun _ h1 => ite_keeps (raisePoison_canonical (readAll_canonical h1))
      (hk _ _ (readAll_canonical h1))))
  refine lclRegion_canonical h fun _ h2 => ?_
  split
  · exact raiseExec_canonical h2
  · exact hk _ _ h2

theorem checkScribe_canonical {x : Args} {r : Nat × Nat} {s : State} (h : s.Canonical) : (checkScribe x r s).Canonical :=
  ite_keeps (raiseExec_canonical h) (whenReady_canonical h (fun _ h1 => ite_keeps (raisePoison_canonical (readAll_canonical h1))
    (.done (resultS_canonical (readAll_canonical h1)))))

theorem foldBody_canonical {x : Args} {sub : Bool} {s : State} (h : s.Canonical) : (foldBody x sub s).Canonical :=
  .done (resultBlock_canonical h)

theorem execScrrd_canonical {x : Args} {s : State} (h : s.Canonical) : EndsCanonical (execScrrd x s) := by
  unfold execScrrd
  with_reducible exact run_canonical (fun _ h1 => .done { resultBlock_canonical h1 with tm := { h1.tm with } }) h

/-! ### Dispatch.lean -/

/-- What each instruction and each event does keeps the stores canonical. -/
theorem exec_canonical {i : Instr} {s : State} (h : s.Canonical) : EndsCanonical (exec i s) := by
  unfold exec
  cases i with
  | sadd _ | ssub _ | smul _ | smulh _ | smulhn _ | sdiv _ | sdivn _ | srem _ | sremn _ | sand _ | sor _ | sxor _ | sandn _
  | sshl _ | sshr _ | ssra _ | srot _ | smin _ | smax _ | sminn _ | smaxn _ | scmp _ _ | ssel _ | smov _ | sclz _ | spopc _
  | sbrev _ | sbfx _ | sbfxSx _ | sbfi _ => exact run_canonical (fun _ h => scalarA_canonical h) h
  | saddC _ | ssubC _ | smulC _ | smulhC _ | smulhnC _ | sdivC _ | sdivnC _ | sremC _ | sremnC _ | sandC _ | sorC _ | sxorC _
  | sandnC _ | sshlC _ | sshrC _ | ssraC _ | srotC _ | sminC _ | smaxC _ | sminnC _ | smaxnC _ | scmpC _ | sselC _ | smovC _
  | sclzC _ | spopcC _ | sbrevC _ | sbfxC _ | sbfxSxC _ | sbfiC _ => exact run_canonical (fun _ h => scalarC_canonical h) h
  | sadd64 _ | ssub64 _ | smul64 _ => exact run_canonical (fun _ h => scalarA64_canonical h) h
  | sadd64C _ | ssub64C _ | smul64C _ => exact run_canonical (fun _ h => scalarC64_canonical h) h
  | br _ | jmp _ => exact run_canonical (fun _ h => transferTo_canonical h (fun _ h2 => h2)) h
  | brc _ => exact run_canonical (fun _ h => ite_keeps (transferTo_canonical h (fun _ h2 => h2)) (.done h)) h
  | brv _ | brvNot _ => exact run_canonical (fun _ h => divergent_canonical h) h
  | call _ | callIndirect _ => exact run_canonical (fun _ h => callTo_canonical h) h
  | ret _ => exact execRet_canonical h
  | join _ => exact execJoin_canonical h
  | loop _ =>
    exact run_canonical (fun _ h => ite_keeps (.done (resultS_canonical h)) (transferTo_canonical h (fun _ h2 => resultS_canonical
        h2))) h
  | pushp _ => exact execPushp_canonical h
  | invp _ => exact execInvp_canonical h
  | popp _ => exact execPopp_canonical h
  | exit _ => exact run_canonical (fun _ h => exitBody_canonical h) h
  | reconverge => exact .next (joinHere_canonical h)
  | spinfoState _ | spinfoActive _ | spinfoExec _ | ballot _ | voteAll _ | voteAny _ | voteUni _ | tstateSlot _ | tstateTile _
  | tstateFlags _ => exact run_canonical (fun _ h => .done (resultS_canonical h)) h
  | yield _ | nop _ => exact run_canonical (fun _ h => .done h) h
  | brk _ | brkCode _ | trap _ => exact run_canonical (fun _ h => raiseExec_canonical h) h
  | rte _ => exact run_canonical (fun _ h => returnBody_canonical h) h
  | setfmt _ => exact run_canonical (fun _ h => writeFmt_canonical h) h
  | setrnd _ => exact run_canonical (fun _ h => writeRnd_canonical h) h
  | sget _ => exact run_canonical (fun _ h => readSpecial_canonical h) h
  | sput _ => exact run_canonical (fun _ h => writeSpecial_canonical h) h
  | ltm _ => exact execLtm_canonical h
  | ppoint _ => exact execPpoint_canonical h
  | lnch _ => exact run_canonical (fun _ h => launchBody_canonical h) h
  | sigDev _ | sigSys _ => exact run_canonical (fun _ h => signalBody_canonical h) h
  | wget _ => exact execWget_canonical h
  | bmode _ => exact run_canonical (fun _ h => bankBody_canonical h) h
  | xinv _ => exact run_canonical (fun _ h => .done (dropCode_canonical h)) h
  | cmaintInv _ => exact run_canonical (fun _ h => .done (dropLeases_canonical h)) h
  | cmaintMerge _ => exact run_canonical (fun _ h => .done (mergeCore_canonical h)) h
  | cmaintPurge _ | cmaintPurgeasid _ => exact run_canonical (fun _ h => purgeLines_canonical h) h
  | halt _ => exact run_canonical (fun _ h => .done (startTerminate_canonical (writeRecord_canonical h))) h
  | sysc _ => exact execSysc_canonical h
  | syscReply _ _ _ => exact execSyscReply_canonical h
  | vadd _ | vsub _ | vmul _ | vmulh _ | vmad _ | vmin _ | vmax _ | vabs _ | vand _ | vor _ | vxor _ | vandn _ | vclz _
  | vpopc _ | vmov _ => exact run_canonical (fun _ h => laneWise_canonical h) h
  | vshl _ | vshr _ | vsra _ | vbfx _ => exact run_canonical (fun _ h => laneWord_canonical h) h
  | vbfi _ | vsel _ | rngf _ => exact run_canonical (fun _ h => .done (writeTy_canonical h)) h
  | vcmp _ => exact run_canonical (fun _ h => .done (laneMask_canonical h)) h
  | vdot4 _ | vdot4Mix _ | vdot2 _ | vdot2Mix _ => exact run_canonical (fun _ h => laneDot_canonical h) h
  | vadd64 _ | fclass _ => exact run_canonical (fun _ h => .done (writeVec_canonical h)) h
  | fadd _ | fsub _ | fmul _ | ffma _ | fsqrt _ => exact run_canonical (fun _ h => rounded_canonical h) h
  | fmin _ | fmax _ | fdiv _ | fscale _ | fsgnCopy _ | fsgnNcopy _ | fsgnXor _ | cvt _ | dequant _ | lcvtTo _ | lcvtFrom _
  | lcvtProd _ => exact run_canonical (fun _ h => laneResult_canonical h) h
  | fcmp _ => exact run_canonical (fun _ h => withFlags_canonical h (laneMask_canonical h)) h
  | frcp _ | frsq _ | fexp2 _ | flog2 _ | fsin _ | fcos _ | ftanh _ => exact run_canonical (fun _ h => approximate_canonical h) h
  | fxacc _ | fxset _ => exact run_canonical (fun _ h => fxResult_canonical (afterAnchor_canonical h)) h
  | fxcvt _ => exact run_canonical (fun _ h => laneResult_canonical (afterAnchor_canonical h)) h
  | fxadd _ => exact run_canonical (fun _ h => fxResult_canonical h) h
  | fxpkFx64 _ | fxpkFx128 _ => exact run_canonical (fun _ h => fxResult_canonical (afterScalar_canonical h)) h
  | cvtIns _ => exact run_canonical (fun _ h => ite_keeps (laneResult_canonical h) (withFlags_canonical h (writeVec_canonical h))) h
  | quant _ => exact run_canonical (fun _ h => ite_keeps (raiseEncoding_canonical h) (withFlags_canonical h (writeVec_canonical h))) h
  | perm _ | shfl _ | bcastFirst _ => exact run_canonical (fun _ h => moveLanes_canonical h) h
  | bcast _ => exact run_canonical (fun _ h => moveLanes_canonical (afterScalar_canonical h)) h
  | redx _ | scanx _ => exact run_canonical (fun _ h => withFlags_canonical h (writeTy_canonical h)) h
  | rng _ => exact run_canonical (fun _ h => .done (writeWords_canonical h)) h
  | vrd _ => exact run_canonical (fun _ h => ite_keeps (.raise h) (.done (writeVec_canonical h))) h
  | vwr _ =>
    exact run_canonical (fun _ h => .done (foldl_keeps (latchKind_canonical h) (fun _ _ h2 => ite_keeps (setLatch_canonical h2)
        (setV_canonical (setLatch_canonical h2))))) h
  | ld _ => exact run_canonical (fun _ h => loadScalar_canonical h) h
  | st _ => exact run_canonical (fun _ h => storeScalar_canonical h) h
  | vld _ | vldc _ => exact run_canonical (fun _ h => loadLanes_canonical h) h
  | vst _ | vstc _ => exact run_canonical (fun _ h => storeLanes_canonical h) h
  | tld _ => exact run_canonical (fun _ h => loadWalk_canonical h) h
  | tst _ => exact run_canonical (fun _ h => storeWalk_canonical h) h
  | lld _ => exact run_canonical (fun _ h => loadLocal_canonical h) h
  | lst _ => exact run_canonical (fun _ h => storeLocal_canonical h) h
  | atxCas _ | atxXchg _ | atf _ => exact run_canonical (fun _ h => atomBody_canonical h) h
  | red _ => exact run_canonical (fun _ h => reduceLanes_canonical h) h
  | mcst _ => exact run_canonical (fun _ h => multicast_canonical h) h
  | mcstReduce _ => exact run_canonical (fun _ h => multicastReduce_canonical h) h
  | fenceRel _ => exact run_canonical (fun _ h => withRelease_canonical h (fun _ h2 => .done h2)) h
  | fenceAcq _ => exact run_canonical (fun _ h => withAcquire_canonical h (fun _ h2 => .done h2)) h
  | fenceAr _ => exact run_canonical (fun _ h => withRelease_canonical h (fun _ h2 => .done (acquire_canonical h2))) h
  | ldacq _ => exact run_canonical (fun _ h => loadAcquire_canonical h) h
  | strel _ => exact run_canonical (fun _ h => withRelease_canonical h (fun _ h2 => storeScalar_canonical h2)) h
  | pfch _ => exact run_canonical (fun _ h => .done (prefetch_canonical h)) h
  | hld _ => exact run_canonical (fun _ h => loadRecord_canonical h (fun _ _ h2 => takeRecord_canonical h2)) h
  | hldPool _ =>
    exact run_canonical (fun _ h => ite_keeps (raiseExec_canonical h) (loadRecord_canonical h (fun _ _ h2 => takeRecord_canonical h2)))
        h
  | hst _ =>
    exact run_canonical (fun _ h => withHandle_canonical h (fun _ => ite_keeps (raiseExec_canonical h) (storeElems_canonical h
        (fun _ h2 => .done h2)))) h
  | hset _ => exact execHset_canonical h
  | fpush _ | fpushTry _ => exact run_canonical (fun _ h => pushFifo_canonical h) h
  | fpop _ | fpopTry _ => exact run_canonical (fun _ h => popFifo_canonical h) h
  | bcopyIn _ | bcopyOut _ => exact run_canonical (fun _ h => copyLocal_canonical h) h
  | bcopyInSlot _ => exact run_canonical (fun _ h => copySlotBody_canonical h) h
  | bfillLcl _ => exact run_canonical (fun _ h => fillLocal_canonical h) h
  | bfillT _ => exact run_canonical (fun _ h => fillTensor_canonical h) h
  | engineComplete _ => exact execEngineComplete_canonical h
  | barInit _ => exact run_canonical (fun _ h => initBarrier_canonical h) h
  | barArrive _ | barSync _ | barSyncSt _ => exact run_canonical (fun _ h => arriveNumbered_canonical h) h
  | barInval _ => exact run_canonical (fun _ h => invalBarrier_canonical h) h
  | gbar _ | gbarSt _ => exact run_canonical (fun _ h => gangArrival_canonical h) h
  | barWaitRelease _ _ => exact ite_keeps (.next (leaveBarrier_canonical (focus_canonical h))) (.next h)
  | coll _ => exact run_canonical (fun _ h => collBody_canonical h) h
  | kvalloc _ | kvget _ | kvshare _ | kvfree _ => exact run_canonical (fun _ h => kvBody_canonical h) h
  | kvReply _ _ => exact execKvReply_canonical h
  | blockCopyOnWrite _ _ => exact execBlockCopyOnWrite_canonical h
  | oclaim _ => exact run_canonical (fun _ h => claimBody_canonical h) h
  | orel _ => exact run_canonical (fun _ h => releaseBody_canonical h) h
  | ofill _ => exact run_canonical (fun _ h => fillSlotBody_canonical h) h
  | mma _ => exact run_canonical (fun _ h => productBody_canonical h) h
  | mmag _ => exact run_canonical (fun _ h => mmagBody_canonical h) h
  | mmarow _ => exact run_canonical (fun _ h => rowProductBody_canonical h) h
  | passStart _ => exact execPassStart_canonical h
  | passEnd _ => exact execPassEnd_canonical h
  | aclr _ => exact run_canonical (fun _ h => clearBody_canonical h) h
  | adrain _ => exact run_canonical (fun _ h => drainBody_canonical h) h
  | adrainRaw _ => exact run_canonical (fun _ h => drainRawBody_canonical h) h
  | adrainRawSlot _ => exact run_canonical (fun _ h => drainSlotBody_canonical h) h
  | aload _ | aloadAdd _ => exact run_canonical (fun _ h => loadTileBody_canonical h) h
  | aloadRaw _ => exact run_canonical (fun _ h => loadRawBody_canonical h) h
  | mchk _ | mchkSt _ => exact run_canonical (fun _ h => checkBody_canonical h) h
  | isect _ => exact run_canonical (fun _ h => isectBody_canonical h) h
  | isdot _ => exact run_canonical (fun _ h => isdotBody_canonical h) h
  | spmulo _ => exact run_canonical (fun _ h => spmuloBody_canonical h) h
  | spmerge _ => exact run_canonical (fun _ h => spmergeBody_canonical h) h
  | sptile _ => exact run_canonical (fun _ h => sptileBody_canonical h) h
  | lshfam _ => exact run_canonical (fun _ h => loadFamily_canonical h) h
  | lshproj _ => exact run_canonical (fun _ h => projectBody_canonical h) h
  | lshprobe _ => exact run_canonical (fun _ h => probeBody_canonical h) h
  | lshins _ | lshdel _ => exact run_canonical (fun _ h => updateBody_canonical h) h
  | lshstep _ => exact run_canonical (fun _ h => stepBody_canonical h) h
  | lshstat _ => exact run_canonical (fun _ h => statBody_canonical h) h
  | retrievalComplete _ => exact execRetrievalComplete_canonical h
  | frozenBucketTimeout _ => exact execFrozenBucketTimeout_canonical h
  | scrb _ => exact run_canonical (fun _ h => withScribe_canonical h (fun _ _ h2 => .done (resultBlock_canonical h2))) h
  | scrchk _ => exact run_canonical (fun _ h => withScribe_canonical h (fun _ _ h2 => checkScribe_canonical h2)) h
  | scrfold _ | scrfoldSub _ => exact run_canonical (fun _ h => foldBody_canonical h) h
  | scrrd _ => exact execScrrd_canonical h
  | fetchLine _ _ _ => exact execFetchLine_canonical h
  | homeRead _ _ _ => exact execHomeRead_canonical h
  | storeAtHome _ => exact execStoreAtHome_canonical h
  | sectorUnpin _ _ _ => exact execSectorUnpin_canonical h
  | pageMapReply _ _ _ => exact execPageMapReply_canonical h
  | pacFill _ _ _ => exact ite_keeps (.next (fillPac_canonical h)) (.next h)
  | launchMessage _ _ => exact execLaunchMessage_canonical h
  | gangPlacement => exact execGangPlacement_canonical h
  | priorityAging => exact execPriorityAging_canonical h
  | reservation => exact execReservation_canonical h
  | reservationPreempt _ => exact .next (foldl_keeps h (fun _ _ h1 => requestHalt_canonical h1))
  | groupRetire _ => exact execGroupRetire_canonical h
  | teamRetire _ => exact ite_keeps (.next h) (.next (retireGang_canonical (updTeam_canonical h (fun _ _ => freedTeam_canonical))))
  | gridComplete _ =>
    exact ite_keeps (.next h) (ite_keeps (.next (mergeLaunches_canonical h))
        (.next (ite_keeps (addCounter_canonical (foldl_keeps (removeLaunches_canonical (mergeLaunches_canonical h))
        (fun _ _ h1 => bbEvent_canonical h1))) (foldl_keeps (removeLaunches_canonical (mergeLaunches_canonical h))
        (fun _ _ h2 => bbEvent_canonical h2)))))
  | counterAssign _ _ => exact execCounterAssign_canonical h
  | queueOpen _ _ => exact execQueueOpen_canonical h
  | preemptRequest _ => exact .next (requestHalt_canonical h)
  | gangHalt _ => exact execGangHalt_canonical h
  | saveComplete _ => exact execSaveComplete_canonical h
  | gangResume _ => exact execGangResume_canonical h
  | contextSwitch _ => exact execContextSwitch_canonical h
  | unplaceableTerminate _ => exact .next (ite_keeps (startTerminate_canonical h) h)
  | barrierTimeout _ _ => exact .next (ite_keeps (fireBarrier_canonical h) h)
  | fifoTimeout _ _ => exact execFifoTimeout_canonical h
  | rendezvousTimeout _ => exact execRendezvousTimeout_canonical h
  | collJoinTimeout _ => exact execCollJoinTimeout_canonical h
  | chunkArrival _ _ _ => exact execChunkArrival_canonical h
  | chunkResend _ => exact .next (updChunk_canonical h)
  | collFailureNotice _ => exact execCollFailureNotice_canonical h
  | remoteAtomicReply _ _ _ _ => exact execRemoteAtomicReply_canonical h
  | fenceToken _ => exact execFenceToken_canonical h
  | fenceAck _ _ => exact execFenceAck_canonical h
  | windowGrant _ _ _ => exact execWindowGrant_canonical h
  | windowRevoke _ _ _ => exact ite_keeps (.next h) (.next { foldl_keeps h (by exact fun _ _ h1 => failPosted_canonical h1) with })
  | destUnreachable _ => exact execDestUnreachable_canonical h
  | hostAccess _ _ _ _ => exact execHostAccess_canonical h
  | unifiedRangeChange _ _ _ _ => exact execUnifiedRangeChange_canonical h
  | checkpointRequest _ _ => exact execCheckpointRequest_canonical h
  | checkpointAbandon => exact execCheckpointAbandon_canonical h
  | restoreRequest _ _ => exact execRestoreRequest_canonical h
  | coldStart _ => exact .next (start_canonical h)
  | warmStart _ _ => exact .next (ite_keeps h (start_canonical h))
  | stop => exact execStop_canonical h
  | powerDomainTimeout _ _ => exact .next (ite_keeps (reply_canonical (powerDown_canonical h)) h)
  | attestationRequest _ => exact ite_keeps (.next h) (.next (replyBytes_canonical h))
  | powerLoop _ => exact execPowerLoop_canonical h
  | thermalClamp _ => exact .next (ite_keeps (clampBay_canonical h) h)
  | blackBoxCopy => exact .next (ite_keeps (saveBlackBox_canonical h) h)
  | hbmScrub _ _ => exact execHbmScrub_canonical h
  | linkRetransmit _ _ _ => exact ite_keeps (.next h) (.next (ite_keeps (countError_canonical h) (uncorrected_canonical h)))
  | unitRetire _ _ _ _ => exact execUnitRetire_canonical h
  | halfWidthSwitch _ _ =>
    exact ite_keeps (.next h) (ite_keeps (.next (askToLeave_canonical h)) (.next (updDev_canonical (foldl_keeps h
        (fun _ _ h1 => retireUnit_canonical h1)))))
  | layerRetire _ _ => exact ite_keeps (.next h) (.next (retireLayer_canonical h))
  | blockMove _ _ _ => exact execBlockMove_canonical h
  | bridgeRetire _ _ => exact ite_keeps (.next h) (.next (retireLink_canonical h))
  | bayFence _ _ _ => exact execBayFence_canonical h
  | testPackage _ _ => exact execTestPackage_canonical h
  | snapshotCopy _ _ => exact execSnapshotCopy_canonical h
  | rollback _ =>
    exact ite_keeps (.next h) (.next (ite_keeps (rollBack_canonical (startRollback_canonical (mergeLaunches_canonical h)))
        (startRollback_canonical (mergeLaunches_canonical h))))
  | contextTerminate _ _ => exact execContextTerminate_canonical h
  | launchKill _ => exact .next (ite_keeps h (ite_keeps (endKill_canonical h) (startKill_canonical h)))
  | debugResume _ _ =>
    exact ite_keeps (.next h) (ite_keeps (.next (startTerminate_canonical h)) (.next (resumeHeld_canonical (focus_canonical h))))
  | accessTableWrite _ _ _ => exact ite_keeps (.next h) (.next (setAcc_canonical h))
  | violationDrain _ => exact execViolationDrain_canonical h
  | loadObject _ _ _ _ _ => exact execLoadObject_canonical h
  | illegalInstruction _ _ => exact .next (ite_keeps (takeTrap_canonical h) h)
  | fillDrainComplete _ _ => exact execFillDrainComplete_canonical h
  | lineEviction _ _ _ _ => exact execLineEviction_canonical h
  | supplyLoss => exact execSupplyLoss_canonical h
  | mpFailure => exact execMpFailure_canonical h
  | debuggerAttach _ _ => exact .next (updCtx_canonical h)
  | mappingChange _ => exact execMappingChange_canonical h
  | releaseWaitEnd _ _ => exact .next (updSplit_canonical h)

/-! ### Remote.lean -/

theorem awayJoins_canonical {s : State} {r : CollRec} (h : s.Canonical) : (awayJoins s r).Canonical := by
  unfold awayJoins
  refine ite_keeps h ?_
  split
  · rename_i hr1
    have h1 := fst_canonical (gatherColl_canonical h) hr1
    exact beginColl_canonical h1
  · rename_i hr2
    have h2 := fst_canonical (gatherColl_canonical h) hr2
    exact h2

theorem awayStops_canonical {s : State} {cid : BitVec 16} (h : s.Canonical) : (awayStops s cid).Canonical := { h with }

theorem awaySends_canonical {s : State} {port : Nat} {c : Coll} {x : Chunk} (h : s.Canonical) : (awaySends s port c x).Canonical := by
  unfold awaySends
  split
  · exact ite_keeps { newId_canonical h with } h
  · exact h

theorem answer_canonical {s : State} {dev : BitVec 12} {ws : List DWord} (h : s.Canonical) : (answer s dev ws).Canonical := { h with }

theorem grantPeer_canonical {s : State} {dev : BitVec 12} {asid : BitVec 16} {va : DWord} {write : Bool} {idx : Option Nat}
    (h : s.Canonical) : (grantPeer s dev asid va write idx).Canonical := by
  unfold grantPeer
  refine ite_keeps h ?_
  split
  · exact ite_keeps (answer_canonical (setAcc_canonical h)) (answer_canonical h)
  · exact answer_canonical h

theorem revokePeer_canonical {s : State} {dev : BitVec 12} {idx : Nat} (h : s.Canonical) : (revokePeer s dev idx).Canonical :=
  ite_keeps h (setAcc_canonical h)

theorem peerAct_canonical {s : State} {p : Quad} {va : Nat} {op : PeerOp} (h : s.Canonical) : (peerAct s p va op).1.Canonical := by
  unfold peerAct
  split
  · exact recallLine_canonical h
  · exact homeWrite_canonical (recallLine_canonical h)
  · exact homeWrite_canonical (recallLine_canonical h)
  · exact homeWrite_canonical (recallLine_canonical h)

theorem setPeerSrc_canonical {s : State} {y : PeerSrc} (h : s.Canonical) : (setPeerSrc s y).Canonical := { h with }

theorem notePassed_canonical {s : State} {y : PeerSrc} {w : Nat} (h : s.Canonical) : (notePassed s y w).Canonical :=
  setPeerSrc_canonical h

theorem peerAccess_canonical {s : State} {port : Nat} {dev : BitVec 12} {src : Nat} {asid : BitVec 16} {va : DWord} {op : PeerOp}
    (h : s.Canonical) : (peerAccess s port dev src asid va op).Canonical := by
  unfold peerAccess
  refine ite_keeps h ?_
  extract_lets y fail
  have hfail : ∀ {s : State}, s.Canonical → (fail s).Canonical := fun h =>
    ite_keeps (notePassed_canonical (answer_canonical h)) (answer_canonical h)
  split
  · exact hfail h
  · exact hfail (logViolation_canonical h)
  · next p _ =>
    have hr : (peerAct s p va.toNat op).1.Canonical := peerAct_canonical h
    exact ite_keeps h (ite_keeps (notePassed_canonical hr) { hr with })

theorem peerToken_canonical {s : State} {port : Nat} {dev : BitVec 12} {src count : Nat} (h : s.Canonical) :
    (peerToken s port dev src count).Canonical := ite_keeps h { h with }

theorem setDenied_canonical {s : State} {asid : BitVec 16} {va : DWord} {write on : Bool} (h : s.Canonical) :
    (setDenied s asid va write on).Canonical := { ite_keeps (performBefore_canonical h) h with }

theorem remote_canonical {m : Remote} {s : State} (h : s.Canonical) : (remote m s).Canonical := by
  unfold remote
  split
  · exact awayJoins_canonical h
  · exact awayStops_canonical h
  · split
    · exact h
    · exact awaySends_canonical h
  · exact { h with }
  · exact grantPeer_canonical h
  · exact revokePeer_canonical h
  · exact setDenied_canonical h
  · exact peerAccess_canonical h
  · exact peerToken_canonical h
  · exact resendSent_canonical h
  · exact verifySent_canonical h
  · split
    · exact noteLost_canonical h
    · exact h
  · exact ite_keeps { h with } h

/-! ### Turn.lean -/

theorem issueOver_canonical : ∀ {fuel turn : Nat} {s : State}, s.Canonical → EndsCanonical (issueOver fuel turn s)
  | fuel, turn, s, h => by
    have hl := lookAtPc_canonical h
    unfold issueOver
    refine ite_keeps (exec_canonical h) ?_
    split
    · rename_i hr
      have h1 := fst_canonical hl hr
      exact ite_keeps (.next (park_canonical h1)) (exec_canonical h1)
    · rename_i hr
      exact exec_canonical (fst_canonical hl hr)
    · rename_i hr
      have h1 := fst_canonical hl hr
      dsimp only
      split
      · exact .next { h1 with g := { h1.g with } }
      · exact issueOver_canonical { h1 with }
    · rename_i hr
      exact .next (takeTrap_canonical (fst_canonical hl hr))
    · rename_i hr
      exact .next (park_canonical (fst_canonical hl hr))

theorem issueAt_canonical {turn : Nat} {s : State} (h : s.Canonical) : EndsCanonical (issueAt turn s) := by
  unfold issueAt
  split
  · exact .next (takeEvent_canonical h)
  · exact issueOver_canonical h

theorem noteTurn_canonical {s : State} (h : s.Canonical) : (noteTurn s).Canonical := ite_keeps h { h with g := { h.g with } }

theorem issueHere_canonical {s : State} (h : s.Canonical) : EndsCanonical (issueHere s) :=
  ite_keeps (ite_keeps (.next (noteTurn_canonical h)) (issueAt_canonical (noteTurn_canonical h))) (.next h)

/-! ### Step.lean -/

theorem loadHere_canonical {s : State} {gid id k : Nat} (h : s.Canonical) : (loadHere s gid id k).Canonical :=
  ite_keeps (performLate_canonical (focusGroup_canonical h)) h

theorem issueLate_canonical {s : State} (h : s.Canonical) : EndsCanonical (issueLate s) := by
  have h1 : EndsCanonical (issueHere { s with sp := { s.sp with defer := true } }) := issueHere_canonical { h with }
  unfold issueLate
  split
  · rename_i hr
    exact .next (settleDefer_canonical (h1.of_next hr))
  · exact h1

theorem perform_canonical {a : Act} {s : State} (h : s.Canonical) : EndsCanonical (perform a s) := by
  unfold perform
  split
  · exact issueHere_canonical (focus_canonical h)
  · exact issueLate_canonical (focus_canonical h)
  · exact .next (loadHere_canonical h)
  · exact .next (remote_canonical h)
  · exact .next (ite_keeps (strike_canonical h) h)
  · exact ite_keeps (.next h) (exec_canonical h)

theorem step_canonical {s : State} (h : s.Canonical) : EndsCanonical (step s) := by
  unfold step
  split
  · exact perform_canonical (tick_canonical { h with })
  · split
    · exact perform_canonical (tick_canonical h)
    · exact .next (tick_canonical h)

/-! ### The invariant in the model's words -/

theorem Image.canonical_iff {m : Image} :
    m.Canonical ↔ cellsWf m.sregs = true ∧ cellsWf m.vregs = true ∧ cellsWf m.masks = true ∧ cellsWf m.latches = true :=
  ⟨fun ⟨a, b, c, d⟩ => ⟨a, b, c, d⟩, fun ⟨a, b, c, d⟩ => ⟨a, b, c, d⟩⟩

theorem Group.canonical_iff {g : Group} : g.Canonical ↔ g.wf = true := by
  simp only [Group.wf, Bool.and_eq_true, Option.all_eq_true, ← Image.canonical_iff, and_assoc]
  exact ⟨fun ⟨a, b, c, d, e⟩ => ⟨a, b, c, d, e⟩, fun ⟨a, b, c, d, e⟩ => ⟨a, b, c, d, e⟩⟩

theorem TeamImage.canonical_iff {m : TeamImage} :
    m.Canonical ↔
      cellsWf m.lcl = true ∧ (∀ o ∈ m.slots, cellsWf o.bytes = true) ∧ ∀ t ∈ m.tiles, cellsWf t.elems = true :=
  ⟨fun ⟨a, b, c⟩ => ⟨a, fun o ho => (b o ho).bytes, fun t ht => (c t ht).elems⟩,
    fun ⟨a, b, c⟩ => ⟨a, fun o ho => ⟨b o ho⟩, fun t ht => ⟨c t ht⟩⟩⟩

theorem Team.canonical_iff {t : Team} : t.Canonical ↔ t.wf = true := by
  simp only [Team.wf, Bool.and_eq_true, Option.all_eq_true, ← TeamImage.canonical_iff, List.all_eq_true, and_assoc]
  exact ⟨fun ⟨a, b, c, d⟩ => ⟨a, fun o ho => (b o ho).bytes, fun t ht => (c t ht).elems, d⟩,
    fun ⟨a, b, c, d⟩ => ⟨a, fun o ho => ⟨b o ho⟩, fun t ht => ⟨c t ht⟩, d⟩⟩

theorem State.canonical_iff {s : State} : s.Canonical ↔ s.wf = true := by
  simp only [State.wf, Memory.wf, Bool.and_eq_true, List.all_eq_true, ← Group.canonical_iff, ← Team.canonical_iff, and_assoc]
  exact ⟨fun ⟨a, b, c, d, e, f, g, i⟩ => ⟨a, b, c, d, e, f, g, i⟩, fun ⟨a, b, c, d, e, f, g, i⟩ => ⟨a, b, c, d, e, f, g, i⟩⟩

/-- Settles O3: each function that `step` is made of keeps the stores canonical, since it writes them by `poke` and its kin alone. -/
theorem stepKeepsStoresCanonical : Obligations.StepKeepsStoresCanonical := fun _ _ h e =>
  State.canonical_iff.1 ((step_canonical (State.canonical_iff.2 h)).of_next e)

/-! ## What becomes of a store (O47)

At its core a store of an element changes what L1 and the cluster cache hold and sends the bytes (`putOne_near`); a first
reduction holds its line (`reduceOne_first`); at the home the bytes are written or pend (`storeArrive_permitted`), or the
store is dropped (`storeArrive_denied`). -/

/-! ### Lists of bytes by place -/

theorem find?_assocSet {β : Type} (k j : Nat) (v : β) : ∀ l : List (Nat × β),
    (assocSet l k v).find? (fun b => b.1 == j) = if k = j then some (k, v) else l.find? fun b => b.1 == j
  | [] => by by_cases h : k = j <;> simp [assocSet, h]
  | (a, b) :: l => by
    have ih := find?_assocSet k j v l
    rw [assocSet]
    split
    · rename_i ha
      by_cases hj : k = j <;> simp [ha, hj]
    · rename_i ha
      by_cases hj : a = j
      · have hk : k ≠ j := fun e => ha (hj.trans e.symm)
        simp [hj, hk]
      · rw [List.find?_cons_of_neg (by simpa using hj), List.find?_cons_of_neg (by simpa using hj), ih]

theorem find?_foldl_assocSet_other {β : Type} (off j : Nat) : ∀ (l : List (Nat × β)) (m : List (Nat × β)),
    (∀ b ∈ l, off + b.1 ≠ j) →
      (l.foldl (fun a b => assocSet a (off + b.1) b.2) m).find? (fun b => b.1 == j) = m.find? fun b => b.1 == j
  | [], _, _ => rfl
  | b :: l, m, h => by
    rw [List.foldl_cons, find?_foldl_assocSet_other off j l _ fun c hc => h c (List.mem_cons_of_mem _ hc), find?_assocSet,
      if_neg (h b List.mem_cons_self)]

/-- A list that takes values at distinct places holds each of them. -/
theorem find?_foldl_assocSet {β : Type} (off : Nat) : ∀ (l : List (Nat × β)) (m : List (Nat × β)), (l.map Prod.fst).Nodup →
    ∀ b ∈ l, (l.foldl (fun a b => assocSet a (off + b.1) b.2) m).find? (fun c => c.1 == off + b.1) = some (off + b.1, b.2)
  | b :: l, m, hn, c, hc => by
    obtain ⟨hb, hn⟩ := List.nodup_cons.1 hn
    rw [List.foldl_cons]
    obtain rfl | hc := List.mem_cons.1 hc
    · rw [find?_foldl_assocSet_other _ _ _ _ fun d hd e => hb (List.mem_map.2 ⟨d, hd, by omega⟩), find?_assocSet, if_pos rfl]
    · exact find?_foldl_assocSet off l _ hn c hc

theorem mem_addOnce {α : Type} [DecidableEq α] {x y : α} {l : List α} : y ∈ addOnce x l ↔ y = x ∨ y ∈ l := by
  unfold addOnce
  split
  · exact ⟨Or.inr, fun h => h.elim (fun e => e ▸ ‹x ∈ l›) id⟩
  · rw [List.mem_append, List.mem_singleton, or_comm]

theorem mem_foldl_addOnce {α β : Type} [DecidableEq β] (f : α → β) (y : β) : ∀ (l : List α) (m : List β),
    y ∈ l.foldl (fun a b => addOnce (f b) a) m ↔ y ∈ m ∨ ∃ b ∈ l, f b = y
  | [], m => by simp
  | x :: l, m => by
    rw [List.foldl_cons, mem_foldl_addOnce f y l, mem_addOnce, List.exists_mem_cons_iff, eq_comm]
    exact ⟨fun h => by tauto, fun h => by tauto⟩

/-- Bytes that follow one another from a place on, each with its place. -/
def numbered (off : Nat) (bs : List Byte) : List (Nat × Byte) := ((List.range bs.length).zip bs).map fun b => (off + b.1, b.2)

theorem numbered_cons (off : Nat) (b : Byte) (bs : List Byte) : numbered off (b :: bs) = (off, b) :: numbered (off + 1) bs := by
  simp only [numbered, List.length_cons, List.range_succ_eq_map, List.zip_cons_cons, List.map_cons, Nat.add_zero, List.zip_map_left,
    List.map_map, Function.comp_def, Prod.map, id_eq]
  simp only [List.cons.injEq, true_and]
  exact List.map_congr_left fun c _ => by simp only [Prod.mk.injEq, and_true]; omega

/-- Bytes that follow one another are one run. -/
theorem runsOf_numbered : ∀ (off : Nat) (b : Byte) (bs : List Byte), runsOf (numbered off (b :: bs)) = [(off, b :: bs)]
  | off, b, [] => rfl
  | off, b, c :: bs => by
    have ih := runsOf_numbered (off + 1) c bs
    rw [numbered_cons]
    unfold runsOf at ih ⊢
    rw [List.foldr_cons, ih]
    simp

theorem mem_range_zip {bs : List Byte} {k : Nat} {b : Byte} : (k, b) ∈ (List.range bs.length).zip bs ↔ bs[k]? = some b := by
  constructor
  · intro h
    obtain ⟨i, hi, e⟩ := List.mem_iff_getElem.1 h
    simp only [List.getElem_zip, List.getElem_range, Prod.mk.injEq] at e
    obtain ⟨rfl, rfl⟩ := e
    exact List.getElem?_eq_getElem _
  · intro h
    have hk : ((List.range bs.length).zip bs)[k]? = some (k, b) := by
      obtain ⟨hlt, _⟩ := List.getElem?_eq_some_iff.1 h
      rw [List.getElem?_zip_eq_some]
      exact ⟨List.getElem?_range hlt, h⟩
    exact List.mem_of_getElem? hk

theorem nodup_range_zip (bs : List Byte) : (((List.range bs.length).zip bs).map Prod.fst).Nodup := by
  rw [List.map_fst_zip (by simp)]
  exact List.nodup_range

/-! ### What a unit holds after a store -/

theorem makeRoom_held {cs : List CLine} {gt unit : Nat} {asid : BitVec 16} {line room : Nat}
    (h : (heldLine cs unit asid line).isSome = true) : makeRoom cs gt unit asid line room = some cs := by simp [makeRoom, h]

theorem heldLine_key {cs : List CLine} {unit : Nat} {asid : BitVec 16} {line : Nat} {c : CLine}
    (h : heldLine cs unit asid line = some c) : c.unit = unit ∧ c.asid = asid ∧ c.line = line := by
  simpa [and_assoc] using List.find?_some h

/-- The line that a unit holds, or else an empty one, is of that unit and line. -/
theorem heldLine_getD_key {cs : List CLine} {unit : Nat} {asid : BitVec 16} {line : Nat} {d : CLine}
    (hd : d.unit = unit ∧ d.asid = asid ∧ d.line = line) :
    ((heldLine cs unit asid line).getD d).unit = unit ∧ ((heldLine cs unit asid line).getD d).asid = asid ∧
      ((heldLine cs unit asid line).getD d).line = line := by
  cases h : heldLine cs unit asid line with
  | none => exact hd
  | some c => exact heldLine_key h

/-- A line that has taken a store gives the store's bytes while the store is on its way (R112). -/
theorem heldByte_pinStore {cs : List CLine} {gt unit : Nat} {asid : BitVec 16} {line off : Nat} {bs : List Byte} {flight room : Nat}
    {c : CLine} (hc : heldLine (pinStore cs gt unit asid line off bs flight none room) unit asid line = some c) {k : Nat} {b : Byte}
    (hb : bs[k]? = some b) : heldByte c gt (off + k) = some b := by
  unfold pinStore at hc
  split at hc
  · rename_i hr
    rw [makeRoom_held (by rw [hc]; rfl)] at hr
    cases hr
  · rename_i held _
    extract_lets old later new sectors live at hc
    have hnew : new = (List.range bs.length).zip bs := List.filter_eq_self.2 fun _ _ => rfl
    have hkey : old.unit = unit ∧ old.asid = asid ∧ old.line = line := heldLine_getD_key ⟨rfl, rfl, rfl⟩
    have hput := heldLine_putLine held { old with
      bytes := new.foldl (fun a b => assocSet a (off + b.1) b.2) live
      sick := old.sick.filter fun k => !(decide (off ≤ 32 * k) && decide (32 * k + 32 ≤ off + bs.length))
      pins := old.pins ++ sectors.map fun k =>
        { sector := k, offs := (new.map fun b => off + b.1).filter fun o => o / 32 == k, flight := flight, till := none } }
    simp only [hkey] at hput hc
    obtain rfl := Option.some.inj (hput.symm.trans hc)
    have hmem : (k, b) ∈ new := hnew ▸ mem_range_zip.2 hb
    have hsec : (off + k) / 32 ∈ sectors := (mem_foldl_addOnce (fun b : Nat × Byte => (off + b.1) / 32) _ new []).2 (Or.inr ⟨_, hmem, rfl⟩)
    rw [heldByte, if_pos, find?_foldl_assocSet off new live (hnew ▸ nodup_range_zip bs) _ hmem, Option.map_some]
    rw [Bool.or_eq_true]
    exact Or.inl (List.any_eq_true.2 ⟨_, List.mem_append_right _ (List.mem_map_of_mem hsec), by simp⟩)

theorem pinHint_some {keep : Bool} {cs : List CLine} {gt unit : Nat} {asid : BitVec 16} {line off : Nat} {bs : List Byte}
    {flight : Nat} {till : Option Nat} {room : Nat} {c : CLine}
    (hc : heldLine (pinHint keep cs gt unit asid line off bs flight till room) unit asid line = some c) :
    heldLine (pinStore cs gt unit asid line off bs flight till room) unit asid line = some c := by
  unfold pinHint at hc
  split at hc
  · exact hc
  · rename_i h
    simp [hc] at h

/-! ### A plain store leaves the core -/

/-- Filling the PAC changes nothing else. -/
theorem fillPac_eq (s : State) (a : Agent) (va : Nat) : ∃ pac, fillPac s a va = { s with mem := { s.mem with pac := pac } } := by
  unfold fillPac
  split
  · exact ⟨s.mem.pac, rfl⟩
  · split
    · exact ⟨s.mem.pac, rfl⟩
    · split
      · exact ⟨s.mem.pac, rfl⟩
      · exact ⟨_, rfl⟩

theorem mergeOwn_none {s : State} {asid : BitVec 16} {line : Nat}
    (h : ∀ y ∈ s.mem.ulines, y.asid = asid → y.line = line → s.g.id ∉ y.gids) : mergeOwn s asid line = s := by
  have hf : (s.mem.ulines.filter fun u => u.asid == asid && u.line == line && u.gids.contains s.g.id) = [] := by
    rw [List.filter_eq_nil_iff]
    intro y hy hc
    simp only [Bool.and_eq_true, beq_iff_eq, List.contains_iff_mem] at hc
    exact h y hy hc.1.1 hc.1.2 hc.2
  rw [mergeOwn, hf, List.foldl_nil]

/-- L1 and the cluster cache take a write, and nothing else changes. -/
theorem pinBoth_eq (s : State) (keep : Bool) (core : Nat) (p : Quad) (va : Nat) (bs : List Byte) (flight : Nat) (till : Option Nat) :
    ∃ l1 cc, pinBoth s keep core p va bs flight till = { s with mem := { s.mem with l1 := l1, cc := cc } } := by
  unfold pinBoth pinUnits
  split
  · exact ⟨s.mem.l1, s.mem.cc, rfl⟩
  · exact ⟨_, _, rfl⟩

/-- The state in which the flight of a plain store has left the core. -/
def sent (s : State) (p : Quad) (e : Put) (pac : List PacEntry) : State :=
  { s with mem := { s.mem with
    flight := s.mem.flight ++ [{ id := s.mem.nextFlight, gid := s.g.id, core := s.tm.core, asid := pteAsid p, va := e.va
                                 bytes := e.bytes, red := none, poison := e.poison, port := 0 }]
    nextFlight := s.mem.nextFlight + 1, pac := pac } }

/-- A plain store to a page of the device: its flight leaves, and L1 and the cluster cache take its bytes (R111, R112). -/
theorem putOne_near {s : State} {e : Put} {p : Quad} {r w : Bool} (hfar : isFar e.va = false)
    (hp : pageAttr s s.agent e.va = some (p, r, w))
    (hown : ∀ y ∈ s.mem.ulines, y.asid = pteAsid p → y.line = lineOf e.va → s.g.id ∉ y.gids) :
    ∃ pac, putOne s e = pinBoth (sent s p e pac) e.keep s.tm.core p e.va e.bytes s.mem.nextFlight none := by
  obtain ⟨pac, hpac⟩ := fillPac_eq s s.agent e.va
  refine ⟨pac, ?_⟩
  rw [putOne, if_neg (by simp [hfar]), hp]
  simp only [hpac]
  rw [mergeOwn_none (by exact hown)]
  rfl

theorem writableBytes_numbered {s : State} {asid : BitVec 16} {line off : Nat} {bs : List Byte}
    (h : ∀ k, k < bs.length → recordByte s asid (vaOfLine line + (off + k) % 128) = false) :
    writableBytes s asid line (numbered off bs) = numbered off bs := by
  refine List.filter_eq_self.2 fun c hc => ?_
  obtain ⟨b, hb, rfl⟩ := List.mem_map.1 hc
  rw [h b.1 (List.mem_range.1 (List.of_mem_zip hb).1)]
  rfl

/-- A core's line that has taken a store gives its bytes. -/
theorem heldByte_pinBoth {s : State} {keep : Bool} {core : Nat} {p : Quad} {va : Nat} {bs : List Byte} {flight : Nat} {c : CLine}
    (hc : cacheable p = true) (hrec : ∀ k, k < bs.length → recordByte s (pteAsid p) (vaOfLine (lineOf va) + (va % 128 + k) % 128) = false)
    (hl : heldLine (pinBoth s keep core p va bs flight none).mem.l1 core (pteAsid p) (lineOf va) = some c) {k : Nat} {b : Byte}
    (hb : bs[k]? = some b) : heldByte c s.gt (va % 128 + k) = some b := by
  obtain _ | ⟨x, xs⟩ := bs
  · simp at hb
  · have hw := writableBytes_numbered hrec
    unfold numbered at hw
    simp only [pinBoth, pinUnits, hc, hw] at hl
    have hrun := runsOf_numbered (va % 128) x xs
    unfold numbered at hrun
    simp only [hrun] at hl
    exact heldByte_pinStore (pinHint_some hl) hb

/-! ### A first reduction into a line -/

theorem arriveOwn_none {s : State} {p : Quad} {line : Nat} (h : ∀ y ∈ s.mem.flight, y.asid = pteAsid p → lineOf y.va ≠ line) :
    arriveOwn s p line = s := by
  unfold arriveOwn
  extract_lets cl
  rw [List.filter_eq_nil_iff.2, List.foldl_nil]
  intro y hy hc
  simp only [Bool.and_eq_true, beq_iff_eq] at hc
  exact h y hy hc.1.1.1 hc.1.1.2

/-- While a core's L1 has room, or a line that it may give up, it alone changes when it comes back to its size. -/
theorem l1Fit_eq {s : State} {core : Nat}
    (h : (∃ y ∈ s.mem.l1, y.unit = core ∧ anyPinned y s.gt = false) ∨
      (s.mem.l1.filter fun y => y.unit == core).length ≤ l1Room s.mem core) :
    ∃ l1, l1Fit s core = { s with mem := { s.mem with l1 := l1 } } := by
  unfold l1Fit
  dsimp only
  split
  · exact ⟨s.mem.l1, rfl⟩
  · rename_i hfull
    obtain ⟨y, hy, hu, hpin⟩ := h.resolve_right hfull
    split
    · exact ⟨_, rfl⟩
    · rename_i hnone
      exact absurd (List.find?_eq_none.1 hnone y (List.mem_filter.2 ⟨hy, by simp [hu]⟩)) (by simp [hpin])

/-- The line that a first reduction into it leaves. -/
def firstUse (core gid : Nat) (asid : BitVec 16) (line off op : Nat) (t : Ty) (v : Nat) : ULine :=
  { core := core, asid := asid, line := line, op := BitVec.ofNat 3 op, ty := t
    elems := [(off, BitVec.ofNat 128 (v % 2 ^ t.bits))], gids := [gid], flags := 0 }

theorem reduceInto_first {s : State} {core gid : Nat} {asid : BitVec 16} {line off op : Nat} {t : Ty} {v : Nat}
    (hnone : ∀ y ∈ s.mem.ulines, y.asid = asid → y.line ≠ line)
    (hroom : (∃ y ∈ s.mem.l1, y.unit = core ∧ anyPinned y s.gt = false ∧ ¬ (y.asid = asid ∧ y.line = line)) ∨
      (s.mem.l1.filter fun y => y.unit == core).length + (s.mem.ulines.filter fun y => y.core == core).length < 2048) :
    ∃ l1, reduceInto s core gid asid line off op t v =
      { s with mem := { s.mem with ulines := s.mem.ulines ++ [firstUse core gid asid line off op t v], l1 := l1 } } := by
  have hfind : (s.mem.ulines.find? fun u => u.core == core && u.asid == asid && u.line == line) = none := by
    rw [List.find?_eq_none]
    intro y hy hc
    simp only [Bool.and_eq_true, beq_iff_eq] at hc
    exact hnone y hy hc.1.2 hc.2
  have hrest : (s.mem.ulines.filter fun u => !(u.core == core && u.asid == asid && u.line == line)) = s.mem.ulines := by
    refine List.filter_eq_self.2 fun y hy => ?_
    rw [Bool.eq_false_iff.2 (List.find?_eq_none.1 hfind y hy)]
    rfl
  simp only [reduceInto, hfind, hrest, Option.getD_none, List.find?_nil, assocSet]
  have hu : ({ core := core, asid := asid, line := line, op := BitVec.ofNat 3 op, ty := t
               elems := [(off, BitVec.ofNat 128 (v % 2 ^ t.bits))], gids := addOnce gid [], flags := 0 ||| 0 } : ULine) =
      firstUse core gid asid line off op t v := rfl
  rw [hu]
  obtain ⟨l1, hl⟩ := l1Fit_eq (core := core) (s := { s with mem := { s.mem with
    ulines := s.mem.ulines ++ [firstUse core gid asid line off op t v]
    l1 := s.mem.l1.filter fun c => !(c.unit == core && c.asid == asid && c.line == line && !anyPinned c s.gt) } }) (by
      refine hroom.imp ?_ ?_
      · rintro ⟨y, hy, hunit, hpin, hne⟩
        refine ⟨y, List.mem_filter.2 ⟨hy, ?_⟩, hunit, hpin⟩
        simpa [hunit, hpin, ← imp_iff_not_or] using hne
      · intro hlt
        have h1 := ((List.filter_sublist (p := fun c : CLine => !(c.unit == core && c.asid == asid && c.line == line && !anyPinned c s.gt))
          (l := s.mem.l1)).filter fun y => y.unit == core).length_le
        simp only [l1Room, List.filter_append, List.length_append]
        simp only [firstUse, List.filter_cons, beq_self_eq_true, if_true, List.filter_nil, List.length_singleton]
        omega)
  exact ⟨l1, hl⟩

theorem reduceOne_first {s : State} {e : Put} {p : Quad} {r w : Bool} {op : BitVec 3} {t : Ty} (hfar : isFar e.va = false)
    (hp : pageAttr s s.agent e.va = some (p, r, w)) (hc : cacheable p = true)
    (hnone : ∀ y ∈ s.mem.ulines, y.asid = pteAsid p → y.line ≠ lineOf e.va)
    (hflight : ∀ y ∈ s.mem.flight, y.asid = pteAsid p → lineOf y.va ≠ lineOf e.va)
    (hhead : headLine s (pteAsid p) (lineOf e.va) = false)
    (hroom : (∃ y ∈ s.mem.l1, y.unit = s.tm.core ∧ anyPinned y s.gt = false ∧ ¬ (y.asid = pteAsid p ∧ y.line = lineOf e.va)) ∨
      (s.mem.l1.filter fun y => y.unit == s.tm.core).length + (s.mem.ulines.filter fun y => y.core == s.tm.core).length < 2048) :
    ∃ pac l1, reduceOne op t s e = { s with mem := { s.mem with
      ulines := s.mem.ulines ++ [firstUse s.tm.core s.g.id (pteAsid p) (lineOf e.va) (e.va % 128) op.toNat t (ofBytes e.bytes)]
      pac := pac, l1 := l1 } } := by
  obtain ⟨pac, hpac⟩ := fillPac_eq s s.agent e.va
  obtain ⟨l1, hred⟩ := reduceInto_first (s := { s with mem := { s.mem with pac := pac } }) (core := s.tm.core) (gid := s.g.id)
    (off := e.va % 128) (op := op.toNat) (t := t) (v := ofBytes e.bytes) hnone hroom
  refine ⟨pac, l1, ?_⟩
  rw [reduceOne, if_neg (by simp [hfar]), hp]
  simp only [hpac]
  rw [arriveOwn_none (by exact hflight), hred]
  have hl2 : pteL2Only p = false := by simpa [cacheable] using hc
  exact if_neg (by rw [hl2, Bool.false_or]; exact Bool.eq_false_iff.1 hhead)

/-! ### A store at its home -/

theorem homeLine_key (m : MemSys) (asid : BitVec 16) (line : Nat) : (homeLine m asid line).asid = asid ∧ (homeLine m asid line).line = line := by
  unfold homeLine
  split
  · rename_i h
    simpa using List.find?_some h
  · exact ⟨rfl, rfl⟩

theorem homeLine_setHomeLine (m : MemSys) (h : HLine) : homeLine (setHomeLine m h) h.asid h.line = h := by
  have hn : ((m.hlines.filter fun x => !(x.asid == h.asid && x.line == h.line)).find? fun x => x.asid == h.asid && x.line == h.line) = none := by
    rw [List.find?_eq_none]
    intro x hx
    simpa only [Bool.not_eq_true, Bool.not_eq_true'] using (List.mem_filter.1 hx).2
  simp only [homeLine, setHomeLine, List.find?_append, hn, Option.none_or, List.find?_cons, beq_self_eq_true, Bool.and_self]

theorem homeLine_congr {m n : MemSys} (h : m.hlines = n.hlines) (asid : BitVec 16) (line : Nat) : homeLine m asid line = homeLine n asid line := by
  unfold homeLine
  rw [h]

/-- The lease state that a line is given is the line's. -/
theorem homeLine_set {m n : MemSys} {h : HLine} (hn : n.hlines = (setHomeLine m h).hlines) {asid : BitVec 16} {line : Nat}
    (ha : h.asid = asid) (hl : h.line = line) : homeLine n asid line = h := by
  subst ha hl
  rw [homeLine_congr hn, homeLine_setHomeLine]

theorem findLaunch_self {s : State} {k : Nat} (h : (findLaunch s k).id ≠ 0) :
    findLaunch s (findLaunch s k).id = findLaunch s k := by
  unfold findLaunch at h ⊢
  cases hf : s.launches.find? fun l => l.id == k with
  | none => rw [hf] at h; exact absurd rfl h
  | some l =>
    have hk : l.id = k := by simpa using List.find?_some hf
    simp only [Option.getD_some, hk, hf]

theorem findLaunch_id (s : State) (k : Nat) : (findLaunch s k).id = k ∨ (findLaunch s k).id = 0 := by
  unfold findLaunch
  cases hf : s.launches.find? fun l => l.id == k with
  | none => exact Or.inr rfl
  | some l => exact Or.inl (by simpa using List.find?_some hf)

/-- A write of no launch, or of one that only reports, copies no granule (R388, R389). -/
theorem snapGranule_none {s : State} {k : Nat} {asid : BitVec 16} {va : Nat}
    (h : (findLaunch s k).id = 0 ∨ ((findLaunch s k).rcd.report = true ∧ asid ≠ 0)) : snapGranule s k asid va = s := by
  unfold snapGranule
  obtain h0 | ⟨hr, ha⟩ := h
  · exact if_pos h0
  · dsimp only
    split
    · rfl
    · exact if_pos (by rw [hr, Bool.true_or, Bool.true_or])

/-- A launch that copies no granule and is entangled with none writes a line: the home takes what may be written. -/
theorem launchWrite_eq {s : State} {k : Nat} {asid : BitVec 16} {va : Nat} {bs : List (Nat × Byte)}
    (h : (findLaunch s k).id = 0 ∨ ((findLaunch s k).rcd.report = true ∧ asid ≠ 0))
    (hu : Untangled s k asid (va % 2 ^ 57 / 65536)) :
    launchWrite s (some k) asid (lineOf va) bs =
      let r := homeWrite s asid (lineOf va) (writableBytes s asid (lineOf va) bs)
      (updLaunch r.1 k fun l => { l with lastW := max l.lastW r.2 }, r.2) := by
  unfold launchWrite
  dsimp only
  rw [snapGranule_none h, granuleOf_line, touchGranule_untangled hu]

/-- What a write at the home leaves of memory: its line's W, and its bytes, at once if W has come, else pending (R111). -/
theorem homeWrite_mem (s : State) (asid : BitVec 16) (line : Nat) (bs : List (Nat × Byte)) :
    let h := homeLine s.mem asid line
    let w := completionTime h s.gt
    let r := homeWrite s asid line bs
    r.2 = w ∧ r.1.g = s.g ∧ r.1.mem.flight = s.mem.flight ∧ r.1.mem.hlines = (setHomeLine s.mem { h with wlast := some w }).hlines ∧
      (w ≤ s.gt → r.1.mem.pend = s.mem.pend ∧ r.1.mem.phys = pokeBytes s.mem.phys bs) ∧
      (s.gt < w → r.1.mem.phys = s.mem.phys ∧ r.1.mem.pend = s.mem.pend ++ [{ asid := asid, line := line, w := w, bytes := bs }]) := by
  intro h w r
  have hw : completionTime h (max s.gt s.gt) = w := by rw [max_self]
  refine ⟨hw, rfl, ?_, ?_, fun hle => ?_, fun hlt => ?_⟩
  · simp only [r, homeWrite, homeWriteFrom]
    split <;> rfl
  · simp only [r, homeWrite, homeWriteFrom, max_self]
    split <;> rfl
  · simp only [r, homeWrite, homeWriteFrom, max_self]
    rw [if_pos hle]
    exact ⟨rfl, rfl⟩
  · simp only [r, homeWrite, homeWriteFrom, max_self]
    rw [if_neg (Nat.not_le.2 hlt)]
    exact ⟨rfl, rfl⟩

/-- Bytes at distinct addresses are what memory holds there after they are written. -/
theorem peek_pokeBytes : ∀ (bs : List (Nat × Byte)) {m : Sparse 8}, cellsWf m = true → (bs.map Prod.fst).Nodup → ∀ a,
    peek (pokeBytes m bs) a = match bs.find? fun b => b.1 == a with | some b => b.2 | none => peek m a
  | [], _, _, _, _ => rfl
  | b :: bs, m, h, hn, a => by
    obtain ⟨hb, hn⟩ := List.nodup_cons.1 hn
    by_cases ha : b.1 = a
    · have hother : ∀ c ∈ bs, c.1 ≠ a := fun c hc e => hb (List.mem_map.2 ⟨c, hc, e.trans ha.symm⟩)
      rw [List.find?_cons_of_pos (by simpa using ha)]
      exact (pokeBytes_other bs (cellsWf_poke b.1 b.2 h) a hother).trans ((peek_poke h b.1 a b.2).trans (if_pos ha.symm))
    · rw [List.find?_cons_of_neg (by simpa using ha)]
      refine (peek_pokeBytes bs (cellsWf_poke b.1 b.2 h) hn a).trans ?_
      rw [peek_poke h, if_neg (Ne.symm ha)]

theorem writableBytes_nodup {s : State} {asid : BitVec 16} {line a : Nat} {bs : List Byte} :
    ((writableBytes s asid line (((List.range bs.length).zip bs).map fun b => (a + b.1, b.2))).map Prod.fst).Nodup := by
  refine (List.filter_sublist.map Prod.fst).nodup ?_
  rw [List.map_map]
  have h := (nodup_range_zip bs).map (f := (a + ·)) fun _ _ e => Nat.add_left_cancel e
  rwa [List.map_map] at h

theorem updGroup_mem (s : State) (id : Nat) (f : Group → Group) : (updGroup s id f).mem = s.mem := by
  unfold updGroup
  split <;> rfl

theorem updGroup_here {s : State} {id : Nat} {f : Group → Group} (h : id = s.g.id) : (updGroup s id f).g = f s.g := by
  rw [updGroup, if_pos h.symm]

theorem logViolation_mem (s : State) (a mkind : Nat) (mid : BitVec 16) (write : Bool) : (logViolation s a mkind mid write).mem = s.mem := by
  unfold logViolation logAt
  split <;> rfl

theorem logViolation_g (s : State) (a mkind : Nat) (mid : BitVec 16) (write : Bool) : (logViolation s a mkind mid write).g = s.g := by
  unfold logViolation logAt
  split <;> rfl

theorem storeAtHome_arrives {s : State} {f : Flight} (hf : s.mem.flight.find? (fun y => y.id == f.id) = some f) (hm : mayArrive s f = true) :
    exec (.storeAtHome f.id) s = .next (storeArrive s f) := by
  show execStoreAtHome f.id s = _
  simp [execStoreAtHome, hf, hm]

theorem storeArrive_denied {s : State} {f : Flight} {p : Quad} (hfar : isFar f.va = false) (hp : translate s.mem f.asid f.va = some p)
    (hd : physPermits s mkContext (launchOfGroup s (findGroup s f.gid)).rcd.asid (physOf p f.va) true = false) :
    (storeArrive s f).mem = { s.mem with
      flight := s.mem.flight.filter fun y => y.id != f.id
      l1 := dropPins s.mem.l1 f.id, cc := dropPins s.mem.cc f.id } ∧
    (f.gid = s.g.id → (storeArrive s f).g = { s.g with deferred := { s.g.deferred with c13 := s.g.deferred.c13 ++ [f.va] } }) := by
  have hnear : ¬ (placement f.va = 5 ∨ placement f.va = 6) := by simpa [isFar, isFarVa] using hfar
  simp only [storeArrive, if_neg hnear, hp, hd, Bool.not_false, if_true]
  refine ⟨by rw [updGroup_mem, logViolation_mem], fun hg => ?_⟩
  rw [updGroup_here (by rw [logViolation_g]; exact hg), logViolation_g]

theorem storeArrive_permitted {s : State} {f : Flight} {p : Quad} (hfar : isFar f.va = false) (hp : translate s.mem f.asid f.va = some p)
    (hd : physPermits s mkContext (launchOfGroup s (findGroup s f.gid)).rcd.asid (physOf p f.va) true = true)
    (hl : (launchOfGroup s (findGroup s f.gid)).id = 0 ∨
      ((launchOfGroup s (findGroup s f.gid)).rcd.report = true ∧ pteAsid p ≠ 0))
    (hu : ∀ a, Untangled s (launchOfGroup s (findGroup s f.gid)).id a (f.va % 2 ^ 57 / 65536)) :
    let r := homeWrite s (pteAsid p) (lineOf f.va) (writableBytes s (pteAsid p) (lineOf f.va)
      (((List.range f.bytes.length).zip f.bytes).map fun b => (physOf p f.va + b.1, b.2)))
    (storeArrive s f).mem = { r.1.mem with
      poison := (storeArrive s f).mem.poison, flight := r.1.mem.flight.filter fun y => y.id != f.id
      l1 := settlePins r.1.mem.l1 f.id r.2, cc := settlePins r.1.mem.cc f.id r.2 } ∧
    (f.gid = s.g.id → (storeArrive s f).g = { s.g with ch := max s.g.ch r.2 }) := by
  have hnear : ¬ (placement f.va = 5 ∨ placement f.va = 6) := by simpa [isFar, isFarVa] using hfar
  have hsnap : (findLaunch s (launchOfGroup s (findGroup s f.gid)).id).id = 0 ∨
      ((findLaunch s (launchOfGroup s (findGroup s f.gid)).id).rcd.report = true ∧ pteAsid p ≠ 0) := by
    by_cases h0 : (launchOfGroup s (findGroup s f.gid)).id = 0
    · exact Or.inl (by rw [h0]; exact (findLaunch_id s 0).elim id id)
    · exact Or.inr (by rw [launchOfGroup] at h0 hl ⊢; rw [findLaunch_self h0]; exact hl.resolve_left h0)
  extract_lets r
  have hw := launchWrite_eq (bs := ((List.range f.bytes.length).zip f.bytes).map fun b => (physOf p f.va + b.1, b.2)) hsnap (hu (pteAsid p))
  unfold storeArrive
  rw [if_neg hnear]
  simp only [hp, hw]
  rw [if_neg (by simp [hd])]
  refine ⟨?_, fun hg => updGroup_here hg⟩
  simp only [noteW, updGroup_mem]
  rfl

/-- Settles O47, by the three lemmas that say what a store leaves at its core, in an update-only line and at its home. -/
theorem storeEffects : Obligations.StoreEffects := by
  intro s e f p r w op ty line mem t q h time bytes
  refine ⟨fun hfar hp hown => ?_, fun hfar hp hc hnone hflight hhead hroom => ?_, fun hwf hfind hmay hfar hp => ?_⟩
  · obtain ⟨pac, hput⟩ := putOne_near hfar hp hown
    obtain ⟨l1, cc, hpin⟩ := pinBoth_eq (sent s p e pac) e.keep s.tm.core p e.va e.bytes s.mem.nextFlight none
    have ht : t = pinBoth (sent s p e pac) e.keep s.tm.core p e.va e.bytes s.mem.nextFlight none := hput
    refine ⟨by rw [ht, hpin]; rfl, by rw [ht, hpin]; rfl, fun hc hrec c hl k b hb => ?_⟩
    rw [ht] at hl
    exact heldByte_pinBoth (s := sent s p e pac) hc hrec hl hb
  · obtain ⟨pac, l1, hq⟩ := reduceOne_first (op := op) (t := ty) hfar hp hc hnone hflight hhead hroom
    have hop : BitVec.ofNat 3 op.toNat = op := by simp
    rw [firstUse, hop] at hq
    have hq : q = _ := hq
    rw [hq]
    exact ⟨rfl, rfl⟩
  · intro l
    rw [storeAtHome_arrives hfind hmay]
    refine ⟨fun hd hl hu => ⟨_, rfl, ?_⟩, fun hd => ⟨_, rfl, ?_⟩⟩
    · obtain ⟨hmem, hg⟩ := storeArrive_permitted hfar hp hd hl hu
      obtain ⟨hw, -, hflight, hlines, hnow, hlater⟩ := homeWrite_mem s (pteAsid p) (lineOf f.va) bytes
      obtain ⟨hasid, hline⟩ := homeLine_key s.mem (pteAsid p) (lineOf f.va)
      rw [hmem]
      refine ⟨congrArg _ hflight, congrArg HLine.wlast (homeLine_set hlines hasid hline), fun hle => ?_, hlater, fun hgid => ?_⟩
      · obtain ⟨hpend, hphys⟩ := hnow hle
        refine ⟨hpend, fun a => (congrArg (peek · a) hphys).trans (peek_pokeBytes bytes ?_ writableBytes_nodup a)⟩
        simp only [Memory.wf, Bool.and_eq_true] at hwf
        exact hwf.1.1
      · exact (hg hgid).trans (congrArg (fun w => { s.g with ch := max s.g.ch w }) hw)
    · obtain ⟨hmem, hg⟩ := storeArrive_denied hfar hp hd
      rw [hmem]
      exact ⟨rfl, rfl, rfl, hg⟩

end Sys2Proof.Machine
end

section

/-! ## What a cold start leaves (O1)

The registers of R26 to R29, R323 and R357 are read off `Device.reset`; that nothing is resident, and that every byte and every
queue is empty, follows from what the lookups answer for a state that holds nothing. -/

namespace Sys2Proof.Machine
open Sys2Proof

/-! ### The capability registers -/

theorem Device.reset_cap0_fields : Device.reset.cap0.extractLsb' 0 8 = 2 ∧ Device.reset.cap0.extractLsb' 8 4 = 1 ∧
    Device.reset.cap0.extractLsb' 12 8 = 0x20 ∧ Device.reset.cap0.extractLsb' 20 4 = 0xF := by decide

theorem Device.reset_memFrames : (Device.reset.cap2.extractLsb' 0 32).toNat = 125000000 := by decide

/-! ### Nothing resident, mapped or held -/

/-- No team is in focus: its number is 0. -/
theorem allTeams_eq_teams {s : State} (h : s.tm.id = 0) : allTeams s = s.teams := if_pos h

/-- No group is in focus: its number is 0. -/
theorem allGroups_eq_groups {s : State} (h : s.g.id = 0) : allGroups s = s.groups := if_pos h

theorem currentByte_eq_zero {m : MemSys} (h : m.phys = []) (a : Nat) : currentByte m a = 0 := by
  rw [currentByte, h, peek]

/-! ### The queues -/

theorem Sched.reset_queues_length : Sched.reset.queues.length = 64 := List.length_replicate

theorem Sched.reset_queue_idle {q : LQueue} (h : q ∈ Sched.reset.queues) : q.opened = true ∧ q.entries = [] := by
  rw [List.eq_of_mem_replicate h]
  exact ⟨rfl, rfl⟩

/-- Settles O1: the fields are those of `Device.reset`, and a state that holds nothing shows no team, no group and no byte. -/
theorem resetValues : Obligations.ResetValues := by
  unfold Obligations.ResetValues
  intro s
  obtain ⟨level, profile, width, bays⟩ := Device.reset_cap0_fields
  have teams : allTeams s = [] := allTeams_eq_teams rfl
  have groups : allGroups s = [] := allGroups_eq_groups rfl
  have bytes : ∀ a, currentByte s.mem a = 0 := currentByte_eq_zero rfl
  exact ⟨level, profile, width, bays, rfl, Device.reset_memFrames, rfl, rfl, rfl, rfl, rfl, teams, groups, rfl, rfl, rfl, bytes,
    Sched.reset_queues_length, fun _ => Sched.reset_queue_idle⟩

end Sys2Proof.Machine
end

section

/-! ## Traps (O11, O12)

`takeTrap` has three outcomes (R54, R192, R376, R377, R390); each is one lemma, with the PC that TPC and the record hold by a name. -/

namespace Sys2Proof.Machine
open Sys2Proof

/-- The instruction a trap is taken at: the start of the latch chain that is open, else the PC (R192). -/
def trapStart (s : State) : DWord := match s.sp.chain with | some c => c.start | none => s.sp.pc

/-- What TPC holds: `brk` and `trap` go on behind themselves (R192). -/
def trapPc (s : State) (c : BitVec 8) (next : DWord) : DWord := if c = 0x0A ∨ c = 0x0B then next else trapStart s

theorem takeTrap_inHandler {s : State} {t : Trap} {chain : Bool} {next : DWord} (h : s.g.inHandler = true) :
    takeTrap s t chain next = startTerminate (trapRecord s t (trapPc s t.cause next) true) s.asid 1 := if_pos h

theorem takeTrap_rollsBack {s : State} {t : Trap} {chain : Bool} {next : DWord} (h : s.g.inHandler = false)
    (hr : (rollsBack t.cause && !s.launch.rcd.report) = true) :
    takeTrap s t chain next = startRollback (trapRecord s t (trapPc s t.cause next) false) s.launch.id :=
  (if_neg (by simp [h])).trans (if_pos hr)

theorem takeTrap_enters {s : State} {t : Trap} {chain : Bool} {next : DWord} (h : s.g.inHandler = false)
    (hr : (rollsBack t.cause && !s.launch.rcd.report) = false) :
    takeTrap s t chain next =
      enterHandler (dispose (if unrecorded t.cause then s else trapRecord s t (trapPc s t.cause next) false) t (trapPc s t.cause next))
        t (trapPc s t.cause next) chain :=
  (if_neg (by simp [h])).trans (if_neg (by simp [hr]))

/-- A cause that writes a record is taken at the start, whatever comes next. -/
theorem trapPc_recorded {s : State} {c : BitVec 8} {next : DWord} (h : unrecorded c = false) : trapPc s c next = trapStart s := by
  simp only [unrecorded, Bool.or_eq_false_iff, beq_eq_false_iff_ne] at h
  obtain ⟨⟨⟨⟨ha, hb⟩, -⟩, -⟩, -⟩ := h
  exact if_neg fun e => e.elim ha hb

/-- What the handler of a recorded cause does with the group (R393). -/
theorem dispose_recorded {s : State} {t : Trap} {tpc : DWord} (h : unrecorded t.cause = false) :
    dispose s t tpc = if rollsBack t.cause then updLaunch s s.launch.id fun l => { l with due := true } else dueEnd s s.asid := by
  simp only [unrecorded, Bool.or_eq_false_iff] at h
  obtain ⟨⟨⟨⟨ha, hb⟩, -⟩, -⟩, h38⟩ := h
  have hd : disposition t.cause = if rollsBack t.cause then .kill else .terminate := by
    simp only [disposition, ha, hb, h38, Bool.or_self, Bool.false_eq_true, if_false]
  cases hr : rollsBack t.cause <;> simp only [dispose, hd, hr] <;> rfl

/-- Settles O12, by the three outcomes of a trap. -/
theorem trapsWithRecords : Obligations.TrapsWithRecords := by
  unfold Obligations.TrapsWithRecords
  intro s t next chain start recorded dueKill
  refine ⟨fun hin hu hr => ?_, fun hin hc hr => ?_, fun hin => takeTrap_inHandler hin⟩
  · have henter : (rollsBack t.cause && !s.launch.rcd.report) = false := by
      cases h : rollsBack t.cause <;> simp_all
    rw [takeTrap_enters hin henter, hu, if_neg Bool.false_ne_true, trapPc_recorded hu, dispose_recorded hu]
    rfl
  · have hback : rollsBack t.cause = true ∧ unrecorded t.cause = false := by
      simp only [List.mem_cons, List.not_mem_nil, or_false] at hc
      rcases hc with h | h | h <;> rw [h] <;> decide
    rw [takeTrap_rollsBack hin (by simp [hback.1, hr]), trapPc_recorded hback.2]
    rfl

/-- What a disposition other than the kill changes: whose end is due, or what the debugger hears. -/
theorem dispose_frame {s : State} {t : Trap} {tpc : DWord} (h : rollsBack t.cause = false) :
    dispose s t tpc = { s with sched := (dispose s t tpc).sched, rel := (dispose s t tpc).rel } := by
  have hk : disposition t.cause ≠ .kill := by simp only [disposition, h, Bool.false_eq_true, if_false]; split_ifs <;> simp
  cases hd : disposition t.cause with
  | kill => exact absurd hd hk
  | terminate => simp only [dispose, hd]; rfl
  | save => simp only [dispose, hd]
  | hold =>
    simp only [dispose, hd, ctlSend, dueEnd, updCtx]
    split_ifs <;> rfl

/-- The causes whose trap enters the handler in any launch and writes no record. -/
theorem unrecorded_of_mem {c : BitVec 8} (h : c ∈ [(0x0A : BitVec 8), 0x0B, 0x28, 0x29, 0x38]) :
    unrecorded c = true ∧ rollsBack c = false := by
  simp only [List.mem_cons, List.not_mem_nil, or_false] at h
  rcases h with h | h | h | h | h <;> rw [h] <;> decide

theorem dispose_terminate {s : State} {t : Trap} {tpc : DWord} (h : t.cause ∈ [(0x28 : BitVec 8), 0x29]) :
    dispose s t tpc = dueEnd s s.asid := by
  have hd : disposition t.cause = .terminate := by
    simp only [List.mem_cons, List.not_mem_nil, or_false] at h
    rcases h with h | h <;> rw [h] <;> decide
  simp only [dispose, hd]

theorem disposition_hold {c : BitVec 8} (h : c ∈ [(0x0A : BitVec 8), 0x0B]) : disposition c = .hold := by
  simp only [List.mem_cons, List.not_mem_nil, or_false] at h
  rcases h with h | h <;> rw [h] <;> decide

theorem dispose_hold {s : State} {t : Trap} {tpc : DWord} (h : t.cause ∈ [(0x0A : BitVec 8), 0x0B])
    (hk : ∀ k, findCtx s s.asid = some k → k.debugger = false) : dispose s t tpc = dueEnd s s.asid := by
  have hn : ((findCtx s s.asid).any fun c => c.debugger) = false := by
    cases hf : findCtx s s.asid with
    | none => rfl
    | some k => exact hk k hf
  simp only [dispose, disposition_hold h, hn, Bool.false_eq_true, if_false]

theorem dispose_debugger {s : State} {t : Trap} {tpc : DWord} {k : Ctx} (h : t.cause ∈ [(0x0A : BitVec 8), 0x0B])
    (hf : findCtx s s.asid = some k) (hk : k.debugger = true) :
    dispose s t tpc = ctlSend s (rcdWords s (trapRcd s t tpc false)) := by
  simp only [dispose, disposition_hold h, hf, Option.any_some, hk, if_true]

theorem ctlSend_frame (s : State) (w : List Word) : ctlSend s w = { s with rel := (ctlSend s w).rel } := by
  unfold ctlSend
  split_ifs <;> rfl

/-- Settles O11: the trap enters the handler in the state its disposition leaves, which differs in `sched` and `rel` alone. -/
theorem trapEntersHandler : Obligations.TrapEntersHandler := by
  unfold Obligations.TrapEntersHandler
  intro s c addr next lanes chain hin hc
  have ⟨hu, hr⟩ := unrecorded_of_mem hc
  let tr : Trap := { cause := c, addr := addr, lanes := lanes }
  have he : takeTrap s tr chain next = enterHandler (dispose s tr (trapPc s c next)) tr (trapPc s c next) chain := by
    rw [takeTrap_enters hin (by simp [tr, hr]), if_pos hu]
  have hf := dispose_frame (s := s) (t := tr) (tpc := trapPc s c next) hr
  intro t
  have ht : t = enterHandler { s with sched := (dispose s tr (trapPc s c next)).sched, rel := (dispose s tr (trapPc s c next)).rel }
      tr (trapPc s c next) chain := he.trans (congrArg (enterHandler · tr (trapPc s c next) chain) hf)
  have hsched : t.sched = (dispose s tr (trapPc s c next)).sched := by rw [ht]; rfl
  have hrel : t.rel = (dispose s tr (trapPc s c next)).rel := by rw [ht]; rfl
  have hl : t.launches = s.launches := by rw [ht]; rfl
  rw [hsched, hrel, hl, ht]
  refine ⟨rfl, rfl, rfl, rfl, rfl, rfl, rfl, rfl, rfl, rfl, rfl, rfl, rfl, rfl, rfl, rfl, rfl, fun _ => rfl, fun _ _ => rfl, rfl, rfl, rfl, rfl,
    rfl, fun h => ?_, fun h => ⟨fun hk => ?_, fun k hf hk => ?_⟩, fun h => ?_⟩
  · rw [dispose_terminate (t := tr) h]
    exact ⟨rfl, rfl, rfl⟩
  · rw [dispose_hold (t := tr) h hk]
    exact ⟨rfl, rfl, rfl⟩
  · have hnext : trapPc s c next = next := if_pos (by simpa using h)
    rw [dispose_debugger (t := tr) h hf hk, hnext]
    exact ⟨by rw [ctlSend_frame], rfl, rfl⟩
  · subst h
    exact ⟨rfl, rfl, rfl⟩

end Sys2Proof.Machine
end

section

/-! ## How an instruction of the device ends

`exec` runs a body after the checks of issue; each way the body can end is one lemma, in the words of the statements. -/

namespace Sys2Proof.Machine
open Sys2Proof

theorem exec_done {i : Instr} {body : State → Res} {s u : State} (he : exec i s = run i.shape body s) (hr : Ready i s)
    (hb : body s = .done u) : exec i s = .next (passes i s u) := he.trans (run_done hr hb)

theorem exec_jump {i : Instr} {body : State → Res} {s u : State} (he : exec i s = run i.shape body s) (hr : Ready i s)
    (hb : body s = .jump u) : exec i s = .next (goesTo i s u u.sp.pc) := he.trans (run_jump hr hb)

theorem exec_raise {i : Instr} {body : State → Res} {s u : State} {t : Trap} (he : exec i s = run i.shape body s) (hr : Ready i s)
    (hb : body s = .raise t u) : exec i s = .next (traps i s u t.cause t.addr t.lanes) := he.trans (run_raise hr hb)

theorem exec_wait {i : Instr} {body : State → Res} {s u : State} {w : Wait} (he : exec i s = run i.shape body s) (hr : Ready i s)
    (hb : body s = .wait w u) : exec i s = .next (park w u) := he.trans (run_wait hr hb)

theorem exec_raiseActive {i : Instr} {body : State → Res} {s u : State} {c : BitVec 8} {a : DWord}
    (he : exec i s = run i.shape body s) (hr : Ready i s) (hb : body s = raiseActive u c a) :
    exec i s = .next (traps i s u c a u.sp.mask) :=
  exec_raise (t := { cause := c, addr := a, lanes := u.sp.mask }) he hr hb

theorem exec_raiseExec {i : Instr} {body : State → Res} {s u : State} {c : BitVec 8} {a : DWord}
    (he : exec i s = run i.shape body s) (hr : Ready i s) (hb : body s = raiseExec u c a) :
    exec i s = .next (traps i s u c a u.exec) :=
  exec_raise (t := { cause := c, addr := a, lanes := u.exec }) he hr hb

/-! ### A checked transfer as the whole body -/

theorem transferTo_ok {s u : State} {target : DWord} {f : State → State} (h : checkTransfer s target = .ok u) :
    transferTo s target f = .jump { f u with sp := { (f u).sp with pc := target } } := by
  simp only [transferTo, h]

theorem transferTo_fail {s u : State} {target : DWord} {f : State → State} {t : Trap} (h : checkTransfer s target = .fail t u) :
    transferTo s target f = .raise t u := by
  simp only [transferTo, h]

theorem transferTo_hold {s u : State} {target : DWord} {f : State → State} (h : checkTransfer s target = .hold u) :
    transferTo s target f = .wait .mapping u := by
  simp only [transferTo, h]

/-! ### The predicate stack (O20) -/

/-- Settles O20: each form completes or raises as its body says, and the body looks at the depth of the stack alone. -/
theorem predicateStack : Obligations.PredicateStack := by
  unfold Obligations.PredicateStack
  intro s x top below rest
  refine ⟨fun hr h => ?_, fun hr h => ?_, fun hr h => ?_, fun hr h => ?_, fun hr h => ?_, fun hr h => ?_⟩
  · refine exec_done (rfl : execPushp x s = _) hr ?_
    exact if_neg (Nat.not_le.2 h)
  · refine exec_raiseActive (rfl : execPushp x s = _) hr ?_
    exact if_pos h
  · refine exec_done (rfl : execInvp x s = _) hr ?_
    simp only [h]
  · refine exec_raiseActive (rfl : execInvp x s = _) hr ?_
    simp only [h]
    rfl
  · refine exec_done (rfl : execPopp x s = _) hr ?_
    simp only [h]
  · refine exec_raiseActive (rfl : execPopp x s = _) hr ?_
    simp only [h]
    rfl

/-! ### Transfers that do not arrive (O18) -/

/-- What every checked transfer does where its target fails the check, or its line is not there yet. -/
def StopsAt (i : Instr) (s u : State) (target : DWord) : Prop :=
  (∀ tr, Ready i s → checkTransfer s target = .fail tr u → exec i s = .next (traps i s u tr.cause tr.addr tr.lanes)) ∧
    (Ready i s → checkTransfer s target = .hold u → exec i s = .next (park .mapping u))

theorem stopsAt_of {i : Instr} {body : State → Res} {s u : State} {target : DWord} (he : exec i s = run i.shape body s)
    (hf : ∀ tr, checkTransfer s target = .fail tr u → body s = .raise tr u)
    (hh : checkTransfer s target = .hold u → body s = .wait .mapping u) : StopsAt i s u target :=
  ⟨fun tr hr h => exec_raise he hr (hf tr h), fun hr h => exec_wait he hr (hh h)⟩

theorem stopsAt_transferTo {i : Instr} {body : State → Res} {s u : State} {target : DWord} {f : State → State}
    (he : exec i s = run i.shape body s) (hb : body s = transferTo s target f) : StopsAt i s u target :=
  stopsAt_of he (fun _ h => hb.trans (transferTo_fail h)) (fun h => hb.trans (transferTo_hold h))

theorem stopsAt_callTo {i : Instr} {body : State → Res} {s u : State} {target : DWord}
    (he : exec i s = run i.shape body s) (hb : body s = callTo i.shape target s) : StopsAt i s u target :=
  stopsAt_of he (fun _ h => by rw [hb]; simp only [callTo, h]) (fun h => by rw [hb]; simp only [callTo, h])

theorem callTo_full {i : Shape} {s u : State} {target : DWord} (h : checkTransfer s target = .ok u) (hu : 16 ≤ u.sp.recon.length) :
    callTo i target s = raiseActive u 0x09 16 := by
  simp only [callTo, h, stackFull, hu, decide_true, if_true]

theorem condHolds_eq_ccHolds (cc : Nat) (a b : Word) : condHolds cc a b = ccHolds cc a b := by
  unfold condHolds ccHolds
  split <;> simp [BitVec.slt, BitVec.sle, BitVec.ult, BitVec.ule]

theorem takenSet_eq (s : State) (x : BrvArgs) (neg : Bool) : takenSet s x neg =
    s.sp.mask &&& s.sp.pred.headD 0 &&& (if neg then ~~~(getM s x.m.toNat) else getM s x.m.toNat) := by
  cases neg
  · simp [takenSet]
  · rw [takenSet, if_pos rfl, if_pos rfl, show (0xFFFFFFFF : Word) = BitVec.allOnes 32 from rfl, BitVec.xor_allOnes]

theorem exec_brvArm (s : State) (x : BrvArgs) (neg : Bool) :
    exec (if neg then .brvNot x else .brv x) s =
      run (if neg then Instr.brvNot x else Instr.brv x).shape (divergent (if neg then Instr.brvNot x else Instr.brv x).shape x neg) s := by
  cases neg <;> rfl

theorem divergent_fail {i : Shape} {s u : State} {x : BrvArgs} {neg : Bool} {t : Trap} (h0 : takenSet s x neg ≠ 0)
    (h : checkTransfer s (s.sp.pc + x.off.signExtend 64) = .fail t u) : divergent i x neg s = .raise t u := by
  simp only [divergent, h0, if_false, transferTo_fail h, h, ite_self]

theorem divergent_hold {i : Shape} {s u : State} {x : BrvArgs} {neg : Bool} (h0 : takenSet s x neg ≠ 0)
    (h : checkTransfer s (s.sp.pc + x.off.signExtend 64) = .hold u) : divergent i x neg s = .wait .mapping u := by
  simp only [divergent, h0, if_false, transferTo_hold h, h, ite_self]

/-- Settles O18: every transfer's body is a checked transfer there, or a push that the stack has no room for, or a look at an empty
stack. -/
theorem transferTraps : Obligations.TransferTraps := by
  unfold Obligations.TransferTraps
  intro s u x b neg tgt checked taken
  refine ⟨stopsAt_transferTo (rfl : execBr x s = _) rfl, stopsAt_transferTo (rfl : execJmp x s = _) rfl,
    stopsAt_callTo (rfl : execCall x s = _) rfl, stopsAt_callTo (rfl : execCallIndirect x s = _) rfl, fun hc => ?_, fun hn => ?_,
    fun r h => ?_, fun h0 => ?_, fun hr h hu => ?_, fun hr h hu => ?_, fun hr h => ?_, fun hr h => ?_⟩
  · exact stopsAt_transferTo (rfl : execBrc x s = _) (if_pos ((condHolds_eq_ccHolds ..).trans hc))
  · exact stopsAt_transferTo (rfl : execLoop x s = _) (if_neg hn)
  · refine stopsAt_transferTo (f := id) (rfl : execRet x s = _) ?_
    simp only [h]
  · have h1 : takenSet s b neg ≠ 0 := by rwa [takenSet_eq]
    exact stopsAt_of (exec_brvArm s b neg) (fun _ => divergent_fail h1) (divergent_hold h1)
  · exact exec_raiseActive (rfl : execCall x s = _) hr (callTo_full h hu)
  · exact exec_raiseActive (rfl : execCallIndirect x s = _) hr (callTo_full h hu)
  · refine exec_raiseActive (rfl : execRet x s = _) hr ?_
    simp only [h]
  · refine exec_raiseActive (rfl : execJoin x s = _) hr ?_
    simp only [h]

end Sys2Proof.Machine
end

section

/-! ## What the fabric side of an instruction leaves of the group in focus

Fetches, records, merges and releases reach memory, launches and the control port; of the group in focus they change what
`Tally` names and nothing else, and its split not at all. -/

namespace Sys2Proof.Machine
open Sys2Proof

/-- Two groups agree but for flags, horizon, deferred causes, paths, the image kept of a halted group, and the record watermark. -/
def Group.SameButTally (a b : Group) : Prop :=
  b = { a with flags := b.flags, ch := b.ch, deferred := b.deferred, paths := b.paths, image := b.image, recTill := b.recTill }

theorem Group.SameButTally.refl (a : Group) : a.SameButTally a := rfl

/-- The split in focus is as in `a`, and its group but for its tally. -/
structure KeepsFocus (a s : State) : Prop where
  sp : s.sp = a.sp
  g : a.g.SameButTally s.g

theorem KeepsFocus.refl (a : State) : KeepsFocus a a := ⟨rfl, rfl⟩

/-- An update that leaves `sp` and `g` alone keeps the focus. -/
theorem KeepsFocus.of_eq {a s t : State} (h : KeepsFocus a s) (hsp : t.sp = s.sp) (hg : t.g = s.g) : KeepsFocus a t :=
  ⟨hsp.trans h.sp, hg ▸ h.g⟩

variable {a s : State}

theorem KeepsFocus.updGroup (h : KeepsFocus a s) (gid : Nat) {f : Group → Group} (hf : ∀ x, a.g.SameButTally x → a.g.SameButTally (f x)) :
    KeepsFocus a (updGroup s gid f) := by
  unfold Machine.updGroup
  split
  · exact ⟨h.sp, hf _ h.g⟩
  · exact h.of_eq rfl rfl

theorem KeepsFocus.ctlSend (h : KeepsFocus a s) (w : List Word) : KeepsFocus a (ctlSend s w) :=
  ite_keeps h (ite_keeps (h.of_eq rfl rfl) (h.of_eq rfl rfl))

theorem KeepsFocus.mpWriteFrom (h : KeepsFocus a s) (t : Nat) (asid : BitVec 16) (va : Nat) (bs : List Byte) :
    KeepsFocus a (mpWriteFrom t s asid va bs).1 := by
  unfold Machine.mpWriteFrom
  split
  · exact h
  · exact foldl_fst_keeps h fun b x hb => ite_keeps (p := fun r : State × Nat => KeepsFocus a r.1) hb (hb.of_eq rfl rfl)

theorem KeepsFocus.ringPut (h : KeepsFocus a s) (r : Ring) (size : Nat) (recs : List (List Word)) :
    KeepsFocus a (ringPut s r size recs).1 :=
  ite_keeps (p := fun r : State × Nat => KeepsFocus a r.1) h
    (ite_keeps (p := fun r : State × Nat => KeepsFocus a r.1)
      ((foldl_fst_keeps (p := KeepsFocus a) h fun _ _ hb => hb.mpWriteFrom ..).mpWriteFrom ..) (h.mpWriteFrom ..))

theorem KeepsFocus.recordAt (h : KeepsFocus a s) (r : Rcd) : KeepsFocus a (recordAt s r).1 := by
  unfold Machine.recordAt
  refine KeepsFocus.of_eq (KeepsFocus.ctlSend ?_ _) rfl rfl
  split
  · exact h.ringPut ..
  · exact h

theorem KeepsFocus.writeRecord (h : KeepsFocus a s) (r : Rcd) : KeepsFocus a (writeRecord s r) := h.recordAt r

theorem KeepsFocus.markUnroll : ∀ (fuel : Nat) {s : State} (lid : Nat), KeepsFocus a s → KeepsFocus a (markUnroll fuel s lid)
  | 0, _, _, h => h
  | fuel + 1, s, lid, h =>
    ite_keeps h (foldl_keeps ((h.of_eq (t := updLaunch s lid fun l => { l with unroll := true }) rfl rfl).writeRecord _)
      fun _ _ => KeepsFocus.markUnroll fuel _)

theorem KeepsFocus.entangle (h : KeepsFocus a s) (j k : Nat) : KeepsFocus a (entangle s j k) := by
  unfold Machine.entangle
  extract_lets s1 s2 n s3
  have h2 : KeepsFocus a s2 := h.of_eq rfl rfl
  have h3 : KeepsFocus a s3 := ite_keeps (h2.markUnroll ..) h2
  exact ite_keeps h (ite_keeps (h3.markUnroll ..) h3)

theorem KeepsFocus.touchGranule (h : KeepsFocus a s) (lid : Nat) (asid : BitVec 16) (g : Nat) :
    KeepsFocus a (touchGranule s lid asid g) := foldl_keeps h fun _ _ hb => hb.entangle ..

theorem KeepsFocus.fillPac (h : KeepsFocus a s) (ag : Agent) (va : Nat) : KeepsFocus a (fillPac s ag va) := by
  obtain ⟨pac, hp⟩ := fillPac_eq s ag va
  rw [hp]
  exact h.of_eq rfl rfl

theorem KeepsFocus.fetchLineAt (h : KeepsFocus a s) (ag : Agent) (va addr : Nat) : KeepsFocus a (fetchLineAt s ag va addr).1 := by
  unfold Machine.fetchLineAt
  split
  iterate 4 exact h
  exact ite_keeps (p := fun r : State × Fetched => KeepsFocus a r.1) (((h.touchGranule ..).fillPac ..).of_eq rfl rfl)
    (((h.touchGranule ..).fillPac ..).of_eq rfl rfl)

/-- A transfer whose check passes is still at the same split of the same group. -/
theorem KeepsFocus.of_checkTransfer_ok {s u : State} {target : DWord} (h : checkTransfer s target = .ok u) : KeepsFocus s u := by
  have hf := (KeepsFocus.refl s).fetchLineAt s.agent (lineVa target) (unitVa target)
  unfold checkTransfer at h
  dsimp only at h
  split at h
  · cases h
  · split at h <;> cases h
  · rename_i t ws ht
    split at h
    · cases h
      rwa [ht] at hf
    · cases h

end Sys2Proof.Machine
end

section

/-! ## Divergent branches (O21) -/

namespace Sys2Proof.Machine
open Sys2Proof

/-! ### The top record -/

theorem findRec_id {s : State} {id : Nat} {r : Rec} (h : findRec s id = some r) : r.id = id := by
  simpa using List.find?_some h

theorem topRec_eq_findRec {s : State} {r : Rec} (h : topRec s = some r) : findRec s r.id = some r := by
  unfold topRec at h
  split at h
  · rw [findRec_id h, h]
  · cases h

theorem topRec_mem {s : State} {r : Rec} (h : topRec s = some r) : r ∈ s.g.recs :=
  List.mem_of_find?_eq_some (topRec_eq_findRec h)

/-- The record of a number after a change to some records that keeps their numbers. -/
theorem find?_map_id {l : List Rec} {f : Rec → Rec} (hf : ∀ r, (f r).id = r.id) (id : Nat) :
    (l.map f).find? (fun r => r.id == id) = (l.find? fun r => r.id == id).map f := by
  rw [List.find?_map]
  congr 2
  funext r
  simp [hf]

/-- The top record of a split with the same stack in a group whose records have changed but for their numbers. -/
theorem topRec_of_map {s t : State} {f : Rec → Rec} (hf : ∀ r, (f r).id = r.id) (hr : t.g.recs = s.g.recs.map f)
    (hs : t.sp.recon = s.sp.recon) : topRec t = (topRec s).map f := by
  have hfind : ∀ id, findRec t id = (findRec s id).map f := fun id => by rw [findRec, hr, find?_map_id hf]; rfl
  unfold topRec
  rw [hs]
  split
  · exact hfind _
  · rfl

theorem topRec_updRec {s t : State} {r : Rec} {f : Rec → Rec} (hf : ∀ q, (f q).id = q.id) (h : topRec s = some r)
    (hr : t.g.recs = (updRec s r.id f).g.recs) (hs : t.sp.recon = s.sp.recon) : topRec t = some (f r) := by
  rw [topRec_of_map (s := s) (f := fun q => if q.id == r.id then f q else q) (fun q => by split <;> simp [hf]) hr hs, h]
  simp

/-! ### The body of a divergent branch -/

section
variable {i : Shape} {s u : State} {x : BrvArgs} {neg : Bool}

theorem divergent_none (h : takenSet s x neg = 0) : divergent i x neg s = .done s := by
  simp only [divergent, h, if_true]

theorem divergent_all (h : takenSet s x neg ≠ 0) (hn : s.sp.mask &&& ~~~takenSet s x neg = 0) :
    divergent i x neg s = transferTo s (s.sp.pc + x.off.signExtend 64) id := by
  simp only [divergent, h, if_false, hn, if_true]

theorem divergent_divides (h : takenSet s x neg ≠ 0) (hn : s.sp.mask &&& ~~~takenSet s x neg ≠ 0)
    (hc : checkTransfer s (s.sp.pc + x.off.signExtend 64) = .ok u) :
    divergent i x neg s =
      diverge u x (takenSet s x neg) (s.sp.mask &&& ~~~takenSet s x neg) (s.sp.pc + x.off.signExtend 64) (nextPc i s) := by
  simp only [divergent, h, if_false, hn, hc]
end

theorem serialOrder_eq (back : Bool) (t n : Word) (target next : DWord) :
    serialOrder back t n target next =
      { first := if back then n else t, fpc := if back then next else target
        second := if back then t else n, spc := if back then target else next } := by
  cases back <;> rfl

section
variable {u : State} {x : BrvArgs} {t n : Word} {target next : DWord}

theorem diverge_reuse {r : Rec} (h : topRec u = some r) (hj : r.jpc = u.sp.pc + x.join.signExtend 64) (hp : r.pend = 0) :
    diverge u x t n target next = .jump (reuseRec u r (serialOrder x.off.msb t n target next)) := by
  have hf : (topRec u).filter (fun r => r.jpc == u.sp.pc + x.join.signExtend 64 && r.pend == 0) = some r := by
    rw [h, Option.filter_some]
    simp [hj, hp]
  simp only [diverge, hf]

/-- The top record does not take the second set: there is none of this join without deferred lanes. -/
def NoReuse (u : State) (jpc : DWord) : Prop := ∀ r, topRec u = some r → ¬ (r.jpc = jpc ∧ r.pend = 0)

theorem NoReuse.filter {jpc : DWord} (h : NoReuse u jpc) : (topRec u).filter (fun r => r.jpc == jpc && r.pend == 0) = none := by
  rw [Option.filter_eq_none_iff]
  intro r hr
  simpa using h r hr

theorem diverge_full (h : NoReuse u (u.sp.pc + x.join.signExtend 64)) (hs : stackFull u = true) :
    diverge u x t n target next = raiseActive u 0x09 16 := by
  simp only [diverge, h.filter, hs, if_true]

theorem diverge_newSplit {num : Nat} (h : NoReuse u (u.sp.pc + x.join.signExtend 64)) (hs : stackFull u = false)
    (hin : u.g.inHandler = false) (hf : freeNumber u = some num) :
    diverge u x t n target next = .jump (newSplit u num (u.sp.pc + x.join.signExtend 64) t n target next) := by
  simp only [diverge, h.filter, hs, hin, hf, Bool.false_eq_true, if_false]

theorem diverge_serialize (h : NoReuse u (u.sp.pc + x.join.signExtend 64)) (hs : stackFull u = false)
    (hf : u.g.inHandler = true ∨ freeNumber u = none) :
    diverge u x t n target next =
      .jump (serialize u (u.sp.pc + x.join.signExtend 64) (serialOrder x.off.msb t n target next)) := by
  have hnone : (if u.g.inHandler then none else freeNumber u) = none := by rcases hf with h | h <;> simp [h]
  simp only [diverge, h.filter, hs, hnone, Bool.false_eq_true, if_false]
end

theorem freeNumber_cases (u : State) :
    (∃ n, u.g.inHandler = false ∧ freeNumber u = some n) ∨ (u.g.inHandler = true ∨ freeNumber u = none) := by
  cases u.g.inHandler <;> cases freeNumber u <;> simp

/-- Settles O21: the lanes decide between passing, going and dividing; where they divide, the top record, the handler and the free number
decide which of R43's cases it is. -/
theorem divergentBranches : Obligations.DivergentBranches := by
  unfold Obligations.DivergentBranches
  intro s u x neg i tgt next jpc taken rest back first second firstPc secondPc hr
  have harm := exec_brvArm s x neg
  have ht : takenSet s x neg = taken := takenSet_eq s x neg
  refine ⟨fun h0 => ?_, fun h0 hn hc => ?_, fun h0 hn hc => ?_⟩
  · exact exec_done harm hr (divergent_none (ht.trans h0))
  · refine exec_jump harm hr ((divergent_all (by rwa [ht]) (by rwa [ht])).trans (transferTo_ok hc))
  have hu := KeepsFocus.of_checkTransfer_ok hc
  have hbody := divergent_divides (i := i.shape) (by rwa [ht]) (by rwa [ht]) hc
  rw [ht] at hbody
  refine ⟨fun r htop hj hp => ?_, fun hno hroom => ?_, fun hno hfull => ?_⟩
  · refine ⟨_, exec_jump harm hr (hbody.trans (diverge_reuse htop hj hp)), ?_, ?_, rfl, rfl, ?_⟩
    · rw [serialOrder_eq]; rfl
    · rw [serialOrder_eq]; rfl
    · refine ⟨_, topRec_updRec (s := u) (f := fun q => { q with pend := _, ppc := _, pby := u.sp.num }) (fun _ => rfl) htop rfl rfl, ?_, ?_,
        hj, rfl, rfl⟩
      · rw [serialOrder_eq]
      · rw [serialOrder_eq]
        rfl
  · have hs : stackFull u = false := by simp [stackFull, hroom]
    rcases freeNumber_cases u with ⟨num, hin, hfree⟩ | hfree
    · refine ⟨_, _, exec_jump harm hr (hbody.trans (diverge_newSplit hno hs hin hfree)), rfl, rfl, rfl, congrArg Split.mask hu.sp, rfl,
        rfl, rfl, rfl, fun n _ hn' => ?_, fun h => ?_⟩
      · cases hfree.symm.trans hn'
        exact ⟨rfl, rfl, rfl, _, rfl, rfl, rfl, rfl, rfl, rfl, rfl, rfl, rfl⟩
      · simp [hin, hfree] at h
    · refine ⟨_, _, exec_jump harm hr (hbody.trans (diverge_serialize hno hs hfree)), rfl, rfl, rfl, congrArg Split.mask hu.sp, rfl, rfl,
        rfl, rfl, fun n hin hn' => ?_, fun _ => ?_⟩
      · simp [hin, hn'] at hfree
      · rw [serialOrder_eq]
        exact ⟨rfl, rfl, rfl, rfl, rfl⟩
  · exact exec_raiseActive harm hr (hbody.trans (diverge_full hno (by simp [stackFull, hfull])))

end Sys2Proof.Machine
end

section

/-! ## A step (O7, O8)

A step is its turn's act after the turn's ticks; what each act does is one lemma. -/

namespace Sys2Proof.Machine
open Sys2Proof

theorem step_of_agenda {s : State} {t : Turn} {rest : List Turn} (h : s.agenda = t :: rest) :
    step s = perform t.act (tick { s with agenda := rest } t.ticks) := by
  simp only [step, h]

theorem step_of_default {s : State} {a : Act} (h : s.agenda = []) (hd : defaultAct (tick s 1) = some a) :
    step s = perform a (tick s 1) := by
  simp only [step, h, hd]

theorem perform_event {e : Instr} {v : State} (h : e.encodable = false) :
    (ofWords e = false → perform (.event e) v = exec e v) ∧ (ofWords e = true → perform (.event e) v = .next v) := by
  constructor <;> intro hw <;> simp [perform, h, hw]

/-- Settles O8: the turn's event is performed after the ticks, unless the words at a PC bring it about. -/
theorem stepRunsEvent : Obligations.StepRunsEvent := by
  unfold Obligations.StepRunsEvent
  intro s v n rest e he hturn
  have hstep : step s = perform (.event e) v := by
    rcases hturn with ⟨h, rfl⟩ | ⟨h, hd, rfl⟩
    · exact step_of_agenda h
    · exact step_of_default h hd
  rw [hstep]
  exact perform_event he

/-! ### What a split does in its turn -/

theorem issueHere_yields {s : State} (ht : takesTurn s s.g s.sp = true) (hy : yields s = true) : issueHere s = .next (noteTurn s) := by
  simp only [issueHere, ht, hy, if_true]

theorem issueHere_runs {s : State} (ht : takesTurn s s.g s.sp = true) (hy : yields s = false) :
    issueHere s = issueAt s.g.turn (noteTurn s) := by
  simp only [issueHere, ht, hy, if_true, Bool.false_eq_true, if_false]

theorem issueAt_event {s : State} {turn : Nat} {e : BitVec 8 × Nat} (h : s.sp.event = some e) :
    issueAt turn s = .next (takeEvent s e) := by
  simp only [issueAt, h]

theorem issueAt_instr {s u : State} {turn : Nat} {i : Instr} (he : s.sp.event = none) (hj : atJoin s = false)
    (hl : lookAtPc s = (u, .instr i)) (hb : bondClamped u i = false) : issueAt turn s = exec i u := by
  simp only [issueAt, he, issueOver, hj, hl, hb, Bool.false_eq_true, if_false]

theorem issueLate_of_next {s t : State} (h : issueHere { s with sp := { s.sp with defer := true } } = .next t) :
    issueLate s = .next (settleDefer t) := by
  simp only [issueLate, h]

/-! ### An element of a noted load -/

theorem loadHere_none {s : State} {gid id k : Nat} (h : ((findGroup s gid).late.any fun z => z.id == id) = false) :
    loadHere s gid id k = s := by
  simp only [loadHere, h, Bool.false_eq_true, if_false]

theorem loadHere_some {s : State} {gid id k : Nat} (h : ((findGroup s gid).late.any fun z => z.id == id) = true) :
    loadHere s gid id k = performLate (focusGroup s gid) id k := by
  simp only [loadHere, h, if_true]

theorem performLate_elem {s : State} {id k : Nat} {y : Late} {e : Nat × Nat} (hy : s.g.late.find? (fun z => z.id == id) = some y)
    (hd : y.data = []) (he : y.elems[k % max 1 y.elems.length]? = some e) :
    performLate s id k =
      if lateReaches s y e.2 then
        leaveLate ((y.elems.filter fun o => o.2 == e.2).foldl (performElem y) s) id (y.elems.filter fun o => o.2 != e.2)
      else s := by
  simp only [performLate, hy, hd, he, List.isEmpty_nil, if_true]

/-- What performing elements of a vector load from scratchpad has left: registers, poison marks, latches. -/
def OnlyLanes (s t : State) : Prop :=
  t = { s with g := { s.g with vregs := t.g.vregs, poison := t.g.poison, latches := t.g.latches, latchVec := t.g.latchVec } }

theorem OnlyLanes.trans {s t u : State} (h : OnlyLanes s t) (k : OnlyLanes t u) : OnlyLanes s u := by
  unfold OnlyLanes at *
  rw [k, h]

/-- Scratchpad reads look at teams and cores alone. -/
theorem OnlyLanes.lclRead {s t : State} (h : OnlyLanes s t) (a n : Nat) : lclRead t t.tm.id a n = lclRead s s.tm.id a n := by
  rw [h]; rfl

theorem latchLane_onlyLanes (s : State) (l : Nat) (v : Quad) : OnlyLanes s (latchLane s s.g.id l v) := by
  unfold latchLane
  split
  · rfl
  · rw [updGroup, if_pos rfl]; rfl

theorem latchLane_vregs (s : State) (l : Nat) (v : Quad) : (latchLane s s.g.id l v).g.vregs = s.g.vregs := by
  unfold latchLane
  split
  · rfl
  · rw [updGroup, if_pos rfl]

theorem foldl_markPoison (c : Nat → Nat) (va : Nat) (l : List Nat) (s : State) :
    ∃ p, l.foldl (fun t i => markPoison t (c i) va) s = { s with g := { s.g with poison := p } } := by
  induction l generalizing s with
  | nil => exact ⟨_, rfl⟩
  | cons i l ih =>
    obtain ⟨p, hp⟩ := ih (markPoison s (c i) va)
    exact ⟨p, hp⟩

theorem writeLate_word {y : Late} {s : State} (lane v : Nat) (hs : y.scalar = false) (ht : y.ty = .n32) :
    writeLate s y lane v = setV (latchLane s s.g.id lane (BitVec.ofNat 128 (v % 2 ^ 32))) y.dest lane (BitVec.ofNat 32 v) := by
  have hv : laneValue .n32 v = v % 2 ^ 32 := rfl
  have hw : toWords (Ty.regs .n32) (v % 2 ^ 32) = [BitVec.ofNat 32 v] := by
    show [BitVec.ofNat 32 (v % 2 ^ 32)] = _
    exact congrArg (· :: []) (BitVec.eq_of_toNat_eq (by simp))
  simp only [writeLate, hs, ht, hv, hw, Bool.false_eq_true, if_false, setVs]

/-- One element of a word load from scratchpad: its lane of the register holds what the scratchpad holds there. -/
theorem performElem_word {y : Late} {s : State} (o : Nat × Nat) (hl : y.lcl = true) (hs : y.scalar = false) (ht : y.ty = .n32) :
    OnlyLanes s (performElem y s o) ∧
      (performElem y s o).g.vregs = poke s.g.vregs (32 * y.dest + o.1) (BitVec.ofNat 32 (ofBytes (lclRead s s.tm.id o.2 4))) := by
  obtain ⟨p, hp⟩ : ∃ p, performElem y s o =
      { writeLate s y o.1 (ofBytes (lclRead s s.tm.id o.2 4)) with g := { (writeLate s y o.1 (ofBytes (lclRead s s.tm.id o.2 4))).g with poison := p } } := by
    unfold performElem
    simp only [hl, if_true, ht]
    split
    · exact foldl_markPoison _ _ _ _
    · exact ⟨_, rfl⟩
  rw [hp, writeLate_word _ _ hs ht]
  refine ⟨OnlyLanes.trans (latchLane_onlyLanes s o.1 _) rfl, ?_⟩
  show poke _ _ _ = _
  rw [latchLane_vregs]

/-- Several elements of such a load at one address: each of their lanes holds what the scratchpad held there before. -/
theorem foldl_performElem_word {y : Late} (hl : y.lcl = true) (hs : y.scalar = false) (ht : y.ty = .n32) (va : Nat) :
    ∀ (l : List (Nat × Nat)) {s : State}, (∀ o ∈ l, o.2 = va) → cellsWf s.g.vregs = true → ∀ lane,
      getV (l.foldl (performElem y) s) y.dest lane =
        if (lane, va) ∈ l then BitVec.ofNat 32 (ofBytes (lclRead s s.tm.id va 4)) else getV s y.dest lane
  | [], _, _, _, _ => by simp
  | o :: l, s, hva, hw, lane => by
    obtain ⟨honly, hregs⟩ := performElem_word (s := s) o hl hs ht
    have ho : o.2 = va := hva o (List.mem_cons_self ..)
    have ih := foldl_performElem_word hl hs ht va l (s := performElem y s o) (fun p hp => hva p (List.mem_cons_of_mem _ hp))
      (by rw [hregs]; exact cellsWf_poke _ _ hw) lane
    rw [List.foldl_cons, ih, honly.lclRead, getV, hregs, peek_poke hw, ho, getV]
    have hcell : 32 * y.dest + lane = 32 * y.dest + o.1 ↔ lane = o.1 := by omega
    by_cases h1 : (lane, va) ∈ l
    · rw [if_pos h1, if_pos (List.mem_cons_of_mem _ h1)]
    · by_cases h2 : lane = o.1
      · rw [if_neg h1, if_pos (hcell.2 h2), if_pos (by rw [h2, ← ho]; exact List.mem_cons_self ..)]
      · have h3 : (lane, va) ∉ o :: l := fun h => (List.mem_cons.1 h).elim (fun e => h2 (congrArg Prod.fst e)) h1
        rw [if_neg h1, if_neg (fun h => h2 (hcell.1 h)), if_neg h3]

/-- Settles O7: the turn brings a split into focus, and then it issues, takes a watchdog's cause, or yields; a turn `load` performs the
elements of one address. -/
theorem stepRunsDecoded : Obligations.StepRunsDecoded := by
  unfold Obligations.StepRunsDecoded
  intro s f v u n w rest i
  refine ⟨?_, ?_, ?_⟩
  · intro hact ht hv
    have hstep : step s = issueHere f := by
      rcases hact with ⟨h, rfl⟩ | ⟨h, hd, rfl⟩
      · exact step_of_agenda h
      · exact step_of_default h hd
    rw [hstep, hv]
    refine ⟨issueHere_yields ht, fun hy => ⟨fun he hj hl hb => ?_, fun e he => ?_⟩⟩
    · rw [issueHere_runs ht hy, issueAt_instr he hj hl hb]
    · rw [issueHere_runs ht hy, issueAt_event he]
  · intro hagenda f0 hf ht hv
    have hstep : step s = issueLate f0 := step_of_agenda hagenda
    rw [hstep, hv]
    refine ⟨fun hy => issueLate_of_next ?_, fun hy he hj hl hb t hx => issueLate_of_next ?_⟩
    · exact hf ▸ issueHere_yields ht hy
    · have hrun := (issueHere_runs ht hy).trans (issueAt_instr he hj hl hb)
      exact (hf ▸ hrun).trans hx
  · intro gid id k y e hagenda hv
    have hstep : step s = .next (loadHere v gid id k) := by rw [hv]; exact step_of_agenda hagenda
    rw [hstep]
    refine ⟨fun hn => by rw [loadHere_none hn], fun hs hu hy hd he => ?_⟩
    rw [loadHere_some hs, ← hu, performLate_elem hy hd he]
    refine ⟨fun hr => by rw [hr]; rfl, fun hr => ⟨_, by rw [hr]; rfl, rfl, fun hw hl hsc hty => ?_⟩⟩
    have hmem : (e.1, e.2) ∈ y.elems.filter fun o => o.2 == e.2 :=
      List.mem_filter.2 ⟨List.mem_of_getElem? he, by simp⟩
    refine (foldl_performElem_word hl hsc hty e.2 _ (fun o ho => ?_) (Group.wf_vregs (State.wf_group hw)) e.1).trans (if_pos hmem)
    simpa using (List.mem_filter.1 ho).2

end Sys2Proof.Machine
end

section

/-! ## Reconvergence (O22)

`joinHere` has one outcome per clause of R44; a merge is described by what it makes of the split in focus, and the predicate bits of
the merged split lane by lane. -/

namespace Sys2Proof.Machine
open Sys2Proof

/-! ### What a split does at its top record's JPC -/

section
variable {s : State} {r : Rec}

theorem joinHere_elsewhere (h : topRec s = some r) (hp : s.sp.pc ≠ r.jpc) : joinHere s = s := by
  simp only [joinHere, h, hp, if_false]

theorem joinHere_pending (h : topRec s = some r) (hp : s.sp.pc = r.jpc) (hn : r.pend ≠ 0) :
    joinHere s = takePending (reachRec s r) r := by
  simp only [joinHere, h, hp, if_true, if_pos hn]

theorem joinHere_deep (h : topRec s = some r) (hp : s.sp.pc = r.jpc) (hn : r.pend = 0) (hd : r.pdep < s.sp.pred.length) :
    joinHere s = takeTrap (reachRec s r) { cause := 0x07, addr := BitVec.ofNat 64 s.sp.pred.length, lanes := s.sp.mask }
      s.sp.chain.isSome s.sp.pc := by
  have hd' : r.pdep < (reachRec s r).sp.pred.length := hd
  simp only [joinHere, h, hp, if_true, if_neg (not_not.2 hn), if_pos hd']
  rw [← hp]
  rfl

theorem joinHere_shallow (h : topRec s = some r) (hp : s.sp.pc = r.jpc) (hn : r.pend = 0) (hd : s.sp.pred.length < r.pdep) :
    joinHere s = takeTrap (reachRec s r) { cause := 0x08, addr := BitVec.ofNat 64 s.sp.pred.length, lanes := s.sp.mask }
      s.sp.chain.isSome s.sp.pc := by
  have hd' : (reachRec s r).sp.pred.length < r.pdep := hd
  simp only [joinHere, h, hp, if_true, if_neg (not_not.2 hn), if_neg (Nat.lt_asymm hd'), if_pos hd']
  rw [← hp]
  rfl

/-- The split in focus as it stands parked on a record whose lanes have come together. -/
def parkedOn (s : State) (r : Rec) : Split := { s.sp with mask := r.arr ||| s.sp.mask, parked := some r.id, wait := none }

theorem joinHere_parks (h : topRec s = some r) (hp : s.sp.pc = r.jpc) (hn : r.pend = 0) (hd : r.pdep = s.sp.pred.length) :
    joinHere s = tryMerge { reachRec s r with sp := parkedOn s r } r.id := by
  have hd' : r.pdep = (reachRec s r).sp.pred.length := hd
  simp only [joinHere, h, hp, if_true, if_neg (not_not.2 hn), hd', Nat.lt_irrefl, if_false]
  rfl

theorem findRec_reachRec (h : topRec s = some r) : findRec (reachRec s r) r.id = some { r with
    arr := r.arr ||| s.sp.mask, held := assocSet r.held s.sp.num (heldBy r s.sp.num ||| s.sp.mask) } := by
  have hf := topRec_eq_findRec h
  unfold findRec reachRec updRec updateWhere
  rw [find?_map_id fun q => by split <;> rfl]
  rw [show (s.g.recs.find? fun q => q.id == r.id) = some r from hf]
  simp
end

/-! ### Merges -/

/-- The lowest-numbered of some splits is one of them, and none has a lower number. -/
theorem lowestSplit_spec (p : Split) (l : List Split) :
    ∃ k, lowestSplit (p :: l) = some k ∧ k ∈ p :: l ∧ ∀ q ∈ p :: l, k.num ≤ q.num := by
  have key : ∀ (l : List Split) (p : Split), ∃ k, l.foldl (fun (a : Option Split) p => match a with
      | some q => if p.num < q.num then some p else some q | none => some p) (some p) = some k ∧ k ∈ p :: l ∧ ∀ q ∈ p :: l, k.num ≤ q.num := by
    intro l
    induction l with
    | nil => exact fun p => ⟨p, rfl, List.mem_cons_self .., by simp⟩
    | cons q l ih =>
      intro p
      rw [List.foldl_cons]
      by_cases hq : q.num < p.num
      · obtain ⟨k, hk, hm, hle⟩ := ih q
        refine ⟨k, by simpa [hq] using hk, List.mem_cons_of_mem _ hm, fun x hx => ?_⟩
        rcases List.mem_cons.1 hx with rfl | hx
        · exact (hle q (List.mem_cons_self ..)).trans hq.le
        · exact hle x hx
      · obtain ⟨k, hk, hm, hle⟩ := ih p
        refine ⟨k, by simpa [hq] using hk, ?_, fun x hx => ?_⟩
        · rcases List.mem_cons.1 hm with rfl | hm
          · exact List.mem_cons_self ..
          · exact List.mem_cons_of_mem _ (List.mem_cons_of_mem _ hm)
        · have hp := hle p (List.mem_cons_self ..)
          rcases List.mem_cons.1 hx with rfl | hx
          · exact hp
          · rcases List.mem_cons.1 hx with rfl | hx
            · omega
            · exact hle x (List.mem_cons_of_mem _ hx)
  exact key l p

/-- The splits parked on a record. -/
def parkedAt (s : State) (rid : Nat) : List Split := (liveSplits s).filter fun p => p.parked == some rid

/-- What a merge makes of the split it keeps (R44). -/
def mergedSplit (s : State) (r : Rec) (rid : Nat) (k : Split) (parked : List Split) : Split :=
  { k with
    mask := r.exp &&& ~~~s.g.exited, fmt := r.fmt, rnd := r.rnd, pred := mergedPred (carriedBy s rid) k parked, recon := k.recon.drop 1
    parked := none, live := r.exp &&& ~~~s.g.exited != 0, since := s.gt, pc := r.jpc }

/-- No merge where the lanes of the splits parked there are not all that the record expects. -/
theorem tryMerge_waits {s : State} {rid : Nat} {r : Rec} {away : List Split} (hr : findRec s rid = some r)
    (hu : (parkedAt s rid).foldl (fun m p => m ||| p.mask) 0 ≠ r.exp &&& ~~~s.g.exited) : tryMerge s rid away = s := by
  unfold tryMerge
  rw [show ((liveSplits s).filter fun p => p.parked == some rid) = parkedAt s rid from rfl, hr]
  cases hk : lowestSplit (parkedAt s rid) with
  | none => simp only [hk]
  | some k => simp only [hk, if_neg hu]

/-- No merge where nobody is parked. -/
theorem tryMerge_nobody {s : State} {rid : Nat} {away : List Split} (h : parkedAt s rid = []) : tryMerge s rid away = s := by
  unfold tryMerge
  rw [show ((liveSplits s).filter fun p => p.parked == some rid) = parkedAt s rid from rfl, h]
  cases findRec s rid <;> rfl

/-- A merge at which the split in focus is parked leaves the kept split in focus; the others parked there are gone. -/
theorem tryMerge_merges {s : State} {rid : Nat} {r : Rec} {k : Split} (hr : findRec s rid = some r)
    (hk : lowestSplit (parkedAt s rid) = some k) (hp : s.sp.parked = some rid)
    (hu : (parkedAt s rid).foldl (fun m p => m ||| p.mask) 0 = r.exp &&& ~~~s.g.exited) :
    ∃ recs, tryMerge s rid = { s with
      sp := mergedSplit s r rid k (parkedAt s rid)
      g := { s.g with others := s.g.others.filter fun p => p.parked != some rid, recs := recs } } := by
  unfold tryMerge
  rw [show ((liveSplits s).filter fun p => p.parked == some rid) = parkedAt s rid from rfl, hr]
  simp only [hk, if_pos hu, hp, beq_self_eq_true, if_true, List.append_nil]
  exact ⟨_, rfl⟩

/-! ### The predicate bits of a merged split -/

theorem getLsbD_foldl_or {α : Type} (f : α → Word) (i : Nat) : ∀ (l : List α) (b : Word),
    (l.foldl (fun m p => m ||| f p) b).getLsbD i = (b.getLsbD i || l.any fun p => (f p).getLsbD i)
  | [], b => by simp
  | p :: l, b => by rw [List.foldl_cons, getLsbD_foldl_or f i l]; simp [Bool.or_assoc]

theorem getLsbD_foldl_or_zero {α : Type} (f : α → Word) (i : Nat) (l : List α) :
    (l.foldl (fun m p => m ||| f p) 0).getLsbD i = l.any fun p => (f p).getLsbD i := by
  rw [getLsbD_foldl_or]
  simp

theorem mergedPred_length (carried : Split → Word) (kept : Split) (parked : List Split) :
    (mergedPred carried kept parked).length = kept.pred.length := by
  simp [mergedPred]

theorem mergedPred_bit (carried : Split → Word) (kept : Split) (parked : List Split) {n l : Nat} (hn : n < kept.pred.length)
    (hl : l < 32) : ((mergedPred carried kept parked).getD n 0).getLsbD l =
      ((kept.pred.getD n 0).getLsbD l && !(parked.any fun p => (carried p).getLsbD l) ||
        parked.any fun p => (p.pred.getD n 0).getLsbD l && (carried p).getLsbD l) := by
  have hget : (mergedPred carried kept parked).getD n 0 = parked.foldl (fun m p => m ||| (p.pred.getD n 0 &&& carried p))
      (kept.pred.getD n 0 &&& ~~~parked.foldl (fun m p => m ||| carried p) 0) := by
    simp [mergedPred, List.getD_eq_getElem?_getD, hn]
  rw [hget, getLsbD_foldl_or]
  simp only [BitVec.getLsbD_and, BitVec.getLsbD_not, hl, decide_true, Bool.true_and, getLsbD_foldl_or_zero]

/-- A split carries a lane to a record if it brought it there, or to a record below, or deferred it at one of them. -/
theorem carriedBy_bit (s : State) (rid : Nat) (p : Split) (l : Nat) : (carriedBy s rid p).getLsbD l = true ↔
    ∃ q ∈ s.g.recs, (q.id = rid ∨ q.id ∈ p.recon) ∧
      ((heldBy q p.num).getLsbD l = true ∨ (q.pby = p.num ∧ q.pend.getLsbD l = true)) := by
  have hf : carriedBy s rid p = (s.g.recs.filter fun q => q.id == rid || p.recon.contains q.id).foldl
      (fun m q => m ||| (heldBy q p.num ||| if q.pby = p.num then q.pend else 0)) 0 := by
    simp only [carriedBy, BitVec.or_assoc]
  have hbit : ∀ q : Rec, (if q.pby = p.num then q.pend else 0).getLsbD l = true ↔ q.pby = p.num ∧ q.pend.getLsbD l = true := by
    intro q
    split <;> simp_all
  rw [hf, getLsbD_foldl_or_zero]
  simp only [List.any_eq_true, List.mem_filter, Bool.or_eq_true, beq_iff_eq,
    List.contains_iff_mem, BitVec.getLsbD_or, hbit, and_assoc]

/-- A lane that one split alone carried has that split's bits. -/
theorem mergedPred_bit_carried {carried : Split → Word} {kept p : Split} {parked : List Split} {n l : Nat} (hn : n < kept.pred.length)
    (hl : l < 32) (hp : p ∈ parked) (hc : (carried p).getLsbD l = true)
    (hu : ∀ q ∈ parked, (carried q).getLsbD l = true → q.pred = p.pred) :
    ((mergedPred carried kept parked).getD n 0).getLsbD l = (p.pred.getD n 0).getLsbD l := by
  have hall : (parked.any fun p => (carried p).getLsbD l) = true := List.any_eq_true.2 ⟨p, hp, hc⟩
  rw [mergedPred_bit _ _ _ hn hl, hall, Bool.not_true, Bool.and_false, Bool.false_or, Bool.eq_iff_iff, List.any_eq_true]
  constructor
  · rintro ⟨q, hq, h⟩
    rw [Bool.and_eq_true] at h
    rw [← hu q hq h.2]
    exact h.1
  · exact fun h => ⟨p, hp, by rw [h, hc]; rfl⟩

/-- A lane that no split carried has the kept split's bits. -/
theorem mergedPred_bit_kept {carried : Split → Word} {kept : Split} {parked : List Split} {n l : Nat} (hn : n < kept.pred.length)
    (hl : l < 32) (hu : ∀ q ∈ parked, (carried q).getLsbD l = false) :
    ((mergedPred carried kept parked).getD n 0).getLsbD l = (kept.pred.getD n 0).getLsbD l := by
  have hall : (parked.any fun p => (carried p).getLsbD l) = false := List.any_eq_false.2 fun q hq => by simp [hu q hq]
  have hnone : (parked.any fun p => (p.pred.getD n 0).getLsbD l && (carried p).getLsbD l) = false :=
    List.any_eq_false.2 fun q hq => by simp [hu q hq]
  rw [mergedPred_bit _ _ _ hn hl, hall, hnone]
  simp

/-! ### A split that parks at its top record's JPC -/

section
variable {s : State} {r : Rec}

/-- The state in which a live split has come to its JPC: it is parked there, with the splits that were. -/
theorem parkedAt_parkedOn (hlive : s.sp.live = true) : parkedAt { reachRec s r with sp := parkedOn s r } r.id =
    parkedOn s r :: s.g.others.filter fun p => p.parked == some r.id := by
  have hl : liveSplits { reachRec s r with sp := parkedOn s r } = parkedOn s r :: s.g.others := if_pos hlive
  rw [parkedAt, hl, List.filter_cons_of_pos]
  exact beq_self_eq_true _

/-- The lanes of the splits parked there, the one in focus first. -/
theorem parkedOn_lanes (others : List Split) : (parkedOn s r :: others).foldl (fun m p => m ||| p.mask) 0 =
    others.foldl (fun m p => m ||| p.mask) (r.arr ||| s.sp.mask) := by
  rw [List.foldl_cons]
  exact congrArg (others.foldl _) BitVec.zero_or

/-- A split that is another one in all that a merge takes from it: its number, its predicate stack and its records. -/
structure Split.StandsFor (q p : Split) : Prop where
  num : q.num = p.num
  pred : q.pred = p.pred
  recon : q.recon = p.recon

theorem Split.StandsFor.carriedBy_eq {q p : Split} (h : q.StandsFor p) (s : State) (rid : Nat) : carriedBy s rid q = carriedBy s rid p := by
  simp only [carriedBy, h.num, h.recon]

theorem exists_standsFor {q : Split} {others : List Split} (h : q ∈ parkedOn s r :: others) : ∃ p ∈ s.sp :: others, q.StandsFor p := by
  rcases List.mem_cons.1 h with rfl | h
  · exact ⟨s.sp, List.mem_cons_self .., rfl, rfl, rfl⟩
  · exact ⟨q, List.mem_cons_of_mem _ h, rfl, rfl, rfl⟩

theorem standsFor_exists {p : Split} {others : List Split} (h : p ∈ s.sp :: others) : ∃ q ∈ parkedOn s r :: others, q.StandsFor p := by
  rcases List.mem_cons.1 h with rfl | h
  · exact ⟨parkedOn s r, List.mem_cons_self .., rfl, rfl, rfl⟩
  · exact ⟨p, List.mem_cons_of_mem _ h, rfl, rfl, rfl⟩

/-- A split that parks with all expected lanes there merges: what is kept, and of whom. -/
theorem joinHere_merges (h : topRec s = some r) (hp : s.sp.pc = r.jpc) (hn : r.pend = 0) (hd : r.pdep = s.sp.pred.length)
    (hlive : s.sp.live = true)
    (hu : (s.g.others.filter fun p => p.parked == some r.id).foldl (fun m p => m ||| p.mask) (r.arr ||| s.sp.mask) =
      r.exp &&& ~~~s.g.exited) :
    ∃ k recs, k ∈ parkedOn s r :: (s.g.others.filter fun p => p.parked == some r.id) ∧
      (∀ p ∈ parkedOn s r :: (s.g.others.filter fun p => p.parked == some r.id), k.num ≤ p.num) ∧
      joinHere s = { s with
        sp := mergedSplit { reachRec s r with sp := parkedOn s r } r r.id k
          (parkedOn s r :: s.g.others.filter fun p => p.parked == some r.id)
        g := { s.g with others := s.g.others.filter fun p => p.parked != some r.id, recs := recs } } := by
  have hpark := parkedAt_parkedOn (r := r) hlive
  obtain ⟨k, hk, hmem, hle⟩ := lowestSplit_spec (parkedOn s r) (s.g.others.filter fun p => p.parked == some r.id)
  have hlanes := (parkedOn_lanes (s := s) (r := r) (s.g.others.filter fun p => p.parked == some r.id)).trans hu
  rw [← hpark] at hk hlanes
  obtain ⟨recs, hm⟩ := tryMerge_merges (s := { reachRec s r with sp := parkedOn s r }) (findRec_reachRec h) hk rfl hlanes
  refine ⟨k, recs, hmem, hle, ?_⟩
  rw [joinHere_parks h hp hn hd, hm, hpark]
  rfl
end

/-- Settles O22, by the outcomes of `joinHere` and, for a merge, the predicate bits lane by lane. -/
theorem reconvergence : Obligations.Reconvergence := by
  unfold Obligations.Reconvergence
  intro s r htop note arrived others carries want union
  have hexec : ∀ {t : State}, joinHere s = t → exec .reconverge s = .next t := fun h => congrArg Host.Outcome.next h
  refine ⟨fun hp => hexec (joinHere_elsewhere htop hp), fun hp hn => ?_, fun hp hn hd hlive hnone hall => ?_,
    fun hp hn hd hlive hu => ?_, fun hp hn hd hlive hu h0 => ?_, fun hp hn hd => hexec (joinHere_deep htop hp hn hd),
    fun hp hn hd => hexec (joinHere_shallow htop hp hn hd)⟩
  · refine ⟨_, hexec (joinHere_pending htop hp hn), rfl, rfl, rfl, rfl, rfl, rfl, ?_⟩
    have hreach : topRec (reachRec s r) = some (note r) := topRec_updRec (s := s) (fun _ => rfl) htop rfl rfl
    exact ⟨_, topRec_updRec (s := reachRec s r) (r := note r) (f := fun q => { q with pend := 0 }) (fun _ => rfl) hreach rfl rfl,
      rfl, rfl, rfl, rfl⟩
  · have hothers : others = [] := List.filter_eq_nil_iff.2 fun p hp => by simpa using hnone p hp
    obtain ⟨k, recs, hk, -, hj⟩ := joinHere_merges htop hp hn hd hlive (by rw [show s.g.others.filter _ = [] from hothers]; exact hall)
    rw [show s.g.others.filter (fun p => p.parked == some r.id) = [] from hothers] at hk
    obtain rfl := List.mem_singleton.1 hk
    exact ⟨_, hexec hj, rfl, rfl, rfl, rfl, rfl, rfl, rfl, rfl⟩
  · refine hexec ((joinHere_parks htop hp hn hd).trans (tryMerge_waits (findRec_reachRec htop) ?_))
    rw [parkedAt_parkedOn hlive, parkedOn_lanes]
    exact hu
  · obtain ⟨k, recs, hk, hle, hj⟩ := joinHere_merges htop hp hn hd hlive hu
    obtain ⟨k', hk', hkk⟩ := exists_standsFor hk
    have hcarries : ∀ {q p : Split} {l : Nat}, q.StandsFor p →
        ((carriedBy { reachRec s r with sp := parkedOn s r } r.id q).getLsbD l = true ↔ carries p l) := fun h => by
      rw [h.carriedBy_eq]
      exact carriedBy_bit _ _ _ _
    refine ⟨_, k', hexec hj, hk', fun p hp => ?_, hkk.num, rfl, rfl, rfl, rfl, rfl, ?_, congrArg (List.drop 1) hkk.recon, rfl, rfl, rfl,
      (mergedPred_length ..).trans (congrArg List.length hkk.pred), fun n l hn hl => ⟨fun p hp hc hu => ?_, fun hnone => ?_⟩⟩
    · obtain ⟨q, hq, hqp⟩ := standsFor_exists hp
      rw [← hkk.num, ← hqp.num]
      exact hle q hq
    · exact bne_iff_ne.2 h0
    · obtain ⟨q, hq, hqp⟩ := standsFor_exists hp
      rw [← hqp.pred]
      refine mergedPred_bit_carried (by rwa [hkk.pred]) hl hq ((hcarries hqp).2 hc) fun x hx hxc => ?_
      obtain ⟨p', hp', hxp⟩ := exists_standsFor hx
      rw [hxp.pred, hqp.pred, hu p' hp' ((hcarries hxp).1 hxc)]
    · rw [← hkk.pred]
      refine mergedPred_bit_kept (by rwa [hkk.pred]) hl fun x hx => ?_
      obtain ⟨p', hp', hxp⟩ := exists_standsFor hx
      exact Bool.eq_false_iff.2 fun hc => hnone p' hp' ((hcarries hxp).1 hc)

end Sys2Proof.Machine
end

section

/-! ## `exit` (O23) -/

namespace Sys2Proof.Machine
open Sys2Proof

/-! ### Merges and fences leave the focus -/

namespace KeepsFocus
variable {a s : State}

theorem snapGranule (h : KeepsFocus a s) (lid : Nat) (asid : BitVec 16) (va : Nat) : KeepsFocus a (snapGranule s lid asid va) :=
  ite_keeps h (ite_keeps (KeepsFocus.markUnroll _ _ h) (ite_keeps h (ite_keeps (h.of_eq rfl rfl) (KeepsFocus.markUnroll _ _ h))))

theorem launchWrite (h : KeepsFocus a s) (lid : Option Nat) (asid : BitVec 16) (line : Nat) (bs : List (Nat × Byte)) :
    KeepsFocus a (launchWrite s lid asid line bs).1 := by
  unfold Machine.launchWrite
  split
  · exact h.of_eq rfl rfl
  · exact (KeepsFocus.touchGranule (h.snapGranule ..) ..).of_eq rfl rfl

theorem noteW (h : KeepsFocus a s) (gid w : Nat) : KeepsFocus a (noteW s gid w) :=
  h.updGroup gid fun x hx => by unfold Group.SameButTally at *; rw [hx]

theorem setFlags (h : KeepsFocus a s) (gid : Nat) (f : Flags) : KeepsFocus a (Machine.updGroup s gid (setFlags f)) :=
  h.updGroup gid fun x hx => by unfold Group.SameButTally Machine.setFlags at *; rw [hx]

theorem logViolation (h : KeepsFocus a s) (phys mkind : Nat) (mid : BitVec 16) (write : Bool) :
    KeepsFocus a (logViolation s phys mkind mid write) := ite_keeps (h.of_eq rfl rfl) (h.of_eq rfl rfl)

theorem mergeAt (h : KeepsFocus a s) (u : ULine) (base : Nat) : KeepsFocus a (mergeAt s u base) :=
  foldl_keeps (KeepsFocus.launchWrite (foldl_keeps h fun _ _ h1 => (h1.snapGranule ..).touchGranule ..) ..)
    fun _ _ h1 => (h1.noteW ..).setFlags ..

theorem dropLine (h : KeepsFocus a s) (u : ULine) (base : Nat) : KeepsFocus a (dropLine s u base) :=
  foldl_keeps (foldl_keeps h fun _ _ h1 => h1.logViolation ..) fun _ _ h1 =>
    h1.updGroup _ fun x hx => by unfold Group.SameButTally at *; rw [hx]

theorem mergeLine (h : KeepsFocus a s) (u : ULine) : KeepsFocus a (mergeLine s u) := by
  unfold Machine.mergeLine
  refine ite_keeps h ?_
  dsimp only
  split
  · exact h.of_eq rfl rfl
  · refine ite_keeps (KeepsFocus.mergeAt ?_ ..) (KeepsFocus.dropLine ?_ ..) <;> exact h.of_eq rfl rfl

theorem mergeGroup (h : KeepsFocus a s) (gid : Nat) : KeepsFocus a (mergeGroup s gid) := foldl_keeps h fun _ _ h1 => h1.mergeLine _

/-- A fence that is over has left the group's paths. -/
theorem of_sysFence_done {u : State} (h : KeepsFocus a s) (hu : sysFence s = .done u) : KeepsFocus a u := by
  unfold sysFence at hu
  dsimp only at hu
  split at hu
  · split at hu
    · cases hu
      refine ⟨h.sp, ?_⟩
      have hg := h.g
      unfold Group.SameButTally at *
      rw [hg]
    · cases hu
  · cases hu

theorem of_lastExitCheck_done {u : State} (hu : lastExitCheck s = .done u) : KeepsFocus s u := by
  unfold lastExitCheck at hu
  dsimp only at hu
  split at hu
  · cases hu
  · exact ((KeepsFocus.refl s).mergeGroup _).of_sysFence_done hu

end KeepsFocus

/-! ### What settling the splits and the barriers can change -/

/-- Nothing changes but the split in focus, the other splits of its group, and their records. -/
def OnlySplits (s t : State) : Prop := t = { s with sp := t.sp, g := { s.g with recs := t.g.recs, others := t.g.others } }

theorem OnlySplits.refl (s : State) : OnlySplits s s := rfl

theorem OnlySplits.trans {s t u : State} (h : OnlySplits s t) (k : OnlySplits t u) : OnlySplits s u := by
  unfold OnlySplits at *
  rw [k, h]

theorem afterEmpty_onlySplits : ∀ (fuel : Nat) (s : State), OnlySplits s (afterEmpty fuel s)
  | 0, _ => rfl
  | fuel + 1, s => by
    unfold afterEmpty
    split
    · rfl
    · exact ite_keeps rfl (ite_keeps rfl ((show OnlySplits s (popRec s) from rfl).trans (afterEmpty_onlySplits fuel _)))

theorem OnlySplits.with_splits {s t : State} (h : OnlySplits s t) (p : Split) (l : List Split) :
    OnlySplits s { t with sp := p, g := { t.g with others := l } } := h.trans rfl

theorem emptyOther_onlySplits (s : State) (p : Split) : OnlySplits s (emptyOther s p) := by
  unfold emptyOther
  extract_lets rest cur g t
  have ht : OnlySplits s t := by
    refine OnlySplits.trans ?_ (afterEmpty_onlySplits 17 _)
    rfl
  exact ht.with_splits _ _

theorem tryMerge_onlySplits (s : State) (rid : Nat) (away : List Split) : OnlySplits s (tryMerge s rid away) := by
  unfold tryMerge
  dsimp only
  split
  · split
    · split <;> rfl
    · rfl
  · rfl

theorem settleSplits_onlySplits (s : State) : OnlySplits s (settleSplits s) := by
  have h1 : OnlySplits s ((s.g.others.filter fun p => p.mask == 0).foldl emptyOther s) :=
    foldl_keeps (OnlySplits.refl s) fun t p h => h.trans (emptyOther_onlySplits t p)
  exact foldl_keeps (ite_keeps (h1.trans (afterEmpty_onlySplits ..)) h1) fun t r h => h.trans (tryMerge_onlySplits ..)

/-- Nothing changes but teams and gangs: their barriers. -/
def OnlyTeams (s t : State) : Prop := t = { s with tm := t.tm, teams := t.teams, gangs := t.gangs }

theorem OnlyTeams.trans {s t u : State} (h : OnlyTeams s t) (k : OnlyTeams t u) : OnlyTeams s u := by
  unfold OnlyTeams at *
  rw [k, h]

theorem settleBar_onlyTeams (s : State) (tid n : Nat) (b : Barrier) : OnlyTeams s (settleBar s tid n b) := by
  unfold settleBar setBar
  split
  · rfl
  · unfold updTeam
    split <;> rfl

theorem exitBarriers_onlyTeams (s : State) (g : Group) : OnlyTeams s (exitBarriers s g) := by
  have h : OnlyTeams s ((List.range (findTeam s g.team).barriers.length).foldl (fun s n =>
      let b := getBar s g.team n
      if b.init && b.exitc && (b.lanes || whollyExited g) then settleBar s g.team n b else s) s) :=
    foldl_keeps rfl fun t n h => ite_keeps (h.trans (settleBar_onlyTeams ..)) h
  exact ite_keeps (h.trans (settleBar_onlyTeams ..)) h


/-! ### The lanes leave, then the splits settle -/

/-- The state in which lanes have left the split in focus, the other splits and the records. -/
def withoutLanes (s : State) (e : Word) (next : DWord) : State :=
  dropFromRecs { s with
    g := { s.g with exited := s.g.exited ||| e, others := s.g.others.map (dropFromSplit · e), lastExit := s.sp.pc }
    sp := { dropFromSplit s.sp e with pc := next } } e

theorem OnlyTeams.focus {s t : State} (h : OnlyTeams s t) : t.sp = s.sp ∧ t.g = s.g ∧ t.mem = s.mem := by
  rw [h]
  exact ⟨rfl, rfl, rfl⟩

/-- The barriers that count the exits have no part in the group. -/
theorem exitLanes_focus (s : State) (e : Word) (next : DWord) :
    (exitLanes s e next).sp = (settleSplits (withoutLanes s e next)).sp ∧
      (exitLanes s e next).g = (settleSplits (withoutLanes s e next)).g ∧
      (exitLanes s e next).mem = (settleSplits (withoutLanes s e next)).mem :=
  (exitBarriers_onlyTeams _ _).focus

/-- What the exit of lanes leaves, whatever the splits do. -/
theorem exitLanes_frame (s : State) (e : Word) (next : DWord) :
    let t := exitLanes s e next
    t.g.exited = (s.g.exited ||| e) ∧ t.g.sregs = s.g.sregs ∧ t.g.vregs = s.g.vregs ∧ t.g.masks = s.g.masks ∧
      t.g.lastExit = s.sp.pc ∧ t.mem = s.mem := by
  obtain ⟨-, hg, hm⟩ := exitLanes_focus s e next
  have hs := settleSplits_onlySplits (withoutLanes s e next)
  simp only [hg, hm]
  rw [hs]
  exact ⟨rfl, rfl, rfl, rfl, rfl, rfl⟩

/-- Where every other split keeps lanes, and no merge comes about, settling is what the split in focus does if its lanes are gone. -/
theorem settleSplits_eq {s v : State} (ho : ∀ p ∈ s.g.others, p.mask ≠ 0)
    (hv : (if s.sp.live && s.sp.mask == 0 then afterEmpty 17 s else s) = v) (hm : ∀ r away, tryMerge v r away = v) :
    settleSplits s = v := by
  have hnone : (s.g.others.filter fun p => p.mask == 0) = [] := List.filter_eq_nil_iff.2 fun p hp => by simpa using ho p hp
  unfold settleSplits
  rw [hnone, List.foldl_nil]
  simp only [hv]
  exact List.foldl_fixed' (fun r => hm r.id (awayAt v r)) _

theorem parkedAt_eq_nil {s : State} (ho : ∀ p ∈ s.g.others, p.parked = none) (hs : s.sp.live = false ∨ s.sp.parked = none) (rid : Nat) :
    parkedAt s rid = [] := by
  refine List.filter_eq_nil_iff.2 fun p hp => ?_
  have hpn : p.parked = none := by
    unfold liveSplits at hp
    split at hp
    · rename_i hlive
      rcases List.mem_cons.1 hp with rfl | hp
      · exact hs.resolve_left (by simp [hlive])
      · exact ho p hp
    · exact ho p hp
  simp [hpn]

/-- A split that is parked alone on a record whose lanes are not all there. -/
theorem tryMerge_parked_alone {s : State} {r : Rec} (ho : ∀ p ∈ s.g.others, p.parked = none) (hr : findRec s r.id = some r)
    (hp : s.sp.parked = some r.id) (hlive : s.sp.live = true) (hw : s.sp.mask ≠ r.exp &&& ~~~s.g.exited) (rid : Nat) (away : List Split) :
    tryMerge s rid away = s := by
  have hpark : parkedAt s rid = if r.id = rid then [s.sp] else [] := by
    have hrest : (s.g.others.filter fun p => p.parked == some rid) = [] := List.filter_eq_nil_iff.2 fun p h => by simp [ho p h]
    rw [parkedAt, liveSplits, if_pos hlive, List.filter_cons, hrest, hp]
    simp
  by_cases h : r.id = rid
  · subst h
    refine tryMerge_waits hr ?_
    rw [hpark, if_pos rfl]
    simpa using hw
  · exact tryMerge_nobody (hpark.trans (if_neg h))

/-! ### What a split does whose lanes are gone -/

theorem afterEmpty_freed {s : State} (n : Nat) (h : topRec s = none) : afterEmpty (n + 1) s = { s with sp := { s.sp with live := false } } := by
  simp only [afterEmpty, h]

theorem afterEmpty_deferred {s : State} {r : Rec} (n : Nat) (h : topRec s = some r) (hp : r.pend ≠ 0 ∧ r.pby = s.sp.num) :
    afterEmpty (n + 1) s = takePending { s with sp := { s.sp with parked := none } } r := by
  simp only [afterEmpty, h, if_pos hp]

theorem afterEmpty_parks {s : State} {r : Rec} (n : Nat) (h : topRec s = some r) (hp : ¬ (r.pend ≠ 0 ∧ r.pby = s.sp.num))
    (hh : heldBy r s.sp.num &&& r.arr ≠ 0) : afterEmpty (n + 1) s =
      { s with sp := { s.sp with mask := r.arr, parked := some r.id, pc := r.jpc, pred := fitPred s.sp.pred r.pdep } } := by
  simp only [afterEmpty, h, if_neg hp, if_pos hh]

/-! ### The body of `exit` -/

theorem exec_exit {s : State} {x : Args} (hr : Ready (.exit x) s) (h0 : s.exec ≠ 0)
    (hl : (s.g.launched &&& ~~~(s.g.exited ||| s.exec)) ≠ 0) :
    exec (.exit x) s = .next (goesTo (.exit x) s (exitLanes s s.exec (pcAfter (.exit x) s))
      (exitLanes s s.exec (pcAfter (.exit x) s)).sp.pc) := by
  refine exec_jump (rfl : execExit x s = _) hr ?_
  simp only [exitBody, if_neg h0, lastLanes, beq_eq_false_iff_ne.2 hl, Bool.false_eq_true, if_false]
  rfl

theorem exec_exit_last {s u : State} {x : Args} (hr : Ready (.exit x) s) (h0 : s.exec ≠ 0)
    (hl : (s.g.launched &&& ~~~(s.g.exited ||| s.exec)) = 0) (hu : lastExitCheck s = .done u) :
    exec (.exit x) s = .next (goesTo (.exit x) s (exitLanes u s.exec (pcAfter (.exit x) s))
      (exitLanes u s.exec (pcAfter (.exit x) s)).sp.pc) := by
  refine exec_jump (rfl : execExit x s = _) hr ?_
  simp only [exitBody, if_neg h0, lastLanes, hl, beq_self_eq_true, if_true, hu]
  rfl

/-- A record without some lanes. -/
def Rec.without (r : Rec) (e : Word) : Rec := { r with exp := r.exp &&& ~~~e, arr := r.arr &&& ~~~e, pend := r.pend &&& ~~~e }

theorem topRec_withoutLanes (s : State) (e : Word) (next : DWord) : topRec (withoutLanes s e next) = (topRec s).map (·.without e) :=
  topRec_of_map (s := s) (f := (·.without e)) (fun _ => rfl) rfl rfl

/-- Settles O23: the lanes leave, and what the splits settle to is one of the cases of R45; the barriers and a fence leave the rest. -/
theorem exitRemovesLanes : Obligations.ExitRemovesLanes := by
  unfold Obligations.ExitRemovesLanes
  intro s u x hr e without cut plain
  have hsettled : ∀ {v : State}, plain → settleSplits (withoutLanes s e (pcAfter (.exit x) s)) = v →
      ∃ t, exec (.exit x) s = .next t ∧ t.g = v.g ∧ t.sp = { v.sp with wait := none, since := t.gt, chain := chainAfter (Instr.exit x).shape s } := by
    intro v ⟨h0, hl, _⟩ hv
    obtain ⟨hsp, hg, -⟩ := exitLanes_focus s e (pcAfter (.exit x) s)
    rw [hv] at hsp hg
    exact ⟨_, exec_exit hr h0 hl, hg, by rw [← hsp]; rfl⟩
  have hothers : plain → ∀ p ∈ (withoutLanes s e (pcAfter (.exit x) s)).g.others, p.parked = none ∧ p.mask ≠ 0 := by
    intro ⟨_, _, hp⟩ p hmem
    obtain ⟨q, hq, rfl⟩ := List.mem_map.1 hmem
    exact hp q hq
  have hgone : s.sp.live = true → s.sp.mask &&& ~~~e = 0 →
      ((withoutLanes s e (pcAfter (.exit x) s)).sp.live && (withoutLanes s e (pcAfter (.exit x) s)).sp.mask == 0) = true := by
    intro hlive hm
    exact Bool.and_eq_true_iff.2 ⟨hlive, beq_iff_eq.2 hm⟩
  refine ⟨fun hplain hlive hpark hm => ?_, fun hplain hlive hpark hm htop => ?_, fun r hplain hlive hpark hm htop => ⟨fun hp hby => ?_,
    fun hp hh hw => ?_⟩, fun h0 => ?_, fun h0 hl => ?_, fun h0 hl hu => ?_⟩
  · have hfree := parkedAt_eq_nil (fun p hp => (hothers hplain p hp).1) (Or.inr hpark)
    obtain ⟨t, he, hg, hsp⟩ := hsettled hplain (settleSplits_eq (fun p hp => (hothers hplain p hp).2)
      (if_neg fun h => hm (beq_iff_eq.1 (Bool.and_eq_true_iff.1 h).2)) fun rid away => tryMerge_nobody (hfree rid))
    refine ⟨t, he, ?_⟩
    rw [hsp, hg]
    exact ⟨rfl, rfl, rfl, rfl, rfl, rfl⟩
  · have hnone : topRec (withoutLanes s e (pcAfter (.exit x) s)) = none := by rw [topRec_withoutLanes, htop]; rfl
    obtain ⟨t, he, hg, hsp⟩ := hsettled hplain (settleSplits_eq (fun p hp => (hothers hplain p hp).2)
      ((if_pos (hgone hlive hm)).trans (afterEmpty_freed 16 hnone))
      fun rid away => by
        refine tryMerge_nobody (parkedAt_eq_nil ?_ (Or.inl rfl) rid)
        exact fun p hp => (hothers hplain p hp).1)
    refine ⟨t, he, ?_⟩
    rw [hsp, hg]
    exact ⟨rfl, rfl, rfl⟩
  · have hsome : topRec (withoutLanes s e (pcAfter (.exit x) s)) = some (r.without e) := by rw [topRec_withoutLanes, htop]; rfl
    obtain ⟨t, he, hg, hsp⟩ := hsettled hplain (settleSplits_eq (fun p hp => (hothers hplain p hp).2)
      ((if_pos (hgone hlive hm)).trans (afterEmpty_deferred 16 hsome ⟨hp, hby⟩))
      fun rid away => by
        refine tryMerge_nobody (parkedAt_eq_nil ?_ (Or.inr rfl) rid)
        exact fun p hp => (hothers hplain p hp).1)
    refine ⟨t, he, ?_⟩
    rw [hsp, hg]
    exact ⟨hlive, rfl, rfl, rfl, rfl, rfl⟩
  · have hsome : topRec (withoutLanes s e (pcAfter (.exit x) s)) = some (r.without e) := by rw [topRec_withoutLanes, htop]; rfl
    obtain ⟨t, he, hg, hsp⟩ := hsettled hplain (settleSplits_eq (fun p hp => (hothers hplain p hp).2)
      ((if_pos (hgone hlive hm)).trans (afterEmpty_parks 16 hsome hp hh))
      (tryMerge_parked_alone (fun p hp => (hothers hplain p hp).1) (topRec_eq_findRec hsome) rfl hlive hw))
    refine ⟨t, he, ?_⟩
    rw [hsp, hg]
    exact ⟨hlive, rfl, rfl, rfl, rfl⟩
  · refine exec_done (rfl : execExit x s = _) hr ?_
    exact if_pos h0
  · obtain ⟨hex, hs, hv, hmask, -, hmem⟩ := exitLanes_frame s s.exec (pcAfter (.exit x) s)
    exact ⟨_, exec_exit hr h0 hl, hex, hs, hv, hmask, hmem⟩
  · obtain ⟨hex, hs, hv, -, hlast, -⟩ := exitLanes_frame u s.exec (pcAfter (.exit x) s)
    have hk := KeepsFocus.of_lastExitCheck_done hu
    have hg : u.g.exited = s.g.exited ∧ u.g.sregs = s.g.sregs ∧ u.g.vregs = s.g.vregs := by rw [hk.g]; exact ⟨rfl, rfl, rfl⟩
    exact ⟨_, exec_exit_last hr h0 hl hu, hex.trans (by rw [hg.1]), hs.trans hg.2.1, hv.trans hg.2.2, hlast.trans (by rw [hk.sp])⟩

end Sys2Proof.Machine
end

section

/-! ## System instructions (O41) -/

namespace Sys2Proof.Machine
open Sys2Proof

/-! ### `rte` -/

/-- The state that `rte` makes of the shadow (R193), by the fields that the trap and `sput` have left. -/
theorem leaveHandler_shadow {s : State} {h : Shadow} (hs : s.g.shadow = some h) : leaveHandler s = { s with
    g := { s.g with inHandler := false, entry := 0, shadow := none }
    sp := { s.sp with
      mask := h.mask &&& ~~~s.g.exited, pred := h.pred.map (· &&& ~~~s.g.exited), recon := h.recon, fmt := h.fmt, rnd := h.rnd
      super := s.g.tpmode, pc := s.g.tpc, chain := none, wait := none
      arrival := if s.g.tpcw then none else h.arrival, request := if s.g.tpcw then none else h.request } } := by
  simp only [leaveHandler, hs]

theorem leaveHandler_bare {s : State} (hs : s.g.shadow = none) : leaveHandler s = { s with
    g := { s.g with inHandler := false, entry := 0 }
    sp := { s.sp with super := s.g.tpmode, pc := s.g.tpc, chain := none, wait := none } } := by
  simp only [leaveHandler, hs]

theorem returnBody_tpc {s : State} (hw : s.g.tpcw = false) (he : s.g.entry ≠ 0x38) : returnBody s = .jump (settleSplits (leaveHandler s)) := by
  simp only [returnBody, hw, beq_eq_false_iff_ne.2 he, Bool.false_eq_true, if_false]

theorem returnBody_saved {s : State} (hw : s.g.tpcw = false) (he : s.g.entry = 0x38) : returnBody s =
    .jump { settleSplits (leaveHandler s) with g := { (settleSplits (leaveHandler s)).g with halted := true } } := by
  simp only [returnBody, hw, he, beq_self_eq_true, if_true, Bool.false_eq_true, if_false]

theorem returnBody_checked {s u : State} (hw : s.g.tpcw = true) (hc : checkTransfer s s.g.tpc = .ok u) (he : u.g.entry ≠ 0x38) :
    returnBody s = .jump (settleSplits (leaveHandler u)) := by
  simp only [returnBody, hw, if_true, hc, beq_eq_false_iff_ne.2 he, Bool.false_eq_true, if_false]

/-- What a return reads of a group does not change while the target is checked. -/
theorem KeepsFocus.trapFields {s u : State} (h : KeepsFocus s u) : u.g.shadow = s.g.shadow ∧ u.g.exited = s.g.exited ∧
    u.g.tpmode = s.g.tpmode ∧ u.g.tpc = s.g.tpc ∧ u.g.tpcw = s.g.tpcw ∧ u.g.entry = s.g.entry := by
  rw [h.g]
  exact ⟨rfl, rfl, rfl, rfl, rfl, rfl⟩

/-! ### `sig` -/

theorem withRelease_done {s u : State} {scope : Nat} {f : State → Res} (h : release s scope = .done u) : withRelease s scope f = f u := by
  simp only [withRelease, h]

theorem signalBody_done {s u : State} {x : Args} {scope : Nat} (ho : ownsCounter s s.asid (scalar32 s x x.a).toNat = true)
    (hu : release s scope = .done u) (hm : mpReaches u u.tm.core = true) :
    signalBody x scope s = .done (addCounter u (scalar32 s x x.a).toNat (scalar32 s x x.b)) := by
  simp only [signalBody, ho, Bool.not_true, Bool.false_eq_true, if_false, withRelease_done hu, hm, if_true]

theorem signalBody_refused {s : State} {x : Args} {scope : Nat} (ho : ownsCounter s s.asid (scalar32 s x x.a).toNat = false) :
    signalBody x scope s = raiseExec s 0x13 ((scalar32 s x x.a).setWidth 64) := by
  simp only [signalBody, ho, Bool.not_false, if_true]
  exact congrArg (raiseExec s 0x13) (BitVec.eq_of_toNat_eq (by simp))

/-! ### The reply to `sysc` -/

theorem execSyscReply_answers {s u : State} {gid n : Nat} {v : Word} {q : Request} (hu : u = focus s { gid := gid, sp := n })
    (hq : u.sp.request = some q) (ho : q.op = 0x3F) (hm : mayIssue u = true) (hc : chainOpen u gid = false)
    (hr : mpReaches u u.tm.core = true) : execSyscReply gid n v s = .next (answered (resultS u q.dest v) q) := by
  simp only [execSyscReply, ← hu, hq, ho, hm, hc, hr, Bool.not_false, and_self, if_true]

/-- Settles O41, instruction by instruction. -/
theorem systemCalls : Obligations.SystemCalls := by
  unfold Obligations.SystemCalls
  intro s u x h gid n v q live back bare signals
  refine ⟨fun hr hs he hw => ?_, fun hr hs he hw hc => ?_, fun hr hs he hw => ?_, fun hr hs he hw => ?_, fun hr hg => ?_, fun hr hg => ?_,
    fun hr ho hu hm => ?_, fun hr ho hu hm => ?_, fun hr ho => ?_, fun hr ho => ?_, fun hr => ?_, fun hr => ?_, fun hr hq hu => ?_,
    fun hu hq ho hm hc hr => ?_⟩
  · refine exec_jump (rfl : execRte x s = _) hr ?_
    rw [returnBody_tpc hw he, leaveHandler_shadow hs]
  · obtain ⟨hsh, hex, hmode, hpc, hpcw, hentry⟩ := (KeepsFocus.of_checkTransfer_ok hc).trapFields
    refine exec_jump (rfl : execRte x s = _) hr ?_
    rw [returnBody_checked hw hc (by rwa [hentry]), leaveHandler_shadow (hsh.trans hs), hex, hmode, hpc, hpcw]
  · refine exec_jump (rfl : execRte x s = _) hr ?_
    rw [returnBody_tpc hw he, leaveHandler_bare hs]
  · refine exec_jump (rfl : execRte x s = _) hr ?_
    rw [returnBody_saved hw he, leaveHandler_shadow hs]
  · refine exec_done (rfl : execPpoint x s = _) hr ?_
    dsimp only
    split
    · rename_i k hk
      exact absurd hk (hg k)
    · rfl
  · refine exec_jump (rfl : execPpoint x s = _) hr ?_
    dsimp only
    split
    · rfl
    · rename_i hk
      exact absurd hg (hk n)
  · exact exec_done (rfl : execSigDev x s = _) hr (signalBody_done ho hu hm)
  · exact exec_done (rfl : execSigSys x s = _) hr (signalBody_done ho hu hm)
  · exact exec_raiseExec (rfl : execSigDev x s = _) hr (signalBody_refused ho)
  · exact exec_raiseExec (rfl : execSigSys x s = _) hr (signalBody_refused ho)
  · exact exec_done (rfl : execWget x s = _) hr rfl
  · exact ⟨_, rfl, rfl, rfl, rfl, rfl, exec_done (rfl : execHalt x s = _) hr rfl⟩
  · refine exec_wait (rfl : execSysc x s = _) hr ?_
    have hnone : (s.sp.request.any fun q => q.pc == s.sp.pc) = false := by
      cases hreq : s.sp.request with
      | none => rfl
      | some p => simpa using hq p hreq
    simp only [hnone, Bool.false_eq_true, if_false, withRelease_done hu]
    rfl
  · exact execSyscReply_answers hu hq ho hm hc hr

end Sys2Proof.Machine
end

section

/-! ## Issue (O10) -/

namespace Sys2Proof.Machine
open Sys2Proof

/-- Every instruction that has an encoding runs a body after the checks of issue; the events have none (R153). -/
theorem exec_eq_run {i : Instr} (h : i.encodable = true) (s : State) : ∃ body, exec i s = run i.shape body s := by
  unfold exec
  cases i with
  | reconverge | syscReply _ _ _ | engineComplete _ | barWaitRelease _ _ | kvReply _ _ | blockCopyOnWrite _ _ | passStart _
  | passEnd _ | retrievalComplete _ | frozenBucketTimeout _ | fetchLine _ _ _ | homeRead _ _ _ | storeAtHome _
  | sectorUnpin _ _ _ | pageMapReply _ _ _ | pacFill _ _ _ | launchMessage _ _ | gangPlacement | priorityAging | reservation
  | reservationPreempt _ | groupRetire _ | teamRetire _ | gridComplete _ | counterAssign _ _ | queueOpen _ _
  | preemptRequest _ | gangHalt _ | saveComplete _ | gangResume _ | contextSwitch _ | unplaceableTerminate _
  | barrierTimeout _ _ | fifoTimeout _ _ | rendezvousTimeout _ | collJoinTimeout _ | chunkArrival _ _ _ | chunkResend _
  | collFailureNotice _ | remoteAtomicReply _ _ _ _ | fenceToken _ | fenceAck _ _ | windowGrant _ _ _ | windowRevoke _ _ _
  | destUnreachable _ | hostAccess _ _ _ _ | unifiedRangeChange _ _ _ _ | checkpointRequest _ _ | checkpointAbandon
  | restoreRequest _ _ | coldStart _ | warmStart _ _ | stop | powerDomainTimeout _ _ | attestationRequest _ | powerLoop _
  | thermalClamp _ | blackBoxCopy | hbmScrub _ _ | linkRetransmit _ _ _ | unitRetire _ _ _ _ | halfWidthSwitch _ _
  | layerRetire _ _ | blockMove _ _ _ | bridgeRetire _ _ | bayFence _ _ _ | testPackage _ _ | snapshotCopy _ _ | rollback _
  | contextTerminate _ _ | launchKill _ | debugResume _ _ | accessTableWrite _ _ _ | violationDrain _ | loadObject _ _ _ _ _
  | illegalInstruction _ _ | fillDrainComplete _ _ | lineEviction _ _ _ _ | supplyLoss | mpFailure | debuggerAttach _ _
  | mappingChange _ | releaseWaitEnd _ _ => exact Bool.noConfusion h
  | _ => exact ⟨_, rfl⟩

/-! ### The registers that an instruction names -/

theorem anyPending_eq_true {i : Instr} {s : State} : (((useOf i.shape).sread ++ (useOf i.shape).swrite).any
    (fun n => s.g.pending.contains n) || lateReg i.shape s) = true ↔ namesPending i s := by
  simp only [Bool.or_eq_true, List.any_eq_true, List.contains_eq_mem, decide_eq_true_eq, namesPending]

theorem anyHigh_eq_true {i : Instr} {s : State} : (((useOf i.shape).vread ++ (useOf i.shape).vwrite).any
    fun r => decide (s.g.nv < r.1 + r.2)) = true ↔ namesHigh i s := by
  simp only [List.any_eq_true, decide_eq_true_eq, namesHigh]

/-! ### What issue finds -/

section
variable {i : Instr} {s : State}

theorem issueCheck_pending (hp : namesPending i s) : issueCheck i.shape s = .hold .register := by
  unfold issueCheck
  exact if_pos (anyPending_eq_true.2 hp)

theorem issueCheck_high (hp : ¬ namesPending i s) (hh : namesHigh i s) :
    issueCheck i.shape s = .stop { cause := 0x02, addr := firstUnit i.shape, lanes := s.exec } := by
  unfold issueCheck
  exact (if_neg (mt anyPending_eq_true.1 hp)).trans (if_pos (anyHigh_eq_true.2 hh))

/-- The checks that follow those of the registers named. -/
theorem issueCheck_named (hp : ¬ namesPending i s) (hh : ¬ namesHigh i s) : issueCheck i.shape s =
    if lacksPrivilege i.shape s then .stop { cause := 0x04, addr := firstUnit i.shape, lanes := s.exec }
    else if needsF64 i.shape && profileN s then .stop { cause := 0x05, addr := firstUnit i.shape, lanes := s.exec }
    else if latchFault i.shape s then .stop { cause := 0x06, addr := s.sp.pc, lanes := s.exec }
    else if !(poisonedReads i.shape s).isEmpty then .stop (poisonTrap s (poisonedReads i.shape s))
    else .go := by
  unfold issueCheck
  exact (if_neg (mt anyPending_eq_true.1 hp)).trans (if_neg (mt anyHigh_eq_true.1 hh))

theorem exec_stop (he : i.encodable = true) {r : Trap} (h : issueCheck i.shape s = .stop r) :
    exec i s = .next (takeTrap s r (s.sp.chain.isSome || suppresses i.shape) (pcAfter i s)) := by
  obtain ⟨body, hb⟩ := exec_eq_run he s
  rw [hb]
  simp only [run, h]
  rfl

theorem exec_hold (he : i.encodable = true) {w : Wait} (h : issueCheck i.shape s = .hold w) : exec i s = .next (park w s) := by
  obtain ⟨body, hb⟩ := exec_eq_run he s
  rw [hb]
  simp only [run, h]

end

/-! ### Poisoned data -/

/-- The lower of an address and that of a poisoned cell. -/
def lower (a : DWord) (p : Nat × DWord) : DWord := if p.2.toNat < a.toNat then p.2 else a

theorem lower_le (a : DWord) (p : Nat × DWord) : (lower a p).toNat ≤ a.toNat ∧ (lower a p).toNat ≤ p.2.toNat := by
  unfold lower
  split <;> omega

theorem lower_eq (a : DWord) (p : Nat × DWord) : lower a p = a ∨ lower a p = p.2 := by
  unfold lower
  split <;> simp

/-- The fold yields one of the addresses, and none is lower. -/
theorem foldl_lower (l : List (Nat × DWord)) (a : DWord) :
    l.foldl lower a ∈ a :: l.map Prod.snd ∧ ∀ b ∈ a :: l.map Prod.snd, (l.foldl lower a).toNat ≤ b.toNat := by
  induction l generalizing a with
  | nil => simp
  | cons p l ih =>
    obtain ⟨hm, hle⟩ := ih (lower a p)
    obtain ⟨ha, hp⟩ := lower_le a p
    have hstart := hle _ (List.mem_cons_self ..)
    simp only [List.foldl_cons, List.map_cons, List.mem_cons] at hm hle ⊢
    refine ⟨?_, ?_⟩
    · rcases hm with h | h
      · exact (lower_eq a p).imp h.trans fun e => .inl (h.trans e)
      · exact .inr (.inr h)
    · rintro b (rfl | rfl | hb)
      · exact hstart.trans ha
      · exact hstart.trans hp
      · exact hle b (.inr hb)

/-- The address of the poison trap is the lowest that the data came from (R393). -/
theorem poisonTrap_addr (s : State) {l : List (Nat × DWord)} (h : l ≠ []) :
    ∃ p ∈ l, (∀ q ∈ l, p.2.toNat ≤ q.2.toNat) ∧ (poisonTrap s l).addr = p.2 := by
  cases l with
  | nil => exact absurd rfl h
  | cons p l =>
    obtain ⟨hm, hle⟩ := foldl_lower (p :: l) p.2
    have hmem : (poisonTrap s (p :: l)).addr ∈ (p :: l).map Prod.snd := by
      change (p :: l).foldl lower p.2 ∈ _
      simpa using hm
    obtain ⟨q, hq, he⟩ := List.mem_map.1 hmem
    exact ⟨q, hq, fun r hr => he ▸ hle r.2 (.tail _ (List.mem_map_of_mem hr)), he.symm⟩

theorem poisonTrap_lanes (s : State) (l : List (Nat × DWord)) : (poisonTrap s l).lanes =
    if ∀ q ∈ l, 8192 ≤ q.1 then s.exec else maskOf fun k => l.any fun q => q.1 < 8192 && q.1 % 32 == k := by
  simp only [poisonTrap, List.all_eq_true, decide_eq_true_eq]

/-- Settles O10, check by check. -/
theorem issueChecksInOrder : Obligations.IssueChecksInOrder := by
  unfold Obligations.IssueChecksInOrder
  intro i s he
  refine ⟨fun hp => exec_hold he (issueCheck_pending hp), fun hp hh => exec_stop he (issueCheck_high hp hh), fun hp hh hl => ?_,
    fun hp hh hl hf hn => ?_, fun hp hh hl hf hc => ?_, fun hp hh hl hf hc hq => ?_, fun hp hh hl hf hc hq => ?_⟩
  · exact exec_stop he (by rw [issueCheck_named hp hh, if_pos hl])
  · exact exec_stop he (by simp [issueCheck_named hp hh, hl, hf, hn])
  · exact exec_stop he (by simp [issueCheck_named hp hh, hl, hf, hc])
  · simp [Ready, issueCheck_named hp hh, hl, hf, hc, hq]
  · obtain ⟨p, hp', hle, ha⟩ := poisonTrap_addr s hq
    refine ⟨p, hp', hle, ?_⟩
    rw [exec_stop (r := poisonTrap s (poisonedReads i.shape s)) he (by simp [issueCheck_named hp hh, hl, hf, hc, hq]), traps, ← ha,
      ← poisonTrap_lanes]
    rfl

end Sys2Proof.Machine
end

section

/-! ## The integer operations, in terms of bit vectors (R167 to R170) -/

namespace Sys2Proof.Machine
open Sys2Proof

section
variable {w : Nat}

/-! ### Counting and reversing bits -/

theorem cpopNatRec_eq_length (x : BitVec w) (n : Nat) :
    x.cpopNatRec n 0 = ((List.range n).filter fun i => x.getLsbD i).length := by
  induction n with
  | zero => rfl
  | succ n ih =>
    rw [BitVec.cpopNatRec_succ, BitVec.cpopNatRec_eq, ih, List.range_succ, List.filter_append, List.length_append]
    cases h : x.getLsbD n <;> simp [h]

theorem popCount_eq_cpop (x : BitVec w) : BitVec.ofNat w (popCount x) = x.cpop := by
  rw [popCount, ← cpopNatRec_eq_length]
  rfl

theorem leadZeros_eq_clz (x : BitVec w) : BitVec.ofNat w (leadZeros x) = x.clz := by
  apply BitVec.eq_of_toNat_eq
  unfold leadZeros
  split
  · rename_i h
    rw [BitVec.clz_eq_iff_eq_zero.2 (BitVec.eq_of_toNat_eq (by simpa using h))]
    rfl
  · rename_i h
    have hx : x ≠ 0#w := fun e => h (by simp [e])
    have hw : 0 < w := by
      rcases Nat.eq_zero_or_pos w with rfl | hw
      · exact absurd x.of_length_zero hx
      · exact hw
    have hlo := BitVec.two_pow_sub_clz_le_toNat_of_ne_zero hw hx
    have hhi := x.toNat_lt_two_pow_sub_clz
    have hlog : Nat.log2 x.toNat = w - 1 - x.clz.toNat := by
      refine (Nat.log2_eq_iff h).2 ⟨hlo, hhi.trans_le (Nat.pow_le_pow_right (by norm_num) (by omega))⟩
    have hc : x.clz.toNat < w := by
      by_contra hc
      rw [Nat.sub_eq_zero_of_le (by omega : w ≤ x.clz.toNat), pow_zero] at hhi
      omega
    rw [hlog, BitVec.toNat_ofNat, Nat.mod_eq_of_lt] <;> have := x.clz.isLt <;> omega

/-- Bit by bit, the sum that reverses the low n bits of a vector. -/
theorem reverseSum_eq (x : BitVec w) : ∀ n ≤ w, ∃ q,
    (List.range n).foldl (fun a i => if x.getLsbD i then a + 2 ^ (w - 1 - i) else a) 0 = 2 ^ (w - n) * q ∧
      ∀ j, q.testBit j = (decide (j < n) && x.getLsbD (n - 1 - j))
  | 0, _ => ⟨0, by simp, by simp⟩
  | n + 1, hn => by
    obtain ⟨q, hq, hb⟩ := reverseSum_eq x n (by omega)
    refine ⟨Nat.bit (x.getLsbD n) q, ?_, fun j => ?_⟩
    · rw [List.range_succ, List.foldl_append, hq, show w - n = w - (n + 1) + 1 by omega, Nat.pow_succ, List.foldl_cons,
        List.foldl_nil, show w - 1 - n = w - (n + 1) by omega]
      cases x.getLsbD n <;> simp [Nat.bit] <;> ring
    · cases j with
      | zero => simp
      | succ j => rw [Nat.testBit_bit_succ, hb, show n + 1 - 1 - (j + 1) = n - 1 - j by omega]; simp

theorem bitReverse_eq_reverse (x : BitVec w) : bitReverse x = x.reverse := by
  obtain ⟨q, hq, hb⟩ := reverseSum_eq x w le_rfl
  refine BitVec.eq_of_getLsbD_eq fun j hj => ?_
  rw [bitReverse, hq, Nat.sub_self, pow_zero, one_mul, BitVec.getLsbD_ofNat, hb, BitVec.getLsbD_reverse, BitVec.getMsbD]
  simp [hj]

/-! ### High products -/

theorem mulHigh_unsigned (a b : BitVec w) :
    BitVec.ofNat w (a.toNat * b.toNat / 2 ^ w) = (a.setWidth (2 * w) * b.setWidth (2 * w)).extractLsb' w w := by
  apply BitVec.eq_of_toNat_eq
  have ha := a.isLt
  have hb := b.isLt
  have hp : a.toNat * b.toNat < 2 ^ (2 * w) := by
    rw [two_mul, Nat.pow_add]
    exact Nat.mul_lt_mul'' ha hb
  have hle : (2 : Nat) ^ w ≤ 2 ^ (2 * w) := Nat.pow_le_pow_right (by norm_num) (by omega)
  simp only [BitVec.extractLsb'_toNat, BitVec.toNat_mul, BitVec.toNat_setWidth, BitVec.toNat_ofNat, Nat.shiftRight_eq_div_pow,
    Nat.mod_eq_of_lt (ha.trans_le hle), Nat.mod_eq_of_lt (hb.trans_le hle), Nat.mod_eq_of_lt hp]

theorem emod_mul_ediv (z : Int) {n : Int} (k : Int) (hn : 0 < n) : z % (n * k) / n = z / n % k := by
  rw [Int.emod_def, Int.emod_def, mul_assoc, Int.sub_mul_ediv_left _ _ hn.ne', Int.ediv_ediv_of_nonneg hn.le]

theorem ofInt_ediv_two_pow (z : Int) : BitVec.ofInt w (z / 2 ^ w) = (BitVec.ofInt (2 * w) z).extractLsb' w w := by
  have hw : (0 : Int) < 2 ^ w := by positivity
  apply BitVec.eq_of_toNat_eq
  simp only [BitVec.extractLsb'_toNat, BitVec.toNat_ofInt, Nat.shiftRight_eq_div_pow]
  zify
  rw [Int.toNat_of_nonneg (Int.emod_nonneg _ (by exact_mod_cast hw.ne')), Int.toNat_of_nonneg (Int.emod_nonneg _ (by positivity)), two_mul,
    pow_add, emod_mul_ediv _ _ hw, Int.emod_emod]

theorem mulHigh_signed (a b : BitVec w) :
    BitVec.ofInt w (a.toInt * b.toInt / 2 ^ w) = (a.signExtend (2 * w) * b.signExtend (2 * w)).extractLsb' w w := by
  rw [ofInt_ediv_two_pow, BitVec.ofInt_mul]
  rfl

/-! ### Shifts -/

theorem sshiftRight_of_le (x : BitVec w) {n : Nat} (h : w - 1 ≤ n) : x.sshiftRight n = x.sshiftRight (w - 1) := by
  refine BitVec.eq_of_getLsbD_eq fun i hi => ?_
  have hm := x.msb_eq_getLsbD_last
  rw [BitVec.getLsbD_sshiftRight, BitVec.getLsbD_sshiftRight]
  by_cases h0 : i = 0 ∧ n = w - 1
  · rw [h0.2]
  · rw [if_neg (by omega : ¬ n + i < w)]
    by_cases hi0 : i = 0
    · rw [if_pos (by omega : w - 1 + i < w), hm, hi0, Nat.add_zero]
    · rw [if_neg (by omega : ¬ w - 1 + i < w)]

/-- Where the shift is by no more than the width, it is the quotient that rounds down. -/
theorem sshiftRight_eq_ofInt (x : BitVec w) (n : Nat) : x.sshiftRight n = BitVec.ofInt w (x.toInt / 2 ^ min n (w - 1)) := by
  have h : x.sshiftRight n = x.sshiftRight (min n (w - 1)) := by
    rcases Nat.le_total n (w - 1) with hn | hn
    · rw [Nat.min_eq_left hn]
    · rw [Nat.min_eq_right hn, sshiftRight_of_le x hn]
  rw [h, BitVec.sshiftRight, Int.shiftRight_eq_div_pow]
  simp

/-! ### Comparisons -/

theorem signed_le_iff (a b : BitVec w) : a.toInt ≤ b.toInt ↔ ¬ (b.slt a = true) := by
  rw [BitVec.slt_iff_toInt_lt, not_lt]

theorem unsigned_le_iff (a b : BitVec w) : a.toNat ≤ b.toNat ↔ ¬ (b.ult a = true) := by
  rw [BitVec.ult_iff_lt, BitVec.lt_def, not_lt]

theorem ite_le_eq_ite_slt {α : Sort*} (a b : BitVec w) (x y : α) (h : a = b → x = y) :
    (if a.toInt ≤ b.toInt then x else y) = if a.slt b then x else y := by
  rcases lt_trichotomy a.toInt b.toInt with hl | he | hg
  · rw [if_pos hl.le, if_pos (BitVec.slt_iff_toInt_lt.2 hl)]
  · rw [h (BitVec.eq_of_toInt_eq he), ite_self, ite_self]
  · rw [if_neg hg.not_ge, if_neg fun e => absurd (BitVec.slt_iff_toInt_lt.1 e) hg.not_gt]

theorem ite_le_eq_ite_ult {α : Sort*} (a b : BitVec w) (x y : α) (h : a = b → x = y) :
    (if a.toNat ≤ b.toNat then x else y) = if a.ult b then x else y := by
  rcases lt_trichotomy a.toNat b.toNat with hl | he | hg
  · rw [if_pos hl.le, if_pos (BitVec.ult_iff_lt.2 hl)]
  · rw [h (BitVec.eq_of_toNat_eq he), ite_self, ite_self]
  · rw [if_neg hg.not_ge, if_neg fun e => absurd (BitVec.ult_iff_lt.1 e) (by rw [BitVec.lt_def]; omega)]

end

/-! ### The operations on words -/

section
variable (a b d : Word)

theorem mulHighS_eq : mulHighS a b = (a.signExtend 64 * b.signExtend 64).extractLsb' 32 32 := mulHigh_signed a b

theorem mulHighU_eq : mulHighU a b = (a.setWidth 64 * b.setWidth 64).extractLsb' 32 32 := mulHigh_unsigned a b

theorem divU_eq : divU a b = if b = 0 then 0xFFFFFFFF else a / b := by
  unfold divU
  rw [show BitVec.ofNat 32 (a.toNat / b.toNat) = a / b from BitVec.eq_of_toNat_eq (by
    rw [BitVec.toNat_ofNat, BitVec.toNat_udiv, Nat.mod_eq_of_lt ((Nat.div_le_self ..).trans_lt a.isLt)])]

theorem remU_eq : remU a b = if b = 0 then a else a % b := by
  unfold remU
  rw [show BitVec.ofNat 32 (a.toNat % b.toNat) = a % b from BitVec.eq_of_toNat_eq (by
    rw [BitVec.toNat_ofNat, BitVec.toNat_umod, Nat.mod_eq_of_lt ((Nat.mod_le ..).trans_lt a.isLt)])]

theorem divS_eq : divS a b = if b = 0 then 0xFFFFFFFF else a.sdiv b := by
  unfold divS
  split
  · rfl
  · split
    · rename_i h
      rw [h.1, h.2]
      decide
    · exact BitVec.eq_of_toInt_eq (by rw [BitVec.toInt_ofInt, BitVec.toInt_sdiv])

theorem remS_eq : remS a b = if b = 0 then a else a.srem b := by
  unfold remS
  split
  · rfl
  · split
    · rename_i h
      rw [h.1, h.2]
      decide
    · rw [← Int.tmod_def, ← BitVec.toInt_srem, BitVec.ofInt_toInt]

theorem shiftL_eq : shiftL a b = a <<< b := by
  unfold shiftL
  split
  · exact (BitVec.shiftLeft_eq_zero ‹_›).symm
  · rfl

theorem shiftR_eq : shiftR a b = a >>> b := by
  unfold shiftR
  split
  · exact (BitVec.ushiftRight_eq_zero ‹_›).symm
  · rfl

theorem shiftA_eq : shiftA a b = a.sshiftRight b.toNat := by
  unfold shiftA
  split
  · exact (sshiftRight_of_le a (by omega : 32 - 1 ≤ b.toNat)).symm
  · rfl

theorem condWord_eq (cc : Nat) : condWord cc a b = if ccHolds cc a b then 1 else 0 := by
  rw [condWord, condHolds_eq_ccHolds]

/-! ### Bit fields (R170) -/

theorem fieldWidth_le : fieldWidth b ≤ 32 := Nat.min_le_right ..

theorem toNat_ones {n : Nat} (h : n ≤ 32) : (BitVec.ofNat 32 (2 ^ n - 1)).toNat = 2 ^ n - 1 := by
  have := Nat.pow_le_pow_right (by norm_num : 0 < 2) h
  have := Nat.two_pow_pos n
  rw [BitVec.toNat_ofNat, Nat.mod_eq_of_lt (by omega)]

theorem toNat_and_ones {n : Nat} (h : n ≤ 32) : (a &&& BitVec.ofNat 32 (2 ^ n - 1)).toNat = a.toNat % 2 ^ n := by
  rw [BitVec.toNat_and, toNat_ones h, Nat.and_two_pow_sub_one_eq_mod]

theorem extractU_eq : extractU a b = (a >>> b.extractLsb' 0 5) &&& BitVec.ofNat 32 (2 ^ fieldWidth b - 1) := by
  apply BitVec.eq_of_toNat_eq
  rw [toNat_and_ones _ (fieldWidth_le b), extractU, BitVec.toNat_ofNat, Nat.mod_eq_of_lt]
  · simp [fieldPos, Nat.shiftRight_eq_div_pow]
  · exact ((Nat.mod_le ..).trans (Nat.div_le_self ..)).trans_lt a.isLt

theorem signExtend_eq_ite {n : Nat} (y : BitVec n) : y.signExtend 32 =
    if 0 < n ∧ y.toNat.testBit (n - 1) then BitVec.ofInt 32 ((y.toNat : Int) - 2 ^ n) else BitVec.ofNat 32 y.toNat := by
  have hm : y.msb = true ↔ 0 < n ∧ y.toNat.testBit (n - 1) = true := by
    rw [BitVec.msb_eq_getLsbD_last, ← BitVec.testBit_toNat]
    refine ⟨fun h => ⟨Nat.pos_of_ne_zero ?_, h⟩, And.right⟩
    rintro rfl
    simp [BitVec.of_length_zero] at h
  rw [BitVec.signExtend, BitVec.toInt_eq_msb_cond]
  simp only [← hm]
  split
  · push_cast
    rfl
  · exact BitVec.ofInt_natCast ..

theorem extractS_eq_signExtend : extractS a b = ((a >>> b.extractLsb' 0 5).setWidth (fieldWidth b)).signExtend 32 := by
  have hf : ((a >>> b.extractLsb' 0 5).setWidth (fieldWidth b)).toNat = a.toNat / 2 ^ fieldPos b % 2 ^ fieldWidth b := by
    simp [fieldPos, Nat.shiftRight_eq_div_pow]
  rw [signExtend_eq_ite, hf]
  rfl

/-- A shift left and back with the sign leaves the low n bits, sign-extended. -/
theorem signExtend_setWidth_eq (x : Word) {n : Nat} (h : n ≤ 32) :
    (x.setWidth n).signExtend 32 = BitVec.sshiftRight (x <<< (32 - n)) (32 - n) := by
  refine BitVec.eq_of_getLsbD_eq fun i hi => ?_
  rw [BitVec.getLsbD_signExtend, BitVec.getLsbD_sshiftRight, BitVec.msb_eq_getLsbD_last, BitVec.msb_eq_getLsbD_last]
  simp only [BitVec.getLsbD_setWidth, BitVec.getLsbD_shiftLeft]
  by_cases hn : i < n
  · rw [if_pos hn, if_pos (by omega), show 32 - n + i - (32 - n) = i by omega]
    simp [hn, hi, show 32 - n + i < 32 by omega]
  · rw [if_neg hn, if_neg (by omega), show 32 - 1 - (32 - n) = n - 1 by omega]
    rcases Nat.eq_zero_or_pos n with rfl | hp
    · simp
    · simp [hi, show n - 1 < n by omega, show ¬ 32 ≤ i by omega, show ¬ 31 < 32 - n by omega]

theorem extractS_eq : extractS a b =
    BitVec.sshiftRight ((a >>> b.extractLsb' 0 5) <<< (32 - fieldWidth b)) (32 - fieldWidth b) := by
  rw [extractS_eq_signExtend, signExtend_setWidth_eq _ (fieldWidth_le b)]

theorem insertField_eq : insertField a b d = (d &&& ~~~(BitVec.ofNat 32 (2 ^ fieldWidth b - 1) <<< b.extractLsb' 0 5)) |||
    ((a &&& BitVec.ofNat 32 (2 ^ fieldWidth b - 1)) <<< b.extractLsb' 0 5) := by
  have hshift (x : Word) (n : Nat) (h : x.toNat = n) : x <<< b.extractLsb' 0 5 = BitVec.ofNat 32 (n * 2 ^ fieldPos b) := by
    apply BitVec.eq_of_toNat_eq
    simp [h, fieldPos, Nat.shiftLeft_eq]
  rw [hshift _ _ (toNat_ones (fieldWidth_le b)), hshift _ _ (toNat_and_ones a (fieldWidth_le b))]
  rfl

end

end Sys2Proof.Machine
end

section

/-! ## Scalar instructions (O14, O15) -/

namespace Sys2Proof.Machine
open Sys2Proof

/-! ### Latches and registers after a scalar result -/

/-- A value put into lanes of a latch is read there, and every other lane of the latches reads as before. -/
theorem peek_foldl_lanes (k : Nat) (v : Quad) {j l : Nat} (hl : l < 32) : ∀ (ls : List Nat) {m : Sparse 128}, cellsWf m = true →
    (∀ x ∈ ls, x < 32) →
    peek (ls.foldl (fun m x => poke m (32 * k + x) v) m) (32 * j + l) = if j = k ∧ l ∈ ls then v else peek m (32 * j + l)
  | [], _, _, _ => by simp
  | x :: ls, m, hm, hx => by
    have hx0 := hx x (List.mem_cons_self ..)
    rw [List.foldl_cons, peek_foldl_lanes k v hl ls (cellsWf_poke _ _ hm) fun y hy => hx y (List.mem_cons_of_mem _ hy), peek_poke hm]
    simp only [List.mem_cons]
    by_cases hj : j = k
    · simp only [hj, true_and, Nat.add_left_cancel_iff]
      by_cases h1 : l = x <;> by_cases h2 : l ∈ ls <;> simp [h1, h2]
    · rw [if_neg (by omega : ¬ 32 * j + l = 32 * k + x)]
      simp [hj]

theorem peek_latchScalars {s : State} (h : cellsWf s.g.latches = true) (k : Nat) (v : Quad) {j l : Nat} (hl : l < 32) :
    peek (latchScalars s k v).g.latches (32 * j + l) = if j = k then v else peek s.g.latches (32 * j + l) := by
  have hr := peek_foldl_lanes k v (j := j) hl (List.range 32) h fun _ => List.mem_range.1
  simp only [List.mem_range, hl, and_true] at hr
  rw [← hr, latchScalars_eq]

theorem latchScalars_changes (s : State) (k : Nat) (v : Quad) :
    ∃ ls ks, latchScalars s k v = { s with g := { s.g with latches := ls, latchVec := ks } } := ⟨_, _, latchScalars_eq s k v⟩

theorem latchScalars_only (s : State) (k : Nat) (v : Quad) : OnlyScalarsAndLatches s (latchScalars s k v) := by
  obtain ⟨ls, ks, h⟩ := latchScalars_changes s k v
  rw [h]
  rfl

theorem getS_latchScalars (s : State) (k n : Nat) (v : Quad) : getS (latchScalars s k v) n = getS s n := by
  rw [getS, latchScalars_sregs]
  rfl

theorem setPair_latches (s : State) (n : Nat) (v : DWord) : (setPair s n v).g.latches = s.g.latches := rfl

theorem getS_setPair {s : State} (h : cellsWf s.g.sregs = true) (n m : Nat) (v : DWord) :
    getS (setPair s n v) m = if m = n + 1 then (v >>> 32).setWidth 32 else if m = n then v.setWidth 32 else getS s m := by
  rw [setPair, getS_setS (setS_wf h n _), getS_setS h]

section
variable {s u v : State}

theorem OnlyScalarsAndLatches.refl (s : State) : OnlyScalarsAndLatches s s := rfl

theorem OnlyScalarsAndLatches.trans (h : OnlyScalarsAndLatches s u) (hv : OnlyScalarsAndLatches u v) : OnlyScalarsAndLatches s v := by
  rw [OnlyScalarsAndLatches] at h hv ⊢
  rw [h] at hv
  exact hv

theorem OnlyScalarsAndLatches.setS (h : OnlyScalarsAndLatches s u) (n : Nat) (w : Word) : OnlyScalarsAndLatches s (setS u n w) :=
  h.trans rfl

theorem OnlyScalarsAndLatches.setPair (h : OnlyScalarsAndLatches s u) (n : Nat) (w : DWord) : OnlyScalarsAndLatches s (setPair u n w) :=
  h.trans rfl

theorem OnlyScalarsAndLatches.complete (h : OnlyScalarsAndLatches s u) (i : Shape) (pc : DWord) :
    OnlyScalarsAndLatches s (complete i s u pc) := h.trans rfl

end

/-! ### `writeScalar` -/

/-- Reading a scalar source changes at most the counter of free values. -/
theorem afterScalar_eq (s : State) (f : Src) : ∃ n, afterScalar s f = { s with fresh := n } := by
  unfold afterScalar drawFresh
  split
  · split <;> exact ⟨_, rfl⟩
  · exact ⟨_, rfl⟩

theorem afterScalar_twice (s : State) (f g : Src) : ∃ n, afterScalar (afterScalar s f) g = { s with fresh := n } := by
  obtain ⟨m, hm⟩ := afterScalar_eq s f
  rw [hm]
  exact afterScalar_eq _ g

theorem writeScalar_only (s : State) (x : Args) (pair : Bool) (v : DWord) : OnlyScalarsAndLatches s (writeScalar s x pair v) := by
  have h := latchScalars_only s (chainPos s % 4) (v.setWidth 128)
  exact ite_keeps h (ite_keeps (h.setPair _ _) (h.setS _ _))

theorem writeScalar_g_latches (s : State) (x : Args) (pair : Bool) (v : DWord) :
    (writeScalar s x pair v).g.latches = (latchScalars s (chainPos s % 4) (v.setWidth 128)).g.latches := by
  unfold writeScalar
  cases x.sup
  · cases pair
    · simp only [Bool.false_eq_true, if_false, setS_g]
    · simp only [Bool.false_eq_true, if_false, if_true, setPair_latches]
  · simp only [if_true]

theorem writeScalar_latches {s : State} (h : cellsWf s.g.latches = true) (x : Args) (pair : Bool) (v : DWord) {k l : Nat} (hl : l < 32) :
    peek (writeScalar s x pair v).g.latches (32 * k + l) =
      if k = chainPos s % 4 then v.setWidth 128 else peek s.g.latches (32 * k + l) := by
  rw [writeScalar_g_latches, peek_latchScalars h _ _ hl]

theorem getS_writeScalar {s : State} (h : cellsWf s.g.sregs = true) (x : Args) (pair : Bool) (v : DWord) (n : Nat) :
    getS (writeScalar s x pair v) n =
      if x.sup then getS s n
      else if n = x.d.toNat then v.setWidth 32
      else if pair ∧ n = x.d.toNat + 1 then (v >>> 32).setWidth 32 else getS s n := by
  have hl : cellsWf (latchScalars s (chainPos s % 4) (v.setWidth 128)).g.sregs = true := by rwa [latchScalars_sregs]
  unfold writeScalar
  cases x.sup
  · cases pair
    · simp [getS_setS hl, getS_latchScalars]
    · simp only [Bool.false_eq_true, if_false, if_true, getS_setPair hl, getS_latchScalars, true_and]
      by_cases h1 : n = x.d.toNat + 1
      · simp [h1]
      · simp [h1]
  · simp [getS_latchScalars]

/-- A Form C scalar instruction that completes with a result has put it where R50 and R166 say. -/
theorem wroteChained_writeScalar {s : State} (h : s.wf = true) (i : Instr) (x : Args) (pair : Bool) (v : DWord) (n : Nat) :
    WroteChained i s (complete i.shape s (writeScalar { s with fresh := n } x pair v) (pcAfter i s)) x pair v :=
  ⟨(OnlyScalarsAndLatches.trans (u := { s with fresh := n }) rfl (writeScalar_only ..)).complete .., ⟨rfl, rfl, rfl, rfl⟩,
    fun _ _ hl => writeScalar_latches (s := { s with fresh := n }) (Group.wf_latches (State.wf_group h)) x pair v hl,
    fun m => getS_writeScalar (s := { s with fresh := n }) (Group.wf_sregs (State.wf_group h)) x pair v m⟩

/-! ### Form C -/

section
variable {i : Instr} {x : Args} {s : State}

/-- A Form C row completes with its operation of a, b and the prior d. -/
theorem exec_scalarC {f : Word → Word → Word → Word} {w : Word} (h : s.wf = true) (he : exec i s = run i.shape (scalarC x f) s)
    (hr : Ready i s) (hw : f (scalar32 s x x.a) (scalar32 (afterScalar s x.a) x x.b) (getS s x.d.toNat) = w) :
    ∃ t, exec i s = .next t ∧ WroteChained i s t x false (w.setWidth 64) := by
  obtain ⟨n, hn⟩ := afterScalar_twice s x.a x.b
  refine ⟨_, exec_done he hr rfl, ?_⟩
  rw [hn, hw]
  exact wroteChained_writeScalar h i x false _ n

/-- A Form C row of pairs completes with its operation of a and b. -/
theorem exec_scalarC64 {f : DWord → DWord → DWord} (h : s.wf = true) (he : exec i s = run i.shape (scalarC64 x f) s)
    (hr : Ready i s) :
    ∃ t, exec i s = .next t ∧ WroteChained i s t x true (f (scalar64 s x x.a) (scalar64 (afterScalar s x.a) x x.b)) := by
  obtain ⟨n, hn⟩ := afterScalar_twice s x.a x.b
  refine ⟨_, exec_done he hr rfl, ?_⟩
  rw [hn]
  exact wroteChained_writeScalar h i x true _ n

end

/-- Settles O14, row by row: every row completes with its operation. -/
theorem scalarFormCResults : Obligations.ScalarFormCResults := by
  unfold Obligations.ScalarFormCResults
  intro s x h a b d a2 b2 pos width gives gives2
  refine ⟨fun _ hr => exec_scalarC h (rfl : execSaddC x s = _) hr rfl,
    fun _ hr => exec_scalarC h (rfl : execSsubC x s = _) hr rfl,
    fun _ hr => exec_scalarC h (rfl : execSmulC x s = _) hr rfl,
    fun _ hr => exec_scalarC h (rfl : execSmulhC x s = _) hr (mulHighS_eq ..),
    fun _ hr => exec_scalarC h (rfl : execSmulhnC x s = _) hr (mulHighU_eq ..),
    fun _ hr => exec_scalarC h (rfl : execSdivC x s = _) hr (divS_eq ..),
    fun _ hr => exec_scalarC h (rfl : execSdivnC x s = _) hr (divU_eq ..),
    fun _ hr => exec_scalarC h (rfl : execSremC x s = _) hr (remS_eq ..),
    fun _ hr => exec_scalarC h (rfl : execSremnC x s = _) hr (remU_eq ..),
    fun _ hr => exec_scalarC h (rfl : execSandC x s = _) hr rfl,
    fun _ hr => exec_scalarC h (rfl : execSorC x s = _) hr rfl,
    fun _ hr => exec_scalarC h (rfl : execSxorC x s = _) hr rfl,
    fun _ hr => exec_scalarC h (rfl : execSandnC x s = _) hr rfl,
    fun _ hr => exec_scalarC h (rfl : execSshlC x s = _) hr (shiftL_eq ..),
    fun _ hr => exec_scalarC h (rfl : execSshrC x s = _) hr (shiftR_eq ..),
    fun _ hr => exec_scalarC h (rfl : execSsraC x s = _) hr (shiftA_eq ..),
    fun _ hr => exec_scalarC h (rfl : execSrotC x s = _) hr rfl,
    fun _ hr => exec_scalarC h (rfl : execSminC x s = _) hr (ite_le_eq_ite_slt _ _ _ _ id),
    fun _ hr => exec_scalarC h (rfl : execSmaxC x s = _) hr (ite_le_eq_ite_slt _ _ _ _ Eq.symm),
    fun _ hr => exec_scalarC h (rfl : execSminnC x s = _) hr (ite_le_eq_ite_ult _ _ _ _ id),
    fun _ hr => exec_scalarC h (rfl : execSmaxnC x s = _) hr (ite_le_eq_ite_ult _ _ _ _ Eq.symm),
    fun _ hr => exec_scalarC h (rfl : execScmpC x s = _) hr (condWord_eq ..),
    fun _ hr => exec_scalarC h (rfl : execSselC x s = _) hr (ite_not ..),
    fun _ hr => exec_scalarC h (rfl : execSmovC x s = _) hr rfl,
    fun _ hr => exec_scalarC h (rfl : execSclzC x s = _) hr (leadZeros_eq_clz ..),
    fun _ hr => exec_scalarC h (rfl : execSpopcC x s = _) hr (popCount_eq_cpop ..),
    fun _ hr => exec_scalarC h (rfl : execSbrevC x s = _) hr (bitReverse_eq_reverse ..),
    fun _ hr => exec_scalarC h (rfl : execSbfxC x s = _) hr (extractU_eq ..),
    fun _ hr => exec_scalarC h (rfl : execSbfxSxC x s = _) hr (extractS_eq ..),
    fun _ hr => exec_scalarC h (rfl : execSbfiC x s = _) hr (insertField_eq ..),
    fun _ hr => exec_scalarC64 h (rfl : execSadd64C x s = _) hr,
    fun _ hr => exec_scalarC64 h (rfl : execSsub64C x s = _) hr,
    fun _ hr => exec_scalarC64 h (rfl : execSmul64C x s = _) hr⟩

/-! ### What a scalar instruction can change -/

/-- The ends of a scalar instruction: it waits, it traps, or it changes no more than its destination and its latch. -/
def ScalarEnd (i : Instr) (s t : State) : Prop :=
  (∃ w, t = park w s) ∨
  (∃ r, t = takeTrap s r (s.sp.chain.isSome || suppresses i.shape) (pcAfter i s)) ∨
  (OnlyScalarsAndLatches s t ∧ placed i s t (pcAfter i s) ∧ ∀ n, n ∉ (useOf i.shape).swrite → getS t n = getS s n)

/-- A destination register is among those that an instruction of Form B or C writes, unless it is suppressed. -/
theorem dest_mem_swrite {r : Row} {x : Args} {k : Nat} (hs : x.sup = false) (hv : roleVregs x r.d = 0) (hk : k < roleSregs x r.d) :
    x.d.toNat + k ∈ (useOf (.bc r x)).swrite := by
  have hd (u : Use) : x.d.toNat + k ∈ (useDest x u r.d).swrite := by
    simp only [useDest, hs, hv, Bool.false_eq_true, if_false, ne_eq, not_true_eq_false]
    exact List.mem_append_right _ (List.mem_map.2 ⟨k, List.mem_range.2 hk, rfl⟩)
  have hsp (op : Nat) (u : Use) (h : x.d.toNat + k ∈ u.swrite) : x.d.toNat + k ∈ (useSpecial op x u).swrite := by
    unfold useSpecial
    split
    · exact h
    · split
      · simp [hs, h]
      · split
        · split <;> exact h
        · exact h
  have hx (op : Nat) (u : Use) (h : x.d.toNat + k ∈ u.swrite) : x.d.toNat + k ∈ (useExtra op x u).swrite := by
    unfold useExtra
    split
    · simpa [hs] using h
    · split
      · exact h
      · split
        · split
          · exact List.mem_append_left _ h
          · exact h
        · exact h
  simp only [useOf]
  split <;> exact hx _ _ (hsp _ _ (hd _))

section
variable {i : Instr} {s t u : State} {body : State → Res}

theorem scalarEnd_of_done (h : run i.shape body s = .next t) (hb : body s = .done u) (ho : OnlyScalarsAndLatches s u)
    (hg : ∀ n, n ∉ (useOf i.shape).swrite → getS u n = getS s n) : ScalarEnd i s t := by
  rcases run_cases h with ⟨w, _, rfl⟩ | ⟨r, _, rfl⟩ | ⟨_, ⟨v, hv, rfl⟩ | ⟨v, hv, _⟩ | ⟨r, v, hv, _⟩ | ⟨w, v, hv, _⟩⟩
  · exact .inl ⟨w, rfl⟩
  · exact .inr (.inl ⟨r, rfl⟩)
  · obtain rfl : u = v := Res.done.inj (hb.symm.trans hv)
    exact .inr (.inr ⟨ho.complete .., ⟨rfl, rfl, rfl, rfl⟩, hg⟩)
  · exact absurd (hb.symm.trans hv) Res.noConfusion
  · exact absurd (hb.symm.trans hv) Res.noConfusion
  · exact absurd (hb.symm.trans hv) Res.noConfusion

theorem scalarA_end {x : AArgs} {f : Word → Word → Word → Word} (hw : s.wf = true) (h : run i.shape (scalarA x f) s = .next t)
    (hd : (useOf i.shape).swrite = [x.d.toNat]) : ScalarEnd i s t := by
  refine scalarEnd_of_done h rfl ((OnlyScalarsAndLatches.refl s).setS _ _) fun n hn => ?_
  rw [hd, List.mem_singleton] at hn
  rw [getS_setS (Group.wf_sregs (State.wf_group hw)), if_neg hn]

theorem scalarA64_end {x : AArgs} {f : DWord → DWord → DWord} (hw : s.wf = true) (h : run i.shape (scalarA64 x f) s = .next t)
    (hd : (useOf i.shape).swrite = [x.d.toNat, x.d.toNat + 1]) : ScalarEnd i s t := by
  refine scalarEnd_of_done h rfl ((OnlyScalarsAndLatches.refl s).setPair _ _) fun n hn => ?_
  rw [hd, List.mem_cons, List.mem_singleton, not_or] at hn
  rw [getS_setPair (Group.wf_sregs (State.wf_group hw)), if_neg hn.2, if_neg hn.1]

/-- A completed Form C row changes no scalar register but its destination. -/
theorem writeScalar_end {x : Args} {r : Row} {pair : Bool} {v : DWord} {m : Nat} (hw : s.wf = true) (h : run i.shape body s = .next t)
    (hb : body s = .done (writeScalar { s with fresh := m } x pair v)) (hi : i.shape = .bc r x) (hv : roleVregs x r.d = 0)
    (hk : roleSregs x r.d = if pair then 2 else 1) : ScalarEnd i s t := by
  refine scalarEnd_of_done h hb (OnlyScalarsAndLatches.trans (u := { s with fresh := m }) rfl (writeScalar_only ..)) fun n hn => ?_
  rw [getS_writeScalar (s := { s with fresh := m }) (Group.wf_sregs (State.wf_group hw))]
  cases hs : x.sup
  · rw [hi] at hn
    have hlow : n ≠ x.d.toNat := by
      rintro rfl
      exact hn (dest_mem_swrite (k := 0) hs hv (by rw [hk]; split <;> norm_num))
    have hhigh : ¬ (pair = true ∧ n = x.d.toNat + 1) := by
      rintro ⟨hp, rfl⟩
      exact hn (dest_mem_swrite hs hv (by rw [hk, if_pos hp]; norm_num))
    rw [if_neg Bool.false_ne_true, if_neg hlow, if_neg hhigh]
    rfl
  · rfl

theorem scalarC_end {x : Args} {r : Row} {f : Word → Word → Word → Word} (hw : s.wf = true) (h : run i.shape (scalarC x f) s = .next t)
    (hi : i.shape = .bc r x) (hv : roleVregs x r.d = 0) (hk : roleSregs x r.d = 1) : ScalarEnd i s t := by
  obtain ⟨m, hm⟩ := afterScalar_twice s x.a x.b
  exact writeScalar_end (pair := false) hw h (by rw [scalarC, hm]) hi hv hk

theorem scalarC64_end {x : Args} {r : Row} {f : DWord → DWord → DWord} (hw : s.wf = true) (h : run i.shape (scalarC64 x f) s = .next t)
    (hi : i.shape = .bc r x) (hv : roleVregs x r.d = 0) (hk : roleSregs x r.d = 2) : ScalarEnd i s t := by
  obtain ⟨m, hm⟩ := afterScalar_twice s x.a x.b
  exact writeScalar_end (pair := true) hw h (by rw [scalarC64, hm]) hi hv hk

end

/-- Settles O15, form by form. -/
theorem scalarFrame : Obligations.ScalarFrame := by
  unfold Obligations.ScalarFrame
  intro i s t hw hop h
  unfold exec at h
  cases i with
  | sadd _ | ssub _ | smul _ | smulh _ | smulhn _ | sdiv _ | sdivn _ | srem _ | sremn _ | sand _ | sor _ | sxor _
  | sandn _ | sshl _ | sshr _ | ssra _ | srot _ | smin _ | smax _ | sminn _ | smaxn _ | scmp _ _ | ssel _ | smov _
  | sclz _ | spopc _ | sbrev _ | sbfx _ | sbfxSx _ | sbfi _ => exact scalarA_end hw h rfl
  | saddC _ | ssubC _ | smulC _ | smulhC _ | smulhnC _ | sdivC _ | sdivnC _ | sremC _ | sremnC _ | sandC _ | sorC _
  | sxorC _ | sandnC _ | sshlC _ | sshrC _ | ssraC _ | srotC _ | sminC _ | smaxC _ | sminnC _ | smaxnC _ | scmpC _
  | sselC _ | smovC _ | sclzC _ | spopcC _ | sbrevC _ | sbfxC _ | sbfxSxC _ | sbfiC _ => exact scalarC_end hw h rfl rfl rfl
  | sadd64 _ | ssub64 _ | smul64 _ => exact scalarA64_end hw h rfl
  | sadd64C _ | ssub64C _ | smul64C _ => exact scalarC64_end hw h rfl rfl rfl
  | _ => exact absurd hop (Nat.not_lt.2 (Nat.le_of_ble_eq_true rfl))

end Sys2Proof.Machine
end

section

/-! ## Conditions into mask registers (O27) -/

namespace Sys2Proof.Machine
open Sys2Proof

theorem mem_activeLanes {s : State} {l : Nat} : l ∈ activeLanes s ↔ l < 32 ∧ s.exec.getLsbD l = true := by
  rw [activeLanes, lanesOf, List.mem_filter, List.mem_range]

theorem getLsbD_foldl_maskOf (p : Nat → Bool) {l : Nat} (hl : l < 32) : ∀ (ls : List Nat) (m : Word),
    (ls.foldl (fun m l => if p l then m ||| BitVec.ofNat 32 (2 ^ l) else m) m).getLsbD l = (m.getLsbD l || (decide (l ∈ ls) && p l))
  | [], _ => by simp
  | k :: ls, m => by
    have hbit : (BitVec.ofNat 32 (2 ^ k)).getLsbD l = decide (l = k) := by
      rw [BitVec.getLsbD_ofNat, Nat.testBit_two_pow]
      simp [hl, eq_comm]
    rw [List.foldl_cons, getLsbD_foldl_maskOf p hl ls]
    by_cases hk : l = k
    · subst hk
      cases h : p l <;> simp only [if_true, if_false, Bool.false_eq_true, BitVec.getLsbD_or, hbit] <;> simp
    · cases p k <;> simp only [if_true, if_false, Bool.false_eq_true, BitVec.getLsbD_or, hbit] <;> simp [hk]

theorem getLsbD_maskOf (p : Nat → Bool) {l : Nat} (hl : l < 32) : (maskOf p).getLsbD l = p l := by
  rw [maskOf, getLsbD_foldl_maskOf p hl]
  simp [hl]

/-- A mask register reads in the lanes written as last written, and otherwise as before; m0 is not written (R49). -/
theorem getLsbD_getM_setM {s : State} (h : cellsWf s.g.masks = true) (m : Nat) (lanes v : Word) (n l : Nat) :
    (getM (setM s m lanes v) n).getLsbD l =
      if n = m ∧ m ≠ 0 ∧ lanes.getLsbD l = true then v.getLsbD l else (getM s n).getLsbD l := by
  unfold setM
  by_cases hm : m = 0
  · rw [if_pos hm, if_neg fun e => e.2.1 hm]
  · rw [if_neg hm]
    unfold getM
    by_cases hn : n = 0
    · rw [if_pos hn, if_pos hn, if_neg (by omega)]
    · rw [if_neg hn, if_neg hn, peek_poke h]
      by_cases hnm : n = m
      · subst hnm
        cases hb : lanes.getLsbD l
        · simp only [if_true, BitVec.getLsbD_or, BitVec.getLsbD_and, hb, Bool.and_false, Bool.false_or, BitVec.getLsbD_not, Bool.not_false,
            Bool.and_true, Bool.false_eq_true, and_false, if_false]
          by_cases h32 : l < 32
          · simp [h32]
          · simp [h32, BitVec.getLsbD_of_ge _ l (Nat.le_of_not_lt h32)]
        · simp [hb, hm]
      · rw [if_neg hnm, if_neg fun e => hnm e.1]

/-- A source of role V is a pattern of its type's bits. -/
theorem codeBits_le (t : Ty) : Ty.codeBits t ≤ t.bits := by
  unfold Ty.codeBits
  split
  · rename_i h
    rw [h]
    decide
  · exact le_rfl

theorem vectorTy_lt (s : State) (x : Args) (t : Ty) (f : Src) (l : Nat) : vectorTy s x t f l < 2 ^ Ty.codeBits t :=
  Nat.mod_lt _ (Nat.two_pow_pos _)

theorem vecA_lt (s : State) (x : Args) (f : Src) (l : Nat) : vecA s x f l < 2 ^ x.ty.bits :=
  (vectorTy_lt ..).trans_le (Nat.pow_le_pow_right (by norm_num) (codeBits_le _))

theorem condAt_toNat {w : Nat} (cc : Nat) (a b : BitVec w) : condAt w cc a.toNat b.toNat = ccHolds cc a b := by
  unfold condAt ccHolds
  rw [BitVec.ofNat_toNat, BitVec.ofNat_toNat, BitVec.setWidth_eq, BitVec.setWidth_eq]
  split
  · exact Bool.eq_iff_iff.2 (by simp [BitVec.toNat_inj])
  · exact Bool.eq_iff_iff.2 (by simp [BitVec.toNat_inj])
  all_goals simp [BitVec.slt, BitVec.sle, BitVec.ult, BitVec.ule]

theorem condAt_eq {w a b : Nat} (cc : Nat) (ha : a < 2 ^ w) (hb : b < 2 ^ w) :
    condAt w cc a b = ccHolds cc (BitVec.ofNat w a) (BitVec.ofNat w b) := by
  rw [← condAt_toNat, BitVec.toNat_ofNat, BitVec.toNat_ofNat, Nat.mod_eq_of_lt ha, Nat.mod_eq_of_lt hb]

/-- A condition into a mask register writes the lanes of the execution mask. -/
theorem wroteMask_laneMask {s : State} (h : s.wf = true) (i : Instr) (x : Args) (p : Nat → Bool) :
    WroteMask i s (passes i s (orFlags (laneMask s x p) 0)) x.d.toNat p 0 := by
  refine ⟨?_, ⟨rfl, rfl, rfl, rfl⟩, fun n l hl => ?_⟩
  · unfold laneMask setM
    split <;> rfl
  · refine (getLsbD_getM_setM (Group.wf_masks (State.wf_group h)) _ _ _ n l).trans ?_
    rw [getLsbD_maskOf p hl]
    simp only [mem_activeLanes, hl, true_and]

/-- Settles O27. -/
theorem vectorCompare : Obligations.VectorCompare := by
  unfold Obligations.VectorCompare
  intro s x h _ hr
  refine ⟨_, exec_done (rfl : execVcmp x s = _) hr rfl, ?_⟩
  simp only [condAt_eq x.fn.toNat (vecA_lt s x x.a _) (vecA_lt s x x.b _)]
  rw [← orFlags_zero (laneMask s x _)]
  exact wroteMask_laneMask h ..

end Sys2Proof.Machine
end

section

/-! ## Lane-wise integer instructions (O26) -/

namespace Sys2Proof.Machine
open Sys2Proof

/-! ### Values of a lane -/

/-- A result of w bits as the register lane holds it: a narrow signed one is sign-extended to 32 bits (R197). -/
def laneOut (t : Ty) (f : BitVec t.bits) : Nat := if isSigned t = true ∧ t.bits < 32 then (f.signExtend 32).toNat else f.toNat

/-- What a type reads of a pattern, signed or not. -/
theorem intOf_eq (t : Ty) (v : Nat) :
    intOf t v = if isSigned t then (BitVec.ofNat t.bits v).toInt else ((BitVec.ofNat t.bits v).toNat : Int) := by
  have hp : (2 : Nat) ^ t.bits = 2 * 2 ^ (t.bits - 1) := by cases t <;> rfl
  simp only [intOf, BitVec.toInt_eq_toNat_cond, BitVec.toNat_ofNat]
  cases isSigned t
  · simp
  · by_cases h : 2 ^ (t.bits - 1) ≤ v % 2 ^ t.bits
    · rw [if_pos (by simpa using h), if_pos rfl, if_neg (by omega)]
      push_cast
      rfl
    · rw [if_neg (by simpa using h), if_pos rfl, if_pos (by omega)]

theorem codeBits_eq {t : Ty} (h : t ≠ .l6) : Ty.codeBits t = t.bits := if_neg h

theorem laneValue_eq {t : Ty} (ht : t ≠ .l6) {v : Nat} {f : BitVec t.bits} (h : BitVec.ofNat t.bits v = f) :
    laneValue t v = laneOut t f := by
  unfold laneValue laneOut
  rw [intOf_eq, h, codeBits_eq ht, show v % 2 ^ t.bits = f.toNat by rw [← h, BitVec.toNat_ofNat]]
  cases hs : isSigned t
  · simp
  · by_cases hb : t.bits < 32
    · simp only [hb, decide_true, Bool.and_true, if_true, and_self]
      exact (BitVec.toNat_ofInt f.toInt).symm
    · simp [hb]

/-! ### The operations of a lane -/

section
variable {w a b : Nat}

theorem ofNat_sub_eq (hb : b < 2 ^ w) : BitVec.ofNat w (a + 2 ^ w - b) = BitVec.ofNat w a - BitVec.ofNat w b := by
  apply BitVec.eq_of_toNat_eq
  rw [BitVec.toNat_sub, BitVec.toNat_ofNat, BitVec.toNat_ofNat, BitVec.toNat_ofNat, Nat.mod_eq_of_lt hb, Nat.add_mod_mod,
    show a + 2 ^ w - b = 2 ^ w - b + a by omega]

theorem ofNat_andNot_eq (hb : b < 2 ^ w) : BitVec.ofNat w (a &&& (2 ^ w - 1 - b)) = BitVec.ofNat w a &&& ~~~BitVec.ofNat w b := by
  rw [BitVec.ofNat_and]
  congr 1
  apply BitVec.eq_of_toNat_eq
  rw [BitVec.toNat_not, BitVec.toNat_ofNat, BitVec.toNat_ofNat, Nat.mod_eq_of_lt hb, Nat.mod_eq_of_lt (by omega)]

theorem ofNat_laneShl (n : Nat) : BitVec.ofNat w (laneShl w a n) = BitVec.ofNat w a <<< n := by
  unfold laneShl
  split
  · rename_i h
    rw [BitVec.shiftLeft_eq_zero h]
  · apply BitVec.eq_of_toNat_eq
    simp [Nat.shiftLeft_eq]

theorem ofNat_laneShr (ha : a < 2 ^ w) (n : Nat) : BitVec.ofNat w (laneShr w a n) = BitVec.ofNat w a >>> n := by
  unfold laneShr
  split
  · rename_i h
    rw [BitVec.ushiftRight_eq_zero h]
  · apply BitVec.eq_of_toNat_eq
    rw [BitVec.toNat_ushiftRight, BitVec.toNat_ofNat, BitVec.toNat_ofNat, Nat.mod_eq_of_lt ha, Nat.shiftRight_eq_div_pow,
      Nat.mod_eq_of_lt ((Nat.div_le_self ..).trans_lt ha)]

theorem ofNat_wrapInt (z : Int) : BitVec.ofNat w (wrapInt w z) = BitVec.ofInt w z := by
  apply BitVec.eq_of_toNat_eq
  rw [wrapInt, BitVec.toNat_ofInt, BitVec.toNat_ofNat, Nat.mod_eq_of_lt]
  · push_cast
    rfl
  · have hp : (0 : Int) < 2 ^ w := by positivity
    have h1 := Int.emod_lt_of_pos z hp
    have h2 := Int.emod_nonneg z hp.ne'
    zify
    rw [Int.toNat_of_nonneg h2]
    exact h1

theorem ofNat_laneSra (n : Nat) : BitVec.ofNat w (laneSra w a n) = (BitVec.ofNat w a).sshiftRight n := by
  rw [laneSra, ofNat_wrapInt, sshiftRight_eq_ofInt]

theorem ofNat_natAbs (x : BitVec w) : BitVec.ofNat w x.toInt.natAbs = x.abs := by
  have hx := x.isLt
  rw [← BitVec.setWidth_eq x.abs, ← BitVec.ofNat_toNat, BitVec.toNat_abs, BitVec.toInt_eq_msb_cond]
  congr 1
  split <;> omega

end

section
variable (t : Ty) (a b : Nat)

theorem ofNat_mulHigh : BitVec.ofNat t.bits (wrapInt t.bits (intOf t a * intOf t b / 2 ^ t.bits)) =
    ((if isSigned t then (BitVec.ofNat t.bits a).signExtend (2 * t.bits) else (BitVec.ofNat t.bits a).setWidth (2 * t.bits)) *
      (if isSigned t then (BitVec.ofNat t.bits b).signExtend (2 * t.bits)
        else (BitVec.ofNat t.bits b).setWidth (2 * t.bits))).extractLsb' t.bits t.bits := by
  rw [ofNat_wrapInt, intOf_eq, intOf_eq]
  cases isSigned t
  · simp only [Bool.false_eq_true, if_false]
    rw [← mulHigh_unsigned, ← BitVec.ofInt_natCast]
    rfl
  · exact mulHigh_signed ..

/-- The order of two patterns of a type (R202). -/
def lessAt (t : Ty) (p q : BitVec t.bits) : Bool := if isSigned t then p.slt q else p.ult q

theorem intOf_le_iff : intOf t a ≤ intOf t b ↔ ¬ (lessAt t (BitVec.ofNat t.bits b) (BitVec.ofNat t.bits a) = true) := by
  rw [intOf_eq, intOf_eq, lessAt]
  cases isSigned t
  · simp only [Bool.false_eq_true, if_false, Nat.cast_le]
    exact unsigned_le_iff ..
  · exact signed_le_iff ..

theorem ofNat_min : BitVec.ofNat t.bits (if intOf t a ≤ intOf t b then a else b) =
    if lessAt t (BitVec.ofNat t.bits b) (BitVec.ofNat t.bits a) then BitVec.ofNat t.bits b else BitVec.ofNat t.bits a := by
  simp only [intOf_le_iff]
  rw [ite_not, apply_ite (BitVec.ofNat t.bits)]

theorem ofNat_max : BitVec.ofNat t.bits (if intOf t a ≤ intOf t b then b else a) =
    if lessAt t (BitVec.ofNat t.bits b) (BitVec.ofNat t.bits a) then BitVec.ofNat t.bits a else BitVec.ofNat t.bits b := by
  simp only [intOf_le_iff]
  rw [ite_not, apply_ite (BitVec.ofNat t.bits)]

theorem ofNat_absAt {t : Ty} (h : isSigned t = true) (a : Nat) :
    BitVec.ofNat t.bits (intOf t a).natAbs = (BitVec.ofNat t.bits a).abs := by
  rw [intOf_eq, if_pos h, ofNat_natAbs]

theorem ofNat_mulAdd {w : Nat} (c : Nat) : BitVec.ofNat w (a * b + c) = BitVec.ofNat w a * BitVec.ofNat w b + BitVec.ofNat w c := by
  rw [BitVec.ofNat_add, BitVec.ofNat_mul]

end

/-! ### How a row completes -/

/-- The type of a well-formed instruction is one of its row. -/
theorem ty_of_wf {i : Instr} {r : Row} {x : Args} (h : i.wf = true) (hi : i.shape = .bc r x) : r.ty x.ty = true := by
  simp only [Instr.wf, hi, formBCOk, Bool.and_eq_true] at h
  tauto

theorem eq_of_t32 {t : Ty} (h : t32 t = true) : t = .i32 ∨ t = .n32 := by
  simpa [t32, tyIn] using h

theorem regs_of_t32 {t : Ty} (h : t32 t = true) : Ty.regs t = 1 := by
  obtain rfl | rfl := eq_of_t32 h <;> rfl

theorem laneValue_word {t : Ty} (h : t32 t = true) {v : Nat} (hv : v < 2 ^ 32) : laneValue t v = v := by
  obtain rfl | rfl := eq_of_t32 h <;> exact Nat.mod_eq_of_lt hv

theorem signed_of_tSigned {t : Ty} (h : tSigned t = true) : tInt t = true ∧ isSigned t = true := by
  have ht : t = .i32 ∨ t = .i16 ∨ t = .i8 ∨ t = .i64 := by simpa [tSigned, tyIn] using h
  obtain rfl | rfl | rfl | rfl := ht <;> exact ⟨rfl, rfl⟩

/-- Of an L6 container, the code is copied (R59). -/
theorem laneValue_code (t : Ty) (v : Nat) :
    laneValue t v = laneOut t (if t = .l6 then BitVec.ofNat t.bits v &&& 63 else BitVec.ofNat t.bits v) := by
  by_cases ht : t = .l6
  · subst ht
    have h : (BitVec.ofNat 8 v &&& 63).toNat = v % 2 ^ 8 % 2 ^ 6 := by
      rw [BitVec.toNat_and, BitVec.toNat_ofNat]
      exact Nat.and_two_pow_sub_one_eq_mod _ 6
    refine Eq.trans ?_ h.symm
    show v % 2 ^ 6 = _
    omega
  · rw [if_neg ht]
    exact laneValue_eq ht rfl

/-! ### Bit fields of a lane, and `vadd64` -/

theorem fieldPos_ofNat (n : Nat) : fieldPos (BitVec.ofNat 32 n) = n % 32 := by
  simp only [fieldPos, BitVec.extractLsb'_toNat, BitVec.toNat_ofNat, Nat.shiftRight_zero]
  omega

theorem fieldWidth_ofNat (n : Nat) : fieldWidth (BitVec.ofNat 32 n) = min (n / 32 % 64) 32 := by
  simp only [fieldWidth, BitVec.extractLsb'_toNat, BitVec.toNat_ofNat, Nat.shiftRight_eq_div_pow]
  congr 1
  omega

theorem toNat_add_wrapInt {t : Ty} (ht : t32 t = true) (a n : Nat) : (a + wrapInt 64 (intOf t n)) % 2 ^ 64 =
    (BitVec.ofNat 64 a + (if t = .i32 then (BitVec.ofNat 32 n).signExtend 64 else (BitVec.ofNat 32 n).setWidth 64)).toNat := by
  rw [← BitVec.toNat_ofNat, BitVec.ofNat_add, ofNat_wrapInt, intOf_eq]
  obtain rfl | rfl := eq_of_t32 ht
  · rfl
  · simp only [isSigned, Bool.false_eq_true, if_false, BitVec.ofInt_natCast, BitVec.ofNat_toNat]
    rfl

section
variable {i : Instr} {x : Args} {s : State} {body : State → Res} {val : Nat → Nat}

theorem writes_lanes {out : Nat → Nat} (hw : s.wf = true) (hr : Ready i s) (he : exec i s = run i.shape body s)
    (hb : body s = .done (writeTy s x x.ty val)) (hv : ∀ l, laneValue x.ty (val l) = out l) :
    WritesVector i s x (Ty.regs x.ty) out := by
  rw [Ty.regs_eq, ← (funext hv : (fun l => laneValue x.ty (val l)) = out)]
  exact writesVector_of hw hr x he hb

theorem ne_l6_of_tInt {t : Ty} (h : tInt t = true) : t ≠ .l6 := by
  rintro rfl
  exact absurd h (by decide)

/-- A row of the integer types completes with its operation on the patterns of each lane. -/
theorem writes_ints {f : Nat → BitVec x.ty.bits} (hw : s.wf = true) (hr : Ready i s) (he : exec i s = run i.shape body s)
    (hb : body s = .done (writeTy s x x.ty val)) (ht : tInt x.ty = true) (hv : ∀ l, BitVec.ofNat x.ty.bits (val l) = f l) :
    WritesVector i s x (Ty.regs x.ty) fun l => laneOut x.ty (f l) :=
  writes_lanes hw hr he hb fun l => laneValue_eq (ne_l6_of_tInt ht) (hv l)

/-- A row of the 32-bit types whose result is a word. -/
theorem writes_words {f : Nat → Word} (hw : s.wf = true) (hr : Ready i s) (he : exec i s = run i.shape body s)
    (hb : body s = .done (writeTy s x x.ty val)) (ht : t32 x.ty = true) (hv : ∀ l, val l = (f l).toNat) :
    WritesVector i s x 1 fun l => (f l).toNat := by
  have h := writes_lanes hw hr he hb fun l => (laneValue_word ht (hv l ▸ (f l).isLt)).trans (hv l)
  rwa [regs_of_t32 ht] at h

end

/-- Settles O26, row by row. -/
theorem vectorIntegerResults : Obligations.VectorIntegerResults := by
  unfold Obligations.VectorIntegerResults
  intro s x h w signed a b c n code less wide a32 d32 pos size gives gives32
  have ha := vecA_lt s x x.a
  have hb := vecA_lt s x x.b
  refine ⟨fun hi hr => writes_ints h hr (rfl : execVadd x s = _) rfl (ty_of_wf hi rfl) fun l => BitVec.ofNat_add ..,
    fun hi hr => writes_ints h hr (rfl : execVsub x s = _) rfl (ty_of_wf hi rfl) fun l => ofNat_sub_eq (hb l),
    fun hi hr => writes_ints h hr (rfl : execVmul x s = _) rfl (ty_of_wf hi rfl) fun l => BitVec.ofNat_mul ..,
    fun hi hr => writes_ints h hr (rfl : execVmulh x s = _) rfl (ty_of_wf hi rfl) fun l => ofNat_mulHigh ..,
    fun hi hr => writes_ints h hr (rfl : execVmad x s = _) rfl (ty_of_wf hi rfl) fun l => ofNat_mulAdd ..,
    fun hi hr => writes_ints h hr (rfl : execVmin x s = _) rfl (ty_of_wf hi rfl) fun l => ofNat_min ..,
    fun hi hr => writes_ints h hr (rfl : execVmax x s = _) rfl (ty_of_wf hi rfl) fun l => ofNat_max ..,
    fun hi hr => ?_,
    fun hi hr => writes_ints h hr (rfl : execVand x s = _) rfl (ty_of_wf hi rfl) fun l => BitVec.ofNat_and,
    fun hi hr => writes_ints h hr (rfl : execVor x s = _) rfl (ty_of_wf hi rfl) fun l => BitVec.ofNat_or,
    fun hi hr => writes_ints h hr (rfl : execVxor x s = _) rfl (ty_of_wf hi rfl) fun l => BitVec.ofNat_xor,
    fun hi hr => writes_ints h hr (rfl : execVandn x s = _) rfl (ty_of_wf hi rfl) fun l => ofNat_andNot_eq (hb l),
    fun hi hr => writes_ints h hr (rfl : execVshl x s = _) rfl (ty_of_wf hi rfl) fun l => ofNat_laneShl ..,
    fun hi hr => writes_ints h hr (rfl : execVshr x s = _) rfl (ty_of_wf hi rfl) fun l => ofNat_laneShr (ha l) _,
    fun hi hr => writes_ints h hr (rfl : execVsra x s = _) rfl (ty_of_wf hi rfl) fun l => ofNat_laneSra ..,
    fun hi hr => writes_ints h hr (rfl : execVclz x s = _) rfl (ty_of_wf hi rfl) fun l => leadZeros_eq_clz _,
    fun hi hr => writes_ints h hr (rfl : execVpopc x s = _) rfl (ty_of_wf hi rfl) fun l => popCount_eq_cpop _,
    fun hi hr => ?_, fun hi hr => ?_, fun hi hr => ?_, fun hi hr => ?_, fun hi hr => ?_⟩
  · obtain ⟨hint, hsigned⟩ := signed_of_tSigned (ty_of_wf hi rfl)
    exact writes_ints h hr (rfl : execVabs x s = _) rfl hint fun l => ofNat_absAt hsigned _
  · refine writes_words h hr (rfl : execVbfx x s = _) rfl (ty_of_wf hi rfl) fun l => congrArg BitVec.toNat ?_
    have hp := fieldPos_ofNat (n l)
    have hs := fieldWidth_ofNat (n l)
    dsimp only [pos, size]
    rw [← hp, ← hs]
    split
    · exact extractS_eq ..
    · exact extractU_eq ..
  · refine writes_words h hr (rfl : execVbfi x s = _) rfl (ty_of_wf hi rfl) fun l => congrArg BitVec.toNat ?_
    have hp := fieldPos_ofNat (n l)
    have hs := fieldWidth_ofNat (n l)
    dsimp only [pos, size]
    rw [← hp, ← hs]
    exact insertField_eq ..
  · refine writes_lanes h hr (rfl : execVsel x s = _) rfl fun l => ?_
    rw [laneValue_code, apply_ite (BitVec.ofNat x.ty.bits)]
    rfl
  · exact writes_lanes h hr (rfl : execVmov x s = _) rfl fun l => laneValue_code ..
  · have hv := funext fun l => toNat_add_wrapInt (t := x.ty) (ty_of_wf hi rfl) (vec64 s x x.a l) (n l)
    exact hv ▸ writesVector_of (bits := 64) h hr x (rfl : execVadd64 x s = _) rfl

end Sys2Proof.Machine
end

section

/-! ## Between lanes (O35) -/

namespace Sys2Proof.Machine
open Sys2Proof

/-! ### Words written outside chains -/

theorem resultS_only (s : State) (n : Nat) (v : Word) : OnlyScalarsAndLatches s (resultS s n v) :=
  (latchScalars_only ..).setS ..

theorem resultS_fresh (s : State) (n : Nat) (v : Word) : (resultS s n v).fresh = s.fresh := by
  obtain ⟨ls, ks, h⟩ := latchScalars_changes s 0 (v.setWidth 128)
  rw [resultS, h]
  rfl

theorem resultS_inL0 {s : State} (h : cellsWf s.g.latches = true) (n : Nat) (v : Word) : InL0 s (resultS s n v) (v.setWidth 128) := by
  intro k l hl
  rw [← peek_latchScalars h 0 (v.setWidth 128) hl, resultS, setS_g]

theorem wroteWord_of {s u : State} (ho : OnlyScalarsAndLatches s u) (hf : u.fresh = s.fresh) {n : Nat} {v : Word}
    (hl : InL0 s u (v.setWidth 128)) (hs : ∀ m, getS u m = if m = n then v else getS s m) (i : Instr) :
    WroteWord i s (passes i s u) n v :=
  ⟨ho.complete i.shape (pcAfter i s), hf, ⟨rfl, rfl, rfl, rfl⟩, hl, (hs n).trans (if_pos rfl), fun m hm => (hs m).trans (if_neg hm)⟩

/-- The result of an instruction that stands in no chain goes to its register and to L0, and nothing else changes (R50). -/
theorem wroteWord_resultS {s : State} (h : s.wf = true) (i : Instr) (n : Nat) (v : Word) :
    WroteWord i s (passes i s (resultS s n v)) n v :=
  wroteWord_of (resultS_only s n v) (resultS_fresh s n v) (resultS_inL0 (Group.wf_latches (State.wf_group h)) n v)
    (getS_resultS (Group.wf_sregs (State.wf_group h)) n · v) i

section
variable {i : Instr} {s : State} {body : State → Res}

theorem writes_word {n : Nat} {v w : Word} (hw : s.wf = true) (hr : Ready i s) (he : exec i s = run i.shape body s)
    (hb : body s = .done (resultS s n v)) (hv : v = w) : ∃ t, exec i s = .next t ∧ WroteWord i s t n w := by
  rw [← hv]
  exact ⟨_, exec_done he hr hb, wroteWord_resultS hw i n v⟩

/-! ### Moves -/

/-- What a lane receives of its source lane, or its fill (R220). -/
def movedLane (s : State) (x : Args) (src : Nat → Option Nat) (l : Nat) : Nat :=
  match src l with
  | some k => if sourceLane s k then vecA s x x.a k else vecA s x x.c l
  | none => vecA s x x.c l

/-- A move completes with the lanes moved, or stops at the poisoned cells among its sources. -/
theorem moves_lanes {x : Args} {src : Nat → Option Nat} {n : Nat} (hw : s.wf = true) (hr : Ready i s)
    (he : exec i s = run i.shape body s) (hb : body s = moveLanes x src { s with fresh := n }) :
    (poisonedSources s x src = [] → WritesVector i s x (Ty.regs x.ty) fun l => laneValue x.ty (movedLane s x src l)) ∧
    (poisonedSources s x src ≠ [] →
      ∃ (u : State) (tr : Trap), tr.cause = 0x15 ∧ exec i s = .next (traps i s u tr.cause tr.addr tr.lanes)) := by
  have hp : poisonedSources { s with fresh := n } x src = poisonedSources s x src := rfl
  rw [moveLanes, hp] at hb
  refine ⟨fun h => ?_, fun h => ?_⟩
  · rw [h, if_neg (by simp)] at hb
    have hv := wroteVector_of (i := i) hw ⟨n, rfl⟩ x x.ty.bits (fun l => laneValue x.ty (movedLane s x src l)) 0
    rw [orFlags_zero] at hv
    rw [Ty.regs_eq]
    exact ⟨_, exec_done he hr hb, hv⟩
  · rw [if_pos (by simpa using h)] at hb
    exact ⟨_, _, rfl, exec_raise he hr hb⟩

end

/-- The signed lane offset that `shfl` sources within a segment, by its mode (R220). -/
def shuffleOffset (mode seg n l : Nat) : Int :=
  match mode with
  | 0 => ((l % seg : Nat) : Int) - n
  | 1 => ((l % seg : Nat) : Int) + n
  | 2 => ((l % seg ^^^ n : Nat) : Int)
  | _ => (((l % seg : Nat) : Int) - n) % seg

theorem shuffleLane_eq (mode seg n l : Nat) : shuffleLane mode seg n l =
    if 0 ≤ shuffleOffset mode seg n l ∧ shuffleOffset mode seg n l < seg
    then some (l - l % seg + (shuffleOffset mode seg n l).toNat) else none := by
  show (if shuffleOffset mode seg n l < 0 ∨ (seg : Int) ≤ shuffleOffset mode seg n l then none
    else some (l - l % seg + (shuffleOffset mode seg n l).toNat)) = _
  by_cases h : 0 ≤ shuffleOffset mode seg n l ∧ shuffleOffset mode seg n l < seg
  · rw [if_pos h, if_neg (by omega)]
  · rw [if_neg h, if_pos (by omega)]

/-! ### Votes -/

theorem all_eq_first_iff (s : State) (f : Nat → Nat) : ((activeLanes s).all fun l => f l == f (firstLane s)) = true ↔
    ∀ k ∈ activeLanes s, ∀ l ∈ activeLanes s, f k = f l := by
  simp only [List.all_eq_true, beq_iff_eq]
  refine ⟨fun h k hk l hl => (h k hk).trans (h l hl).symm, fun h l hl => h l hl _ ?_⟩
  rw [firstLane, List.headD_eq_head?_getD, List.head?_eq_some_head (List.ne_nil_of_mem hl)]
  exact List.head_mem _

/-! ### Registers that each lane names -/

/-- One lane of `vwr`: its lane of L0, and its register below the allocation. -/
def writeIndexed (nv : Nat) (reg val : Nat → Nat) (t : State) (l : Nat) : State :=
  writeLane (decide (nv ≤ reg l)) (reg l) 0 1 val t l

theorem writeIndexed_spec (nv : Nat) (reg val : Nat → Nat) : ∀ (ls : List Nat), (∀ l ∈ ls, l < 32) →
    ∀ {t : State}, cellsWf t.g.vregs = true → cellsWf t.g.latches = true →
    let u := ls.foldl (writeIndexed nv reg val) t
    SameButVectors t u ∧
      (∀ q m, m < 32 → peek u.g.latches (32 * q + m) =
        if q = 0 ∧ m ∈ ls then BitVec.ofNat 128 (val m) else peek t.g.latches (32 * q + m)) ∧
      (∀ r m, m < 32 → getV u r m = if m ∈ ls ∧ r = reg m ∧ r < nv then BitVec.ofNat 32 (val m) else getV t r m)
  | [], _, t, _, _ => ⟨rfl, fun q m _ => by simp, fun r m _ => by simp⟩
  | l :: ls, hb, t, hv, ht => by
    obtain ⟨f1, v1, w1, p1, g1⟩ :=
      writeLane_spec (decide (nv ≤ reg l)) (reg l) 0 1 val (hb l (List.mem_cons_self ..)) hv ht
    obtain ⟨f2, p2, g2⟩ := writeIndexed_spec nv reg val ls (fun m hm => hb m (List.mem_cons_of_mem _ hm)) v1 w1
    refine ⟨f1.trans f2, fun q m hm => (p2 q m hm).trans ?_, fun r m hm => (g2 r m hm).trans ?_⟩
    · rw [p1 q m hm]
      simp only [List.mem_cons]
      grind
    · rw [g1 r m hm]
      have hreg : decide (nv ≤ reg l) = false ∧ m = l ∧ reg l ≤ r ∧ r < reg l + 1 ↔ m = l ∧ r = reg m ∧ r < nv := by
        rw [decide_eq_false_iff_not]
        constructor
        · rintro ⟨h1, rfl, h2, h3⟩
          omega
        · rintro ⟨rfl, h1, h2⟩
          omega
      simp only [hreg, List.mem_cons]
      grind

theorem SameButVectors.onlyVectors {s u : State} {k : Nat} {vec : Bool} (h : SameButVectors (latchKind s k vec) u) (i : Instr) :
    OnlyVectors s (passes i s u) ∧ (passes i s u).g.flags = s.g.flags := by
  rw [SameButVectors] at h
  rw [h]
  exact ⟨rfl, rfl⟩

theorem notEmpty_eq_false {α : Type} {l : List α} (h : l = []) : ¬ ((!l.isEmpty) = true) := by
  simp [h]

theorem writeIndexed_eq (nv : Nat) (reg val : Nat → Nat) : writeIndexed nv reg val = fun t l =>
    if nv ≤ reg l then setLatch t 0 l (BitVec.ofNat 128 (val l))
    else setV (setLatch t 0 l (BitVec.ofNat 128 (val l))) (reg l) l (BitVec.ofNat 32 (val l)) := by
  funext t l
  simp only [writeIndexed, writeLane, decide_eq_true_eq]
  rfl

/-- Settles O35: the moves by their source lanes, the votes by what all lanes or some hold, and the indexed registers. -/
theorem laneMoves : Obligations.LaneMoves := by
  unfold Obligations.LaneMoves
  intro s x h a n there seg so first one moves writes all
  have hall : ((activeLanes s).all fun l => vecA s x x.a l != 0) = true ↔ all (fun l => a l ≠ 0) := by
    simp only [List.all_eq_true, bne_iff_ne]
    rfl
  have hany : ((activeLanes s).any fun l => vecA s x x.a l != 0) = true ↔ ¬ all (fun l => a l = 0) := by
    simp only [List.any_eq_true, bne_iff_ne, all, not_forall, a]
    grind
  have huni := all_eq_first_iff s a
  refine ⟨fun hr => moves_lanes (n := s.fresh) h hr (rfl : execPerm x s = _) rfl, fun hr => ?_, fun hr => ?_,
    fun hr => moves_lanes (n := s.fresh) h hr (rfl : execBcastFirst x s = _) rfl,
    ⟨_, fun hr => writes_word h hr (rfl : execBallot x s = _) rfl rfl, fun l hl => getLsbD_maskOf _ hl⟩,
    fun hv hr => writes_word h hr (rfl : execVoteAll x s = _) rfl (if_pos (hall.2 hv)),
    fun hv hr => writes_word h hr (rfl : execVoteAll x s = _) rfl (if_neg (mt hall.1 hv)),
    fun hv hr => writes_word h hr (rfl : execVoteAny x s = _) rfl (if_neg fun e => hany.1 e hv),
    fun hv hr => writes_word h hr (rfl : execVoteAny x s = _) rfl (if_pos (hany.2 hv)),
    fun hv hr => writes_word h hr (rfl : execVoteUni x s = _) rfl (if_pos (huni.2 hv)),
    fun hv hr => writes_word h hr (rfl : execVoteUni x s = _) rfl (if_neg (mt huni.1 hv)),
    fun hr hp => ?_, fun hr => ?_⟩
  · have hm := moves_lanes (n := s.fresh) h hr (rfl : execShfl x s = _) rfl
    simp only [shuffleLane_eq] at hm
    exact hm
  · obtain ⟨k, hk⟩ := afterScalar_eq s x.b
    exact moves_lanes h hr (rfl : execBcast x s = _) (congrArg (moveLanes x (fun _ => some one)) hk)
  · exact writesVector_of (bits := 32) h hr x (rfl : execVrd x s = _) (if_neg (notEmpty_eq_false hp))
  · obtain ⟨hf, hl, hv⟩ := writeIndexed_spec s.g.nv (indexedReg s x x.d.toNat x.b) a (activeLanes s) (activeLanes_lt s)
      (t := latchKind s 0 true) (Group.wf_vregs (State.wf_group h)) (Group.wf_latches (State.wf_group h))
    rw [writeIndexed_eq] at hf hl hv
    obtain ⟨hov, hfl⟩ := hf.onlyVectors (.vwr x)
    exact ⟨_, exec_done (rfl : execVwr x s = _) hr rfl, hov, ⟨rfl, rfl, rfl, rfl⟩, hfl, hl, hv⟩

end Sys2Proof.Machine
end

section

/-! ## Approximate functions and a join with deferred lanes (O52) -/

namespace Sys2Proof.Machine
open Sys2Proof

/-- With no exception enabled, an approximate function completes with each lane's result and all the flags (R77, R211). -/
theorem approximate_completes {i : Instr} {x : Args} {s : State} {f : Nat → Nat × Flags} (hw : s.wf = true)
    (he : exec i s = run i.shape (approximate x f) s) (hr : Ready i s) (ht : s.g.ftrap = 0) : ∃ t, exec i s = .next t ∧
      WroteVector i s t x 1 (fun l => (f (vecA s x x.a l)).1 % 2 ^ 32) (allFlags s fun l => (f (vecA s x x.a l)).2) := by
  have hc := computes_of (i := i) (bits := 32) (r := fun l => ((f (vecA s x x.a l)).1 % 2 ^ 32, (f (vecA s x x.a l)).2)) hw hr
    ⟨s.fresh, rfl⟩ x he rfl
  exact hc.1 (by rw [ht]; exact BitVec.and_zero)

/-- A record that an update does not name is kept. -/
theorem mem_updRec_of_ne {s : State} {n : Nat} {f : Rec → Rec} {y : Rec} (hy : y ∈ s.g.recs) (hn : y.id ≠ n) :
    y ∈ (updRec s n f).g.recs :=
  List.mem_map.2 ⟨y, hy, if_neg (by simpa using hn)⟩

theorem mem_updRec_of_eq {s : State} {n : Nat} {f : Rec → Rec} {y : Rec} (hy : y ∈ s.g.recs) (hn : y.id = n) :
    f y ∈ (updRec s n f).g.recs :=
  List.mem_map.2 ⟨y, hy, if_pos (by simpa using hn)⟩

/-- Settles O52: the functions one by one, and the records after the two updates of a join. -/
theorem approximationsAndDeferredLanesComplete : Obligations.ApproximationsAndDeferredLanesComplete := by
  unfold Obligations.ApproximationsAndDeferredLanesComplete
  intro s x r h gives
  refine ⟨approximate_completes h (rfl : execFrcp x s = _), approximate_completes h (rfl : execFrsq x s = _),
    approximate_completes h (rfl : execFexp2 x s = _), approximate_completes h (rfl : execFlog2 x s = _),
    approximate_completes h (rfl : execFsin x s = _), approximate_completes h (rfl : execFcos x s = _),
    approximate_completes h (rfl : execFtanh x s = _), fun htop hpc hpend => ?_⟩
  refine ⟨takePending (reachRec s r) r, congrArg Host.Outcome.next (joinHere_pending htop hpc hpend), rfl,
    fun y hy hne => mem_updRec_of_ne (mem_updRec_of_ne hy hne) hne, ?_⟩
  exact ⟨_, mem_updRec_of_eq (mem_updRec_of_eq (topRec_mem htop) rfl) rfl, rfl, rfl, rfl, rfl, rfl⟩

end Sys2Proof.Machine
end

section

/-! ## Dot products (O28) -/

namespace Sys2Proof.Machine
open Sys2Proof

/-- An integer saturated to a range, and whether it lies outside. -/
theorem dotSat_eq (sa sb : Bool) (w n a b c : Nat) :
    let t := dotExact sa sb w n a b c
    let lo : Int := if sa || sb then -(2 ^ 31) else 0
    let hi : Int := if sa || sb then 2 ^ 31 - 1 else 2 ^ 32 - 1
    dotSat sa sb w n a b c = (wrapInt 32 (max lo (min hi t)), decide (t < lo ∨ hi < t)) := by
  intro t lo hi
  have hlh : lo ≤ hi := by
    dsimp only [lo, hi]
    split <;> norm_num
  show (if t < lo then (wrapInt 32 lo, true) else if hi < t then (wrapInt 32 hi, true) else (wrapInt 32 t, false)) = _
  by_cases h1 : t < lo
  · rw [if_pos h1, max_eq_left ((min_le_right _ _).trans h1.le), decide_eq_true (.inl h1)]
  · by_cases h2 : hi < t
    · rw [if_neg h1, if_pos h2, min_eq_left h2.le, max_eq_right hlh, decide_eq_true (.inr h2)]
    · rw [if_neg h1, if_neg h2, min_eq_right (not_lt.1 h2), max_eq_right (not_lt.1 h1), decide_eq_false (not_or.2 ⟨h1, h2⟩)]

/-- An integer's pattern, as a vector of its width. -/
theorem wrapInt_eq_toNat (w : Nat) (z : Int) : wrapInt w z = (BitVec.ofInt w z).toNat := by
  rw [wrapInt, BitVec.toNat_ofInt]
  push_cast
  rfl

theorem dotElem_eq (signed : Bool) {v : Nat} (hv : v < 2 ^ 32) (w k : Nat) : dotElem signed w v k =
    if signed then ((BitVec.ofNat 32 v).extractLsb' (w * k) w).toInt
    else (((BitVec.ofNat 32 v).extractLsb' (w * k) w).toNat : Int) := by
  have h : (BitVec.ofNat 32 v).extractLsb' (w * k) w = BitVec.ofNat w (v / 2 ^ (w * k)) := by
    apply BitVec.eq_of_toNat_eq
    rw [BitVec.extractLsb'_toNat, BitVec.toNat_ofNat, Nat.mod_eq_of_lt hv, Nat.shiftRight_eq_div_pow, BitVec.toNat_ofNat]
  rw [h, BitVec.toNat_ofNat]
  rfl

theorem vec32_lt (s : State) (x : Args) (f : Src) (l : Nat) : vec32 s x f l < 2 ^ 32 := vectorTy_lt s x .n32 f l

theorem dotExact_eq (sa sb : Bool) (w n : Nat) {a b c : Nat} (ha : a < 2 ^ 32) (hb : b < 2 ^ 32) (hc : c < 2 ^ 32) :
    dotExact sa sb w n a b c =
      (if sa || sb then (BitVec.ofNat 32 c).toInt else ((BitVec.ofNat 32 c).toNat : Int)) +
        ((List.range n).map fun k =>
          (if sa then ((BitVec.ofNat 32 a).extractLsb' (w * k) w).toInt
            else (((BitVec.ofNat 32 a).extractLsb' (w * k) w).toNat : Int)) *
          (if sb then ((BitVec.ofNat 32 b).extractLsb' (w * k) w).toInt
            else (((BitVec.ofNat 32 b).extractLsb' (w * k) w).toNat : Int))).sum := by
  rw [dotExact, BitVec.toNat_ofNat, Nat.mod_eq_of_lt hc, List.sum_eq_foldl]
  simp only [dotElem_eq _ ha, dotElem_eq _ hb]

/-- A vector instruction whose lanes give a result and flags each, in the words of a statement. -/
theorem computes_lanes {i : Instr} {s u : State} {body : State → Res} {bits : Nat} {r q : Nat → Nat × Flags} (hw : s.wf = true)
    (hr : Ready i s) (hu : ∃ n, u = { s with fresh := n }) (x : Args) (he : exec i s = run i.shape body s)
    (hb : body s = withFlags u (fun l => (r l).2) (writeVec u x bits fun l => (r l).1)) (hq : ∀ l, r l = q l) :
    Computes i s u x (if bits ≤ 32 then 1 else bits / 32) q := by
  obtain rfl : r = q := funext hq
  exact computes_of hw hr hu x he hb

theorem self_fresh (s : State) : ∃ n, s = { s with fresh := n } := ⟨s.fresh, rfl⟩

/-- What a dot product leaves in a lane, and its flag (R203). -/
def dotLane (s : State) (x : Args) (w n : Nat) (mix : Bool) (l : Nat) : Nat × Flags :=
  let r := dotSat (isSigned x.ty) (isSigned x.ty != mix) w n (vec32 s x x.a l) (vec32 s x x.b l) (vec32 s x x.c l)
  (r.1, flagIf r.2 fFXO)

theorem laneDot_computes {i : Instr} {s : State} {x : Args} {w n : Nat} {mix : Bool} {q : Nat → Nat × Flags} (hw : s.wf = true)
    (hr : Ready i s) (he : exec i s = run i.shape (laneDot x w n mix) s) (hq : ∀ l, dotLane s x w n mix l = q l) :
    Computes i s s x 1 q :=
  computes_lanes (bits := 32) (r := dotLane s x w n mix) hw hr (self_fresh s) x he rfl hq

/-- Settles O28: each lane's total is the exact dot product, saturated once. -/
theorem dotProducts : Obligations.DotProducts := by
  unfold Obligations.DotProducts
  intro s x h elem dot gives
  have key (w n : Nat) (mix : Bool) (l : Nat) : dotLane s x w n mix l = dot w n mix l := by
    have hmix : (isSigned x.ty != mix) = if mix then !isSigned x.ty else isSigned x.ty := by
      cases mix <;> cases isSigned x.ty <;> rfl
    rw [dotLane, dotSat_eq, hmix, dotExact_eq _ _ w n (vec32_lt ..) (vec32_lt ..) (vec32_lt ..)]
    simp only [wrapInt_eq_toNat, flagIf, decide_eq_true_eq]
    rfl
  exact ⟨fun hr => laneDot_computes h hr (rfl : execVdot4 x s = _) (key 8 4 false),
    fun hr => laneDot_computes h hr (rfl : execVdot4Mix x s = _) (key 8 4 true),
    fun hr => laneDot_computes h hr (rfl : execVdot2 x s = _) (key 16 2 false),
    fun hr => laneDot_computes h hr (rfl : execVdot2Mix x s = _) (key 16 2 true)⟩

end Sys2Proof.Machine
end

section

/-! ## Floating point (O30) -/

namespace Sys2Proof.Machine
open Sys2Proof

/-- A flag that stands for a condition. -/
theorem flagIf_eq (b : Bool) (f : Flags) : flagIf b f = if b = true then f else 0 := rfl

/-- A row that gives each lane a result of TYPE and flags. -/
theorem laneResult_computes {i : Instr} {s u : State} {x : Args} {t : Ty} {body : State → Res} {f q : Nat → Nat × Flags}
    (hw : s.wf = true) (hr : Ready i s) (hu : ∃ n, u = { s with fresh := n }) (he : exec i s = run i.shape body s)
    (hb : body s = laneResult x t f u) (hq : ∀ l, (laneValue t (f l).1, (f l).2) = q l) :
    Computes i s u x (Ty.regs t) q := by
  rw [Ty.regs_eq]
  exact computes_lanes (r := fun l => (laneValue t (f l).1, (f l).2)) hw hr hu x he hb hq

theorem signBit_eq_msb (t : Ty) (p : Nat) : signBit t p = (BitVec.ofNat t.bits p).msb := by
  have hb : t.bits - 1 < t.bits := by cases t <;> decide
  rw [signBit, BitVec.msb_eq_getLsbD_last, BitVec.getLsbD_ofNat, Nat.testBit_eq_decide_div_mod_eq]
  simp only [hb, decide_true, Bool.true_and]
  rfl

theorem pickFloat_eq (t : Ty) (greater : Bool) (a b : Nat) : pickFloat t greater a b =
    (if (tyValue t a).isNan ∧ (tyValue t b).isNan then (tyRound .rne t (.nan false)).1
      else if (tyValue t a).isNan then b else if (tyValue t b).isNan then a
      else if ((Val.lt (tyValue t a) (tyValue t b) || (Val.eq (tyValue t a) (tyValue t b) && (tyValue t a).neg && !(tyValue t b).neg)) != greater)
        then a else b,
      if (tyValue t a).isSig ∨ (tyValue t b).isSig then fNV else 0) := by
  simp only [pickFloat, flagIf_eq, Bool.and_eq_true, Bool.or_eq_true]
  split_ifs <;> rfl

theorem withSign_eq (t : Ty) (a : Nat) (neg : Bool) : withSign t a neg =
    if (tyValue t a).isNan then ((tyRound .rne t (.nan false)).1, if (tyValue t a).isSig then fNV else 0)
    else (a % 2 ^ (t.bits - 1) + (if neg then 2 ^ (t.bits - 1) else 0), 0) := rfl

/-- Every flag of a comparison is NV, so that the only trap it takes is 0x28 (R208). -/
theorem floatCondFlag_eq (cond : Nat) (x y : Val) : floatCondFlag cond x y =
    if (2 ≤ cond ∧ cond ≤ 5 ∧ (x.isNan ∨ y.isNan)) ∨ x.isSig ∨ y.isSig then fNV else 0 := by
  have hx : x.isSig = true → x.isNan = true := by cases x <;> simp [Val.isSig, Val.isNan]
  have hy : y.isSig = true → y.isNan = true := by cases y <;> simp [Val.isSig, Val.isNan]
  unfold floatCondFlag
  rw [flagIf_eq]
  congr 1
  by_cases h : 2 ≤ cond ∧ cond ≤ 5
  · rw [if_pos h, Bool.or_eq_true]
    apply propext
    tauto
  · rw [if_neg h, Bool.or_eq_true]
    apply propext
    tauto

theorem foldl_or_of_sub {fl : Nat → Flags} {m : Flags} (h : ∀ l, fl l &&& m = fl l) : ∀ (ls : List Nat) (a : Flags),
    a &&& m = a → ls.foldl (fun a l => a ||| fl l) a &&& m = ls.foldl (fun a l => a ||| fl l) a
  | [], _, ha => ha
  | l :: ls, a, ha => foldl_or_of_sub h ls (a ||| fl l) (by rw [BitVec.and_comm, BitVec.and_or_distrib_left, BitVec.and_comm m a,
      BitVec.and_comm m (fl l), ha, h])

/-- Flags that lie in a set lie there together. -/
theorem allFlags_of_sub {fl : Nat → Flags} {m : Flags} (h : ∀ l, fl l &&& m = fl l) (s : State) : allFlags s fl &&& m = allFlags s fl :=
  foldl_or_of_sub h (activeLanes s) 0 BitVec.zero_and

/-- A condition into a mask register writes the lanes of the execution mask, and FLAGS gains the flags. -/
theorem wroteMask_flags {s : State} (h : s.wf = true) (i : Instr) (x : Args) (p : Nat → Bool) (f : Flags) :
    WroteMask i s (passes i s (orFlags (laneMask s x p) f)) x.d.toNat p f := by
  refine ⟨?_, ⟨rfl, rfl, rfl, rfl⟩, fun n l hl => ?_⟩
  · unfold laneMask setM
    split <;> rfl
  · refine (getLsbD_getM_setM (Group.wf_masks (State.wf_group h)) _ _ _ n l).trans ?_
    rw [getLsbD_maskOf p hl]
    simp only [mem_activeLanes, hl, true_and]

/-- A condition of floating-point operands writes its mask register, or stops at NV if FTRAP enables it (R208). -/
theorem laneMask_flags {i : Instr} {s : State} {x : Args} {body : State → Res} {p : Nat → Bool} {fl : Nat → Flags} (hw : s.wf = true)
    (hr : Ready i s) (he : exec i s = run i.shape body s) (hb : body s = withFlags s fl (laneMask s x p))
    (hf : ∀ l, fl l &&& fNV = fl l) :
    (allFlags s fl &&& s.g.ftrap = 0 → ∃ t, exec i s = .next t ∧ WroteMask i s t x.d.toNat p (allFlags s fl)) ∧
    (allFlags s fl &&& s.g.ftrap ≠ 0 → exec i s = .next (traps i s s 0x28 ((allFlags s fl &&& s.g.ftrap).setWidth 64)
      (maskOf fun l => s.exec.getLsbD l && (fl l &&& s.g.ftrap) != 0))) := by
  rw [withFlags] at hb
  refine ⟨fun h0 => ?_, fun h0 => ?_⟩
  · exact ⟨_, exec_done he hr (hb.trans (if_pos h0)), wroteMask_flags hw i x p _⟩
  · have hne : allFlags s fl &&& s.g.ftrap ≠ fFXO := by
      intro e
      have hn := allFlags_of_sub hf s
      have : fFXO &&& fNV = fFXO := by
        rw [← e, BitVec.and_assoc, BitVec.and_comm s.g.ftrap, ← BitVec.and_assoc, hn]
      exact absurd this (by decide)
    exact exec_raise (t := { cause := 0x28, addr := _, lanes := _ }) he hr (hb.trans ((if_neg h0).trans (if_neg hne)))

theorem floatCondFlag_sub (cond : Nat) (x y : Val) : floatCondFlag cond x y &&& fNV = floatCondFlag cond x y := by
  rw [floatCondFlag, flagIf_eq]
  generalize (if 2 ≤ cond ∧ cond ≤ 5 then x.isNan || y.isNan else x.isSig || y.isSig) = b
  cases b <;> decide

/-- Settles O30, row by row: each lane's result is the exact value of its operands, rounded once. -/
theorem floatResults : Obligations.FloatResults := by
  unfold Obligations.FloatResults
  intro s x h pa pb va vb vc mode nan gives round less picks sign signs
  have hself := self_fresh s
  refine ⟨fun hr => laneResult_computes h hr hself (rfl : execFadd x s = _) rfl fun l => rfl,
    fun hr => laneResult_computes h hr hself (rfl : execFsub x s = _) rfl fun l => rfl,
    fun hr => laneResult_computes h hr hself (rfl : execFmul x s = _) rfl fun l => rfl,
    fun hr => laneResult_computes h hr hself (rfl : execFfma x s = _) rfl fun l => rfl,
    fun hr => laneResult_computes h hr hself (rfl : execFdiv x s = _) rfl fun l => rfl,
    fun hr => laneResult_computes h hr hself (rfl : execFsqrt x s = _) rfl fun l => rfl,
    fun hr => laneResult_computes h hr hself (rfl : execFscale x s = _) rfl fun l => ?_,
    fun hr => laneResult_computes h hr hself (rfl : execFmin x s = _) rfl fun l => ?_,
    fun hr => laneResult_computes h hr hself (rfl : execFmax x s = _) rfl fun l => ?_,
    fun hr => laneResult_computes h hr hself (rfl : execFsgnCopy x s = _) rfl fun l => ?_,
    fun hr => laneResult_computes h hr hself (rfl : execFsgnNcopy x s = _) rfl fun l => ?_,
    fun hr => laneResult_computes h hr hself (rfl : execFsgnXor x s = _) rfl fun l => ?_,
    fun hr => writesVector_of (bits := 32) h hr x (rfl : execFclass x s = _) rfl, fun hr => ?_⟩
  · rw [intOf_eq]
    rfl
  · rw [pickFloat_eq]
    simp only [Bool.bne_false]
    rfl
  · rw [pickFloat_eq]
    simp only [Bool.bne_true]
    rfl
  · rw [withSign_eq, signBit_eq_msb]
  · rw [withSign_eq, signBit_eq_msb]
  · rw [withSign_eq, signBit_eq_msb, signBit_eq_msb]
  · have hm := laneMask_flags h hr (rfl : execFcmp x s = _) rfl fun l => floatCondFlag_sub x.fn.toNat _ _
    simp only [floatCondFlag_eq] at hm
    exact hm

end Sys2Proof.Machine
end

section

/-! ## Fixed point (O32, O33) -/

namespace Sys2Proof.Machine
open Sys2Proof

/-! ### Saturation -/

/-- An FX integer is saturated to the range of its format, and the range is symmetric (R66). -/
theorem fxSat_eq (w : Nat) (i : Int) : fxSat w i = (max (-fxMax w) (min (fxMax w) i), decide (i < -fxMax w ∨ fxMax w < i)) := by
  have hp : (0 : Int) ≤ fxMax w := by
    have : (1 : Int) ≤ 2 ^ (w - 1) := one_le_pow₀ (by norm_num)
    unfold fxMax
    omega
  unfold fxSat
  by_cases h1 : fxMax w < i
  · rw [if_pos h1, min_eq_left h1.le, max_eq_right (by omega), decide_eq_true (.inr h1)]
  · by_cases h2 : i < -fxMax w
    · rw [if_neg h1, if_pos h2, max_eq_left ((min_le_right _ _).trans h2.le), decide_eq_true (.inl h2)]
    · rw [if_neg h1, if_neg h2, min_eq_right (not_lt.1 h1), max_eq_right (not_lt.1 h2), decide_eq_false (not_or.2 ⟨h2, h1⟩)]

theorem fxAdd_eq (a b : Int) : (fun r : Int × Bool => (r.1, flagIf r.2 fFXO)) (fxAdd 128 a b) =
    if a = -(2 ^ 127) ∨ b = -(2 ^ 127) then (-(2 ^ 127), 0)
    else (max (-(2 ^ 127 - 1)) (min (2 ^ 127 - 1) (a + b)), if a + b < -(2 ^ 127 - 1) ∨ 2 ^ 127 - 1 < a + b then fFXO else 0) := by
  unfold fxAdd
  rw [fxSat_eq]
  by_cases h : a = fxNan 128 ∨ b = fxNan 128
  · rw [if_pos h]
    exact (if_pos h).symm
  · rw [if_neg h]
    simp only [flagIf_eq, decide_eq_true_eq]
    exact (if_neg h).symm

/-- One accumulation: FX NaN stays, and else the product is rounded at the anchor, added and saturated once (R213). -/
theorem accumulate_eq (m : Mode) (anchor d : Int) (a b : Val) : accumulate m anchor d a b =
    if d = -(2 ^ 127) then (d, 0)
    else match Val.mul a b with
      | .nan _ => (-(2 ^ 127), fNV)
      | .inf neg => (if neg then -(2 ^ 127 - 1) else 2 ^ 127 - 1, fFXO)
      | .fin neg mag exp =>
        let k := roundAt m neg mag exp anchor
        let q := d + (if neg then -(k.1 : Int) else k.1)
        (max (-(2 ^ 127 - 1)) (min (2 ^ 127 - 1) q),
         (if q < -(2 ^ 127 - 1) ∨ 2 ^ 127 - 1 < q then fFXO else 0) ||| (if k.2 then fNX else 0)) := by
  unfold accumulate
  by_cases h : d = -(2 ^ 127)
  · rw [if_pos h]
    exact if_pos h
  · rw [if_neg h]
    refine (if_neg h).trans ?_
    cases Val.mul a b with
    | nan _ => rfl
    | inf _ => rfl
    | fin neg mag exp =>
      simp only [fxSat_eq, flagIf_eq, decide_eq_true_eq]
      rfl

/-! ### Rows -/

theorem afterAnchor_fresh (s : State) (x : Args) : ∃ n, afterAnchor s x = { s with fresh := n } := by
  unfold afterAnchor
  split
  · exact afterScalar_eq s x.c
  · exact self_fresh s

/-- A row that gives each lane an FX integer and flags. -/
theorem fxResult_computes {i : Instr} {s u : State} {x : Args} {w : Nat} {body : State → Res} {f : Nat → Int × Flags} (hw : s.wf = true)
    (hr : Ready i s) (hu : ∃ n, u = { s with fresh := n }) (he : exec i s = run i.shape body s) (hb : body s = fxResult x w f u)
    {q : Nat → Int × Flags} (hq : ∀ l, f l = q l) :
    Computes i s u x (if w ≤ 32 then 1 else w / 32) fun l => ((BitVec.ofInt w (q l).1).toNat, (q l).2) :=
  computes_lanes (r := fun l => (wrapInt w (f l).1, (f l).2)) hw hr hu x he hb fun l => by rw [hq, wrapInt_eq_toNat]

/-- Settles O32, row by row. -/
theorem fixedPointResults : Obligations.FixedPointResults := by
  unfold Obligations.FixedPointResults
  intro s x h w anchor mode va vb qa qb d shift least gives
  have ha := afterAnchor_fresh s x
  have hb := afterScalar_eq s x.b
  refine ⟨fun hr => fxResult_computes h hr ha (rfl : execFxacc x s = _) rfl fun l => accumulate_eq ..,
    fun hr => fxResult_computes h hr ha (rfl : execFxset x s = _) rfl fun l => rfl,
    fun hr => fxResult_computes h hr (self_fresh s) (rfl : execFxadd x s = _) rfl fun l => fxAdd_eq ..,
    fun hr => fxResult_computes h hr hb (rfl : execFxpkFx64 x s = _) rfl fun l => rfl,
    fun hr => fxResult_computes h hr hb (rfl : execFxpkFx128 x s = _) rfl fun l => rfl,
    fun hr => laneResult_computes h hr ha (rfl : execFxcvt x s = _) rfl fun l => rfl⟩

/-! ### The order of accumulation -/

theorem or_and_fFXO_eq_zero {f g : Flags} (h : (f ||| g) &&& fFXO = 0) : f ≠ fFXO := by
  rintro rfl
  revert g
  decide

/-- Where an accumulation does not saturate, it leaves FX NaN whatever it adds to, or it adds a fixed integer to all but FX NaN and stays
clear of FX NaN. -/
theorem accumulate_unsaturated (m : Mode) (anchor : Int) (a b : Val) :
    (∀ d, (accumulate m anchor d a b).2 &&& fFXO = 0 → (accumulate m anchor d a b).1 = -(2 ^ 127)) ∨
    ∃ c, ∀ d, (accumulate m anchor d a b).2 &&& fFXO = 0 →
      (d = -(2 ^ 127) → (accumulate m anchor d a b).1 = -(2 ^ 127)) ∧
      (d ≠ -(2 ^ 127) → (accumulate m anchor d a b).1 = d + c ∧ d + c ≠ -(2 ^ 127)) := by
  simp only [accumulate_eq]
  cases Val.mul a b with
  | nan _ =>
    refine .inl fun d _ => ?_
    split
    · assumption
    · rfl
  | inf _ =>
    refine .inl fun d h => ?_
    by_cases hd : d = -(2 ^ 127)
    · rw [if_pos hd, hd]
    · rw [if_neg hd] at h
      exact absurd h (by decide : ¬ fFXO &&& fFXO = 0)
  | fin neg mag exp =>
    refine .inr ⟨if neg then -((roundAt m neg mag exp anchor).1 : Int) else (roundAt m neg mag exp anchor).1, fun d h => ⟨fun hd => ?_, fun hd => ?_⟩⟩
    · rw [if_pos hd, hd]
    · rw [if_neg hd] at h ⊢
      have hs := or_and_fFXO_eq_zero h
      rw [ne_eq, ite_eq_left_iff, not_forall] at hs
      obtain ⟨hs, -⟩ := hs
      dsimp only
      omega

/-- Settles O33: of two terms each leaves FX NaN or adds a fixed integer, and integers add up in either order. -/
theorem accumulationOrder : Obligations.AccumulationOrder := by
  unfold Obligations.AccumulationOrder
  intro m n anchor d a b a' b' p p' q q' hp hp' hq hq'
  rcases accumulate_unsaturated m anchor a b with h1 | ⟨c, h1⟩ <;> rcases accumulate_unsaturated n anchor a' b' with h2 | ⟨c', h2⟩
  · exact (h2 _ hp').trans (h1 _ hq').symm
  · exact ((h2 _ hp').1 (h1 _ hp)).trans (h1 _ hq').symm
  · exact (h2 _ hp').trans ((h1 _ hq').1 (h2 _ hq)).symm
  · by_cases hd : d = -(2 ^ 127)
    · exact ((h2 _ hp').1 ((h1 _ hp).1 hd)).trans ((h1 _ hq').1 ((h2 _ hq).1 hd)).symm
    · obtain ⟨ep, np⟩ := (h1 _ hp).2 hd
      obtain ⟨eq, nq⟩ := (h2 _ hq).2 hd
      have ep' := ((h2 _ hp').2 (ep ▸ np)).1
      have eq' := ((h1 _ hq').2 (eq ▸ nq)).1
      calc p'.1 = p.1 + c' := ep'
        _ = q.1 + c := by rw [show p.1 = d + c from ep, show q.1 = d + c' from eq]; ring
        _ = q'.1 := eq'.symm

end Sys2Proof.Machine
end

section

/-! ## Random words (O38)

`rng` with fn6 = 4 names five registers, and the model writes the four words that Philox gives: the fifth register stays as it was, where
the statement, which does not ask for a well-formed instruction, has it zero. -/

namespace Sys2Proof.Machine
open Sys2Proof

theorem philox_length (key : DWord) (ctr : Quad) : (philox key ctr).length = 4 := rfl

theorem ofWords_lt : ∀ ws : List Word, Sys2Proof.ofWords ws < 2 ^ (32 * ws.length)
  | [] => by simp [Sys2Proof.ofWords]
  | w :: ws => by
    have ih := ofWords_lt ws
    have hw := w.isLt
    rw [Sys2Proof.ofWords, List.length_cons, show 32 * (ws.length + 1) = 32 + 32 * ws.length by ring, Nat.pow_add]
    omega

/-- A group of one lane whose vector register 4 holds 1 there. -/
def oneLane : State :=
  let s := placeProgram State.reset 1
  { s with g := { s.g with vregs := [(32 * 4, 1)] } }

/-- `rng` from v0 on, with more words asked for than Philox gives. -/
def rngFive : Args :=
  { sup := false, d := 0, a := .imm 0, b := .imm 0, c := .imm 0, fn := 4, ty := .n32, rnd := 0, hint := 0, r61 := false, lit := none }

theorem rngFive_ready : Ready (.rng rngFive) oneLane := rfl

theorem oneLane_wf : oneLane.wf = true := by decide

/-- The words of Philox leave register 4 as it was. -/
theorem getV_rngFive : getV (writeWords oneLane rngFive 5 (rngWords oneLane rngFive)) 4 0 = 1 := by
  have hlen : ((rngWords oneLane rngFive 0).take 5).length = 4 := rfl
  have hv : cellsWf (setLatch (latchKind oneLane 0 true) 0 0 (BitVec.ofNat 128 (Sys2Proof.ofWords ((rngWords oneLane rngFive 0).take 5)))).g.vregs =
      true := Group.wf_vregs (State.wf_group oneLane_wf)
  have h := getV_setVs (l := 0) (by norm_num) ((rngWords oneLane rngFive 0).take 5) 0 hv 4 0 (by norm_num)
  rw [hlen, if_neg (by norm_num)] at h
  exact h

/-- Refutes O38: after `rng` with fn6 = 4 register 4 still holds 1, and the statement has it 0. -/
theorem not_randomWords : ¬ Obligations.RandomWords := by
  unfold Obligations.RandomWords
  intro h
  obtain ⟨t, ht, -, -, -, -, hv⟩ := (h oneLane rngFive oneLane_wf).1 rngFive_ready
  have hmem : 0 ∈ activeLanes oneLane := by decide
  have hzero := hv 4 0 (by norm_num)
  rw [if_pos ⟨rfl, hmem, by decide, by decide⟩] at hzero
  have ht' : t = passes (.rng rngFive) oneLane (writeWords oneLane rngFive 5 (rngWords oneLane rngFive)) :=
    Host.Outcome.next.inj (ht.symm.trans (exec_done (rfl : execRng rngFive oneLane = _) rngFive_ready rfl))
  have hone : getV t 4 0 = 1 := by
    rw [ht']
    exact getV_rngFive
  have hq (ws : List Word) (hl : ws.length = 4) : Sys2Proof.ofWords (ws.take 5) / 2 ^ (32 * 4) = 0 := by
    refine Nat.div_eq_of_lt ?_
    rw [List.take_of_length_le (by omega), ← hl]
    exact ofWords_lt ws
  rw [hone] at hzero
  exact absurd (hzero.trans (congrArg (BitVec.ofNat 32) (hq _ rfl))) (by decide)

end Sys2Proof.Machine
end

section

/-! ## Reductions and scans (O36) -/

namespace Sys2Proof.Machine
open Sys2Proof

/-! ### One combination -/

theorem combine_add (t : Ty) (m : Mode) (p q : Nat) : combine 0 t m p q = ((p + q) % 2 ^ t.bits, 0) := rfl

/-- What a pattern below 2^w holds of an integer type. -/
theorem intOf_eq_of_lt {t : Ty} {p : Nat} (hp : p < 2 ^ t.bits) :
    intOf t p = if isSigned t then (BitVec.ofNat t.bits p).toInt else (p : Int) := by
  rw [intOf_eq, BitVec.toNat_ofNat, Nat.mod_eq_of_lt hp]

theorem fx128Of_wrapInt {z : Int} (h1 : -(2 ^ 127) ≤ z) (h2 : z < 2 ^ 127) : fx128Of (wrapInt 128 z) = z := by
  rw [fx128Of, ofNat_wrapInt, BitVec.toInt_ofInt, Int.bmod_eq_of_le] <;> norm_num <;> omega

theorem combine_fx (t : Ty) (m : Mode) (p q : Nat) :
    (fx128Of (combine 7 t m p q).1, (combine 7 t m p q).2) =
      if fx128Of p = -(2 ^ 127) ∨ fx128Of q = -(2 ^ 127) then (-(2 ^ 127), 0)
      else (max (-(2 ^ 127 - 1)) (min (2 ^ 127 - 1) (fx128Of p + fx128Of q)),
        if fx128Of p + fx128Of q < -(2 ^ 127 - 1) ∨ 2 ^ 127 - 1 < fx128Of p + fx128Of q then fFXO else 0) := by
  have hadd := fxAdd_eq (fx128Of p) (fx128Of q)
  dsimp only at hadd
  rw [← hadd]
  have hr : -(2 ^ 127) ≤ (fxAdd 128 (fx128Of p) (fx128Of q)).1 ∧ (fxAdd 128 (fx128Of p) (fx128Of q)).1 < 2 ^ 127 := by
    rw [congrArg Prod.fst hadd]
    split
    · norm_num
    · dsimp only
      omega
  exact congrArg (·, _) (fx128Of_wrapInt hr.1 hr.2)

/-! ### Identities -/

/-- The least and the greatest of an integer type bound what its patterns hold. -/
theorem intOf_mem_range (t : Ty) (v : Nat) : (intRange t).1 ≤ intOf t v ∧ intOf t v ≤ (intRange t).2 := by
  rw [intOf_eq, intRange]
  have hw : 0 < t.bits := by cases t <;> decide
  cases isSigned t
  · have := (BitVec.ofNat t.bits v).isLt
    simp only [Bool.false_eq_true, if_false]
    push_cast [← Int.ofNat_lt] at this
    omega
  · have h1 := BitVec.le_toInt (BitVec.ofNat t.bits v)
    have h2 := BitVec.toInt_lt (x := BitVec.ofNat t.bits v)
    simp only [if_true]
    omega

/-- The identities of the integer minimum and maximum are the extremes of the type (R221). -/
theorem intOf_identity {t : Ty} (ht : t ∈ [Ty.i32, .n32, .i64, .n64]) :
    (identityOf 1 t < 2 ^ t.bits ∧ intOf t (identityOf 1 t) = (intRange t).2) ∧
      identityOf 2 t < 2 ^ t.bits ∧ intOf t (identityOf 2 t) = (intRange t).1 := by
  simp only [List.mem_cons, List.not_mem_nil, or_false] at ht
  obtain rfl | rfl | rfl | rfl := ht <;> decide

/-! ### The butterfly -/

theorem getD_map_range {α : Type} (f : Nat → α) (d : α) {n l : Nat} (h : l < n) : ((List.range n).map f).getD l d = f l := by
  simp [h]

/-- Steps of the tree, the last one taken apart. -/
theorem treeSteps_succ (s : State) (x : Args) (op : Nat) : ∀ (n k : Nat) (v : List (Nat × Flags)),
    treeSteps s x op (n + 1) k v = treeStep s x op (k + n) (treeSteps s x op n k v)
  | 0, _, _ => rfl
  | n + 1, k, v => by
    show treeSteps s x op (n + 1) (k + 1) (treeStep s x op k v) = _
    rw [treeSteps_succ s x op n (k + 1), show k + 1 + n = k + (n + 1) by omega]
    rfl

/-- The value and flags of a lane after n steps of the butterfly. -/
def butterfly (s : State) (x : Args) (n l : Nat) : Nat × Flags :=
  (treeSteps s x (x.fn.toNat % 8) n 0 (treeStart s x (x.fn.toNat % 8))).getD l (0, 0)

theorem butterfly_zero (s : State) (x : Args) {l : Nat} (h : l < 32) :
    butterfly s x 0 l = (if s.exec.getLsbD l then vecA s x x.a l else identityOf (x.fn.toNat % 8) x.ty, 0) :=
  getD_map_range _ _ h

/-- At a step every lane at once takes its value and that of its partner (R221). -/
theorem butterfly_succ (s : State) (x : Args) (n : Nat) {l : Nat} (h : l < 32) :
    let c := combine (x.fn.toNat % 8) x.ty (roundMode s x.rnd (min l (l ^^^ 2 ^ n)) n) (butterfly s x n l).1 (butterfly s x n (l ^^^ 2 ^ n)).1
    butterfly s x (n + 1) l = (c.1, (butterfly s x n l).2 ||| c.2) := by
  intro c
  unfold butterfly
  rw [treeSteps_succ, Nat.zero_add]
  exact getD_map_range _ _ h

/-! ### The scan -/

/-- One step of a scan: the accumulated pattern and the lane's. -/
def scanOne (s : State) (x : Args) (op l acc : Nat) : Nat × Flags := combine op x.ty (roundMode s x.rnd l 0) acc (vecA s x x.a l)

/-- What a scan over rising lanes has accumulated before a lane, from `acc` on. -/
def scanBefore (s : State) (x : Args) (op : Nat) (ls : List Nat) (acc l : Nat) : Nat :=
  (ls.filter fun k => k < l).foldl (fun acc k => (scanOne s x op k acc).1) acc

/-- A scan over rising lanes gives each the lanes before it, with or without its own (R221). -/
theorem scanAt_scanLanes (s : State) (x : Args) (op : Nat) (excl : Bool) (l : Nat) : ∀ (ls : List Nat) (acc : Nat),
    ls.Pairwise (· < ·) → l ∈ ls → scanAt (scanLanes s x op excl ls acc) l =
      let b := scanBefore s x op ls acc l
      (if excl then b else (scanOne s x op l b).1, (scanOne s x op l b).2)
  | [], _, _, h => absurd h List.not_mem_nil
  | k :: ls, acc, hs, h => by
    obtain ⟨hk, hs⟩ := List.pairwise_cons.1 hs
    rw [scanLanes, scanAt, List.find?_cons]
    rcases List.mem_cons.1 h with rfl | hl
    · have hnone : (l :: ls).filter (fun j => j < l) = [] :=
        List.filter_eq_nil_iff.2 fun j hj => by
          rcases List.mem_cons.1 hj with rfl | hj
          · simp
          · simpa using (hk j hj).le
      simp only [beq_self_eq_true, scanBefore, hnone, List.foldl_nil]
      rfl
    · have hlt := hk l hl
      have ih := scanAt_scanLanes s x op excl l ls (scanOne s x op k acc).1 hs hl
      have hb : scanBefore s x op (k :: ls) acc l = scanBefore s x op ls (scanOne s x op k acc).1 l := by
        rw [scanBefore, List.filter_cons_of_pos (by simpa using hlt), List.foldl_cons]
        rfl
      rw [hb, ← ih, beq_false_of_ne hlt.ne]
      rfl

theorem activeLanes_sorted (s : State) : (activeLanes s).Pairwise (· < ·) := List.pairwise_lt_range.filter _

/-- Settles O36: the operations one by one, the identities by the range of the type, the butterfly by its steps and the scan lane by lane. -/
theorem laneCombinations : Obligations.LaneCombinations := by
  unfold Obligations.LaneCombinations
  intro s x h op a k seg signed fx least excl one before
  refine ⟨fun m p q hp hq => ⟨rfl, fun _ => ?_, rfl, rfl, rfl, rfl, fun _ => combine_fx ..⟩, fun ht => ?_, rfl, rfl, fun hr => ?_, fun hr => ?_⟩
  · have hsp : signed p = intOf x.ty p := (intOf_eq_of_lt hp).symm
    have hsq : signed q = intOf x.ty q := (intOf_eq_of_lt hq).symm
    simp only [hsp, hsq]
    exact ⟨rfl, rfl⟩
  · refine ⟨rfl, rfl, rfl, rfl, fun p hp => ?_⟩
    obtain ⟨⟨hlt1, h1⟩, hlt2, h2⟩ := intOf_identity ht
    dsimp only [signed]
    rw [← intOf_eq_of_lt hp, ← intOf_eq_of_lt hlt1, ← intOf_eq_of_lt hlt2, h1, h2]
    exact ⟨(intOf_mem_range ..).2, (intOf_mem_range ..).1⟩
  · rw [Ty.regs_eq]
    exact ⟨butterfly s x, fun l hl => butterfly_zero s x hl, fun n l _ hl => butterfly_succ s x n hl,
      computes_of h hr (self_fresh s) x (rfl : execRedx x s = _) rfl⟩
  · have hs := fun l hl => scanAt_scanLanes s x op excl l (activeLanes s) (identityOf op x.ty) (activeLanes_sorted s) hl
    rw [Ty.regs_eq]
    refine ⟨_, computes_of h hr (self_fresh s) x (rfl : execScanx x s = _)
      (r := fun l => (laneValue x.ty (scanAt (scanLanes s x op excl (activeLanes s) (identityOf op x.ty)) l).1,
        (scanAt (scanLanes s x op excl (activeLanes s) (identityOf op x.ty)) l).2)) rfl, fun l hl => ?_⟩
    simp only [hs l hl]
    rfl

end Sys2Proof.Machine
end

section

/-! ## Reading special registers (O39) -/

namespace Sys2Proof.Machine
open Sys2Proof

/-! ### Pairs written outside chains -/

theorem resultPair_only (s : State) (n : Nat) (v : DWord) : OnlyScalarsAndLatches s (resultPair s n v) :=
  (latchScalars_only ..).setPair ..

theorem resultPair_fresh (s : State) (n : Nat) (v : DWord) : (resultPair s n v).fresh = s.fresh := by
  rw [resultPair_eq]
  rfl

theorem resultPair_inL0 {s : State} (h : cellsWf s.g.latches = true) (n : Nat) (v : DWord) :
    InL0 s (resultPair s n v) (v.setWidth 128) := by
  intro k l hl
  rw [← peek_latchScalars h 0 (v.setWidth 128) hl, resultPair, setPair_latches]

/-- A pair of registers reads a result, and every other register as before. -/
theorem getS_resultPair {s : State} (h : cellsWf s.g.sregs = true) (n m : Nat) (v : DWord) :
    getS (resultPair s n v) m = if m = n + 1 then (v >>> 32).setWidth 32 else if m = n then v.setWidth 32 else getS s m := by
  rw [resultPair, getS_setPair (by rwa [latchScalars_sregs]), getS_latchScalars]

theorem high_append_low (v : DWord) : (v >>> 32).setWidth 32 ++ v.setWidth 32 = v := by
  refine BitVec.eq_of_getLsbD_eq fun i hi => ?_
  rw [BitVec.getLsbD_append]
  by_cases h : i < 32
  · simp [h]
  · simp [h, show 32 + (i - 32) = i by omega, show i - 32 < 32 by omega]

theorem wroteDouble_of {s u : State} (ho : OnlyScalarsAndLatches s u) (hf : u.fresh = s.fresh) {n : Nat} {v : DWord}
    (hl : InL0 s u (v.setWidth 128))
    (hs : ∀ m, getS u m = if m = n + 1 then (v >>> 32).setWidth 32 else if m = n then v.setWidth 32 else getS s m) (i : Instr) :
    WroteDouble i s (passes i s u) n v := by
  have hp : getPair u n = v := by
    rw [getPair, hs, if_pos rfl, hs, if_neg (by omega), if_pos rfl, high_append_low]
  exact ⟨ho.complete i.shape (pcAfter i s), hf, ⟨rfl, rfl, rfl, rfl⟩, hl, hp,
    fun m h0 h1 => (hs m).trans ((if_neg h1).trans (if_neg h0))⟩

theorem wroteDouble_resultPair {s : State} (h : s.wf = true) (i : Instr) (n : Nat) (v : DWord) :
    WroteDouble i s (passes i s (resultPair s n v)) n v :=
  wroteDouble_of (resultPair_only s n v) (resultPair_fresh s n v) (resultPair_inL0 (Group.wf_latches (State.wf_group h)) n v)
    (fun m => getS_resultPair (Group.wf_sregs (State.wf_group h)) n m v) i

/-! ### `sget` -/

section
variable {s : State} {x : Args}

theorem number_of_literal {k : Nat} (hl : x.literal = BitVec.ofNat 32 k) (hk : k < 65536) : x.literal.toNat % 65536 = k := by
  rw [hl, BitVec.toNat_ofNat]
  omega

/-- Reading a 32-bit register that merges nothing. -/
theorem sget_word {k : Nat} {v : Word} (h : s.wf = true) (hr : Ready (.sget x) s) (hk : k < 65536 ∧ k ≠ 7 ∧ k ≠ 8)
    (hb : specialBits k ≠ 64) (hv : (specialReg s k).setWidth 32 = v) (hl : x.literal = BitVec.ofNat 32 k) :
    ∃ t, exec (.sget x) s = .next t ∧ WroteWord (.sget x) s t x.d.toNat v := by
  obtain ⟨hlt, h7, h8⟩ := hk
  refine writes_word h hr (rfl : execSget x s = _) ?_ hv
  simp only [readSpecial, number_of_literal hl hlt, h7, h8, hb, false_and, if_false]

/-- Reading a 64-bit register that merges nothing. -/
theorem sget_pair {k : Nat} (h : s.wf = true) (hr : Ready (.sget x) s) (hk : k < 65536 ∧ k ≠ 7 ∧ k ≠ 8) (hb : specialBits k = 64)
    (hl : x.literal = BitVec.ofNat 32 k) :
    ∃ t, exec (.sget x) s = .next t ∧ WroteDouble (.sget x) s t x.d.toNat (specialReg s k) := by
  obtain ⟨hlt, h7, h8⟩ := hk
  refine ⟨_, exec_done (rfl : execSget x s = _) hr ?_, wroteDouble_resultPair h ..⟩
  simp only [readSpecial, number_of_literal hl hlt, h7, h8, hb, false_and, if_false, if_true]

end

theorem setWidth_double (v : Word) : (v.setWidth 64).setWidth 32 = v := by
  rw [BitVec.setWidth_setWidth_of_le _ (by norm_num), BitVec.setWidth_eq]

theorem setWidth_narrow {w : Nat} (v : BitVec w) : (v.setWidth 64).setWidth 32 = v.setWidth 32 :=
  BitVec.setWidth_setWidth_of_le _ (by norm_num)

section
variable {s : State} {x : Args}

/-- CH is read after the group's contributions have merged, once none of its stores is on its way (R182). -/
theorem readSpecial_ch (hl : x.literal = BitVec.ofNat 32 7) : readSpecial x s =
    if storesOut s s.g.id then .wait .fence s
    else .done (resultPair (mergeGroup s s.g.id) x.d.toNat (specialReg (mergeGroup s s.g.id) 7)) := by
  simp only [readSpecial, number_of_literal hl (by norm_num), true_and, if_true, show ¬ (7 : Nat) = 8 by norm_num, false_and, if_false,
    show specialBits 7 = 64 from rfl]

/-- FLAGS is read after the reductions have merged that may set a flag, once none of them is on its way or logged (R123, R182). -/
theorem readSpecial_flags (hl : x.literal = BitVec.ofNat 32 8) : readSpecial x s =
    if flagsOut s s.g.id then .wait .fence s
    else .done (resultS (mergeFlags s s.g.id) x.d.toNat ((specialReg (mergeFlags s s.g.id) 8).setWidth 32)) := by
  simp only [readSpecial, number_of_literal hl (by norm_num), true_and, if_true, show ¬ (8 : Nat) = 7 by norm_num, false_and, if_false,
    show ¬ specialBits 8 = 64 by decide]

end

/-- Settles O39, register by register. -/
theorem specialRegisterReads : Obligations.SpecialRegisterReads := by
  unfold Obligations.SpecialRegisterReads
  intro s x h hr word pair merged flagged
  refine ⟨sget_word h hr (by decide) (by decide) (setWidth_double _), sget_word h hr (by decide) (by decide) (setWidth_narrow _),
    sget_word h hr (by decide) (by decide) (setWidth_double _), sget_word h hr (by decide) (by decide) (setWidth_double _),
    sget_word h hr (by decide) (by decide) (setWidth_double _), sget_word h hr (by decide) (by decide) (setWidth_double _),
    sget_pair h hr (by decide) rfl,
    fun hl ho => exec_done (rfl : execSget x s = _) hr ((readSpecial_ch hl).trans (if_neg (by simp [ho]))),
    fun hl ho => exec_wait (rfl : execSget x s = _) hr ((readSpecial_ch hl).trans (if_pos ho)),
    fun hl ho => ?_,
    fun hl ho => exec_wait (rfl : execSget x s = _) hr ((readSpecial_flags hl).trans (if_pos ho)),
    sget_word h hr (by decide) (by decide) (setWidth_narrow _), sget_pair h hr (by decide) rfl,
    sget_word h hr (by decide) (by decide) (BitVec.setWidth_ofNat_of_le (by norm_num) _),
    sget_word h hr (by decide) (by decide) (setWidth_double _),
    sget_pair h hr (by decide) rfl, sget_pair h hr (by decide) rfl, sget_word h hr (by decide) (by decide) (setWidth_double _),
    sget_pair h hr (by decide) rfl, sget_word h hr (by decide) (by decide) (setWidth_narrow _), sget_pair h hr (by decide) rfl,
    sget_pair h hr (by decide) rfl, sget_word h hr (by decide) (by decide) (setWidth_double _),
    sget_word h hr (by decide) (by decide) (setWidth_double _)⟩
  rw [← setWidth_narrow]
  exact exec_done (rfl : execSget x s = _) hr ((readSpecial_flags hl).trans (if_neg (by simp [ho])))

end Sys2Proof.Machine
end

section

/-! ## Writing special registers (O40) -/

namespace Sys2Proof.Machine
open Sys2Proof

/-! ### FMT and RND -/

theorem fieldOf_eq (v : Word) (hi lo : Nat) : fieldOf v hi lo = (v.extractLsb' lo (hi + 1 - lo)).toNat := by
  rw [fieldOf, bitsOf, BitVec.extractLsb'_toNat, Nat.shiftRight_eq_div_pow]

/-- A format code that R68 reserves. -/
theorem reservedFmt_eq {v : Word} {hi lo : Nat} (h : hi + 1 - lo = 4) :
    reservedFmt (fieldOf v hi lo) = (fun c : BitVec 4 => c == 8 || decide (13 ≤ c.toNat)) (v.extractLsb' lo 4) := by
  rw [fieldOf_eq, h]
  generalize v.extractLsb' lo 4 = c
  revert c
  decide

theorem fmtLegal_eq_false_iff (v : Word) : fmtLegal v = false ↔
    ([v.extractLsb' 0 4, v.extractLsb' 4 4, v.extractLsb' 12 4].any (fun c => c == 8 || decide (13 ≤ c.toNat)) = true ∨
      v.extractLsb' 8 2 = 3) := by
  have h3 : (fieldOf v 9 8 != 3) = !(v.extractLsb' 8 2 == 3) := by
    rw [fieldOf_eq]
    generalize v.extractLsb' 8 (9 + 1 - 8) = c
    revert c
    decide
  unfold fmtLegal
  rw [reservedFmt_eq rfl, reservedFmt_eq rfl, reservedFmt_eq rfl, h3]
  simp only [List.any_cons, List.any_nil, Bool.or_false, Bool.and_eq_false_iff, Bool.not_eq_false', beq_iff_eq, Bool.or_eq_true]
  tauto

theorem fmtUsesF64_iff (v : Word) : fmtUsesF64 v = true ↔
    ([v.extractLsb' 0 4, v.extractLsb' 4 4, v.extractLsb' 12 4].any (fun c => c == 9) = true ∨ v.extractLsb' 8 2 = 2) := by
  have h4 (c : BitVec 4) : (c.toNat == 9) = (c == 9) := by
    revert c
    decide
  have h2 (c : BitVec 2) : (c.toNat == 2) = (c == 2) := by
    revert c
    decide
  unfold fmtUsesF64
  simp only [fieldOf_eq, List.any_cons, List.any_nil, Bool.or_false, Bool.or_eq_true]
  rw [h4, h4, h4, h2]
  simp only [beq_iff_eq, or_assoc]

section
variable {i : Instr} {s : State} {v : Word} {body : State → Res}

theorem writeFmt_formats (he : exec i s = run i.shape body s) (hr : Ready i s) (hb : body s = writeFmt i.shape v s) :
    (fmtLegal v = true → ¬ (fmtUsesF64 v = true ∧ profileN s = true) →
      exec i s = .next (passes i s { s with sp := { s.sp with fmt := v } })) ∧
    (fmtLegal v = false → exec i s = .next (traps i s s 0x02 (firstUnit i.shape) s.exec)) ∧
    (fmtLegal v = true → fmtUsesF64 v = true → profileN s = true → exec i s = .next (traps i s s 0x05 (firstUnit i.shape) s.exec)) := by
  rw [writeFmt] at hb
  refine ⟨fun hl hn => exec_done he hr ?_, fun hl => exec_raiseExec he hr ?_, fun hl hu hn => exec_raiseExec he hr ?_⟩
  · rw [hb, if_neg (by simp [hl]), if_neg (by simpa using hn)]
  · rw [hb, if_pos (by simp [hl])]
    rfl
  · rw [hb, if_neg (by simp [hl]), if_pos (by simp [hu, hn])]

theorem writeRnd_rounds (he : exec i s = run i.shape body s) (hr : Ready i s) (hb : body s = writeRnd i.shape v s) :
    (v.toNat < 6 → exec i s = .next (passes i s { s with sp := { s.sp with rnd := v.setWidth 3 } })) ∧
    (6 ≤ v.toNat → exec i s = .next (traps i s s 0x02 (firstUnit i.shape) s.exec)) :=
  ⟨fun hv => exec_done he hr (hb.trans (if_neg (Nat.not_le.2 hv))), fun hv => exec_raiseExec he hr (hb.trans (if_pos hv))⟩

end

/-! ### `sput` -/

/-- What decodes has passed every check of its row. -/
theorem wf_of_checked {o : Option Instr} {i : Instr} (h : checked o = .ok i) : i.wf = true := by
  unfold checked at h
  split at h
  · split at h
    · cases h
      assumption
    · cases h
  · cases h

/-- A `sput` of a register that it may not name is no instruction (R181). -/
theorem sput_forbidden {x : Args} (h : sputForbidden x.literal.toNat = true) :
    (Instr.sput x).wf = false ∧ decode (encode (.sput x)) ≠ .ok (.sput x) := by
  have hwf : (Instr.sput x).wf = false := by
    have hs : sputOk x = false := by simp [sputOk, h]
    show formBCOk _ x = false
    simp [formBCOk, hs]
  refine ⟨hwf, fun hd => ?_⟩
  have hc : checked (buildBC 0x35 x) = .ok (.sput x) :=
    (decode_bc ⟨0x35, (· == 0), .z, .sAny, .z, .z, t0, true, sputOk⟩ x rfl (by decide) (.inr (by decide))).symm.trans hd
  rw [wf_of_checked hc] at hwf
  exact Bool.noConfusion hwf

/-- Putting a word of RKEY leaves the other three (R73). -/
theorem setRkeyWord_eq (r : Quad) (v : Word) :
    setRkeyWord r 0 v = r.extractLsb' 96 32 ++ r.extractLsb' 64 32 ++ r.extractLsb' 32 32 ++ v ∧
    setRkeyWord r 1 v = r.extractLsb' 96 32 ++ r.extractLsb' 64 32 ++ v ++ r.extractLsb' 0 32 ∧
    setRkeyWord r 2 v = r.extractLsb' 96 32 ++ v ++ r.extractLsb' 32 32 ++ r.extractLsb' 0 32 ∧
    setRkeyWord r 3 v = v ++ r.extractLsb' 64 32 ++ r.extractLsb' 32 32 ++ r.extractLsb' 0 32 := ⟨rfl, rfl, rfl, rfl⟩

section
variable {s : State} {x : Args}

/-- `sput` of the 32-bit registers that it may write. -/
theorem writeSpecial_word (a : Word) (ha : scalar32 s x x.a = a) :
    (x.literal = 0 → writeSpecial x s = writeFmt (.sput x) a s) ∧ (x.literal = 1 → writeSpecial x s = writeRnd (.sput x) a s) ∧
    (x.literal = 2 → writeSpecial x s = .done { s with g := { s.g with rkey := setRkeyWord s.g.rkey 0 a } }) ∧
    (x.literal = 3 → writeSpecial x s = .done { s with g := { s.g with rkey := setRkeyWord s.g.rkey 1 a } }) ∧
    (x.literal = 4 → writeSpecial x s = .done { s with g := { s.g with rkey := setRkeyWord s.g.rkey 2 a } }) ∧
    (x.literal = 5 → writeSpecial x s = .done { s with g := { s.g with rkey := setRkeyWord s.g.rkey 3 a } }) ∧
    (x.literal = 8 → writeSpecial x s = .done { s with g := { s.g with flags := a.setWidth 6 } }) ∧
    (x.literal = 9 → writeSpecial x s = .done { s with g := { s.g with ftrap := a.setWidth 6 } }) ∧
    (x.literal = 0x21 → writeSpecial x s = .done { s with g := { s.g with tcause := a.setWidth 9 } }) ∧
    (x.literal = 0x24 → writeSpecial x s = .done { s with g := { s.g with tlanes := a } }) ∧
    (x.literal = 0x25 → writeSpecial x s = .done { s with g := { s.g with tpmode := a.getLsbD 0 } }) := by
  refine ⟨fun hl => ?_, fun hl => ?_, fun hl => ?_, fun hl => ?_, fun hl => ?_, fun hl => ?_, fun hl => ?_, fun hl => ?_, fun hl => ?_,
    fun hl => ?_, fun hl => ?_⟩
  all_goals
    simp [writeSpecial, hl, specialBits, ha]

/-- `sput` of the 64-bit registers that it may write. -/
theorem writeSpecial_pair :
    (x.literal = 6 → writeSpecial x s = .done { s with tm := { s.tm with ltm := (scalar64 s x x.a).setWidth 40 } }) ∧
    (x.literal = 0x22 → writeSpecial x s = .done { s with g := { s.g with tpc := scalar64 s x x.a, tpcw := true } }) ∧
    (x.literal = 0x23 → writeSpecial x s = .done { s with g := { s.g with taddr := scalar64 s x x.a } }) := by
  refine ⟨fun hl => ?_, fun hl => ?_, fun hl => ?_⟩
  all_goals
    simp [writeSpecial, hl, specialBits]

end

/-- Settles O40, register by register. -/
theorem specialRegisterWrites : Obligations.SpecialRegisterWrites := by
  unfold Obligations.SpecialRegisterWrites
  intro s x reserved usesF64 formats rounds a a64 key puts
  have hlegal (v : Word) : fmtLegal v = false ↔ reserved v := fmtLegal_eq_false_iff v
  have hformats {i : Instr} {v : Word} {body : State → Res} (he : exec i s = run i.shape body s) (hr : Ready i s)
      (hb : body s = writeFmt i.shape v s) : formats i v := by
    obtain ⟨h1, h2, h3⟩ := writeFmt_formats he hr hb
    dsimp only [formats]
    rw [← hlegal, Bool.not_eq_false, show usesF64 v ↔ fmtUsesF64 v = true from (fmtUsesF64_iff v).symm]
    exact ⟨h1, h2, h3⟩
  have he : exec (.sput x) s = run (Instr.sput x).shape (writeSpecial x) s := rfl
  refine ⟨fun n hn hl => sput_forbidden ?_, fun hr => hformats (rfl : execSetfmt x s = _) hr rfl,
    fun hr => writeRnd_rounds (rfl : execSetrnd x s = _) hr rfl, fun hr => exec_done (rfl : execLtm x s = _) hr rfl,
    fun hr => ?_, fun hp hh hl => exec_stop rfl ?_⟩
  · rw [hl]
    exact (by decide : ∀ n ∈ [0x07, 0x0A, 0x0B, 0x10, 0x11, 0x12, 0x13], sputForbidden (BitVec.ofNat 32 n).toNat = true) n hn
  · obtain ⟨w0, w1, w2, w3, w4, w5, w8, w9, w21, w24, w25⟩ := writeSpecial_word (s := s) (x := x) a rfl
    obtain ⟨w6, w22, w23⟩ := writeSpecial_pair (s := s) (x := x)
    obtain ⟨k0, k1, k2, k3⟩ := setRkeyWord_eq s.g.rkey a
    rw [k0] at w2
    rw [k1] at w3
    rw [k2] at w4
    rw [k3] at w5
    exact ⟨fun hl => hformats he hr (w0 hl), fun hl => writeRnd_rounds he hr (w1 hl), fun hl => exec_done he hr (w2 hl),
      fun hl => exec_done he hr (w3 hl), fun hl => exec_done he hr (w4 hl), fun hl => exec_done he hr (w5 hl),
      fun hl => exec_done he hr (w6 hl), fun hl => exec_done he hr (w8 hl), fun hl => exec_done he hr (w9 hl),
      fun hl => exec_done he hr (w21 hl), fun hl => exec_done he hr (w22 hl), fun hl => exec_done he hr (w23 hl),
      fun hl => exec_done he hr (w24 hl), fun hl => exec_done he hr (w25 hl)⟩
  · have hputs : putsTvec (Instr.sput x).shape = true := by
      show ((0x35 : BitVec 8).toNat == 0x35 && x.literal.toNat == 0x20) = true
      rw [hl]
      rfl
    rw [issueCheck_named hp hh, if_pos (by rw [lacksPrivilege, hputs, Bool.true_or])]

end Sys2Proof.Machine
end

section

/-! ## Values that a type holds (O29) -/

namespace Sys2Proof.Machine
open Sys2Proof

/-! ### Floating-point formats -/

theorem roundAt_self (m : Mode) (neg : Bool) (mag : Nat) (exp : Int) : roundAt m neg mag exp exp = (mag, false) := by
  rw [roundAt, if_pos le_rfl, sub_self]
  simp

section
variable {f : Fmt} {mag : Nat} {exp : Int}

/-- A nonzero magnitude that a format holds is a multiple of its unit in the last place, so that nothing is rounded (R59). -/
theorem roundFin_exact (m : Mode) (neg : Bool) (h0 : mag ≠ 0) (h2 : mag < 2 ^ (f.mbits + 1)) (hexp : 1 - f.bias - f.mbits ≤ exp)
    (hnorm : mag < 2 ^ f.mbits → exp = 1 - f.bias - f.mbits) (hmax : exp + f.mbits + f.bias < 2 ^ f.ebits - (if f.ieee then 1 else 0))
    (hb : f.ieee = false → f.beyond mag exp = false) :
    f.roundFin m neg mag exp =
      (f.sign neg + if mag < 2 ^ f.mbits then mag else (exp + f.mbits + f.bias).toNat * 2 ^ f.mbits + (mag - 2 ^ f.mbits), 0) := by
  have hq : max ((Nat.log2 mag : Int) + exp) (1 - f.bias) - f.mbits = exp := by
    by_cases hm : mag < 2 ^ f.mbits
    · have hl : Nat.log2 mag < f.mbits := (Nat.log2_lt h0).2 hm
      have := hnorm hm
      omega
    · have hl : Nat.log2 mag = f.mbits := (Nat.log2_eq_iff h0).2 ⟨not_lt.1 hm, h2⟩
      omega
  have hpast : (f.beyond mag exp && !f.ieee) = false := by
    cases hi : f.ieee
    · rw [hb hi, Bool.false_and]
    · simp
  unfold Fmt.roundFin
  simp only [hpast, hq, roundAt_self, Bool.false_eq_true, if_false, h2.ne, ge_iff_le, not_le.2 hmax]
  simp [flagIf]

end

/-- A pattern of a format is its sign, exponent field and fraction field (R59). -/
theorem sign_add_fields (f : Fmt) {x : Nat} (hx : x < 2 ^ f.width) :
    f.sign (x / 2 ^ (f.ebits + f.mbits) % 2 == 1) + (x / 2 ^ f.mbits % 2 ^ f.ebits * 2 ^ f.mbits + x % 2 ^ f.mbits) = x := by
  have hlow : x / 2 ^ f.mbits % 2 ^ f.ebits * 2 ^ f.mbits + x % 2 ^ f.mbits = x % 2 ^ (f.ebits + f.mbits) := by
    rw [Nat.add_comm f.ebits, Nat.pow_add, Nat.mod_mul, Nat.mul_comm, Nat.add_comm]
  have hs : f.sign (x / 2 ^ (f.ebits + f.mbits) % 2 == 1) = 2 ^ (f.ebits + f.mbits) * (x / 2 ^ (f.ebits + f.mbits)) := by
    have hlt : x / 2 ^ (f.ebits + f.mbits) < 2 := by
      rw [Nat.div_lt_iff_lt_mul (Nat.two_pow_pos _), ← Nat.pow_succ']
      rwa [show (f.ebits + f.mbits).succ = f.width by unfold Fmt.width; omega]
    unfold Fmt.sign
    generalize x / 2 ^ (f.ebits + f.mbits) = s at hlt
    interval_cases s <;> simp
  rw [hlow, hs, Nat.div_add_mod]

/-- A format's values round to their own patterns. -/
theorem round_value {f : Fmt} (hebits : 2 ≤ f.ebits) (hfin : f.ieee = false → ∀ x < 2 ^ f.width, ∀ neg mag exp, f.value x = .fin neg mag exp → f.beyond mag exp = false)
    (m : Mode) {x : Nat} (hx : x < 2 ^ f.width) (hn : (f.value x).isNan = false) : f.round m (f.value x) = (x, 0) := by
  have hsum := sign_add_fields f hx
  have hbeyond := fun hi => hfin hi x hx
  have hm : x % 2 ^ f.mbits < 2 ^ f.mbits := Nat.mod_lt _ (Nat.two_pow_pos _)
  have he : x / 2 ^ f.mbits % 2 ^ f.ebits < 2 ^ f.ebits := Nat.mod_lt _ (Nat.two_pow_pos _)
  unfold Fmt.value at hn hbeyond ⊢
  simp only at hn hbeyond ⊢
  generalize (x / 2 ^ (f.ebits + f.mbits) % 2 == 1) = neg at hsum hn hbeyond ⊢
  generalize x / 2 ^ f.mbits % 2 ^ f.ebits = e at hsum hn hbeyond he ⊢
  generalize x % 2 ^ f.mbits = frac at hsum hn hbeyond hm ⊢
  by_cases h1 : (f.ieee && e == 2 ^ f.ebits - 1) = true
  · rw [if_pos h1] at hn ⊢
    obtain ⟨hi, h1⟩ := Bool.and_eq_true_iff.1 h1
    rw [beq_iff_eq] at h1
    by_cases hz : frac = 0
    · rw [if_pos hz, Fmt.round, if_pos hi, ← hsum, hz, Fmt.infBits, ← h1, Nat.add_zero]
    · rw [if_neg hz] at hn
      exact Bool.noConfusion hn
  · rw [if_neg h1] at hn hbeyond ⊢
    by_cases h2 : (!f.ieee && x % 2 ^ (f.ebits + f.mbits) == 2 ^ (f.ebits + f.mbits) - 1) = true
    · rw [if_pos h2] at hn
      exact Bool.noConfusion hn
    · rw [if_neg h2] at hbeyond ⊢
      have hmax : (e : Int) < 2 ^ f.ebits - (if f.ieee then 1 else 0) := by
        have : (e : Int) < 2 ^ f.ebits := by exact_mod_cast he
        cases hi : f.ieee
        · simpa using this
        · rw [hi, Bool.true_and, beq_iff_eq] at h1
          have : (e : Int) < 2 ^ f.ebits - 1 := by
            have : e < 2 ^ f.ebits - 1 := by omega
            zify at this
            rwa [Nat.cast_sub (Nat.one_le_two_pow)] at this
          simpa using this
      by_cases hz : e = 0
      · rw [if_pos hz] at hbeyond ⊢
        rw [hz, Nat.zero_mul, Nat.zero_add] at hsum
        by_cases hf : frac = 0
        · rw [Fmt.round, if_pos hf, ← hsum, hf, Nat.add_zero]
        · have hone : (1 : Int) < 2 ^ f.ebits - (if f.ieee then 1 else 0) := by
            have : (4 : Int) ≤ 2 ^ f.ebits := by exact_mod_cast Nat.pow_le_pow_right (by norm_num : 0 < 2) hebits
            split <;> omega
          rw [Fmt.round, if_neg hf, roundFin_exact m neg hf (hm.trans (Nat.pow_lt_pow_right (by norm_num) (by omega))) le_rfl
            (fun _ => rfl) (by convert hone using 1; ring) fun hi => hbeyond hi _ _ _ rfl, if_pos hm, hsum]
      · rw [if_neg hz] at hbeyond ⊢
        have hmag : ¬ frac + 2 ^ f.mbits < 2 ^ f.mbits := by omega
        rw [Fmt.round, if_neg (by omega), roundFin_exact m neg (by omega) (by rw [Nat.pow_succ]; omega) (by omega) (fun h => absurd h hmag)
          (by convert hmax using 1; ring) fun hi => hbeyond hi _ _ _ rfl, if_neg hmag, ← hsum]
        rw [Nat.add_sub_cancel, show ((e : Int) - f.bias - f.mbits + f.mbits + f.bias) = e by ring, Int.toNat_natCast]

/-- No value of E4M3 is beyond its largest. -/
theorem e4m3_beyond : ∀ x < 2 ^ fmtE4M3.width, ∀ neg mag exp, fmtE4M3.value x = .fin neg mag exp → fmtE4M3.beyond mag exp = false := by
  have h : ∀ x < 2 ^ fmtE4M3.width, (match fmtE4M3.value x with | .fin _ mag exp => fmtE4M3.beyond mag exp | _ => false) = false := by
    decide +kernel
  intro x hx neg mag exp hv
  have := h x hx
  rwa [hv] at this

/-! ### Integers -/

theorem wrapInt_intOf {t : Ty} {p : Nat} (hp : p < 2 ^ t.bits) : wrapInt t.bits (intOf t p) = p := by
  have h : BitVec.ofInt t.bits (intOf t p) = BitVec.ofNat t.bits p := by
    rw [intOf_eq]
    split
    · exact BitVec.ofInt_toInt
    · rw [BitVec.ofInt_natCast, BitVec.ofNat_toNat, BitVec.setWidth_eq]
  rw [wrapInt_eq_toNat, h, BitVec.toNat_ofNat, Nat.mod_eq_of_lt hp]

/-- An integer of a range rounds to itself (R61). -/
theorem intRound_ofInt (m : Mode) {lo hi i : Int} (h1 : lo ≤ i) (h2 : i ≤ hi) : intRound m lo hi (Val.ofInt i 0) = (i, 0) := by
  have hi : (if decide (i < 0) = true then -((i.natAbs : Nat) : Int) else (i.natAbs : Nat)) = i := by
    by_cases h : i < 0
    · rw [if_pos (decide_eq_true h)]
      omega
    · rw [if_neg (by simpa using h)]
      omega
  simp only [Val.ofInt, intRound, roundAt_self]
  rw [hi, if_neg (not_lt.2 h1), if_neg (not_lt.2 h2)]
  rfl

/-! ### L6 -/

theorem l6Round_value (m : Mode) {p : Nat} (hp : p < 64) : l6Round m (l6Value p) = (p, 0) := by
  interval_cases p <;> rfl

/-- Settles O29, kind of type by kind. -/
theorem representableValuesAreExact : Obligations.RepresentableValuesAreExact := by
  unfold Obligations.RepresentableValuesAreExact
  intro m t p ht hp hn
  have hieee {f : Fmt} (hf : f.ieee = true) (h : f.ieee = false) : ∀ x < 2 ^ f.width, ∀ neg mag exp, f.value x = .fin neg mag exp → f.beyond mag exp = false :=
    absurd (hf.symm.trans h) Bool.noConfusion
  have hfloat {f : Fmt} (ho : fmtOf t = some f) (hl : t ≠ .l6) (hw : t.bits = f.width) (he : 2 ≤ f.ebits)
      (hfin : f.ieee = false → ∀ x < 2 ^ f.width, ∀ neg mag exp, f.value x = .fin neg mag exp → f.beyond mag exp = false) :
      tyRound m t (tyValue t p) = (p, 0) := by
    rw [if_neg hl] at hp
    simp only [tyValue, tyRound, ho, Nat.mod_eq_of_lt hp] at hn ⊢
    exact round_value he hfin m (hw ▸ hp) hn
  have hint (ho : fmtOf t = none) (hl : t ≠ .l6) : tyRound m t (tyValue t p) = (p, 0) := by
    rw [if_neg hl] at hp
    have hr := intOf_mem_range t p
    simp only [tyValue, tyRound, ho, if_neg hl, intRound_ofInt m hr.1 hr.2, wrapInt_intOf hp]
  cases t with
  | fx128 => exact absurd rfl ht
  | l6 => exact l6Round_value m hp
  | f32 => exact hfloat (f := fmtF32) rfl (by decide) rfl (by decide) (hieee rfl)
  | f16 => exact hfloat (f := fmtF16) rfl (by decide) rfl (by decide) (hieee rfl)
  | bf16 => exact hfloat (f := fmtBF16) rfl (by decide) rfl (by decide) (hieee rfl)
  | f64 => exact hfloat (f := fmtF64) rfl (by decide) rfl (by decide) (hieee rfl)
  | e5m2 => exact hfloat (f := fmtE5M2) rfl (by decide) rfl (by decide) (hieee rfl)
  | e4m3 => exact hfloat (f := fmtE4M3) rfl (by decide) rfl (by decide) fun _ => e4m3_beyond
  | i32 | n32 | i16 | n16 | i8 | n8 | i64 | n64 => exact hint rfl (by decide)

end Sys2Proof.Machine
end

section

/-! ## Exact values as real numbers

`Val.real` gives the number of a finite value; comparing, scaling and adding values is comparing, scaling and adding their numbers,
whatever magnitude and exponent a number is written with. -/

namespace Sys2Proof.Machine
open Sys2Proof

/-- The sign of a value as a factor. -/
theorem real_fin (neg : Bool) (mag : Nat) (exp : Int) :
    (Val.fin neg mag exp).real = (if neg then -1 else 1) * (mag : ℝ) * 2 ^ exp := rfl

theorem real_pos (mag : Nat) (exp : Int) : (Val.fin false mag exp).real = mag * 2 ^ exp := by
  rw [real_fin, if_neg Bool.false_ne_true, one_mul]

theorem real_neg (mag : Nat) (exp : Int) : (Val.fin true mag exp).real = -(mag * 2 ^ exp) := by
  rw [real_fin, if_pos rfl]
  ring

theorem real_ofInt (i exp : Int) : (Val.ofInt i exp).real = i * 2 ^ exp := by
  unfold Val.ofInt
  by_cases h : i < 0
  · rw [decide_eq_true h, real_neg, Nat.cast_natAbs, abs_of_neg h]
    push_cast
    ring
  · rw [decide_eq_false h, real_pos, Nat.cast_natAbs, abs_of_nonneg (not_lt.1 h)]

theorem two_zpow_pos (k : Int) : (0 : ℝ) < 2 ^ k := zpow_pos (by norm_num) k

/-- The integer that a value is in units that divide it. -/
theorem signedAt_real (neg : Bool) (mag : Nat) {exp q : Int} (h : q ≤ exp) :
    (signedAt neg mag exp q : ℝ) * 2 ^ q = (Val.fin neg mag exp).real := by
  have hp : ((mag * 2 ^ (exp - q).toNat : Nat) : ℝ) * 2 ^ q = mag * 2 ^ exp := by
    rw [Nat.cast_mul, Nat.cast_pow, mul_assoc, Nat.cast_ofNat, ← zpow_natCast, Int.toNat_of_nonneg (by omega),
      ← zpow_add₀ (by norm_num), sub_add_cancel]
  unfold signedAt
  cases neg
  · rw [if_neg Bool.false_ne_true, real_pos, ← hp]
    norm_cast
  · rw [if_pos rfl, real_neg, ← hp]
    push_cast
    ring

theorem cmpFin_real (na : Bool) (ma : Nat) (ea : Int) (nb : Bool) (mb : Nat) (eb : Int) :
    (cmpFin na ma ea nb mb eb : ℝ) * 2 ^ min ea eb = (Val.fin na ma ea).real - (Val.fin nb mb eb).real := by
  unfold cmpFin
  rw [Int.cast_sub, sub_mul, signedAt_real _ _ (min_le_left ..), signedAt_real _ _ (min_le_right ..)]

theorem lt_fin_iff (na : Bool) (ma : Nat) (ea : Int) (nb : Bool) (mb : Nat) (eb : Int) :
    Val.lt (.fin na ma ea) (.fin nb mb eb) = true ↔ (Val.fin na ma ea).real < (Val.fin nb mb eb).real := by
  rw [← sub_neg, ← cmpFin_real, ← neg_pos, ← neg_mul, mul_pos_iff_of_pos_right (two_zpow_pos _), neg_pos, Val.lt, decide_eq_true_eq,
    Int.cast_lt_zero]

/-- A value that is a number. -/
def Val.finite (x : Val) : Prop := (x.isNan || x.isInf) = false

theorem Val.finite_fin (neg : Bool) (mag : Nat) (exp : Int) : (Val.fin neg mag exp).finite := rfl

theorem Val.exists_of_finite {x : Val} (h : x.finite) : ∃ neg mag exp, x = .fin neg mag exp := by
  cases x with
  | nan _ => exact Bool.noConfusion h
  | inf _ => exact Bool.noConfusion h
  | fin neg mag exp => exact ⟨neg, mag, exp, rfl⟩

section
variable {x y : Val} (hx : x.finite)
include hx

theorem lt_iff (hy : y.finite) : Val.lt x y = true ↔ x.real < y.real := by
  obtain ⟨na, ma, ea, rfl⟩ := Val.exists_of_finite hx
  obtain ⟨nb, mb, eb, rfl⟩ := Val.exists_of_finite hy
  exact lt_fin_iff ..

theorem lt_eq_false_iff (hy : y.finite) : Val.lt x y = false ↔ y.real ≤ x.real := by
  rw [← not_lt, ← lt_iff hx hy, Bool.not_eq_true]

theorem real_scale (k : Int) : (x.scale k).real = x.real * 2 ^ k := by
  obtain ⟨neg, mag, exp, rfl⟩ := Val.exists_of_finite hx
  rw [Val.scale, real_fin, real_fin, zpow_add₀ (by norm_num)]
  ring

theorem finite_scale (k : Int) : (x.scale k).finite := by
  obtain ⟨neg, mag, exp, rfl⟩ := Val.exists_of_finite hx
  rfl

theorem real_abs : x.abs.real = |x.real| := by
  obtain ⟨neg, mag, exp, rfl⟩ := Val.exists_of_finite hx
  have h : (0 : ℝ) ≤ mag * 2 ^ exp := mul_nonneg (Nat.cast_nonneg _) (two_zpow_pos _).le
  rw [Val.abs, real_pos]
  cases neg
  · rw [real_pos, abs_of_nonneg h]
  · rw [real_neg, abs_neg, abs_of_nonneg h]

theorem finite_abs : x.abs.finite := by
  obtain ⟨neg, mag, exp, rfl⟩ := Val.exists_of_finite hx
  rfl

theorem isZero_iff : x.isZero = true ↔ x.real = 0 := by
  obtain ⟨neg, mag, exp, rfl⟩ := Val.exists_of_finite hx
  have h2 := (two_zpow_pos exp).ne'
  cases neg
  · rw [real_pos]
    simp [Val.isZero, h2]
  · rw [real_neg]
    simp [Val.isZero, h2]

end

/-- Where the leading bit of a magnitude stands. -/
theorem log2_real {mag : Nat} (h : mag ≠ 0) (exp : Int) :
    (2 : ℝ) ^ ((Nat.log2 mag : Int) + exp) ≤ mag * 2 ^ exp ∧ mag * 2 ^ exp < (2 : ℝ) ^ ((Nat.log2 mag : Int) + exp + 1) := by
  obtain ⟨h1, h2⟩ := (Nat.log2_eq_iff h).1 rfl
  rw [show (Nat.log2 mag : Int) + exp + 1 = ((Nat.log2 mag + 1 : Nat) : Int) + exp by push_cast; ring, zpow_add₀ (by norm_num),
    zpow_add₀ (by norm_num), zpow_natCast, zpow_natCast]
  exact ⟨mul_le_mul_of_nonneg_right (by exact_mod_cast h1) (two_zpow_pos _).le,
    mul_lt_mul_of_pos_right (by exact_mod_cast h2) (two_zpow_pos _)⟩

end Sys2Proof.Machine
end

section

/-! ## Conversions (O34) -/

namespace Sys2Proof.Machine
open Sys2Proof

/-! ### The scale of a block -/

section
variable {M a : ℝ} {e e' : Int}

/-- The least exponent at which a magnitude reaches another is one only. -/
theorem reaching_unique (hM : 0 < M) (h1 : a ≤ M * 2 ^ (e - 127)) (h2 : M * 2 ^ (e - 128) < a) (h1' : a ≤ M * 2 ^ (e' - 127))
    (h2' : M * 2 ^ (e' - 128) < a) : e = e' := by
  have hlt {j k : Int} (h : M * 2 ^ j < M * 2 ^ k) : j < k :=
    (zpow_lt_zpow_iff_right₀ (by norm_num : (1 : ℝ) < 2)).1 (lt_of_mul_lt_mul_left h hM.le)
  have := hlt (h2.trans_le h1')
  have := hlt (h2'.trans_le h1)
  omega

end

/-- The quantiser's exponent is the least at which M reaches the magnitude (R74). -/
theorem quantExp_spec {t : Ty} {ma mM : Nat} {ea eM : Int} (ha : ma ≠ 0) (hM : mM ≠ 0) (hq : quantMax t = .fin false mM eM) :
    let A : Val := .fin false ma ea
    A.real ≤ (quantMax t).real * 2 ^ (quantExp t A - 127) ∧ (quantMax t).real * 2 ^ (quantExp t A - 128) < A.real := by
  intro A
  obtain ⟨hA1, hA2⟩ := log2_real ha ea
  obtain ⟨hM1, hM2⟩ := log2_real hM eM
  have hfin : (quantMax t).finite := by rw [hq]; rfl
  set g : Int := (Nat.log2 ma : Int) + ea - ((Nat.log2 mM : Int) + eM) + 127 with hg
  have hlow : (quantMax t).real * 2 ^ (g - 128) < A.real := by
    rw [hq, real_pos]
    calc (mM : ℝ) * 2 ^ eM * 2 ^ (g - 128) < 2 ^ ((Nat.log2 mM : Int) + eM + 1) * 2 ^ (g - 128) :=
          mul_lt_mul_of_pos_right hM2 (two_zpow_pos _)
      _ = 2 ^ ((Nat.log2 ma : Int) + ea) := by rw [← zpow_add₀ (by norm_num)]; congr 1; omega
      _ ≤ A.real := by rw [real_pos]; exact hA1
  have hhigh : A.real < (quantMax t).real * 2 ^ (g + 1 - 127) := by
    rw [hq, real_pos, real_pos]
    calc (ma : ℝ) * 2 ^ ea < 2 ^ ((Nat.log2 ma : Int) + ea + 1) := hA2
      _ = 2 ^ ((Nat.log2 mM : Int) + eM) * 2 ^ (g + 1 - 127) := by rw [← zpow_add₀ (by norm_num)]; congr 1; omega
      _ ≤ (mM : ℝ) * 2 ^ eM * 2 ^ (g + 1 - 127) := mul_le_mul_of_nonneg_right hM1 (two_zpow_pos _).le
  have he : quantExp t A = if Val.lt ((quantMax t).scale (g - 127)) A.abs then g + 1 else g := by
    unfold quantExp
    rw [hq]
  rw [he]
  split
  · rename_i h
    rw [lt_iff (finite_scale hfin _) (finite_abs (Val.finite_fin ..)), real_scale hfin, real_abs (Val.finite_fin ..), real_pos,
      abs_of_nonneg (mul_nonneg (Nat.cast_nonneg _) (two_zpow_pos _).le)] at h
    refine ⟨hhigh.le, ?_⟩
    rw [show g + 1 - 128 = g - 127 by ring, real_pos]
    exact h
  · rename_i h
    rw [Bool.not_eq_true, lt_eq_false_iff (finite_scale hfin _) (finite_abs (Val.finite_fin ..)), real_scale hfin,
      real_abs (Val.finite_fin ..), real_pos, abs_of_nonneg (mul_nonneg (Nat.cast_nonneg _) (two_zpow_pos _).le)] at h
    refine ⟨?_, hlow⟩
    rw [real_pos]
    exact h

/-! ### The largest magnitude of a block -/

/-- One step of the search for the largest magnitude. -/
def larger (a x : Val) : Val := if Val.lt a x.abs then x.abs else a

/-- A value that is a magnitude. -/
def Val.magnitude (a : Val) : Prop := ∃ mag exp, a = .fin false mag exp

theorem Val.magnitude_abs {x : Val} (h : x.finite) : x.abs.magnitude := by
  obtain ⟨neg, mag, exp, rfl⟩ := Val.exists_of_finite h
  exact ⟨mag, exp, rfl⟩

theorem Val.finite_of_magnitude {a : Val} (h : a.magnitude) : a.finite := by
  obtain ⟨mag, exp, rfl⟩ := h
  rfl

theorem larger_spec {a x : Val} (ha : a.magnitude) (hx : x.finite) :
    (larger a x).magnitude ∧ (larger a x).real = max a.real |x.real| := by
  unfold larger
  by_cases h : Val.lt a x.abs = true
  · rw [if_pos h]
    rw [lt_iff (Val.finite_of_magnitude ha) (finite_abs hx), real_abs hx] at h
    exact ⟨Val.magnitude_abs hx, by rw [real_abs hx, max_eq_right h.le]⟩
  · rw [if_neg h]
    rw [Bool.not_eq_true, lt_eq_false_iff (Val.finite_of_magnitude ha) (finite_abs hx), real_abs hx] at h
    exact ⟨ha, (max_eq_left h).symm⟩

/-- The largest magnitude of a block is a bound that it reaches, or that it started with. -/
theorem foldl_larger : ∀ (xs : List Val) {a : Val}, a.magnitude → (∀ x ∈ xs, x.finite) →
    (xs.foldl larger a).magnitude ∧ a.real ≤ (xs.foldl larger a).real ∧ (∀ x ∈ xs, |x.real| ≤ (xs.foldl larger a).real) ∧
      ((xs.foldl larger a).real = a.real ∨ ∃ x ∈ xs, (xs.foldl larger a).real = |x.real|)
  | [], a, ha, _ => ⟨ha, le_rfl, fun _ h => absurd h List.not_mem_nil, .inl rfl⟩
  | x :: xs, a, ha, hx => by
    obtain ⟨hm, hr⟩ := larger_spec ha (hx x (List.mem_cons_self ..))
    obtain ⟨h1, h2, h3, h4⟩ := foldl_larger xs hm fun y hy => hx y (List.mem_cons_of_mem _ hy)
    rw [hr] at h2 h4
    rw [List.foldl_cons]
    refine ⟨h1, (le_max_left ..).trans h2, fun y hy => ?_, ?_⟩
    · rcases List.mem_cons.1 hy with rfl | hy
      · exact (le_max_right ..).trans h2
      · exact h3 y hy
    · rcases h4 with h4 | ⟨y, hy, h4⟩
      · rcases max_choice a.real |x.real| with h | h
        · exact .inl (h4.trans h)
        · exact .inr ⟨x, List.mem_cons_self .., h4.trans h⟩
      · exact .inr ⟨y, List.mem_cons_of_mem _ hy, h4⟩

/-! ### The choice among three candidates -/

section
variable {α : Type}

/-- The candidate of less error, the later one at a tie (R74). -/
def better (c d : Int × Nat × α) : Int × Nat × α := if d.2.1 ≤ c.2.1 then d else c

theorem better_eq (c d : Int × Nat × α) : better c d = c ∧ c.2.1 < d.2.1 ∨ better c d = d ∧ d.2.1 ≤ c.2.1 := by
  unfold better
  split
  · exact .inr ⟨rfl, ‹_›⟩
  · exact .inl ⟨rfl, not_le.1 ‹_›⟩

/-- Of three candidates in rising order of scale, the best has the least error, and the largest scale at a tie. -/
theorem better_of_three {c : Int → Int × Nat × α} (h1 : (c (-1)).1 ≤ (c 0).1) (h2 : (c 0).1 ≤ (c 1).1) :
    ∃ i ∈ [(-1 : Int), 0, 1], better (better (c (-1)) (c 0)) (c 1) = c i ∧
      ∀ j ∈ [(-1 : Int), 0, 1], (c i).2.1 < (c j).2.1 ∨ ((c i).2.1 = (c j).2.1 ∧ (c j).1 ≤ (c i).1) := by
  simp only [List.mem_cons, List.not_mem_nil, or_false, forall_eq_or_imp, forall_eq]
  rcases better_eq (c (-1)) (c 0) with ⟨e, h⟩ | ⟨e, h⟩ <;> rw [e]
  · rcases better_eq (c (-1)) (c 1) with ⟨e', h'⟩ | ⟨e', h'⟩ <;> rw [e']
    · exact ⟨-1, .inl rfl, rfl, by omega, by omega, by omega⟩
    · exact ⟨1, .inr (.inr rfl), rfl, by omega, by omega, by omega⟩
  · rcases better_eq (c 0) (c 1) with ⟨e', h'⟩ | ⟨e', h'⟩ <;> rw [e']
    · exact ⟨0, .inr (.inl rfl), rfl, by omega, by omega, by omega⟩
    · exact ⟨1, .inr (.inr rfl), rfl, by omega, by omega, by omega⟩

end

/-! ### A block of 32 values -/

/-- The targets of `quant`, each with its largest magnitude, which R74 calls M. -/
def quantTargets : List (Ty × Val) :=
  [(.e4m3, Val.ofInt 448 0), (.e5m2, Val.ofInt 57344 0), (.i8, Val.ofInt 127 0), (.l6, .fin false 55109 (-12))]

/-- M as the model has it, and the codes of M and -M. -/
theorem quantMax_of_mem {t : Ty} {m : Val} (h : (t, m) ∈ quantTargets) :
    m.finite ∧ m.real = (quantMax t).real ∧ (∃ mM eM, quantMax t = .fin false mM eM ∧ mM ≠ 0) ∧
      ∀ neg : Bool, (tyRound .rtz t (if neg then m.negate else m)).1 = quantMaxCode t neg := by
  simp only [quantTargets, List.mem_cons, List.not_mem_nil, or_false, Prod.mk.injEq] at h
  obtain ⟨rfl, rfl⟩ | ⟨rfl, rfl⟩ | ⟨rfl, rfl⟩ | ⟨rfl, rfl⟩ := h
  · have hq : quantMax .e4m3 = .fin false 14 5 := rfl
    refine ⟨rfl, ?_, ⟨14, 5, hq, by norm_num⟩, by decide⟩
    rw [hq, real_ofInt, real_pos]
    norm_num
  · have hq : quantMax .e5m2 = .fin false 7 13 := rfl
    refine ⟨rfl, ?_, ⟨7, 13, hq, by norm_num⟩, by decide⟩
    rw [hq, real_ofInt, real_pos]
    norm_num
  · exact ⟨rfl, rfl, ⟨127, 0, rfl, by norm_num⟩, by decide⟩
  · exact ⟨rfl, rfl, ⟨55109, -12, rfl, by norm_num⟩, by decide⟩

section
variable (t : Ty) (mode : Nat → Mode) (v : Nat → Val)

/-- The squared error of a candidate, lane by lane (R74). -/
theorem quantTry_eq {code : Int → Nat → Nat} (hcode : ∀ e, ∀ l < 32, (quantOne t (mode l) e (v l)).1 = code e l) (e : Int) :
    quantTry t ((List.range 32).map mode) ((List.range 32).map v) e =
    (e, ((List.range 32).map fun l => (units150 (v l) - units150 ((tyValue t (code e l)).scale (e - 127))).natAbs ^ 2).sum,
      (List.range 32).map fun l => quantOne t (mode l) e (v l)) := by
  have hsq (d : Int) : (d * d).toNat = d.natAbs ^ 2 := by
    rw [← Int.natAbs_mul_self, Int.toNat_natCast, sq]
  have hsum : ((List.range 32).map fun l => (units150 (v l) - units150 ((tyValue t (quantOne t (mode l) e (v l)).1).scale (e - 127))).natAbs ^ 2) =
      (List.range 32).map fun l => (units150 (v l) - units150 ((tyValue t (code e l)).scale (e - 127))).natAbs ^ 2 :=
    List.map_congr_left fun l hl => by rw [hcode e l (List.mem_range.1 hl)]
  rw [← hsum]
  unfold quantTry quantError
  simp only [List.zip_map', List.map_map, hsq, ← List.sum_eq_foldl]
  rfl

/-- The candidate scale at a distance from the least that reaches, with its error and codes (R74). -/
def candidate (t : Ty) (modes : List Mode) (xs : List Val) (e0 i : Int) : Int × Nat × List (Nat × Bool) :=
  quantTry t modes xs (max 0 (min 254 (e0 + i)))

/-- A block with a nonzero value is quantised at the best of three scales. -/
theorem quantFinite_eq {modes : List Mode} {xs : List Val} {e0 : Int} (h : (xs.foldl larger (Val.ofInt 0 0)).isZero = false)
    (he : quantExp t (xs.foldl larger (Val.ofInt 0 0)) = e0) {c : Int × Nat × List (Nat × Bool)}
    (hc : better (better (candidate t modes xs e0 (-1)) (candidate t modes xs e0 0)) (candidate t modes xs e0 1) = c) :
    quantFinite t modes xs = (c.1.toNat, c.2.2) := by
  subst he hc
  have hz : ¬ (xs.foldl (fun a x => if Val.lt a x.abs then x.abs else a) (Val.ofInt 0 0)).isZero = true :=
    fun e => Bool.noConfusion (h.symm.trans e)
  unfold quantFinite
  exact if_neg hz

variable {t mode v} {m : Val} {top : Nat} {e0 : Int}

/-- The largest magnitude of a block is that of any lane that no lane exceeds. -/
theorem largest_of_block (hf : ∀ l < 32, (v l).finite) (ht : top < 32) (hz : (v top).isZero = false)
    (hmax : ∀ l < 32, Val.lt (v top).abs (v l).abs = false) :
    ∃ mag exp, ((List.range 32).map v).foldl larger (Val.ofInt 0 0) = .fin false mag exp ∧ mag ≠ 0 ∧
      (Val.fin false mag exp).real = (v top).abs.real := by
  have hx : ∀ x ∈ (List.range 32).map v, x.finite := by
    simp only [List.mem_map, List.mem_range]
    rintro x ⟨l, hl, rfl⟩
    exact hf l hl
  obtain ⟨⟨mag, exp, hA⟩, h0, hle, hreach⟩ := foldl_larger ((List.range 32).map v) (a := Val.ofInt 0 0) ⟨0, 0, rfl⟩ hx
  have hmem {l : Nat} (hl : l < 32) : v l ∈ (List.range 32).map v := List.mem_map_of_mem (List.mem_range.2 hl)
  have htop := hle _ (hmem ht)
  have hreal : (Val.fin false mag exp).real = |(v top).real| := by
    rw [← hA]
    refine le_antisymm ?_ htop
    rcases hreach with h | ⟨x, hxm, h⟩
    · rw [h, real_ofInt]
      simp
    · obtain ⟨l, hl, rfl⟩ := List.mem_map.1 hxm
      have := (lt_eq_false_iff (finite_abs (hf _ ht)) (finite_abs (hf l (List.mem_range.1 hl)))).1 (hmax l (List.mem_range.1 hl))
      rw [real_abs (hf _ ht), real_abs (hf l (List.mem_range.1 hl))] at this
      rwa [h]
  have hne : (v top).real ≠ 0 := fun h => by
    rw [(isZero_iff (hf _ ht)).2 h] at hz
    exact Bool.noConfusion hz
  refine ⟨mag, exp, hA, ?_, hreal.trans (real_abs (hf _ ht)).symm⟩
  rintro rfl
  rw [real_pos, Nat.cast_zero, zero_mul] at hreal
  exact hne (abs_eq_zero.1 hreal.symm)

/-- The code of one lane at a scale, with M written another way. -/
theorem quantOne_eq (hm : (t, m) ∈ quantTargets) (mode : Mode) (e : Int) {x : Val} (hx : x.finite) :
    (quantOne t mode e x).1 = if Val.lt m (x.scale (127 - e)).abs then (tyRound .rtz t (if x.neg then m.negate else m)).1
      else (tyRound mode t (x.scale (127 - e))).1 := by
  obtain ⟨hmf, hreal, ⟨mM, eM, hq, -⟩, hcode⟩ := quantMax_of_mem hm
  have hqf : (quantMax t).finite := by rw [hq]; rfl
  have hy := finite_abs (finite_scale hx (127 - e))
  have hlt : Val.lt (quantMax t) (x.scale (127 - e)).abs = Val.lt m (x.scale (127 - e)).abs :=
    Bool.eq_iff_iff.2 (by rw [lt_iff hqf hy, lt_iff hmf hy, hreal])
  rw [hcode]
  simp only [quantOne, hlt]
  split <;> rfl

/-- The exponent that the quantiser finds is the least at which M reaches the block's largest magnitude. -/
theorem quantExp_of_block (hm : (t, m) ∈ quantTargets) (hf : ∀ l < 32, (v l).finite) (ht : top < 32) (hz : (v top).isZero = false)
    (hmax : ∀ l < 32, Val.lt (v top).abs (v l).abs = false) (h1 : Val.lt (m.scale (e0 - 127)) (v top).abs = false)
    (h2 : Val.lt (m.scale (e0 - 128)) (v top).abs = true) :
    quantExp t (((List.range 32).map v).foldl larger (Val.ofInt 0 0)) = e0 ∧
      (((List.range 32).map v).foldl larger (Val.ofInt 0 0)).isZero = false := by
  obtain ⟨mag, exp, hA, hne, hreal⟩ := largest_of_block hf ht hz hmax
  obtain ⟨hmf, hmreal, ⟨mM, eM, hq, hM⟩, -⟩ := quantMax_of_mem hm
  have hy := finite_abs (hf _ ht)
  rw [lt_eq_false_iff (finite_scale hmf _) hy, real_scale hmf, hmreal, ← hreal] at h1
  rw [lt_iff (finite_scale hmf _) hy, real_scale hmf, hmreal, ← hreal] at h2
  obtain ⟨g1, g2⟩ := quantExp_spec (t := t) (ea := exp) hne hM hq
  have hpos : 0 < (quantMax t).real := by
    rw [hq, real_pos]
    exact mul_pos (by exact_mod_cast Nat.pos_of_ne_zero hM) (two_zpow_pos _)
  rw [hA]
  exact ⟨reaching_unique hpos g1 g2 h1 h2, by simpa [Val.isZero] using hne⟩

end

/-! ### The rows -/

theorem l6Code_lt (neg : Bool) {f : Nat} (h : f < 32) : l6Code neg f < 64 := by
  unfold l6Code
  split <;> omega

/-- A code of L6 has six bits (R62). -/
theorem l6Round_lt (m : Mode) (x : Val) : (l6Round m x).1 < 64 := by
  cases x with
  | nan _ => exact (by norm_num : 32 < 64)
  | inf n => exact l6Code_lt n (by norm_num)
  | fin n mag e =>
    have hin {p : Nat → Bool} {f : Nat} (h : f ∈ ((List.range 32).filter fun f => !(n && f == 0)).filter p) : f < 32 :=
      List.mem_range.1 (List.mem_filter.1 (List.mem_filter.1 h).1).1
    unfold l6Round
    simp only
    split
    · decide
    · unfold l6RoundFin
      simp only
      split
      · rename_i lo hi hlo hhi
        have hl := hin (List.mem_of_getLast? hlo)
        have hh := hin (List.mem_of_head? hhi)
        split
        · exact l6Code_lt n hl
        · split
          · exact l6Code_lt n hh
          · exact l6Code_lt n hl
      · rename_i hi _ hhi
        split
        · exact l6Code_lt n (hin (List.mem_of_head? hhi))
        · decide
      · exact l6Code_lt n (by norm_num)

/-- What `quantBlock` reads of a lane: +0 outside the execution mask (R74). -/
def blockLane (s : State) (x : Args) (l : Nat) : Val :=
  if s.exec.getLsbD l then tyValue (srcTy x) (vectorTy s x (srcTy x) x.a l) else Val.ofInt 0 0

section
variable {s : State} {x : Args}

theorem quantBlock_special (h : ∃ l, l < 32 ∧ ((blockLane s x l).isNan || (blockLane s x l).isInf) = true) :
    quantBlock s x = (255, ((List.range 32).map (blockLane s x)).map fun v => (0, flagIf v.special fNV)) := by
  obtain ⟨l, hl, h⟩ := h
  have hany : ((List.range 32).map (blockLane s x)).any Val.special = true :=
    List.any_eq_true.2 ⟨_, List.mem_map_of_mem (List.mem_range.2 hl), h⟩
  exact if_pos hany

theorem quantBlock_finite (h : ∀ l < 32, (blockLane s x l).finite) :
    let q := quantFinite x.ty ((List.range 32).map (laneMode s x)) ((List.range 32).map (blockLane s x))
    quantBlock s x = (q.1, q.2.map fun c => (c.1, flagIf c.2 fNX)) := by
  have hany : ¬ ((List.range 32).map (blockLane s x)).any Val.special = true := by
    rw [List.any_eq_true]
    rintro ⟨y, hy, hs⟩
    obtain ⟨l, hl, rfl⟩ := List.mem_map.1 hy
    exact Bool.noConfusion ((h l (List.mem_range.1 hl)).symm.trans hs)
  exact if_neg hany

theorem code_of_codes (n : Nat) (f : Nat → Nat × Bool) {l : Nat} (h : l < 32) :
    ((n, ((List.range 32).map f).map fun c => (c.1, flagIf c.2 fNX)).2.getD l ((0, 0) : Nat × Flags)).1 = (f l).1 := by
  rw [List.map_map]
  exact congrArg Prod.fst (getD_map_range _ _ h)

/-- A block of zeros. -/
theorem quantBlock_zero (h : ∀ l < 32, (blockLane s x l).isZero = true) :
    (quantBlock s x).1 = 127 ∧ ∀ l < 32, ((quantBlock s x).2.getD l (0, 0)).1 = (tyRound .rne x.ty (Val.ofInt 0 0)).1 := by
  have hf : ∀ l < 32, (blockLane s x l).finite := fun l hl => by
    have := h l hl
    cases hv : blockLane s x l with
    | fin _ _ _ => rfl
    | nan _ => rw [hv] at this; exact Bool.noConfusion this
    | inf _ => rw [hv] at this; exact Bool.noConfusion this
  have hx : ∀ y ∈ (List.range 32).map (blockLane s x), y.finite ∧ |y.real| = 0 := by
    simp only [List.mem_map, List.mem_range]
    rintro y ⟨l, hl, rfl⟩
    exact ⟨hf l hl, abs_eq_zero.2 ((isZero_iff (hf l hl)).1 (h l hl))⟩
  obtain ⟨hm, -, -, hreach⟩ := foldl_larger ((List.range 32).map (blockLane s x)) (a := Val.ofInt 0 0) ⟨0, 0, rfl⟩ fun y hy => (hx y hy).1
  have hzero : (((List.range 32).map (blockLane s x)).foldl larger (Val.ofInt 0 0)).isZero = true := by
    rw [isZero_iff (Val.finite_of_magnitude hm)]
    rcases hreach with e | ⟨y, hy, e⟩
    · rw [e, real_ofInt]
      simp
    · rw [e, (hx y hy).2]
  have hq : quantFinite x.ty ((List.range 32).map (laneMode s x)) ((List.range 32).map (blockLane s x)) =
      (127, ((List.range 32).map (blockLane s x)).map fun _ => ((tyRound .rne x.ty (Val.ofInt 0 0)).1, false)) := if_pos hzero
  rw [quantBlock_finite hf, hq]
  refine ⟨rfl, fun l hl => ?_⟩
  rw [List.map_map]
  exact code_of_codes 127 _ hl

/-- A block of finite values, one of which is not zero: the best of the three scales about the least that reaches (R74). -/
theorem quantBlock_best {m : Val} {top : Nat} {e0 : Int} (hm : (x.ty, m) ∈ quantTargets) (hf : ∀ l < 32, (blockLane s x l).finite) (ht : top < 32)
    (hz : (blockLane s x top).isZero = false) (hmax : ∀ l < 32, Val.lt (blockLane s x top).abs (blockLane s x l).abs = false)
    (h1 : Val.lt (m.scale (e0 - 127)) (blockLane s x top).abs = false)
    (h2 : Val.lt (m.scale (e0 - 128)) (blockLane s x top).abs = true) :
    let code := fun (e : Int) (l : Nat) =>
      if Val.lt m ((blockLane s x l).scale (127 - e)).abs then (tyRound .rtz x.ty (if (blockLane s x l).neg then m.negate else m)).1
      else (tyRound (laneMode s x l) x.ty ((blockLane s x l).scale (127 - e))).1
    let sse := fun (e : Int) => ((List.range 32).map fun l =>
      (units150 (blockLane s x l) - units150 ((tyValue x.ty (code e l)).scale (e - 127))).natAbs ^ 2).sum
    let cand := fun (j : Int) => max 0 (min 254 (e0 + j))
    (∃ i ∈ [(-1 : Int), 0, 1], ((quantBlock s x).1 : Int) = cand i ∧
      ∀ j ∈ [(-1 : Int), 0, 1], sse (cand i) < sse (cand j) ∨ (sse (cand i) = sse (cand j) ∧ cand j ≤ cand i)) ∧
    ∀ l < 32, ((quantBlock s x).2.getD l (0, 0)).1 = code (quantBlock s x).1 l := by
  intro code sse cand
  have hcode : ∀ e, ∀ l < 32, (quantOne x.ty (laneMode s x l) e (blockLane s x l)).1 = code e l :=
    fun e l hl => quantOne_eq hm (laneMode s x l) e (hf l hl)
  obtain ⟨he, hnz⟩ := quantExp_of_block hm hf ht hz hmax h1 h2
  obtain ⟨i, hi, hbest, hall⟩ := better_of_three (c := candidate x.ty ((List.range 32).map (laneMode s x))
      ((List.range 32).map (blockLane s x)) e0) (by simp only [candidate, quantTry]; omega) (by simp only [candidate, quantTry]; omega)
  have hq := quantFinite_eq x.ty hnz he hbest
  simp only [candidate, quantTry_eq x.ty _ _ hcode] at hq hall
  rw [quantBlock_finite hf, hq]
  have hnat : ((cand i).toNat : Int) = cand i := Int.toNat_of_nonneg (le_max_left ..)
  refine ⟨⟨i, hi, hnat, hall⟩, fun l hl => ?_⟩
  have hback : code ((cand i).toNat : Int) l = (quantOne x.ty (laneMode s x l) (cand i) (blockLane s x l)).1 := by
    rw [hnat, hcode _ l hl]
  exact (code_of_codes (cand i).toNat (fun l => quantOne x.ty (laneMode s x l) (cand i) (blockLane s x l)) hl).trans hback.symm

end

/-- Settles O34: the elements, the quantiser's block, and the L6 codes. -/
theorem conversionResults : Obligations.ConversionResults := by
  unfold Obligations.ConversionResults
  intro s x h src mode w k one code scale l6 gives
  have hself := self_fresh s
  refine ⟨fun hr => laneResult_computes h hr hself (rfl : execCvt x s = _) rfl fun l => rfl, fun hw hr => ?_, fun hw hr => ?_,
    fun hr hl => ?_, fun hr hl => ?_, ⟨fun hs => ?_, fun hs => ?_, fun m top e0 hm hf ht hz hmax h1 h2 => ?_⟩,
    fun hr => laneResult_computes h hr hself (rfl : execDequant x s = _) rfl fun l => ?_,
    fun hr => ?_, fun hr => laneResult_computes h hr hself (rfl : execLcvtFrom x s = _) rfl fun l => rfl,
    fun hr => laneResult_computes h hr hself (rfl : execLcvtProd x s = _) rfl fun l => rfl⟩
  · exact computes_of (bits := 32) h hr hself x (rfl : execCvtIns x s = _) (if_neg (not_le.2 hw))
  · exact laneResult_computes h hr hself (rfl : execCvtIns x s = _) (if_pos hw) fun l => rfl
  · exact computes_of (bits := 32) h hr hself x (rfl : execQuant x s = _) (if_neg (by simpa using hl))
  · exact exec_raiseExec (rfl : execQuant x s = _) hr (if_pos (by simpa using hl))
  · rw [quantBlock_special hs, List.map_map]
    exact ⟨rfl, fun l hl => congrArg Prod.fst (getD_map_range _ _ hl)⟩
  · obtain ⟨h127, hc⟩ := quantBlock_zero hs
    exact ⟨congrArg Nat.cast h127, hc⟩
  · exact quantBlock_best hm hf ht hz hmax h1 h2
  · rfl
  · refine laneResult_computes h hr hself (rfl : execLcvtTo x s = _) rfl fun l => Prod.ext ?_ rfl
    have hlt : (tyRound (mode l) .l6 (tyValue x.ty (vecA s x x.a l))).1 < 64 := l6Round_lt ..
    show (tyRound (mode l) .l6 (tyValue x.ty (vecA s x x.a l))).1 % 2 ^ 6 = (tyRound (mode l) .l6 (tyValue x.ty (vecA s x x.a l))).1 % 256
    omega

end Sys2Proof.Machine
end

section

/-! ## Matrix instructions (O57)

The teams of an `mmag` sample FMT each for itself, and FMT is none of the words that have to agree. So a member whose format word is
unscaled takes no scale bytes, where the statement gives every member those of the format word of the team that joins last. -/

namespace Sys2Proof.Machine
open Sys2Proof

/-- One product element of each dimension, its blocks at 0, from slot 0 and tile 0 on. -/
def mixedArgs : Args :=
  { sup := false, d := 0, a := .imm 0, b := .imm 0, c := .reg 0, fn := 0, ty := .i32, rnd := 0, hint := 0, r61 := false
    lit := some 0x00100401 }

/-- The second team has joined under E4M3 times E4M3, unscaled. -/
def mixedJoined : Joined :=
  { member := 1, words := [0, 0, 0, 0, 0x00100401], bad := none, fmt := 0x33, rnd := 0, rkey := 0 }

/-- The operation that the second team has formed. -/
def mixedOp : Rendezvous :=
  { op := 0, joined := [mixedJoined], last := 0, began := false, fail := none, passes := [], left := [] }

/-- A team with slots and tiles of its own that are ready, and a scratchpad whose first scale byte is 1. -/
def mixedTeam : Team :=
  { (placeProgram State.reset 1).tm with
    slots := List.replicate 32 { Slot.none with owned := true, st := .ready }
    tiles := List.replicate 8 { Tile.none with owned := true, st := .ready }
    lcl := [(16384, 1)] }

/-- A gang of two teams whose second has joined an `mmag` unscaled; the first issues it under E4M3 times E4M3 with A scaled. -/
def mixedGang : State :=
  let s := placeProgram State.reset 1
  { s with
    sp := { s.sp with fmt := 0x433 }
    tm := mixedTeam
    teams := [{ mixedTeam with id := 2, member := 1, core := 1 }]
    gangs := s.gangs.map fun g => { g with nteams := 2, rdvs := [mixedOp] }
    eng := { s.eng with
      banks := { cluster := 0, bank := 32, role := .cache, fifo := [], sick := [], last := 0 } ::
        (List.range 4).map fun k => { cluster := 0, bank := k, role := .scratch, fifo := [], sick := [], last := 0 } } }

theorem mixedGang_wf : mixedGang.wf = true := by decide +kernel

/-- What the first team's issue adds to the operation. -/
def mixedMine : Joined :=
  { member := 0, words := [0, 0, 0, 0, 0x00100401], bad := none, fmt := 0x433, rnd := 0, rkey := 0 }

/-- The state in which the first team joins. -/
def mixedIssued : State :=
  { mixedGang with
    tm := { mixedGang.tm with mmags := 1 }
    sp := { mixedGang.sp with
      request := some { pc := mixedGang.sp.pc, next := pcAfter (.mmag mixedArgs) mixedGang, op := 0xB4, dest := 0, words := [0] } } }

theorem mixedGang_ready : Ready (.mmag mixedArgs) mixedGang := rfl

theorem mmagBody_mixed : mmagBody (Instr.mmag mixedArgs).shape mixedArgs mixedGang = .wait .rendezvous (joinRdv mixedIssued 0 mixedMine) := by
  rfl

theorem getD_updateAt {α : Type} (f : α → α) (d : α) : ∀ (l : List α) (n k : Nat),
    (updateAt l n f).getD k d = if k = n ∧ n < l.length then f (l.getD k d) else l.getD k d
  | [], n, k => by cases n <;> simp [updateAt]
  | x :: l, 0, k => by cases k <;> simp [updateAt]
  | x :: l, n + 1, 0 => by simp [updateAt]
  | x :: l, n + 1, k + 1 => by simpa [updateAt] using getD_updateAt f d l n k

theorem find_updateWhere {p q : Team → Bool} {f : Team → Team} (hp : ∀ t, p (f t) = p t) (l : List Team) :
    (updateWhere q f l).find? p = (l.find? p).map fun t => if q t then f t else t := by
  rw [updateWhere, List.find?_map]
  congr 2
  funext t
  by_cases h : q t <;> simp [h, hp]

/-- A change of a team that keeps what a search looks at, and a field, keeps that field of the team found. -/
theorem find_updTeam_field {α : Type} (g : Team → α) {s : State} {tid : Nat} {f : Team → Team} {p : Team → Bool} (hid : ∀ t, (f t).id = t.id)
    (hg : ∀ t, g (f t) = g t) (hp : ∀ t, p (f t) = p t) :
    g (((allTeams (updTeam s tid f)).find? p).getD Team.blank) = g (((allTeams s).find? p).getD Team.blank) := by
  unfold updTeam
  split
  · unfold allTeams
    dsimp only
    rw [hid]
    split
    · rfl
    · rw [List.find?_cons, List.find?_cons, hp]
      cases p s.tm
      · rfl
      · exact hg _
  · unfold allTeams
    dsimp only
    have hmap : g (((updateWhere (fun t => t.id == tid) f s.teams).find? p).getD Team.blank) = g ((s.teams.find? p).getD Team.blank) := by
      rw [find_updateWhere hp]
      cases s.teams.find? p with
      | none => rfl
      | some t =>
        show g (if t.id == tid then f t else t) = g t
        split
        · exact hg t
        · rfl
    split
    · exact hmap
    · rw [List.find?_cons, List.find?_cons]
      cases p s.tm
      · exact hmap
      · rfl

theorem length_updateAt {α : Type} (f : α → α) : ∀ (l : List α) (n : Nat), (updateAt l n f).length = l.length
  | [], n => by cases n <;> rfl
  | x :: l, 0 => rfl
  | x :: l, n + 1 => by simp [updateAt, length_updateAt f l n]

/-- A change of a slot keeps the number, and the count of slots, of every team that is found. -/
theorem memberTeam_updSlot_id (s : State) (tid n gang member : Nat) (f : Slot → Slot) :
    (memberTeam (updSlot s tid n f) gang member).id = (memberTeam s gang member).id :=
  find_updTeam_field Team.id (fun _ => rfl) (fun _ => rfl) fun _ => rfl

theorem findTeam_updSlot_id (s : State) (tid n k : Nat) (f : Slot → Slot) :
    (findTeam (updSlot s tid n f) k).id = (findTeam s k).id := find_updTeam_field Team.id (fun _ => rfl) (fun _ => rfl) fun _ => rfl

theorem findTeam_updSlot_slots (s : State) (tid n k : Nat) (f : Slot → Slot) :
    (findTeam (updSlot s tid n f) k).slots.length = (findTeam s k).slots.length :=
  find_updTeam_field (fun t => t.slots.length) (fun _ => rfl) (fun _ => length_updateAt ..) fun _ => rfl

/-- A team that is there is found with its change. -/
theorem findTeam_updTeam {s : State} {tid : Nat} {f : Team → Team} (hid : ∀ t, (f t).id = t.id) (ht : (findTeam s tid).id = tid) (h0 : tid ≠ 0) :
    findTeam (updTeam s tid f) tid = f (findTeam s tid) := by
  unfold updTeam
  split
  next h =>
    have hne : s.tm.id ≠ 0 := h ▸ h0
    simp [findTeam, allTeams, hid, h, h0]
  next h =>
    have hfind : ((s.teams.find? fun t => t.id == tid).getD Team.blank).id = tid →
        ((updateWhere (fun t => t.id == tid) f s.teams).find? fun t => t.id == tid).getD Team.blank =
          f ((s.teams.find? fun t => t.id == tid).getD Team.blank) := by
      rw [find_updateWhere fun t => by rw [hid]]
      cases hq : s.teams.find? fun t => t.id == tid with
      | none => exact fun hb => absurd hb.symm h0
      | some t => exact fun hb => if_pos (beq_iff_eq.2 hb)
    by_cases hz : s.tm.id = 0 <;> simp_all [findTeam, allTeams]

theorem slotAt_findTeam_updSlot {s : State} {tid n k : Nat} {f : Slot → Slot} (ht : (findTeam s tid).id = tid) (h0 : tid ≠ 0) :
    slotAt (findTeam (updSlot s tid n f) tid) k =
      if k = n ∧ n < (findTeam s tid).slots.length then f (slotAt (findTeam s tid) k) else slotAt (findTeam s tid) k :=
  (congrArg (slotAt · k) (findTeam_updTeam (f := fun t => { t with slots := updateAt t.slots n f }) (fun _ => rfl) ht h0)).trans
    (getD_updateAt f Slot.none _ n k)

/-- A slot of a member with bytes delivered. -/
def fillSlot (s : State) (gang member n : Nat) (bytes : Sparse 8) (sick : Bool) : State :=
  updSlot s (memberTeam s gang member).id n fun o => { o with st := .ready, poison := sick, bytes := bytes }

/-- A delivery fills four slots. -/
theorem deliverTo_eq (s : State) (gang : Nat) (words : List Word) (j : Joined) : ∃ b c d p q r t,
    deliverTo s gang words j =
      fillSlot (fillSlot (fillSlot (fillSlot s gang j.member (words.getD 2 0).toNat
        ((blockSlots s (memberTeam s gang (blockMembers (findGang s gang).nteams j.member).1).id (words.getD 0 0).toNat
          (mfmt j.fmt).abs).getD 0 []) p) gang j.member ((words.getD 2 0).toNat + 1) b q)
        gang j.member ((words.getD 2 0).toNat + 2) c r) gang j.member ((words.getD 2 0).toNat + 3) d t :=
  ⟨_, _, _, _, _, _, _, rfl⟩

theorem findTeam_deliverTo_id (s : State) (gang : Nat) (words : List Word) (j : Joined) (k : Nat) :
    (findTeam (deliverTo s gang words j) k).id = (findTeam s k).id := by
  obtain ⟨b, c, d, p, q, r, t, h⟩ := deliverTo_eq s gang words j
  simp only [h, fillSlot, findTeam_updSlot_id]

theorem memberTeam_deliverTo_id (s : State) (gang : Nat) (words : List Word) (j : Joined) (k : Nat) :
    (memberTeam (deliverTo s gang words j) gang k).id = (memberTeam s gang k).id := by
  obtain ⟨b, c, d, p, q, r, t, h⟩ := deliverTo_eq s gang words j
  simp only [h, fillSlot, memberTeam_updSlot_id]

theorem findTeam_deliverTo_slots (s : State) (gang : Nat) (words : List Word) (j : Joined) (k : Nat) :
    (findTeam (deliverTo s gang words j) k).slots.length = (findTeam s k).slots.length := by
  obtain ⟨b, c, d, p, q, r, t, h⟩ := deliverTo_eq s gang words j
  simp only [h, fillSlot, findTeam_updSlot_slots]

/-- The first slot that a delivery fills holds the first lines of the A block, with scales only as the member's own FMT says. -/
theorem deliverTo_bytes {s : State} {gang tid : Nat} {words : List Word} {j : Joined} (htid : (memberTeam s gang j.member).id = tid)
    (ht : (findTeam s tid).id = tid) (h0 : tid ≠ 0) (hn : (words.getD 2 0).toNat < (findTeam s tid).slots.length) :
    (slotAt (findTeam (deliverTo s gang words j) tid) (words.getD 2 0).toNat).bytes =
      (blockSlots s (memberTeam s gang (blockMembers (findGang s gang).nteams j.member).1).id (words.getD 0 0).toNat
        (mfmt j.fmt).abs).getD 0 [] := by
  obtain ⟨b, c, d, p, q, r, t, h⟩ := deliverTo_eq s gang words j
  rw [h]
  generalize (words.getD 2 0).toNat = n at hn
  generalize (blockSlots _ _ _ _).getD 0 [] = a
  simp [fillSlot, slotAt_findTeam_updSlot, memberTeam_updSlot_id, findTeam_updSlot_id, htid, ht, h0, hn]

theorem length_lclRead (s : State) (tid a n : Nat) : (lclRead s tid a n).length = n := by
  unfold lclRead
  split <;> simp [length_peekAll]

theorem peek_pokeAll_of_le {w : Nat} : ∀ (xs : List (BitVec w)) (m : Sparse w) (k j : Nat), cellsWf m = true → k + xs.length ≤ j →
    peek (pokeAll m k xs) j = peek m j
  | [], _, _, _, _, _ => rfl
  | x :: xs, m, k, j, hm, hj => by
    rw [List.length_cons] at hj
    rw [pokeAll, peek_pokeAll_of_le xs _ _ _ (cellsWf_poke k x hm) (by omega), peek_poke hm, if_neg (by omega)]

/-- An unscaled block puts nothing into the side area. -/
theorem blockSlots_unscaled (s : State) (tid addr : Nat) : peek ((blockSlots s tid addr false).getD 0 []) 8192 = 0 := by
  show peek (pokeAll [] 0 (lclRead s tid (addr + 8192 * 0) 8192)) 8192 = 0
  exact peek_pokeAll_of_le _ [] 0 8192 rfl (by rw [length_lclRead])

theorem findTeam_nextPass (s : State) (gang op : Nat) (words : List Word) (j : Joined) (tid : Nat) :
    findTeam (nextPass s gang op words j) tid = findTeam s tid := by
  unfold nextPass
  split
  · rfl
  · dsimp only
    split <;> rfl

theorem findTeam_park (w : Wait) (s : State) (tid : Nat) : findTeam (park w s) tid = findTeam s tid := rfl

/-- An operation that every member has joined, without a failure, begins: delivery to each member, then the first pass of each. -/
theorem beginRdv_eq {s : State} {gang op : Nat} {r : Rendezvous} {l : List Joined} {words : List Word} (hr : findRdv s gang op = some r)
    (hgo : (r.began || !r.formed (findGang s gang).nteams) = false) (hl : sortBy (fun j => j.member) r.joined = l)
    (hw : (l.map fun j => j.words).headD [] = words) (hsame : (l.any fun j => j.words != words) = false)
    (hbad : firstSome (fun (j : Joined) => j.bad) l = none) :
    beginRdv s gang op =
      l.foldl (fun s j => nextPass s gang op words j) (l.foldl (fun s j => deliverTo s gang words j)
        (updRdv s gang op fun r => { r with began := true, fail := none })) := by
  simp only [beginRdv, hr, hgo, hl, hw, hsame, hbad, Bool.false_eq_true, if_false, Option.isSome_none]

/-- Both members have joined. -/
def mixedFormed : State := updRdv mixedIssued 1 0 fun r => { r with joined := r.joined ++ [mixedMine], last := mixedIssued.gt }

theorem joinRdv_mixed : joinRdv mixedIssued 0 mixedMine = beginRdv mixedFormed 1 0 := rfl

/-- The operation with both members. -/
def mixedWhole : Rendezvous := { mixedOp with joined := [mixedJoined, mixedMine] }

theorem beginRdv_mixed : beginRdv mixedFormed 1 0 =
    [mixedMine, mixedJoined].foldl (fun s j => nextPass s 1 0 mixedMine.words j)
      ([mixedMine, mixedJoined].foldl (fun s j => deliverTo s 1 mixedMine.words j)
        (updRdv mixedFormed 1 0 fun r => { r with began := true, fail := none })) :=
  beginRdv_eq (r := mixedWhole) rfl rfl rfl rfl rfl rfl

/-- The second team's first slot takes no scale. -/
theorem mixed_scale : peek (slotAt (findTeam (joinRdv mixedIssued 0 mixedMine) 2) 0).bytes 8192 = 0 := by
  rw [joinRdv_mixed, beginRdv_mixed]
  simp only [List.foldl_cons, List.foldl_nil, findTeam_nextPass]
  refine (congrArg (peek · 8192) (deliverTo_bytes (words := mixedMine.words) ?_ ?_ (by norm_num) ?_)).trans (blockSlots_unscaled ..)
  · rw [memberTeam_deliverTo_id]
    rfl
  · rw [findTeam_deliverTo_id]
    rfl
  · rw [findTeam_deliverTo_slots]
    decide

theorem exec_mixed : exec (.mmag mixedArgs) mixedGang = .next (park .rendezvous (joinRdv mixedIssued 0 mixedMine)) :=
  exec_wait (rfl : execMmag mixedArgs mixedGang = _) mixedGang_ready mmagBody_mixed

theorem findTeam_of_park {t u : State} {w : Wait} (h : (.next (park w t) : Host.Outcome State Fault Refusal) = .next (park w u)) (k : Nat) :
    findTeam t k = findTeam u k := by
  simpa only [findTeam_park] using congrArg (findTeam · k) (Host.Outcome.next.inj h)

/-- The scale that the statement delivers. -/
theorem mixed_wanted : (lclRead mixedGang 1 16384 256).getD 0 0 = 1 := by
  rw [lclRead, show lclTeamOf mixedGang 1 16384 = some 1 from rfl]
  exact getD_peekAll _ _ _ _ (by norm_num)

/-- A record that the clause about `mmag` does not speak of. -/
def mixedRecord : TRec :=
  { efmt := 0, bs := false, rank := 0, kind := [], scr := false, fill := 0, base := 0, dim := [], border := [], stride := [], sidecar := 0
    budget := 0, lvl := [] }

/-- Refutes O57: the first team issues its `mmag` under a scaled format word, and the second team, which has joined under an unscaled one,
gets no scale bytes. -/
theorem not_matrixInstructionsComplete : ¬ Obligations.MatrixInstructionsComplete := by
  unfold Obligations.MatrixInstructionsComplete
  intro h
  obtain ⟨-, -, -, -, -, -, -, -, -, -, -, -, -, -, -, -, -, -, hjoin, -⟩ :=
    h mixedGang mixedGang mixedArgs .fp8 mixedRecord [] { pc := 0, next := 0, op := 0, dest := 0, words := [] } mixedOp mixedGang_wf
  obtain ⟨t, y, ht, -, -, -, -, -, -, hall⟩ := hjoin ⟨⟨mixedGang_ready, by decide⟩, rfl, rfl, rfl, List.mem_singleton_self _, rfl, rfl⟩
    ⟨by decide +kernel, ⟨rfl, rfl⟩, ⟨rfl, rfl⟩, rfl, rfl, by decide +kernel, by decide +kernel⟩
    ⟨rfl, by decide +kernel, by decide +kernel⟩ (by decide +kernel) (by decide +kernel) (by decide +kernel)
  obtain ⟨hdelivered, -⟩ := hall mixedJoined (List.mem_append_left _ (List.mem_singleton_self _))
  obtain ⟨-, -, -, hscale⟩ := hdelivered 0 (by norm_num)
  have hteam := findTeam_of_park (ht.symm.trans exec_mixed) 2
  have hone : peek (slotAt (findTeam t 2) 0).bytes 8192 = 1 := (hscale rfl 0 (by norm_num)).trans mixed_wanted
  rw [hteam, mixed_scale] at hone
  exact absurd hone (by decide)

end Sys2Proof.Machine
end

section

/-! ## FP32 patterns in the order of their values (O31)

A place is the magnitude of a pattern: the patterns from +0 up to infinity, which stands for 2^128. `placeReal` is the number of a place; the
places next to a number are those of `placeBelow` and `placeAbove`, and an FP32 result within a bound lies between two of them. -/

namespace Sys2Proof.Machine
open Sys2Proof

/-- The place of an infinity. -/
def infPlace : Nat := 0x7F800000

/-- The number of a place in units of 2^-149. -/
def placeMag (p : Nat) : Nat := (p % 2 ^ 23 + if p / 2 ^ 23 = 0 then 0 else 2 ^ 23) * 2 ^ (p / 2 ^ 23 - 1)

/-- The number of a place. -/
noncomputable def placeReal (p : Nat) : ℝ := placeMag p * 2 ^ (-149 : Int)

/-- The distance from a place to the next. -/
theorem placeMag_succ (p : Nat) : placeMag (p + 1) = placeMag p + 2 ^ (p / 2 ^ 23 - 1) := by
  unfold placeMag
  by_cases h : p % 2 ^ 23 = 2 ^ 23 - 1
  · have h1 : (p + 1) / 2 ^ 23 = p / 2 ^ 23 + 1 := by omega
    have h2 : (p + 1) % 2 ^ 23 = 0 := by omega
    rw [h1, h2, h, if_neg (by omega)]
    generalize p / 2 ^ 23 = E
    rcases E with _ | E
    · norm_num
    · rw [if_neg (by omega), Nat.add_sub_cancel, Nat.add_sub_cancel, Nat.pow_succ]
      ring
  · have h1 : (p + 1) / 2 ^ 23 = p / 2 ^ 23 := by omega
    have h2 : (p + 1) % 2 ^ 23 = p % 2 ^ 23 + 1 := by omega
    rw [h1, h2]
    ring

theorem placeReal_succ (p : Nat) : placeReal (p + 1) = placeReal p + 2 ^ (((p / 2 ^ 23 - 1 : Nat) : Int) - 149) := by
  rw [placeReal, placeMag_succ, placeReal, Nat.cast_add, add_mul, Nat.cast_pow, Nat.cast_ofNat, ← zpow_natCast, sub_eq_add_neg,
    zpow_add₀ (by norm_num : (2 : ℝ) ≠ 0)]

theorem placeReal_strictMono : StrictMono placeReal := by
  refine strictMono_nat_of_lt_succ fun p => ?_
  rw [placeReal_succ]
  exact lt_add_of_pos_right _ (two_zpow_pos _)

theorem placeReal_nonneg (p : Nat) : 0 ≤ placeReal p := mul_nonneg (Nat.cast_nonneg _) (two_zpow_pos _).le

theorem placeReal_inf : placeReal infPlace = 2 ^ (128 : Int) := by
  rw [placeReal, show placeMag infPlace = 2 ^ 23 * 2 ^ 254 from rfl, Nat.cast_mul, Nat.cast_pow, Nat.cast_pow, Nat.cast_ofNat, ← zpow_natCast,
    ← zpow_natCast, ← zpow_add₀ (by norm_num), ← zpow_add₀ (by norm_num)]
  rfl

/-- The place of a magnitude of at most 24 bits in units of 2^q. -/
def gridPlace (n : Nat) (q : Int) : Nat := if n < 2 ^ 23 then n else (q + 150).toNat * 2 ^ 23 + (n - 2 ^ 23)

section
variable {n : Nat} {q : Int} (hq : -149 ≤ q) (hn : n < 2 ^ 24) (hs : n < 2 ^ 23 → q = -149)
include hq hn hs

theorem gridPlace_div : ((gridPlace n q / 2 ^ 23 - 1 : Nat) : Int) = q + 149 := by
  unfold gridPlace
  split
  next h =>
    rw [hs h, Nat.div_eq_of_lt h]
    rfl
  next h =>
    have : ((q + 150).toNat * 2 ^ 23 + (n - 2 ^ 23)) / 2 ^ 23 = (q + 150).toNat := by omega
    rw [this]
    omega

theorem placeReal_grid : placeReal (gridPlace n q) = n * 2 ^ q := by
  have hp : (2 : ℝ) ^ q = (2 : ℝ) ^ (q + 149).toNat * 2 ^ (-149 : Int) := by
    rw [← zpow_natCast, ← zpow_add₀ (by norm_num), Int.toNat_of_nonneg (by omega)]
    congr 1
    ring
  rw [placeReal, placeMag]
  by_cases h : n < 2 ^ 23
  · rw [gridPlace, if_pos h, Nat.div_eq_of_lt h, Nat.mod_eq_of_lt h, hs h]
    norm_num
  · obtain ⟨E, hE⟩ : ∃ E, (q + 150).toNat = E + 1 := ⟨(q + 149).toNat, by omega⟩
    have hd : ((E + 1) * 2 ^ 23 + (n - 2 ^ 23)) / 2 ^ 23 = E + 1 := by omega
    have hm : ((E + 1) * 2 ^ 23 + (n - 2 ^ 23)) % 2 ^ 23 = n - 2 ^ 23 := by omega
    rw [gridPlace, if_neg h, hE, hd, hm, if_neg (by omega), hp, show (q + 149).toNat = E by omega, Nat.sub_add_cancel (by omega),
      Nat.add_sub_cancel]
    push_cast
    ring

theorem placeReal_grid_succ : placeReal (gridPlace n q + 1) = (n + 1) * 2 ^ q := by
  rw [placeReal_succ, placeReal_grid hq hn hs, gridPlace_div hq hn hs]
  simp only [add_sub_cancel_right]
  ring

end

/-! ### Rounding to a grid -/

/-- A number in units of 2^q, rounded down. -/
def gridFloor (mag : Nat) (exp q : Int) : Nat := if q ≤ exp then mag * 2 ^ (exp - q).toNat else mag / 2 ^ (q - exp).toNat

theorem two_zpow_sub {a b : Int} (h : a ≤ b) : (2 : ℝ) ^ b = 2 ^ a * ((2 ^ (b - a).toNat : Nat) : ℝ) := by
  rw [Nat.cast_pow, Nat.cast_ofNat, ← zpow_natCast, ← zpow_add₀ (by norm_num), Int.toNat_of_nonneg (by omega), add_sub_cancel]

theorem roundAt_rtz (mag : Nat) (exp q : Int) : (roundAt .rtz false mag exp q).1 = gridFloor mag exp q := by
  unfold roundAt gridFloor roundQuot
  split
  · rfl
  · dsimp only
    split <;> rfl

theorem gridFloor_spec (mag : Nat) (exp q : Int) :
    (gridFloor mag exp q : ℝ) * 2 ^ q ≤ mag * 2 ^ exp ∧ mag * 2 ^ exp < ((gridFloor mag exp q : ℝ) + 1) * 2 ^ q := by
  unfold gridFloor
  split
  next h =>
    have : (mag : ℝ) * 2 ^ exp = ((mag * 2 ^ (exp - q).toNat : Nat) : ℝ) * 2 ^ q := by
      rw [two_zpow_sub h, Nat.cast_mul]
      ring
    rw [this]
    exact ⟨le_rfl, mul_lt_mul_of_pos_right (lt_add_one _) (two_zpow_pos q)⟩
  next h =>
    have hd := Nat.two_pow_pos (q - exp).toNat
    have h1 : ((mag / 2 ^ (q - exp).toNat : Nat) : ℝ) * ((2 ^ (q - exp).toNat : Nat) : ℝ) ≤ mag := by exact_mod_cast Nat.div_mul_le_self ..
    have h2 : (mag : ℝ) < (((mag / 2 ^ (q - exp).toNat : Nat) : ℝ) + 1) * ((2 ^ (q - exp).toNat : Nat) : ℝ) := by
      exact_mod_cast Nat.lt_mul_of_div_lt (Nat.lt_succ_self _) hd
    have h3 := mul_le_mul_of_nonneg_left h1 (two_zpow_pos exp).le
    have h4 := mul_lt_mul_of_pos_left h2 (two_zpow_pos exp)
    rw [two_zpow_sub (show exp ≤ q by omega)]
    exact ⟨by linarith, by linarith⟩

/-- Rounding up gives the floor where it is exact, and else the next integer. -/
theorem roundAt_rup (mag : Nat) (exp q : Int) :
    ((roundAt .rup false mag exp q).1 = gridFloor mag exp q ∧ (gridFloor mag exp q : ℝ) * 2 ^ q = mag * 2 ^ exp) ∨
      ((roundAt .rup false mag exp q).1 = gridFloor mag exp q + 1 ∧ (gridFloor mag exp q : ℝ) * 2 ^ q < mag * 2 ^ exp) := by
  have hspec := (gridFloor_spec mag exp q).1
  unfold roundAt gridFloor roundQuot at *
  split
  next h =>
    refine .inl ⟨rfl, ?_⟩
    rw [two_zpow_sub h, Nat.cast_mul]
    ring
  next h =>
    rw [if_neg h] at hspec
    dsimp only
    have heq : (mag : ℝ) * 2 ^ exp = ((mag / 2 ^ (q - exp).toNat : Nat) : ℝ) * 2 ^ q ↔ mag % 2 ^ (q - exp).toNat = 0 := by
      rw [two_zpow_sub (show exp ≤ q by omega), mul_left_comm, mul_comm (mag : ℝ), mul_right_inj' (two_zpow_pos _).ne']
      norm_cast
      have := Nat.div_add_mod' mag (2 ^ (q - exp).toNat)
      omega
    split
    next hr => exact .inl ⟨rfl, (heq.2 hr).symm⟩
    next hr => exact .inr ⟨rfl, lt_of_le_of_ne hspec fun he => hr (heq.1 he.symm)⟩

/-- The unit in the last place of a magnitude, as an exponent. -/
def gridExp (mag : Nat) (exp : Int) : Int := max ((Nat.log2 mag : Int) + exp) (-126) - 23

theorem gridExp_ge (mag : Nat) (exp : Int) : -149 ≤ gridExp mag exp := by
  unfold gridExp
  omega

section
variable {mag : Nat} (h0 : mag ≠ 0) (exp : Int)
include h0

theorem gridFloor_lt : gridFloor mag exp (gridExp mag exp) < 2 ^ 24 := by
  have h1 := (gridFloor_spec mag exp (gridExp mag exp)).1
  have h2 := (log2_real h0 exp).2
  have h3 : (2 : ℝ) ^ ((Nat.log2 mag : Int) + exp + 1) ≤ 2 ^ (24 : Int) * 2 ^ gridExp mag exp := by
    rw [← zpow_add₀ (by norm_num)]
    refine zpow_le_zpow_right₀ (by norm_num) ?_
    unfold gridExp
    omega
  have h4 := lt_of_mul_lt_mul_right (h1.trans_lt (h2.trans_le h3)) (two_zpow_pos _).le
  exact_mod_cast h4

theorem gridFloor_small (h : gridFloor mag exp (gridExp mag exp) < 2 ^ 23) : gridExp mag exp = -149 := by
  by_contra hne
  have hq : (Nat.log2 mag : Int) + exp = 23 + gridExp mag exp := by
    unfold gridExp at hne ⊢
    omega
  have h1 := (log2_real h0 exp).1.trans_lt (gridFloor_spec mag exp (gridExp mag exp)).2
  rw [hq, zpow_add₀ (by norm_num)] at h1
  have h2 := lt_of_mul_lt_mul_right h1 (two_zpow_pos _).le
  have h3 : 2 ^ 23 < gridFloor mag exp (gridExp mag exp) + 1 := by exact_mod_cast h2
  omega

end

/-- The pattern that a magnitude of FP32 is rounded to, through its place on the grid. -/
theorem roundFin_f32 {m : Mode} (hm : m = .rtz ∨ m = .rup) (neg : Bool) (mag : Nat) (exp : Int) :
    (fmtF32.roundFin m neg mag exp).1 =
      let q := gridExp mag exp
      let n := (roundAt m neg mag exp q).1
      if (255 : Int) ≤ (if n = 2 ^ 24 then q + 1 else q) + 150 then (fmtF32.overflow m neg).1
      else fmtF32.sign neg + if n = 2 ^ 24 then gridPlace (2 ^ 23) (q + 1) else gridPlace n q := by
  have hpast : (fmtF32.beyond mag exp && !fmtF32.ieee) = false := by simp [fmtF32]
  have hq : max ((Nat.log2 mag : Int) + exp) (1 - fmtF32.bias) - fmtF32.mbits = gridExp mag exp := rfl
  have hb (q : Int) : q + fmtF32.mbits + fmtF32.bias = q + 150 := by
    rw [show (fmtF32.mbits : Int) = 23 from rfl, show fmtF32.bias = 127 from rfl]
    ring
  have hmax : (2 : Int) ^ fmtF32.ebits - (if fmtF32.ieee then 1 else 0) = 255 := rfl
  have hmbits : fmtF32.mbits = 23 := rfl
  unfold Fmt.roundFin
  rcases hm with rfl | rfl <;>
  · simp only [hpast, Bool.false_eq_true, if_false, ite_self, hq, hb, hmax, ge_iff_le]
    simp only [hmbits, gridPlace]
    generalize (roundAt _ neg mag exp (gridExp mag exp)).1 = n
    by_cases hn : n = 2 ^ 24
    · simp only [hn, if_true]
      split <;> simp
    · simp only [hn, if_false]
      split <;> simp

/-! ### The places next to a number -/

section
variable {n : Nat} {q : Int} (hn : n < 2 ^ 24) (h : ¬ (255 : Int) ≤ q + 150)
include hn h

theorem gridPlace_lt_inf : gridPlace n q < infPlace := by
  unfold gridPlace infPlace
  split <;> omega

end

theorem inf_le_gridPlace {n : Nat} {q : Int} (hs : n < 2 ^ 23 → q = -149) (h : (255 : Int) ≤ q + 150) : infPlace ≤ gridPlace n q := by
  have hn : ¬ n < 2 ^ 23 := fun hlt => by
    rw [hs hlt] at h
    exact absurd h (by norm_num)
  have hq : 255 ≤ (q + 150).toNat := by omega
  rw [gridPlace, if_neg hn]
  exact (Nat.mul_le_mul_right (2 ^ 23) hq).trans (Nat.le_add_right ..)

/-- The next magnitude, with its carry into the exponent, has the next place. -/
theorem gridPlace_succ {n : Nat} {q : Int} (hq : -149 ≤ q) (hn : n < 2 ^ 24) (hs : n < 2 ^ 23 → q = -149) :
    (if n + 1 = 2 ^ 24 then gridPlace (2 ^ 23) (q + 1) else gridPlace (n + 1) q) = gridPlace n q + 1 := by
  apply placeReal_strictMono.injective
  rw [placeReal_grid_succ hq hn hs]
  split
  next h =>
    have hn' : (n : ℝ) + 1 = 2 ^ 23 * 2 := by exact_mod_cast h
    rw [placeReal_grid (by omega) (by norm_num) (fun h => absurd h (lt_irrefl _)), zpow_add_one₀ (by norm_num), hn']
    push_cast
    ring
  next h =>
    rw [placeReal_grid hq (by omega) (fun h => hs (by omega)), Nat.cast_succ]

theorem placeBelow_of_small {i : Nat} (hi : i ≠ 0) {e : Int} (h : ¬ (128 : Int) ≤ (Nat.log2 i : Int) + e) :
    placeBelow i e = gridPlace (gridFloor i e (gridExp i e)) (gridExp i e) := by
  have hn := (gridFloor_lt hi e).ne
  have hq : ¬ (255 : Int) ≤ gridExp i e + 150 := by
    unfold gridExp
    omega
  rw [placeBelow, if_neg hi, if_neg h, Fmt.round, if_neg hi, roundFin_f32 (.inl rfl)]
  simp only [roundAt_rtz, hn, hq, if_false]
  exact Nat.zero_add _

theorem placeBelow_le_inf (i : Nat) (e : Int) : placeBelow i e ≤ infPlace := by
  by_cases hi : i = 0
  · rw [placeBelow, if_pos hi]
    exact Nat.zero_le _
  by_cases h : (128 : Int) ≤ (Nat.log2 i : Int) + e
  · rw [placeBelow, if_neg hi, if_pos h, infPlace]
  · rw [placeBelow_of_small hi h]
    refine (gridPlace_lt_inf (gridFloor_lt hi e) ?_).le
    unfold gridExp
    omega

theorem placeReal_placeBelow (i : Nat) (e : Int) : placeReal (placeBelow i e) ≤ i * 2 ^ e := by
  by_cases hi : i = 0
  · rw [placeBelow, if_pos hi, hi, show placeReal 0 = 0 by simp [placeReal, placeMag]]
    simp
  by_cases h : (128 : Int) ≤ (Nat.log2 i : Int) + e
  · rw [placeBelow, if_neg hi, if_pos h, ← infPlace, placeReal_inf]
    exact (zpow_le_zpow_right₀ (by norm_num) h).trans (log2_real hi e).1
  · rw [placeBelow_of_small hi h, placeReal_grid (gridExp_ge i e) (gridFloor_lt hi e) (gridFloor_small hi e)]
    exact (gridFloor_spec ..).1

theorem lt_placeReal_placeBelow_succ {i : Nat} {e : Int} (hlt : placeBelow i e < infPlace) : i * 2 ^ e < placeReal (placeBelow i e + 1) := by
  by_cases hi : i = 0
  · rw [placeBelow, if_pos hi, hi, Nat.cast_zero, zero_mul]
    exact (placeReal_nonneg 0).trans_lt (placeReal_strictMono (Nat.lt_succ_self 0))
  by_cases h : (128 : Int) ≤ (Nat.log2 i : Int) + e
  · rw [placeBelow, if_neg hi, if_pos h] at hlt
    exact absurd hlt (lt_irrefl _)
  · rw [placeBelow_of_small hi h, placeReal_grid_succ (gridExp_ge i e) (gridFloor_lt hi e) (gridFloor_small hi e)]
    exact (gridFloor_spec ..).2

/-- The place below is the greatest at or below a number. -/
theorem le_placeBelow {i p : Nat} {e : Int} (hp : p ≤ infPlace) (h : placeReal p ≤ i * 2 ^ e) : p ≤ placeBelow i e := by
  by_contra hlt
  have hb : placeBelow i e < infPlace := (not_le.1 hlt).trans_le hp
  have := (lt_placeReal_placeBelow_succ hb).trans_le (placeReal_strictMono.monotone (not_le.1 hlt))
  exact absurd h (not_le.2 this)

/-- What rounding up gives, as a place: that of the floor where it is exact, and else the next, or infinity. -/
theorem placeAbove_cases {i : Nat} (hi : i ≠ 0) (e : Int) :
    let p := gridPlace (gridFloor i e (gridExp i e)) (gridExp i e)
    (placeAbove i e = min infPlace p ∧ placeReal p = i * 2 ^ e) ∨ (placeAbove i e = min infPlace (p + 1) ∧ placeReal p < i * 2 ^ e) := by
  intro p
  have hlt := gridFloor_lt hi e
  have hsmall := gridFloor_small hi e
  have hreal : placeReal p = _ := placeReal_grid (gridExp_ge i e) hlt hsmall
  have hover : (fmtF32.overflow .rup false).1 = infPlace := rfl
  have habove : placeAbove i e = (fmtF32.roundFin .rup false i e).1 := by rw [placeAbove, Fmt.round, if_neg hi]
  rw [hreal, habove, roundFin_f32 (.inr rfl), hover, show fmtF32.sign false = 0 from rfl]
  have hq := gridExp_ge i e
  dsimp only [p]
  rcases roundAt_rup i e (gridExp i e) with ⟨h1, h2⟩ | ⟨h1, h2⟩ <;> rw [h1]
  · refine .inl ⟨?_, h2⟩
    rw [if_neg hlt.ne, if_neg hlt.ne, Nat.zero_add]
    split
    next h => exact (min_eq_left (inf_le_gridPlace hsmall h)).symm
    next h => exact (min_eq_right (gridPlace_lt_inf hlt h).le).symm
  · refine .inr ⟨?_, h2⟩
    rw [Nat.zero_add, ← gridPlace_succ hq hlt hsmall]
    by_cases hc : gridFloor i e (gridExp i e) + 1 = 2 ^ 24
    · rw [if_pos hc, if_pos hc]
      split
      next h => exact (min_eq_left (inf_le_gridPlace (fun h => absurd h (lt_irrefl _)) h)).symm
      next h => exact (min_eq_right (gridPlace_lt_inf (by norm_num) h).le).symm
    · rw [if_neg hc, if_neg hc]
      split
      next h => exact (min_eq_left (inf_le_gridPlace (fun h => hsmall (by omega)) h)).symm
      next h => exact (min_eq_right (gridPlace_lt_inf (by omega) h).le).symm

theorem placeAbove_zero (e : Int) : placeAbove 0 e = 0 := rfl

theorem placeAbove_le_inf (i : Nat) (e : Int) : placeAbove i e ≤ infPlace := by
  by_cases hi : i = 0
  · rw [hi, placeAbove_zero]
    exact Nat.zero_le _
  · rcases placeAbove_cases hi e with ⟨h, -⟩ | ⟨h, -⟩ <;> exact h ▸ min_le_left ..

/-- The place above is at most any at or above a number. -/
theorem placeAbove_le {i p : Nat} {e : Int} (h : i * 2 ^ e ≤ placeReal p) : placeAbove i e ≤ p := by
  by_cases hi : i = 0
  · rw [hi, placeAbove_zero]
    exact Nat.zero_le _
  rcases placeAbove_cases hi e with ⟨ha, hp⟩ | ⟨ha, hp⟩
  · exact ha ▸ (min_le_right ..).trans (placeReal_strictMono.le_iff_le.1 (hp ▸ h))
  · exact ha ▸ (min_le_right ..).trans (placeReal_strictMono.lt_iff_lt.1 (hp.trans_le h))

theorem le_placeReal_placeAbove {i : Nat} {e : Int} (hlt : placeAbove i e < infPlace) : i * 2 ^ e ≤ placeReal (placeAbove i e) := by
  by_cases hi : i = 0
  · rw [hi, Nat.cast_zero, zero_mul]
    exact placeReal_nonneg _
  rcases placeAbove_cases hi e with ⟨ha, hp⟩ | ⟨ha, hp⟩
  · have := min_lt_iff.1 (ha ▸ hlt)
    rw [ha, min_eq_right (this.resolve_left (lt_irrefl _)).le, hp]
  · have hq := (min_lt_iff.1 (ha ▸ hlt)).resolve_left (lt_irrefl _)
    rw [ha, min_eq_right hq.le, placeReal_grid_succ (gridExp_ge i e) (gridFloor_lt hi e) (gridFloor_small hi e)]
    exact (gridFloor_spec ..).2.le

end Sys2Proof.Machine
end

section

/-! ## Results within a bound (O31) -/

namespace Sys2Proof.Machine
open Sys2Proof

/-! ### Patterns and keys -/

theorem sign_f32 (neg : Bool) : fmtF32.sign neg = if neg then 2147483648 else 0 := by cases neg <;> rfl

/-- The number of a finite pattern is that of its place, with its sign. -/
theorem value_place (neg : Bool) {p : Nat} (hp : p < infPlace) :
    ∃ mag exp, fmtF32.value (fmtF32.sign neg + p) = .fin neg mag exp ∧ (mag : ℝ) * 2 ^ exp = placeReal p := by
  have hp' : p < 2139095040 := hp
  have hneg : ((fmtF32.sign neg + p) / 2 ^ (8 + 23) % 2 == 1) = neg := by
    rw [sign_f32]
    cases neg
    · rw [if_neg Bool.false_ne_true, show (0 + p) / 2 ^ (8 + 23) % 2 = 0 by omega]
      rfl
    · rw [if_pos rfl, show (2147483648 + p) / 2 ^ (8 + 23) % 2 = 1 by omega]
      rfl
  have he : (fmtF32.sign neg + p) / 2 ^ 23 % 2 ^ 8 = p / 2 ^ 23 := by
    rw [sign_f32]
    split <;> omega
  have hm : (fmtF32.sign neg + p) % 2 ^ 23 = p % 2 ^ 23 := by
    rw [sign_f32]
    split <;> omega
  have hmax : (true && p / 2 ^ 23 == 2 ^ 8 - 1) = false := by
    rw [Bool.true_and, beq_eq_false_iff_ne]
    omega
  unfold Fmt.value
  rw [show fmtF32.ebits = 8 from rfl, show fmtF32.mbits = 23 from rfl, show fmtF32.ieee = true from rfl, show fmtF32.bias = 127 from rfl]
  simp only [hneg, he, hm, hmax, Bool.false_eq_true, if_false, Bool.not_true, Bool.false_and]
  unfold placeReal placeMag
  by_cases h : p / 2 ^ 23 = 0
  · rw [if_pos h]
    refine ⟨_, _, rfl, ?_⟩
    rw [h]
    norm_num
  · rw [if_neg h, if_neg h]
    refine ⟨_, _, rfl, ?_⟩
    have hpow : ((2 ^ (p / 2 ^ 23 - 1) : Nat) : ℝ) = 2 ^ ((p / 2 ^ 23 - 1 : Nat) : Int) := by rw [zpow_natCast, Nat.cast_pow, Nat.cast_ofNat]
    rw [Nat.cast_mul, mul_assoc, hpow, ← zpow_add₀ (by norm_num)]
    congr 2
    omega

theorem value_inf (neg : Bool) : fmtF32.value (fmtF32.sign neg + infPlace) = .inf neg := by
  cases neg <;> decide +kernel

theorem keyAbove_neg (i e : Int) : keyAbove (-i) e = -1 - keyBelow i e := by
  unfold keyAbove keyBelow
  by_cases h : 0 ≤ i
  · rw [if_pos h, if_neg (by omega), neg_neg]
  · rw [if_neg h, if_pos (by omega)]
    ring

theorem keyBelow_neg (i e : Int) : keyBelow (-i) e = -1 - keyAbove i e := by
  unfold keyAbove keyBelow
  by_cases h : 0 < i
  · rw [if_pos h, if_neg (by omega), neg_neg]
  · rw [if_neg h, if_pos (by omega)]
    ring

/-- A place between two keys lies between their numbers; infinity has no upper number to lie below. -/
theorem place_bounds {u v e : Int} {p : Nat} (h1 : keyAbove u e ≤ p) (h2 : (p : Int) ≤ keyBelow v e) :
    p ≤ infPlace ∧ placeReal p ≤ v * 2 ^ e ∧ (p < infPlace → u * 2 ^ e ≤ placeReal p) := by
  have hv : 0 ≤ v := by
    by_contra hv
    rw [keyBelow, if_neg hv] at h2
    omega
  rw [keyBelow, if_pos hv] at h2
  have hb : p ≤ placeBelow v.toNat e := by exact_mod_cast h2
  have hvr : ((v.toNat : Nat) : ℝ) = v := by exact_mod_cast Int.toNat_of_nonneg hv
  refine ⟨hb.trans (placeBelow_le_inf ..), hvr ▸ (placeReal_strictMono.monotone hb).trans (placeReal_placeBelow ..), fun hp => ?_⟩
  by_cases hu : 0 < u
  · rw [keyAbove, if_pos hu] at h1
    have ha : placeAbove u.toNat e ≤ p := by exact_mod_cast h1
    have hur : ((u.toNat : Nat) : ℝ) = u := by exact_mod_cast Int.toNat_of_nonneg hu.le
    exact hur ▸ (le_placeReal_placeAbove (ha.trans_lt hp)).trans (placeReal_strictMono.monotone ha)
  · refine le_trans ?_ (placeReal_nonneg p)
    exact mul_nonpos_of_nonpos_of_nonneg (by exact_mod_cast not_lt.1 hu) (two_zpow_pos e).le

theorem chooseKey_mem {lo hi : Int} (h : lo ≤ hi) (choice : Nat) : lo ≤ chooseKey lo hi choice ∧ chooseKey lo hi choice ≤ hi := by
  unfold chooseKey
  have := Nat.mod_lt choice (show 0 < (hi + 1 - lo).toNat by omega)
  omega

/-- The pattern of a key: a sign and a place. -/
theorem patternOfKey_eq (k : Int) : patternOfKey k = fmtF32.sign (decide (k < 0)) + if k < 0 then (-1 - k).toNat else k.toNat := by
  unfold patternOfKey
  by_cases h : 0 ≤ k
  · rw [if_pos h, decide_eq_false (not_lt.2 h), if_neg (not_lt.2 h), Fmt.sign, if_neg Bool.false_ne_true, Nat.zero_add]
  · rw [if_neg h, decide_eq_true (not_le.1 h), if_pos (not_le.1 h), Fmt.sign, if_pos rfl, show -k - 1 = -1 - k by ring]
    rfl

theorem sign_add_mod (neg : Bool) {p : Nat} (hp : p ≤ infPlace) : (fmtF32.sign neg + p) % 2 ^ 31 = p := by
  have hp' : p ≤ 2139095040 := hp
  rw [sign_f32]
  split <;> omega

theorem inexactFlags_eq (p : Nat) :
    inexactFlags p = fNX ||| (if p % 2 ^ 31 < 0x00800000 then fUF else 0) ||| (if p % 2 ^ 31 = 0x7F800000 then fOF else 0) := by
  simp [inexactFlags, flagIf]

/-- A place between two numbers that are near `y` is near it too. -/
theorem near_place {p : Nat} {y err u v : ℝ} (neg : Bool) (hp : p ≤ infPlace) (hv : placeReal p ≤ v) (hu : p < infPlace → u ≤ placeReal p)
    (h1 : v - err ≤ if neg then -y else y) (h2 : (if neg then -y else y) ≤ u + err) :
    Near (fmtF32.sign neg + p, inexactFlags (fmtF32.sign neg + p)) y err := by
  refine ⟨inexactFlags_eq _, ?_⟩
  dsimp only
  rcases hp.lt_or_eq with hlt | rfl
  · obtain ⟨mag, exp, hval, hreal⟩ := value_place neg hlt
    have hu := hu hlt
    rw [hval]
    show |(Val.fin neg mag exp).real - y| ≤ err
    cases neg
    · simp only [Bool.false_eq_true, if_false] at h1 h2
      rw [real_pos, hreal, abs_le]
      constructor <;> linarith
    · simp only [if_true] at h1 h2
      rw [real_neg, hreal, abs_le]
      constructor <;> linarith
  · rw [value_inf]
    show if neg then y ≤ err - 2 ^ 128 else 2 ^ 128 - err ≤ y
    rw [placeReal_inf, zpow_ofNat] at hv
    cases neg
    · simp only [Bool.false_eq_true, if_false] at h1 ⊢
      linarith
    · simp only [if_true] at h1 ⊢
      linarith

/-- A pattern chosen between two numbers that are near `y` is near it too. -/
theorem near_choice {u v e : Int} {choice : Nat} {y err : ℝ} (hrange : keyAbove u e ≤ keyBelow v e)
    (h1 : v * 2 ^ e - err ≤ y) (h2 : y ≤ u * 2 ^ e + err) :
    Near (patternOfKey (chooseKey (keyAbove u e) (keyBelow v e) choice),
      inexactFlags (patternOfKey (chooseKey (keyAbove u e) (keyBelow v e) choice))) y err := by
  obtain ⟨hlo, hhi⟩ := chooseKey_mem hrange choice
  generalize chooseKey _ _ choice = k at hlo hhi
  rw [patternOfKey_eq]
  by_cases hk : k < 0
  · rw [decide_eq_true hk, if_pos hk]
    have hp : (((-1 - k).toNat : Nat) : Int) = -1 - k := by omega
    obtain ⟨hinf, hv, hu⟩ := place_bounds (u := -v) (v := -u) (e := e) (p := (-1 - k).toNat) (by rw [keyAbove_neg]; omega)
      (by rw [keyBelow_neg]; omega)
    refine near_place true hinf hv hu ?_ ?_ <;> rw [if_pos rfl] <;> push_cast <;> linarith
  · rw [decide_eq_false hk, if_neg hk]
    have hp : ((k.toNat : Nat) : Int) = k := by omega
    obtain ⟨hinf, hv, hu⟩ := place_bounds (u := u) (v := v) (e := e) (p := k.toNat) (by omega) (by omega)
    exact near_place false hinf hv hu (by rwa [if_neg Bool.false_ne_true]) (by rwa [if_neg Bool.false_ne_true])

/-! ### Some pattern lies within the bound -/

/-- The distance from the place below a number to the next is the unit of the number. -/
theorem placeReal_below_succ {n : Nat} (hn : n ≠ 0) {e : Int} (hlt : placeBelow n e < infPlace) :
    placeReal (placeBelow n e + 1) = placeReal (placeBelow n e) + 2 ^ gridExp n e := by
  have hb : placeBelow n e = gridPlace (gridFloor n e (gridExp n e)) (gridExp n e) := by
    refine placeBelow_of_small hn fun h => ?_
    rw [placeBelow, if_neg hn, if_pos h] at hlt
    exact absurd hlt (lt_irrefl _)
  rw [hb, placeReal_succ, gridPlace_div (gridExp_ge n e) (gridFloor_lt hn e) (gridFloor_small hn e), add_sub_cancel_right]

theorem keyAbove_le_keyBelow_nat {n : Nat} {slack e : Int} (hs : 0 ≤ slack) (h : n ≠ 0 → (2 : ℝ) ^ gridExp n e ≤ 2 * slack * 2 ^ e) :
    keyAbove (n - slack) e ≤ keyBelow (n + slack) e := by
  rw [keyBelow, if_pos (by omega), keyAbove]
  split
  next hpos =>
    have hn : n ≠ 0 := by omega
    have hu : (((n - slack).toNat : Nat) : ℝ) = n - slack := by exact_mod_cast Int.toNat_of_nonneg hpos.le
    have hv : (((n + slack).toNat : Nat) : ℝ) = n + slack := by exact_mod_cast Int.toNat_of_nonneg (show 0 ≤ (n : Int) + slack by omega)
    have hsr : 0 ≤ (slack : ℝ) * 2 ^ e := mul_nonneg (by exact_mod_cast hs) (two_zpow_pos e).le
    have hbelow := placeReal_placeBelow n e
    refine Nat.cast_le.2 ?_
    have hup : placeBelow n e ≤ placeBelow (n + slack).toNat e := le_placeBelow (placeBelow_le_inf ..) (by rw [hv, add_mul]; linarith)
    by_cases hinf : placeBelow n e < infPlace
    · by_cases hc : ((n : ℝ) - slack) * 2 ^ e ≤ placeReal (placeBelow n e)
      · exact (placeAbove_le (by rwa [hu])).trans hup
      · have hsucc := placeReal_below_succ hn hinf
        have hnext := lt_placeReal_placeBelow_succ hinf
        have hh := h hn
        refine (placeAbove_le (p := placeBelow n e + 1) (by rw [hu, sub_mul]; linarith)).trans (le_placeBelow hinf ?_)
        rw [hv, hsucc, add_mul]
        rw [sub_mul] at hc
        linarith
    · exact (placeAbove_le_inf ..).trans ((not_lt.1 hinf).trans hup)
  next hpos => omega

theorem keyAbove_le_keyBelow {a slack e : Int} (hs : 0 ≤ slack) (h : a.natAbs ≠ 0 → (2 : ℝ) ^ gridExp a.natAbs e ≤ 2 * slack * 2 ^ e) :
    keyAbove (a - slack) e ≤ keyBelow (a + slack) e := by
  have hnat := keyAbove_le_keyBelow_nat hs h
  rcases Int.natAbs_eq a with ha | ha
  · rwa [← ha] at hnat
  · rw [show a - slack = -(a.natAbs + slack) by omega, show a + slack = -(a.natAbs - slack) by omega, keyAbove_neg, keyBelow_neg]
    omega

/-- A result within a bound of `a`, where `y` is within 2^130 units of `a` and the bound is at most `err`. -/
theorem near_within {a : Int} {bound : Nat} {e : Int} {choice : Nat} {y err : ℝ} (hb : 2 ^ 130 ≤ bound)
    (h : a.natAbs ≠ 0 → (2 : ℝ) ^ gridExp a.natAbs e ≤ 2 * (((bound : Int) - 2 ^ 130 : Int) : ℝ) * 2 ^ e)
    (hy : |a * 2 ^ e - y| ≤ 2 ^ 130 * 2 ^ e) (herr : (bound : ℝ) * 2 ^ e ≤ err) : Near (within a bound e choice) y err := by
  obtain ⟨h1, h2⟩ := abs_le.1 hy
  have hslack : 0 ≤ (bound : Int) - 2 ^ 130 := by
    have : ((2 ^ 130 : Nat) : Int) ≤ bound := Int.ofNat_le.2 hb
    push_cast at this
    linarith
  refine near_choice (keyAbove_le_keyBelow hslack h) ?_ ?_
  · push_cast
    linarith
  · push_cast
    linarith

/-- A unit in the last place is 2^gridExp. -/
theorem ulpUnits_real {n : Nat} {e : Int} (h : e ≤ gridExp n e) : (ulpUnits n e : ℝ) * 2 ^ e = 2 ^ gridExp n e := by
  have hu : ulpUnits n e = 2 ^ (gridExp n e - e).toNat := rfl
  rw [hu, two_zpow_sub h]
  push_cast
  ring

/-- The unit in the last place of a magnitude at most that of `y` is at most that of `y`. -/
theorem gridExp_le_ulp32 {n : Nat} (hn : n ≠ 0) {e : Int} {y : ℝ} (h : (n : ℝ) * 2 ^ e ≤ |y|) : (2 : ℝ) ^ gridExp n e ≤ ulp32 y := by
  have hpow := (log2_real hn e).1.trans h
  have hy : 0 < |y| := (two_zpow_pos _).trans_le hpow
  have hlog : (Nat.log2 n : Int) + e ≤ Int.log 2 |y| := (Int.zpow_le_iff_le_log (by norm_num) hy).1 (by exact_mod_cast hpow)
  refine zpow_le_zpow_right₀ (by norm_num) ?_
  unfold gridExp
  omega

/-- A result within `k` units in the last place of `y`, where `n` is within 2^130 units of `y` and not above it. -/
theorem near_withinUlps {neg : Bool} {n k choice : Nat} {e : Int} {y : ℝ} (hn : n ≠ 0) (hk : 1 ≤ k) (hunit : e + 131 ≤ gridExp n e)
    (hy : |(if neg then -(n : ℝ) else n) * 2 ^ e - y| ≤ 2 ^ 130 * 2 ^ e) (hle : (n : ℝ) * 2 ^ e ≤ |y|) :
    Near (withinUlps neg n k e choice) y (k * ulp32 y) := by
  have habs : (if neg then -(n : Int) else n).natAbs = n := by split <;> simp
  have hulp : 2 ^ 131 ≤ ulpUnits n e := Nat.pow_le_pow_right (by norm_num) (by unfold gridExp at hunit; omega)
  have hmul : ulpUnits n e ≤ k * ulpUnits n e := Nat.le_mul_of_pos_left _ hk
  have hreal := ulpUnits_real (show e ≤ gridExp n e by omega)
  refine near_within ((show 2 ^ 130 ≤ 2 ^ 131 by norm_num).trans (hulp.trans hmul)) (fun _ => ?_) (by push_cast; exact hy) ?_
  · rw [habs, ← hreal]
    refine mul_le_mul_of_nonneg_right ?_ (two_zpow_pos e).le
    have h1 : (2 : ℝ) ^ 131 ≤ ulpUnits n e := by exact_mod_cast hulp
    have h2 : (ulpUnits n e : ℝ) ≤ ((k * ulpUnits n e : Nat) : ℝ) := by exact_mod_cast hmul
    push_cast at h2 ⊢
    linarith
  · rw [Nat.cast_mul, mul_assoc, hreal]
    exact mul_le_mul_of_nonneg_left (gridExp_le_ulp32 hn hle) (Nat.cast_nonneg k)

/-- A result within 2^-22 of `y`, where `a` is within 2^130 units of `y`, which is at most 1. -/
theorem near_withinAbs {a : Int} {choice : Nat} {y : ℝ} (h1 : |y| ≤ 1) (hy : |a * 2 ^ (-256 : Int) - y| ≤ 2 ^ 130 * 2 ^ (-256 : Int)) :
    Near (withinAbs a choice) y (2 ^ (-22 : Int)) := by
  refine near_within (by norm_num) (fun h0 => ?_) hy ?_
  · have hlt : ((a.natAbs : Nat) : ℝ) * 2 ^ (-256 : Int) < 2 ^ (1 : Int) := by
      have habs : ((a.natAbs : Nat) : ℝ) * 2 ^ (-256 : Int) = |(a : ℝ) * 2 ^ (-256 : Int)| := by
        rw [abs_mul, Nat.cast_natAbs, Int.cast_abs, abs_of_pos (two_zpow_pos _)]
      have hsmall : (2 : ℝ) ^ 130 * 2 ^ (-256 : Int) < 1 := by norm_num
      have htri := abs_sub_abs_le_abs_sub (a * 2 ^ (-256 : Int) : ℝ) y
      rw [habs, zpow_one]
      linarith
    have hlog := (zpow_lt_zpow_iff_right₀ (by norm_num)).1 ((log2_real h0 (-256)).1.trans_lt hlt)
    calc (2 : ℝ) ^ gridExp a.natAbs (-256) ≤ 2 ^ (-23 : Int) := zpow_le_zpow_right₀ (by norm_num) (by unfold gridExp; omega)
      _ ≤ 2 * (((2 ^ 234 : Nat) : Int) - 2 ^ 130 : Int) * 2 ^ (-256 : Int) := by norm_num
  · norm_num

end Sys2Proof.Machine
end

section

/-! ## Elementary functions in fixed point (O31)

Each sum in fixed point is compared with the same sum of real numbers, which is an initial sum of the function's power series. -/

namespace Sys2Proof.Machine
open Sys2Proof

/-! ### The quotient of a natural number, rounded down -/

theorem div_real (a b : Nat) (hb : 0 < b) : (a : ℝ) / b - 1 < ((a / b : Nat) : ℝ) ∧ ((a / b : Nat) : ℝ) ≤ a / b := by
  have hbr : (0 : ℝ) < b := by exact_mod_cast hb
  refine ⟨?_, Nat.cast_div_le⟩
  rw [sub_lt_iff_lt_add, div_lt_iff₀ hbr]
  exact_mod_cast Nat.lt_mul_of_div_lt (Nat.lt_succ_self _) hb

/-! ### e^x - 1 -/

/-- The sum of n terms of the series of e^x, from the j-th on, over the term before: X / j + X / j * X / (j + 1) + ... -/
noncomputable def expPoly (X : ℝ) : Nat → Nat → ℝ
  | 0, _ => 0
  | n + 1, j => X / j * (1 + expPoly X n (j + 1))

theorem expPoly_eq_sum (X : ℝ) : ∀ n j : Nat,
    X ^ j / (j.factorial : ℝ) * expPoly X n (j + 1) = ∑ i ∈ Finset.range n, X ^ (j + 1 + i) / ((j + 1 + i).factorial : ℝ)
  | 0, j => by simp [expPoly]
  | n + 1, j => by
    have ih := expPoly_eq_sum X n (j + 1)
    have hj : (j.factorial : ℝ) ≠ 0 := by exact_mod_cast j.factorial_ne_zero
    have hj1 : ((j : ℝ) + 1) ≠ 0 := by positivity
    rw [Finset.sum_range_succ', add_zero, expPoly]
    have hstep : X ^ j / (j.factorial : ℝ) * (X / ((j + 1 : Nat) : ℝ)) = X ^ (j + 1) / ((j + 1).factorial : ℝ) := by
      rw [Nat.factorial_succ, pow_succ]
      push_cast
      field_simp
    rw [← mul_assoc, hstep, mul_add, mul_one, ih, add_comm]
    congr 1
    refine Finset.sum_congr rfl fun i _ => ?_
    rw [show j + 1 + 1 + i = j + 1 + (i + 1) by ring]

/-- With 1 it is the initial sum of the series. -/
theorem one_add_expPoly (X : ℝ) (n : Nat) : 1 + expPoly X n 1 = ∑ m ∈ Finset.range (n + 1), X ^ m / (m.factorial : ℝ) := by
  have h := expPoly_eq_sum X n 0
  rw [Finset.sum_range_succ']
  simp only [pow_zero, Nat.factorial_zero, Nat.cast_one, div_one, one_mul, zero_add] at h ⊢
  rw [h, add_comm]
  congr 1
  exact Finset.sum_congr rfl fun i _ => by rw [Nat.add_comm]

section
variable {X : ℝ} (hX : 0 ≤ X)
include hX

theorem expPoly_nonneg : ∀ n j : Nat, 0 ≤ expPoly X n j
  | 0, _ => le_rfl
  | n + 1, j => by
    have := expPoly_nonneg n (j + 1)
    rw [expPoly]
    positivity

theorem expPoly_antitone : ∀ (n : Nat) {j k : Nat}, 1 ≤ j → j ≤ k → expPoly X n k ≤ expPoly X n j
  | 0, _, _, _, _ => le_rfl
  | n + 1, j, k, hj, hk => by
    have ih := expPoly_antitone n (j := j + 1) (k := k + 1) (by omega) (by omega)
    have hjr : (0 : ℝ) < j := by exact_mod_cast hj
    have hkr : (j : ℝ) ≤ k := by exact_mod_cast hk
    have := expPoly_nonneg hX n (k + 1)
    rw [expPoly, expPoly]
    gcongr

theorem one_add_expPoly_le_exp (n : Nat) {j : Nat} (hj : 1 ≤ j) : 1 + expPoly X n j ≤ Real.exp X := by
  have h1 := expPoly_antitone hX n le_rfl hj
  have h2 := Real.sum_le_exp_of_nonneg hX (n + 1)
  rw [← one_add_expPoly] at h2
  linarith

end

/-- The sum in fixed point is not above that of real numbers, and each term loses at most e^X. -/
theorem expTerms_bounds (p x : Nat) : ∀ n j t : Nat, 1 ≤ j →
    let X : ℝ := x / 2 ^ p
    (expTerms p x n j t : ℝ) ≤ t * expPoly X n j ∧ t * expPoly X n j - n * Real.exp X ≤ expTerms p x n j t
  | 0, j, t, _ => by simp [expTerms, expPoly]
  | n + 1, j, t, hj => by
    intro X
    have hX : 0 ≤ X := by positivity
    have hjr : (0 : ℝ) < j := by exact_mod_cast hj
    obtain ⟨ih1, ih2⟩ := expTerms_bounds p x n (j + 1) (t * x / 2 ^ p / j) (by omega)
    have hdiv := div_real (t * x) (2 ^ p * j) (by positivity)
    rw [← Nat.div_div_eq_div_mul] at hdiv
    have hq : ((t * x : Nat) : ℝ) / ((2 ^ p * j : Nat) : ℝ) = t * (X / j) := by
      simp only [X]
      push_cast
      field_simp
    rw [hq] at hdiv
    have hexp := one_add_expPoly_le_exp hX n (j := j + 1) (by omega)
    have hF := expPoly_nonneg hX n (j + 1)
    simp only [expTerms, expPoly]
    generalize t * x / 2 ^ p / j = t' at ih1 ih2 hdiv
    generalize expPoly X n (j + 1) = F at *
    push_cast
    constructor
    · nlinarith [mul_le_mul_of_nonneg_right hdiv.2 (show 0 ≤ 1 + F by linarith)]
    · nlinarith [mul_le_mul_of_nonneg_right hdiv.1.le (show 0 ≤ 1 + F by linarith)]

/-- What the series of e^x leaves after n terms. -/
theorem exp_sub_sum_le {X : ℝ} (hX : 0 ≤ X) {n : Nat} (h : X / (n + 1) ≤ 1 / 2) :
    Real.exp X - ∑ m ∈ Finset.range n, X ^ m / (m.factorial : ℝ) ≤ X ^ n / n.factorial * 2 := by
  have hc := Complex.exp_bound' (x := (X : ℂ)) (n := n) (by rw [Complex.norm_real, Real.norm_eq_abs, abs_of_nonneg hX]; exact_mod_cast h)
  rw [Complex.norm_real, Real.norm_eq_abs, abs_of_nonneg hX] at hc
  refine (le_abs_self _).trans (le_trans (le_of_eq ?_) hc)
  rw [← Real.norm_eq_abs, ← Complex.norm_real]
  push_cast
  rfl

/-- e^x - 1 in fixed point is not above the real number, and loses at most what its roundings and the rest of the series give. -/
theorem expm1Fixed_bounds (p n x : Nat) (h : (x : ℝ) / 2 ^ p / ((n + 1 : Nat) + 1) ≤ 1 / 2) :
    let X : ℝ := x / 2 ^ p
    (expm1Fixed p n x : ℝ) ≤ 2 ^ p * (Real.exp X - 1) ∧
      2 ^ p * (Real.exp X - 1) - (n * Real.exp X + 2 ^ p * (X ^ (n + 1) / (n + 1).factorial * 2)) ≤ expm1Fixed p n x := by
  intro X
  have hX : 0 ≤ X := by positivity
  obtain ⟨h1, h2⟩ := expTerms_bounds p x n 1 (2 ^ p) le_rfl
  have htail := exp_sub_sum_le hX h
  have hsum := one_add_expPoly X n
  have hle := one_add_expPoly_le_exp hX n le_rfl
  rw [← hsum] at htail
  have hp : (0 : ℝ) < 2 ^ p := by positivity
  rw [expm1Fixed]
  push_cast at h1 h2
  constructor
  · exact h1.trans (mul_le_mul_of_nonneg_left (by linarith) hp.le)
  · have := mul_le_mul_of_nonneg_left htail hp.le
    linarith

/-! ### ln 2 -/

/-- Sums of 100 terms of the series of e^x at the fixed-point ln 2 and one unit above, in units of 2^-512, on both sides of 1. -/
theorem expm1Fixed_ln2 : expm1Fixed 512 100 (ln2Fixed * 2 ^ 256) + 400 ≤ 2 ^ 512 ∧ 2 ^ 512 ≤ expm1Fixed 512 100 ((ln2Fixed + 1) * 2 ^ 256) := by
  decide +kernel

theorem ln2Fixed_lt : ln2Fixed < 2 ^ 256 := by decide +kernel

/-- The rest of a series, multiplied out. -/
theorem tail_le {P T F B : ℝ} (hF : 0 < F) (h : P * T * 2 ≤ B * F) : P * (T / F * 2) ≤ B := by
  rw [show P * (T / F * 2) = P * T * 2 / F by ring]
  exact (div_le_iff₀ hF).2 h

theorem two_pow_le_factorial : 2 ^ 512 * 2 ≤ (100 + 1).factorial := by decide +kernel

/-- A number of 256 bits in units of 2^-512. -/
theorem scaled_div (n : Nat) : ((n * 2 ^ 256 : Nat) : ℝ) / 2 ^ 512 = n / 2 ^ 256 := by
  rw [show (512 : Nat) = 256 + 256 from rfl, pow_add, Nat.cast_mul, Nat.cast_pow, Nat.cast_ofNat, mul_div_mul_right _ _ (by positivity)]

theorem ln2Fixed_le : (ln2Fixed : ℝ) / 2 ^ 256 ≤ Real.log 2 := by
  rw [Real.le_log_iff_exp_le (by norm_num)]
  have hX1 : (ln2Fixed : ℝ) / 2 ^ 256 ≤ 1 := (div_le_one (by positivity)).2 (by exact_mod_cast ln2Fixed_lt.le)
  have hX0 : 0 ≤ (ln2Fixed : ℝ) / 2 ^ 256 := by positivity
  have hb := (expm1Fixed_bounds 512 100 (ln2Fixed * 2 ^ 256) (by rw [scaled_div]; push_cast; linarith)).2
  rw [scaled_div] at hb
  generalize (ln2Fixed : ℝ) / 2 ^ 256 = X at hX0 hX1 hb
  have he : Real.exp X ≤ 3 := (Real.exp_le_exp.2 hX1).trans (Real.exp_one_lt_d9.le.trans (by norm_num))
  have hfix : (expm1Fixed 512 100 (ln2Fixed * 2 ^ 256) : ℝ) + 400 ≤ 2 ^ 512 := by exact_mod_cast expm1Fixed_ln2.1
  have hfac : (2 : ℝ) ^ 512 * 2 ≤ ((100 + 1).factorial : ℝ) := by exact_mod_cast two_pow_le_factorial
  have hP : (0 : ℝ) < 2 ^ 512 := by positivity
  have htail := tail_le (P := 2 ^ 512) (T := X ^ (100 + 1)) (F := ((100 + 1).factorial : ℝ)) (B := 1) (by exact_mod_cast Nat.factorial_pos _)
    (le_trans (mul_le_mul_of_nonneg_right (mul_le_of_le_one_right hP.le (pow_le_one₀ hX0 hX1)) zero_le_two) (by rwa [one_mul]))
  rw [Nat.cast_ofNat] at hb
  by_contra hc
  have hpos := mul_pos hP (sub_pos.2 (not_le.1 hc))
  generalize (2 : ℝ) ^ 512 = P at *
  generalize P * (X ^ (100 + 1) / ((100 + 1).factorial : ℝ) * 2) = T at hb htail
  generalize (expm1Fixed 512 100 (ln2Fixed * 2 ^ 256) : ℝ) = E at hb hfix
  linarith

theorem ln2Fixed_gt : Real.log 2 ≤ (ln2Fixed + 1 : ℝ) / 2 ^ 256 := by
  rw [Real.log_le_iff_le_exp (by norm_num)]
  have hX1 : ((ln2Fixed + 1 : Nat) : ℝ) / 2 ^ 256 ≤ 1 := (div_le_one (by positivity)).2 (by exact_mod_cast ln2Fixed_lt)
  have hb := (expm1Fixed_bounds 512 100 ((ln2Fixed + 1) * 2 ^ 256) (by rw [scaled_div]; push_cast at hX1 ⊢; linarith)).1
  rw [scaled_div] at hb
  have hfix : (2 : ℝ) ^ 512 ≤ expm1Fixed 512 100 ((ln2Fixed + 1) * 2 ^ 256) := by exact_mod_cast expm1Fixed_ln2.2
  have hP : (0 : ℝ) < 2 ^ 512 := by positivity
  have h := le_of_mul_le_mul_left ((mul_one _).trans_le (hfix.trans hb)) hP
  push_cast at h
  linarith

end Sys2Proof.Machine
end

section

/-! ## Sine and cosine in fixed point (O31) -/

namespace Sys2Proof.Machine
open Sys2Proof

/-- The alternating sum 1 - X^2 / (j (j + 1)) + X^4 / (j (j + 1) (j + 2) (j + 3)) - ... of n terms. -/
def trigPoly {K : Type} [Field K] (X : K) : Nat → Nat → K
  | 0, _ => 0
  | n + 1, j => 1 - X ^ 2 / (j * (j + 1)) * trigPoly X n (j + 2)

theorem trigPoly_cast (X : ℚ) : ∀ n j : Nat, ((trigPoly X n j : ℚ) : ℝ) = trigPoly (X : ℝ) n j
  | 0, _ => Rat.cast_zero
  | n + 1, j => by
    rw [trigPoly, trigPoly, ← trigPoly_cast X n (j + 2)]
    push_cast
    rfl

theorem trigPoly_eq_sum (X : ℝ) : ∀ n j : Nat,
    X ^ j / (j.factorial : ℝ) * trigPoly X n (j + 1) = ∑ i ∈ Finset.range n, (-1) ^ i * X ^ (j + 2 * i) / ((j + 2 * i).factorial : ℝ)
  | 0, j => by simp [trigPoly]
  | n + 1, j => by
    have ih := trigPoly_eq_sum X n (j + 2)
    have hj : (j.factorial : ℝ) ≠ 0 := by exact_mod_cast j.factorial_ne_zero
    have hstep : X ^ j / (j.factorial : ℝ) * (X ^ 2 / (((j + 1 : Nat) : ℝ) * (((j + 1 : Nat) : ℝ) + 1))) =
        X ^ (j + 2) / ((j + 2).factorial : ℝ) := by
      rw [Nat.factorial_succ, Nat.factorial_succ, pow_add]
      push_cast
      field_simp
    rw [Finset.sum_range_succ', trigPoly, mul_sub, mul_one, ← mul_assoc, hstep, ih, sub_eq_add_neg, add_comm, ← Finset.sum_neg_distrib]
    congr 1
    · refine Finset.sum_congr rfl fun i _ => ?_
      rw [show j + 2 + 2 * i = j + 2 * (i + 1) by ring, pow_succ (-1 : ℝ) i]
      ring
    · simp

/-- The terms of the series of e^(iX), two at a time. -/
theorem sum_exp_I (X : ℝ) : ∀ n : Nat, ∑ m ∈ Finset.range (2 * n), ((X : ℂ) * Complex.I) ^ m / (m.factorial : ℂ) =
    (trigPoly X n 1 : ℝ) + (X * trigPoly X n 2 : ℝ) * Complex.I := by
  have hcos (n : Nat) := trigPoly_eq_sum X n 0
  have hsin (n : Nat) := trigPoly_eq_sum X n 1
  simp only [pow_zero, Nat.factorial_zero, Nat.factorial_one, Nat.cast_one, div_one, one_mul, zero_add, pow_one] at hcos hsin
  intro n
  rw [hcos, hsin]
  induction n with
  | zero => simp
  | succ n ih =>
    have heven : ((X : ℂ) * Complex.I) ^ (2 * n) = (-1) ^ n * (X : ℂ) ^ (2 * n) := by
      rw [mul_pow, pow_mul Complex.I, Complex.I_sq]
      ring
    rw [show 2 * (n + 1) = 2 * n + 1 + 1 by ring, Finset.sum_range_succ, Finset.sum_range_succ, ih, Finset.sum_range_succ,
      Finset.sum_range_succ, pow_succ _ (2 * n), heven]
    push_cast
    rw [show 1 + 2 * n = 2 * n + 1 by ring]
    ring

theorem norm_exp_I_sub_le {X : ℝ} (hX : 0 ≤ X) {n : Nat} (h : X / (2 * n + 1) ≤ 1 / 2) :
    ‖Complex.exp (X * Complex.I) - ((trigPoly X n 1 : ℝ) + (X * trigPoly X n 2 : ℝ) * Complex.I)‖ ≤ X ^ (2 * n) / (2 * n).factorial * 2 := by
  have hnorm : ‖(X : ℂ) * Complex.I‖ = X := by rw [norm_mul, Complex.norm_I, mul_one, Complex.norm_real, Real.norm_eq_abs, abs_of_nonneg hX]
  have hb := Complex.exp_bound' (x := (X : ℂ) * Complex.I) (n := 2 * n) (by rw [hnorm]; push_cast; exact h)
  rwa [hnorm, sum_exp_I] at hb

theorem abs_cos_sub_le {X : ℝ} (hX : 0 ≤ X) {n : Nat} (h : X / (2 * n + 1) ≤ 1 / 2) :
    |Real.cos X - trigPoly X n 1| ≤ X ^ (2 * n) / (2 * n).factorial * 2 := by
  refine le_trans (le_of_eq ?_) ((Complex.abs_re_le_norm _).trans (norm_exp_I_sub_le hX h))
  simp [Complex.exp_ofReal_mul_I_re]

theorem abs_sin_sub_le {X : ℝ} (hX : 0 ≤ X) {n : Nat} (h : X / (2 * n + 1) ≤ 1 / 2) :
    |Real.sin X - X * trigPoly X n 2| ≤ X ^ (2 * n) / (2 * n).factorial * 2 := by
  refine le_trans (le_of_eq ?_) ((Complex.abs_im_le_norm _).trans (norm_exp_I_sub_le hX h))
  simp [Complex.exp_ofReal_mul_I_im]

/-! ### The sums in fixed point -/

theorem int_div_real (a b : Int) (hb : 0 < b) : (a : ℝ) / b - 1 < ((a / b : Int) : ℝ) ∧ ((a / b : Int) : ℝ) ≤ a / b := by
  have hbr : (0 : ℝ) < b := by exact_mod_cast hb
  constructor
  · rw [sub_lt_iff_lt_add, div_lt_iff₀ hbr]
    exact_mod_cast Int.lt_ediv_add_one_mul_self a hb
  · rw [le_div_iff₀ hbr]
    exact_mod_cast Int.ediv_mul_le a hb.ne'

section
variable {X : ℝ} (hX : X ^ 2 ≤ 4)
include hX

theorem abs_trigPoly_le_of_three_le : ∀ (n : Nat) {j : Nat}, 3 ≤ j → |trigPoly X n j| ≤ 3 / 2
  | 0, _, _ => by rw [trigPoly, abs_zero]; norm_num
  | n + 1, j, hj => by
    have ih := abs_trigPoly_le_of_three_le n (j := j + 2) (by omega)
    have hjr : (3 : ℝ) ≤ j := by exact_mod_cast hj
    have hY : |X ^ 2 / ((j : ℝ) * (j + 1))| ≤ 1 / 3 := by
      rw [abs_of_nonneg (by positivity), div_le_iff₀ (by positivity)]
      nlinarith
    have hprod : |X ^ 2 / ((j : ℝ) * (j + 1)) * trigPoly X n (j + 2)| ≤ 1 / 3 * (3 / 2) := by
      rw [abs_mul]
      exact mul_le_mul hY ih (abs_nonneg _) (by norm_num)
    rw [trigPoly]
    exact (abs_sub _ _).trans (by rw [abs_one]; linarith)

end

/-- The sum in fixed point is that of real numbers but for 4 units a term. -/
theorem abs_trigTerms_sub_le (x : Nat) (hX : ((x : ℝ) / 2 ^ 256) ^ 2 ≤ 4) : ∀ (n j : Nat) (t : Int), 1 ≤ j →
    |(trigTerms x n j t : ℝ) - t * trigPoly ((x : ℝ) / 2 ^ 256) n j| ≤ 4 * n
  | 0, j, t, _ => by simp [trigTerms, trigPoly]
  | n + 1, j, t, hj => by
    have ih := abs_trigTerms_sub_le x hX n (j + 2) (-(t * (x * x : Nat) / 2 ^ 512 / (j * (j + 1) : Nat))) (by omega)
    have hP := abs_trigPoly_le_of_three_le hX n (j := j + 2) (by omega)
    have hjr : (1 : ℝ) ≤ j := by exact_mod_cast hj
    have hjp : 0 < j * (j + 1) := by positivity
    have hdiv := int_div_real (t * (x * x : Nat)) (2 ^ 512 * (j * (j + 1) : Nat)) (by positivity)
    have hq : ((t * (x * x : Nat) : Int) : ℝ) / ((2 ^ 512 * (j * (j + 1) : Nat) : Int) : ℝ) =
        t * (((x : ℝ) / 2 ^ 256) ^ 2 / ((j : ℝ) * (j + 1))) := by
      simp only [Int.cast_mul, Int.cast_pow, Int.cast_ofNat, Int.cast_natCast, Nat.cast_mul, Nat.cast_add, Nat.cast_one, Int.cast_add, Int.cast_one]
      rw [show (512 : Nat) = 256 + 256 from rfl, pow_add]
      generalize (2 : ℝ) ^ 256 = P
      rw [div_pow, mul_div_assoc', mul_div_assoc', div_div, pow_two, pow_two]
    rw [← Int.ediv_ediv_of_nonneg (by positivity), hq] at hdiv
    rw [trigTerms, trigPoly]
    generalize t * (x * x : Nat) / 2 ^ 512 / (j * (j + 1) : Nat) = q at ih hdiv ⊢
    generalize ((x : ℝ) / 2 ^ 256) ^ 2 / ((j : ℝ) * (j + 1)) = Y at hdiv ⊢
    generalize trigPoly ((x : ℝ) / 2 ^ 256) n (j + 2) = P at ih hP ⊢
    have hround : |((-q : Int) : ℝ) + t * Y| ≤ 1 := by
      rw [Int.cast_neg, abs_le]
      constructor <;> linarith [hdiv.1, hdiv.2]
    have hprod : |(((-q : Int) : ℝ) + t * Y) * P| ≤ 1 * (3 / 2) := by
      rw [abs_mul]
      exact mul_le_mul hround hP (abs_nonneg _) zero_le_one
    rw [show ((t + trigTerms x n (j + 2) (-q) : Int) : ℝ) - t * (1 - Y * P) =
      ((trigTerms x n (j + 2) (-q) : ℝ) - ((-q : Int) : ℝ) * P) + (((-q : Int) : ℝ) + t * Y) * P by push_cast; ring]
    refine (abs_add_le _ _).trans ?_
    push_cast at ih hprod ⊢
    linarith

/-- A number near a sum in units of 1 / P, where the sum is near the function's value. -/
theorem near_of_units {P S s y c d : ℝ} (hP : 0 < P) (hS : |S - P * s| ≤ c) (hs : |y - s| ≤ P⁻¹) (hd : c + 1 ≤ d) :
    |S * P⁻¹ - y| ≤ d * P⁻¹ := by
  have hPi : 0 < P⁻¹ := inv_pos.2 hP
  have h1 : |S * P⁻¹ - s| ≤ c * P⁻¹ := by
    rw [show S * P⁻¹ - s = (S - P * s) * P⁻¹ by field_simp, abs_mul, abs_of_pos hPi]
    exact mul_le_mul_of_nonneg_right hS hPi.le
  rw [show S * P⁻¹ - y = (S * P⁻¹ - s) - (y - s) by ring]
  refine (abs_sub _ _).trans ?_
  nlinarith

/-- What the series of sine and cosine leave after 45 pairs of terms. -/
theorem trig_tail {X : ℝ} (h0 : 0 ≤ X) (h2 : X ≤ 2) : X ^ (2 * 45) / (2 * 45).factorial * 2 ≤ 2 ^ (-256 : Int) := by
  have hfac : 2 ^ 256 * 2 ^ (2 * 45) * 2 ≤ 1 * (2 * 45).factorial := by decide +kernel
  have h := tail_le (P := 2 ^ 256) (T := X ^ (2 * 45)) (F := ((2 * 45).factorial : ℝ)) (B := 1) (by exact_mod_cast Nat.factorial_pos _)
    (le_trans (by gcongr : (2 : ℝ) ^ 256 * X ^ (2 * 45) * 2 ≤ 2 ^ 256 * 2 ^ (2 * 45) * 2) (by exact_mod_cast hfac))
  rw [zpow_neg, ← one_div, le_div_iff₀ (by positivity), mul_comm]
  exact_mod_cast h

section
variable {r : Nat} (hr : (r : ℝ) / 2 ^ 256 ≤ 2)
include hr

theorem cosFixed_near : |(cosFixed r : ℝ) * 2 ^ (-256 : Int) - Real.cos (r / 2 ^ 256)| ≤ 200 * 2 ^ (-256 : Int) := by
  have h0 : 0 ≤ (r : ℝ) / 2 ^ 256 := by positivity
  have hfix := abs_trigTerms_sub_le r (by nlinarith) 45 1 (2 ^ 256) le_rfl
  have hcos := (abs_cos_sub_le h0 (n := 45) (by push_cast; linarith)).trans (trig_tail h0 hr)
  rw [Int.cast_pow, Int.cast_ofNat] at hfix
  rw [zpow_neg, zpow_ofNat] at *
  exact near_of_units (by positivity) hfix hcos (by norm_num)

theorem sinFixed_near : |(sinFixed r : ℝ) * 2 ^ (-256 : Int) - Real.sin (r / 2 ^ 256)| ≤ 200 * 2 ^ (-256 : Int) := by
  have h0 : 0 ≤ (r : ℝ) / 2 ^ 256 := by positivity
  have hfix := abs_trigTerms_sub_le r (by nlinarith) 45 2 r (by norm_num)
  have hsin := (abs_sin_sub_le h0 (n := 45) (by push_cast; linarith)).trans (trig_tail h0 hr)
  rw [Int.cast_natCast, show (r : ℝ) * trigPoly ((r : ℝ) / 2 ^ 256) 45 2 =
    2 ^ 256 * ((r : ℝ) / 2 ^ 256 * trigPoly ((r : ℝ) / 2 ^ 256) 45 2) by rw [← mul_assoc, mul_div_cancel₀ _ (by positivity)]] at hfix
  rw [zpow_neg, zpow_ofNat] at *
  exact near_of_units (by positivity) hfix hsin (by norm_num)

end

/-! ### Half of pi -/

/-- The cosine series at the fixed-point half of pi and one unit above, on both sides of 0. -/
theorem trigPoly_halfPi : (1 / (2 ^ 200 * 2 ^ 60) : ℚ) ≤ trigPoly ((halfPiFixed : ℚ) / 2 ^ 256) 50 1 ∧
    trigPoly (((halfPiFixed + 1 : Nat) : ℚ) / 2 ^ 256) 50 1 ≤ -(1 / (2 ^ 200 * 2 ^ 60)) := by
  decide +kernel

theorem halfPiFixed_le_two : (halfPiFixed + 1 : Nat) / (2 : ℝ) ^ 256 ≤ 2 := by
  rw [div_le_iff₀ (by positivity)]
  exact_mod_cast (by decide +kernel : halfPiFixed + 1 ≤ 2 * 2 ^ 256)

theorem abs_cos_sub_le_50 {X : ℝ} (h0 : 0 ≤ X) (h2 : X ≤ 2) : |Real.cos X - trigPoly X 50 1| < 1 / (2 ^ 200 * 2 ^ 60) := by
  have hfac : 2 ^ 200 * 2 ^ 60 * 2 ^ (2 * 50) * 2 * 2 ≤ (2 * 50).factorial := by decide +kernel
  have hfac' : (2 : ℝ) ^ 200 * 2 ^ 60 * 2 ^ (2 * 50) * 2 * 2 ≤ ((2 * 50).factorial : ℝ) := by exact_mod_cast hfac
  have h := tail_le (P := 2 ^ 200 * 2 ^ 60) (T := X ^ (2 * 50)) (F := ((2 * 50).factorial : ℝ)) (B := 1 / 2)
    (by exact_mod_cast Nat.factorial_pos _)
    ((by gcongr : (2 : ℝ) ^ 200 * 2 ^ 60 * X ^ (2 * 50) * 2 ≤ 2 ^ 200 * 2 ^ 60 * 2 ^ (2 * 50) * 2).trans (by linarith))
  refine (abs_cos_sub_le h0 (n := 50) (by push_cast; linarith)).trans_lt ?_
  rw [lt_div_iff₀ (by positivity), mul_comm]
  linarith

theorem halfPiFixed_le : (halfPiFixed : ℝ) / 2 ^ 256 ≤ Real.pi / 2 := by
  have hX2 : (halfPiFixed : ℝ) / 2 ^ 256 ≤ 2 := le_trans (by gcongr; norm_num) halfPiFixed_le_two
  have hcos := abs_cos_sub_le_50 (X := (halfPiFixed : ℝ) / 2 ^ 256) (by positivity) hX2
  have hpoly : (1 / (2 ^ 200 * 2 ^ 60) : ℝ) ≤ trigPoly ((halfPiFixed : ℝ) / 2 ^ 256) 50 1 := by
    have h := (Rat.cast_le (K := ℝ)).2 trigPoly_halfPi.1
    rw [trigPoly_cast] at h
    push_cast at h
    exact h
  by_contra hlt
  have hneg := Real.cos_neg_of_pi_div_two_lt_of_lt (not_le.1 hlt) (by linarith [Real.pi_gt_three])
  linarith [(abs_lt.1 hcos).1]

theorem halfPiFixed_gt : Real.pi / 2 ≤ ((halfPiFixed + 1 : Nat) : ℝ) / 2 ^ 256 := by
  have h0 : 0 ≤ ((halfPiFixed + 1 : Nat) : ℝ) / 2 ^ 256 := by positivity
  have hcos := abs_cos_sub_le_50 h0 halfPiFixed_le_two
  have hpoly : trigPoly (((halfPiFixed + 1 : Nat) : ℝ) / 2 ^ 256) 50 1 ≤ -(1 / (2 ^ 200 * 2 ^ 60) : ℝ) := by
    have h := (Rat.cast_le (K := ℝ)).2 trigPoly_halfPi.2
    rw [trigPoly_cast, Rat.cast_div, Rat.cast_natCast] at h
    push_cast at h ⊢
    exact h
  by_contra hlt
  have hpos := Real.cos_pos_of_mem_Ioo ⟨by linarith [Real.pi_pos], not_le.1 hlt⟩
  linarith [(abs_lt.1 hcos).2]

end Sys2Proof.Machine
end

section

/-! ## Reduction of an angle (O31) -/

namespace Sys2Proof.Machine
open Sys2Proof

/-- What is left of an angle, but for as many units as quarter turns are taken from it. -/
theorem angle_eq (x : Nat) : ∃ θ : ℝ, (x : ℝ) / 2 ^ 256 = θ + (x / halfPiFixed % 4 : Nat) * (Real.pi / 2) + (x / halfPiFixed / 4 : Nat) * (2 * Real.pi) ∧
    |θ - ((x % halfPiFixed : Nat) : ℝ) / 2 ^ 256| ≤ ((x / halfPiFixed : Nat) : ℝ) * 2 ^ (-256 : Int) := by
  have h1 := halfPiFixed_le
  have h2 := halfPiFixed_gt
  have hx : (x : ℝ) = halfPiFixed * (x / halfPiFixed : Nat) + (x % halfPiFixed : Nat) := by exact_mod_cast (Nat.div_add_mod x halfPiFixed).symm
  have hq : ((x / halfPiFixed : Nat) : ℝ) = 4 * (x / halfPiFixed / 4 : Nat) + (x / halfPiFixed % 4 : Nat) := by
    exact_mod_cast (Nat.div_add_mod (x / halfPiFixed) 4).symm
  have hq0 : (0 : ℝ) ≤ (x / halfPiFixed : Nat) := Nat.cast_nonneg _
  refine ⟨(x : ℝ) / 2 ^ 256 - (x / halfPiFixed : Nat) * (Real.pi / 2), ?_, ?_⟩
  · rw [hq]
    ring
  · have hdiff : (x : ℝ) / 2 ^ 256 - (x / halfPiFixed : Nat) * (Real.pi / 2) - ((x % halfPiFixed : Nat) : ℝ) / 2 ^ 256 =
        (x / halfPiFixed : Nat) * (halfPiFixed / 2 ^ 256 - Real.pi / 2) := by
      rw [hx]
      ring
    rw [hdiff, abs_mul, abs_of_nonneg hq0, zpow_neg, zpow_ofNat]
    refine mul_le_mul_of_nonneg_left ?_ hq0
    rw [abs_le]
    rw [Nat.cast_succ, add_div, one_div] at h2
    constructor
    · linarith
    · have : (0 : ℝ) ≤ (2 ^ 256)⁻¹ := by positivity
      linarith

theorem quadrant (k : Nat) : k % 4 = 0 ∨ k % 4 = 1 ∨ k % 4 = 2 ∨ k % 4 = 3 := by omega

/-- A number near a function of the angle that is left is near the function of the angle itself. -/
theorem near_reduced {a y z : ℝ} {q : Nat} (hq : q ≤ 2 ^ 128) (ha : |a - z| ≤ 200 * 2 ^ (-256 : Int)) (hz : |y - z| ≤ (q : ℝ) * 2 ^ (-256 : Int)) :
    |a - y| ≤ 2 ^ 130 * 2 ^ (-256 : Int) := by
  have hq' : (q : ℝ) ≤ 2 ^ 128 := by exact_mod_cast hq
  have hP := two_zpow_pos (-256)
  rw [show a - y = (a - z) - (y - z) by ring]
  refine (abs_sub _ _).trans ?_
  nlinarith

theorem near_reduced_neg {a : Int} {y z : ℝ} {q : Nat} (hq : q ≤ 2 ^ 128) (ha : |a * 2 ^ (-256 : Int) - z| ≤ 200 * 2 ^ (-256 : Int))
    (hz : |y - z| ≤ (q : ℝ) * 2 ^ (-256 : Int)) : |((-a : Int) : ℝ) * 2 ^ (-256 : Int) - -y| ≤ 2 ^ 130 * 2 ^ (-256 : Int) := by
  rw [← abs_neg, Int.cast_neg, show -(-(a : ℝ) * 2 ^ (-256 : Int) - -y) = a * 2 ^ (-256 : Int) - y by ring]
  exact near_reduced hq ha hz

theorem reduced_le_two (x : Nat) : ((x % halfPiFixed : Nat) : ℝ) / 2 ^ 256 ≤ 2 := by
  have h : x % halfPiFixed < halfPiFixed := Nat.mod_lt _ (by decide +kernel)
  refine le_trans ?_ halfPiFixed_le_two
  gcongr
  omega

section
variable {x : Nat} (hx : x / halfPiFixed ≤ 2 ^ 128)
include hx

theorem sinOf_near : |(sinOf x : ℝ) * 2 ^ (-256 : Int) - Real.sin (x / 2 ^ 256)| ≤ 2 ^ 130 * 2 ^ (-256 : Int) := by
  obtain ⟨θ, hV, hθ⟩ := angle_eq x
  have hs := sinFixed_near (reduced_le_two x)
  have hc := cosFixed_near (reduced_le_two x)
  have hsin := (Real.abs_sin_sub_sin_le θ _).trans hθ
  have hcos := (Real.abs_cos_sub_cos_le θ _).trans hθ
  rw [hV, Real.sin_add_nat_mul_two_pi, sinOf, reduceAngle]
  rcases quadrant (x / halfPiFixed) with h | h | h | h <;> rw [h]
  · rw [Nat.cast_zero, zero_mul, add_zero]
    exact near_reduced hx hs hsin
  · rw [Nat.cast_one, one_mul, Real.sin_add_pi_div_two]
    exact near_reduced hx hc hcos
  · rw [show θ + ((2 : Nat) : ℝ) * (Real.pi / 2) = θ + Real.pi by push_cast; ring, Real.sin_add_pi]
    exact near_reduced_neg hx hs hsin
  · rw [show θ + ((3 : Nat) : ℝ) * (Real.pi / 2) = θ + Real.pi / 2 + Real.pi by push_cast; ring, Real.sin_add_pi, Real.sin_add_pi_div_two]
    exact near_reduced_neg hx hc hcos

theorem cosOf_near : |(cosOf x : ℝ) * 2 ^ (-256 : Int) - Real.cos (x / 2 ^ 256)| ≤ 2 ^ 130 * 2 ^ (-256 : Int) := by
  obtain ⟨θ, hV, hθ⟩ := angle_eq x
  have hs := sinFixed_near (reduced_le_two x)
  have hc := cosFixed_near (reduced_le_two x)
  have hsin := (Real.abs_sin_sub_sin_le θ _).trans hθ
  have hcos := (Real.abs_cos_sub_cos_le θ _).trans hθ
  rw [hV, Real.cos_add_nat_mul_two_pi, cosOf, reduceAngle]
  rcases quadrant (x / halfPiFixed) with h | h | h | h <;> rw [h]
  · rw [Nat.cast_zero, zero_mul, add_zero]
    exact near_reduced hx hc hcos
  · rw [Nat.cast_one, one_mul, Real.cos_add_pi_div_two]
    exact near_reduced_neg hx hs hsin
  · rw [show θ + ((2 : Nat) : ℝ) * (Real.pi / 2) = θ + Real.pi by push_cast; ring, Real.cos_add_pi]
    exact near_reduced_neg hx hc hcos
  · rw [show θ + ((3 : Nat) : ℝ) * (Real.pi / 2) = θ + Real.pi / 2 + Real.pi by push_cast; ring, Real.cos_add_pi, Real.cos_add_pi_div_two,
      neg_neg]
    exact near_reduced hx hs hsin

end

end Sys2Proof.Machine
end

section

/-! ## The logarithm in fixed point (O31) -/

namespace Sys2Proof.Machine
open Sys2Proof

/-- The sum 1 / j + Z^2 / (j + 2) + Z^4 / (j + 4) + ... of n terms. -/
noncomputable def atanhPoly (Z : ℝ) : Nat → Nat → ℝ
  | 0, _ => 0
  | n + 1, j => 1 / j + Z ^ 2 * atanhPoly Z n (j + 2)

theorem atanhPoly_eq_sum (Z : ℝ) : ∀ n j : Nat, atanhPoly Z n j = ∑ i ∈ Finset.range n, Z ^ (2 * i) / ((j + 2 * i : Nat) : ℝ)
  | 0, _ => rfl
  | n + 1, j => by
    rw [atanhPoly, atanhPoly_eq_sum Z n (j + 2), Finset.sum_range_succ', Finset.mul_sum, add_comm]
    congr 1
    · refine Finset.sum_congr rfl fun i _ => ?_
      rw [show j + 2 + 2 * i = j + 2 * (i + 1) by ring, show 2 * (i + 1) = 2 + 2 * i by ring, pow_add, mul_div_assoc]

theorem two_mul_atanhPoly (Z : ℝ) (n : Nat) : 2 * Z * atanhPoly Z n 1 = ∑ k ∈ Finset.range n, 2 * (1 / (2 * (k : ℝ) + 1)) * Z ^ (2 * k + 1) := by
  rw [atanhPoly_eq_sum, Finset.mul_sum]
  refine Finset.sum_congr rfl fun i _ => ?_
  push_cast
  rw [pow_succ, add_comm (1 : ℝ)]
  ring

section
variable {Z : ℝ} (h0 : 0 ≤ Z) (h3 : Z ≤ 1 / 3)
include h0 h3

theorem atanhPoly_mem : ∀ (n : Nat) {j : Nat}, 1 ≤ j → 0 ≤ atanhPoly Z n j ∧ atanhPoly Z n j ≤ 2
  | 0, _, _ => ⟨le_rfl, zero_le_two⟩
  | n + 1, j, hj => by
    obtain ⟨ih0, ih2⟩ := atanhPoly_mem n (j := j + 2) (by omega)
    have hjr : (1 : ℝ) ≤ j := by exact_mod_cast hj
    have hinv : 1 / (j : ℝ) ≤ 1 := (div_le_one (by linarith)).2 hjr
    have hinv0 : 0 ≤ 1 / (j : ℝ) := by positivity
    have hZ : Z ^ 2 ≤ 1 / 9 := by nlinarith
    have hZ0 : 0 ≤ Z ^ 2 := by positivity
    rw [atanhPoly]
    constructor
    · positivity
    · nlinarith

/-- The sum of logarithms that the series gives, as a function of Z. -/
theorem hasSum_atanh : HasSum (fun k : Nat => 2 * (1 / (2 * (k : ℝ) + 1)) * Z ^ (2 * k + 1)) (Real.log (1 + Z) - Real.log (1 - Z)) :=
  Real.hasSum_log_sub_log_of_abs_lt_one (abs_lt.2 ⟨by linarith, by linarith⟩)

theorem two_mul_atanhPoly_le (n : Nat) : 2 * Z * atanhPoly Z n 1 ≤ Real.log (1 + Z) - Real.log (1 - Z) := by
  rw [two_mul_atanhPoly]
  exact sum_le_hasSum _ (fun k _ => by positivity) (hasSum_atanh h0 h3)

theorem le_two_mul_atanhPoly (n : Nat) :
    Real.log (1 + Z) - Real.log (1 - Z) ≤ 2 * Z * atanhPoly Z n 1 + 9 / 4 * (1 / 9) ^ n := by
  rw [two_mul_atanhPoly, ← sub_le_iff_le_add']
  have hgeo := (hasSum_geometric_of_lt_one (by norm_num : (0 : ℝ) ≤ 1 / 9) (by norm_num)).mul_left (2 * (1 / 9 : ℝ) ^ n)
  refine (hasSum_le (fun k => ?_) ((hasSum_nat_add_iff' n).2 (hasSum_atanh h0 h3)) hgeo).trans (le_of_eq (by ring))
  have hpow : Z ^ (2 * (k + n) + 1) ≤ (1 / 9 : ℝ) ^ n * (1 / 9) ^ k := by
    rw [← pow_add, add_comm n k, pow_succ, pow_mul]
    refine (mul_le_of_le_one_right (by positivity) (by linarith)).trans ?_
    exact pow_le_pow_left₀ (by positivity) (by nlinarith) _
  have hcoef : 1 / (2 * ((k + n : Nat) : ℝ) + 1) ≤ 1 := (div_le_one (by positivity)).2 (by linarith [(Nat.cast_nonneg (k + n) : (0 : ℝ) ≤ _)])
  calc 2 * (1 / (2 * ((k + n : Nat) : ℝ) + 1)) * Z ^ (2 * (k + n) + 1) ≤ 2 * 1 * Z ^ (2 * (k + n) + 1) := by gcongr
    _ ≤ 2 * ((1 / 9 : ℝ) ^ n * (1 / 9) ^ k) := by linarith
    _ = 2 * (1 / 9 : ℝ) ^ n * (1 / 9) ^ k := by ring

end

/-- The sum in fixed point is not above that of real numbers, and loses at most 5 units a term. -/
theorem atanhTerms_bounds (z : Nat) (h3 : (z : ℝ) / 2 ^ 256 ≤ 1 / 3) : ∀ n j t : Nat, 1 ≤ j →
    (atanhTerms z n j t : ℝ) ≤ t * atanhPoly ((z : ℝ) / 2 ^ 256) n j ∧
      t * atanhPoly ((z : ℝ) / 2 ^ 256) n j - 5 * n ≤ atanhTerms z n j t
  | 0, j, t, _ => by simp [atanhTerms, atanhPoly]
  | n + 1, j, t, hj => by
    have h0 : 0 ≤ (z : ℝ) / 2 ^ 256 := by positivity
    obtain ⟨ih1, ih2⟩ := atanhTerms_bounds z h3 n (j + 2) (t * z / 2 ^ 256 * z / 2 ^ 256) (by omega)
    obtain ⟨hP0, hP2⟩ := atanhPoly_mem h0 h3 n (j := j + 2) (by omega)
    have hd1 := div_real t j (by omega)
    have hd2 := div_real (t * z) (2 ^ 256) (by positivity)
    have hd3 := div_real (t * z / 2 ^ 256 * z) (2 ^ 256) (by positivity)
    rw [Nat.cast_mul, Nat.cast_pow, Nat.cast_ofNat, mul_div_assoc] at hd2 hd3
    rw [atanhTerms, atanhPoly]
    generalize t * z / 2 ^ 256 * z / 2 ^ 256 = t' at *
    generalize t * z / 2 ^ 256 = u at *
    generalize atanhPoly ((z : ℝ) / 2 ^ 256) n (j + 2) = P at *
    generalize (z : ℝ) / 2 ^ 256 = Z at *
    have hle : (t' : ℝ) ≤ t * Z ^ 2 := hd3.2.trans (by nlinarith [mul_le_mul_of_nonneg_right hd2.2 h0])
    have hge : t * Z ^ 2 - 2 ≤ (t' : ℝ) := by nlinarith [mul_le_mul_of_nonneg_right hd2.1.le h0, hd3.1]
    have hle' := mul_le_mul_of_nonneg_right hle hP0
    have hge' := mul_le_mul_of_nonneg_right hge hP0
    push_cast
    constructor
    · rw [mul_add, mul_one_div, ← mul_assoc]
      linarith [hd1.2]
    · rw [mul_add, mul_one_div, ← mul_assoc]
      linarith [hd1.1]

/-- The sum of logarithms grows at most three times as fast as Z, for Z up to 1/3. -/
theorem log_sub_log_mono {Z W : ℝ} (h0 : 0 ≤ Z) (hZW : Z ≤ W) (h3 : W ≤ 1 / 3) :
    Real.log (1 + Z) - Real.log (1 - Z) ≤ Real.log (1 + W) - Real.log (1 - W) ∧
      Real.log (1 + W) - Real.log (1 - W) ≤ Real.log (1 + Z) - Real.log (1 - Z) + 3 * (W - Z) := by
  have h1 : Real.log (1 + Z) ≤ Real.log (1 + W) := Real.log_le_log (by linarith) (by linarith)
  have h2 : Real.log (1 - W) ≤ Real.log (1 - Z) := Real.log_le_log (by linarith) (by linarith)
  have h4 : Real.log (1 + W) - Real.log (1 + Z) ≤ W - Z := by
    rw [← Real.log_div (by linarith) (by linarith)]
    refine (Real.log_le_sub_one_of_pos (div_pos (by linarith) (by linarith))).trans ?_
    rw [div_sub_one (by linarith), div_le_iff₀ (by linarith)]
    nlinarith
  have h5 : Real.log (1 - Z) - Real.log (1 - W) ≤ 2 * (W - Z) := by
    rw [← Real.log_div (by linarith) (by linarith)]
    refine (Real.log_le_sub_one_of_pos (div_pos (by linarith) (by linarith))).trans ?_
    rw [div_sub_one (by linarith), div_le_iff₀ (by linarith)]
    nlinarith
  constructor <;> linarith

/-- The logarithm in fixed point is not above the real number, and loses at most 1000 units. -/
theorem lnFixed_bounds {m : Nat} (h1 : 2 ^ 256 ≤ m) (h2 : m ≤ 2 * 2 ^ 256) :
    (lnFixed m : ℝ) ≤ 2 ^ 256 * Real.log (m / 2 ^ 256) ∧ 2 ^ 256 * Real.log (m / 2 ^ 256) - 1000 ≤ lnFixed m := by
  have htail : (2 : ℝ) ^ 256 * (9 / 4 * (1 / 9) ^ 90) ≤ 1 := by norm_num
  have hm1 : (2 : ℝ) ^ 256 ≤ m := by exact_mod_cast h1
  have hm2 : (m : ℝ) ≤ 2 * 2 ^ 256 := by exact_mod_cast h2
  have hsub : ((m - 2 ^ 256 : Nat) : ℝ) = m - 2 ^ 256 := by rw [Nat.cast_sub h1, Nat.cast_pow, Nat.cast_ofNat]
  have hdiv := div_real ((m - 2 ^ 256) * 2 ^ 256) (m + 2 ^ 256) (by positivity)
  rw [Nat.cast_mul, Nat.cast_add, hsub, Nat.cast_pow, Nat.cast_ofNat] at hdiv
  rw [lnFixed]
  generalize (m - 2 ^ 256) * 2 ^ 256 / (m + 2 ^ 256) = z at hdiv ⊢
  have hterms := fun h3 => atanhTerms_bounds z h3 90 1 z le_rfl
  have hP : (0 : ℝ) < 2 ^ 256 := by positivity
  generalize (2 : ℝ) ^ 256 = P at *
  have hW0 : 0 ≤ (m - P) / (m + P) := div_nonneg (by linarith) (by linarith)
  have hW3 : (m - P) / (m + P) ≤ 1 / 3 := by
    rw [div_le_div_iff₀ (by linarith) (by norm_num)]
    linarith
  have hlog : Real.log (m / P) = Real.log (1 + (m - P) / (m + P)) - Real.log (1 - (m - P) / (m + P)) := by
    have hne : (m : ℝ) + P ≠ 0 := by linarith
    rw [← Real.log_div (by linarith) (by linarith), one_add_div hne, one_sub_div hne, div_div_div_cancel_right₀ hne,
      show m + P + (m - P) = 2 * (m : ℝ) by ring, show m + P - (m - P) = 2 * P by ring, mul_div_mul_left _ _ two_ne_zero]
  rw [hlog]
  rw [mul_div_right_comm] at hdiv
  generalize (m - P) / (m + P) = W at *
  have hz : (z : ℝ) = z / P * P := (div_mul_cancel₀ _ hP.ne').symm
  have hZ0 : 0 ≤ (z : ℝ) / P := div_nonneg (Nat.cast_nonneg z) hP.le
  have hZW : (z : ℝ) / P ≤ W := (div_le_iff₀ hP).2 hdiv.2
  obtain ⟨ht1, ht2⟩ := hterms (hZW.trans hW3)
  have hs1 := two_mul_atanhPoly_le hZ0 (hZW.trans hW3) 90
  have hs2 := le_two_mul_atanhPoly hZ0 (hZW.trans hW3) 90
  obtain ⟨hl1, hl2⟩ := log_sub_log_mono hZ0 hZW hW3
  generalize Real.log (1 + W) - Real.log (1 - W) = LW at *
  generalize Real.log (1 + z / P) - Real.log (1 - z / P) = LZ at *
  generalize atanhPoly (z / P) 90 1 = A at *
  have hW1 : P * W - z ≤ 1 := by linarith [hdiv.1]
  have hzA : (z : ℝ) * A = P * (z / P * A) := by rw [← mul_assoc, mul_div_cancel₀ _ hP.ne']
  have hm1 := mul_le_mul_of_nonneg_left hs1 hP.le
  have hm2 := mul_le_mul_of_nonneg_left hs2 hP.le
  have hm3 := mul_le_mul_of_nonneg_left hl1 hP.le
  have hm4 := mul_le_mul_of_nonneg_left hl2 hP.le
  rw [mul_add] at hm2 hm4
  rw [show P * (3 * (W - z / P)) = 3 * (P * W - P * (z / P)) by ring, mul_div_cancel₀ _ hP.ne'] at hm4
  rw [show P * (2 * (z / P) * A) = 2 * (P * (z / P * A)) by ring, ← hzA] at hm1 hm2
  rw [Nat.cast_ofNat] at ht2
  rw [Nat.cast_mul, Nat.cast_ofNat]
  constructor <;> linarith

theorem ln2Fixed_large : 2 ^ 255 ≤ ln2Fixed := by decide +kernel

/-- The quotient of two logarithms, each in units of 1/P and rounded down. -/
theorem log_quotient_near {P n L M l : ℝ} (hP : 6 < P) (hl : 1 / 2 < l) (hM0 : 0 ≤ M) (hMl : M ≤ l) (hn : 0 ≤ n)
    (hn1 : n ≤ P * M) (hn2 : P * M - 1000 ≤ n) (hL1 : L ≤ l * P) (hL2 : l * P ≤ L + 1) :
    n * P / L ≤ P * (M / l) + 3 ∧ P * (M / l) - 2000 ≤ n * P / L := by
  obtain ⟨μ, rfl⟩ : ∃ μ, M = μ * l := ⟨M / l, (div_mul_cancel₀ _ (by linarith)).symm⟩
  have hl0 : 0 < l := by linarith
  have hμ0 : 0 ≤ μ := nonneg_of_mul_nonneg_left hM0 hl0
  have hμ1 : μ ≤ 1 := (mul_le_iff_le_one_left hl0).1 hMl
  have hPμ : 0 ≤ P * μ := mul_nonneg (by linarith) hμ0
  have hlP : 1 / 2 * P ≤ l * P := mul_le_mul_of_nonneg_right hl.le (by linarith)
  have hLpos : 0 < L := by linarith
  rw [mul_div_cancel_right₀ _ hl0.ne']
  constructor
  · rw [div_le_iff₀ hLpos]
    have h1 : n * P ≤ P * (μ * l) * P := mul_le_mul_of_nonneg_right hn1 (by linarith)
    have h2 : P * μ * (l * P) ≤ P * μ * (L + 1) := mul_le_mul_of_nonneg_left hL2 hPμ
    have h3 : P * μ ≤ P * 1 := mul_le_mul_of_nonneg_left hμ1 (by linarith)
    linarith
  · rw [le_div_iff₀ hLpos]
    rcases le_total (P * μ - 2000) 0 with hneg | hpos
    · exact (mul_nonpos_of_nonpos_of_nonneg hneg hLpos.le).trans (mul_nonneg hn (by linarith))
    · have h1 : (P * μ - 2000) * L ≤ (P * μ - 2000) * (l * P) := mul_le_mul_of_nonneg_left hL1 hpos
      have h2 : (P * (μ * l) - 1000) * P ≤ n * P := mul_le_mul_of_nonneg_right hn2 (by linarith)
      linarith

/-- The logarithm to base 2 in fixed point is within 3000 units of the real number. -/
theorem log2Fixed_near {m : Nat} (h1 : 2 ^ 256 ≤ m) (h2 : m ≤ 2 * 2 ^ 256) :
    |((lnFixed m * 2 ^ 256 / ln2Fixed : Nat) : ℝ) - 2 ^ 256 * Real.logb 2 (m / 2 ^ 256)| ≤ 3000 := by
  obtain ⟨hn1, hn2⟩ := lnFixed_bounds h1 h2
  have hP : (0 : ℝ) < 2 ^ 256 := by positivity
  have hm0 : 1 ≤ (m : ℝ) / 2 ^ 256 := (one_le_div hP).2 (by exact_mod_cast h1)
  have hm2 : (m : ℝ) / 2 ^ 256 ≤ 2 := (div_le_iff₀ hP).2 (by exact_mod_cast h2)
  have hl : 1 / 2 < Real.log 2 := lt_trans (by norm_num) Real.log_two_gt_d9
  obtain ⟨hlow, hhigh⟩ := log_quotient_near (by norm_num) hl (Real.log_nonneg hm0) (Real.log_le_log (by linarith) hm2) (Nat.cast_nonneg _)
    hn1 hn2 ((div_le_iff₀ hP).1 ln2Fixed_le) ((le_div_iff₀ hP).1 ln2Fixed_gt)
  obtain ⟨hd1, hd2⟩ := div_real (lnFixed m * 2 ^ 256) ln2Fixed (by decide +kernel)
  rw [Nat.cast_mul, Nat.cast_pow, Nat.cast_ofNat] at hd1 hd2
  rw [Real.logb, abs_le]
  generalize lnFixed m * 2 ^ 256 / ln2Fixed = q at *
  generalize (2 : ℝ) ^ 256 * (Real.log (m / 2 ^ 256) / Real.log 2) = Y at *
  generalize (lnFixed m : ℝ) * 2 ^ 256 / ln2Fixed = Z at *
  constructor <;> linarith

end Sys2Proof.Machine
end

section

/-! ## FP32 operands and exact results (O31) -/

namespace Sys2Proof.Machine
open Sys2Proof

section
variable {p : Nat} {neg : Bool} {mag : Nat} {exp : Int} (h : fmtF32.value p = .fin neg mag exp)
include h

/-- The magnitudes and exponents of finite FP32 patterns. -/
theorem value_fin_bounds : mag < 2 ^ 24 ∧ -149 ≤ exp ∧ exp ≤ 104 := by
  unfold Fmt.value at h
  rw [show fmtF32.ebits = 8 from rfl, show fmtF32.mbits = 23 from rfl, show fmtF32.ieee = true from rfl, show fmtF32.bias = 127 from rfl] at h
  simp only [Bool.true_and, Bool.not_true, Bool.false_and, Bool.false_eq_true, if_false] at h
  split at h
  · split at h <;> exact Val.noConfusion h
  next he =>
    rw [beq_iff_eq] at he
    split at h <;> obtain ⟨-, rfl, rfl⟩ := Val.fin.inj h <;> omega

/-- A finite pattern is its sign and its place. -/
theorem place_of_value (hp : p < 2 ^ 32) : ∃ q, q < infPlace ∧ p = fmtF32.sign neg + q ∧ (mag : ℝ) * 2 ^ exp = placeReal q := by
  have hq : p % 2 ^ 31 < infPlace := by
    unfold Fmt.value at h
    rw [show fmtF32.ebits = 8 from rfl, show fmtF32.mbits = 23 from rfl, show fmtF32.ieee = true from rfl] at h
    simp only [Bool.true_and] at h
    split at h
    · split at h <;> exact Val.noConfusion h
    next he =>
      rw [beq_iff_eq] at he
      unfold infPlace
      omega
  have hsum : p = fmtF32.sign (decide (2 ^ 31 ≤ p)) + p % 2 ^ 31 := by
    rw [sign_f32]
    by_cases hs : 2 ^ 31 ≤ p
    · rw [decide_eq_true hs, if_pos rfl]
      omega
    · rw [decide_eq_false hs, if_neg Bool.false_ne_true]
      omega
  obtain ⟨m', e', hval, hreal⟩ := value_place (decide (2 ^ 31 ≤ p)) hq
  rw [← hsum, h] at hval
  obtain ⟨hn, hm, he⟩ := Val.fin.inj hval
  exact ⟨p % 2 ^ 31, hq, hn ▸ hsum, hm ▸ he ▸ hreal⟩

end

/-- The exponent of a magnitude that is a power of two. -/
theorem pow2Exp_eq_some {mag : Nat} (h0 : mag ≠ 0) {exp k : Int} : pow2Exp mag exp = some k ↔ (mag : ℝ) * 2 ^ exp = 2 ^ k := by
  obtain ⟨hlo, hhi⟩ := log2_real h0 exp
  unfold pow2Exp
  constructor
  · intro h
    split at h
    next hm =>
      rw [← Option.some.inj h, zpow_add₀ (by norm_num), zpow_natCast]
      congr 1
      exact_mod_cast hm
    next hm => exact nomatch h
  · intro h
    rw [h] at hlo hhi
    have h1 := (zpow_le_zpow_iff_right₀ (by norm_num)).1 hlo
    have h2 := (zpow_lt_zpow_iff_right₀ (by norm_num)).1 hhi
    have hk : k = (Nat.log2 mag : Int) + exp := by omega
    have hm : (mag : ℝ) = 2 ^ Nat.log2 mag := by
      rw [hk, zpow_add₀ (by norm_num), zpow_natCast] at h
      exact mul_right_cancel₀ (two_zpow_pos exp).ne' h
    rw [if_pos (by exact_mod_cast hm), hk]

theorem f32Pow2_all : ∀ j : Nat, j < 277 → f32Pow2 ((j : Int) - 149) < infPlace ∧ placeMag (f32Pow2 ((j : Int) - 149)) = 2 ^ j := by
  decide +kernel

/-- The place of a power of two. -/
theorem f32Pow2_place {k : Int} (h1 : -149 ≤ k) (h2 : k ≤ 127) : f32Pow2 k < infPlace ∧ placeReal (f32Pow2 k) = (2 : ℝ) ^ k := by
  obtain ⟨hlt, hmag⟩ := f32Pow2_all (k + 149).toNat (by omega)
  have hk : (((k + 149).toNat : Nat) : Int) - 149 = k := by omega
  rw [hk] at hlt hmag
  refine ⟨hlt, ?_⟩
  rw [placeReal, hmag, Nat.cast_pow, Nat.cast_ofNat, ← zpow_natCast, ← zpow_add₀ (by norm_num)]
  congr 1

/-- A sign and a place, without flags, are exact. -/
theorem exactly_place (neg : Bool) {p : Nat} (hp : p < infPlace) {y : ℝ} (hy : y = if neg then -placeReal p else placeReal p) :
    Exactly (fmtF32.sign neg + p, 0) y := by
  obtain ⟨mag, exp, hval, hreal⟩ := value_place neg hp
  refine ⟨rfl, neg, mag, exp, hval, ?_⟩
  rw [hy, ← hreal]
  cases neg
  · exact real_pos ..
  · exact real_neg ..

/-- The sign of a real number in front of a magnitude. -/
theorem real_fin_ite (neg : Bool) (mag : Nat) (exp : Int) :
    (Val.fin neg mag exp).real = if neg then -((mag : ℝ) * 2 ^ exp) else mag * 2 ^ exp := by
  cases neg
  · exact real_pos ..
  · exact real_neg ..

theorem abs_ite_neg (neg : Bool) {w : ℝ} (hw : 0 ≤ w) : |if neg then -w else w| = w := by
  cases neg
  · exact abs_of_nonneg hw
  · exact (abs_neg w).trans (abs_of_nonneg hw)

theorem mag_pos {mag : Nat} (h0 : mag ≠ 0) (exp : Int) : (0 : ℝ) < mag * 2 ^ exp :=
  mul_pos (by exact_mod_cast Nat.pos_of_ne_zero h0) (two_zpow_pos exp)

theorem abs_ite_neg_sub (neg : Bool) (a b : ℝ) : |(if neg then -a else a) - if neg then -b else b| = |a - b| := by
  cases neg
  · rfl
  · show |(-a) - (-b)| = |a - b|
    rw [← abs_neg]
    congr 1
    ring

/-- The range of the magnitudes of FP32. -/
theorem mag_range {p : Nat} {neg : Bool} {mag : Nat} {exp : Int} (h : fmtF32.value p = .fin neg mag exp) (h0 : mag ≠ 0) :
    (2 : ℝ) ^ (-149 : Int) ≤ mag * 2 ^ exp ∧ (mag : ℝ) * 2 ^ exp < 2 ^ (128 : Int) := by
  obtain ⟨hm, he1, he2⟩ := value_fin_bounds h
  have hm1 : (1 : ℝ) ≤ mag := by exact_mod_cast Nat.pos_of_ne_zero h0
  have hm2 : (mag : ℝ) < 2 ^ (24 : Int) := by exact_mod_cast hm
  constructor
  · exact (zpow_le_zpow_right₀ (by norm_num) he1).trans (le_mul_of_one_le_left (two_zpow_pos _).le hm1)
  · rw [show (128 : Int) = 24 + 104 from rfl, zpow_add₀ (by norm_num)]
    exact mul_lt_mul hm2 (zpow_le_zpow_right₀ (by norm_num) he2) (two_zpow_pos _) (two_zpow_pos _).le

/-- The exponents of the powers of two of FP32. -/
theorem pow2_range {p : Nat} {neg : Bool} {mag : Nat} {exp k : Int} (h : fmtF32.value p = .fin neg mag exp) (h0 : mag ≠ 0)
    (hk : (mag : ℝ) * 2 ^ exp = 2 ^ k) : -149 ≤ k ∧ k ≤ 127 := by
  obtain ⟨h1, h2⟩ := mag_range h h0
  rw [hk] at h1 h2
  have h3 := (zpow_le_zpow_iff_right₀ (by norm_num)).1 h1
  have h4 := (zpow_lt_zpow_iff_right₀ (by norm_num)).1 h2
  omega

/-- `near_withinUlps` for a magnitude and its sign. -/
theorem near_withinUlps_signed {neg : Bool} {n k choice : Nat} {e : Int} {w : ℝ} (hn : n ≠ 0) (hk : 1 ≤ k) (hunit : e + 131 ≤ gridExp n e)
    (hle : (n : ℝ) * 2 ^ e ≤ w) (hge : w ≤ (n : ℝ) * 2 ^ e + 2 ^ 130 * 2 ^ e) :
    Near (withinUlps neg n k e choice) (if neg then -w else w) (k * ulp32 (if neg then -w else w)) := by
  have hw : 0 ≤ w := (mul_nonneg (Nat.cast_nonneg n) (two_zpow_pos e).le).trans hle
  refine near_withinUlps hn hk hunit ?_ (by rwa [abs_ite_neg neg hw])
  rw [ite_mul, neg_mul, abs_ite_neg_sub, abs_le]
  constructor <;> linarith

end Sys2Proof.Machine
end

section

/-! ## Reciprocal and reciprocal square root (O31) -/

namespace Sys2Proof.Machine
open Sys2Proof

theorem one_div_real_fin (neg : Bool) (mag : Nat) (exp : Int) :
    1 / (Val.fin neg mag exp).real = if neg then -(1 / ((mag : ℝ) * 2 ^ exp)) else 1 / ((mag : ℝ) * 2 ^ exp) := by
  rw [real_fin_ite]
  cases neg
  · rfl
  · exact one_div_neg_eq_neg_one_div _

/-- The magnitude that `frsq` takes the root of. -/
def rootMag (mag : Nat) (exp : Int) : Nat := if exp % 2 = 0 then mag else 2 * mag

/-- Half of its exponent. -/
def rootExp (exp : Int) : Int := if exp % 2 = 0 then exp / 2 else (exp - 1) / 2

section
variable {p : Nat} {neg : Bool} {mag : Nat} {exp : Int} (h : fmtF32.value p = .fin neg mag exp) (h0 : mag ≠ 0)
include h h0

/-! ### `frcp` -/

theorem approxRcp_exact {k : Int} (hk : pow2Exp mag exp = some k) (h1 : -127 ≤ k) : approxRcp p = (fmtF32.sign neg + f32Pow2 (-k), 0) := by
  have h2 := (pow2_range h h0 ((pow2Exp_eq_some h0).1 hk)).2
  simp only [approxRcp, h, if_neg h0, hk]
  rw [if_pos ⟨h1, by omega, by omega⟩]

theorem approxRcp_eq_within (hk : ∀ k, pow2Exp mag exp = some k → k < -127) :
    approxRcp p = withinUlps neg (2 ^ 512 / mag) 1 (-exp - 512) (Config.approxRcp (BitVec.ofNat 32 p)) := by
  simp only [approxRcp, h, if_neg h0]
  cases hp : pow2Exp mag exp with
  | none => rfl
  | some k =>
    have := hk k hp
    exact if_neg fun hc => by omega

theorem rcp_exactly {k : Int} (hk : |(Val.fin neg mag exp).real| = 2 ^ k) (h1 : -127 ≤ k) :
    Exactly (approxRcp p) (1 / (Val.fin neg mag exp).real) := by
  rw [real_fin_ite, abs_ite_neg neg (mag_pos h0 exp).le] at hk
  have h2 := (pow2_range h h0 hk).2
  obtain ⟨hlt, hreal⟩ := f32Pow2_place (k := -k) (by omega) (by omega)
  rw [approxRcp_exact h h0 ((pow2Exp_eq_some h0).2 hk) h1]
  refine exactly_place neg hlt ?_
  rw [one_div_real_fin, hk, hreal, zpow_neg, one_div]

theorem rcp_near (hk : ∀ k : Int, |(Val.fin neg mag exp).real| = 2 ^ k → k < -127) :
    Near (approxRcp p) (1 / (Val.fin neg mag exp).real) (ulp32 (1 / (Val.fin neg mag exp).real)) := by
  have hw := mag_pos h0 exp
  have hm := (value_fin_bounds h).1
  have hm0 := Nat.pos_of_ne_zero h0
  rw [approxRcp_eq_within h h0 fun k hp => hk k (by rw [real_fin_ite, abs_ite_neg neg hw.le]; exact (pow2Exp_eq_some h0).1 hp)]
  have hlarge : 2 ^ 154 ≤ 2 ^ 512 / mag := by
    rw [Nat.le_div_iff_mul_le hm0]
    exact (Nat.mul_le_mul_left _ hm.le).trans (by decide +kernel)
  have hn : 2 ^ 512 / mag ≠ 0 := by
    have := Nat.two_pow_pos 154
    omega
  have hlog : 154 ≤ Nat.log2 (2 ^ 512 / mag) := (Nat.le_log2 hn).2 hlarge
  have hdiv := div_real (2 ^ 512) mag hm0
  have hinv : 1 / ((mag : ℝ) * 2 ^ exp) = ((2 ^ 512 : Nat) : ℝ) / mag * 2 ^ (-exp - 512) := by
    have hP : (2 : ℝ) ^ 512 ≠ 0 := by positivity
    have hE := (two_zpow_pos exp).ne'
    have hM : (mag : ℝ) ≠ 0 := by exact_mod_cast h0
    rw [sub_eq_add_neg, zpow_add₀ (by norm_num), zpow_neg, zpow_neg, zpow_ofNat, Nat.cast_pow, Nat.cast_ofNat]
    generalize (2 : ℝ) ^ 512 = P at *
    generalize (2 : ℝ) ^ exp = E at *
    field_simp
  have hu := two_zpow_pos (-exp - 512)
  have hnear := near_withinUlps_signed (neg := neg) (n := 2 ^ 512 / mag) (e := -exp - 512) (w := 1 / ((mag : ℝ) * 2 ^ exp))
    (choice := Config.approxRcp (BitVec.ofNat 32 p)) hn le_rfl (by unfold gridExp; omega)
  rw [Nat.cast_one, one_mul, ← one_div_real_fin] at hnear
  refine hnear ?_ ?_ <;> rw [hinv]
  · exact mul_le_mul_of_nonneg_right hdiv.2 hu.le
  · rw [← add_mul]
    exact mul_le_mul_of_nonneg_right (by linarith [hdiv.1]) hu.le

/-! ### `frsq` -/

theorem approxRsq_neg (hneg : neg = true) : approxRsq p = noResult := by
  simp only [approxRsq, h, if_neg h0, hneg, if_true]

theorem approxRsq_exact {n : Int} (hneg : neg = false) (hk : pow2Exp mag exp = some (2 * n)) : approxRsq p = (f32Pow2 (-n), 0) := by
  simp only [approxRsq, h, if_neg h0, hneg, hk, Bool.false_eq_true, if_false]
  rw [if_pos (by omega), show 2 * n / 2 = n by omega]

theorem approxRsq_eq_within (hneg : neg = false) (hk : ∀ n, pow2Exp mag exp ≠ some (2 * n)) :
    approxRsq p = withinUlps false (isqrt (2 ^ 512 / rootMag mag exp)) 1 (-rootExp exp - 256) (Config.approxRsq (BitVec.ofNat 32 p)) := by
  unfold rootMag rootExp
  simp only [approxRsq, h, if_neg h0, hneg, Bool.false_eq_true, if_false]
  cases hp : pow2Exp mag exp with
  | none => rfl
  | some k => exact if_neg fun hc => hk (k / 2) (by rw [hp]; congr 1; omega)

end

theorem rootMag_real (mag : Nat) (exp : Int) : (mag : ℝ) * 2 ^ exp = rootMag mag exp * (2 ^ rootExp exp * 2 ^ rootExp exp) := by
  rw [← zpow_add₀ (by norm_num)]
  unfold rootMag rootExp
  by_cases h : exp % 2 = 0
  · rw [if_pos h, if_pos h, show exp / 2 + exp / 2 = exp by omega]
  · rw [if_neg h, if_neg h, show exp = 1 + ((exp - 1) / 2 + (exp - 1) / 2) by omega, zpow_add₀ (by norm_num), Nat.cast_mul,
      show (1 + ((exp - 1) / 2 + (exp - 1) / 2) - 1) / 2 = (exp - 1) / 2 by omega]
    norm_num
    ring

/-- The bits found so far, and those that may be added. -/
theorem isqrtFrom_spec (n : Nat) : ∀ k r : Nat, r * r ≤ n → n < (r + 2 ^ k) * (r + 2 ^ k) →
    isqrtFrom n k r * isqrtFrom n k r ≤ n ∧ n < (isqrtFrom n k r + 1) * (isqrtFrom n k r + 1)
  | 0, r, h1, h2 => ⟨h1, h2⟩
  | k + 1, r, h1, h2 => by
    rw [isqrtFrom]
    split
    next h => exact isqrtFrom_spec n k _ h (by rwa [Nat.add_assoc, ← Nat.two_mul, ← Nat.pow_succ'])
    next h => exact isqrtFrom_spec n k r h1 (not_le.1 h)

theorem isqrt_spec (n : Nat) : isqrt n * isqrt n ≤ n ∧ n < (isqrt n + 1) * (isqrt n + 1) := by
  refine isqrtFrom_spec n _ 0 (Nat.zero_le n) ?_
  have h : n < 2 ^ (n.log2 + 1) := Nat.lt_log2_self
  rw [Nat.zero_add, ← Nat.pow_add]
  exact h.trans_le (Nat.pow_le_pow_right (by norm_num) (by omega))

theorem rootMag_pos {mag : Nat} (h0 : mag ≠ 0) (exp : Int) : 0 < rootMag mag exp := by
  unfold rootMag
  split <;> omega

theorem rootMag_le {mag : Nat} (hm : mag < 2 ^ 24) (exp : Int) : rootMag mag exp ≤ 2 ^ 25 := by
  unfold rootMag
  split <;> omega

/-- The inverse root of a number m·4^e, in units of 2^(-e-256). -/
theorem one_div_sqrt_mul {m : ℝ} (hm : 0 < m) (e : Int) :
    1 / Real.sqrt (m * (2 ^ e * 2 ^ e)) = Real.sqrt (((2 ^ 512 : Nat) : ℝ) / m) * 2 ^ (-e - 256) := by
  have hP : (0 : ℝ) < 2 ^ 256 := by positivity
  have hE : (0 : ℝ) < 2 ^ e := two_zpow_pos e
  have hs := Real.sqrt_pos.2 hm
  have hpow : ((2 ^ 512 : Nat) : ℝ) = 2 ^ 256 * 2 ^ 256 := by rw [← pow_add, Nat.cast_pow, Nat.cast_ofNat]
  rw [hpow, Real.sqrt_div (mul_nonneg hP.le hP.le), Real.sqrt_mul_self hP.le, Real.sqrt_mul hm.le, Real.sqrt_mul_self hE.le, sub_eq_add_neg,
    zpow_add₀ (by norm_num), zpow_neg, zpow_neg, zpow_ofNat]
  generalize (2 : ℝ) ^ 256 = P at *
  generalize (2 : ℝ) ^ e = E at *
  field_simp

theorem le_isqrt {N : Nat} (h : 2 ^ 400 ≤ N) : 2 ^ 199 ≤ isqrt N := by
  by_contra hc
  have h1 : (isqrt N + 1) * (isqrt N + 1) ≤ 2 ^ 199 * 2 ^ 199 := Nat.mul_le_mul (not_le.1 hc) (not_le.1 hc)
  have h2 : 2 ^ 199 * 2 ^ 199 ≤ 2 ^ 400 := by decide +kernel
  exact absurd (isqrt_spec N).2 (not_lt.2 ((h1.trans h2).trans h))

/-- The integer root of a number rounded down is the real root rounded down. -/
theorem isqrt_real {N : Nat} {D : ℝ} (h1 : D - 1 < N) (h2 : N ≤ D) : (isqrt N : ℝ) ≤ Real.sqrt D ∧ Real.sqrt D ≤ isqrt N + 1 := by
  obtain ⟨hs1, hs2⟩ := isqrt_spec N
  constructor
  · refine Real.le_sqrt_of_sq_le ?_
    rw [pow_two]
    exact le_trans (by exact_mod_cast hs1) h2
  · have hs : (N : ℝ) + 1 ≤ (isqrt N + 1) * (isqrt N + 1) := by exact_mod_cast hs2
    refine Real.sqrt_le_iff.2 ⟨by positivity, ?_⟩
    rw [pow_two]
    linarith

section
variable {p : Nat} {neg : Bool} {mag : Nat} {exp : Int} (h : fmtF32.value p = .fin neg mag exp) (h0 : mag ≠ 0)
include h h0

theorem real_pos_iff : 0 < (Val.fin neg mag exp).real ↔ neg = false := by
  have hw := mag_pos h0 exp
  rw [real_fin_ite]
  cases neg
  · exact ⟨fun _ => rfl, fun _ => hw⟩
  · exact ⟨fun hc => absurd hc (by simpa using hw.le), fun hc => Bool.noConfusion hc⟩

theorem real_neg_iff : (Val.fin neg mag exp).real < 0 ↔ neg = true := by
  have hw := mag_pos h0 exp
  rw [real_fin_ite]
  cases neg
  · exact ⟨fun hc => absurd hc (not_lt.2 hw.le), fun hc => Bool.noConfusion hc⟩
  · exact ⟨fun _ => rfl, fun _ => by simpa using hw⟩

theorem rsq_exactly {n : Int} (hv : (Val.fin neg mag exp).real = 4 ^ n) : Exactly (approxRsq p) (2 ^ (-n)) := by
  have hneg := (real_pos_iff h h0).1 (hv ▸ zpow_pos (by norm_num) n)
  have hk : (mag : ℝ) * 2 ^ exp = 2 ^ (2 * n) := by
    rw [zpow_mul, show (2 : ℝ) ^ (2 : Int) = 4 by norm_num, ← hv, hneg, real_pos]
  obtain ⟨h1, h2⟩ := pow2_range h h0 hk
  obtain ⟨hlt, hreal⟩ := f32Pow2_place (k := -n) (by omega) (by omega)
  rw [approxRsq_exact h h0 hneg ((pow2Exp_eq_some h0).2 hk), ← hreal]
  have := exactly_place false hlt rfl
  rwa [sign_f32, if_neg Bool.false_ne_true, Nat.zero_add] at this

theorem rsq_near (hpos : 0 < (Val.fin neg mag exp).real) (hv : ∀ n : Int, (Val.fin neg mag exp).real ≠ 4 ^ n) :
    Near (approxRsq p) (1 / Real.sqrt (Val.fin neg mag exp).real) (ulp32 (1 / Real.sqrt (Val.fin neg mag exp).real)) := by
  have hneg := (real_pos_iff h h0).1 hpos
  subst hneg
  have hk (n : Int) : pow2Exp mag exp ≠ some (2 * n) := fun hp => hv n (by
    rw [real_pos, (pow2Exp_eq_some h0).1 hp, zpow_mul]
    norm_num)
  have hm0 := rootMag_pos h0 exp
  rw [approxRsq_eq_within h h0 rfl hk, real_pos, rootMag_real, one_div_sqrt_mul (by exact_mod_cast hm0)]
  have hlarge : 2 ^ 400 ≤ 2 ^ 512 / rootMag mag exp := by
    rw [Nat.le_div_iff_mul_le hm0]
    exact (Nat.mul_le_mul_left _ (rootMag_le (value_fin_bounds h).1 exp)).trans (by decide +kernel)
  obtain ⟨hd1, hd2⟩ := div_real (2 ^ 512) (rootMag mag exp) hm0
  obtain ⟨hle, hge⟩ := isqrt_real hd1 hd2
  have hn := le_isqrt hlarge
  generalize isqrt (2 ^ 512 / rootMag mag exp) = n at *
  have hn0 : n ≠ 0 := ((Nat.two_pow_pos 199).trans_le hn).ne'
  have hlog : 199 ≤ Nat.log2 n := (Nat.le_log2 hn0).2 hn
  have hu := two_zpow_pos (-rootExp exp - 256)
  generalize Real.sqrt (((2 ^ 512 : Nat) : ℝ) / rootMag mag exp) = D at hle hge ⊢
  clear hd1 hd2 hlarge hn
  have hnear := near_withinUlps_signed (neg := false) (n := n) (e := -rootExp exp - 256) (w := D * 2 ^ (-rootExp exp - 256))
    (choice := Config.approxRsq (BitVec.ofNat 32 p)) hn0 le_rfl (by unfold gridExp; omega) (mul_le_mul_of_nonneg_right hle hu.le) (by nlinarith)
  rwa [Nat.cast_one, one_mul, if_neg Bool.false_ne_true] at hnear

end

end Sys2Proof.Machine
end

section

/-! ## Exponential to base 2 (O31) -/

namespace Sys2Proof.Machine
open Sys2Proof

theorem fixed256_real (mag : Nat) {exp : Int} (h : -256 ≤ exp) : (fixed256 mag exp : ℝ) = mag * 2 ^ exp * 2 ^ 256 := by
  have hpow := two_zpow_sub (show -256 ≤ exp by omega)
  rw [fixed256, Nat.cast_mul, show (exp + 256).toNat = (exp - -256).toNat by rw [sub_neg_eq_add], hpow, zpow_neg, zpow_ofNat]
  field_simp

/-- A value in units of 2^-256. -/
theorem signedAt_fixed256 (neg : Bool) (mag : Nat) {exp : Int} (h : -256 ≤ exp) :
    (signedAt neg (fixed256 mag exp) (-256) (-256) : ℝ) = (Val.fin neg mag exp).real * 2 ^ 256 := by
  have hs := signedAt_real neg (fixed256 mag exp) (le_refl (-256 : Int))
  rw [real_fin_ite, fixed256_real mag h, zpow_neg, zpow_ofNat] at hs
  have hP : (2 : ℝ) ^ 256 ≠ 0 := by positivity
  rw [real_fin_ite]
  generalize (2 : ℝ) ^ 256 = P at *
  rw [← div_eq_mul_inv, div_eq_iff hP] at hs
  rw [hs]
  cases neg
  · simp only [Bool.false_eq_true, if_false]
    field_simp
  · simp only [if_true]
    field_simp

/-- A fraction times log 2, in units of 2^-256. -/
theorem mul_ln2_near {f : Nat} (hf : f < 2 ^ 256) :
    ((f * ln2Fixed / 2 ^ 256 : Nat) : ℝ) / 2 ^ 256 ≤ f / 2 ^ 256 * Real.log 2 ∧
      f / 2 ^ 256 * Real.log 2 ≤ ((f * ln2Fixed / 2 ^ 256 : Nat) : ℝ) / 2 ^ 256 + 2 / 2 ^ 256 := by
  have hL1 := ln2Fixed_le
  have hL2 := ln2Fixed_gt
  have hdiv := div_real (f * ln2Fixed) (2 ^ 256) (by positivity)
  rw [Nat.cast_mul, Nat.cast_pow, Nat.cast_ofNat] at hdiv
  generalize f * ln2Fixed / 2 ^ 256 = x at *
  have hF : (f : ℝ) ≤ 2 ^ 256 := by exact_mod_cast hf.le
  have hf0 : (0 : ℝ) ≤ f := Nat.cast_nonneg f
  clear hf
  have hP : (0 : ℝ) < 2 ^ 256 := by positivity
  generalize (2 : ℝ) ^ 256 = P at *
  constructor
  · calc (x : ℝ) / P ≤ f * ln2Fixed / P / P := div_le_div_of_nonneg_right hdiv.2 hP.le
      _ = f / P * (ln2Fixed / P) := by rw [div_mul_div_comm, div_div]
      _ ≤ f / P * Real.log 2 := mul_le_mul_of_nonneg_left hL1 (div_nonneg hf0 hP.le)
  · calc (f : ℝ) / P * Real.log 2 ≤ f / P * ((ln2Fixed + 1) / P) := mul_le_mul_of_nonneg_left hL2 (div_nonneg hf0 hP.le)
      _ = (f * ln2Fixed / P + f / P) / P := by field_simp
      _ ≤ (x + 2) / P := by
        have hF1 : (f : ℝ) / P ≤ 1 := (div_le_one hP).2 hF
        exact div_le_div_of_nonneg_right (by linarith [hdiv.1]) hP.le
      _ = x / P + 2 / P := add_div _ _ _

theorem exp_le_add {X T d : ℝ} (h1 : T ≤ 1) (hXT : X ≤ T) (hTX : T ≤ X + d) : Real.exp T ≤ Real.exp X + 3 * d := by
  have he3 : Real.exp T ≤ 3 := (Real.exp_le_exp.2 h1).trans (Real.exp_one_lt_d9.le.trans (by norm_num))
  have hmul := mul_le_mul_of_nonneg_left (Real.add_one_le_exp (X - T)) (Real.exp_pos T).le
  rw [← Real.exp_add, add_sub_cancel] at hmul
  have hd : Real.exp T * (T - X) ≤ 3 * d := mul_le_mul he3 (by linarith) (by linarith) (by norm_num)
  linarith

theorem tail_61 {X : ℝ} (h0 : 0 ≤ X) (h1 : X ≤ 1) : (2 : ℝ) ^ 256 * (X ^ (60 + 1) / (60 + 1).factorial * 2) ≤ 1 := by
  have hfac : 2 ^ 256 * 2 ≤ (60 + 1).factorial := by decide +kernel
  have hfacr : (2 : ℝ) ^ 256 * 2 ≤ 1 * ((60 + 1).factorial : ℝ) := by
    rw [one_mul]
    exact_mod_cast hfac
  have hP : (0 : ℝ) ≤ 2 ^ 256 := pow_nonneg zero_le_two _
  refine tail_le (by exact_mod_cast Nat.factorial_pos _) (le_trans ?_ hfacr)
  exact mul_le_mul_of_nonneg_right (mul_le_of_le_one_right hP (pow_le_one₀ h0 h1)) zero_le_two

/-- What the series of e^x leaves after 60 terms, up to 1. -/
theorem expm1Fixed_60 {x : Nat} (hx : (x : ℝ) / 2 ^ 256 ≤ 1) :
    (expm1Fixed 256 60 x : ℝ) ≤ 2 ^ 256 * (Real.exp (x / 2 ^ 256) - 1) ∧
      2 ^ 256 * (Real.exp (x / 2 ^ 256) - 1) - 181 ≤ expm1Fixed 256 60 x := by
  have hX0 : 0 ≤ (x : ℝ) / 2 ^ 256 := by positivity
  obtain ⟨h1, h2⟩ := expm1Fixed_bounds 256 60 x (by rw [div_le_iff₀ (by norm_num)]; exact hx.trans (by norm_num))
  have hexp : Real.exp (x / 2 ^ 256) ≤ 3 := (Real.exp_le_exp.2 hx).trans (Real.exp_one_lt_d9.le.trans (by norm_num))
  refine ⟨h1, le_trans (sub_le_sub_left ?_ _) h2⟩
  rw [Nat.cast_ofNat]
  exact (add_le_add (mul_le_mul_of_nonneg_left hexp (by norm_num)) (tail_61 hX0 hx)).trans (by norm_num)

/-- e^x - 1 in fixed point for a product with ln 2, where 2^256 e^T is the exact value. -/
theorem expm1Fixed_mul_ln2 {f : Nat} (hf : f < 2 ^ 256) :
    let T : ℝ := f / 2 ^ 256 * Real.log 2
    ((2 ^ 256 + expm1Fixed 256 60 (f * ln2Fixed / 2 ^ 256) : Nat) : ℝ) ≤ 2 ^ 256 * Real.exp T ∧
      2 ^ 256 * Real.exp T ≤ ((2 ^ 256 + expm1Fixed 256 60 (f * ln2Fixed / 2 ^ 256) : Nat) : ℝ) + 200 := by
  intro T
  have hP : (0 : ℝ) < 2 ^ 256 := by positivity
  have hF1 : (f : ℝ) / 2 ^ 256 ≤ 1 := (div_le_one hP).2 (by exact_mod_cast hf.le)
  have hT1 : T ≤ 1 := mul_le_one₀ hF1 (Real.log_nonneg (by norm_num)) (Real.log_two_lt_d9.le.trans (by norm_num))
  obtain ⟨hXT, hTX⟩ := mul_ln2_near hf
  obtain ⟨hE1, hE2⟩ := expm1Fixed_60 (hXT.trans hT1)
  have hlow : _ ≤ 2 ^ 256 * Real.exp T := mul_le_mul_of_nonneg_left (Real.exp_le_exp.2 hXT) hP.le
  have hhigh := mul_le_mul_of_nonneg_left (exp_le_add hT1 hXT hTX) hP.le
  rw [mul_add, show (2 : ℝ) ^ 256 * (3 * (2 / 2 ^ 256)) = 6 by field_simp; norm_num] at hhigh
  rw [Nat.cast_add, Nat.cast_pow, Nat.cast_ofNat]
  generalize f * ln2Fixed / 2 ^ 256 = x at *
  generalize (expm1Fixed 256 60 x : ℝ) = E at *
  generalize (2 : ℝ) ^ 256 = P at *
  constructor <;> linarith

theorem two_pow_256_pos : (0 : Int) < 2 ^ 256 := by positivity

theorem intCast_units (c : Int) : ((c * 2 ^ 256 : Int) : ℝ) = c * 2 ^ 256 := by rw [Int.cast_mul, Int.cast_pow, Int.cast_ofNat]

/-- Comparing a value in units of 2^-256 with an integer. -/
theorem units_le_iff {V : Int} {v : ℝ} (hV : (V : ℝ) = v * 2 ^ 256) (c : Int) : c * 2 ^ 256 ≤ V ↔ (c : ℝ) ≤ v := by
  rw [← Int.cast_le (R := ℝ), intCast_units, hV]
  exact mul_le_mul_iff_of_pos_right (by positivity)

theorem units_lt_iff {V : Int} {v : ℝ} (hV : (V : ℝ) = v * 2 ^ 256) (c : Int) : V < c * 2 ^ 256 ↔ v < (c : ℝ) := by
  rw [← not_le, units_le_iff hV, not_le]

/-- A value in units of 2^-256, by its integer part and the rest. -/
theorem units_split {V : Int} {v : ℝ} (hV : (V : ℝ) = v * 2 ^ 256) : v = (V / 2 ^ 256 : Int) + ((V % 2 ^ 256).toNat : Nat) / 2 ^ 256 := by
  have hf0 : ((V % 2 ^ 256).toNat : Int) = V % 2 ^ 256 := Int.toNat_of_nonneg (Int.emod_nonneg V two_pow_256_pos.ne')
  have hf : (((V % 2 ^ 256).toNat : Nat) : ℝ) = ((V % 2 ^ 256 : Int) : ℝ) := by exact_mod_cast hf0
  have hsum : (V : ℝ) = (V / 2 ^ 256 : Int) * 2 ^ 256 + ((V % 2 ^ 256 : Int) : ℝ) := by
    rw [← intCast_units, ← Int.cast_add, Int.ediv_mul_add_emod]
  rw [hV] at hsum
  rw [hf, ← mul_right_cancel_iff_of_pos (by positivity : (0 : ℝ) < 2 ^ 256), hsum, add_mul, div_mul_cancel₀ _ (by positivity)]

section
variable {p : Nat} {neg : Bool} {mag : Nat} {exp : Int} (h : fmtF32.value p = .fin neg mag exp)
include h

/-- `fexp2` of a finite operand, in units of 2^-256. -/
theorem approxExp2_eq : ∃ V : Int, (V : ℝ) = (Val.fin neg mag exp).real * 2 ^ 256 ∧
    approxExp2 p =
      if 128 ≤ V / 2 ^ 256 then (f32Inf false, fOF ||| fNX)
      else if V < -150 * 2 ^ 256 then (0, fUF ||| fNX)
      else if (V % 2 ^ 256).toNat = 0 ∧ -149 ≤ V / 2 ^ 256 then (f32Pow2 (V / 2 ^ 256), 0)
      else withinUlps false (2 ^ 256 + expm1Fixed 256 60 ((V % 2 ^ 256).toNat * ln2Fixed / 2 ^ 256)) 2 (V / 2 ^ 256 - 256)
        (Config.approxExp2 (BitVec.ofNat 32 p)) := by
  refine ⟨signedAt neg (fixed256 mag exp) (-256) (-256), signedAt_fixed256 neg mag (by linarith [(value_fin_bounds h).2.1]), ?_⟩
  simp only [approxExp2, h]

theorem exp2_above (hv : 128 ≤ (Val.fin neg mag exp).real) : approxExp2 p = (0x7F800000, fOF ||| fNX) := by
  obtain ⟨V, hV, he⟩ := approxExp2_eq h
  rw [he, if_pos ((Int.le_ediv_iff_mul_le two_pow_256_pos).2 ((units_le_iff hV 128).2 (by exact_mod_cast hv)))]
  rfl

theorem exp2_below (hv : (Val.fin neg mag exp).real < -150) : approxExp2 p = (0, fUF ||| fNX) := by
  obtain ⟨V, hV, he⟩ := approxExp2_eq h
  have hc (c : Int) (hc : 150 + c ≥ 0) : V < c * 2 ^ 256 := (units_lt_iff hV c).2 (hv.trans_le (by exact_mod_cast (by omega : -150 ≤ c)))
  rw [he, if_neg (fun h128 => ?_), if_pos (hc (-150) (by norm_num))]
  exact absurd ((Int.le_ediv_iff_mul_le two_pow_256_pos).1 h128) (not_le.2 (hc 128 (by norm_num)))

theorem exp2_exactly {k : Int} (hv : (Val.fin neg mag exp).real = k) (h1 : -149 ≤ k) (h2 : k ≤ 127) : Exactly (approxExp2 p) (2 ^ k) := by
  obtain ⟨V, hV, he⟩ := approxExp2_eq h
  have hVk : V = k * 2 ^ 256 := by
    have : (V : ℝ) = ((k * 2 ^ 256 : Int) : ℝ) := by rw [hV, hv, intCast_units]
    exact_mod_cast this
  have hdiv : V / 2 ^ 256 = k := by rw [hVk, Int.mul_ediv_cancel _ two_pow_256_pos.ne']
  have hmod : (V % 2 ^ 256).toNat = 0 := by rw [hVk, Int.mul_emod_left, Int.toNat_zero]
  have hlow : ¬ V < -150 * 2 ^ 256 := by
    rw [hVk, not_lt]
    exact mul_le_mul_of_nonneg_right (by omega) two_pow_256_pos.le
  obtain ⟨hlt, hreal⟩ := f32Pow2_place h1 h2
  have hex := exactly_place false hlt rfl
  rw [sign_f32, if_neg Bool.false_ne_true, Nat.zero_add, if_neg Bool.false_ne_true, hreal] at hex
  rwa [he, hdiv, hmod, if_neg (by omega), if_neg hlow, if_pos ⟨rfl, h1⟩]

theorem exp2_near (h1 : -150 ≤ (Val.fin neg mag exp).real) (h2 : (Val.fin neg mag exp).real < 128)
    (hk : ∀ k : Int, (Val.fin neg mag exp).real = k → k < -149) :
    Near (approxExp2 p) (Real.rpow 2 (Val.fin neg mag exp).real) (2 * ulp32 (Real.rpow 2 (Val.fin neg mag exp).real)) := by
  obtain ⟨V, hV, he⟩ := approxExp2_eq h
  have hcond1 : ¬ 128 ≤ V / 2 ^ 256 := fun hc =>
    absurd ((units_le_iff hV 128).1 ((Int.le_ediv_iff_mul_le two_pow_256_pos).1 hc)) (not_le.2 (by exact_mod_cast h2))
  have hcond2 : ¬ V < -150 * 2 ^ 256 := fun hc => absurd ((units_lt_iff hV (-150)).1 hc) (not_lt.2 (by exact_mod_cast h1))
  have hsplit := units_split hV
  have hcond3 : ¬ ((V % 2 ^ 256).toNat = 0 ∧ -149 ≤ V / 2 ^ 256) := fun ⟨h0, h149⟩ => by
    rw [h0, Nat.cast_zero, zero_div, add_zero] at hsplit
    exact absurd h149 (not_le.2 (hk _ hsplit))
  have hfb : (V % 2 ^ 256).toNat < 2 ^ 256 := by
    rw [Int.toNat_lt (Int.emod_nonneg V two_pow_256_pos.ne')]
    exact_mod_cast Int.emod_lt_of_pos V two_pow_256_pos
  rw [he, if_neg hcond1, if_neg hcond2, if_neg hcond3]
  obtain ⟨ha, hb⟩ := expm1Fixed_mul_ln2 hfb
  generalize V / 2 ^ 256 = k at *
  generalize (V % 2 ^ 256).toNat = f at *
  have hn : 2 ^ 256 ≤ 2 ^ 256 + expm1Fixed 256 60 (f * ln2Fixed / 2 ^ 256) := Nat.le_add_right ..
  have hn0 : 2 ^ 256 + expm1Fixed 256 60 (f * ln2Fixed / 2 ^ 256) ≠ 0 := by
    have := Nat.two_pow_pos 256
    omega
  have hlog := (Nat.le_log2 hn0).2 hn
  have hy : Real.rpow 2 (Val.fin neg mag exp).real = 2 ^ (256 : Nat) * Real.exp (f / 2 ^ 256 * Real.log 2) * 2 ^ (k - 256) := by
    have hpow : (2 : ℝ) ^ (256 : Nat) * 2 ^ (k - 256) = 2 ^ k := by
      rw [← zpow_natCast, ← zpow_add₀ (by norm_num)]
      congr 1
      push_cast
      ring
    show (2 : ℝ) ^ (Val.fin neg mag exp).real = _
    rw [hsplit, Real.rpow_add (by norm_num), Real.rpow_intCast, Real.rpow_def_of_pos (by norm_num), mul_right_comm, hpow, mul_comm (Real.log 2)]
  have hu := two_zpow_pos (k - 256)
  generalize 2 ^ 256 + expm1Fixed 256 60 (f * ln2Fixed / 2 ^ 256) = n at *
  rw [hy]
  have hnear := near_withinUlps_signed (neg := false) (n := n) (k := 2) (e := k - 256) (w := 2 ^ (256 : Nat) * Real.exp (f / 2 ^ 256 * Real.log 2) * 2 ^ (k - 256))
    (choice := Config.approxExp2 (BitVec.ofNat 32 p)) hn0 one_le_two (by unfold gridExp; omega) (mul_le_mul_of_nonneg_right ha hu.le)
    (by rw [← add_mul]; exact mul_le_mul_of_nonneg_right (hb.trans (by norm_num)) hu.le)
  rwa [Nat.cast_ofNat, if_neg Bool.false_ne_true] at hnear

end

end Sys2Proof.Machine
end

section

/-! ## Logarithm to base 2 (O31) -/

namespace Sys2Proof.Machine
open Sys2Proof

theorem round_ofInt_all : ∀ j : Nat, j < 277 →
    let k : Int := (j : Int) - 149
    let r := (fmtF32.round .rne (Val.ofInt k 0)).1
    r = fmtF32.sign (decide (k < 0)) + r % 2 ^ 31 ∧ r % 2 ^ 31 < infPlace ∧ placeMag (r % 2 ^ 31) = k.natAbs * 2 ^ 149 := by
  decide +kernel

/-- The integers that are exponents of FP32 are FP32 values. -/
theorem round_ofInt_exactly {k : Int} (h1 : -149 ≤ k) (h2 : k ≤ 127) : Exactly ((fmtF32.round .rne (Val.ofInt k 0)).1, 0) k := by
  obtain ⟨hr, hlt, hmag⟩ := round_ofInt_all (k + 149).toNat (by omega)
  rw [show (((k + 149).toNat : Nat) : Int) - 149 = k by omega] at hr hlt hmag
  rw [hr]
  refine exactly_place _ hlt ?_
  have habs : placeReal ((fmtF32.round .rne (Val.ofInt k 0)).1 % 2 ^ 31) = |(k : ℝ)| := by
    rw [placeReal, hmag, Nat.cast_mul, Nat.cast_natAbs, Int.cast_abs, Nat.cast_pow, Nat.cast_ofNat, zpow_neg, zpow_ofNat,
      mul_inv_cancel_right₀ (by positivity)]
  rw [habs]
  by_cases hk : k < 0
  · rw [decide_eq_true hk, if_pos rfl, abs_of_neg (by exact_mod_cast hk), neg_neg]
  · rw [decide_eq_false hk, if_neg Bool.false_ne_true, abs_of_nonneg (by exact_mod_cast not_lt.1 hk)]

theorem placeReal_three_quarters : placeReal 0x3F400000 = 3 / 4 := by
  rw [placeReal, show placeMag 0x3F400000 = 3 * 2 ^ 147 by decide +kernel]
  norm_num

theorem placeReal_three_halves : placeReal 0x3FC00000 = 3 / 2 := by
  rw [placeReal, show placeMag 0x3FC00000 = 3 * 2 ^ 148 by decide +kernel]
  norm_num

/-- `flog2` in units of 2^-256. -/
def log2Units (mag : Nat) (exp : Int) : Int :=
  ((Nat.log2 mag : Int) + exp) * 2 ^ 256 + (lnFixed (mag * 2 ^ (256 - Nat.log2 mag)) * 2 ^ 256 / ln2Fixed : Nat)

theorem log2Units_near {mag : Nat} (h0 : mag ≠ 0) (hm : mag < 2 ^ 24) (exp : Int) :
    |(log2Units mag exp : ℝ) - 2 ^ 256 * Real.logb 2 (mag * 2 ^ exp)| ≤ 3000 := by
  have hlog : Nat.log2 mag < 24 := (Nat.log2_lt h0).2 hm
  obtain ⟨hlo, hhi⟩ := (Nat.log2_eq_iff h0).1 rfl
  have hsplit : 2 ^ Nat.log2 mag * 2 ^ (256 - Nat.log2 mag) = 2 ^ 256 := by
    rw [← Nat.pow_add]
    congr 1
    omega
  have h1 : 2 ^ 256 ≤ mag * 2 ^ (256 - Nat.log2 mag) := hsplit ▸ Nat.mul_le_mul_right _ hlo
  have h2 : mag * 2 ^ (256 - Nat.log2 mag) ≤ 2 * 2 ^ 256 := by
    rw [← hsplit, ← Nat.mul_assoc, ← Nat.pow_succ']
    exact Nat.mul_le_mul_right _ hhi.le
  have hnear := log2Fixed_near h1 h2
  have hmr : (0 : ℝ) < mag := by exact_mod_cast Nat.pos_of_ne_zero h0
  have hM : ((mag * 2 ^ (256 - Nat.log2 mag) : Nat) : ℝ) / 2 ^ 256 = mag / 2 ^ Nat.log2 mag := by
    have hr : (2 : ℝ) ^ 256 = 2 ^ Nat.log2 mag * 2 ^ (256 - Nat.log2 mag) := by exact_mod_cast hsplit.symm
    rw [hr, Nat.cast_mul, Nat.cast_pow, Nat.cast_ofNat, mul_div_mul_right _ _ (by positivity)]
  have hv : Real.logb 2 (mag * 2 ^ exp) = ((Nat.log2 mag : Int) + exp : Int) + Real.logb 2 (mag / 2 ^ Nat.log2 mag) := by
    have hw : (mag : ℝ) * 2 ^ exp = 2 ^ ((Nat.log2 mag : Int) + exp) * (mag / 2 ^ Nat.log2 mag) := by
      rw [zpow_add₀ (by norm_num), zpow_natCast]
      field_simp
    rw [hw, Real.logb_mul (two_zpow_pos _).ne' (by positivity), ← Real.rpow_intCast, Real.logb_rpow (by norm_num) (by norm_num)]
  rw [hM] at hnear
  rw [log2Units, hv, Int.cast_add, intCast_units, Int.cast_natCast]
  generalize ((lnFixed (mag * 2 ^ (256 - Nat.log2 mag)) * 2 ^ 256 / ln2Fixed : Nat) : ℝ) = q at *
  convert hnear using 2
  ring

/-- Between 3/4 and 3/2 the logarithm is at most 1. -/
theorem abs_logb_le_one {v : ℝ} (h1 : 3 / 4 ≤ v) (h2 : v ≤ 3 / 2) : |Real.logb 2 v| ≤ 1 := by
  rw [abs_le, Real.le_logb_iff_rpow_le (by norm_num) (by linarith), Real.logb_le_iff_le_rpow (by norm_num) (by linarith), Real.rpow_neg_one,
    Real.rpow_one]
  constructor <;> linarith

/-- Elsewhere it is at least 1/4. -/
theorem le_abs_logb {v : ℝ} (hv : 0 < v) (h1 : ¬ (3 / 4 ≤ v ∧ v ≤ 3 / 2)) : 1 / 4 ≤ |Real.logb 2 v| := by
  have hpow : Real.logb 2 (v ^ 4) = 4 * Real.logb 2 v := by
    rw [Real.logb_pow]
    norm_num
  rcases lt_or_ge v (3 / 4) with hlt | hge
  · have h4 : v ^ 4 ≤ 1 / 2 := (pow_le_pow_left₀ hv.le hlt.le 4).trans (by norm_num)
    have h5 : Real.logb 2 (v ^ 4) ≤ -1 := by
      rw [Real.logb_le_iff_le_rpow (by norm_num) (by positivity), Real.rpow_neg_one]
      linarith
    rw [abs_of_neg (by linarith)]
    linarith
  · have hgt : 3 / 2 < v := by
      by_contra hc
      exact h1 ⟨hge, not_lt.1 hc⟩
    have h4 : 2 ≤ v ^ 4 := le_trans (by norm_num) (pow_le_pow_left₀ (by norm_num) hgt.le 4)
    have h5 : 1 ≤ Real.logb 2 (v ^ 4) := by rwa [Real.le_logb_iff_rpow_le (by norm_num) (by positivity), Real.rpow_one]
    rw [abs_of_pos (by linarith)]
    linarith

/-- A result near a number that is not small, which a sum in units of 2^-256 is near. -/
theorem near_withinUlps_units {a : Int} {choice : Nat} {y : ℝ} (ha : |(a : ℝ) - 2 ^ 256 * y| ≤ 3000) (hy : 1 / 4 ≤ |y|) :
    Near (withinUlps (decide (a < 0)) (a.natAbs - 2 ^ 20) 2 (-256) choice) y (2 * ulp32 y) := by
  have hP : (2 : ℝ) ^ 250 ≤ 2 ^ 256 * (1 / 4) := by norm_num
  have hsmall : (2 : ℝ) ^ 200 + 2 ^ 20 + 3000 ≤ 2 ^ 250 := by norm_num
  have hP0 : (0 : ℝ) < 2 ^ 256 := by positivity
  have hPy := mul_le_mul_of_nonneg_left hy hP0.le
  have hu : (2 : ℝ) ^ (-256 : Int) = (2 ^ 256)⁻¹ := by rw [zpow_neg, zpow_ofNat]
  have hsign : y = if decide (a < 0) then -|y| else |y| := by
    obtain ⟨h1, h2⟩ := abs_le.1 ha
    rcases lt_or_ge y 0 with hneg | hpos
    · have haneg : a < 0 := by
        have : (a : ℝ) < 0 := by
          rw [abs_of_neg hneg] at hPy
          linarith
        exact_mod_cast this
      rw [decide_eq_true haneg, if_pos rfl, abs_of_neg hneg, neg_neg]
    · have hapos : ¬ a < 0 := by
        have : (0 : ℝ) < a := by
          rw [abs_of_nonneg hpos] at hPy
          linarith
        exact not_lt.2 (by exact_mod_cast this.le)
      rw [decide_eq_false hapos, if_neg Bool.false_ne_true, abs_of_nonneg hpos]
  have habs : |((a.natAbs : Nat) : ℝ) - 2 ^ 256 * (|y|)| ≤ 3000 := by
    have := abs_abs_sub_abs_le_abs_sub (a : ℝ) (2 ^ 256 * y)
    rw [abs_mul, abs_of_pos hP0] at this
    rw [Nat.cast_natAbs, Int.cast_abs]
    exact this.trans ha
  obtain ⟨h1, h2⟩ := abs_le.1 habs
  have hlarge : 2 ^ 20 + 2 ^ 200 ≤ a.natAbs := by
    have : ((2 ^ 20 + 2 ^ 200 : Nat) : ℝ) ≤ a.natAbs := by
      push_cast
      linarith
    exact_mod_cast this
  have hn200 : 2 ^ 200 ≤ a.natAbs - 2 ^ 20 := by omega
  have hn : a.natAbs - 2 ^ 20 ≠ 0 := by
    have := Nat.two_pow_pos 200
    omega
  have hlog := (Nat.le_log2 hn).2 hn200
  have hcast : ((a.natAbs - 2 ^ 20 : Nat) : ℝ) = (a.natAbs : Nat) - 2 ^ 20 := by
    rw [Nat.cast_sub (by omega), Nat.cast_pow, Nat.cast_ofNat]
  have hnear := near_withinUlps_signed (neg := decide (a < 0)) (n := a.natAbs - 2 ^ 20) (k := 2) (e := -256) (w := |y|) (choice := choice) hn
    one_le_two (by unfold gridExp; omega) ?_ ?_
  · rwa [Nat.cast_ofNat, ← hsign] at hnear
  · rw [hu, ← div_eq_mul_inv, div_le_iff₀ hP0, hcast]
    linarith
  · rw [hu, ← add_mul, ← div_eq_mul_inv, le_div_iff₀ hP0, hcast]
    have : (2 : ℝ) ^ 20 + 3000 ≤ 2 ^ 130 := by norm_num
    linarith

section
variable {p : Nat} {neg : Bool} {mag : Nat} {exp : Int} (h : fmtF32.value p = .fin neg mag exp) (h0 : mag ≠ 0)
include h h0

theorem approxLog2_neg (hneg : neg = true) : approxLog2 p = noResult := by
  simp only [approxLog2, h, if_neg h0, hneg, if_true]

theorem log2_exactly {k : Int} (hv : (Val.fin neg mag exp).real = 2 ^ k) : Exactly (approxLog2 p) k := by
  have hneg := (real_pos_iff h h0).1 (hv ▸ two_zpow_pos k)
  rw [hneg, real_pos] at hv
  obtain ⟨h1, h2⟩ := pow2_range h h0 hv
  have he : approxLog2 p = ((fmtF32.round .rne (Val.ofInt k 0)).1, 0) := by
    simp only [approxLog2, h, if_neg h0, hneg, (pow2Exp_eq_some h0).2 hv, Bool.false_eq_true, if_false]
  rw [he]
  exact round_ofInt_exactly h1 h2

theorem approxLog2_eq_within (hneg : neg = false) (hk : ∀ k, pow2Exp mag exp ≠ some k) :
    approxLog2 p = if 0x3F400000 ≤ p ∧ p ≤ 0x3FC00000 then withinAbs (log2Units mag exp) (Config.approxLog2 (BitVec.ofNat 32 p))
      else withinUlps (decide (log2Units mag exp < 0)) ((log2Units mag exp).natAbs - 2 ^ 20) 2 (-256) (Config.approxLog2 (BitVec.ofNat 32 p)) := by
  have hnone : pow2Exp mag exp = none := Option.eq_none_iff_forall_ne_some.2 hk
  simp only [approxLog2, h, if_neg h0, hneg, hnone, Bool.false_eq_true, if_false]
  rfl

theorem log2_near (hp : p < 2 ^ 32) (hpos : 0 < (Val.fin neg mag exp).real) (hv : ∀ k : Int, (Val.fin neg mag exp).real ≠ 2 ^ k) :
    Near (approxLog2 p) (Real.logb 2 (Val.fin neg mag exp).real)
      (if 3 / 4 ≤ (Val.fin neg mag exp).real ∧ (Val.fin neg mag exp).real ≤ 3 / 2 then 2 ^ (-22 : Int)
        else 2 * ulp32 (Real.logb 2 (Val.fin neg mag exp).real)) := by
  have hneg := (real_pos_iff h h0).1 hpos
  subst hneg
  rw [real_pos] at *
  obtain ⟨q, -, hpq, hreal⟩ := place_of_value h hp
  rw [sign_f32, if_neg Bool.false_ne_true, Nat.zero_add] at hpq
  subst hpq
  have hiff : (0x3F400000 ≤ p ∧ p ≤ 0x3FC00000) ↔ 3 / 4 ≤ (mag : ℝ) * 2 ^ exp ∧ (mag : ℝ) * 2 ^ exp ≤ 3 / 2 := by
    rw [hreal, ← placeReal_three_quarters, ← placeReal_three_halves, placeReal_strictMono.le_iff_le, placeReal_strictMono.le_iff_le]
  rw [approxLog2_eq_within h h0 rfl fun k hp => hv k ((pow2Exp_eq_some h0).1 hp), if_congr hiff rfl rfl]
  have hunits := log2Units_near h0 (value_fin_bounds h).1 exp
  split
  next hmid =>
    refine near_withinAbs (abs_logb_le_one hmid.1 hmid.2) ?_
    have hP0 : (0 : ℝ) < 2 ^ (-256 : Int) := two_zpow_pos _
    have hone : (2 : ℝ) ^ 256 * 2 ^ (-256 : Int) = 1 := by norm_num
    generalize Real.logb 2 ((mag : ℝ) * 2 ^ exp) = y at *
    rw [show (log2Units mag exp : ℝ) * 2 ^ (-256 : Int) - y = ((log2Units mag exp : ℝ) - 2 ^ 256 * y) * 2 ^ (-256 : Int) by
      rw [sub_mul, mul_right_comm, hone, one_mul], abs_mul, abs_of_pos hP0]
    exact mul_le_mul_of_nonneg_right (hunits.trans (by norm_num)) hP0.le
  next hfar => exact near_withinUlps_units hunits (le_abs_logb hpos hfar)

end

end Sys2Proof.Machine
end

section

/-! ## Sine, cosine and hyperbolic tangent (O31) -/

namespace Sys2Proof.Machine
open Sys2Proof

/-- What `ftanh` gives for (e^(2v) - 1) in units of 2^-512. -/
def tanhUnits (v : Nat) : Nat :=
  expm1Fixed 512 200 (2 * v * 2 ^ 256) * 2 ^ 512 / (expm1Fixed 512 200 (2 * v * 2 ^ 256) + 2 ^ 513)

theorem fixed256_div {p : Nat} {neg : Bool} {mag : Nat} {exp : Int} (h : fmtF32.value p = .fin neg mag exp) :
    (fixed256 mag exp : ℝ) / 2 ^ 256 = mag * 2 ^ exp := by
  rw [fixed256_real mag (by linarith [(value_fin_bounds h).2.1]), mul_div_cancel_right₀ _ (by positivity)]

theorem le_expm1Fixed (p n x : Nat) : x ≤ expm1Fixed p (n + 1) x := by
  rw [expm1Fixed, expTerms, Nat.mul_div_cancel_left _ (Nat.two_pow_pos p), Nat.div_one]
  exact Nat.le_add_right ..

/-- tanh through e^(2v) - 1. -/
theorem tanh_eq_expm1 (v : ℝ) : Real.tanh v = (Real.exp (2 * v) - 1) / (Real.exp (2 * v) - 1 + 2) := by
  have hpos := Real.exp_pos v
  rw [Real.tanh_eq, show 2 * v = v + v by ring, Real.exp_add, Real.exp_neg, div_eq_div_iff (by positivity) (by nlinarith)]
  field_simp
  ring

/-- The quotient E / (E + 2) for a number in units of 1 / P that is at most d units below E. -/
theorem quotient_near {P m E d : ℝ} (hP : 0 < P) (hm : 0 ≤ m) (h1 : m ≤ P * E) (h2 : P * E - d ≤ m) :
    m * P / (m + 2 * P) ≤ P * (E / (E + 2)) ∧ P * (E / (E + 2)) ≤ m * P / (m + 2 * P) + d := by
  have hE : 0 ≤ E := nonneg_of_mul_nonneg_right (hm.trans h1) hP
  have hdiff : P * (E / (E + 2)) - m * P / (m + 2 * P) = 2 * P * (P * E - m) / ((E + 2) * (m + 2 * P)) := by
    field_simp
    ring
  have hd : 0 ≤ P * E - m := by linarith
  have hden : 2 * P ≤ (E + 2) * (m + 2 * P) := by nlinarith [mul_nonneg hE hm, mul_nonneg hE hP.le]
  have hle : 2 * P * (P * E - m) / ((E + 2) * (m + 2 * P)) ≤ P * E - m := by
    rw [div_le_iff₀ (by linarith), mul_comm]
    exact mul_le_mul_of_nonneg_left hden hd
  have hge : 0 ≤ 2 * P * (P * E - m) / ((E + 2) * (m + 2 * P)) := div_nonneg (mul_nonneg (by linarith) hd) (by linarith)
  constructor <;> linarith

theorem factorial_201 : 2 ^ 512 * 18 ^ (200 + 1) * 2 ≤ 2 ^ 120 * (200 + 1).factorial := by decide +kernel

theorem exp_le_pow {X : ℝ} {n : Nat} (h : X ≤ n) : Real.exp X ≤ 3 ^ n := by
  refine (Real.exp_le_exp.2 h).trans ?_
  rw [← mul_one (n : ℝ), Real.exp_nat_mul]
  exact pow_le_pow_left₀ (Real.exp_pos 1).le (Real.exp_one_lt_d9.le.trans (by norm_num)) n

theorem tail_201 {X : ℝ} (h0 : 0 ≤ X) (h : X ≤ 18) : (2 : ℝ) ^ 512 * (X ^ (200 + 1) / (200 + 1).factorial * 2) ≤ 2 ^ 120 := by
  have hfac : (2 : ℝ) ^ 512 * 18 ^ (200 + 1) * 2 ≤ 2 ^ 120 * ((200 + 1).factorial : ℝ) := by exact_mod_cast factorial_201
  have hP : (0 : ℝ) ≤ 2 ^ 512 := pow_nonneg zero_le_two _
  refine tail_le (by exact_mod_cast Nat.factorial_pos _) (le_trans ?_ hfac)
  exact mul_le_mul_of_nonneg_right (mul_le_mul_of_nonneg_left (pow_le_pow_left₀ h0 h _) hP) zero_le_two

/-- What the series of e^x leaves after 200 terms, up to 18. -/
theorem expm1Fixed_200 {x : Nat} (hx : (x : ℝ) / 2 ^ 512 ≤ 18) :
    (expm1Fixed 512 200 x : ℝ) ≤ 2 ^ 512 * (Real.exp (x / 2 ^ 512) - 1) ∧
      2 ^ 512 * (Real.exp (x / 2 ^ 512) - 1) - 2 ^ 121 ≤ expm1Fixed 512 200 x := by
  have hX0 : 0 ≤ (x : ℝ) / 2 ^ 512 := div_nonneg (Nat.cast_nonneg x) (pow_nonneg zero_le_two _)
  obtain ⟨h1, h2⟩ := expm1Fixed_bounds 512 200 x (by rw [div_le_iff₀ (by norm_num)]; exact hx.trans (by norm_num))
  have htail := tail_201 hX0 hx
  have hexp := exp_le_pow (n := 18) (hx.trans_eq (Nat.cast_ofNat).symm)
  have hsmall : (200 : ℝ) * 3 ^ 18 + 2 ^ 120 ≤ 2 ^ 121 := by norm_num
  refine ⟨h1, le_trans (sub_le_sub_left ?_ _) h2⟩
  rw [Nat.cast_ofNat]
  exact (add_le_add (mul_le_mul_of_nonneg_left hexp (by norm_num)) htail).trans hsmall

/-- The quotient of `ftanh` rounded down. -/
theorem tanhQuotient_ne_zero {m k : Nat} (hm : 4 ≤ m) (hk : 1 ≤ k) : m * 2 ^ k / (m + 2 ^ (k + 1)) ≠ 0 := by
  have hP : 2 ≤ 2 ^ k := Nat.le_self_pow (by omega) 2
  rw [Nat.pow_succ']
  generalize 2 ^ k = P at *
  exact (Nat.div_pos (by nlinarith) (by omega)).ne'

theorem tanhUnits_near {v : Nat} (h0 : v ≠ 0) (h9 : (v : ℝ) / 2 ^ 256 ≤ 9) :
    tanhUnits v ≠ 0 ∧ (tanhUnits v : ℝ) ≤ 2 ^ 512 * Real.tanh (v / 2 ^ 256) ∧ 2 ^ 512 * Real.tanh (v / 2 ^ 256) ≤ tanhUnits v + 2 ^ 130 := by
  have hx : ((2 * v * 2 ^ 256 : Nat) : ℝ) / 2 ^ 512 = 2 * (v / 2 ^ 256) := by
    rw [scaled_div, Nat.cast_mul, Nat.cast_ofNat, mul_div_assoc]
  obtain ⟨h1, h2⟩ := expm1Fixed_200 (x := 2 * v * 2 ^ 256) (by rw [hx]; linarith)
  rw [hx] at h1 h2
  have hm : 4 ≤ expm1Fixed 512 200 (2 * v * 2 ^ 256) := by
    have hv : 4 ≤ 2 * v * 2 ^ 256 := Nat.mul_le_mul (show 2 ≤ 2 * v by omega) (show 2 ≤ 2 ^ 256 by decide +kernel)
    exact hv.trans (le_expm1Fixed 512 199 _)
  rw [tanh_eq_expm1, tanhUnits]
  generalize expm1Fixed 512 200 (2 * v * 2 ^ 256) = m at *
  obtain ⟨hq1, hq2⟩ := quotient_near (pow_pos two_pos 512) (Nat.cast_nonneg m) h1 h2
  obtain ⟨hd1, hd2⟩ := div_real (m * 2 ^ 512) (m + 2 ^ 513) (Nat.add_pos_right _ (Nat.two_pow_pos _))
  have hden : ((m + 2 ^ 513 : Nat) : ℝ) = m + 2 * 2 ^ 512 := by rw [Nat.cast_add, Nat.cast_pow, Nat.cast_ofNat, ← pow_succ']
  have hnum : ((m * 2 ^ 512 : Nat) : ℝ) = m * 2 ^ 512 := by rw [Nat.cast_mul, Nat.cast_pow, Nat.cast_ofNat]
  rw [hden, hnum] at hd1 hd2
  have hsmall : (1 : ℝ) + 2 ^ 121 ≤ 2 ^ 130 := by norm_num
  exact ⟨tanhQuotient_ne_zero (k := 512) hm (by norm_num), hd2.trans hq1, by linarith⟩

section
variable {p : Nat} {neg : Bool} {mag : Nat} {exp : Int} (h : fmtF32.value p = .fin neg mag exp) (h0 : mag ≠ 0)
include h h0

theorem fixed256_turns : fixed256 mag exp / halfPiFixed ≤ 2 ^ 128 := by
  have hlt : fixed256 mag exp < 2 ^ 128 * 2 ^ 256 := by
    have hw := (mag_range h h0).2
    rw [← fixed256_div h, div_lt_iff₀ (by positivity), zpow_ofNat] at hw
    exact_mod_cast hw
  have hH : 2 ^ 256 ≤ halfPiFixed := by decide +kernel
  refine Nat.div_le_of_le_mul ?_
  rw [Nat.mul_comm]
  exact hlt.le.trans (Nat.mul_le_mul_left _ hH)

theorem sin_near : Near (approxSin p) (Real.sin (Val.fin neg mag exp).real) (2 ^ (-22 : Int)) := by
  have he : approxSin p = withinAbs (if neg then -sinOf (fixed256 mag exp) else sinOf (fixed256 mag exp)) (Config.approxSin (BitVec.ofNat 32 p)) := by
    simp only [approxSin, h, if_neg h0]
  have hs := sinOf_near (fixed256_turns h h0)
  rw [fixed256_div h] at hs
  rw [he]
  refine near_withinAbs (Real.abs_sin_le_one _) ?_
  rw [real_fin_ite]
  cases neg
  · exact hs
  · rw [if_pos rfl, if_pos rfl, Real.sin_neg, ← abs_neg, Int.cast_neg]
    convert hs using 2
    ring

theorem cos_near : Near (approxCos p) (Real.cos (Val.fin neg mag exp).real) (2 ^ (-22 : Int)) := by
  have he : approxCos p = withinAbs (cosOf (fixed256 mag exp)) (Config.approxCos (BitVec.ofNat 32 p)) := by
    simp only [approxCos, h, if_neg h0]
  have hc := cosOf_near (fixed256_turns h h0)
  rw [fixed256_div h] at hc
  have hcos : Real.cos (Val.fin neg mag exp).real = Real.cos (mag * 2 ^ exp) := by
    rw [real_fin_ite]
    cases neg
    · rfl
    · exact Real.cos_neg _
  rw [he, hcos]
  exact near_withinAbs (Real.abs_cos_le_one _) hc

theorem tanh_large_iff : 9 * 2 ^ 256 ≤ fixed256 mag exp ↔ 9 ≤ |(Val.fin neg mag exp).real| := by
  rw [real_fin_ite, abs_ite_neg neg (mag_pos h0 exp).le, ← fixed256_div h, le_div_iff₀ (by positivity)]
  norm_cast

theorem tanh_large (hv : 9 ≤ |(Val.fin neg mag exp).real|) : approxTanh p = (fmtF32.sign neg + f32One, 0) := by
  simp only [approxTanh, h, if_neg h0]
  exact if_pos ((tanh_large_iff h h0).2 hv)

theorem approxTanh_eq_within (hv : |(Val.fin neg mag exp).real| < 9) :
    approxTanh p = withinUlps neg (tanhUnits (fixed256 mag exp)) 2 (-512) (Config.approxTanh (BitVec.ofNat 32 p)) := by
  simp only [approxTanh, h, if_neg h0]
  exact if_neg fun hc => absurd ((tanh_large_iff h h0).1 hc) (not_le.2 hv)

theorem tanh_near (hv : |(Val.fin neg mag exp).real| < 9) :
    Near (approxTanh p) (Real.tanh (Val.fin neg mag exp).real) (2 * ulp32 (Real.tanh (Val.fin neg mag exp).real)) := by
  rw [approxTanh_eq_within h h0 hv]
  have hdiv := fixed256_div h
  have hne : fixed256 mag exp ≠ 0 := fun hz => (mag_pos h0 exp).ne' (by rw [← hdiv, hz, Nat.cast_zero, zero_div])
  rw [real_fin_ite, abs_ite_neg neg (mag_pos h0 exp).le] at hv
  obtain ⟨hn, hle, hge⟩ := tanhUnits_near hne (hdiv.trans_lt hv).le
  rw [hdiv] at hle hge
  have htanh : Real.tanh (Val.fin neg mag exp).real = if neg then -Real.tanh (mag * 2 ^ exp) else Real.tanh (mag * 2 ^ exp) := by
    rw [real_fin_ite]
    cases neg
    · rfl
    · exact Real.tanh_neg _
  have hunit : (2 : ℝ) ^ (-512 : Int) = (2 ^ 512)⁻¹ := zpow_neg _ _
  have hP : (0 : ℝ) < 2 ^ 512 := pow_pos two_pos _
  rw [htanh]
  refine near_withinUlps_signed hn (by norm_num) (le_trans (by norm_num) (gridExp_ge _ _)) ?_ ?_
  · rw [hunit, mul_inv_le_iff₀ hP, mul_comm]
    exact hle
  · rw [hunit, ← add_mul, le_mul_inv_iff₀ hP, mul_comm]
    exact hge

end

end Sys2Proof.Machine
end

section

/-! ## The approximate functions (O31) -/

namespace Sys2Proof.Machine
open Sys2Proof

/-! ### A NaN, an infinity, a zero -/

/-- Every approximate function turns a NaN into the default NaN. -/
theorem approx_nan {f : Nat → Nat × Flags} (hf : f ∈ [approxRcp, approxRsq, approxExp2, approxLog2, approxSin, approxCos, approxTanh]) {p : Nat}
    {sig : Bool} (h : fmtF32.value p = .nan sig) : f p = (0x7FC00000, if sig then fNV ||| fNX else fNX) := by
  have hf : f p = nanResult sig := by
    simp only [List.mem_cons, List.not_mem_nil, or_false] at hf
    rcases hf with rfl | rfl | rfl | rfl | rfl | rfl | rfl
    · simp only [approxRcp, h]
    · simp only [approxRsq, h]
    · simp only [approxExp2, h]
    · simp only [approxLog2, h]
    · simp only [approxSin, h]
    · simp only [approxCos, h]
    · simp only [approxTanh, h]
  rw [hf]
  cases sig <;> rfl

theorem approx_inf {p : Nat} {neg : Bool} (h : fmtF32.value p = .inf neg) :
    approxRcp p = (fmtF32.sign neg, fNX) ∧ approxRsq p = (if neg then noResult else (0, fNX)) ∧
      approxExp2 p = (if neg then 0 else f32Inf false, fNX) ∧ approxLog2 p = (if neg then noResult else (f32Inf false, fNX)) ∧
      approxSin p = noResult ∧ approxCos p = noResult ∧ approxTanh p = (fmtF32.sign neg + f32One, 0) := by
  refine ⟨?_, ?_, ?_, ?_, ?_, ?_, ?_⟩
  · simp only [approxRcp, h]
  · simp only [approxRsq, h]
  · simp only [approxExp2, h]
  · simp only [approxLog2, h]
  · simp only [approxSin, h]
  · simp only [approxCos, h]
  · simp only [approxTanh, h]

/-- A zero is the sign bit alone. -/
theorem pattern_of_zero {p : Nat} (hp : p < 2 ^ 32) {neg : Bool} {exp : Int} (h : fmtF32.value p = .fin neg 0 exp) : p = fmtF32.sign neg := by
  obtain ⟨q, -, hpq, hq⟩ := place_of_value h hp
  have h0 : placeReal 0 = placeReal q := by
    rw [← hq, placeReal, show placeMag 0 = 0 from rfl, Nat.cast_zero, zero_mul, zero_mul]
  rw [hpq, ← placeReal_strictMono.injective h0, Nat.add_zero]

theorem exp2_zero {p : Nat} {neg : Bool} {exp : Int} (h : fmtF32.value p = .fin neg 0 exp) : approxExp2 p = (f32One, 0) := by
  have hv : signedAt neg (fixed256 0 exp) (-256) (-256) = 0 := by
    rw [fixed256, Nat.zero_mul]
    cases neg <;> rfl
  simp only [approxExp2, h, hv]
  rw [if_neg (by decide +kernel), if_neg (by decide +kernel), if_pos (by decide +kernel)]
  decide +kernel

theorem approx_zero {p : Nat} (hp : p < 2 ^ 32) {neg : Bool} {exp : Int} (h : fmtF32.value p = .fin neg 0 exp) :
    approxRcp p = (f32Inf neg, fDZ ||| fNX) ∧ approxRsq p = (f32Inf neg, fDZ ||| fNX) ∧ approxExp2 p = (f32One, 0) ∧
      approxLog2 p = (f32Inf true, fDZ ||| fNX) ∧ approxSin p = (fmtF32.sign neg, 0) ∧ approxCos p = (f32One, 0) ∧
      approxTanh p = (fmtF32.sign neg, 0) := by
  have hsign := pattern_of_zero hp h
  refine ⟨?_, ?_, exp2_zero h, ?_, ?_, ?_, ?_⟩
  · simp only [approxRcp, h, if_true]
  · simp only [approxRsq, h, if_true]
  · simp only [approxLog2, h, if_true]
  · simp only [approxSin, h, if_true]
    rw [hsign]
  · simp only [approxCos, h, if_true]
  · simp only [approxTanh, h, if_true]
    rw [hsign]

/-- The logarithm of 1 is +0. -/
theorem log2_one {p : Nat} {neg : Bool} {mag : Nat} {exp : Int} (h : fmtF32.value p = .fin neg mag exp) (hv : (Val.fin neg mag exp).real = 1) :
    approxLog2 p = (0, 0) := by
  have h0 : mag ≠ 0 := by
    rintro rfl
    rw [real_fin_ite, Nat.cast_zero, zero_mul, neg_zero, ite_self] at hv
    exact zero_ne_one hv
  have hneg := (real_pos_iff h h0).1 (hv ▸ one_pos)
  rw [hneg, real_pos] at hv
  have hk : pow2Exp mag exp = some 0 := (pow2Exp_eq_some h0).2 (hv.trans (zpow_zero _).symm)
  simp only [approxLog2, h, if_neg h0, hneg, hk, Bool.false_eq_true, if_false]
  decide +kernel

/-- One of the functions, lane by lane. -/
theorem approximate_computes {i : Instr} {x : Args} {s : State} {f : Nat → Nat × Flags} (hw : s.wf = true)
    (he : exec i s = run i.shape (approximate x f) s) (hr : Ready i s) :
    Computes i s s x 1 fun l => ((f (vecA s x x.a l)).1 % 2 ^ 32, (f (vecA s x x.a l)).2) :=
  computes_of (i := i) (bits := 32) (r := fun l => ((f (vecA s x x.a l)).1 % 2 ^ 32, (f (vecA s x x.a l)).2)) hw hr ⟨s.fresh, rfl⟩ x he rfl

/-- Settles O31: the patterns by kind, each function at a number by its bounds on the real function. -/
theorem approximateResults : Obligations.ApproximateResults := by
  unfold Obligations.ApproximateResults
  intro s x hw gives
  refine ⟨approximate_computes hw rfl, approximate_computes hw rfl, approximate_computes hw rfl, approximate_computes hw rfl,
    approximate_computes hw rfl, approximate_computes hw rfl, approximate_computes hw rfl, fun f hf p sig h => approx_nan hf h, ?_⟩
  intro p hp neg mag exp v sign none_
  have hsign : fmtF32.sign neg = sign := sign_f32 neg
  refine ⟨fun h => hsign ▸ approx_inf h, ?_, fun h h0 => ⟨?_, ?_, ?_, ?_, ?_, ?_, ?_, ?_, ?_, ?_, ?_, ?_, ?_, ?_, ?_⟩, log2_one⟩
  · rintro h rfl
    have hinf : f32Inf neg = sign + 0x7F800000 := congrArg (· + _) hsign
    exact hinf ▸ hsign ▸ approx_zero hp h
  · exact fun k => rcp_exactly h h0
  · exact rcp_near h h0
  · intro hv
    have hneg := (real_neg_iff h h0).1 hv
    exact ⟨approxRsq_neg h h0 hneg, approxLog2_neg h h0 hneg⟩
  · exact fun n => rsq_exactly h h0
  · exact rsq_near h h0
  · exact exp2_above h
  · exact exp2_below h
  · exact fun k => exp2_exactly h
  · exact exp2_near h
  · exact fun k => log2_exactly h h0
  · exact log2_near h h0 hp
  · exact sin_near h h0
  · exact cos_near h h0
  · exact hsign ▸ tanh_large h h0
  · exact tanh_near h h0

end Sys2Proof.Machine
end

section

/-! ## Memory-system control (O42) -/

namespace Sys2Proof.Machine
open Sys2Proof

set_option Elab.async false in
/-- (Checked in turn, so that the proofs above are checked before those below are taken up: side by side they ask for too much memory.) -/
theorem lineInRange_eq_true {size line va bytes : Nat} : lineInRange size line va bytes = true ↔
    line * size < va % 2 ^ 57 + bytes ∧ va % 2 ^ 57 < line * size + size ∧ 0 < bytes := by
  simp only [lineInRange, Bool.and_eq_true, decide_eq_true_eq, and_assoc]

theorem decide_covers (size line va bytes : Nat) :
    decide (line * size < va % 2 ^ 57 + bytes ∧ va % 2 ^ 57 < line * size + size ∧ 0 < bytes) = lineInRange size line va bytes :=
  Bool.eq_iff_iff.2 (decide_eq_true_iff.trans lineInRange_eq_true.symm)

/-! ### `bmode` -/

/-- The role that a value of `bmode` names. -/
def roleNamed (n : Nat) : BankRole := match n with | 0 => .cache | 1 => .scratch | _ => .fifo

section
variable {s : State} {x : Args}

theorem bankBody_refused (h : 64 ≤ (scalar32 s x x.a).toNat ∨ 3 ≤ (scalar32 s x x.b).toNat) :
    bankBody x s = raiseExec s 0x16 (BitVec.ofNat 64 (scalar32 s x x.a).toNat) :=
  if_pos (by simpa using h)

/-- Past the check of its operands, `bmode` asks in turn for the role, the allocations, and the commands and stores. -/
theorem bankBody_named (hk : (scalar32 s x x.a).toNat < 64) (hr : (scalar32 s x x.b).toNat < 3) : bankBody x s =
    let cl := clusterOf s.tm.core
    let bank := (scalar32 s x x.a).toNat
    let role := roleNamed (scalar32 s x x.b).toNat
    if (findBank s cl bank).any fun b => b.role == role then .done s
    else if bankInUse s cl bank then raiseExec s 0x16 (BitVec.ofNat 64 bank)
    else if bankBusy s cl bank then .wait .hold s
    else .done (setRole s cl bank role) :=
  if_neg (by simp [hk, hr])

theorem bankBody_same {b : Bank} (hk : (scalar32 s x x.a).toNat < 64) (hr : (scalar32 s x x.b).toNat < 3)
    (hf : findBank s (clusterOf s.tm.core) (scalar32 s x x.a).toNat = some b) (hb : b.role = roleNamed (scalar32 s x x.b).toNat) :
    bankBody x s = .done s := by
  refine (bankBody_named hk hr).trans (if_pos ?_)
  rw [hf]
  exact beq_iff_eq.2 hb

/-- The bank has another role: what `bmode` does turns on what uses it. -/
theorem bankBody_other (hk : (scalar32 s x x.a).toNat < 64) (hr : (scalar32 s x x.b).toNat < 3)
    (hf : ∀ b, findBank s (clusterOf s.tm.core) (scalar32 s x x.a).toNat = some b → b.role ≠ roleNamed (scalar32 s x x.b).toNat) :
    bankBody x s =
      let cl := clusterOf s.tm.core
      let bank := (scalar32 s x x.a).toNat
      if bankInUse s cl bank then raiseExec s 0x16 (BitVec.ofNat 64 bank)
      else if bankBusy s cl bank then .wait .hold s
      else .done (setRole s cl bank (roleNamed (scalar32 s x x.b).toNat)) := by
  rw [bankBody_named hk hr]
  refine if_neg ?_
  cases h : findBank s (clusterOf s.tm.core) (scalar32 s x x.a).toNat with
  | none => exact Bool.false_ne_true
  | some b => exact fun e => hf b h (beq_iff_eq.1 e)

end

/-- A bank that takes a role has it, and holds no entries. -/
theorem setRole_banks {s : State} {cl bank : Nat} {r : BankRole} {b : Bank} (h : b ∈ (setRole s cl bank r).eng.banks) (hc : b.cluster = cl)
    (hb : b.bank = bank) : b.role = r ∧ b.fifo = [] := by
  obtain ⟨y, -, rfl⟩ := List.mem_map.1 h
  split at hc
  next hy => exact if_pos hy ▸ ⟨rfl, rfl⟩
  next hy =>
    rw [if_neg hy] at hb
    exact absurd (by simp [hc, hb]) hy

/-! ### Purges -/

/-- A purge of lines none of which is pinned once the contributions have merged. -/
theorem purgeLines_done {s : State} {hit : BitVec 16 → Nat → Bool} {m : State} (hm : mergeCore s (fun y => hit y.asid y.line) = m)
    (h1 : (m.mem.l1.any fun c => hit c.asid c.line && anyPinned c m.gt) = false)
    (h2 : (m.mem.cc.any fun c => hit c.asid c.line && anyPinned c m.gt) = false) :
    purgeLines s hit = .done { m with mem := { m.mem with
      l1 := m.mem.l1.filter fun c => !hit c.asid c.line, cc := m.mem.cc.filter fun c => !hit c.asid c.line } } := by
  simp only [purgeLines, hm, h1, h2, Bool.or_self, Bool.false_eq_true, if_false]

theorem ownAsid_eq_true {s : State} {v : Word} : ownAsid s v = true ↔ v = s.asid.setWidth 32 ∧ s.asid ≠ 0 := by
  simp only [ownAsid, Bool.and_eq_true, beq_iff_eq, bne_iff_ne, ne_eq]

/-- A purge of another context in user mode (R189), by an operand that is no latch. -/
theorem exec_purgesOther {i : Instr} {s : State} {r : Row} {x : Args} (he : i.encodable = true) (hi : i.shape = .bc r x)
    (hop : (r.op.toNat == 0x3D && (r.fn 2 || r.fn 3)) = true) (hp : ¬ namesPending i s) (hh : ¬ namesHigh i s)
    (hl : ∀ k, x.c ≠ .latch k) (hs : s.sp.super = false) (ho : ¬ (scalar32 s x x.c = s.asid.setWidth 32 ∧ s.asid ≠ 0)) :
    exec i s = .next (traps i s s 0x04 (firstUnit i.shape) s.exec) := by
  have hown : ownAsid s (scalar32 s x x.c) = false := by simpa only [← Bool.not_eq_true, ownAsid_eq_true] using ho
  have hother : purgesOther i.shape s = true := by
    rw [hi]
    simp only [purgesOther, hop, hown, Bool.not_false, Bool.true_and]
  have hlacks : lacksPrivilege i.shape s = true := by simp only [lacksPrivilege, hs, hother, Bool.not_false, Bool.or_true, Bool.and_true]
  exact exec_stop he (by rw [issueCheck_named hp hh, if_pos hlacks])

/-- Settles O42, instruction by instruction. -/
theorem memorySystemControl : Obligations.MemorySystemControl := by
  unfold Obligations.MemorySystemControl
  intro s x va bytes bank cl role asid covers purges
  refine ⟨fun hr h => ?_, fun b hr hk hb hf he => ?_, fun hr hk hb hf => ⟨fun hu => ?_, fun hu hw => ?_⟩,
    fun hr hk hb hu hw hf => ⟨?_, ?_⟩, fun hr => ?_, fun hr => ?_, fun hr => ?_, fun hr _ h1 h2 => ?_, fun hr _ h1 h2 => ?_,
    fun hp hh hl hs ho => ?_, fun hp hh hl hs ho => ?_⟩
  · exact exec_raiseExec (rfl : execBmode x s = _) hr (bankBody_refused h)
  · exact exec_done (rfl : execBmode x s = _) hr (bankBody_same hk hb hf he)
  · exact exec_raiseExec (rfl : execBmode x s = _) hr ((bankBody_other hk hb hf).trans (if_pos hu))
  · exact exec_wait (rfl : execBmode x s = _) hr
      ((bankBody_other hk hb hf).trans ((if_neg (Bool.eq_false_iff.1 hu)).trans (if_pos hw)))
  · exact exec_done (rfl : execBmode x s = _) hr
      ((bankBody_other hk hb hf).trans ((if_neg (Bool.eq_false_iff.1 hu)).trans (if_neg (Bool.eq_false_iff.1 hw))))
  · exact fun b h hc hb' => setRole_banks h hc hb'
  · refine ⟨_, exec_done (rfl : execXinv x s = _) hr rfl, rfl, fun c => ?_⟩
    show c ∈ s.mem.icache.filter _ ↔ _
    simp only [List.mem_filter, Bool.not_eq_true', ← Bool.not_eq_true, Bool.and_eq_true, Bool.or_eq_true, beq_iff_eq, lineInRange_eq_true]
    exact Iff.rfl
  · refine ⟨_, exec_done (rfl : execCmaintInv x s = _) hr rfl, rfl, fun c => ?_⟩
    show c ∈ s.mem.l1.filter _ ↔ _
    simp only [List.mem_filter, Bool.not_eq_true', ← Bool.not_eq_true, Bool.and_eq_true, beq_iff_eq, lineInRange_eq_true, covers, and_assoc]
    exact Iff.rfl
  · refine exec_done (rfl : execCmaintMerge x s = _) hr ?_
    simp only [covers, decide_covers]
    rfl
  · simp only [covers, decide_covers] at h1 h2 ⊢
    exact exec_done (rfl : execCmaintPurge x s = _) hr (purgeLines_done rfl h1 h2)
  · exact exec_done (rfl : execCmaintPurgeasid x s = _) hr (purgeLines_done rfl h1 h2)
  · exact exec_purgesOther rfl rfl rfl hp hh hl hs ho
  · exact exec_purgesOther rfl rfl rfl hp hh hl hs ho

end Sys2Proof.Machine
end

section

/-! ## What accesses to memory leave as it is

A write at its home, a merge and a record change the memory system and the records, the tallies of launches and groups, and nothing else.
`BlindToRecords` and `BlindToWrites` say of a reading of the state that it does not see these parts; each operation then leaves it as it is. -/

namespace Sys2Proof.Machine
open Sys2Proof

/-- A reading of the state that sees neither memory nor records. -/
structure BlindToRecords {α : Type} (f : State → α) : Prop where
  mem : ∀ s m, f { s with mem := m } = f s
  rel : ∀ s r, f { s with rel := r } = f s

/-- A reading of the state that, moreover, sees neither launches and groups nor the tokens on their paths. -/
structure BlindToWrites {α : Type} (f : State → α) : Prop extends BlindToRecords f where
  launches : ∀ s l, f { s with launches := l } = f s
  sched : ∀ s k, f { s with sched := k } = f s
  g : ∀ s x, f { s with g := x } = f s
  groups : ∀ s l, f { s with groups := l } = f s
  tokens : ∀ s l, f { s with fab := { s.fab with tokens := l } } = f s

variable {α : Type} {f : State → α} {y : α}

theorem ite_same {c : Prop} [Decidable c] {s t : State} (hs : f s = y) (ht : f t = y) : f (if c then s else t) = y :=
  ite_keeps (p := fun u => f u = y) hs ht

theorem foldl_same {β : Type} {g : State → β → State} (h : ∀ s b, f (g s b) = f s) (l : List β) (s : State) : f (l.foldl g s) = f s :=
  foldl_keeps (p := fun u => f u = f s) rfl fun u b hu => (h u b).trans hu

theorem foldl_fst_same {β γ : Type} {g : State × γ → β → State × γ} (h : ∀ a b, f (g a b).1 = f a.1) (l : List β) (a : State × γ) :
    f (l.foldl g a).1 = f a.1 :=
  foldl_fst_keeps (p := fun u => f u = f a.1) rfl fun u b hu => (h u b).trans hu

/-! ### Records -/

namespace BlindToRecords
variable (hf : BlindToRecords f)
include hf

theorem ctlSend (s : State) (w : List Word) : f (ctlSend s w) = f s := by
  rw [ctlSend_frame]
  exact hf.rel ..

theorem mpWriteFrom (t : Nat) (s : State) (asid : BitVec 16) (va : Nat) (bs : List Byte) : f (mpWriteFrom t s asid va bs).1 = f s := by
  unfold Machine.mpWriteFrom
  split
  · rfl
  · refine foldl_fst_same (fun a x => ?_) _ _
    exact ite_keeps (p := fun r : State × Nat => f r.1 = f a.1) rfl (hf.mem a.1 _)

theorem ringPut (s : State) (r : Ring) (size : Nat) (recs : List (List Word)) : f (ringPut s r size recs).1 = f s :=
  ite_keeps (p := fun r : State × Nat => f r.1 = f s) rfl (ite_keeps (p := fun r : State × Nat => f r.1 = f s)
    ((hf.mpWriteFrom ..).trans (foldl_fst_same (fun _ _ => hf.mpWriteFrom ..) _ _)) (hf.mpWriteFrom ..))

theorem writeRecord (s : State) (r : Rcd) : f (writeRecord s r) = f s := by
  refine (hf.rel (Machine.ctlSend _ _) _).trans ((hf.ctlSend ..).trans ?_)
  split
  · exact hf.ringPut ..
  · rfl

theorem logViolation (s : State) (phys mkind : Nat) (mid : BitVec 16) (write : Bool) : f (logViolation s phys mkind mid write) = f s :=
  ite_same (hf.rel s _) (hf.rel s _)

theorem fillPac (s : State) (a : Agent) (va : Nat) : f (fillPac s a va) = f s := by
  obtain ⟨pac, hp⟩ := fillPac_eq s a va
  rw [hp]
  exact hf.mem ..

end BlindToRecords

/-! ### Snapshots and merges -/

namespace BlindToWrites
variable (hf : BlindToWrites f)
include hf

theorem updLaunch (s : State) (k : Nat) (g : Launch → Launch) : f (updLaunch s k g) = f s := hf.launches s _

theorem updGroup (s : State) (k : Nat) (g : Group → Group) : f (updGroup s k g) = f s := ite_same (hf.g s _) (hf.groups s _)

theorem markUnroll : ∀ (fuel : Nat) (s : State) (lid : Nat), f (markUnroll fuel s lid) = f s
  | 0, _, _ => rfl
  | fuel + 1, _, _ => ite_same rfl
    ((foldl_same (fun u => markUnroll fuel u) _ _).trans ((hf.toBlindToRecords.writeRecord ..).trans (hf.updLaunch ..)))

theorem entangle (s : State) (j k : Nat) : f (entangle s j k) = f s := by
  unfold Machine.entangle
  extract_lets s1 s2 n s3
  have h2 : f s2 = f s := (hf.updLaunch ..).trans (hf.updLaunch ..)
  have h3 : f s3 = f s := ite_same ((hf.markUnroll ..).trans h2) h2
  exact ite_same rfl (ite_same ((hf.markUnroll ..).trans h3) h3)

theorem touchGranule (s : State) (lid : Nat) (asid : BitVec 16) (g : Nat) : f (touchGranule s lid asid g) = f s :=
  foldl_same (fun u _ => hf.entangle u ..) _ _

theorem snapGranule (s : State) (lid : Nat) (asid : BitVec 16) (va : Nat) : f (snapGranule s lid asid va) = f s :=
  ite_same rfl (ite_same (hf.markUnroll ..) (ite_same rfl (ite_same ((hf.updLaunch ..).trans (hf.sched s _)) (hf.markUnroll ..))))

theorem launchWrite (s : State) (lid : Option Nat) (asid : BitVec 16) (line : Nat) (bs : List (Nat × Byte)) :
    f (launchWrite s lid asid line bs).1 = f s := by
  unfold Machine.launchWrite
  split
  · exact hf.mem s _
  · exact (hf.updLaunch ..).trans ((hf.mem (Machine.touchGranule ..) _).trans ((hf.touchGranule ..).trans (hf.snapGranule ..)))

theorem noteW (s : State) (gid w : Nat) : f (noteW s gid w) = f s := hf.updGroup ..

theorem mergeAt (s : State) (u : ULine) (base : Nat) : f (mergeAt s u base) = f s :=
  (foldl_same (fun v _ => (hf.updGroup ..).trans (hf.noteW v ..)) _ _).trans
    ((hf.launchWrite ..).trans (foldl_same (fun v _ => (hf.touchGranule ..).trans (hf.snapGranule v ..)) _ _))

theorem dropLine (s : State) (u : ULine) (base : Nat) : f (dropLine s u base) = f s :=
  (foldl_same (fun v _ => hf.updGroup v ..) _ _).trans (foldl_same (fun v _ => hf.toBlindToRecords.logViolation v ..) _ _)

theorem mergeLine (s : State) (u : ULine) : f (mergeLine s u) = f s := by
  unfold Machine.mergeLine
  have h1 : ∀ l, f { s with mem := { s.mem with ulines := l } } = f s := fun _ => hf.mem s _
  refine ite_same rfl ?_
  dsimp only
  split
  · exact h1 _
  · exact ite_same ((hf.mergeAt ..).trans (h1 _)) ((hf.dropLine ..).trans (h1 _))

theorem mergeCore (s : State) (p : ULine → Bool) : f (mergeCore s p) = f s := foldl_same (fun v _ => hf.mergeLine v _) _ _

theorem recallLine (s : State) (asid : BitVec 16) (line : Nat) : f (recallLine s asid line) = f s := foldl_same (fun v _ => hf.mergeLine v _) _ _

end BlindToWrites

end Sys2Proof.Machine
end

section

/-! ## Stores, reductions and multicast (O46)

The addresses of the statement are the model's, and a store whose elements may be performed sends what `storeWith_mapped` says. -/

namespace Sys2Proof.Machine
open Sys2Proof

variable {s v : State} {x : Args}

/-! ### Addresses -/

/-- A base and a sign-extended offset add up modulo 2^64 (R226). -/
theorem scalarAddr_eq (s : State) (x : Args) :
    scalarAddr s x = ((pairOf s x.a).toNat + ((scalar32 s x x.b).signExtend 64).toNat) % 2 ^ 64 := by
  rw [scalarAddr, wrapInt_eq_toNat, BitVec.ofInt_add, BitVec.toNat_add, BitVec.ofInt_natCast, BitVec.ofNat_toNat, BitVec.setWidth_eq]
  rfl

theorem laneAddr_eq (s : State) (x : Args) (k : Nat) : laneAddr s x k = wrapInt 64 ((pairOf s x.a).toNat +
    (BitVec.ofNat 32 (vec32 s x x.b k)).toInt * ((if x.fn.getLsbD 5 then x.ty.bits / 8 else 1 : Nat) : Int)) := by
  unfold laneAddr signed32 elemBytes
  split <;> rfl

/-! ### Stores that may be performed -/

theorem mem_of_lastWriters {l : List Put} : ∀ p ∈ lastWriters l, p ∈ l := fun _ h => (List.mem_filter.1 h).1

theorem mem_of_keepLast {l : List Put} : ∀ p ∈ keepLast l, p ∈ l := by
  induction l with
  | nil => exact fun p h => h
  | cons q l ih =>
    intro p h
    unfold keepLast at h
    split at h
    · exact List.mem_cons_of_mem _ (ih p h)
    · rcases List.mem_cons.1 h with rfl | h
      · exact List.mem_cons_self
      · exact List.mem_cons_of_mem _ (ih p h)

theorem storeElems_mapped {l : List Put} {n : Nat} {scalar : Bool} (h : MappedStore s l n scalar) :
    storeElems s l n scalar (fun s => .done s) = .done ((joinPuts (lastWriters l)).foldl putOne s) :=
  storeWith_mapped none lastWriters mem_of_lastWriters _ _ h

/-- How a fault would be recorded does not matter to a store that has none (R241). -/
theorem storeWith_list {l : List Put} {n : Nat} {scalar : Bool} (red : Option (BitVec 3 × Ty)) (last : List Put → List Put)
    (send : State → List Put → State) (k : State → Res) (h : MappedStore s l n scalar) :
    storeWith s l n scalar red last send k true = storeWith s l n scalar red last send k := by
  have hp : ∀ e ∈ (putAccess l n scalar).elems, ∃ p, seeElem s (putAccess l n scalar) e = .page p := by
    intro e he
    obtain ⟨p, hp, rfl⟩ := List.mem_map.1 he
    exact (h p hp).1
  have hf := firstCause_none hp
  have ht : firstCause s { putAccess l n scalar with list := true } = none := hf
  unfold storeWith
  simp only [putAccess] at hf ht
  simp only [hf, ht]
  rfl

theorem tryLoad_mapped {a : Access} {keep : Bool} {l : List (Elem × List Byte × Bool)} (h : Mapped s a)
    (hr : readAll (attributed s a) a.elems a.size keep = (v, l)) : tryLoad s a keep = .ok (v, l) := by
  rw [tryLoad, whenReady_mapped _ h]
  exact congrArg Except.ok hr

/-- A multicast whose table may be read, and comes whole, goes on with its destinations (R240). -/
theorem withTable_mapped {l : List (Elem × List Byte × Bool)} (k : State → List Nat → Res) (he : s.exec ≠ 0) (h : Mapped s (mcstTable s x))
    (hr : readAll (attributed s (mcstTable s x)) (mcstTable s x).elems 8 true = (v, l)) (hl : ∀ e ∈ l, e.2.2 = false) :
    withTable s x k = k v (l.map fun e => ofBytes e.2.1) := by
  have hs : (l.any fun e => e.2.2) = false := List.any_eq_false.2 fun e he => by simp [hl e he]
  rw [withTable, if_neg he, tryLoad_mapped h hr]
  simp only [hs, Bool.false_eq_true, if_false]

theorem mcstCount_imm {m : BitVec 6} (h : x.c = .imm m) : mcstCount x = fieldNum x.c := by
  simp only [mcstCount, h, fieldNum, srcNumber]

/-- The elements of a reducing multicast: the lanes of each destination, named by its place in the table (R241). -/
def mcstRows (s : State) (x : Args) (dests : List Nat) : Access :=
  { elems := ((List.range dests.length).zip dests).flatMap fun e => (mcstPuts s x e.2).map fun p => { lane := e.1, va := p.va }
    size := elemBytes x, write := true, scalar := false, first := true, list := true }

theorem multicastReduce_eq : multicastReduce s x = withTable s x fun s dests => whenReady s (mcstRows s x dests) fun t =>
    .done ((dests.flatMap fun d => mcstPuts s x d).foldl (reduceOne ((x.fn - 1).setWidth 3) x.ty) t) := by
  have hsnd : ∀ (s : State) (dests : List Nat),
      (((List.range dests.length).zip dests).map fun e => (e.1, mcstPuts s x e.2)).flatMap Prod.snd =
        dests.flatMap fun d => mcstPuts s x d := fun s dests => by
    have hz : ((List.range dests.length).zip dests).map Prod.snd = dests := List.map_snd_zip (by simp)
    conv_rhs => rw [← hz]
    rw [List.flatMap_map, List.flatMap_map]
  simp only [multicastReduce, hsnd, List.flatMap_map]
  rfl

/-- A walk into a dense tensor with an element of the type's width and coordinates that are whole goes on with the record (R236). -/
theorem walkChecked_dense {i : Shape} {h : TRec} (k : TRec → Res) (he : s.exec ≠ 0) (hh : handleAt s (fieldNum x.a) = some h)
    (hf : fmtBits h.efmt.toNat = x.ty.bits) (hd : h.dense = true) (hn : fieldNum x.b + h.rank ≤ s.g.nv)
    (hp : ∀ q ∈ s.g.poison, 8192 ≤ q.1) : walkChecked i s x true k = k h := by
  have hc : poisonedCoords s x h.rank = [] := List.filter_eq_nil_iff.2 fun q hq => by
    simp [Nat.not_lt.2 (hp q hq)]
  simp only [walkChecked, if_neg he, withHandle, hh, hf, hd, hc, Nat.not_lt.2 hn, ne_eq, not_true_eq_false, if_false, Bool.not_true,
    Bool.and_false, Bool.false_eq_true, List.isEmpty_nil]

/-! ### Stores into scratchpad -/

/-- Elements that are aligned, lie in an allocation and in banks of the role, and meet no command and no outstanding load pass every check
(R234). -/
theorem lclChecked_passes {l : List (Nat × Nat)} {n : Nat} {w : Bool} (k : State → Res)
    (h : ∀ e ∈ l, e.2 % n = 0 ∧ lclInRange s s.tm.id e.2 n = true ∧ lclRole s s.tm.id e.2 n = true)
    (ho : overlapped s (lclSpans s (l.map Prod.snd) n w) = false) (hl : ∀ e ∈ l, lateLocal s e.2 n = false) :
    lclChecked s l n w k = k s := by
  have h1 : (l.filter fun e => e.2 % n != 0) = [] := List.filter_eq_nil_iff.2 fun e he => by simp [(h e he).1]
  have h2 : (l.filter fun e => !lclInRange s s.tm.id e.2 n) = [] := List.filter_eq_nil_iff.2 fun e he => by simp [(h e he).2.1]
  have h3 : (l.filter fun e => !lclRole s s.tm.id e.2 n) = [] := List.filter_eq_nil_iff.2 fun e he => by simp [(h e he).2.2]
  have h4 : (l.any fun e => lateLocal s e.2 n) = false := List.any_eq_false.2 fun e he => by simp [hl e he]
  simp only [lclChecked, h1, h2, h3, h4, ho, List.isEmpty_nil, Bool.not_true, Bool.false_eq_true, Bool.or_self, if_false]

/-- Settles O46, form by form. -/
theorem stores : Obligations.Stores := by
  unfold Obligations.Stores
  intro s u v x h l n at_ laneAt localAt coords put one all highest sends stores dests block table reads rows
  have hlane : laneAddr s x = laneAt := funext fun k => laneAddr_eq s x k
  have hat : ∀ s, scalarAddr s x = at_ s := fun s => scalarAddr_eq s x
  have hone : ∀ (t : State) (keep : Bool), MappedStore t (one t keep) n true →
      storeScalar t x keep = .done (sends t (highest (one t keep))) := fun t keep hm => by
    rw [storeScalar, hat]
    exact storeElems_mapped hm
  have hall : ∀ f : Nat → Nat, MappedStore s (all f) n false → storeLanes s x f = .done (sends s (highest (all f))) :=
    fun f hm => storeElems_mapped hm
  have htable : ∀ k, reads → withTable s x k = k v dests := fun k ⟨he, ⟨m, hm⟩, ht, hr, hl⟩ => by
    have heq : mcstTable s x = table := by rw [mcstTable, mcstCount_imm hm]
    exact withTable_mapped k he (heq ▸ ht) (heq ▸ hr) hl
  have hlocal : ∀ k, (∀ k ∈ activeLanes s, localAt k % n = 0 ∧ lclInRange s s.tm.id (localAt k) n = true ∧
      lclRole s s.tm.id (localAt k) n = true) → overlapped s (lclSpans s ((activeLanes s).map localAt) n true) = false →
      (∀ k ∈ activeLanes s, lateLocal s (localAt k) n = false) → lclChecked s (lclElems s x) n true k = k s := fun k hk ho hl =>
    lclChecked_passes k (List.forall_mem_map.2 hk) (by rw [lclElems, List.map_map]; exact ho) (List.forall_mem_map.2 hl)
  refine ⟨fun hr hm => ?_, fun hr hm => ?_, fun hr hm => ?_, fun hu hr hm => ?_, fun he hh hf hd hn hp hr hm => ?_,
    fun hr hk ho hl => ⟨fun hd => ?_, fun hd ha => ?_⟩, fun hr hm => ?_, fun hr ht hm => ?_, fun hr ht hm => ?_⟩
  · exact exec_done (rfl : execSt x s = _) hr (hone s _ hm)
  · refine exec_done (rfl : execVst x s = _) hr ?_
    rw [hlane]
    exact hall _ hm
  · refine exec_done (rfl : execVstc x s = _) hr ?_
    rw [show blockAddr s x = _ from funext fun k => by rw [blockAddr, hat]]
    exact hall _ hm
  · exact exec_done (rfl : execStrel x s = _) hr ((withRelease_done hu).trans (hone u true hm))
  · exact exec_done (rfl : execTst x s = _) hr ((walkChecked_dense _ he hh hf hd hn hp).trans (storeElems_mapped hm))
  · refine exec_done (rfl : execLst x s = _) hr ?_
    unfold storeLocal
    refine (hlocal _ hk ho hl).trans ?_
    rw [if_neg (by rcases hd with hd | hd <;> simp [hd, lclElems])]
    simp only [lclElems, List.zip_map', List.map_map, List.foldl_map]
    rfl
  · refine exec_done (rfl : execLst x s = _) hr ?_
    unfold storeLocal
    refine (hlocal _ hk ho hl).trans ?_
    rw [if_pos (by simp [hd, lclElems, ha])]
    simp only [lclElems, List.map_map]
    rfl
  · refine exec_done (rfl : execRed x s = _) hr ?_
    rw [reduceLanes, hlane]
    exact storeWith_mapped _ id (fun _ h => h) _ _ hm
  · refine exec_done (rfl : execMcst x s = _) hr ((htable _ ht).trans ?_)
    exact (storeWith_list _ _ _ _ hm).trans (storeWith_mapped _ keepLast mem_of_keepLast _ _ hm)
  · refine exec_done (rfl : execMcstReduce x s = _) hr ?_
    rw [multicastReduce_eq, htable _ ht]
    have hrows : Mapped v (mcstRows v x dests) := hm
    exact whenReady_mapped _ hrows

end Sys2Proof.Machine
end

section

/-! ## Fences (O49)

`release` asks in turn for the side log, the loads, a deferred fault, the drains, and then by the scope; each answer is one lemma. -/

namespace Sys2Proof.Machine
open Sys2Proof

/-! ### A record leaves the group in focus -/

theorem writeRecord_g (s : State) (r : Rcd) : (writeRecord s r).g = s.g :=
  BlindToRecords.writeRecord (f := State.g) ⟨fun _ _ => rfl, fun _ _ => rfl⟩ s r

theorem addrList_g (s : State) (g : Group) (c : BitVec 8) (a : Nat) (l : List Nat) : (addrList s g c a l).g = s.g :=
  ite_keeps (p := fun u : State => u.g = s.g) rfl (writeRecord_g ..)

/-- A deferred cause is raised over the execution mask, and is pending no more. -/
theorem raiseDeferred_eq (s : State) (c : BitVec 8) (l : List Nat) : ∃ t,
    raiseDeferred s c l = .fail { cause := c, addr := BitVec.ofNat 64 (lowest l), lanes := s.exec } t ∧
      t.g = { s.g with deferred := dropDeferred s.g.deferred c } := ⟨_, rfl, addrList_g ..⟩

/-! ### Releases, step by step -/

section
variable {s t : State} {scope : Nat}

theorem release_sideLog (h : sideOut s s.g.id = true) : release s scope = .wait .sideLog s := if_pos h

theorem release_loads (hs : sideOut s s.g.id = false) (h : s.g.late ≠ []) : release s scope = .wait .fence s :=
  (if_neg (Bool.eq_false_iff.1 hs)).trans (if_pos (by simpa using h))

theorem release_deferred {c : BitVec 8} {l : List Nat} (hs : sideOut s s.g.id = false) (hl : s.g.late = [])
    (h : firstDeferred s.g.deferred = some (c, l)) : release s scope = raiseDeferred s c l := by
  simp only [release, hs, hl, h, List.isEmpty_nil, Bool.not_true, Bool.false_eq_true, if_false]

section
variable (hs : sideOut s s.g.id = false) (hl : s.g.late = []) (h : firstDeferred s.g.deferred = none)
include hs hl h

/-- With the side log, the loads and the deferred faults settled, a release above .grp waits for the drains. -/
theorem release_drains (h0 : 1 ≤ scope) (hd : drainsOut s s.g.id = true) : release s scope = .wait .fence s := by
  simp only [release, hs, hl, h, List.isEmpty_nil, Bool.not_true, Bool.false_eq_true, if_false, if_pos (And.intro h0 hd)]

variable (hq : ¬ (1 ≤ scope ∧ drainsOut s s.g.id = true))
include hq

/-- Up to the cluster's cache nothing more is waited for. -/
theorem release_near (hn : scope ≤ 1 ∨ (scope = 2 ∧ hasCache s (clusterOf s.tm.core) = true)) : release s scope = .done s := by
  simp only [release, hs, hl, h, List.isEmpty_nil, Bool.not_true, Bool.false_eq_true, if_false, if_neg hq, if_pos hn]

variable (hf : ¬ (scope ≤ 1 ∨ (scope = 2 ∧ hasCache s (clusterOf s.tm.core) = true)))
include hf

/-- Beyond the cluster a release is the .dev release, and at .sys the system fence behind it. -/
theorem release_far_done (hd : devRelease s = .done t) : release s scope = if scope = 4 then sysFence t else .done t := by
  simp only [release, hs, hl, h, List.isEmpty_nil, Bool.not_true, Bool.false_eq_true, if_false, if_neg hq, if_neg hf, hd]

theorem release_far_wait {w : Wait} (hd : devRelease s = .wait w t) : release s scope = .wait w t := by
  simp only [release, hs, hl, h, List.isEmpty_nil, Bool.not_true, Bool.false_eq_true, if_false, if_neg hq, if_neg hf, hd]

theorem release_far_fail {r : Trap} (hd : devRelease s = .fail r t) : release s scope = .fail r t := by
  simp only [release, hs, hl, h, List.isEmpty_nil, Bool.not_true, Bool.false_eq_true, if_false, if_neg hq, if_neg hf, hd]

end

theorem devRelease_fails {c : BitVec 8} {l : List Nat} (h : firstDeferred (mergeGroup s s.g.id).g.deferred = some (c, l)) :
    devRelease s = raiseDeferred (mergeGroup s s.g.id) c l := by
  simp only [devRelease, h]

/-- What the .dev release waits for once the contributions have merged. -/
theorem devRelease_eq (hm : mergeGroup s s.g.id = t) (h : firstDeferred t.g.deferred = none) : devRelease s =
    if storesOut t t.g.id = false ∧ retrievalOut t t.g.id = false ∧ t.g.ch ≤ t.gt then .done t else .wait .fence t := by
  simp only [devRelease, hm, h]
  by_cases h1 : storesOut t t.g.id = true <;> by_cases h2 : retrievalOut t t.g.id = true <;> by_cases h3 : t.gt < t.g.ch <;>
    simp [h1, h2, h3, Nat.not_le.2, Nat.le_of_not_lt]

theorem findGroup_focus (h : s.g.id ≠ 0) : findGroup s s.g.id = s.g := by
  simp [findGroup, allGroups, h]

/-- The system fence over paths that have all acknowledged is complete, unless a write has failed. -/
theorem sysFence_acked (h : s.g.id ≠ 0)
    (hp : ∀ p ∈ s.g.paths.filter fun p => decide (0 < p.posted), p.acked = true ∧ p.sent = p.posted) : sysFence s =
    if ((s.g.paths.filter fun p => decide (0 < p.posted)).flatMap fun p => p.failed).isEmpty then
      .done { s with g := { s.g with paths := s.g.paths.map Path.settled } }
    else raiseCovered { s with g := { s.g with paths := s.g.paths.map Path.settled } } 0x19
      ((s.g.paths.filter fun p => decide (0 < p.posted)).flatMap fun p => p.failed) := by
  have hall : pathsAcked s s.g.id = true := by
    simp only [pathsAcked, usedPaths, findGroup_focus h]
    exact List.all_eq_true.2 fun p hm => by simp [hp p hm]
  simp only [sysFence, hall, usedPaths, findGroup_focus h, if_true]

/-- While a path has not, it waits. -/
theorem sysFence_unacked {p : Path} (h : s.g.id ≠ 0) (hm : p ∈ s.g.paths.filter fun p => decide (0 < p.posted))
    (hp : ¬ (p.acked = true ∧ p.sent = p.posted)) : ∃ t, sysFence s = .wait .fence t := by
  have hall : pathsAcked s s.g.id = false := by
    simp only [pathsAcked, usedPaths, findGroup_focus h]
    exact List.all_eq_false.2 ⟨p, hm, by simpa using hp⟩
  exact ⟨_, (if_neg (Bool.eq_false_iff.1 hall) : sysFence s = _)⟩

end

/-! ### The end of a wait -/

theorem updateWhere_id {α : Type} (p : α → Bool) (l : List α) : updateWhere p (fun x => x) l = l := by
  simp [updateWhere]

theorem updSplit_id (s : State) (gid n : Nat) : updSplit s gid n (fun p => p) = s := by
  unfold updSplit updGroup
  split
  · split
    · rfl
    · rw [updateWhere_id]
  · simp only [updateWhere_id]

/-- Settles O49, condition by condition. -/
theorem fences : Obligations.Fences := by
  unfold Obligations.Fences
  intro s u x c l gid n scope code acquired merged clean local_ quiet whole met used reset past
  have hclean : clean → firstDeferred s.g.deferred = none := fun ⟨h1, h2, h3, h4⟩ => by simp [firstDeferred, h1, h2, h3, h4]
  have hquiet : quiet → ¬ (1 ≤ scope ∧ drainsOut s s.g.id = true) := by
    rintro (h | h) ⟨h1, h2⟩
    · omega
    · exact absurd h2 (Bool.eq_false_iff.1 h)
  have hdev : met → devRelease s = .done merged := fun ⟨h1, h2, h3, hid, _, hf⟩ =>
    (devRelease_eq rfl hf).trans (if_pos ⟨by rw [hid]; exact h1, by rw [hid]; exact h2, h3⟩)
  have hid : met → merged.g.id ≠ 0 := fun ⟨_, _, _, hid, h0, _⟩ => by rw [hid]; exact h0
  have hpast : (decide ((findGroup s gid).ch ≤ s.gt) && !storesOut s gid && !retrievalOut s gid && !drainsOut s gid &&
      (findGroup s gid).late.isEmpty && (findGroup s gid).paths.all fun p => !p.token || p.acked) = decide past := by
    rw [Bool.eq_iff_iff]
    simp [past, and_assoc, Bool.or_eq_true, imp_iff_not_or]
  refine ⟨fun hr hu => ?_, fun hr hl => ?_, fun hr hl => ?_, fun hr hu => ?_, release_sideLog, release_loads, fun hs hl =>
    ⟨fun hf => ?_, fun hc hq => ?_, fun hc hq hn => ?_, fun hc hq hn h3 hm => ?_, fun hc hq hn hf => ?_, fun hc hq hn hf hw => ?_,
      fun hc hq h4 hm hp => ?_, fun hc hq h4 hm hp => ?_⟩, fun hp _ => ?_, fun hp => ?_⟩
  · exact exec_done (rfl : execFenceRel x s = _) hr (withRelease_done hu)
  · exact exec_done (rfl : execFenceAcq x s = _) hr (if_pos (by simp [hl]))
  · exact exec_wait (rfl : execFenceAcq x s = _) hr (if_neg (by simpa using hl))
  · exact exec_done (rfl : execFenceAr x s = _) hr (withRelease_done hu)
  · obtain ⟨t, ht, hg⟩ := raiseDeferred_eq s c l
    exact ⟨t, (release_deferred hs hl hf).trans ht, hg⟩
  · obtain ⟨h0, hd⟩ := not_or.1 hq
    exact release_drains hs hl (hclean hc) (Nat.one_le_iff_ne_zero.2 h0) (by simpa using hd)
  · exact release_near hs hl (hclean hc) (hquiet hq) hn
  · exact (release_far_done hs hl (hclean hc) (hquiet hq) hn (hdev hm)).trans (if_neg (by omega))
  · obtain ⟨t, ht, hg⟩ := raiseDeferred_eq merged c l
    exact ⟨t, release_far_fail hs hl (hclean hc) (hquiet hq) hn ((devRelease_fails hf).trans ht), hg⟩
  · exact release_far_wait hs hl (hclean hc) (hquiet hq) hn ((devRelease_eq rfl hf).trans (if_neg hw))
  · subst h4
    rw [release_far_done hs hl (hclean hc) (hquiet hq) (by simp) (hdev hm), if_pos rfl, sysFence_acked (hid hm) hp]
    refine ⟨fun hok => if_pos ?_, fun a ha hne => ?_⟩
    · exact List.isEmpty_iff.2 (List.flatMap_eq_nil_iff.2 hok)
    · subst ha
      exact ⟨_, if_neg (by rw [List.isEmpty_iff]; exact hne)⟩
  · subst h4
    obtain ⟨p, hmem, hp⟩ := hp
    rw [release_far_done hs hl (hclean hc) (hquiet hq) (by simp) (hdev hm), if_pos rfl]
    exact sysFence_unacked (hid hm) hmem hp
  · show Host.Outcome.next (updSplit s gid n fun p => _) = _
    simp only [hpast, hp]
    simp
  · show Host.Outcome.next (updSplit s gid n fun p => _) = _
    simp only [hpast, hp]
    simp

end Sys2Proof.Machine
end

section

/-! ## FIFO banks (O51)

The statement reads the gang, the core and the launch of a waiting split off the team in focus, and the watchdog of R399 off the team
that the split's group names. Nothing in the statement ties the two, and where they differ the watchdog counts other pushes and pops. -/

namespace Sys2Proof.Machine
open Sys2Proof

/-- A split in focus that may trap, outside chains and handlers, takes a cause that rolls nothing back at once. -/
theorem trapWaiter_enters {s : State} {w : Who} {c : BitVec 8} {a : Nat} (hf : focus s w = s) (hh : s.g.inHandler = false)
    (hs : s.g.halted = false) (hl : s.sp.live = true) (hc : chainOpen s w.gid = false) (hr : rollsBack c = false) :
    (trapWaiter c a s w).g.inHandler = true := by
  simp only [trapWaiter, hf, hh, hs, hl, hc, Bool.not_true, Bool.or_self, Bool.false_eq_true, if_false]
  rw [takeTrap_enters hh (by rw [hr]; rfl)]
  rfl

/-- A bank of a cluster in FIFO role, without entries, last pushed to or popped from at a tick. -/
def idleFifo (cluster last : Nat) : Bank := { cluster := cluster, bank := 0, role := .fifo, fifo := [], sick := [], last := last }

/-- A group of team 1, on core 0, whose split waits on a FIFO bank; team 2, on core 16, is in focus with it. The bank of core 0's cluster
has just been used, that of core 16's never. -/
def strayWaiter : State :=
  { State.reset with
    sp := { Split.none with live := true, wait := some (.fifo 0) }
    g := { Group.blank with id := 1, team := 1 }
    tm := { Team.blank with id := 2, core := 16 }
    teams := [{ Team.blank with id := 1 }]
    gt := 2 ^ 22
    eng := { State.reset.eng with banks := [idleFifo 0 (2 ^ 22), idleFifo 1 0] } }

/-- The bank of the split's own cluster has been used within the period: its watchdog does not fire. -/
theorem strayWaiter_waits : exec (.fifoTimeout 1 0) strayWaiter = .next strayWaiter := by
  have hf : fifoFires strayWaiter = none := by decide
  show execFifoTimeout 1 0 strayWaiter = _
  simp only [execFifoTimeout, show focus strayWaiter { gid := 1, sp := 0 } = strayWaiter from rfl, hf]

/-- A record leaves the split where it waits, and its trap then enters the handler. -/
theorem strayWaiter_trap (r : Rcd) (a : Nat) :
    (trapWaiter 0x21 a (writeRecord strayWaiter r) { gid := 1, sp := 0 }).g.inHandler = true := by
  obtain ⟨hsp, hg⟩ := (KeepsFocus.refl strayWaiter).writeRecord r
  have hid : (writeRecord strayWaiter r).g.id = 1 := by rw [hg]; rfl
  have hothers : (writeRecord strayWaiter r).g.others = [] := by rw [hg]; rfl
  refine trapWaiter_enters ?_ ?_ ?_ ?_ ?_ (by decide)
  · exact if_pos ⟨hid, by rw [hsp]; rfl, by rw [hsp]; rfl⟩
  · rw [hg]; rfl
  · rw [hg]; rfl
  · rw [hsp]; rfl
  · simp only [chainOpen, splitsOf, hid, if_true, hothers, hsp]
    rfl

/-- Refutes O51: the watchdog of a wait on a FIFO bank does not fire where the team in focus is not that of the waiting group, whose own
bank has been used within the period. -/
theorem not_fifoBanks : ¬ Obligations.FifoBanks := by
  unfold Obligations.FifoBanks
  intro h
  obtain ⟨-, -, -, -, -, -, -, -, -, hfires⟩ := h strayWaiter strayWaiter strayWaiter mixedArgs (idleFifo 1 0) [] [] 1 0
  obtain ⟨r, -, -, -, -, hr⟩ := hfires rfl rfl rfl rfl rfl rfl rfl rfl rfl (by decide) (by decide)
  have heq := Host.Outcome.next.inj (strayWaiter_waits.symm.trans hr)
  have hhandler : strayWaiter.g.inHandler = true := by rw [heq]; exact strayWaiter_trap r _
  exact absurd hhandler (by decide)

end Sys2Proof.Machine
end

section

/-! ## Tensor handles, tile states and scribes (O53) -/

namespace Sys2Proof.Machine
open Sys2Proof

variable {s v : State} {x : Args}

/-! ### Records (R103, R243) -/

/-- Stores of one lane leave one another as they are. -/
theorem lastWriters_scalar {l : List Put} (h : ∀ p ∈ l, p.lane = 0) : lastWriters l = l :=
  List.filter_eq_self.2 fun p hp => by
    rw [Bool.not_eq_true', List.any_eq_false]
    intro q hq
    simp [h p hp, h q hq]

/-- Two parts put together count the upper one in units of the lower one's size. -/
theorem toNat_append_add {m n : Nat} (a : BitVec m) (b : BitVec n) : (a ++ b).toNat = a.toNat * 2 ^ n + b.toNat := by
  rw [BitVec.toNat_append, Nat.shiftLeft_eq, Nat.mul_comm, Nat.two_pow_add_eq_or_of_lt b.isLt]

theorem toNat_wordPair (ws : List Word) (k : Nat) : (wordPair ws k).toNat = (ws.getD (k + 1) 0).toNat * 2 ^ 32 + (ws.getD k 0).toNat :=
  toNat_append_add ..

theorem scalarAddr_toNat (s : State) (x : Args) : scalarAddr s x = (pairOf s x.a + (scalar32 s x x.b).signExtend 64).toNat := by
  rw [scalarAddr_eq, BitVec.toNat_add]

/-- A record that may be read and comes whole goes on with its words. -/
theorem loadRecord_reads {va : Nat} {l : List (Elem × List Byte × Bool)} (k : State → List Word → Res) (ha : va % 128 = 0)
    (h : ReadsBlock s va 128 v l) : loadRecord s va k = k v ((blockValues l).flatMap wordsOf) := by
  obtain ⟨hm, hr, hl⟩ := h
  have hs : (l.any fun e => e.2.2) = false := List.any_eq_false.2 fun e he => by simp [hl e he]
  rw [loadRecord, if_neg (not_not.2 ha), tryLoad_mapped hm hr]
  simp only [hs, Bool.false_eq_true, if_false]

/-- A field of a handle that is not a dimension, or one that agrees with the handle's rank, is set (R244). -/
theorem hset_sets {h y : TRec} (hr : Ready (.hset x) s) (hh : handleAt s x.d.toNat = some h)
    (hy : setField h x.fn.toNat (if hsetWide x.fn.toNat then pairOf s x.a else (scalar32 s x x.a).setWidth 64) = some y) :
    exec (.hset x) s = .next (passes (.hset x) s (setHandle s x.d.toNat y)) := by
  refine exec_done (rfl : execHset x s = _) hr ?_
  simp only [hh, hy]

theorem setWidth_word (w : Word) : (w.setWidth 64).setWidth 32 = w := by
  rw [BitVec.setWidth_setWidth_of_le _ (by decide), BitVec.setWidth_eq]

/-- A dimension is set to a word that is zero just where the rank has no such dimension (R244). -/
theorem setField_dim {h : TRec} {d : Nat} {v : DWord} {w : Word} (hd : d < 5) (hw : d < h.rank ↔ w ≠ 0) :
    setField h (2 + d) (if hsetWide (2 + d) then v else w.setWidth 64) = some { h with dim := updateAt h.dim d fun _ => w } := by
  have hne : (decide (d < h.rank) == (w == 0)) = false := by
    rw [beq_eq_false_iff_ne, ne_eq, Bool.eq_iff_iff, decide_eq_true_eq, beq_iff_eq, hw]
    tauto
  have hwide : hsetWide (2 + d) = false := by
    interval_cases d <;> rfl
  have hset : ∀ v : DWord, setField h (2 + d) v =
      if (decide (d < h.rank) == (v.setWidth 32 == (0 : Word))) = true then none
      else some { h with dim := updateAt h.dim d fun _ => v.setWidth 32 } := by
    interval_cases d <;> exact fun _ => rfl
  rw [hwide, if_neg (by decide), hset, setWidth_word, hne]
  rfl

theorem setField_stride {h : TRec} {d : Nat} {v : DWord} {w : Word} (hd : d < 5) :
    setField h (7 + d) (if hsetWide (7 + d) then v else w.setWidth 64) = some { h with stride := updateAt h.stride d fun _ => v } := by
  interval_cases d <;> rfl

/-! ### Bytes of the tile table (R99) -/

theorem tileByte_eq (resid : Nat) (owned : Bool) (st : TState) (mode : BitVec 2) : tileByte resid owned st mode = BitVec.ofNat 32
    ((match st with | .empty => 0 | .filling => 1 | .ready => 2 | .draining => 3) + (if owned then 4 + 8 * (resid % 4) else 0) +
      32 * mode.toNat) := by
  have hteam : BitVec.ofNat 2 resid = BitVec.ofNat 2 (resid % 4) := by
    apply BitVec.eq_of_toNat_eq
    simp
  unfold tileByte
  rw [hteam]
  have hlt : resid % 4 < 4 := Nat.mod_lt _ (by decide)
  generalize resid % 4 = r at hlt
  revert r
  revert mode
  cases owned <;> cases st <;> decide

theorem flagWord_eq (t : Tile) : flagWord t = BitVec.ofNat 32 (t.flags.toNat + 64 * t.mode.toNat + 65536 * t.anchor.toNat) := by
  apply BitVec.eq_of_toNat_eq
  have ha : t.anchor.toNat < 2 ^ 16 := t.anchor.isLt
  have hm : t.mode.toNat < 2 ^ 2 := t.mode.isLt
  have hf : t.flags.toNat < 2 ^ 6 := t.flags.isLt
  have happ : (flagWord t).toNat = t.anchor.toNat * 2 ^ 16 + (t.mode.toNat * 2 ^ 6 + t.flags.toNat) := by
    rw [flagWord, toNat_append_add, toNat_append_add, toNat_append_add]
    simp
  rw [happ, BitVec.toNat_ofNat]
  omega

/-! ### Scribes (R306 to R308) -/

/-- The sums of a scribe over words that stand from a place on. -/
theorem foldl_scribe (ns : List Nat) : ∀ (p q : Int) (k : Nat),
    ns.foldl (fun (a : Int × Int × Nat) w =>
      let x := (BitVec.ofNat 64 w).toInt
      (a.1 + x, a.2.1 + ((a.2.2 : Int) + 1) * x, a.2.2 + 1)) (p, q, k) =
    (p + ((ns.map (BitVec.ofNat 64)).map BitVec.toInt).sum,
      q + (((List.range' k ns.length).zip (ns.map (BitVec.ofNat 64))).map fun e => ((e.1 : Int) + 1) * e.2.toInt).sum, k + ns.length) := by
  induction ns with
  | nil => intros; simp
  | cons n ns ih =>
    intro p q k
    rw [List.foldl_cons, ih]
    simp only [List.map_cons, List.sum_cons, List.length_cons, List.range'_succ, List.zip_cons_cons, add_assoc, Nat.add_comm 1]

/-- The two sums of a sequence of words, S0 modulo 2^64 and S1 modulo 2^61 - 1. -/
def scribeSums (ws : List DWord) : Int × Int :=
  ((ws.map BitVec.toInt).sum % 2 ^ 64,
    (((List.range ws.length).zip ws).map fun e => ((e.1 : Int) + 1) * e.2.toInt).sum % (2 ^ 61 - 1))

theorem scribeOf_eq (ns : List Nat) :
    scribeOf ns = ((scribeSums (ns.map (BitVec.ofNat 64))).1.toNat, (scribeSums (ns.map (BitVec.ofNat 64))).2.toNat) := by
  rw [scribeOf, foldl_scribe]
  simp only [zero_add, scribeSums, List.range_eq_range', List.length_map]
  rfl

/-- Four registers hold two sums that are not negative. -/
theorem scribeWords_toNat {p q : Int} (hp : 0 ≤ p) (hq : 0 ≤ q) :
    scribeWords (p.toNat, q.toNat) = wordsOf (BitVec.ofInt 64 p) ++ wordsOf (BitVec.ofInt 64 q) := by
  have key : ∀ {z : Int}, 0 ≤ z → BitVec.ofNat 64 z.toNat = BitVec.ofInt 64 z := fun {z} hz => by
    rw [← BitVec.ofInt_natCast, Int.toNat_of_nonneg hz]
  rw [scribeWords, key hp, key hq]

theorem scribeSums_nonneg (ws : List DWord) : 0 ≤ (scribeSums ws).1 ∧ 0 ≤ (scribeSums ws).2 :=
  ⟨Int.emod_nonneg _ (by decide), Int.emod_nonneg _ (by decide)⟩

/-- A whole number of pieces, taken one after another, are the pieces at their places. -/
theorem chunksOf_eq_map {α : Type} {n : Nat} (hn : 0 < n) : ∀ (c fuel : Nat) (l : List α), l.length = n * c → c ≤ fuel →
    chunksOf fuel n l = (List.range c).map fun k => (l.drop (n * k)).take n
  | 0, fuel, l, hl, _ => by
    obtain rfl : l = [] := List.length_eq_zero_iff.1 hl
    cases fuel <;> rfl
  | c + 1, fuel + 1, l, hl, hf => by
    have hne : l.isEmpty = false := by
      cases l with
      | nil => simp at hl; omega
      | cons => rfl
    rw [chunksOf, hne, chunksOf_eq_map hn c fuel (l.drop n) (by rw [List.length_drop, hl, Nat.mul_succ]; omega) (by omega),
      List.range_succ_eq_map]
    simp [List.map_map, Nat.mul_succ, Nat.add_comm, Function.comp_def]

/-- A scribe of words in memory that may be read and come whole (R307). -/
theorem withScribe_memory {i : Shape} {n : Nat} {l : List (Elem × List Byte × Bool)} (k : State → Nat × Nat → Res)
    (hn : (scalar32 s x x.b).toNat = n) (hl : n % 8 = 0 ∧ 8 ≤ n ∧ n ≤ 4096) (hf : x.fn.getLsbD 0 = false)
    (ha : (pairOf s x.a).toNat % 8 = 0) (h : ReadsBlock s (pairOf s x.a).toNat n v l) :
    withScribe i x s k = k v (scribeOf (l.map fun e => ofBytes e.2.1)) := by
  obtain ⟨h1, h2, h3⟩ := hl
  obtain ⟨hm, hr, hsound⟩ := h
  have hs : (l.any fun e => e.2.2) = false := List.any_eq_false.2 fun e he => by simp [hsound e he]
  have hlegal : ¬ (n % 8 ≠ 0 ∨ n < 8 ∨ 4096 < n) := by omega
  simp only [withScribe, hn, hf, Bool.false_eq_true, if_false, if_neg hlegal, if_neg (not_not.2 ha), whenReady_mapped _ hm, hr, hs]

/-- A scribe of words in a scratchpad region that may be read, and is not poisoned (R307). -/
theorem withScribe_local {i : Shape} {a n : Nat} (k : State → Nat × Nat → Res) (hn : (scalar32 s x x.b).toNat = n)
    (haddr : (scalar32 s x x.a).toNat = a) (hl : n % 8 = 0 ∧ 8 ≤ n ∧ n ≤ 4096) (hf : x.fn.getLsbD 0 = true) (h : FreeRegion s a 8 n false)
    (hp : ∀ k, k < n / 8 → lclPoisoned s s.tm.id (a + 8 * k) 8 = false) :
    withScribe i x s k = k s (scribeOf (dwordsOf (lclRead s s.tm.id a n))) := by
  obtain ⟨h1, h2, h3⟩ := hl
  obtain ⟨ha, hin, hrole, ho, hlate⟩ := h
  have hlegal : ¬ (n % 8 ≠ 0 ∨ n < 8 ∨ 4096 < n) := by omega
  have hpoison : poisonedElem s a n 8 = none := List.find?_eq_none.2 (List.forall_mem_map.2 fun k hk => by
    simp [hp k (List.mem_range.1 hk)])
  simp only [withScribe, hn, haddr, hf, if_true, if_neg hlegal, if_neg (not_not.2 ha), lclRegion, hin, hrole (by omega), ho, hlate,
    hpoison, Bool.not_true, Bool.false_eq_true, and_false, if_false, Bool.or_self]

/-- The words of a scratchpad range, one after another. -/
theorem dwordsOf_lclRead {a n : Nat} (hn : n % 8 = 0) : (dwordsOf (lclRead s s.tm.id a n)).map (BitVec.ofNat 64) =
    (List.range (n / 8)).map fun k => BitVec.ofNat 64 (ofBytes (((lclRead s s.tm.id a n).drop (8 * k)).take 8)) := by
  have hlen := length_lclRead s s.tm.id a n
  rw [dwordsOf, chunksOf_eq_map (by decide) (n / 8) _ _ (by omega) (by omega)]
  simp [List.map_map, Function.comp_def]

/-- A scribe is compared with the two values stored, when these may be read and come whole. -/
theorem checkScribe_reads {r : Nat × Nat} {l : List (Elem × List Byte × Bool)} (ha : (pairOf s x.c).toNat % 16 = 0)
    (h : ReadsBlock s (pairOf s x.c).toNat 16 v l) : checkScribe x r s =
      .done (resultS v x.d.toNat (if l.map (fun e => ofBytes e.2.1) = [r.1, r.2] then 0 else 1)) := by
  obtain ⟨hm, hr, hsound⟩ := h
  have hs : (l.any fun e => e.2.2) = false := List.any_eq_false.2 fun e he => by simp [hsound e he]
  simp only [checkScribe, if_neg (not_not.2 ha), whenReady_mapped _ hm, hr, hs, Bool.false_eq_true, if_false]

theorem faultWords_eq (f : ScrFault) :
    faultWords f = [f.chunk.extractLsb' 0 32, f.chunk.extractLsb' 32 32, f.count ++ f.hop, f.va.extractLsb' 0 32] := by
  have hlow : ∀ d : DWord, d.setWidth 32 = d.extractLsb' 0 32 := fun d => by
    ext i hi
    simp
  have hhigh : (f.chunk >>> 32).setWidth 32 = f.chunk.extractLsb' 32 32 := by
    ext i hi
    simp
  rw [faultWords, wordsOf, hhigh, hlow, hlow]
  rfl

/-- Settles O53, form by form. -/
theorem recordsAndScribesComplete : Obligations.RecordsAndScribesComplete := by
  unfold Obligations.RecordsAndScribesComplete
  intro s v w x h l m hwf words holds at_ index pooled takes puts one two sets o t byte writes sums block n legal local_ sound scribe a b
    folds checks f
  have htake : ∀ {va : Nat} (addr : DWord), va % 128 = 0 → ReadsBlock s va 128 v l → tensorOk words = true →
      (loadRecord s va fun s ws => takeRecord s x addr ws) = .done (holds v x.d.toNat (parseTensor words)) :=
    fun addr ha hr hok => (loadRecord_reads _ ha hr).trans (if_pos hok)
  have hat : scalarAddr s x = at_ := scalarAddr_toNat s x
  have hputs : recordPuts at_ h = puts h := by
    simp only [recordPuts, toNat_wordPair]
    rfl
  have hscribe : ∀ ns : List Nat, scribeWords (scribeOf ns) = block (sums (ns.map (BitVec.ofNat 64))) := fun ns => by
    obtain ⟨h0, h1⟩ := scribeSums_nonneg (ns.map (BitVec.ofNat 64))
    rw [scribeOf_eq, scribeWords_toNat h0 h1]
    rfl
  have hmem : ∀ l : List (Elem × List Byte × Bool), (l.map fun e => ofBytes e.2.1).map (BitVec.ofNat 64) = blockValues l :=
    fun l => List.map_map ..
  have hlocal : legal → (dwordsOf (lclRead s s.tm.id one.toNat n)).map (BitVec.ofNat 64) = local_ := fun hl => dwordsOf_lclRead hl.1
  have hfold : ∀ sub : Bool, foldBody x sub s = .done (resultBlock s x.d.toNat (block
      (((a.1 : Int) + (if sub then -1 else 1) * b.1) % 2 ^ 64, ((a.2 : Int) + (if sub then -1 else 1) * b.2) % (2 ^ 61 - 1)))) := fun sub =>
    congrArg (fun ws => Res.done (resultBlock s x.d.toNat ws)) (scribeWords_toNat (Int.emod_nonneg _ (by decide)) (Int.emod_nonneg _ (by decide)))
  refine ⟨fun hr ha hb hok => ?_, fun hi hr ha hb hok => ?_, fun hr hh ha hm => ?_, fun hr hh =>
    ⟨fun hn => ?_, fun hn => ?_, fun hn => ?_, fun hn => ?_, fun d hd hrank hn => ?_, fun d hd hn => ?_⟩,
    fun hr => ?_, fun hr => ?_, fun hr => ?_,
    fun hr hl hf ha hb => ?_, fun hr hl hf hreg hsound => ?_, fun hr hl hf ha hb hc hd => ?_, fun hr hl hf hreg hsound hc hd => ?_,
    fun hr => ?_, fun hr => ?_, fun hr => ?_⟩
  · exact exec_done (rfl : execHld x s = _) hr (by rw [hat]; exact htake _ ha hb hok)
  · exact exec_done (rfl : execHldPool x s = _) hr ((if_neg (Nat.not_le.2 hi)).trans (htake _ ha hb hok))
  · refine exec_done (rfl : execHst x s = _) hr ?_
    simp only [hat, withHandle, hh, if_neg (not_not.2 ha), hputs]
    rw [storeElems_mapped hm, lastWriters_scalar (List.forall_mem_map.2 fun _ _ => rfl)]
  · exact hset_sets hr hh (by rw [hn]; rfl)
  · exact hset_sets hr hh (by rw [hn]; exact congrArg (fun w => some { h with fill := w }) (setWidth_word one))
  · exact hset_sets hr hh (by rw [hn]; rfl)
  · exact hset_sets hr hh (by rw [hn]; exact congrArg (fun w => some { h with budget := w }) (setWidth_word one))
  · exact hset_sets hr hh (by rw [hn]; exact setField_dim hd hrank)
  · exact hset_sets hr hh (by rw [hn]; exact setField_stride hd)
  · exact writes_word hwf hr (rfl : execTstateSlot x s = _) rfl (tileByte_eq ..)
  · exact writes_word hwf hr (rfl : execTstateTile x s = _) rfl (tileByte_eq ..)
  · exact writes_word hwf hr (rfl : execTstateFlags x s = _) rfl (flagWord_eq _)
  · refine exec_done (rfl : execScrb x s = _) hr ((withScribe_memory _ rfl hl hf ha hb).trans ?_)
    rw [hscribe, hmem]
  · refine exec_done (rfl : execScrb x s = _) hr ((withScribe_local _ rfl rfl hl hf hreg hsound.2).trans ?_)
    rw [hscribe, hlocal hl]
  · refine exec_done (rfl : execScrchk x s = _) hr ((withScribe_memory _ rfl hl hf ha hb).trans ((checkScribe_reads hd hc).trans ?_))
    rw [scribeOf_eq, hmem]
    rfl
  · refine exec_done (rfl : execScrchk x s = _) hr ((withScribe_local _ rfl rfl hl hf hreg hsound.2).trans ((checkScribe_reads hd hc).trans ?_))
    rw [scribeOf_eq, hlocal hl]
    rfl
  · exact exec_done (rfl : execScrfold x s = _) hr (hfold false)
  · exact exec_done (rfl : execScrfoldSub x s = _) hr (hfold true)
  · exact exec_done (rfl : execScrrd x s = _) hr (by rw [faultWords_eq]; rfl)

end Sys2Proof.Machine
end

section

/-! ## Commands are accepted (O54)

A command that may be accepted is `accept_accepts`; what stands before it are the checks of its operands, each said once. -/

namespace Sys2Proof.Machine
open Sys2Proof

variable {s : State} {x : Args}

/-! ### Acceptance (R101, R249) -/

/-- The registers that a command's status goes to: four for `lshstat`, one for the others (R299). -/
def CmdKind.status : CmdKind → Nat
  | .stat .. => 4
  | _ => 1

theorem useDest_swrite {r : Role} (h : roleVregs x r = 0) :
    (useDest x Use.nothing r).swrite = if x.sup then [] else (List.range (roleSregs x r)).map (x.d.toNat + ·) := by
  unfold useDest
  split
  · rfl
  · rw [h]
    rfl

theorem accept_accepts {k : CmdKind} {f : EFlags} {rs : List Range} (h : MayAccept s k rs) :
    accept x s k f rs = .done (accepted x s k f rs k.status) := by
  obtain ⟨ho, hl, hc, hq⟩ := h
  have hlate : (!rs.isEmpty && s.g.late.any fun y => y.lcl) = false := by
    cases rs with
    | nil => rfl
    | cons r rs => exact List.any_eq_false.2 fun y hy => by simp [hl (by simp) y hy]
  have hroom : ¬ (16 ≤ (s.eng.overlaps.filter fun o => o.core == s.tm.core && o.mover.isNone).length ∨
      queueDepth (queueOf s.tm.core k) ≤ (s.eng.cmds.filter fun c => queueOf c.core c.kind == queueOf s.tm.core k).length) := by omega
  refine (if_neg ?_).trans ((if_neg ?_).trans (congrArg Res.done ?_))
  · rw [ho, hlate]
    decide
  · simpa using hroom
  · cases k with
    | stat => rw [useDest_swrite (r := .block 4 false) rfl]; rfl
    | _ => rw [useDest_swrite (r := .sd) rfl]; rfl

theorem flagsBarOk_of {s : State} {f : EFlags} (h : ∀ b, f.bar = some b → b < s.tm.nbars) : flagsBarOk s f = true := by
  unfold flagsBarOk
  cases hb : f.bar with
  | none => rfl
  | some b => simpa using h b hb

/-! ### What an access leaves of the team in focus -/

theorem blindToWrites_tm : BlindToWrites State.tm :=
  ⟨⟨fun _ _ => rfl, fun _ _ => rfl⟩, fun _ _ => rfl, fun _ _ => rfl, fun _ _ => rfl, fun _ _ => rfl, fun _ _ => rfl⟩

/-- The merges of the group's own contributions (R113), and the records that they bring with them, change no team. -/
theorem attributed_tm (s : State) (x : Access) : (attributed s x).tm = s.tm := by
  refine (foldl_same (fun u _ => blindToWrites_tm.toBlindToRecords.fillPac u ..) _ _).trans (foldl_same (fun u e => ?_) _ _)
  split
  · exact foldl_same (fun v _ => blindToWrites_tm.mergeLine v _) _ _
  · rfl

/-! ### Tiles (R250) -/

/-- A handle and a box that fit each other (R250): dense, one row where the rank is 1, no origin beyond the rank. -/
def Tiled (s : State) (x : Args) (h : TRec) : Prop :=
  handleAt s (fieldNum x.a) = some h ∧ h.dense = true ∧ (h.rank = 1 → (boxAt s (fieldNum x.b)).ext1 = 1) ∧
    ∀ c ∈ (boxAt s (fieldNum x.b)).org.drop h.rank, c = 0

theorem withTile_tiled {h : TRec} {tr : Bool} (k : TRec → Box → Res) (ht : Tiled s x h) (hb : tr = true → h.bs = false) :
    withTile s x tr k = k h (boxAt s (fieldNum x.b)) := by
  obtain ⟨hh, hd, hr, ho⟩ := ht
  have h1 : (tr && h.bs) = false := by
    cases tr with
    | false => rfl
    | true => exact hb rfl
  have h2 : (h.rank == 1 && (boxAt s (fieldNum x.b)).ext1 != 1) = false := by
    by_cases h1 : h.rank = 1
    · simp [hr h1]
    · simp [h1]
  have h3 : ((boxAt s (fieldNum x.b)).org.drop h.rank).any (· != 0) = false := List.any_eq_false.2 fun c hc => by simp [ho c hc]
  simp only [withTile, withHandle, hh, hd, h1, h2, h3, Bool.not_true, Bool.or_self, Bool.false_eq_true, if_false]

theorem tileSpan_eq (h : TRec) (b : Box) (pitch : Nat) : tileSpan h b pitch =
    if b.ext0 = 0 ∨ b.ext1 = 0 then 0 else (b.ext1 - 1) * rowPitch h b pitch + b.ext0 * h.size := by
  simp only [tileSpan, Bool.or_eq_true, decide_eq_true_eq]

/-- A copy between memory and scratchpad whose tile fits its handle, and whose rows lie in one allocation, asks for acceptance (R250). -/
theorem copyLocal_asks {i : Shape} {out : Bool} {h : TRec} {b : Box} {n : Nat} (he : s.exec ≠ 0) (hf : flagsBarOk s (engineFlags x) = true)
    (ht : Tiled s x h) (hb : boxAt s (fieldNum x.b) = b) (hn : tileSpan h b (engineFlags x).pitch = n)
    (hr : n ≠ 0 → lclInRange s s.tm.id (scalar32 s x x.c).toNat n = true)
    (hp : 2 ≤ b.ext1 → b.ext0 * h.size ≤ rowPitch h b (engineFlags x).pitch) :
    copyLocal i x out s = accept x s (if out then .copyOut h b (scalar32 s x x.c) else .copyIn h b (scalar32 s x x.c)) (engineFlags x)
      (if n = 0 then [] else lclRange s (scalar32 s x x.c).toNat n (!out)) := by
  have h1 : ¬ (n ≠ 0 ∧ (!lclInRange s s.tm.id (scalar32 s x x.c).toNat n) = true) := fun ⟨h0, hn⟩ => by simp [hr h0] at hn
  have h2 : ¬ (2 ≤ b.ext1 ∧ rowPitch h b (engineFlags x).pitch < b.ext0 * h.size) := fun ⟨h0, hn⟩ => Nat.not_lt.2 (hp h0) hn
  simp only [copyLocal, if_neg he, hf, Bool.not_true, Bool.false_eq_true, if_false, withTile_tiled _ ht (tr := false) nofun, hb, hn,
    if_neg h1, if_neg h2, BitVec.ofNat_toNat, BitVec.setWidth_eq]

/-- A slot that may be filled is not waited for. -/
theorem withFreeSlot_free {n : Nat} (k : Res) (h : FreeSlot s n) : withFreeSlot s n k = k := by
  obtain ⟨hown, hfill, hdrain, ho, hb⟩ := h
  have hst : ((slotAt s.tm n).st == .filling || (slotAt s.tm n).st == .draining || slotBusy s s.tm.id n) = false := by
    simp [hfill, hdrain, hb]
  simp only [withFreeSlot, hown, ho, hst, Bool.not_true, Bool.false_eq_true, if_false]

/-- A slot that is owned is one of the team's. -/
theorem lt_length_of_owned {t : Team} {n : Nat} (h : (slotAt t n).owned = true) : n < t.slots.length := by
  by_contra hn
  rw [slotAt, List.getD_eq_default _ _ (Nat.le_of_not_lt hn)] at h
  cases h

/-- A copy into a slot that may be filled is accepted, and the slot, with every byte zero, is filling (R250, R251). -/
theorem copySlotBody_accepts {i : Shape} {h : TRec} {tr : Bool} {b : Box} {n : Nat} (he : s.exec ≠ 0)
    (hf : flagsBarOk s (engineFlags x) = true) (ht : Tiled s x h) (hb : boxAt s (fieldNum x.b) = b) (hn : fieldNum x.c = n)
    (htr : x.fn.getLsbD 2 = tr) (hbs : tr = true → h.bs = false) (hs : FreeSlot s n)
    (hsize : if tr then b.ext0 ≤ 64 ∧ b.ext1 ≤ 128 / h.size else b.ext1 ≤ 64 ∧ b.ext0 ≤ 128 / h.size)
    (hm : MayAccept s (.copySlot h b tr n) (slotRange s n true)) :
    copySlotBody i x s = .done { accepted x s (.copySlot h b tr n) (engineFlags x) (slotRange s n true) 1 with
      tm := { s.tm with slots := updateAt s.tm.slots n fun o => { o with st := .filling, bytes := [] } } } := by
  have hfits : (if tr = true then decide (64 < b.ext0) || decide (slotPositions h.size < b.ext1)
      else decide (64 < b.ext1) || decide (slotPositions h.size < b.ext0)) = false := by
    cases tr <;> exact Bool.or_eq_false_iff.2 ⟨decide_eq_false (Nat.not_lt.2 hsize.1), decide_eq_false (Nat.not_lt.2 hsize.2)⟩
  simp only [copySlotBody, if_neg he, hf, Bool.not_true, Bool.false_eq_true, if_false, htr, withTile_tiled _ ht hbs, hb, hn,
    withFreeSlot_free _ hs, hfits, accept_accepts hm]
  exact congrArg Res.done (if_pos rfl)

/-- A fill of whole words of an allocation asks for acceptance (R253). -/
theorem fillLocal_asks {i : Shape} (he : s.exec ≠ 0) (hf : flagsBarOk s (engineFlags x) = true) (ha : (scalar32 s x x.a).toNat % 4 = 0)
    (hb : (scalar32 s x x.b).toNat % 4 = 0) (hl : lclInRange s s.tm.id (scalar32 s x x.a).toNat (scalar32 s x x.b).toNat = true) :
    fillLocal i x s = accept x s (.fillLcl (scalar32 s x x.a) (scalar32 s x x.b).toNat (scalar32 s x x.c)) (engineFlags x)
      (if (scalar32 s x x.b).toNat = 0 then [] else lclRange s (scalar32 s x x.a).toNat (scalar32 s x x.b).toNat true) := by
  simp only [fillLocal, if_neg he, hf, ha, hb, hl, ne_eq, not_true_eq_false, or_self, Bool.not_true, Bool.false_eq_true, if_false,
    BitVec.ofNat_toNat, BitVec.setWidth_eq]

/-! ### Handles of products, families and keys (R292, R296, R300) -/

theorem productHandle_of {h : TRec}
    (hm : h.rank = 2 ∧ h.kindOf 1 = 0 ∧ h.kindOf 0 = 2 ∧ h.efmt.toNat ∈ [0, 1, 2, 3, 4, 6, 7] ∧ h.bs = false) :
    productHandle h = true := by
  obtain ⟨h2, hk1, hk0, hf, hb⟩ := hm
  simp only [productHandle, h2, hk1, hk0, hb, List.contains_iff_mem.2 hf, beq_self_eq_true, Bool.and_true, Bool.not_false]

theorem withFamily_some {f : Src} {y : Fam} {k : Fam → Res} (h : s.tm.fams.getD (fieldNum f) none = some y) : withFamily s f k = k y := by
  simp only [withFamily, h]

/-- Keys of which none is poisoned raise nothing (R300). -/
theorem cleanKeys_clean {r l : Nat} (k : Res)
    (h : ∀ p ∈ s.g.poison, p.1 < 8192 → p.1 / 32 = r ∨ p.1 / 32 = r + 1 → l ≤ p.1 % 32) : cleanKeys s r l k = k := by
  have hbad : (s.g.poison.filter fun p => (p.1 / 32 == r || p.1 / 32 == r + 1) && decide (p.1 < 8192 ∧ p.1 % 32 < l)) = [] :=
    List.filter_eq_nil_iff.2 fun p hp => by
      simp only [Bool.and_eq_true, Bool.or_eq_true, beq_iff_eq, decide_eq_true_eq, not_and, not_lt]
      exact fun hr h0 => h p hp h0 hr
  simp only [cleanKeys, hbad, List.isEmpty_nil, if_true]

/-! ### What the other commands ask for -/

section
variable {h h' : TRec} {y : Fam}

theorem fillTensor_asks {i : Shape} (he : s.exec ≠ 0) (hf : flagsBarOk s (engineFlags x) = true) (ht : Tiled s x h) :
    fillTensor i x s = accept x s (.fillT h (boxAt s (fieldNum x.b)) (scalar32 s x x.c)) (engineFlags x) [] := by
  simp only [fillTensor, if_neg he, hf, Bool.not_true, Bool.false_eq_true, if_false, withTile_tiled _ ht (tr := false) nofun]

theorem spmuloBody_asks (he : s.exec ≠ 0) (hf : flagsBarOk s (engineFlags x) = true) (ha : handleAt s (fieldNum x.a) = some h)
    (hb : handleAt s (fieldNum x.b) = some h') (hp : productHandle h = true) (hp' : productHandle h' = true) (hd : h'.dimOf 1 = h.dimOf 1)
    (hbuf : (getPair s (fieldNum x.c)).toNat % 32 = 0) : spmuloBody x s = accept x s (.spmulo h h' (getPair s (fieldNum x.c))
      (getS s (fieldNum x.c + 2)).toNat (getS s (fieldNum x.c + 3)).toNat (getS s (fieldNum x.c + 4)).toNat) (engineFlags x) [] := by
  simp only [spmuloBody, if_neg he, hf, Bool.not_true, Bool.false_eq_true, if_false, withHandle, ha, hb, hp, hp', withBuffer, hd,
    bne_self_eq_false, Bool.or_self, hbuf, ne_eq, not_true_eq_false]

theorem spmergeBody_asks (he : s.exec ≠ 0) (hf : flagsBarOk s (engineFlags x) = true) (hb : handleAt s (fieldNum x.b) = some h)
    (h2 : h.rank = 2) (hk1 : h.kindOf 1 = 0) (hk0 : h.kindOf 0 = 2) (hp : ¬ (h.efmt = 9 ∧ profileN s = true))
    (hbuf : (getPair s (fieldNum x.a)).toNat % 32 = 0) : spmergeBody x s =
      accept x s (.spmerge (getPair s (fieldNum x.a)) (getS s (fieldNum x.a + 2)).toNat h) (engineFlags x) [] := by
  simp only [spmergeBody, if_neg he, hf, Bool.not_true, Bool.false_eq_true, if_false, withHandle, hb, h2, hk1, hk0, withBuffer,
    bne_self_eq_false, Bool.or_self, if_neg hp, hbuf, ne_eq, not_true_eq_false]

theorem updateBody_asks {i : Shape} {ins : Bool} (hy : s.tm.fams.getD (fieldNum x.a) none = some y) (hrow : scalar32 s x x.c ≠ 0xFFFFFFFF)
    (hk : ∀ p ∈ s.g.poison, p.1 < 8192 → p.1 / 32 = fieldNum x.b ∨ p.1 / 32 = fieldNum x.b + 1 → y.new.l ≤ p.1 % 32) :
    updateBody i x ins s = accept x s (if ins
      then .insert y (keyLanes s (fieldNum x.b) y.new.l) (keyLanes s (fieldNum x.b + 1) y.new.l) (scalar32 s x x.c)
      else .delete y (keyLanes s (fieldNum x.b) y.new.l) (keyLanes s (fieldNum x.b + 1) y.new.l) (scalar32 s x x.c)) EFlags.none [] := by
  simp only [updateBody, withFamily_some hy, if_neg hrow, cleanKeys_clean _ hk]

theorem stepBody_asks (hy : s.tm.fams.getD (fieldNum x.a) none = some y) (h1 : 1 ≤ (scalar32 s x x.b).toNat)
    (h2 : (scalar32 s x x.b).toNat ≤ 4096) : stepBody x s = accept x s (.migrate y (scalar32 s x x.b).toNat) EFlags.none [] := by
  have hlegal : ¬ ((scalar32 s x x.b).toNat = 0 ∨ 4096 < (scalar32 s x x.b).toNat) := by omega
  simp only [stepBody, withFamily_some hy, if_neg hlegal]

theorem statBody_asks (hy : s.tm.fams.getD (fieldNum x.a) none = some y) (hb : (scalar32 s x x.b).toNat < y.new.l) :
    statBody x s = accept x s (.stat y (scalar32 s x x.b).toNat) EFlags.none [] := by
  simp only [statBody, withFamily_some hy, if_neg (Nat.not_le.2 hb)]

/-- A collective's record that may be read, and comes whole, asks for acceptance (R260). -/
theorem collBody_asks {v : State} {l : List (Elem × List Byte × Bool)} (he : s.exec ≠ 0) (hf : flagsBarOk s (engineFlags x) = true)
    (ha : (pairOf s x.a).toNat % 64 = 0) (h : ReadsBlock s (pairOf s x.a).toNat 64 v l) : collBody x s =
      accept x v (.coll ((blockValues l).flatMap wordsOf) (bayOf s.tm.core) (pairOf s x.a)) (engineFlags x) [] := by
  obtain ⟨hm, hr, hsound⟩ := h
  have hs : (l.any fun e => e.2.2) = false := List.any_eq_false.2 fun e he => by simp [hsound e he]
  simp only [collBody, if_neg he, hf, Bool.not_true, Bool.false_eq_true, if_false, ha, ne_eq, not_true_eq_false, whenReady_mapped _ hm, hr,
    hs, attributed_tm, BitVec.ofNat_toNat, BitVec.setWidth_eq]

/-- A region that no load of the group reads later, and that no range is asked for, is there at once (R97, R118). -/
theorem lclRegion_reaches {a n : Nat} (k : State → Res)
    (h : lclInRange s s.tm.id a n = true ∧ lclRole s s.tm.id a n = true ∧ lateLocal s a n = false) : lclRegion s a 1 n [] k = k s := by
  obtain ⟨hin, hrole, hlate⟩ := h
  have ho : overlapped s [] = false := by simp [overlapped]
  simp only [lclRegion, Nat.mod_one, ne_eq, not_true_eq_false, if_false, hin, hrole, hlate, ho, Bool.not_true, Bool.false_eq_true, and_false,
    Bool.or_self]

/-- The bytes from a scratchpad address to the end of its allocation (R300). -/
def lclRest (s : State) (a : Nat) : Nat := match lclTeamOf s s.tm.id a with | some k => (findTeam s k).lds - lclOff a | none => 0

theorem probeBody_asks (hy : s.tm.fams.getD (fieldNum x.a) none = some y) (h1 : 1 ≤ (getS s (fieldNum x.c + 2)).toNat)
    (h2 : (getS s (fieldNum x.c + 2)).toNat ≤ 1024)
    (hk : ∀ p ∈ s.g.poison, p.1 < 8192 → p.1 / 32 = fieldNum x.b ∨ p.1 / 32 = fieldNum x.b + 1 → y.new.l ≤ p.1 % 32)
    {list bits cap : Nat}
    (hlist : (getS s (fieldNum x.c)).toNat = list) (hbits : (getS s (fieldNum x.c + 1)).toNat = bits)
    (hcap : (getS s (fieldNum x.c + 2)).toNat = cap)
    (hl : lclInRange s s.tm.id list (4 * cap) = true ∧ lclRole s s.tm.id list (4 * cap) = true ∧ lateLocal s list (4 * cap) = false)
    (hb : lclInRange s s.tm.id bits 1 = true ∧ lclRole s s.tm.id bits 1 = true ∧ lateLocal s bits 1 = false) :
    probeBody x s = accept x s (.probe y (keyLanes s (fieldNum x.b) y.new.l) (keyLanes s (fieldNum x.b + 1) y.new.l)
      (getS s (fieldNum x.c)) (getS s (fieldNum x.c + 1)) cap) EFlags.none
      (lclRange s list (4 * cap) true ++ lclRange s bits (lclRest s bits) true) := by
  subst hlist hbits hcap
  have hlegal : ¬ ((getS s (fieldNum x.c + 2)).toNat = 0 ∨ 1024 < (getS s (fieldNum x.c + 2)).toNat) := by omega
  simp only [probeBody, withFamily_some hy, if_neg hlegal, cleanKeys_clean _ hk, lclRegion_reaches _ hl, lclRegion_reaches _ hb,
    BitVec.ofNat_toNat, BitVec.setWidth_eq]
  rfl

end

/-- Settles O54, form by form. -/
theorem commandsAreAccepted : Obligations.CommandsAreAccepted := by
  unfold Obligations.CommandsAreAccepted
  intro s v x h h' y l f flagged none_ takes box tiled pitch span c copies n tr lines a b va blk mul family keys kr clean row list bits cap rest
    reaches
  have hspan : tileSpan h box f.pitch = span := tileSpan_eq ..
  have hcopy : ∀ (i : Instr) (out : Bool), exec i s = run i.shape (copyLocal i.shape x out) s → copies i out :=
    fun i out hx hr he hf ht hl hp hm => by
    refine exec_done hx hr ((copyLocal_asks he (flagsBarOk_of hf) ht rfl hspan hl hp).trans ((accept_accepts hm).trans ?_))
    cases out <;> rfl
  refine ⟨hcopy _ _ rfl, hcopy _ _ rfl, fun hr he hf ht hb hs hsize hm => ?_, fun hr he hf ha hb hl hm => ?_, fun hr he hf ht hm => ?_,
    fun i hi hr he => ?_, fun hr he hf ha hb hm => ?_, fun hr he hf hh hh' hmul hmul' hd hbuf hm => ?_,
    fun hr he hf hh h2 hk1 hk0 hp hbuf hm => ?_, fun hr hy hc1 hc2 hk hl hb hm => ?_, fun hr hy hrow hk hm => ?_, fun hr hy hrow hk hm => ?_,
    fun hr hy hb1 hb2 hm => ?_, fun hr hy hb hm => ?_⟩
  · refine ⟨_, exec_done (rfl : execBcopyInSlot x s = _) hr
      (copySlotBody_accepts he (flagsBarOk_of hf) ht rfl rfl rfl hb hs hsize hm), rfl, fun k hk => ?_, ?_⟩
    · exact (getD_updateAt ..).trans (if_neg fun hk' => hk hk'.1)
    · exact (getD_updateAt ..).trans (if_pos ⟨rfl, lt_length_of_owned hs.1⟩)
  · exact exec_done (rfl : execBfillLcl x s = _) hr ((fillLocal_asks he (flagsBarOk_of hf) ha hb hl).trans (accept_accepts hm))
  · exact exec_done (rfl : execBfillT x s = _) hr ((fillTensor_asks he (flagsBarOk_of hf) ht).trans (accept_accepts hm))
  · simp only [List.mem_cons, List.not_mem_nil, or_false] at hi
    rcases hi with rfl | rfl | rfl | rfl | rfl | rfl | rfl | rfl
    · exact exec_done (rfl : execBcopyIn x s = _) hr (if_pos he)
    · exact exec_done (rfl : execBcopyInSlot x s = _) hr (if_pos he)
    · exact exec_done (rfl : execBcopyOut x s = _) hr (if_pos he)
    · exact exec_done (rfl : execBfillLcl x s = _) hr (if_pos he)
    · exact exec_done (rfl : execBfillT x s = _) hr (if_pos he)
    · exact exec_done (rfl : execColl x s = _) hr (if_pos he)
    · exact exec_done (rfl : execSpmulo x s = _) hr (if_pos he)
    · exact exec_done (rfl : execSpmerge x s = _) hr (if_pos he)
  · exact exec_done (rfl : execColl x s = _) hr ((collBody_asks he (flagsBarOk_of hf) ha hb).trans (accept_accepts hm))
  · exact exec_done (rfl : execSpmulo x s = _) hr ((spmuloBody_asks he (flagsBarOk_of hf) hh hh' (productHandle_of hmul)
      (productHandle_of hmul') hd hbuf).trans (accept_accepts hm))
  · exact exec_done (rfl : execSpmerge x s = _) hr ((spmergeBody_asks he (flagsBarOk_of hf) hh h2 hk1 hk0 hp hbuf).trans (accept_accepts hm))
  · exact exec_done (rfl : execLshprobe x s = _) hr ((probeBody_asks hy hc1 hc2 hk rfl rfl rfl hl hb).trans (accept_accepts hm))
  · exact exec_done (rfl : execLshins x s = _) hr ((updateBody_asks hy hrow hk).trans (accept_accepts hm))
  · exact exec_done (rfl : execLshdel x s = _) hr ((updateBody_asks hy hrow hk).trans (accept_accepts hm))
  · exact exec_done (rfl : execLshstep x s = _) hr ((stepBody_asks hy hb1 hb2).trans (accept_accepts hm))
  · exact exec_done (rfl : execLshstat x s = _) hr ((statBody_asks hy hb).trans (accept_accepts hm))

end Sys2Proof.Machine
end

section

/-! ## Turns of the engines (O56)

Each turn of an engine is an event that finds its command and works on it; a lemma for each says what the turn is once the command is known. -/

namespace Sys2Proof.Machine
open Sys2Proof

variable {s u : State} {c : Cmd} {id : Nat}

/-! ### Commands that an event finds -/

theorem findCmd_id (h : findCmd s id = some c) : c.id = id := by simpa using List.find?_some h

/-- A command without an acquire that may start is transferred (R249). -/
theorem engineComplete_transfers (h : findCmd s id = some c) (hk : c.kind.retrieval = false) (hr : c.res = none) (ha : c.flags.acq = none)
    (hm : mayStart s c = true) : exec (.engineComplete id) s = .next (transfer c (startCmd s c)) := by
  show execEngineComplete id s = _
  simp only [execEngineComplete, h, hk, hr, hm, ha, engineAcquire, Bool.false_eq_true, Bool.not_true, if_false, if_true]

/-- A command without a release writes its status once its transfer has ended. -/
theorem engineComplete_finishes {r : CmdRes} (h : findCmd s id = some c) (hk : c.kind.retrieval = false) (hr : c.res = some r)
    (hrel : c.flags.rel = none) : exec (.engineComplete id) s = .next (finishCmd s c r) := by
  show execEngineComplete id s = _
  have hsys : (c.flags.rel == some 4) = false := by rw [hrel]; rfl
  have hmet : releaseMet s c = true := by rw [releaseMet, hrel]
  simp only [execEngineComplete, h, hk, hr, hsys, hmet, Bool.false_eq_true, if_false, if_true]

/-- Of a command that has ended with code 0, with no barrier to see to, only the status word remains (R248). -/
theorem finishCmd_plain {r : CmdRes} (hc : r.code = 0) (hb : c.flags.bar = none) :
    finishCmd s c r = settleRegs (dropCmd s c.id) c.gid c.dest [BitVec.ofNat 32 (65536 * min r.chunks 65535)] := by
  have hword : statusWord 0 false r.chunks = BitVec.ofNat 32 (65536 * min r.chunks 65535) := by simp [statusWord]
  simp only [finishCmd, hc, hb]
  rw [← hword]
  rfl

theorem dropCmd_gone {y : Cmd} (h : y ∈ (dropCmd s c.id).eng.cmds) : y.id ≠ c.id := by
  simpa using (List.mem_filter.1 h).2

/-! ### Collectives and chunks (R261, R341) -/

theorem findCmd_updCmd {k : Nat} {f : Cmd → Cmd} (j : Nat) (hf : ∀ m, (f m).id = m.id) :
    findCmd (updCmd s k f) j = (findCmd s j).map fun m => if m.id == k then f m else m := by
  show (updateWhere (fun c => c.id == k) f s.eng.cmds).find? (fun c => c.id == j) = _
  rw [updateWhere, List.find?_map]
  have hp : ((fun c : Cmd => c.id == j) ∘ fun m => if m.id == k then f m else m) = fun c => c.id == j := by
    funext m
    show ((if m.id == k then f m else m).id == j) = (m.id == j)
    split
    · rw [hf]
    · rfl
  rw [hp]
  rfl

/-- A command that has ended with code 0x0A, unless it had a result before. -/
def Stopped (m m' : Cmd) : Prop := m'.res = m.res ∨ (m.res = none ∧ ∃ r, m'.res = some r ∧ r.code = 0x0A)

theorem Stopped.trans {m m' m'' : Cmd} (h : Stopped m m') (h' : Stopped m' m'') : Stopped m m'' := by
  rcases h with h | ⟨h0, r, hr, hc⟩
  · rw [Stopped, ← h]
    exact h'
  · rcases h' with h' | ⟨h1, -⟩
    · exact .inr ⟨h0, r, h'.trans hr, hc⟩
    · rw [hr] at h1
      cases h1

theorem Stopped.isSome {m m' : Cmd} (h : Stopped m m') (hm : m.res.isSome = true) : m'.res.isSome = true := by
  rcases h with h | ⟨h0, -⟩
  · rw [h]
    exact hm
  · rw [h0] at hm
    cases hm

/-- The result of a participant's command that is refused. -/
def refusal (m : Cmd) (p : Part) : CmdRes :=
  match m.kind with
  | .coll _ _ va => collRes m 0x0A p.wrote.length va.toNat
  | _ => collRes m 0x0A 0 0

theorem refusal_code (m : Cmd) (p : Part) : (refusal m p).code = 0x0A := by
  unfold refusal
  split <;> rfl

/-- A participant's command is refused (R261). -/
def refuseOne (s : State) (p : Part) : State :=
  match findCmd s p.cmd with
  | some m => endCmd s p.cmd (refusal m p)
  | none => s

theorem endCmd_stops {k j : Nat} {r : CmdRes} {m : Cmd} (h : findCmd s k = some m) (hc : r.code = 0x0A) :
    ∃ m', findCmd (endCmd s j r) k = some m' ∧ Stopped m m' ∧ (k = j → m'.res.isSome = true) := by
  rw [endCmd, findCmd_updCmd k fun m => by split <;> rfl, h, Option.map_some]
  by_cases hj : m.id = j
  · rw [if_pos (beq_iff_eq.2 hj)]
    by_cases hr : m.res.isSome = true
    · rw [if_pos hr]
      exact ⟨m, rfl, .inl rfl, fun _ => hr⟩
    · rw [if_neg hr]
      exact ⟨_, rfl, .inr ⟨by simpa using hr, r, rfl, hc⟩, fun _ => rfl⟩
  · rw [if_neg (by simpa using hj)]
    exact ⟨m, rfl, .inl rfl, fun hk => absurd ((findCmd_id h).trans hk) hj⟩

theorem refuseOne_stops {p : Part} {k : Nat} {m : Cmd} (h : findCmd s k = some m) :
    ∃ m', findCmd (refuseOne s p) k = some m' ∧ Stopped m m' ∧ (k = p.cmd → m'.res.isSome = true) := by
  unfold refuseOne
  split
  · exact endCmd_stops h (refusal_code ..)
  · next hn => exact ⟨m, h, .inl rfl, fun hk => by rw [hk, hn] at h; cases h⟩

theorem foldl_refuseOne_stops (l : List Part) {k : Nat} : ∀ {s : State} {m : Cmd}, findCmd s k = some m →
    ∃ m', findCmd (l.foldl refuseOne s) k = some m' ∧ Stopped m m' ∧ ((∃ p ∈ l, k = p.cmd) → m'.res.isSome = true) := by
  induction l with
  | nil => exact fun h => ⟨_, h, .inl rfl, fun ⟨_, hp, _⟩ => absurd hp List.not_mem_nil⟩
  | cons p l ih =>
    intro s m h
    obtain ⟨m1, h1, hs1, hk1⟩ := refuseOne_stops (p := p) h
    obtain ⟨m2, h2, hs2, hk2⟩ := ih h1
    refine ⟨m2, h2, hs1.trans hs2, fun ⟨q, hq, hkq⟩ => ?_⟩
    rcases List.mem_cons.1 hq with rfl | hq
    · exact hs2.isSome (hk1 hkq)
    · exact hk2 ⟨q, hq, hkq⟩

theorem closeColl_cmds (s : State) (k : Nat) : (closeColl s k).eng.cmds = s.eng.cmds := by
  unfold closeColl
  split
  · rfl
  · split <;> rfl

/-- Every participant of a collective that is refused has a result, with code 0x0A where it had none (R261). -/
theorem refuseAll_stops {co : Coll} {p : Part} {m m' : Cmd} (hp : p ∈ co.parts) (h : findCmd s p.cmd = some m)
    (h' : findCmd (refuseAll s co) p.cmd = some m') : ∃ r, m'.res = some r ∧ (m.res = none → r.code = 0x0A) := by
  obtain ⟨m1, h1, hs, hk⟩ := foldl_refuseOne_stops co.parts h
  have hfind : findCmd (refuseAll s co) p.cmd = findCmd (co.parts.foldl refuseOne s) p.cmd := by
    show findCmd (closeColl (co.parts.foldl refuseOne s) co.id) p.cmd = _
    rw [findCmd, closeColl_cmds, findCmd]
  obtain rfl : m1 = m' := Option.some.inj (h1.symm.trans (hfind.symm.trans h'))
  obtain ⟨r, hr⟩ := Option.isSome_iff_exists.1 (hk ⟨p, hp, rfl⟩)
  refine ⟨r, hr, fun h0 => ?_⟩
  rcases hs with hs | ⟨-, r', hr', hc⟩
  · rw [hs, h0] at hr
    cases hr
  · rw [hr] at hr'
    cases hr'
    exact hc

/-- A chunk that comes unchanged to a hop which is in service, and is not its last, goes on to the next (R341). -/
theorem chunkArrival_goesOn {n : Nat} {x : Chunk} {co : Coll} {h h' : BitVec 16} {hops : List (BitVec 16)}
    (hx : (s.eng.chunks.find? fun y => y.num == n) = some x) (hw : x.waiting = false) (hc : findColl s x.coll = some co)
    (hh : x.hops = h :: h' :: hops) (hd : hopDown s x.prev h = false) (hs : scribeOf (x.payload.map BitVec.toNat) = (x.s0, x.s1)) :
    exec (.chunkArrival n [] []) s = .next (updChunk s n fun _ =>
      { x with hop := h, prev := h, hops := h' :: hops, tries := 0, rerouted := false, rsnd := false }) := by
  have hn : x.num = n := by simpa using List.find?_some hx
  have hside : (x.side.map fun y => (flipSlots [] y.1, y.2)) = x.side := Option.map_id'
  have hok : linkOk x x.payload x.side = true := by simp [linkOk, hs]
  have hgot : flipSlots [] x.payload = x.payload := rfl
  show execChunkArrival n [] [] s = _
  simp only [execChunkArrival, hx, hw, Bool.false_eq_true, if_false, arriveChunk, hc, hh, hd, List.filter_nil, List.map_nil, hgot, hside, hok,
    Bool.not_true, List.isEmpty_cons, Bool.false_and, hn]

theorem find_updateWhere_num {l : List Chunk} {n : Nat} {x : Chunk} {f : Chunk → Chunk} (h : (l.find? fun y => y.num == n) = some x)
    (hf : ∀ y, (f y).num = y.num) : (updateWhere (fun y => y.num == n) f l).find? (fun y => y.num == n) = some (f x) := by
  have hp : ((fun y : Chunk => y.num == n) ∘ fun y => if y.num == n then f y else y) = fun y => y.num == n := by
    funext y
    show ((if y.num == n then f y else y).num == n) = (y.num == n)
    split
    · rw [hf]
    · rfl
  rw [updateWhere, List.find?_map, hp, h, Option.map_some, if_pos (List.find?_some h)]

/-- A chunk that waits is sent again (R341). -/
theorem chunkResend_sends {n : Nat} {x : Chunk} (hx : (s.eng.chunks.find? fun y => y.num == n) = some x) (hw : x.waiting = true) :
    ∃ v, exec (.chunkResend n) s = .next v ∧ v = { s with eng := { s.eng with chunks := v.eng.chunks } } ∧
      v.eng.chunks.find? (fun y => y.num == n) = some { x with waiting := false, rsnd := true } := by
  refine ⟨updChunk s n fun y => if y.waiting then { y with waiting := false, rsnd := true } else y, rfl, rfl, ?_⟩
  exact (find_updateWhere_num hx fun y => by split <;> rfl).trans (congrArg some (if_pos hw))

/-! ### Fills and drains that end (R99) -/

/-- A team that is not there has the number 0, and no slot or tile in use. -/
theorem findTeam_id_or_blank (s : State) (tid : Nat) : (findTeam s tid).id = tid ∨ findTeam s tid = Team.blank := by
  unfold findTeam
  cases h : (allTeams s).find? fun t => t.id == tid with
  | none => exact .inr rfl
  | some t => exact .inl (by simpa using List.find?_some h)

theorem moving_iff {st : TState} : moving st = true ↔ st = .filling ∨ st = .draining := by cases st <;> decide

theorem endMove_overlaps {tid name : Nat} {o : Overlap} (h : o ∈ (endMove s tid name).eng.overlaps) (g : Nat) :
    o.mover ≠ some (g, tid, name) := by
  intro hm
  have := (List.mem_filter.1 h).2
  simp [hm] at this

theorem tileAt_findTeam_updTile {tid n : Nat} {f : Tile → Tile} (ht : (findTeam s tid).id = tid) (h0 : tid ≠ 0)
    (hn : n < (findTeam s tid).tiles.length) : tileAt (findTeam (updTile s tid n f) tid) n = f (tileAt (findTeam s tid) n) :=
  (congrArg (tileAt · n) (findTeam_updTeam (f := fun t => { t with tiles := updateAt t.tiles n f }) (fun _ => rfl) ht h0)).trans
    ((getD_updateAt f Tile.none _ n n).trans (if_pos ⟨rfl, hn⟩))

theorem slot_there {tid idx : Nat} (h : moving (slotAt (findTeam s tid) idx).st = true) :
    (findTeam s tid).id = tid ∧ idx < (findTeam s tid).slots.length := by
  refine ⟨(findTeam_id_or_blank s tid).resolve_right fun hb => ?_, ?_⟩
  · rw [hb] at h
    simp [slotAt, Team.blank, Slot.none, moving] at h
  · by_contra hn
    rw [slotAt, List.getD_eq_default _ _ (Nat.le_of_not_lt hn)] at h
    cases h

theorem tile_there {tid idx : Nat} (h : moving (tileAt (findTeam s tid) idx).st = true) :
    (findTeam s tid).id = tid ∧ idx < (findTeam s tid).tiles.length := by
  refine ⟨(findTeam_id_or_blank s tid).resolve_right fun hb => ?_, ?_⟩
  · rw [hb] at h
    simp [tileAt, Team.blank, Tile.none, moving] at h
  · by_contra hn
    rw [tileAt, List.getD_eq_default _ _ (Nat.le_of_not_lt hn)] at h
    cases h

/-! ### Copies and fills of one chunk (R251) -/

section
variable {e : Engine} {h : TRec} {l : List TileElem} {key w : Nat} {v : State} {got : List (Nat × List Byte)}

theorem walkChunks_one {turn : State → Nat → Nat → Turned} {w' : Nat} (ht : turn s w key = .ok v w') :
    walkChunks c e turn [key] s w [] = .all v w' [key] := by
  simp only [walkChunks, List.contains_nil, Bool.false_eq_true, if_false, ht, List.nil_append]

theorem readTile_length {n : Nat} : ∀ {l : List TileElem} {s v : State} {got : List (Nat × List Byte)},
    (∀ y ∈ l, y.va.isSome = true) → readTile e n l s = .ok (v, got) → got.length = l.length
  | [], _, _, _, _, h => by
    cases h
    rfl
  | y :: l, s, v, got, hl, h => by
    obtain ⟨va, hva⟩ := Option.isSome_iff_exists.1 (hl y List.mem_cons_self)
    unfold readTile at h
    simp only [hva] at h
    split at h
    · cases h
    · split at h
      · cases h
      · next _ rest hrest =>
        cases h
        rw [List.length_cons, List.length_cons, readTile_length (fun z hz => hl z (List.mem_cons_of_mem _ hz)) hrest]

theorem chunkElems_va (l : List TileElem) (key : Nat) : ∀ y ∈ chunkElems l key, y.va.isSome = true := fun y hy => by
  have hv := (List.mem_filter.1 hy).2
  cases hva : y.va with
  | none => simp [hva] at hv
  | some v => rfl

/-- A chunk that is read, without scribes to check, is written to its local places (R251). -/
theorem turnIn_reads {put : State → Nat → List Byte → State} (hr : readTile e h.size (chunkElems l key) s = .ok (v, got))
    (hs : scribesOn v c h = false) : turnIn c e h l put s w key = .ok (got.foldl (fun s y => put s y.1 y.2) v) w := by
  have hlen : got.length ≤ (chunkElems l key).length := (readTile_length (chunkElems_va l key) hr).le
  have hzip : ((chunkElems l key).zip got).map Prod.snd = got := List.map_snd_zip hlen
  simp only [turnIn, hr, hs, Bool.false_eq_true, if_false]
  conv_rhs => rw [← hzip, List.foldl_map]
  rfl

/-- A chunk whose sources are sound, and that may be written, is written element by element (R251). -/
theorem turnOut_writes {src : State → Nat → Option (List Byte)} {bytesOf : TileElem → List Byte}
    (hsrc : ∀ y ∈ (chunkElems l key).filter fun y => y.live, src s y.place = some (bytesOf y))
    (hm : engineMay s e (((chunkElems l key).filter fun y => y.live).map fun y => (y.va.getD 0, h.size)) = none)
    (hs : scribesOn s c h = false) {r : State × Nat}
    (hr : ((chunkElems l key).filter fun y => y.live).foldl (fun (r : State × Nat) y => engineWrite e r.1 r.2 (y.va.getD 0) (bytesOf y))
      (s, w) = r) : turnOut c e h l src s w key = .ok r.1 r.2 := by
  have hnone : (((chunkElems l key).filter fun y => y.live).find? fun y => (src s y.place).isNone) = none :=
    List.find?_eq_none.2 fun y hy => by simp [hsrc y hy]
  have hfold : ((chunkElems l key).filter fun y => y.live).foldl (fun (a : State × Nat) y =>
      engineWrite e a.1 a.2 (y.va.getD 0) ((src s y.place).getD [])) (s, w) = r :=
    (List.foldl_ext _ _ _ fun a y hy => by rw [hsrc y hy, Option.getD_some]).trans hr
  simp only [turnOut, hnone, hm, hs, Bool.false_eq_true, if_false, hfold]

/-- A command whose tile lies in one chunk is done with it in one turn (log 38). -/
theorem moveOut_one {src : State → Nat → Option (List Byte)} {w' : Nat} (hk : chunkKeys l = [key]) (hd : c.done = [])
    (ht : turnOut c e h l src s c.w key = .ok v w') :
    moveOut c e h l src s = saveCmd v c w' [key] (some (plainRes c 0 1 0)) := by
  simp only [moveOut, hk, hd, walkChunks_one ht]
  rfl

theorem moveIn_one {b : Box} {a : Nat} (hk : chunkKeys (readElems h b (lclPlace h b c.flags.pitch a)) = [key]) (hd : c.done = [])
    (hr : readTile e h.size (chunkElems (readElems h b (lclPlace h b c.flags.pitch a)) key) s = .ok (v, got))
    (hs : scribesOn v c h = false) : moveIn c e h b a s =
      saveCmd (putFills h (readElems h b (lclPlace h b c.flags.pitch a)) (fun s place bs => engineLcl s c.tid place bs)
        (got.foldl (fun s y => engineLcl s c.tid y.1 y.2) v)) c c.w [key] (some (plainRes c 0 1 0)) := by
  simp only [moveIn, hk, hd, walkChunks_one (turnIn_reads hr hs)]
  rfl

theorem moveSlot_one {b : Box} {tr : Bool} {n : Nat} (hk : chunkKeys (readElems h b (slotPlace h tr)) = [key]) (hd : c.done = [])
    (hb : h.bs = false) (hr : readTile e h.size (chunkElems (readElems h b (slotPlace h tr)) key)
      (engineSlot s c.tid n fun o => { o with bytes := [] }) = .ok (v, got)) (hs : scribesOn v c h = false) : moveSlot c e h b tr n s =
      saveCmd (engineSlot (putFills h (readElems h b (slotPlace h tr)) (putSlot c.tid n) (got.foldl (fun s y => putSlot c.tid n s y.1 y.2) v))
        c.tid n fun o => { o with st := .ready, poison := false }) c c.w [key] (some (plainRes c 0 1 0)) := by
  have hscales : scalePlaces h b = [] := by rw [scalePlaces, hb]; rfl
  simp only [moveSlot, hk, hd, List.isEmpty_nil, if_true, walkChunks_one (turnIn_reads hr hs), hscales, readScales]
  rfl

end

/-! ### Retrieval commands (R299 to R304) -/

theorem retrievalComplete_runs (h : findCmd s id = some c) (hm : mayRetrieve s c = true) (hs : mayStart s c = true) :
    exec (.retrievalComplete id) s = .next (runRetrieval (startCmd s c) { c with started := true }) := by
  show execRetrievalComplete id s = _
  simp only [execRetrievalComplete, h, hm, hs, Bool.and_self, if_true]

/-- Four words at most all go to L0. -/
theorem settleRegs_short {gid n : Nat} {ws : List Word} (h : ws.length ≤ 4) : settleRegs s gid n ws =
    latchLate (((List.range ws.length).zip ws).foldl (fun s p => settleReg s gid (n + p.1) p.2) s) gid
      (BitVec.ofNat 128 (Sys2Proof.ofWords ws)) := by
  rw [settleRegs, List.take_of_length_le h]

theorem resultWord_plain (code count : Nat) : resultWord code false false count = BitVec.ofNat 32 (code + 65536 * (count % 65536)) := by
  simp [resultWord]

/-- Work that has not stopped ends its command with its code, and without a record where that is below 5 (R299). -/
theorem endRetrieval_plain {x : Work} {code count : Nat} {before : List Word} (hx : x.stop = none) (hc : code < 5) :
    endRetrieval s c x code false false count before = settleRegs (noteW (dropCmd x.s c.id) c.gid x.w) c.gid c.dest
      (before ++ [BitVec.ofNat 32 (code + 65536 * (count % 65536))]) := by
  have h7 : ¬ code = 7 := by omega
  simp only [endRetrieval, hx, Work.endCode, finishRetrieval, hc, h7, resultWord_plain, if_true, false_and, if_false]

/-! #### Statistics (R304) -/

theorem bucketOvf_toNat (b : Nat) : (if bucketOvf b then 1 else 0) = b / 16 % 2 := by
  unfold bucketOvf
  rcases Nat.mod_two_eq_zero_or_one (b / 16) with h | h <;> simp [h]

section
variable {e : Engine} {f : Fam} {x : Work} {t k n1 n2 n3 most bucket : Nat}

/-- The counts of `lshstat` after one more bucket: its place, the ids, the buckets with ids, those with OVF, the largest COUNT. -/
def statCounts (k n1 n2 n3 most bucket : Nat) : List Nat :=
  [k + 1, n1 + bucket % 16, n2 + (if 0 < bucket % 16 then 1 else 0), n3 + bucket / 16 % 2, max most (bucket % 16)]

theorem runStat_turn (hd : [0, 1, 2, 3, 4].map (fun j => c.done.getD j 0) = [k, n1, n2, n3, most])
    (hr : (Work.start s c.w).read e (bucketVa f.new t k) 64 = (x, bucket)) (hx : x.stop = none) : runStat c e f t s =
      if k + 1 < 2 ^ f.new.k then updCmd x.s c.id fun m => { m with done := statCounts k n1 n2 n3 most bucket }
      else endRetrieval s c x 0 false false (max most (bucket % 16))
        (((statCounts k n1 n2 n3 most bucket).drop 1).take 3 |>.map (BitVec.ofNat 32)) := by
  simp only [List.map_cons, List.map_nil, List.cons.injEq, and_true] at hd
  obtain ⟨h0, h1, h2, h3, h4⟩ := hd
  simp only [runStat, h0, h1, h2, h3, h4, hr, hx, bucketOvf_toNat, Option.isNone_none, Option.isSome_none, Bool.true_and,
    Bool.false_eq_true, if_false, decide_eq_true_eq]
  rfl

end

/-! #### One table, no old family (R301) -/

/-- The bucket of a key in the first table. -/
theorem bucketVa_first (f : FRec) (key : Nat) : bucketVa f 0 key = (f.tbase.toNat + 64 * (key % 2 ^ f.k)) % 2 ^ 64 := by
  rw [bucketVa, Nat.zero_mul, Nat.zero_add]

section
variable {e : Engine} {f : Fam} {keys olds : List Word} {row : Nat} {y : Work × Nat}

/-- A command that works on the only table of a family, which is not migrated, ends with the table's code and count (R301). -/
theorem updateTables_one {ins : Bool} {x : Work} {code count : Nat} (hl : f.new.l = 1) (ho : f.old = none) (hd : c.done = [])
    (hu : (if ins then (Work.start s c.w).insert e f.new false 0 (keys.getD 0 0).toNat row
      else (Work.start s c.w).delete e f.new false 0 (keys.getD 0 0).toNat row) = .did x count code) (hx : x.stop = none)
    (hc : code < 3) (hn : count < 16) : updateTables c e f keys olds row ins (List.range f.new.l) s c.w c.done =
      settleRegs (noteW (dropCmd x.s c.id) c.gid x.w) c.gid c.dest [BitVec.ofNat 32 (code + 65536 * count)] := by
  have hres : doneResult [doneEntry 0 code count] = (code, count) := by
    interval_cases code <;> simp [doneResult, doneEntry] <;> omega
  have hold : (Work.start s c.w).useOld e f (olds.getD 0 0).toNat = (Work.start s c.w, none, 0) := by
    simp only [Work.useOld, ho]
  rw [hl, hd]
  simp only [List.range_one, updateTables, List.any_nil, Bool.false_eq_true, if_false, hold, Option.isSome_none, Option.getD_none, hu, hx,
    List.nil_append, hres]
  rw [endRetrieval_plain rfl (by omega), Nat.mod_eq_of_lt (by omega)]
  rfl


/-- What `lshins` writes to a bucket of a family that is not migrated (R301). -/
def bucketInserted (f : FRec) (row b : Nat) : Nat :=
  if (bucketIds b).length < 15 then bucketWith b (bucketIds b ++ [row]) (bucketOvf b) (bucketFrz b)
  else bucketWith b (if f.policy = 1 then (bucketIds b).drop 1 ++ [row] else bucketIds b) true (bucketFrz b)

/-- What `lshdel` writes to a bucket of a family that is not migrated, if it holds the id (R301). -/
def bucketDeleted (row b : Nat) : Option Nat :=
  if ((bucketIds b).filter (· ≠ row)).length = (bucketIds b).length then none
  else some (bucketWith b ((bucketIds b).filter (· ≠ row)) (bucketOvf b) (bucketFrz b))

variable {g : FRec} {x : Work} {t key : Nat}

theorem insert_new (hy : y = x.atomic e (bucketVa g t key) 64 fun b => some (bucketInserted g row b)) (hs : y.1.stop = none)
    (hp : (bucketIds y.2).length < 15 ∨ g.policy ≠ 2) : x.insert e g false t key row =
      if (bucketIds y.2).length < 15 then .did y.1 1 0 else if g.policy = 1 then .did y.1 1 2 else .did y.1 0 1 := by
  have hnew : (fun b : Nat => some (bucketInserted g row b)) = fun b =>
      if (bucketIds b).length < 15 then some (bucketWith b (bucketIds b ++ [row]) (bucketOvf b) (bucketFrz b))
      else some (bucketWith b (if g.policy = 1 then (bucketIds b).drop 1 ++ [row] else bucketIds b) true (bucketFrz b)) :=
    funext fun b => apply_ite some ..
  rw [hnew] at hy
  simp only [Work.insert, Bool.false_and, Bool.false_eq_true, if_false, ← hy, hs, Option.isSome_none]
  rcases hp with hp | hp
  · simp only [hp, if_true]
  · simp only [hp, if_false]

/-- A bucket without OVF, or of a family that keeps no spill entries, has none. -/
theorem noSpills {b : Nat} (h : bucketOvf b = false ∨ g.policy ≠ 2) : (bucketOvf b && g.policy == 2) = false := by
  rcases h with h | h
  · rw [h, Bool.false_and]
  · rw [beq_eq_false_iff_ne.2 h, Bool.and_false]

theorem delete_new (hy : y = x.atomic e (bucketVa g t key) 64 (bucketDeleted row)) (hs : y.1.stop = none)
    (hp : 0 < (bucketIds y.2).length - ((bucketIds y.2).filter (· ≠ row)).length ∨ bucketOvf y.2 = false ∨ g.policy ≠ 2) :
    x.delete e g false t key row = .did y.1 ((bucketIds y.2).length - ((bucketIds y.2).filter (· ≠ row)).length) 0 := by
  have hnew : bucketDeleted row = fun b =>
      if (false || decide (((bucketIds b).filter (· ≠ row)).length = (bucketIds b).length)) = true then none
      else some (bucketWith b ((bucketIds b).filter (· ≠ row)) (bucketOvf b) (bucketFrz b)) := by
    simp only [Bool.false_or, decide_eq_true_eq]
    rfl
  rw [hnew] at hy
  simp only [Work.delete, Bool.false_and, Bool.false_eq_true, if_false, ← hy, hs, Option.isSome_none]
  by_cases hg : 0 < (bucketIds y.2).length - ((bucketIds y.2).filter (· ≠ row)).length
  · rw [if_pos hg]
  · rw [if_neg hg, noSpills (hp.resolve_left hg), Nat.eq_zero_of_not_pos hg]
    rfl

/-- A row id whose visited bit can be read and is clear. -/
def Unvisited (s : State) (c : Cmd) (bm i : Nat) : Prop :=
  lclInRange s c.tid (visitedAt bm i) 1 = true ∧ lclPoisoned s c.tid (visitedAt bm i) 1 = false ∧
    ((lclRead s c.tid (visitedAt bm i) 1).headD 0).getLsbD (i % 8) = false

/-- New ids that fit are all taken into the list of a probe (R300). -/
theorem take_all {bm cap : Nat} : ∀ {l : List Nat} {z : Found}, z.more = false → z.bad = none → (z.ids ++ l).Nodup →
    (z.ids ++ l).length ≤ cap → (∀ i ∈ l, Unvisited s c bm i) → z.take s c bm cap l = { z with ids := z.ids ++ l }
  | [], z, _, _, _, _, _ => by simp [Found.take]
  | i :: l, z, hm, hb, hn, hl, hc => by
    obtain ⟨hin, hpoison, hclear⟩ := hc i List.mem_cons_self
    have hseen : z.ids.contains i = false := by
      simpa using fun h => List.disjoint_of_nodup_append hn h List.mem_cons_self
    have hfull : ¬ z.ids.length = cap := by simp at hl; omega
    have hbit : visited s c bm i = false := by simp only [visited, hin, Bool.true_and]; exact hclear
    have hcons : z.ids ++ i :: l = (z.ids ++ [i]) ++ l := List.append_cons ..
    rw [hcons] at hn hl ⊢
    rw [← take_all (z := { z with ids := z.ids ++ [i] }) hm hb hn hl fun j hj => hc j (List.mem_cons_of_mem _ hj)]
    simp only [Found.take, List.foldl_cons, hm, hb, hseen, hin, hpoison, hbit, hfull, Option.isSome_none, Bool.or_self, Bool.and_false,
      Bool.false_eq_true, if_false]

/-- A probe of the only table of a family, which is not migrated, whose bucket's ids are all new, writes them (R300). -/
theorem runProbe_new {la bm cap : Nat} (hl : f.new.l = 1) (ho : f.old = none) (hd : c.done = [])
    (hy : (Work.start s c.w).read e (bucketVa f.new 0 (keys.getD 0 0).toNat) 64 = y) (hs : y.1.stop = none)
    (hp : bucketOvf y.2 = false ∨ f.new.policy ≠ 2) (hn : (bucketIds y.2).Nodup) (hcap : (bucketIds y.2).length ≤ cap)
    (hc : ∀ i ∈ bucketIds y.2, Unvisited y.1.s c bm i) : runProbe c e f keys olds la bm cap s =
      settleRegs (noteW (dropCmd (engineLcl y.1.s c.tid la ((bucketIds y.2 ++
        List.replicate (cap - (bucketIds y.2).length) 0xFFFFFFFF).flatMap (toBytes 4))) c.id) c.gid y.1.w) c.gid c.dest
        [BitVec.ofNat 32 (65536 * (bucketIds y.2).length)] := by
  have hold : (Work.start s c.w).useOld e f (olds.getD 0 0).toNat = (Work.start s c.w, none, 0) := by
    simp only [Work.useOld, ho]
  have htake : Found.take y.1.s c bm cap { ids := [], more := false, bad := none } (bucketIds y.2) =
      { ids := bucketIds y.2, more := false, bad := none } := take_all rfl rfl hn hcap hc
  have htable : probeTable c e f keys olds bm cap 0 (Work.start s c.w) { ids := [], more := false, bad := none } =
      (y.1, { ids := bucketIds y.2, more := false, bad := none }) := by
    simp only [probeTable, hold, Option.isSome_none, Option.getD_none, Bool.false_eq_true, if_false, hy, hs, htake, noSpills hp,
      Bool.or_self, Bool.not_false, Bool.or_true, if_true]
  have hcount : (bucketIds y.2).length < 65536 := by
    simp only [bucketIds, List.length_map, List.length_range]
    omega
  have hlast : ¬ 0 + 1 < f.new.l := by omega
  have hstart : Found.unpack c.done = (0, { ids := [], more := false, bad := none }) := by rw [hd]; rfl
  simp only [runProbe, hstart, htable, hs, hlast, decide_false, Bool.and_false, Bool.false_eq_true, if_false]
  rw [endRetrieval_plain rfl (by omega), Nat.mod_eq_of_lt hcount, Nat.zero_add]
  rfl

/-! #### Migration (R303) -/

theorem runStep_no_old {n : Nat} (ho : f.old = none) : runStep c e f n s =
    settleRegs (noteW (dropCmd s c.id) c.gid c.w) c.gid c.dest [BitVec.ofNat 32 4] := by
  simp only [runStep, ho]
  exact endRetrieval_plain rfl (by omega)

/-- With CURSOR at its end no key is left to migrate. -/
theorem runStep_at_end {n : Nat} {o : FRec} {v : TRec} (ho : f.old = some o) (hw : (Work.start s c.w).weight e f.new = (x, some v))
    (hx : x.stop = none) (hm : matrixBytes f.new = 0) (hr : x.read e (cursorVa f.new) 4 = y) (hy : y.1.stop = none) (hend : 2 ^ o.k ≤ y.2) :
    runStep c e f n s = settleRegs (noteW (dropCmd y.1.s c.id) c.gid y.1.w) c.gid c.dest [BitVec.ofNat 32 3] := by
  have hkeys : min (y.2 + n) (2 ^ o.k) - y.2 = 0 := by omega
  simp only [runStep, ho, hw, hx, hm, if_true, hr, hkeys, List.range_zero, List.foldl_nil, Nat.add_zero, hend]
  exact endRetrieval_plain hy (by omega)

end

/-! #### Frozen buckets (R302, R399) -/

/-- Where no CURSOR has risen, no watchdog counts anew. -/
theorem noteCursors_none (h : ∀ m ∈ s.eng.cmds, ∀ z, m.frozen = some z → cursorNow s m ≤ z.2) : noteCursors s s = s := by
  unfold noteCursors
  split
  · rfl
  · have hrise : ∀ m ∈ s.eng.cmds, (m.frozen.any fun z => decide (z.2 < cursorNow s m)) = false := fun m hm => by
      cases hf : m.frozen with
      | none => rfl
      | some z => exact decide_eq_false (Nat.not_lt.2 (h m hm z hf))
    have hmap : (s.eng.cmds.map fun m => if (m.frozen.any fun z => decide (z.2 < cursorNow s m)) then
        { m with frozen := some (cursorTick s s m, cursorNow s m) } else m) = s.eng.cmds :=
      (List.map_congr_left fun m hm => if_neg (by simp [hrise m hm])).trans (List.map_id' _)
    rw [hmap]

theorem watchdogFires_of {period since : Nat} (ht : s.gt % 1024 = 0) (hover : tickOver s = true) (hp : since + period ≤ s.gt) :
    watchdogFires s period since = true := by simp [watchdogFires, ht, hover, hp]

theorem fireFrozen_records : ∃ r : Rcd, r.kind = 0x03 ∧ r.code = 8 ∧ r.pc = c.pc ∧ r.lanes = c.lanes ∧ r.split = c.split ∧
    r.addr = BitVec.ofNat 64 (frozenBucket c) ∧ r.extra = BitVec.ofNat 32 ((doneResult c.done).2 % 65536) ∧
    fireFrozen s c = writeRecord (settleRegs (noteW (dropCmd s c.id) c.gid c.w) c.gid c.dest
      [BitVec.ofNat 32 (8 + 65536 * ((doneResult c.done).2 % 65536))]) r := by
  have hcode : ¬ 8 < 5 := by omega
  have hpoison : ¬ 8 = 7 := by omega
  refine ⟨{ cmdRcd (settleRegs (noteW (dropCmd s c.id) c.gid c.w) c.gid c.dest
    [BitVec.ofNat 32 (8 + 65536 * ((doneResult c.done).2 % 65536))]) c (Rcd.blank 0x03) with
      code := 8, addr := BitVec.ofNat 64 (frozenBucket c), extra := BitVec.ofNat 32 ((doneResult c.done).2 % 65536) },
    rfl, rfl, rfl, rfl, rfl, rfl, rfl, ?_⟩
  simp only [fireFrozen, finishRetrieval, resultWord_plain, hcode, hpoison, if_false, false_and]
  rfl

/-- The watchdog of a command that waits on a frozen bucket fires once its period is over (R399). -/
theorem frozenBucketTimeout_fires {since cur : Nat} (h : findCmd s id = some c) (hf : c.frozen = some (since, cur))
    (hg : (gangOfGroup s (findGroup s c.gid)).st = .running) (ht : s.gt % 1024 = 0) (hover : tickOver s = true)
    (hp : since + watchPeriod (findLaunch s (gangOfGroup s (findGroup s c.gid)).launch) ≤ s.gt)
    (hc : ∀ m ∈ s.eng.cmds, ∀ z, m.frozen = some z → cursorNow s m ≤ z.2) :
    exec (.frozenBucketTimeout id) s = .next (fireFrozen s c) := by
  show execFrozenBucketTimeout id s = _
  have hwatch : frozenWatch s c = some (watchPeriod (findLaunch s (gangOfGroup s (findGroup s c.gid)).launch), since) := by
    simp only [frozenWatch, hf, Option.bind_some, hg, beq_self_eq_true, if_true]
  simp only [execFrozenBucketTimeout, noteCursors_none hc, h, hwatch, Option.any_some, watchdogFires_of ht hover hp, if_true]

/-! ### Events of fills and drains -/

theorem fillDrainComplete_slot {tid idx : Nat} (ht : tid ≠ 0) (hi : idx < 32) (hm : moving (slotAt (findTeam s tid) idx).st = true)
    (hc : ∀ m ∈ s.eng.cmds, m.tid = tid → ∀ h box tr, m.kind ≠ .copySlot h box tr idx) :
    ∃ v, exec (.fillDrainComplete tid idx) s = .next v ∧
      slotAt (findTeam v tid) idx = { slotAt (findTeam s tid) idx with st := .ready } ∧
      ∀ o ∈ v.eng.overlaps, ∀ g, o.mover ≠ some (g, tid, idx) := by
  obtain ⟨hteam, hlen⟩ := slot_there hm
  have hengine : (s.eng.cmds.any fun c => c.tid == tid && (match c.kind with | .copySlot _ _ _ n => n == idx | _ => false)) = false := by
    refine List.any_eq_false.2 fun m hmem hfill => ?_
    rw [Bool.and_eq_true, beq_iff_eq] at hfill
    obtain ⟨htid, hkind⟩ := hfill
    split at hkind
    · next h box tr n hk => exact hc m hmem htid h box tr (hk.trans (by rw [beq_iff_eq.1 hkind]))
    · cases hkind
  refine ⟨endMove (updSlot s tid idx fun o => if moving o.st then { o with st := .ready } else o) tid idx, ?_, ?_, fun o => endMove_overlaps⟩
  · show execFillDrainComplete tid idx s = _
    simp only [execFillDrainComplete, hi, if_true]
    exact if_neg (Bool.eq_false_iff.1 hengine)
  · exact ((slotAt_findTeam_updSlot hteam ht).trans (if_pos ⟨rfl, hlen⟩)).trans (if_pos hm)

theorem fillDrainComplete_tile {tid idx : Nat} (ht : tid ≠ 0) (hm : moving (tileAt (findTeam s tid) idx).st = true) :
    ∃ v, exec (.fillDrainComplete tid (32 + idx)) s = .next v ∧
      tileAt (findTeam v tid) idx = { tileAt (findTeam s tid) idx with st := .ready } ∧
      ∀ o ∈ v.eng.overlaps, ∀ g, o.mover ≠ some (g, tid, 32 + idx) := by
  obtain ⟨hteam, hlen⟩ := tile_there hm
  have hidx : ¬ 32 + idx < 32 := by omega
  refine ⟨endMove (updTile s tid idx fun t => if moving t.st then { t with st := .ready } else t) tid (32 + idx), ?_, ?_,
    fun o => endMove_overlaps⟩
  · show execFillDrainComplete tid (32 + idx) s = _
    simp only [execFillDrainComplete, hidx, if_false, Nat.add_sub_cancel_left]
  · exact (tileAt_findTeam_updTile hteam ht hlen).trans (if_pos hm)

/-! ### Collectives that do not begin or go on (R261) -/

theorem collJoinTimeout_refuses {cid : BitVec 16} {co : Coll} (h : (s.eng.colls.find? fun y => y.cid == cid && !y.began) = some co)
    (hj : joinFires s co = true) : exec (.collJoinTimeout cid) s = .next (refuseAll s co) := by
  show execCollJoinTimeout cid s = _
  simp only [execCollJoinTimeout, h, hj, if_true]

theorem collFailureNotice_refuses {cid : BitVec 16} {co : Coll} (h : (s.eng.colls.find? fun y => y.cid == cid && y.stopped) = some co) :
    exec (.collFailureNotice cid) s = .next (refuseAll s co) := by
  show execCollFailureNotice cid s = _
  simp only [execCollFailureNotice, h]

/-! ### Transfers of the copy engine (R250 to R253) -/

section
variable {g : TRec} {b : Box} {a p : Word} {n : Nat} {tr : Bool}

theorem transfer_fillLcl (hk : c.kind = .fillLcl a n p) (hr : spanRole s c a.toNat n = true) : transfer c s =
    saveCmd (engineLcl s c.tid a.toNat ((List.range (n / 4)).flatMap fun _ => toBytes 4 p.toNat)) c c.w [] (some (plainRes c 0 0 0)) := by
  simp only [transfer, hk, copyTransfer, hr, if_true]

theorem transfer_copyIn (hk : c.kind = .copyIn g b a) (hr : spanRole s c a.toNat (tileSpan g b c.flags.pitch) = true) :
    transfer c s = moveIn c (c.engine s true) g b a.toNat s := by
  simp only [transfer, hk, copyTransfer, hr, if_true]

theorem transfer_copySlot (hk : c.kind = .copySlot g b tr n) : transfer c s = moveSlot c (c.engine s true) g b tr n s := by
  simp only [transfer, hk, copyTransfer]

theorem transfer_copyOut (hk : c.kind = .copyOut g b a) (hr : spanRole s c a.toNat (tileSpan g b c.flags.pitch) = true) :
    transfer c s = moveOut c (c.engine s true) g (writeElems g b (lclPlace g b c.flags.pitch a.toNat)) (cleanLcl c g.size) s := by
  simp only [transfer, hk, copyTransfer, hr, if_true]

theorem transfer_fillT (hk : c.kind = .fillT g b p) : transfer c s =
    moveOut c (c.engine s true) g (writeElems g b fun _ _ => 0) (fun _ _ => some (toBytes g.size p.toNat)) s := by
  simp only [transfer, hk, copyTransfer]

end

section
variable {f : Fam} {keys olds : List Word} {row la bm : Word} {cap n k : Nat}

theorem runRetrieval_stat (hk : c.kind = .stat f k) : runRetrieval s c = runStat c (c.engine s false) f k s := by
  simp only [runRetrieval, hk]

theorem runRetrieval_insert (hk : c.kind = .insert f keys olds row) : runRetrieval s c =
    updateTables c (c.engine s false) f keys olds row.toNat true (List.range f.new.l) s c.w c.done := by
  simp only [runRetrieval, hk]

theorem runRetrieval_delete (hk : c.kind = .delete f keys olds row) : runRetrieval s c =
    updateTables c (c.engine s false) f keys olds row.toNat false (List.range f.new.l) s c.w c.done := by
  simp only [runRetrieval, hk]

theorem runRetrieval_probe (hk : c.kind = .probe f keys olds la bm cap) : runRetrieval s c =
    runProbe c (c.engine s false) f keys olds la.toNat bm.toNat cap s := by
  simp only [runRetrieval, hk]

theorem runRetrieval_migrate (hk : c.kind = .migrate f n) : runRetrieval s c = runStep c (c.engine s false) f n s := by
  simp only [runRetrieval, hk]

end

/-- Settles O56: each turn, once its command is known, is what the lemmas above say of that command. -/
theorem enginesComplete : Obligations.EnginesComplete := by
  unfold Obligations.EnginesComplete
  intro s x id k n1 n2 n3 most t bucket since cur n tid idx c r f a p bytes keys olds row co ch h h' hops u gone e count place put ga refused
    moves
  have hput : ∀ v ws, ws.length ≤ 4 → settleRegs v c.gid c.dest ws = put v ws := fun v ws hw => settleRegs_short hw
  have hrefused : refused (refuseAll s co) := fun y hy m m' hm hm' => refuseAll_stops hy hm hm'
  refine ⟨fun hc hr hk ha hm hs => ?fillLcl, fun hc hk hr h0 hrel hb => ?finishes, fun hc hk hm hs hd hr hx => ?stat,
    fun hc hk hf hg ht hover hp hcur => ?frozen, fun cid hco hj => ⟨_, collJoinTimeout_refuses hco hj, hrefused⟩,
    fun cid hco => ⟨_, collFailureNotice_refuses hco, hrefused⟩, chunkArrival_goesOn, chunkResend_sends,
    fun h0 hi hm hc => fillDrainComplete_slot h0 hi (moving_iff.2 hm) hc, fun h0 hm => fillDrainComplete_tile h0 (moving_iff.2 hm),
    fun hc ha hr hd hm g b tr key v got => ?copies, fun hc hm hs y la bm cap o g => ?retrieval⟩
  case fillLcl =>
    exact (engineComplete_transfers hc (by rw [hk]; rfl) hr ha hm).trans (congrArg _ (transfer_fillLcl hk hs))
  case finishes =>
    exact ⟨(engineComplete_finishes hc hk hr hrel).trans (congrArg _ ((finishCmd_plain h0 hb).trans (hput _ _ (by simp)))),
      fun y => dropCmd_gone⟩
  case stat =>
    have hturn := (retrievalComplete_runs hc hm hs).trans (congrArg _
      ((runRetrieval_stat (c := { c with started := true }) hk).trans (runStat_turn hd hr hx)))
    intro now
    refine ⟨fun hlt => hturn.trans (congrArg _ (if_pos hlt)), fun hle => hturn.trans (congrArg _ ((if_neg (Nat.not_lt.2 hle)).trans ?_))⟩
    refine (endRetrieval_plain hx (by omega)).trans ((hput _ _ (by simp [statCounts])).trans ?_)
    rw [Nat.zero_add]
    rfl
  case frozen =>
    obtain ⟨r, hkind, hcode, hpc, hlanes, hsplit, haddr, hextra, hfire⟩ := fireFrozen_records (s := s) (c := c)
    exact ⟨r, hkind, hcode, hpc, hlanes, hsplit, haddr, hextra, (frozenBucketTimeout_fires hc hf hg ht hover hp hcur).trans
      (congrArg _ (hfire.trans (by rw [hput _ _ (by simp)])))⟩
  case copies =>
    intro near ends span into out lclElems
    have hgo := fun hk => engineComplete_transfers hc hk hr ha hm
    refine ⟨fun hk hsp hkeys hread hscr => ?_, fun hk hbs hkeys hread hscr => ?_, fun hk hsp hclean hscr hkeys hmay => ?_,
      fun hk hscr hkeys hmay => ?_⟩
    · exact (hgo (by rw [hk]; rfl)).trans (congrArg _ ((transfer_copyIn hk hsp).trans (moveIn_one hkeys hd hread hscr)))
    · exact (hgo (by rw [hk]; rfl)).trans (congrArg _ ((transfer_copySlot hk).trans (moveSlot_one hkeys hd hbs hread hscr)))
    · have hsrc : ∀ y ∈ (chunkElems (writeElems g b lclElems) key).filter fun y => y.live,
          cleanLcl c g.size u y.place = some (lclRead u c.tid y.place g.size) := fun y hy =>
        if_neg (by rw [hclean y (List.mem_filter.1 hy).1]; decide)
      exact (hgo (by rw [hk]; rfl)).trans (congrArg _ ((transfer_copyOut hk hsp).trans
        (moveOut_one hkeys hd (turnOut_writes hsrc hmay hscr rfl))))
    · exact (hgo (by rw [hk]; rfl)).trans (congrArg _ ((transfer_fillT hk).trans
        (moveOut_one hkeys hd (turnOut_writes (fun _ _ => rfl) hmay hscr rfl))))
  case retrieval =>
    intro key here ids overflowed bucketOf ends work single
    have hgo := retrievalComplete_runs hc hm hs
    have hfirst : bucketVa f.new 0 (keys.getD 0 0).toNat = here := bucketVa_first ..
    refine ⟨fun hsingle hk hy hstop => ?insert, fun hsingle hk hy hstop => ?delete,
      fun hsingle hk hy hstop hp hn hcap hbits => ?probe, fun hk ho => ?_, fun hk ho hw hx hmat hr hy hend => ?_⟩
    case insert =>
      obtain ⟨hl, ho, hd⟩ := hsingle
      have hnew := insert_new (e := e) (g := f.new) (t := 0) (key := (keys.getD 0 0).toNat) (row := row.toNat) (x := work)
        (by rw [hfirst]; exact hy) hstop
      have hends : ∀ {code n : Nat}, code < 3 → n < 16 →
          work.insert e f.new false 0 (keys.getD 0 0).toNat row.toNat = .did y.1 n code → ends y.1.s y.1.w (code + 65536 * n) :=
        fun hcode hn hdid => hgo.trans (congrArg _ ((runRetrieval_insert (c := { c with started := true }) hk).trans
          ((updateTables_one (c := { c with started := true }) hl ho hd ((if_pos rfl).trans hdid) hstop hcode hn).trans (hput _ _ (by simp)))))
      refine ⟨fun hroom => ?_, fun hfull hpol => ?_, fun hfull hne hspill => ?_⟩
      · exact hends (code := 0) (n := 1) (by omega) (by omega) ((hnew (.inl hroom)).trans (if_pos hroom))
      · have hne : f.new.policy ≠ 2 := by rw [hpol]; decide
        exact hends (code := 2) (n := 1) (by omega) (by omega)
          ((hnew (.inr hne)).trans ((if_neg (Nat.not_lt.2 hfull)).trans (if_pos hpol)))
      · exact hends (code := 1) (n := 0) (by omega) (by omega)
          ((hnew (.inr hspill)).trans ((if_neg (Nat.not_lt.2 hfull)).trans (if_neg hne)))
    case delete =>
      intro removed hp
      obtain ⟨hl, ho, hd⟩ := hsingle
      have hdid := delete_new (e := e) (g := f.new) (t := 0) (key := (keys.getD 0 0).toNat) (row := row.toNat) (x := work)
        (by rw [hfirst]; exact hy) hstop hp
      have hcount : removed < 16 := by
        have hlen : (ids y.2).length = y.2 % 16 := by simp [ids]
        omega
      refine hgo.trans (congrArg _ ((runRetrieval_delete (c := { c with started := true }) hk).trans
        ((updateTables_one (c := { c with started := true }) hl ho hd ((if_neg (by decide)).trans hdid) hstop (by omega)
          hcount).trans ((hput _ _ (by simp)).trans ?_))))
      rw [Nat.zero_add]
      rfl
    case probe =>
      obtain ⟨hl, ho, hd⟩ := hsingle
      have hread : work.read e (bucketVa f.new 0 (keys.getD 0 0).toNat) 64 = y := by rw [hfirst]; exact hy.symm
      have hrun := runProbe_new (c := { c with started := true }) (y := y) (e := e) (olds := olds) (la := la.toNat) hl ho hd hread hstop hp hn
        hcap hbits
      rw [hput _ _ (by simp)] at hrun
      exact hgo.trans (congrArg _ ((runRetrieval_probe (c := { c with started := true }) hk).trans hrun))
    · exact hgo.trans (congrArg _ ((runRetrieval_migrate (c := { c with started := true }) hk).trans
        ((runStep_no_old ho).trans (hput _ _ (by simp)))))
    · have hcursor : x.read e (cursorVa f.new) 4 = y := hr
      have hrun := runStep_at_end (c := { c with started := true }) (n := n) ho hw hx hmat hcursor hy hend
      rw [hput _ _ (by simp)] at hrun
      exact hgo.trans (congrArg _ ((runRetrieval_migrate (c := { c with started := true }) hk).trans hrun))

end Sys2Proof.Machine
end

section

/-! ## The block store and the events of the memory system (O55) -/

namespace Sys2Proof.Machine
open Sys2Proof

/-! ### The side log's replay leaves the unified ranges -/

namespace BlindToWrites
variable {α : Type} {f : State → α} (hf : BlindToWrites f)
include hf

theorem l1Fit (s : State) (core : Nat) : f (l1Fit s core) = f s := by
  unfold Machine.l1Fit
  refine ite_same rfl ?_
  split
  · exact hf.mem s _
  · exact foldl_same (fun v _ => hf.mergeLine v _) _ _

theorem reduceInto (s : State) (core gid : Nat) (asid : BitVec 16) (line off op : Nat) (t : Ty) (v : Nat) :
    f (reduceInto s core gid asid line off op t v) = f s := by
  unfold Machine.reduceInto
  refine (hf.l1Fit ..).trans ((hf.mem _ _).trans ?_)
  split
  · exact ite_same rfl (hf.mergeLine ..)
  · rfl

theorem pinBoth (s : State) (keep : Bool) (core : Nat) (p : Quad) (va : Nat) (bs : List Byte) (flight : Nat) (till : Option Nat) :
    f (pinBoth s keep core p va bs flight till) = f s := ite_same rfl (hf.mem s _)

theorem notePost (s : State) (gid : Nat) (dest : Option Nat) : f (notePost s gid dest) = f s :=
  ite_same ((hf.tokens (Machine.updGroup ..) _).trans (hf.updGroup ..)) (hf.updGroup ..)

theorem sendStore (s : State) (gid core : Nat) (asid : BitVec 16) (page : Option Quad) (va : Nat) (bs : List Byte)
    (red : Option (BitVec 3 × Ty)) (poison keep : Bool) : f (sendStore s gid core asid page va bs red poison keep) = f s := by
  cases page with
  | none => exact (hf.markUnroll ..).trans ((hf.notePost ..).trans (hf.mem s _))
  | some p => exact (hf.pinBoth ..).trans (hf.mem s _)

theorem replayEntry (s : State) (e : SideEntry) : f (replayEntry s e) = f s := by
  refine foldl_same (fun u el => ?_) _ _
  dsimp only
  generalize hx : seeAddr u { asid := e.asid, core := e.core, super := e.super, mkind := mkContext } el.1 true = x
  cases x with
  | page p =>
    cases e.red with
    | none => exact (hf.pinBoth ..).trans ((hf.noteW ..).trans (ite_same ((hf.mem (Machine.launchWrite ..).1 _).trans (hf.launchWrite ..))
        (hf.launchWrite ..)))
    | some r => exact (hf.recallLine ..).trans (hf.reduceInto ..)
  | far => exact hf.sendStore ..
  | bad c =>
    obtain rfl | rfl | rfl | rfl := seeAddr_bad c hx
    · exact hf.updGroup ..
    · exact hf.updGroup ..
    · refine (hf.updGroup ..).trans ?_
      split
      · exact hf.toBlindToRecords.logViolation ..
      · rfl
    · exact hf.updGroup ..
  | miss => exact hf.updGroup ..

theorem replayPage (s : State) (asid : BitVec 16) (page : Nat) : f (replayPage s asid page) = f s := by
  refine (foldl_fst_same (fun a e => ?_) _ _).trans (hf.mem s _)
  have hkeeps := fun {c : Prop} [Decidable c] {r t : State × List Nat} => ite_keeps (p := fun r : State × List Nat => f r.1 = f a.1) (c := c)
    (a := r) (b := t)
  exact hkeeps (hf.updGroup ..) (hkeeps (hf.replayEntry ..) (hf.replayEntry ..))

theorem answerRange (s : State) (r : URange) : f (answerRange s r) = f s :=
  (hf.mem (List.foldl _ s _) _).trans (foldl_same (fun u _ => hf.replayPage u ..) _ _)

end BlindToWrites

/-! ### Requests of the block store (R262) -/

section
variable {s u : State} {x : Args} {i : Instr} {op : Nat} {two : Bool}

theorem kvBody_idle (he : exec i s = run i.shape (kvBody i.shape op x two) s) (hr : Ready i s) (h0 : s.exec = 0) :
    exec i s = .next (passes i s s) := exec_done he hr (if_pos h0)

/-- After its .dev release the request stands, and the group is held until the reply. -/
theorem kvBody_sends (he : exec i s = run i.shape (kvBody i.shape op x two) s) (hr : Ready i s) (h0 : s.exec ≠ 0)
    (hnew : ∀ p, s.sp.request = some p → p.pc ≠ s.sp.pc) (hu : release s 3 = .done u) :
    exec i s = .next (park .reply { u with sp := { u.sp with
      request := some { pc := u.sp.pc, next := nextPc i.shape u, op := op, dest := x.d.toNat
                        words := tripleOf u x.a ++ (if two then tripleOf u x.b else []) } } }) := by
  have hsent : ¬ (s.sp.request.any fun q => q.pc == s.sp.pc) = true := by
    intro hany
    obtain ⟨q, hq, hpc⟩ := (Option.any_eq_true _ _).1 hany
    exact hnew q hq (beq_iff_eq.1 hpc)
  refine exec_wait he hr ?_
  simp only [kvBody, if_neg h0, if_neg hsent, withRelease_done hu]

end

/-! ### The controller's answers (R105, R106, R263) -/

section
variable {s : State} {asid : BitVec 16} {n m : List Word} {e : KvName} {b : KvBlock}

theorem badLayer_iff : badLayer n = true ↔ ¬ (n.getD 1 0).toNat < 65536 := by simp [badLayer]

theorem badLayer_false (h : (n.getD 1 0).toNat < 65536) : badLayer n = false := by simpa [badLayer] using h

theorem kvCreate_badLayer (h : badLayer n = true) : kvCreate s asid n = .status 5 s := if_pos h

theorem kvLookup_badLayer (h : badLayer n = true) : kvLookup s asid n = .status 5 s := if_pos h

theorem kvSecond_badLayer (h : badLayer n = true ∨ badLayer m = true) : kvSecond s asid n m = .status 5 s :=
  if_pos ((Bool.or_eq_true ..).mpr h)

theorem kvRemove_badLayer (h : badLayer n = true) : kvRemove s asid n = .status 5 s := if_pos h

section
variable (hn : badLayer n = false)
include hn

theorem kvCreate_exists (h : findName s asid n = some e) : kvCreate s asid n = .status 2 s := by
  simp only [kvCreate, hn, h, Option.isSome_some, Bool.false_eq_true, if_false, if_true]

theorem kvCreate_full (h : findName s asid n = none) (hp : poolOf s asid ≤ blocksOf s asid) : kvCreate s asid n = .status 1 s := by
  simp only [kvCreate, hn, h, hp, Option.isSome_none, Bool.false_eq_true, if_false, if_true]

theorem kvLookup_missing (h : findName s asid n = none) : kvLookup s asid n = .status 3 s := by
  simp only [kvLookup, hn, h, Bool.false_eq_true, if_false]

theorem kvRemove_missing (h : findName s asid n = none) : kvRemove s asid n = .status 3 s := by
  simp only [kvRemove, hn, h, Bool.false_eq_true, if_false]

theorem kvRemove_idle (h : findName s asid n = some e) (hi : blockIdle s e.block = true) :
    kvRemove s asid n = .status 0 (removeName s e) := by
  simp only [kvRemove, hn, h, hi, Bool.false_eq_true, if_false, if_true]

theorem kvLookup_there (h : findName s asid n = some e) (hb : findBlock s e.block = some b) :
    kvLookup s asid n = if b.evicted = true then .status 4 s else .found e.va := by
  simp only [kvLookup, hn, h, hb, Option.all_some, Bool.false_eq_true, if_false]

variable (hm : badLayer m = false)
include hm

theorem kvSecond_missing (h : findName s asid n = none) : kvSecond s asid n m = .status 3 s := by
  simp only [kvSecond, hn, hm, h, Bool.or_self, Bool.false_eq_true, if_false]

/-- A second name on a block that is there: the order of the tests is log 91. -/
theorem kvSecond_there (h : findName s asid n = some e) (hb : findBlock s e.block = some b) : kvSecond s asid n m =
    if b.evicted = true then .status 4 s
    else if (findName s asid m).isSome = true then .status 2 s
    else if blockIdle s e.block = true then
      .status 0 (remapBlock (addName (drawFresh s).1 asid m e.block (newKvVa s asid (some e.va))) e.block)
    else .later := by
  simp only [kvSecond, hn, hm, h, hb, Option.all_some, Bool.or_self, Bool.false_eq_true, if_false]
  cases blockIdle s e.block <;> rfl

end

/-- A name with its words. -/
def nameFor (asid : BitVec 16) (n : List Word) (block : Nat) (va : DWord) : KvName :=
  { asid := asid, seq := n.getD 0 0, layer := n.getD 1 0, blk := n.getD 2 0, block := block, va := va }

theorem findName_addName {block : Nat} {va : DWord} (hl : n.length = 3) (h : findName s asid n = none) :
    findName (addName s asid n block va) asid n = some (nameFor asid n block va) := by
  obtain ⟨x, y, z, rfl⟩ := List.length_eq_three.1 hl
  rw [findName] at h
  show (s.kv.names ++ [nameFor asid [x, y, z] block va]).find? _ = _
  rw [List.find?_append, h, Option.none_or, List.find?_singleton, if_pos]
  simp [nameFor]

/-- A context's new block in a frame, with its name. -/
def withBlock (s : State) (asid : BitVec 16) (n : List Word) (pfn : Nat) : State :=
  addName { s with
    fresh := s.fresh + 1
    sched := { s.sched with nextId := s.sched.nextId + 1 }
    kv := { s.kv with
      blocks := s.kv.blocks ++ [{ id := s.sched.nextId, asid := asid, pfn := BitVec.ofNat 24 pfn, evicted := false }] } }
    asid n s.sched.nextId (newKvVa s asid none)

theorem kvCreate_new {pfn : Nat} (hn : badLayer n = false) (hl : n.length = 3) (h : findName s asid n = none)
    (hp : blocksOf s asid < poolOf s asid) (hf : findFrames s (newKvVa s asid none).toNat 2 = some pfn) : kvCreate s asid n =
      let made := nameFor asid n s.sched.nextId (newKvVa s asid none)
      let t := withBlock s asid n pfn
      .status 0 (installPage (zeroPage t (namePte t made)) (namePte t made)) := by
  have hmade : findName (withBlock s asid n pfn) asid n = some (nameFor asid n s.sched.nextId (newKvVa s asid none)) :=
    findName_addName hl h
  simp only [kvCreate, hn, h, Nat.not_le.2 hp, hf, Option.isSome_none, Bool.false_eq_true, if_false]
  show (match findName (withBlock s asid n pfn) asid n with
    | some x => KvAnswer.status 0 (installPage (zeroPage _ (namePte _ x)) (namePte _ x))
    | none => _) = _
  rw [hmade]
  rfl

end

/-! ### The reply (R262, R263) -/

section
variable {s t : State} {q : Request} {gid n : Nat}

theorem kvReply_writes (ht : focus s { gid := gid, sp := n } = t) (hq : t.sp.request = some q) (hlo : 0xA8 ≤ q.op) (hhi : q.op ≤ 0xAB)
    (hm : mayIssue t = true) (hc : chainOpen t gid = false) (hb : t.dev.clamped.contains (bayOf t.tm.core) = false) :
    exec (.kvReply gid n) s = .next (kvWrite q (kvAct t q) t) := by
  have hkv : isKv q = true := decide_eq_true ⟨hlo, hhi⟩
  show execKvReply gid n s = _
  simp only [execKvReply, ht, hq, hkv, hm, hc, hb, Bool.not_false, Bool.and_self, if_true]

theorem firstTriple_eq {l : List DWord} (h : 3 ≤ l.length) :
    (l.take 3).map (·.setWidth 32) = ([(l.getD 0 0).setWidth 32, (l.getD 1 0).setWidth 32, (l.getD 2 0).setWidth 32] : List Word) :=
  match l, h with
  | _ :: _ :: _ :: _, _ => rfl

theorem secondTriple_eq {l : List DWord} (h : l.length = 6) :
    (l.drop 3).map (·.setWidth 32) = ([(l.getD 3 0).setWidth 32, (l.getD 4 0).setWidth 32, (l.getD 5 0).setWidth 32] : List Word) :=
  match l, h with
  | [_, _, _, _, _, _], _ => rfl

theorem kvAct_alloc (h : q.op = 0xA8) : kvAct t q = kvCreate t t.asid (requestNames q).1 := by simp [kvAct, h]

theorem kvAct_get (h : q.op = 0xA9) : kvAct t q = kvLookup t t.asid (requestNames q).1 := by simp [kvAct, h]

theorem kvAct_share (h : q.op = 0xAA) : kvAct t q = kvSecond t t.asid (requestNames q).1 (requestNames q).2 := by simp [kvAct, h]

theorem kvAct_free (h : q.op = 0xAB) : kvAct t q = kvRemove t t.asid (requestNames q).1 := by simp [kvAct, h]

end

/-! ### A write to a shared block (R106) -/

section
variable {s : State} {asid : BitVec 16} {va : DWord} {e : KvName}

variable (hn : nameAt s asid va.toNat = some e) (hs : (translate s.mem asid e.va.toNat).any pteShared = true)
  (hw : writeWanted s e = true) (hi : blockIdle s e.block = true)
include hn hs hw hi

theorem blockCopyOnWrite_copies {pfn : Nat} (hp : blocksOf s asid < poolOf s asid) (hf : findFrames s e.va.toNat 2 = some pfn) :
    exec (.blockCopyOnWrite asid va) s = .next (copyBlock s e pfn) := by
  show execBlockCopyOnWrite asid va s = _
  simp only [execBlockCopyOnWrite, hn, hs, hw, hi, hp, hf, Bool.not_true, Bool.or_self, Bool.false_eq_true, if_false, if_true]

theorem blockCopyOnWrite_discards (hp : poolOf s asid ≤ blocksOf s asid) : exec (.blockCopyOnWrite asid va) s =
    .next ((List.range 16).foldl (fun s k => declinePage s asid (pageOf e.va.toNat + k) true) s) := by
  show execBlockCopyOnWrite asid va s = _
  simp only [execBlockCopyOnWrite, hn, hs, hw, hi, Nat.not_lt.2 hp, Bool.not_true, Bool.or_self, Bool.false_eq_true, if_false]

end

/-! ### Lines (R16, R86, R110, R112) -/

section
variable {s : State} {core : Nat} {asid : BitVec 16} {va : DWord} {p : Quad} {g : Group}

section
variable (hc : core < 256) (hn : heldILine s core asid va.toNat = none)
  (hp : seeFetch s { asid := asid, core := core, super := true, mkind := mkContext } va.toNat = .page p)
include hc hn hp

theorem fetchLine_alone (hg : groupOn s core asid = none) : exec (.fetchLine core asid va) s =
    .next (fillILine (fillPac s { asid := asid, core := core, super := true, mkind := mkContext } va.toNat) core p (va.toNat / 64 * 64)) := by
  show execFetchLine core asid va s = _
  simp only [execFetchLine, hc, hn, hp, hg, Option.isNone_none, and_self, if_true]

/-- For a group of the context the line's granule is touched by its launch (log 196). -/
theorem fetchLine_forGroup (hg : groupOn s core asid = some g) : exec (.fetchLine core asid va) s =
    .next (fillILine (fillPac (touchGranule s (launchOfGroup s g).id (pteAsid p) (granuleOf va.toNat))
      { asid := asid, core := core, super := true, mkind := mkContext } va.toNat) core p (va.toNat / 64 * 64)) := by
  show execFetchLine core asid va s = _
  simp only [execFetchLine, readForCode, hc, hn, hp, hg, Option.isNone_none, and_self, if_true]

end

theorem homeRead_serves (hg : groupOn s core asid = some g)
    (hp : seeAddr s { asid := asid, core := core, super := true, mkind := mkContext } va.toNat false = .page p)
    (hc : cacheable p = true) (hh : holdersOf s.mem (pteAsid p) (lineOf va.toNat) = []) :
    exec (.homeRead core asid va) s = .next (homeServe s (launchOfGroup s g).id core p (lineOf va.toNat) true).1 := by
  show execHomeRead core asid va s = _
  simp only [execHomeRead, hg, hp, hc, hh, List.isEmpty_nil, Bool.and_self, if_true]

theorem pacFill_fills (hc : core < 256) (hv : canonical va.toNat = true) :
    exec (.pacFill core asid va) s = .next (fillPac s { asid := asid, core := core, super := false, mkind := mkContext } va.toNat) := by
  show execPacFill core asid va s = _
  simp only [execPacFill, hc, hv, decide_true, Bool.and_self, if_true]

/-- What names a line of a unit. -/
def AtLine (unit : Nat) (asid : BitVec 16) (line : Nat) (y : CLine) : Prop := y.unit = unit ∧ y.asid = asid ∧ y.line = line

theorem atLine_iff {unit line : Nat} {y : CLine} : (y.unit == unit && y.asid == asid && y.line == line) = true ↔ AtLine unit asid line y := by
  simp [AtLine, and_assoc]

/-- Pins whose W has passed are gone from the sector of the lines that are unpinned (R112). -/
theorem unpin_updateWhere {l : List CLine} {gt unit line sector : Nat} {y : CLine}
    (hy : y ∈ updateWhere (fun c => c.unit == unit && c.asid == asid && c.line == line) (unpin gt sector) l) (ha : AtLine unit asid line y)
    {z : Pin} (hz : z ∈ y.pins) (hsec : z.sector = sector) {k : Nat} (hk : z.till = some k) : gt < k := by
  obtain ⟨x, -, rfl⟩ := List.mem_map.1 hy
  split at ha
  · next hx =>
    rw [if_pos hx] at hz
    have hstays := (List.mem_filter.1 hz).2
    simpa [hsec, hk] using hstays
  · next hx => exact absurd (atLine_iff.2 ha) hx

theorem sectorUnpin_unpins : ∃ t, exec (.sectorUnpin core asid va) s = .next t ∧
    t = { s with mem := { s.mem with l1 := t.mem.l1, cc := t.mem.cc } } ∧
    (∀ y ∈ t.mem.l1, AtLine core asid (lineOf va.toNat) y → ∀ z ∈ y.pins, z.sector = va.toNat % 128 / 32 → ∀ k,
      z.till = some k → s.gt < k) ∧
    ∀ y ∈ t.mem.cc, AtLine (clusterOf core) asid (lineOf va.toNat) y → ∀ z ∈ y.pins, z.sector = va.toNat % 128 / 32 → ∀ k,
      z.till = some k → s.gt < k :=
  ⟨_, rfl, rfl, fun _ hy ha _ hz hs _ hk => unpin_updateWhere hy ha hz hs hk, fun _ hy ha _ hz hs _ hk => unpin_updateWhere hy ha hz hs hk⟩

/-- The lines that an eviction leaves: the others, and those that are pinned (R86). -/
theorem mem_stay {l : List CLine} {gt unit line : Nat} {y : CLine} :
    y ∈ l.filter (fun c => !(c.unit == unit && c.asid == asid && c.line == line) || anyPinned c gt) ↔
      y ∈ l ∧ (AtLine unit asid line y → anyPinned y gt = true) := by
  rw [List.mem_filter, Bool.or_eq_true, Bool.not_eq_true', Bool.eq_false_iff, ne_eq, atLine_iff, imp_iff_not_or]

theorem blindToWrites_gt : BlindToWrites State.gt :=
  ⟨⟨fun _ _ => rfl, fun _ _ => rfl⟩, fun _ _ => rfl, fun _ _ => rfl, fun _ _ => rfl, fun _ _ => rfl, fun _ _ => rfl⟩

theorem lineEviction_l1 : ∃ t, exec (.lineEviction .l1 core asid va) s = .next t ∧
    ∀ y ∈ t.mem.l1, AtLine core asid (lineOf va.toNat) y → anyPinned y t.gt = true := by
  refine ⟨_, rfl, fun y hy ha => ?_⟩
  have hgt := blindToWrites_gt.mergeCore s fun u => u.core == core && u.asid == asid && u.line == lineOf va.toNat
  exact (congrArg (anyPinned y) hgt).trans ((mem_stay.1 hy).2 ha)

theorem lineEviction_cluster : ∃ t, exec (.lineEviction .cluster core asid va) s = .next t ∧
    t = { s with mem := { s.mem with cc := t.mem.cc } } ∧
    ∀ y, y ∈ t.mem.cc ↔ y ∈ s.mem.cc ∧ (AtLine core asid (lineOf va.toNat) y → anyPinned y s.gt = true) :=
  ⟨_, rfl, rfl, fun _ => mem_stay⟩

theorem lineEviction_code : ∃ t, exec (.lineEviction .code core asid va) s = .next t ∧
    t = { s with mem := { s.mem with icache := t.mem.icache } } ∧
    ∀ y, y ∈ t.mem.icache ↔ y ∈ s.mem.icache ∧ ¬ (y.core = core ∧ y.asid = asid ∧ y.line = va.toNat % 2 ^ 57 / 64) := by
  refine ⟨_, rfl, rfl, fun y => List.mem_filter.trans (and_congr_right fun _ => ?_)⟩
  rw [Bool.not_eq_true', Bool.eq_false_iff]
  exact not_congr (by simp [and_assoc])

end

/-! ### Mappings (R82, R87, R90, R91) -/

section
variable {s : State} {asid : BitVec 16} {va : DWord} {p q : Quad}

theorem logMalformed_ok (h : pteOk p = true) : logMalformed s p = s := if_neg (by simp [h])

theorem pteOk_of_mayMap {l : List Quad} (h : mayMap s l p = true) : pteOk p = true := by
  simp only [mayMap, Bool.and_eq_true] at h
  exact h.1.1.1.1.1.1

theorem mapPage_installs (hm : mayMap s (allPtes s) p = true) (hb : pageBusy s p = false) (hr : tableRoom s.mem p = true) :
    mapPage s p = installPage (invalidatePage s p) p := if_pos (by simp [hm, hb, hr])

section
variable (hw : (∃ a ∈ s.mem.asks, a.asid = asid ∧ a.page = pageOf va.toNat) ∨ ∃ e ∈ s.mem.side, e.asid = asid ∧ e.page = pageOf va.toNat)
include hw

theorem pageWanted : (s.mem.asks.any (fun a => a.asid == asid && a.page == pageOf va.toNat) ||
    s.mem.side.any fun e => e.asid == asid && e.page == pageOf va.toNat) = true := by simpa using hw

variable (hon : s.dev.power = .on)
include hon

theorem pageMapReply_maps (hu : translate s.mem asid va.toNat = none) (hin : pageIn p (pageOf va.toNat) = true) (hfor : pageFor p asid = true)
    (hm : mayMap s (allPtes s) p = true) (hb : pageBusy s p = false) (hr : tableRoom s.mem p = true) :
    exec (.pageMapReply asid va (some p)) s = .next (installPage (invalidatePage s p) p) := by
  show execPageMapReply asid va (some p) s = _
  simp only [execPageMapReply, hon, pageWanted hw, hu, hin, hfor, logMalformed_ok (pteOk_of_mayMap hm), mapPage_installs hm hb hr,
    bne_self_eq_false, Bool.not_true, Option.isSome_none, Bool.or_self, Bool.and_self, Bool.false_eq_true, if_false, if_true]

theorem pageMapReply_declines (hu : translate s.mem asid va.toNat = none) : exec (.pageMapReply asid va none) s =
    .next (declinePage s asid (pageOf va.toNat) (freedPage s asid (pageOf va.toNat))) := by
  show execPageMapReply asid va none s = _
  simp only [execPageMapReply, hon, pageWanted hw, hu, bne_self_eq_false, Bool.not_true, Option.isSome_none, Bool.or_self, Bool.false_eq_true,
    if_false]

end

section
variable (hon : s.dev.power = .on)
include hon

theorem mappingChange_remove (ht : translate s.mem asid va.toNat = some p) (hk : pteKv p = false) (hb : pageBusy s p = false)
    (hs : savePage s p = false) : exec (.mappingChange (.remove asid va)) s = .next (unmapPage s p) := by
  show execMappingChange (.remove asid va) s = _
  simp only [execMappingChange, hon, ht, hk, hb, hs, bne_self_eq_false, Bool.or_self, Bool.false_eq_true, if_false]

theorem mappingChange_insert (hm : mayMap s (allPtes s) p = true) (hb : pageBusy s p = false) (hr : tableRoom s.mem p = true)
    (hs : savePage s p = false) (hn : ∀ z ∈ allPtes s, ¬ (pteAsid z = pteAsid p ∧ pteTag z = pteTag p ∧ pteSize z = pteSize p)) :
    exec (.mappingChange (.insert p)) s = .next (installPage (invalidatePage s p) p) := by
  have hnone : (allPtes s).find? (fun z => pteAsid z == pteAsid p && pteTag z == pteTag p && pteSize z == pteSize p) = none :=
    List.find?_eq_none.2 fun z hz => by simpa [and_assoc] using hn z hz
  show execMappingChange (.insert p) s = _
  simp only [execMappingChange, hon, logMalformed_ok (pteOk_of_mayMap hm), hnone, hs, mapPage_installs hm hb hr, bne_self_eq_false,
    Bool.false_eq_true, if_false]

theorem mappingChange_change
    (hf : ((allPtes s).find? fun z => pteAsid z == pteAsid p && pteTag z == pteTag p && pteSize z == pteSize p) = some q)
    (hk : pteKv q = false) (hb : pageBusy s q = false) (hs : savePage s q = false) (hm : mayMap s ((allPtes s).filter (· != q)) p = true) :
    exec (.mappingChange (.insert p)) s = .next (changePage s q p) := by
  show execMappingChange (.insert p) s = _
  simp only [execMappingChange, hon, logMalformed_ok (pteOk_of_mayMap hm), hf, hk, hb, hs, hm, bne_self_eq_false, Bool.not_true, Bool.or_self,
    Bool.false_eq_true, if_false]

theorem mappingChange_advance {c w : Nat} {y : PWay} (h : findWay s.mem c w = some y) :
    exec (.mappingChange (.advance c w)) s = .next (advanceWay s y) := by
  show execMappingChange (.advance c w) s = _
  simp only [execMappingChange, hon, h, bne_self_eq_false, Bool.false_eq_true, if_false]

theorem mappingChange_beginResize {c w n : Nat} (h0 : 0 < n) (h32 : n ≤ 32) : ∃ t, exec (.mappingChange (.beginResize c w n)) s = .next t ∧
    t = { s with mem := { s.mem with ways := t.mem.ways } } ∧ t.mem.ways.length = s.mem.ways.length ∧
    ∀ (k : Nat) (a : PWay), s.mem.ways[k]? = some a → t.mem.ways[k]? = some
      (if a.c = c ∧ a.w = w ∧ a.mNew = none then { a with mNew := some n, cursor := 0 } else a) := by
  refine ⟨{ s with mem := { s.mem with
      ways := updateWhere (fun y => y.c == c && y.w == w && y.mNew.isNone && decide (0 < n ∧ n ≤ 32))
        (fun y => { y with mNew := some n, cursor := 0 }) s.mem.ways } }, ?_, rfl, List.length_map _, fun k a hk => ?_⟩
  · show execMappingChange (.beginResize c w n) s = _
    simp only [execMappingChange, hon, bne_self_eq_false, Bool.false_eq_true, if_false]
  · show (List.map _ _)[k]? = _
    simp [hk, h0, h32, and_assoc]

end

end

/-! ### Access tables, violation logs, scrubs (R229, R385, R387, R405) -/

section
variable {s : State}

/-- After `setAcc`, no page attributes are left that an entry which comes covers (R228). -/
theorem setAcc_pac {gone : AccEntry → Bool} {new : List AccEntry} {a : AccEntry} (ha : a ∈ new) {x : PacEntry}
    (hx : x ∈ (setAcc s gone new).mem.pac) : pacMeets a.target a.word x = false := by
  have hmeets := (List.mem_filter.1 hx).2
  rw [Bool.not_eq_true', List.any_eq_false] at hmeets
  exact Bool.eq_false_iff.2 (hmeets a (List.mem_append_right _ ha))

/-- The entries of the other masters, targets and places, of which the table's room is counted. -/
theorem accRoom_eq (s : State) (target idx : Nat) (w : Quad) : accRoom s target idx w =
    decide (((s.rel.acc.filter fun e => !(e.target == target && e.idx == idx)).filter fun e =>
      e.target == target && e.word.getLsbD 0 && accMaster e.word == accMaster w).length < 64) := by
  have hkeep : ∀ e : AccEntry, (e.target == target && e.idx != idx && e.word.getLsbD 0 && accMaster e.word == accMaster w) =
      ((e.target == target && e.word.getLsbD 0 && accMaster e.word == accMaster w) && !(e.target == target && e.idx == idx)) := fun e => by
    rw [bne]
    cases e.target == target <;> cases e.idx == idx <;> simp
  rw [accRoom, List.filter_filter]
  simp only [hkeep]

theorem accessTableWrite_sets {target idx : Nat} {entry : Quad} (hon : s.dev.power = .on)
    (hk : ((entry &&& accMask).extractLsb' 8 3).toNat < 4)
    (hr : (entry &&& accMask).getLsbD 0 = true → accRoom s target idx (entry &&& accMask) = true) :
    exec (.accessTableWrite target idx entry) s = .next
      (setAcc s (fun e => e.target == target && e.idx == idx) [{ target := target, idx := idx, word := entry &&& accMask }]) := by
  have hroom : ((entry &&& accMask).getLsbD 0 && !accRoom s target idx (entry &&& accMask)) = false := by
    cases hb : (entry &&& accMask).getLsbD 0 with
    | false => rfl
    | true => rw [hr hb]; rfl
  show execAccessTableWrite target idx entry s = _
  simp only [execAccessTableWrite, hon, hroom, Nat.not_le.2 hk, bne_self_eq_false, decide_false, Bool.or_self, Bool.false_eq_true, if_false]

theorem violationDrain_records {target : Nat} {v : Violation} {rest : List Violation} (hon : s.dev.power = .on)
    (hv : s.rel.viol.filter (fun v => v.target == target) = v :: rest) : exec (.violationDrain target) s = .next
      (rest.foldl (fun s v => writeRecord s (accessRcd v 0)) (writeRecord { s with rel := { s.rel with
        viol := s.rel.viol.filter fun v => v.target != target, violLost := s.rel.violLost.filter fun e => e.1 != target } }
        (accessRcd v (((s.rel.violLost.find? fun e => e.1 == target).map Prod.snd).getD 0)))) := by
  show execViolationDrain target s = _
  simp only [execViolationDrain, hon, hv, bne_self_eq_false, Bool.false_eq_true, if_false]

/-- What a scrub does about one error that it finds (R229, R405). -/
def scrubOne (stack : Nat) (s : State) (e : Nat × Bool) : State :=
  let s := noteErr s (busOf stack e.1) (if e.2 then .uncorrectable else .corrected)
  if e.2 then
    let s := { s with mem := { s.mem with poison := addOnce ((stack * 2 ^ 40 + e.1 % 2 ^ 40) / 32) s.mem.poison } }
    uncorrected s (0x0A, stack)
  else countError s (0x0A, stack) 0xFFFF (stack / 2)

theorem hbmScrub_scrubs {stack : Nat} {errs : List (Nat × Bool)} (hr : running s = true) (hs : stack < 8)
    (hc : unitClamped s (0x0A, stack) = false) : exec (.hbmScrub stack errs) s = .next (errs.foldl (scrubOne stack) s) := by
  show execHbmScrub stack errs s = _
  simp only [execHbmScrub, hr, hc, Nat.not_le.2 hs, Bool.not_true, decide_false, Bool.or_self, Bool.false_eq_true, if_false]
  rfl

/-! ### Snapshots (R388) -/

theorem snapshotCopy_copies {lid : Nat} {va : DWord} {f : Flight} {p : Quad}
    (hf : (s.mem.flight.find? fun f => (launchOfGroup s (findGroup s f.gid)).id == lid && !isFar f.va && granuleOf f.va == granuleOf va.toNat) =
      some f) (hp : translate s.mem f.asid f.va = some p) (hw : pteW p = true) :
    exec (.snapshotCopy lid va) s = .next (snapGranule s lid (pteAsid p) va.toNat) := by
  show execSnapshotCopy lid va s = _
  simp only [execSnapshotCopy, hf, Option.bind_some, hp, hw, if_true]

/-! ### The host agent (R337) -/

theorem firstSome_none {β γ : Type} {f : β → Option γ} : ∀ {l : List β}, (∀ x ∈ l, f x = none) → firstSome f l = none
  | [], _ => rfl
  | x :: l, h => by
    rw [firstSome, h x List.mem_cons_self]
    exact firstSome_none fun y hy => h y (List.mem_cons_of_mem _ hy)

section
variable {asid : BitVec 16} {va : DWord} {len : Nat} {bs : List Byte}
  (hr : running s = true) (hh : hostUp s = true) (hc : checkpointHolds s asid = false)
include hr hh hc

/-- The host agent reads what it sees, where the bays are joined to its own. -/
theorem hostAccess_reads
    (hs : ∀ z ∈ linePieces va.toNat len, (∃ p, hostSees s asid z.1 false = .ok p) ∧ homeCut s 256 z.1 = false) :
    exec (.hostAccess asid va len none) s = .next (reply (hostRead s asid (linePieces va.toNat len)).1
      ((chunksOf (ceilDiv len 8) 8 (hostRead s asid (linePieces va.toNat len)).2).map fun b => BitVec.ofNat 64 (ofBytes b))) := by
  have hcut : ((linePieces va.toNat len).any fun x => homeCut s 256 x.1) = false := List.any_eq_false.2 fun z hz => by simp [(hs z hz).2]
  show execHostAccess asid va len none s = _
  simp only [execHostAccess, hr, hh, hc, Bool.not_true, Bool.or_self, Bool.false_eq_true, if_false]
  rw [firstSome_none]
  · simp only [Option.isNone_none, hcut, Bool.and_false, Bool.false_eq_true, if_false]
  · intro z hz
    obtain ⟨⟨p, hp⟩, -⟩ := hs z hz
    simp only [Option.isSome_none, hp]

theorem hostAccess_writes
    (hs : ∀ z ∈ linePieces va.toNat bs.length, (∃ p, hostSees s asid z.1 true = .ok p) ∧ homeCut s 256 z.1 = false) :
    ∃ t, exec (.hostAccess asid va len (some bs)) s = .next t ∧
      t.mem = (hostWrite s asid va.toNat bs (linePieces va.toNat bs.length)).1.mem := by
  have hcut : ((linePieces va.toNat bs.length).any fun x => homeCut s 256 x.1) = false :=
    List.any_eq_false.2 fun z hz => by simp [(hs z hz).2]
  let r := hostWrite s asid va.toNat bs (linePieces va.toNat bs.length)
  refine ⟨{ r.1 with rel := giveAnswers { r.1.rel with held := r.1.rel.held ++ [(r.2, [BitVec.ofNat 64 r.2])] } r.1.gt }, ?_, rfl⟩
  show execHostAccess asid va len (some bs) s = _
  simp only [execHostAccess, hr, hh, hc, Bool.not_true, Bool.or_self, Bool.false_eq_true, if_false]
  rw [firstSome_none]
  · simp only [Option.isNone_none, hcut, Bool.and_false, Bool.false_eq_true, if_false]
    rfl
  · intro z hz
    obtain ⟨⟨p, hp⟩, -⟩ := hs z hz
    simp only [Option.isSome_some, hp]

end

/-! ### Unified ranges (R336, R338) -/

section
variable {asid : BitVec 16} {base : DWord} {size : Nat}

theorem blindToWrites_uranges : BlindToWrites fun s : State => s.fab.uranges :=
  ⟨⟨fun _ _ => rfl, fun _ _ => rfl⟩, fun _ _ => rfl, fun _ _ => rfl, fun _ _ => rfl, fun _ _ => rfl, fun _ _ => rfl⟩

/-- The ranges of a table but those that begin at an address. -/
def otherRanges (s : State) (asid : BitVec 16) (b : Nat) : List URange := s.fab.uranges.filter fun r => !(r.asid == asid && r.base == b)

/-- How far a change of a range reaches: over the old range and the new one. -/
def rangeSpan (s : State) (asid : BitVec 16) (b size : Nat) : Nat :=
  (s.fab.uranges.filter fun r => r.asid == asid && r.base == b).foldl (fun n r => max n r.size) size

variable {b : Nat} (hbase : base.toNat % 2 ^ 57 = b) (hon : s.dev.power = .on)
  (hb : rangeBusy s asid b (rangeSpan s asid b size) = false) (hc : checkpointHolds s asid = false)
include hbase hon hb hc

theorem unifiedRangeChange_removes : ∃ t, exec (.unifiedRangeChange asid base size none) s = .next t ∧
    t.fab.uranges = otherRanges s asid b ∧
    ∀ z ∈ t.mem.l1, asidsMeet z.asid asid = true →
      lineInRange 128 z.line b (rangeSpan s asid b size) = false := by
  let u := purgeRange s asid b (rangeSpan s asid b size)
  refine ⟨{ u with fab := { u.fab with uranges := otherRanges s asid b } }, ?_, rfl, fun z hz hm => ?_⟩
  · show execUnifiedRangeChange asid base size none s = _
    rw [rangeSpan] at hb
    simp only [execUnifiedRangeChange, hbase, hon, hb, hc, bne_self_eq_false, Bool.or_self, Bool.false_eq_true, if_false]
    rfl
  · have hstay := (List.mem_filter.1 hz).2
    rw [hm, Bool.true_and, Bool.not_eq_true'] at hstay
    exact hstay

theorem unifiedRangeChange_installs {w : Bool} (h0 : 0 < size) (hs : size % 4096 = 0) (hp : b % 4096 = 0)
    (h5 : placement b ≠ 5)
    (ho : ∀ z ∈ otherRanges s asid b, asidsMeet z.asid asid = true →
      rangesOverlap z { asid := asid, base := b, size := size, writable := w } = false) :
    ∃ t, exec (.unifiedRangeChange asid base size (some w)) s = .next t ∧ t.fab.uranges =
      otherRanges s asid b ++ [{ asid := asid, base := b, size := size, writable := w }] := by
  let r : URange := { asid := asid, base := b, size := size, writable := w }
  let u := purgeRange s asid b (rangeSpan s asid b size)
  have hclear : ((otherRanges s asid b).any fun x => rangesOverlap x r && asidsMeet x.asid asid) = false := by
    refine List.any_eq_false.2 fun z hz hmeet => ?_
    rw [Bool.and_eq_true] at hmeet
    exact absurd hmeet.1 (Bool.eq_false_iff.1 (ho z hz hmeet.2))
  refine ⟨answerRange { u with fab := { u.fab with uranges := otherRanges s asid b ++ [r] } } r, ?_,
    blindToWrites_uranges.answerRange ..⟩
  show execUnifiedRangeChange asid base size (some w) s = _
  rw [rangeSpan] at hb
  rw [otherRanges] at hclear
  simp only [execUnifiedRangeChange, hbase, hon, hb, hc, bne_self_eq_false, Bool.or_self, Bool.false_eq_true, if_false]
  refine if_neg ?_
  rw [hclear]
  simp [h0.ne', hs, hp, h5]

end

end

/-- Settles O55: the controller's answers case by case, and each event by its lemma. -/
theorem blockStoreAndMemoryEventsComplete : Obligations.BlockStoreAndMemoryEventsComplete := by
  unfold Obligations.BlockStoreAndMemoryEventsComplete
  refine ⟨?blockStore, ?events⟩
  case blockStore =>
    intro s u x gid n pfn q e b asid va t word first second low triple sends replies tells named made grown shared there
    refine ⟨⟨kvBody_idle rfl, kvBody_sends (i := .kvalloc x) (op := 0xA8) (two := false) rfl⟩,
      ⟨kvBody_idle rfl, kvBody_sends (i := .kvget x) (op := 0xA9) (two := false) rfl⟩,
      ⟨kvBody_idle rfl, kvBody_sends (i := .kvshare x) (op := 0xAA) (two := true) rfl⟩,
      ⟨kvBody_idle rfl, kvBody_sends (i := .kvfree x) (op := 0xAB) (two := false) rfl⟩, fun hq hm hc hb hl hlo hhi => ?reply,
      fun hn hs hw hi => ⟨blockCopyOnWrite_copies hn hs hw hi, blockCopyOnWrite_discards hn hs hw hi⟩⟩
    have hgo : ∀ {a : KvAnswer}, kvAct t q = a → exec (.kvReply gid n) s = .next (kvWrite q a t) := fun ha =>
      (kvReply_writes rfl hq hlo hhi hm hc hb).trans (congrArg (fun a => Host.Outcome.next (kvWrite q a t)) ha)
    have htell : ∀ {v : State} {c : Nat}, kvAct t q = .status c v → tells v c := fun ha => hgo ha
    have h1 : (requestNames q).1 = first := firstTriple_eq (by rw [hl]; split <;> omega)
    have h2 : q.op = 0xAA → (requestNames q).2 = second := fun hop => secondTriple_eq (hl.trans (if_pos hop))
    have halloc : q.op = 0xA8 → kvAct t q = kvCreate t t.asid first := fun hop => (kvAct_alloc hop).trans (by rw [h1])
    have hget : q.op = 0xA9 → kvAct t q = kvLookup t t.asid first := fun hop => (kvAct_get hop).trans (by rw [h1])
    have hshare : q.op = 0xAA → kvAct t q = kvSecond t t.asid first second := fun hop => (kvAct_share hop).trans (by rw [h1, h2 hop])
    have hfree : q.op = 0xAB → kvAct t q = kvRemove t t.asid first := fun hop => (kvAct_free hop).trans (by rw [h1])
    have hops : q.op = 0xA8 ∨ q.op = 0xA9 ∨ q.op = 0xAA ∨ q.op = 0xAB := by omega
    refine ⟨fun hbad => htell ?_, fun hlow hlow2 => ?_⟩
    · rcases hbad with hbad | ⟨hop, hbad⟩
      · have hlayer := badLayer_iff.2 hbad
        rcases hops with hop | hop | hop | hop
        · exact (halloc hop).trans (kvCreate_badLayer hlayer)
        · exact (hget hop).trans (kvLookup_badLayer hlayer)
        · exact (hshare hop).trans (kvSecond_badLayer (.inl hlayer))
        · exact (hfree hop).trans (kvRemove_badLayer hlayer)
      · exact (hshare hop).trans (kvSecond_badLayer (.inr (badLayer_iff.2 hbad)))
    · have hlayer : badLayer first = false := badLayer_false hlow
      have hlayer2 : q.op = 0xAA → badLayer second = false := fun hop => badLayer_false (hlow2 hop)
      refine ⟨fun hop hnone => htell ?_, fun hop hthere => htell ((halloc hop).trans (kvCreate_exists hlayer hthere.1)),
        fun hop hnone hpool => htell ((halloc hop).trans (kvCreate_full hlayer hnone hpool)),
        fun hop hnone hpool hframes => htell ((halloc hop).trans (kvCreate_new hlayer rfl hnone hpool hframes)),
        fun hop hthere hev => htell ?_, fun hop hthere hev => hgo (a := .found e.va) ?_, fun hop hthere hev hsome => htell ?_,
        fun hop hthere hev hnone hidle => htell ?_, fun hop hthere hidle => htell ((hfree hop).trans (kvRemove_idle hlayer hthere.1 hidle))⟩
      · rcases hops with h | hop | hop | hop
        · exact absurd h hop
        · exact (hget hop).trans (kvLookup_missing hlayer hnone)
        · exact (hshare hop).trans (kvSecond_missing hlayer (hlayer2 hop) hnone)
        · exact (hfree hop).trans (kvRemove_missing hlayer hnone)
      · rcases hop with hop | hop
        · exact (hget hop).trans ((kvLookup_there hlayer hthere.1 hthere.2).trans (if_pos hev))
        · exact (hshare hop).trans ((kvSecond_there hlayer (hlayer2 hop) hthere.1 hthere.2).trans (if_pos hev))
      · exact (hget hop).trans ((kvLookup_there hlayer hthere.1 hthere.2).trans (if_neg (Bool.eq_false_iff.1 hev)))
      · exact (hshare hop).trans ((kvSecond_there hlayer (hlayer2 hop) hthere.1 hthere.2).trans
          ((if_neg (Bool.eq_false_iff.1 hev)).trans (if_pos hsome)))
      · exact (hshare hop).trans ((kvSecond_there hlayer (hlayer2 hop) hthere.1 hthere.2).trans
          ((if_neg (Bool.eq_false_iff.1 hev)).trans ((if_neg (by rw [hnone]; decide)).trans (if_pos hidle))))
  case events =>
    intro s core n c w size lid stack at_ target idx len asid va base p q entry g f y viol rest bs level page line fetches keeps at_line wanted
      maps same i others served sees on bus lost drained b ranges span free
    refine ⟨fun hc hn hp => ⟨fetchLine_alone hc hn hp, fetchLine_forGroup hc hn hp⟩, homeRead_serves, sectorUnpin_unpins, pacFill_fills, ?eviction, 
      fun hon hw hu => ⟨fun hin hfor hmap => pageMapReply_maps hw hon hu hin hfor hmap.1 hmap.2.1 hmap.2.2, pageMapReply_declines hw hon hu⟩,
      mappingChange_remove, fun hon hmap hs hn => mappingChange_insert hon hmap.1 hmap.2.1 hmap.2.2 hs hn,
      fun hon hf hk hb hs hm => mappingChange_change hon hf hk hb hs hm,
      fun hon hf => mappingChange_advance hon hf, fun hon h0 h32 => mappingChange_beginResize hon h0 h32,
      fun hon hk hr => ?access, violationDrain_records, fun hr hs hc => ?scrub,
      snapshotCopy_copies, fun ⟨hr, hh, hc⟩ hs => ⟨_, hostAccess_reads hr hh hc hs, rfl⟩,
      fun ⟨hr, hh, hc⟩ hs => hostAccess_writes hr hh hc hs,
      fun ⟨hon, hb, hc⟩ => unifiedRangeChange_removes rfl hon hb hc,
      fun wr ⟨hon, hb, hc⟩ h0 hs hp h5 ho => unifiedRangeChange_installs rfl hon hb hc h0 hs hp h5 ho⟩
    case eviction =>
      cases level with
      | l1 =>
        obtain ⟨t, ht, hpins⟩ := lineEviction_l1 (s := s) (core := core) (asid := asid) (va := va)
        exact ⟨t, ht, fun _ => hpins, nofun, nofun⟩
      | cluster =>
        obtain ⟨t, ht, hcc⟩ := lineEviction_cluster (s := s) (core := core) (asid := asid) (va := va)
        exact ⟨t, ht, nofun, fun _ => hcc, nofun⟩
      | code =>
        obtain ⟨t, ht, hlines⟩ := lineEviction_code (s := s) (core := core) (asid := asid) (va := va)
        exact ⟨t, ht, nofun, nofun, fun _ => hlines⟩
    case access =>
      exact ⟨_, accessTableWrite_sets hon hk fun h => (accRoom_eq ..).trans (decide_eq_true (hr h)), rfl, rfl,
        fun e he => setAcc_pac (List.mem_singleton_self _) he⟩
    case scrub =>
      exact ⟨hbmScrub_scrubs hr hs hc, hbmScrub_scrubs hr hs hc, hbmScrub_scrubs hr hs hc⟩

end Sys2Proof.Machine
end
